-- ==== Sys2Proof/Word.lean ====
section
/-! DEFINITION. The word types of the KW48 model and the two shapes in which it holds sparse data. -/

namespace Sys2Proof

/-- One byte of a store, of host memory or of a descriptor. -/
abbrev Byte := BitVec 8

/-- A 64-bit register, scalar, flag word or bus word. -/
abbrev Word := BitVec 64

/-- One FP32 lane, as its binary32 code (R74). -/
abbrev F32 := BitVec 32

/-- One 256-bit line of the fabric (R145). -/
abbrev Line := BitVec 256

/-- A vector register: 32 FP32 lanes, lane `i` in bits `[32i+31:32i]` (R49). -/
abbrev VReg := BitVec 1024

/-- A sparse table: keys strictly rising, and no entry equal to what an absent key reads as. -/
abbrev Tab (α : Type) := List (Nat × α)

end Sys2Proof
end

