-- ==== Sys2Proof/Syntax.lean ====
section
/-! DEFINITION. The commands of the KW48 engine: one constructor of `Instr` for each row of
spec/opcode_table.json, with the operands that come from outside the step. The table gives no bits,
so the operands are the model's choice (log entry 2). -/

namespace Sys2Proof

/-- An error that the SECDED check of a word or flit meets (R59, R149). -/
inductive EccErr where
  | none | single | double
  deriving DecidableEq, Repr

/-- The types of Table 6.2 (R148). -/
inductive FlitType where
  | write | writeWord | read | readData | ack | nack | grant | ctrl | ctrlResp | fault | beat
  deriving DecidableEq, Repr

/-- A flit: the head fields of Table 6.1 and the 256-bit line (R147). `arg` is the raw field
`[127:117]`. The response address of a READ_DATA, ACK or NACK is `dst`. -/
structure Flit where
  dst : Nat
  srcY : Nat
  srcX : Nat
  srcEngine : Nat
  type : FlitType
  vc : Nat
  ext : Bool
  bolt : Nat
  phase : Bool
  wp : Option (Nat × Nat)
  credited : Bool
  creditId : Nat
  ch : Nat
  last : Bool
  arg : Nat
  line : Line
  deriving DecidableEq, Repr

/-- A fault message of Table 16.1, with the forced flag of line bit [64] (R377). -/
structure FaultMsg where
  source : Nat
  kind : Nat
  severity : Nat
  detail : Nat
  forced : Bool
  deriving DecidableEq, Repr

/-- The registers that the harness rewrites from its own copies after a complement mismatch
(R130, R159, R335, R337, R347). -/
inductive RewriteTarget where
  | allowance (skein : Nat)
  | router (core idx : Nat)
  | spanRoute (e : Nat)
  | spanPeer (f : Nat)
  | voltage (skein : Nat)
  deriving DecidableEq, Repr

/-- What a host read that ended in an error was for (R283): a submission entry, a shard, the inputs of a request, or a
table or block that the descriptor at the head of a ring names. -/
inductive DmaRead where
  | submission (q : Nat)
  | shard (bolt shard : Nat)
  | request (idx : Nat)
  | block (q : Nat) (d : BitVec 1024)
  deriving DecidableEq, Repr

/-- The spaces of a PCIe function that the host reads and writes (Table 10.2, R260): its BARs, and the configuration space. -/
inductive Space where
  | bar0 | bar2 | bar4 | config
  deriving DecidableEq, Repr

/-- A byte offset in a space of a function. -/
structure FuncAddr where
  space : Space
  off : Nat
  deriving DecidableEq, Repr

/-- A PCIe port that has trained, with its lanes. -/
structure PortTraining where
  port : Nat
  lanes : Nat
  deriving DecidableEq, Repr

/-- What the engine reads from host memory for a TUNE_ADAPTER: the job block, and the examples at its `data_addr` (R308). -/
structure TuneJob where
  block : BitVec 512
  examples : List Byte
  deriving DecidableEq, Repr

/-- Who writes a COMMIT register of a BAR0 group: a PCIe function or a harness core (R379, R429). -/
inductive Writer where
  | host (f : Nat)
  | harness (h : Nat)
  deriving DecidableEq, Repr

/-- A reduction tree that an image declares: leaves by number, lower half first. -/
inductive SumTree where
  | leaf (i : Nat)
  | node (a b : SumTree)
  deriving DecidableEq, Repr

/-- 32 weights of a beam row column, with their format tag and scale code. -/
structure WBlock where
  tag : Nat
  scale : BitVec 8
  codes : List (BitVec 16)
  deriving DecidableEq, Repr

/-- The correction factors of a matrix (R180): format tag (10 BF16, 6 E4M3), the rows of V′ by segment, the rows of U by block
of t, and the declared tree over the segments. -/
structure Factors where
  tag : Nat
  v : List (List WBlock)
  u : List (List WBlock)
  tree : SumTree
  deriving DecidableEq, Repr

/-- A large product (R19, R181): the rotated input in 32-element segments by core, the weights of each output by core and
segment, the tree over the cores, and the correction. -/
structure Product where
  act : List (List (List F32))
  rows : List (List (List WBlock))
  tree : SumTree
  corr : Option Factors
  deriving DecidableEq, Repr

/-- What one core adds to a layer's output vector: its elements of the residual stream, and the products whose results they
take: none, one, or one for each of a token's two experts (R183, R194). -/
structure CoreOut where
  residual : List F32
  prods : List Product
  deriving DecidableEq, Repr

/-- What the norm watch of a region measures for one token of its unit (R183): the output by core, the tree over the cores,
and the saturation tallies that the cores copied. -/
structure WatchSample where
  cores : List CoreOut
  tree : SumTree
  tallies : List Nat
  deriving DecidableEq, Repr

/-- The router of a mixture layer for one token (R193, R194): the MLP input by core in 32-element segments, the BF16 weights of
each expert by core and segment, the tree over the cores, and the rotation seeds of the input's 256-element vectors. -/
structure RouterInput where
  x : List (List (List F32))
  w : List (List (List (List (BitVec 16))))
  tree : SumTree
  seeds : List (BitVec 32)
  deriving DecidableEq, Repr

/-- The values that a region's program computed for one token before the attention rules apply (R205): query heads, the new key
and value of each KV head, positions that the image's mask excludes (R207), and the router's input in a mixture layer. -/
structure AttnInput where
  /-- Query heads, in order; each a list of d FP32 values. -/
  queries : List (List F32)
  /-- One (key, value) pair for each KV head. -/
  kv : List (List F32 × List F32)
  excluded : List Nat := []
  router : Option RouterInput := none
  deriving DecidableEq, Repr

/-- One row of a tuning step's attention in one layer (R225): its position, forward values, gradient of each query head's
output, and the keys and values of the positions before it by KV head. -/
structure TuneRow where
  pos : Nat
  inp : AttnInput
  grad : List (List F32)
  past : List (List (List F32 × List F32))
  deriving DecidableEq, Repr

/-- A layer in a tuning step (R192): its output gradient by core and the tree over the cores, the gradient tensors that enter
its backward products in 32-element blocks, and its attention rows. -/
structure TuneLayer where
  cores : List (List F32)
  tree : SumTree
  tensors : List (List (List F32))
  rows : List TuneRow
  deriving DecidableEq, Repr

/-- The outcome of a boot step (R411, R412, R413), as the step's work found it. -/
structure BootFindings where
  /-- Step passed its own check: ROM self-check in step 1, image verified in step 2. -/
  romOk : Bool
  headerOk : Bool
  /-- Flash slot tags, `(valid, seq, image bytes)` for slots 0 and 1. -/
  slots : List (Bool × Nat × List Byte)
  deadCores : List Nat
  deadSkeins : List Nat
  lostFields : List Nat
  /-- ports whose training fails, with the channels that failed, one bit each -/
  creelFailed : List (Nat × Nat)
  pcieFailed : List Nat
  hubAbsent : Bool
  /-- The ledger memory's good-core map, as the bad sites. -/
  badSites : List Nat
  deriving DecidableEq, Repr

/-- What the forward and backward passes of a tuning step hand to the rules (R192, R309). -/
structure TuneInput where
  layers : List TuneLayer
  /-- Logits over the vocabulary at each flagged position of the batch, in order. -/
  logits : List (List F32)
  /-- Gradient of each parameter of the adapter, by parameter index. -/
  grads : List F32
  deriving DecidableEq, Repr

/-- The commands: one constructor per row of spec/opcode_table.json, in the table's order. -/
inductive Instr where
  -- core control, monitor and scrub
  | coreCtrlGo (c : Nat) (start : Nat)
  | coreCtrlHalt (c : Nat) (start : Nat)
  | coreCtrlScrub (c : Nat) (start : Nat)
  | scrubDone (c : Nat)
  | coreCommit (c : Nat)
  | chanStatusClear (c ch : Nat)
  | chanStatusResume (c ch : Nat)
  | heartbeat (c : Nat)
  | heartbeatWindowExpiry (c : Nat)
  | arbitrationYield (c store : Nat)
  | patrolScrubRead (c row : Nat)
  | scrubWriteBack (c row : Nat)
  | budgetClamp (c : Nat)
  -- slot A: the core takes one island cycle, in which the named operation stands in slot A
  | nopa (c : Nat)
  | tmac (c : Nat)
  | tscl (c : Nat)
  | tdrn (c : Nat)
  | rot256 (c : Nat)
  | qnt (c : Nat)
  | vadd (c : Nat)
  | vsub (c : Nat)
  | vmul (c : Nat)
  | vfma (c : Nat)
  | vmax (c : Nat)
  | vmin (c : Nat)
  | vscl (c : Nat)
  | vcvt (c : Nat)
  | vhsum (c : Nat)
  | vhmax (c : Nat)
  | vbcl (c : Nat)
  | vmask (c : Nat)
  | vexp2 (c : Nat)
  | vlog2 (c : Nat)
  | vrcp (c : Nat)
  | vrsq (c : Nat)
  -- slot B: the core takes one island cycle, in which the named operation stands in slot B
  | nopb (c : Nat)
  | shut (c : Nat)
  | ldv (c : Nat)
  | stv (c : Nat)
  | vldw (c : Nat)
  | ldb (c : Nat)
  | lds (c : Nat)
  | sts (c : Nat)
  | add (c : Nat)
  | sub (c : Nat)
  | and (c : Nat)
  | or (c : Nat)
  | xor (c : Nat)
  | shl (c : Nat)
  | shr (c : Nat)
  | sar (c : Nat)
  | slt (c : Nat)
  | sltu (c : Nat)
  | seq (c : Nat)
  | mul (c : Nat)
  | addi (c : Nat)
  | lih (c : Nat)
  | movv (c : Nat)
  | movgf (c : Nat)
  | br (c : Nat)
  | bz (c : Nat)
  | bnz (c : Nat)
  | blt (c : Nat)
  | loop (c : Nat)
  | waitf (c : Nat)
  | waitc (c : Nat)
  | waitq (c : Nat)
  | waitEnd (c cycles : Nat)
  | shuttleQueueFree (c cycles : Nat)
  | pick (c : Nat)
  | tdecl (c : Nat)
  | rstep (c : Nat)
  | halt (c : Nat)
  -- the shuttle
  | reductionStep (c ch : Nat)
  | copy (c ch : Nat)
  | gather (c ch : Nat)
  | scatter (c ch : Nat)
  | pagewalk (c ch : Nat)
  | fill (c ch : Nat)
  | grant (c ch : Nat)
  | grantRecordFree (c ch : Nat)
  | creditedLineSend (c ch : Nat)
  -- the fabric
  | routeFlit (f : Flit) (x y port : Nat) (err : EccErr)
  | write (f : Flit)
  | writeWord (f : Flit)
  | read (f : Flit)
  | readData (f : Flit)
  | ack (f : Flit)
  | nack (f : Flit)
  | grantFlit (f : Flit)
  | ctrl (f : Flit)
  | ctrlResp (f : Flit)
  | beat (f : Flit)
  | ackTimerExpiry (c src ch : Nat)
  | rtCommit (c : Nat)
  | harnessRewrite (t : RewriteTarget)
  | probeTimeout (c : Nat)
  -- pause, replay and regions
  | drainComplete (b : Nat)
  | boltResume (b : Nat)
  | watchdogCheck
  | requestWord (h : Nat)
  | fetchRequest (h : Nat)
  | chainReport (h : Nat)
  | regionTakeUnit (b region : Nat) (inp : List AttnInput)
  | unitHandOut (b region : Nat)
  | layerVerdict (b region : Nat) (m : WatchSample)
  | bobbinFlush (b region slot : Nat)
  | watchRingPoll (h : Nat)
  | tokenDraw (b slot : Nat) (logits : List (Nat × F32))
  | tokenAccept (b slot : Nat)
  | turnWritten (idx : Nat)
  -- bolts, packages, epochs, adapters
  | boltCreate (q : Nat) (d : BitVec 1024)
  | boltDestroy (q : Nat) (d : BitVec 1024)
  | scrub (q : Nat) (d : BitVec 1024)
  | loadModel (q : Nat) (d : BitVec 1024) (manifest : List Byte) (chain : List Word)
  | shardArrival (b shard : Nat) (bytes : List Byte)
  | shardAttemptTimeout (b shard : Nat)
  | placementDone (b : Nat)
  | epochCommit (b : Nat)
  | epochCommitTimeout (b pos : Nat)
  | unloadModel (q : Nat) (d : BitVec 1024)
  | switchEpoch (q : Nat) (d : BitVec 1024)
  | epochFree (b : Nat)
  | loadAdapter (q : Nat) (d : BitVec 1024) (manifest : List Byte)
  | evictAdapter (q : Nat) (d : BitVec 1024)
  | evictAdapterDone (slot : Nat)
  | tuneAdapter (q : Nat) (d : BitVec 1024) (job : TuneJob)
  | tuneStep (b : Nat) (inp : TuneInput)
  | mirrorPatrol (b : Nat)
  -- requests
  | generate (q : Nat) (d : BitVec 1024)
  | cont (q : Nat) (d : BitVec 1024)
  | pause (q : Nat) (d : BitVec 1024)
  | cancel (q : Nat) (d : BitVec 1024)
  | queryReq (q : Nat) (d : BitVec 1024)
  | nop (q : Nat) (d : BitVec 1024)
  | inputsRead (idx : Nat) (prompt : List Byte) (sampling : List Byte) (grammar : List Byte)
  | admissionDecision (b : Nat)
  | slotRanking (b : Nat)
  | ttlCheck
  | parkComplete (idx : Nat)
  -- the host interface
  | sqTail (f q : Nat) (t : BitVec 32)
  | cqHead (f q : Nat) (h : BitVec 32)
  | barrierRelease (q : Nat)
  | qpCommit (f q : Nat)
  | qpQuiesced (q : Nat)
  | irqModerationTick
  | flr (f : Nat)
  | pcieLinkDown (port : Nat)
  | dmaReadError (r : DmaRead) (status : Nat)
  | writesResume (f : Nat)
  -- the mailbox
  | readLedger (seq : Nat)
  | readFaults (seq first maxCount : Nat)
  | readCoreMap (seq which : Nat)
  | fwStage (seq offset len : Nat)
  | fwActivate (seq len action : Nat)
  | flashWriteDone (readBackOk : Bool)
  -- creel
  | creelRefresh (p ch bank : Nat)
  | mr4Read (p ch code : Nat)
  | creelPatrol (p block : Nat)
  | creelLineRewrite (p line : Nat)
  | creelPortRetire (p : Nat)
  | blockZeroDone (p block : Nat)
  -- Aumen links and the span
  | idleFlit (l lane : Nat) (raw : BitVec 2048) (fecOk : Bool)
  | slotFlit (l lane : Nat) (raw : BitVec 2048) (fecOk : Bool)
  | runFlit (l lane : Nat) (raw : BitVec 2048) (fecOk : Bool)
  | ident (l lane : Nat) (raw : BitVec 2048)
  | identSend (l lane : Nat)
  | credit (l lane : Nat) (raw : BitVec 2048)
  | harness (l lane : Nat) (raw : BitVec 2048)
  | laneRetrain (l lane : Nat)
  | retrainDone (l lane : Nat)
  | retrainTimeout (l lane : Nat)
  | lnRetrain (f l : Nat)
  | spanCommit (f : Nat)
  | routeSwitch (e : Nat)
  | spanPeerSilence (b : Nat)
  -- Treadle and power
  | telem (f : Nat) (frame : BitVec 72)
  | treadleAck (f : Nat) (frame : BitVec 72)
  | treadleNak (f : Nat) (frame : BitVec 72)
  | treadleStatus (f : Nat) (frame : BitVec 72)
  | treadleFault (f : Nat) (frame : BitVec 72)
  | trdAlert (f : Nat)
  | treadleRetryTimeout (f : Nat)
  | telemStale (f d : Nat)
  | treadleLaneLoss (f : Nat)
  | skeinTurnOnStart (s : Nat)
  | neighbourCap (s : Nat)
  | skeinTurnOnDone (s : Nat)
  | skeinTurnOff (s : Nat)
  | droop (s mv : Nat)
  | undervoltageGate (s mv : Nat)
  | undervoltageRelease (s : Nat)
  | undervoltageTimeout (s : Nat)
  | inputPowerSum
  | pwCommit (w : Writer)
  | powerFail
  -- cooling
  | skeinSensorSample (s : Nat) (a b : Nat)
  | hubRead (acked : Bool) (rec : BitVec 128)
  | coolingClamp
  | coolantStopStep2
  | configCheck
  | thermalTrip (s : Nat)
  | warmKeepEval
  -- faults, counters, ledger
  | fault (m : FaultMsg)
  | collectorTake
  | forceGo (f : Nat)
  | forceSend (source : Nat)
  | beaconAck (f : Nat)
  | aliveKick
  | aliveKickLapse
  | counterWrap (c k : Nat)
  | portCounterWindow (s k : Nat)
  | ctCoreSel (f core : Nat)
  | ctSnapGo (f b : Nat)
  | ledgerWrite (final : Bool) (readBackOk : Bool)
  | cycleTrack
  | anchorCommit (f : Nat)
  | anchorLock (f : Nat)
  -- reset, boot, pins
  | reset
  | boot (straps : Nat)
  | bootStepDone (r : BootFindings)
  | sysclkLoss
  | sysclkRestore
  | pldmFwUpdate (image : List Byte)
  | pldmSensorRead (sensor : Nat)
  | bypass
  | idcode
  | samplePreload (shift : List Bool)
  | extest
  | clamp
  | highz
  -- setup space and the rest
  | registerWrite (f : Nat) (addr : FuncAddr) (size : Nat) (v : BitVec 512)
  | rcRegisterRead (f : Nat) (addr : FuncAddr) (size : Nat)
  | xramCollision (word : Nat) (hostIsRead hostLater : Bool)
  | reservedOpcode (c : Nat)
  | aliveToggle
  | pcieLinkUp (link : PortTraining)
  | msixUnmask (f v : Nat)
  | linkTrainingDone (l : Nat) (lanes : Nat)
  | adapterPlaced (slot : Nat)
  deriving DecidableEq, Repr

end Sys2Proof
end

