-- ==== Sys2Proof/Decode.lean ====
section
/-! DEFINITION. The command that a word spells by the table's bits. spec/opcode_table.json gives no row any bits (every
row's `fields` list is empty), so no word spells a command. -/

namespace Sys2Proof

/-- The words that the table's bits spell, by length in bits: it gives none (log entry 18). -/
def tableWords : List ((Nat × Nat) × Instr) := []

/-- The command of a word, by `tableWords`. -/
def decodeTableWord (nbits w : Nat) : Option Instr :=
  (tableWords.find? fun e => decide (e.1.1 = nbits) && decide (e.1.2 = w)).map fun e => e.2

end Sys2Proof
end

