-- ==== Sys2Proof/Config.lean ====
section
/-! DEFINITION. What the KW48-1 at stepping B1 fixes (the figures of 00_scope.md that the steps use), and the
free values: constants without a body, of which nothing can be proved, for what the spec leaves open. -/

namespace Sys2Proof.Config

/-- Core columns and rows (R4). -/
def columns : Nat := 512
def rows : Nat := 576
/-- Core sites (R5). -/
def nCores : Nat := 294912
/-- Skeins, 64 columns by 72 rows (R4, R5). -/
def skeinColumns : Nat := 64
def skeinRows : Nat := 72
def nSkeins : Nat := 4608
/-- Core fields (R4). -/
def nFields : Nat := 48
/-- Queue pairs and request-table entries (R10). -/
def nQueuePairs : Nat := 1024
def nRequests : Nat := 16384
def nBolts : Nat := 8
def nFunctions : Nat := 32
def nLinks : Nat := 36
def nPorts : Nat := 32
def nHarness : Nat := 16
/-- Stream slots of all bolts together (R22). -/
def maxSlots : Nat := 512
/-- Usable blocks of a creel port, block size, and the SYSTEM blocks of each port (R313, R320). -/
def creelBlocks : Nat := 5543
def creelBlockBytes : Nat := 4194304
def systemBlocks : Nat := 128
/-- Position limit of a sequence (R10). -/
def maxContext : Nat := 1048576

/-- Heavy budget H of Table 5.2 and Table 15.1, by configuration code (0 liquid, 1 air, 3 bench). -/
def heavyBudget (config : Nat) : Nat :=
  if config = 0 then 1904640 else if config = 1 then 184320 else 102400

/-- Input limit in W of Table 15.1. -/
def inputLimit (config : Nat) : Nat :=
  if config = 0 then 32000 else if config = 1 then 6000 else 4000

/-- The values that this manual does not print (R423, R417, R409): FREE. -/
opaque vendorId : BitVec 16
opaque moduleSerial : Word
opaque jep106 : BitVec 11
opaque svnMin : BitVec 16
/-- SHA-384 of Praselia's public key, held in the boot ROM (R409): FREE. -/
opaque bootKeyHash : BitVec 384

/-- An undefined word, by a counter of the state (R279 and what else the spec leaves open): FREE. -/
opaque freeWord : Nat → Word
/-- An open yes or no, by a counter of the state (R431): FREE. -/
opaque freeBit : Nat → Bool
/-- What the critical-path replica of a core passes above the guarantee of Table 2.2 (R36), by core, VCORE in half millivolts
and temperature code: FREE, in units of 6.25 MHz / 5,600. -/
opaque replicaMargin : Nat → Nat → Nat → Nat

/-- The softmax of a logit vector at an index, in FP32 (R309 gives no order of its operations): FREE. -/
opaque lossSoftmax : List F32 → Nat → F32

/-- The number that keys stochastic rounding on a core that holds no virtual core (R82 names only placed cores): FREE. -/
opaque unplacedVirt : Nat → Nat

/-- The watch constants ρ and Q_L that a loom image fixes in its code (R183), by manifest hash and region: FREE. -/
opaque jumpRatio : BitVec 384 → Nat → BitVec 32
opaque layerElements : BitVec 384 → Nat → Nat

/-- The core number of a virtual core of another engine of the span, by engine, region and region-local index, as that
engine's loader placed it (R138): FREE. -/
opaque remoteSite : Nat → Nat → Nat → Nat

/-- The beam row of a lane core in which the image keeps bobbin entries (R201 leaves their layout to the image), by manifest
hash, region, region-local index and row: the slot + 1, or 0: FREE. -/
opaque bobbinRow : BitVec 384 → Nat → Nat → Nat → Nat

end Sys2Proof.Config
end

