-- ==== Sys2Proof/Machine/State.lean ====
section
/-! DEFINITION. The state of one KW48 engine as plain data, the reasons a step can stop, and the state after reset.
Each field's docstring ends in `[width; file and rule; reset]`. Sparse parts are `Tab`s: an absent key reads as the
record that the part's accessor in Machine/Ops.lean names (its `…reset`). -/

namespace Sys2Proof.Machine

open Sys2Proof

/-- Why the engine stops with a fault. -/
inductive Fault where
  /-- Raised by every meaning whose command names a core, skein, link, port, queue pair, bolt or other unit that the
  engine does not have (R4, R5, R10). Safe: the part has no such unit. -/
  | noSuchUnit
  deriving DecidableEq, Repr

/-- Why a command has no meaning. -/
inductive Refusal where
  /-- Raised by an arm of `exec` that has no meaning yet. Safe. -/
  | notModelled (mnemonic : String)
  deriving DecidableEq, Repr

/-! ## The core (02_core.md, 04_bundles.md) -/

/-- Core states of Table 2.3 (R40). -/
inductive CoreSt where
  | off | idle | run | wait | frozen | scrubbing | fenced | dead
  deriving DecidableEq, Repr

/-- Channel states of Table 2.18 (R67). -/
inductive ChanSt where
  | idle | active | miss | error
  deriving DecidableEq, Repr

/-- An entry of the operand file (R43): tag, block scale, and 32 element codes of up to 16 bits,
element `e` in bits `[16e+15:16e]`. -/
structure OpEntry where
  tag : BitVec 4 := 0
  scale : BitVec 8 := 0
  elems : BitVec 512 := 0
  deriving DecidableEq, Repr

/-- An accumulator group (R44): mode, sticky flag, 16 lanes of 32 bits. -/
structure AccGroup where
  imode : Bool := false
  sticky : Bool := false
  lanes : BitVec 512 := 0
  deriving DecidableEq, Repr

/-- An active hardware loop (R115). -/
structure LoopRec where
  first : Nat := 0
  last : Nat := 0
  count : Nat := 0
  idx : Nat := 0
  deriving DecidableEq, Repr

/-- Fields of a TMAC as its issue took them (R100): pairing code, init, mode, group, lane select and `k`. -/
structure TmacF where
  pair : Nat
  init : Bool
  imode : Bool
  g : Nat
  lsel : Nat
  k : Nat
  deriving DecidableEq, Repr

/-- The INT3 sequence (R104): group row, next `k`, pipe cycle of the latest issue, the row latch, and a `k = 3` issue
(its fields, operand entry and issue number) whose product waits for the scales of the `k = 4` read. -/
structure Int3Seq where
  row : Nat := 0
  nextK : Nat := 0
  cycle : Nat := 0
  latch : BitVec 2048 := 0
  k3 : Option (TmacF × OpEntry × Nat) := none
  deriving DecidableEq, Repr

/-- A result that has issued and is not visible yet (R96). -/
inductive Eff where
  /-- lanes `lo … lo+n-1` of vector register `v` -/
  | vlanes (v lo n : Nat) (val : VReg)
  | sreg (r : Nat) (val : Word)
  | opent (x : Nat) (e : OpEntry)
  /-- the lanes of the mask take the values of the snapshot; `seq` is the issue order -/
  | acc (g : Nat) (mask : Nat) (snap : AccGroup) (seq : Nat)
  | gf (bit : Nat) (val : Bool)
  | tally (n : Nat)
  | tree (t : Nat) (record : BitVec 512)
  /-- a store beat: `n` bytes at an offset of a store -/
  | store (ss off n : Nat) (val : Nat)
  /-- beat of a vector load: read at its own port cycle -/
  | ldBeat (v lo n ss off : Nat)
  /-- second line of a two-line VLDW at bundle address `pc`, and of a TDECL -/
  | vldw2 (v fmt off pc : Nat) (first : Nat)
  | tdecl2 (t off : Nat) (first : Nat)
  deriving DecidableEq, Repr

/-- A pending result: the pipe cycle in which it lands, and what lands. -/
structure Pend where
  due : Nat
  eff : Eff
  deriving DecidableEq, Repr

/-- What holds a core in WAIT (Table 4.13, R60, R119). -/
inductive WaitCond where
  | flag (off : Nat) (mask : Word) (any clr : Bool)
  | credit (id need : Nat)
  | queue (ch : Nat)
  /-- a SHUT of this descriptor address waits for a queue entry of the channel -/
  | shutFull (ch addr : Nat)
  /-- an RSTEP of this record waits on its flag, then queues on the channel -/
  | rstepFlag (ch t : Nat)
  | rstepFull (ch t : Nat)
  deriving DecidableEq, Repr

/-- A queue entry of a shuttle channel: a descriptor address, or a reduction step (R60, R119). -/
inductive QEntry where
  | desc (addr : Nat)
  | rstep (t : Nat) (record : BitVec 512)
  deriving DecidableEq, Repr

/-- What a channel is performing (R61–R65, R162). -/
structure Active where
  /-- the eight descriptor words as read at the start, or the tree record of a reduction step -/
  words : BitVec 512 := 0
  addr : Nat := 0
  isRstep : Bool := false
  tree : Nat := 0
  /-- next line to be written, remote lines injected, remote lines acknowledged -/
  next : Nat := 0
  sent : Nat := 0
  acked : Nat := 0
  /-- beam offset of the page that a PAGEWALK copies, once translated -/
  page : Option Nat := none
  /-- lines read from a remote source and not yet written: the 16-line staging buffer -/
  staged : List Line := []
  /-- READ lines still to come of the outstanding batch -/
  outstanding : Nat := 0
  /-- waiting for the acknowledgement of the notify -/
  notifying : Bool := false
  /-- GRANT waits for a free record, or for one of the same writer and id to be exhausted -/
  waitsRecord : Bool := false
  deriving DecidableEq, Repr

/-- A shuttle channel (R60, Table 2.18). -/
structure Chan where
  /-- [2; 02_core R67 Table 2.18; reset 0 idle] -/
  state : ChanSt := .idle
  /-- Queued descriptors and steps behind the active one [4 entries with it; 02_core R60; reset empty] -/
  queue : List QEntry := []
  /-- [02_core R61; reset none] -/
  active : Option Active := none
  /-- [1; 02_core R67; reset 0] -/
  mismatch : Bool := false
  /-- [24; 02_core R67; reset 0] -/
  entry : Nat := 0
  /-- [8, RC saturating; 02_core R60 R119; reset 0] -/
  discarded : Nat := 0
  /-- [8, RC saturating; 02_core R56; reset 0] -/
  yields : Nat := 0
  deriving DecidableEq, Repr

/-- A grant record of the receiver (R166). -/
structure GrantRec where
  engine : Nat := 0
  y : Nat := 0
  x : Nat := 0
  creditId : Nat := 0
  store : Nat := 0
  base : Nat := 0
  limit : Nat := 0
  used : Nat := 0
  deriving DecidableEq, Repr

/-- Lines accepted and not yet acknowledged, of one source and channel (R164). -/
structure RxCount where
  engine : Nat := 0
  y : Nat := 0
  x : Nat := 0
  ch : Nat := 0
  count : Nat := 0
  /-- wafer time of the latest unacknowledged line -/
  since : Nat := 0
  deriving DecidableEq, Repr

/-- A core performance counter (R387). -/
structure PerfCtr where
  /-- PC_CFGk [12; 16_faults R388 Table 16.7; reset 0] -/
  cfg : BitVec 12 := 0
  /-- PC_CNTk [48; 16_faults R387; reset 0] -/
  cnt : Nat := 0
  /-- the condition held in the latest cycle counted (edge mode) [1; 16_faults R387; reset 0] -/
  prev : Bool := false
  deriving DecidableEq, Repr

/-- The four stores of a core, and the SECDED state of their units (R53, R59). -/
structure Stores where
  /-- Beam data at 0–0x5_FFFF and scale fields at 0x6_0000–0x6_5FFF [384 KiB + 24 KiB; 02_core R53; DESIGN CHOICE zero, log 5] -/
  beam : List Host.Cell := []
  /-- [48 KiB; 02_core R53; DESIGN CHOICE zero, log 5] -/
  act : List Host.Cell := []
  /-- [32 KiB; 02_core R53; DESIGN CHOICE zero, log 5] -/
  part : List Host.Cell := []
  /-- [16 KiB; 02_core R53; DESIGN CHOICE zero, log 5] -/
  inst : List Host.Cell := []
  /-- ECC units in error: key store·2^20 + unit number, value 1 single-bit, 2 double-bit [02_core R59; reset none] -/
  ecc : Tab Nat := []
  /-- Rows corrected by patrol scrub and not yet written back [02_core R59; reset none] -/
  writeBack : List Nat := []
  deriving DecidableEq, Repr

/-- The datapath registers of a core (R44, R49, R97, R103, R104, R118, R182). -/
structure Datapath where
  /-- v0–v31 [32 × 32 × 32; 02_core R49; DESIGN CHOICE 0, log 6] -/
  v : Tab VReg := []
  /-- s1–s31; s0 reads 0 [31 × 64; 04_bundles R97; DESIGN CHOICE 0, log 6] -/
  s : Tab Word := []
  /-- [24; 04_bundles R97; DESIGN CHOICE 0, log 6] -/
  gf : BitVec 24 := 0
  /-- x0–x7 [8 entries; 02_core R43, 03_formats R70; tag 0x0 empty, log 6] -/
  op : Tab OpEntry := []
  /-- g0–g15 as results in issue order leave them [16 × (16 × 32 + 2); 02_core R44; +0 lanes, FP32 mode] -/
  acc : Tab AccGroup := []
  /-- g0–g15 as visible to TDRN [as acc; 04_bundles R96 R102; +0 lanes, FP32 mode] -/
  accVis : Tab AccGroup := []
  /-- issue number of the latest accumulator snapshot made visible: key 32·group + lane, and + 16 for the flag
  [model; 04_bundles R102; reset 0] -/
  accSeq : Tab Nat := []
  /-- Fine-block scale latch: row, 2,048 data bits [04_bundles R103; reset empty] -/
  latch : Option (Nat × BitVec 2048) := none
  /-- INT3 row latch and sequence [04_bundles R104; reset none] -/
  int3 : Option Int3Seq := none
  /-- Tree slots 0–7 [8 × 512; 04_bundles R118; reset all-zero records] -/
  tree : Tab (BitVec 512) := []
  /-- Saturation tally [16; 07_four_bit R182; reset 0] -/
  tally : Nat := 0
  /-- Active loops, innermost first [at most 4; 04_bundles R115; reset none] -/
  loops : List LoopRec := []
  /-- Results in flight [04_bundles R96; reset none] -/
  pend : List Pend := []
  /-- Port cycles taken by issued datapath accesses: (store, pipe cycle) [04_bundles R99; reset none] -/
  ports : List (Nat × Nat) := []
  /-- Cycles in which issued results reach a register: (register key, pipe cycle) [04_bundles R120; reset none] -/
  writes : List (Nat × Nat) := []
  /-- Pipe cycle of the next issue: advances with issue only (R39) [model; 02_core R39; reset 0] -/
  pt : Nat := 0
  /-- Pipe cycle of the latest special-function issue, and of the latest ROT256 [04_bundles R120; reset none] -/
  lastSf : Option Nat := none
  lastRot : Option Nat := none
  /-- Issue number of the next TMAC [model; 04_bundles R102; reset 0] -/
  seq : Nat := 0
  deriving DecidableEq, Repr

/-- One core: its control block, datapath, stores, shuttle and receiver. -/
structure CoreRec where
  /-- CORE_STATE.state [4; 02_core R40 R67; reset 1 IDLE] -/
  st : CoreSt := .idle
  /-- CORE_STATE.freeze_cause [4; 02_core R67; reset 0] -/
  freezeCause : Nat := 0
  /-- CORE_STATE.pc [10; 02_core R67; reset 0] -/
  pc : Nat := 0
  /-- CORE_CTRL.start_bundle [10; 02_core R67; reset 0] -/
  startBundle : Nat := 0
  /-- ISLAND.freq_target [8; 02_core R35 R67; reset 192] -/
  freqTarget : Nat := 192
  /-- ISLAND.stretch [4; 02_core R37 R67; reset 0] -/
  stretch : Nat := 0
  /-- ARB shadow and committed [16; 02_core R67; reset priorities 0, yield_limit 32] -/
  arbSh : BitVec 16 := 0x2000
  arb : BitVec 16 := 0x2000
  /-- FRAME_MAP shadow and committed [46; 02_core R67; reset 0] -/
  frameMapSh : Word := 0
  frameMap : Word := 0
  /-- FRAME_GEOM shadow and committed [58; 02_core R67; reset 0] -/
  frameGeomSh : Word := 0
  frameGeom : Word := 0
  /-- SLICE_ROT.k [3; 02_core R45 R67; reset 0] -/
  sliceRot : Nat := 0
  /-- HEARTBEAT.sent [32; 02_core R67; reset 0] -/
  heartbeats : BitVec 32 := 0
  /-- Channels 0–15 [02_core R60 R67; reset idle] -/
  chans : Tab Chan := []
  /-- ECC_CORR beam, act, part, inst [4 × 16; 02_core R67; reset 0] -/
  eccCorr : Tab Nat := []
  /-- ECC_LAST.addr and valid [22 + 1; 02_core R67; reset 0] -/
  eccLastAddr : Nat := 0
  eccLastValid : Bool := false
  /-- SCRUB_KEEP0–23 [24 × 64; 02_core R68; reset 0] -/
  scrubKeep : Tab Word := []
  /-- Counters 0–3, PC_OVF, PC_SAMPLE, PC_SAMPLE_DST [16_faults R387–R389; reset 0] -/
  perf : Tab PerfCtr := []
  pcOvf : BitVec 4 := 0
  pcSample : BitVec 29 := 0
  pcSampleDst : BitVec 47 := 0
  /-- island cycles since the latest sample sent, saturating [model; 16_faults R389; reset 4,096] -/
  sinceSample : Nat := 4096
  /-- FORCE_MSG and FORCE_GO at 0x200 and 0x208 [64 + 1; 16_faults R384; reset 0] -/
  forceMsg : Word := 0
  forceGo : Bool := false
  stores : Stores := {}
  dp : Datapath := {}
  /-- Governor balance in 1/64 slice-cycle [signed; 05_contract R128; DESIGN CHOICE 0, log 6] -/
  balance : Int := 0
  /-- Consecutive governor stall cycles, and whether BUDGET_CLAMP was reported since RUN was entered [05_contract R129; reset 0] -/
  stallRun : Nat := 0
  clampReported : Bool := false
  /-- Consecutive cycles for which the shuttle was denied, per store [02_core R56; reset 0] -/
  denied : Tab Nat := []
  /-- What holds issue in WAIT [04_bundles R116; reset none] -/
  wait : Option WaitCond := none
  /-- Credit counters, by credit_id [256 × 16; 06_fabric R167; reset 0] -/
  credits : Tab Nat := []
  /-- Grant records [64; 06_fabric R166; reset none] -/
  grants : List GrantRec := []
  /-- Exhausted grant records, kept as (record) to tell cause 2 from cause 0 [model; 06_fabric R167; reset none] -/
  exhausted : List GrantRec := []
  /-- Lines accepted and not yet acknowledged [06_fabric R164; reset none] -/
  rx : List RxCount := []
  /-- Arriving writes are discarded with reason 6: the bolt is quiesced [1; 06_fabric R168; reset 0] -/
  discard : Bool := false
  /-- Heavy charge over the present 100 µs, for the choice of the hot core [15_thermal R365; reset 0] -/
  heavy100 : Nat := 0
  /-- Skein monitor: consecutive windows without a heartbeat, and a heartbeat seen in the open one [02_core R38; reset 0] -/
  missed : Nat := 0
  beatSeen : Bool := false
  /-- Next row that patrol scrub reads [02_core R57; reset 0] -/
  patrolRow : Nat := 0
  deriving DecidableEq, Repr

/-- A router: its ten registers, shadow and committed, by index (Tables 6.4–6.6), and its port arbitration (R150). -/
structure RouterRec where
  /-- shadows of indices 0x00–0x09 [10 × 64; 06_fabric R158; reset value 0, inv 0xFFFF_FFFF] -/
  sh : Tab Word := []
  /-- committed values [10 × 64; 06_fabric R158; reset value 0, inv 0xFFFF_FFFF] -/
  reg : Tab Word := []
  /-- the harness's copies of the committed values [10 × 64; 06_fabric R159; reset as reg] -/
  copy : Tab Word := []
  /-- consecutive VC0 flits sent per port, and the bulk channel that went last [06_fabric R150; reset 0] -/
  vc0run : Tab Nat := []
  lastBulk : Tab Nat := []
  /-- the router is lost: it forwards nothing [06_fabric R157; reset 0] -/
  lost : Bool := false
  deriving DecidableEq, Repr

/-- Where a flit in flight stands. -/
inductive Loc where
  /-- about to enter the router at (x, y) by port 0 core, 1–4 mesh N E S W, 5–8 express N E S W -/
  | router (x y port : Nat)
  /-- in that router's input queue: checked, its decision held by a register's mismatch (R159) -/
  | held (x y port : Nat)
  /-- made by the router itself, in the queue of its core port and not yet decided (R156, R164) -/
  | made (x y : Nat)
  /-- in that router's input queue, decided, waiting for output port `out` (R150, R153) -/
  | queued (x y port out : Nat)
  /-- ejected at the core port of (x, y) -/
  | core (x y : Nat)
  /-- on the selvedge ring, having left the array on this side (0 N, 1 E, 2 S, 3 W) -/
  | ring (side : Nat)
  /-- queued for the bundle to this engine -/
  | bundle (engine : Nat)
  deriving DecidableEq, Repr

/-- A flit in flight. -/
structure NetFlit where
  flit : Flit
  loc : Loc
  deriving DecidableEq, Repr

/-- One harness core (R174): mailbox memory, request ring, and what it has drained from the ring. -/
structure HarnessRec where
  /-- Mailbox, 64 KiB [06_fabric R174; DESIGN CHOICE zero, log 5] -/
  mailbox : List Host.Cell := []
  /-- Request ring: (request word, source core) in arrival order [06_fabric R174; reset empty] -/
  ring : List (Word × Nat) := []
  /-- Fetch requests and chain reports drained and not yet served [06_fabric R174; reset empty] -/
  fetches : List (Word × Nat) := []
  reports : List (Word × Nat) := []
  /-- Request words of a reserved kind [06_fabric R174; reset 0] -/
  badWords : Nat := 0
  /-- Latest seq read of each region's watch ring, and latest empty-row word [07_four_bit R190, 08_attention R211; reset 0] -/
  watchSeq : Tab Nat := []
  emptyRows : Tab Nat := []
  /-- Harness-to-harness messages received: (peer serial, body) [13_span R328; reset empty] -/
  messages : List (Nat × Nat) := []
  deriving DecidableEq, Repr

/-! ## Regions, streams, pages (01, 07, 08) -/

/-- What a unit is (R20): a decode pick or a prefill chunk. -/
inductive UnitKind where
  | pick | chunk (k : Nat)
  deriving DecidableEq, Repr

/-- The watch of one token of a unit (R186): triggers so far, whether later passes run in E4M3 mode, whether its present
pass is a rerun, and the NUMERIC_WARN mark. -/
structure TokWatch where
  triggers : Nat
  e4m3 : Bool
  rerun : Bool
  warn : Bool
  deriving DecidableEq, Repr

/-- A unit in the spatial pipeline. -/
structure PUnit where
  slot : Nat
  kind : UnitKind
  /-- first position and number of tokens -/
  pos : Nat
  len : Nat
  /-- the watch of each token (R186), and the next token to be judged in the present layer (R189) -/
  toks : List TokWatch
  cur : Nat
  /-- the layer runs, or reruns, from this token on and its inputs have not come (R188) -/
  pass : Option Nat
  /-- inputs of a pass whose pages are not all on the wafer yet (R219): first token and the inputs -/
  inp : Option (Nat × List AttnInput)
  /-- the layer's verdict is final (R188) -/
  verdict : Bool
  /-- the last unit of its stream's input: a decode pick, or the last chunk of a prefill -/
  lastOfInput : Bool
  /-- attention output of the region for this unit: by token, by query head (R210) -/
  out : List (List (List F32))
  /-- saturations that a flush in this unit adds to its tallies (R197) -/
  sat : Nat := 0
  /-- pages whose partials of the present pass are computed and kept (R220), and since when the pass waits for pages (R226) -/
  kept : List Nat := []
  waitFrom : Option Nat := none
  /-- by token, the experts chosen and their gates (R193), and results of experts still to come (R194) -/
  gates : List (Option ((Nat × Nat) × Nat × Nat)) := []
  owed : Nat := 0
  deriving DecidableEq, Repr

/-- A token sent to an expert region as stored blocks (R194): slot, position, the region that sent it, first or second choice,
and the blocks with their format tag. -/
structure ExpertJob where
  slot : Nat
  pos : Nat
  home : Nat
  second : Bool
  tag : Nat
  blocks : List (BitVec 8 × List Nat)
  deriving DecidableEq, Repr

/-- A page of one stream in one region and KV head (R196): codes and scales. -/
structure PageData where
  k : List (List (BitVec 8)) := []
  kScale : BitVec 8 := 0
  v : List (List (BitVec 8)) := []
  vScale : BitVec 8 := 0
  deriving DecidableEq, Repr

/-- Homes of a complete page (Table 8.1); `both` is a frame with a valid creel copy. -/
inductive Home where
  | frame | creel | both | absent
  deriving DecidableEq, Repr

/-- A complete page of one stream in one region: home, page number (R198), local frame number, contents and coarse index
per KV head, the wafer time of its latest use, and whether it was prefetched and not yet attended (R222). -/
structure KvPage where
  home : Home
  num : Nat
  frame : Nat
  data : List PageData
  used : Nat
  prefetched : Bool
  /-- chain reports still to come of a fetch in progress (R219) -/
  arrive : Option Nat
  /-- complement of the harness's own copy of the frame-map entry (R199, R200) -/
  inv : Nat
  deriving DecidableEq, Repr

/-- A region's KV state at a pick boundary: complete pages, bobbin, averages (R253). -/
structure KvBase where
  pos : Nat := 0
  pages : Nat := 0
  bobbin : List (List (List (BitVec 16) × List (BitVec 16))) := []
  avg0 : F32 := 0
  avg1 : F32 := 0
  deriving DecidableEq, Repr

/-- The KV state of one stream slot in one region (R195, R201, R185, R214). -/
structure KvRec where
  /-- bobbin: per KV head the BF16 (key, value) of each position written since the last complete page; a chunk's own BF16
  values stand here until its verdict [08_attention R201 R203; reset none] -/
  bobbin : List (List (List (BitVec 16) × List (BitVec 16))) := []
  /-- complete pages in ascending j [08_attention R196 R198; reset none] -/
  pages : List KvPage := []
  /-- watch averages, copies 0 and 1 [2 × 32; 07_four_bit R185; unset 0xBF80_0000] -/
  avg0 : F32 := 0xBF800000
  avg1 : F32 := 0xBF800000
  /-- pages ranked by the latest unit in retrieval mode: selected, then next-ranked [08_attention R216 R222; reset none] -/
  selected : List Nat := []
  prefetched : List Nat := []
  /-- BF16 values of the latest complete page, and the state at the latest pick boundary, for the return to it
  [09_bolts_weights R253; reset none] -/
  lastBf : List (List (List (BitVec 16) × List (BitVec 16))) := []
  base : Option KvBase := none
  /-- the flush of this page is due (R202) [08_attention R202; reset none] -/
  flushDue : Option Nat := none
  /-- frames reserved for the pages that are open or being completed, lowest page first [08_attention R202; reset none] -/
  reserved : List Nat := []
  deriving DecidableEq, Repr

/-- A region of the current image (R19, R20). -/
structure RegionRec where
  kind : Nat := 0
  layer : Nat := 0
  /-- the unit that occupies it [01_architecture R20; reset none] -/
  unit : Option PUnit := none
  /-- the unit handed out to it and not yet taken [01_architecture R20; reset none] -/
  inbox : Option PUnit := none
  /-- chunk of each slot handed out latest + 1 [01_architecture R25; reset 0] -/
  chunkOut : Tab Nat := []
  /-- sequence number of its next watch report [16; 07_four_bit R190; reset 0] -/
  watchSeq : Nat := 0
  /-- an expert region's tokens, waiting in order, and the one it works on [07_four_bit R194, 01_architecture R20; reset none] -/
  jobs : List ExpertJob := []
  job : Option ExpertJob := none
  /-- sequence numbers of its reports that a synthetic pick caused and the harness has not read [15_thermal R374; reset none] -/
  quiet : List Nat := []
  deriving DecidableEq, Repr

/-- A stream slot (R22, R125). -/
structure SlotRec where
  /-- request index that holds it [01_architecture R22; reset none] -/
  req : Option Nat := none
  /-- [01_architecture R21; reset 0] -/
  rank : Nat := 0
  /-- units of the stream waiting to enter the first region, and units done with every region (R20, R126) -/
  waiting : List PUnit := []
  tail : List PUnit := []
  /-- chunks taken by the first region and chunks out of the last one, of the present prefill [11_serving R292; reset 0] -/
  chunksTaken : Nat := 0
  chunksOut : Nat := 0
  chunksTotal : Nat := 0
  /-- the token drawn and not yet accepted: (id, warned) [11_serving R307; reset none] -/
  drawn : Option (Nat × Bool) := none
  /-- wafer time of the latest progress [05_contract R125; reset 0] -/
  progress : Nat := 0
  /-- timed out once since its latest accepted token [05_contract R126; reset 0] -/
  timedOut : Bool := false
  /-- the slot runs a synthetic warm-keep pick [15_thermal R374; reset 0] -/
  synthetic : Bool := false
  /-- the slot is held by the bolt's tuning job [1; 11_serving R309; reset 0] -/
  tuning : Bool := false
  /-- KV of the stream, by region [08_attention R195; reset none] -/
  kv : Tab KvRec := []
  deriving DecidableEq, Repr

/-! ## Bolts, epochs, loads, adapters (09) -/

/-- Bolt states of Table 9.2 (R229). -/
inductive BoltSt where
  | none | empty | loading | serving | paused | faulted | scrubbing
  deriving DecidableEq, Repr

/-- States of the other epoch (R239, R258). -/
inductive EpochSt where
  | none | loading | staged | placed | draining | current
  deriving DecidableEq, Repr

/-- A shard of a package in a load (R231, R235). -/
inductive ShardSt where
  | waiting | inFlight | verified | damaged
  deriving DecidableEq, Repr

structure ShardRec where
  kind : Nat := 0
  length : Nat := 0
  uses : Nat := 0
  hash : BitVec 384 := 0
  st : ShardSt := .waiting
  attempts : Nat := 0
  /-- wafer time of the attempt's request -/
  since : Nat := 0
  /-- its port and its byte offset in the blocks that the epoch has there; kept only to be forwarded [12_creel R320, 09_bolts_weights R237; reset 0] -/
  port : Nat := 0
  off : Nat := 0
  fwd : Bool := false
  /-- bytes lost from its mirror with no copy: (offset, length) [09_bolts_weights R249; reset none] -/
  lost : List (Nat × Nat) := []
  deriving DecidableEq, Repr

/-- Serving constants of an epoch (Table 11.3, R299). -/
structure ServeConst where
  vocab : Nat := 0
  endIds : List Nat := []
  chunkNs : Nat := 0
  pickBaseNs : Nat := 0
  pickSlopeNs : Nat := 0
  ctxCap : Nat := 0
  regions : Nat := 0
  tailNs : Nat := 0
  adapterNs : Nat := 0
  waferPages : Nat := 0
  pageBytes : Nat := 0
  bobbinBytes : Nat := 0
  deriving DecidableEq, Repr

/-- KV and adapter geometry of a region (R139). -/
structure KvGeom where
  region : Nat := 0
  heads : Nat := 0
  lanes : Nat := 0
  framesHi : Nat := 0
  framesLo : Nat := 0
  lanesHi : Nat := 0
  frameBase : Nat := 0
  frameStride : Nat := 0
  mapBase : Nat := 0
  mapLen : Nat := 0
  wlBase : Nat := 0
  wlStride : Nat := 0
  deriving DecidableEq, Repr

structure AdapterGeom where
  region : Nat := 0
  frames : Nat := 0
  frameBase : Nat := 0
  frameStride : Nat := 0
  frameBytes : Nat := 0
  rankMax : Nat := 0
  fmt : Nat := 0
  deriving DecidableEq, Repr

/-- Whose final completion an operation writes: queue pair, acceptance number, tag, handle and opcode (R271). -/
structure FinOf where
  q : Nat := 0
  n : Nat := 0
  tag : Nat := 0
  handle : Nat := 0
  opcode : Nat := 0
  deriving DecidableEq, Repr

/-- An epoch of a bolt (R239): its package, the chosen shape and its placement. -/
structure EpochRec where
  /-- sites of virtual cores that other chain positions have moved, by their site key [05_contract R135; reset none] -/
  moved : Tab Nat := []
  num : Nat := 0
  st : EpochSt := .none
  manifestHash : BitVec 384 := 0
  modelId : Nat := 0
  resident : Bool := false
  noPlace : Bool := false
  /-- span load chain: (engine, bolt) by position, and this engine's own position -/
  chain : List (Nat × Nat) := []
  position : Nat := 0
  /-- blocks of the mirror, and of the shards kept only to be forwarded: (port, block) in order [12_creel R320; reset none] -/
  mirror : List (Nat × Nat) := []
  fwd : List (Nat × Nat) := []
  shards : List ShardRec := []
  /-- image check done, chosen shape index, slots, chunk, pick_timeout -/
  imageOk : Bool := false
  shape : Nat := 0
  slots : Nat := 0
  /-- stream slots of the epoch (R239) -/
  slotNos : List Nat := []
  chunk : Nat := 0
  pickTimeout : Nat := 0
  creelFed : Bool := false
  /-- creel extents of a creel-fed image: port, first block, blocks (R320) -/
  extents : List (Nat × Nat × Nat) := []
  charge : Nat := 0
  /-- regions: (kind, layer), and the core number of each virtual core of each region -/
  regions : List (Nat × Nat) := []
  place : List (List Nat) := []
  /-- virtual core numbers of the cores of each region (R132, R133); those of the bolt's other numbered sites, by core number
  [05_contract R132; reset none] -/
  virts : List (List Nat) := []
  unused : Tab Nat := []
  kvGeom : List KvGeom := []
  adapterGeom : List AdapterGeom := []
  serve : ServeConst := {}
  /-- token-unit shard bytes -/
  tokenShard : List Byte := []
  /-- watch core and harness core of each region, from the image's relocations (R190) -/
  watch : List (Nat × Nat) := []
  /-- the code, data and control values have been written (R236) -/
  placedDone : Bool := false
  deriving DecidableEq, Repr

/-- A model load in progress (R234–R238). -/
structure LoadRec where
  fin : FinOf := {}
  epoch : Nat := 0
  /-- positions of the chain that have reported ready, and that have acknowledged the commit -/
  ready : List Nat := []
  acked : List Nat := []
  committing : Bool := false
  /-- re-sends of the commit, and wafer time of the latest send, by position; shards that the position before has announced
  [09_bolts_weights R237 R238; reset none] -/
  resends : Tab Nat := []
  sentAt : Tab Nat := []
  announced : List Nat := []
  /-- positions fit for the load (R234), and the pieces of shards that the position before has forwarded, by shard·2³² + offset
  (R237) [09_bolts_weights R234 R237; reset none] -/
  fit : List Nat := []
  pieces : Tab (List Byte) := []
  since : Nat := 0
  /-- the placement runs of a retained mirror are skipped (R252) -/
  retained : Bool := false
  deriving DecidableEq, Repr

/-- A load that the head of a chain has opened here, while its manifest comes in (R237). -/
structure Incoming where
  /-- the load, by its messages' number -/
  id : Nat := 0
  /-- what the opening message says; no chain before it has come -/
  chain : List (Nat × Nat) := []
  position : Nat := 0
  resident : Bool := false
  noPlace : Bool := false
  length : Nat := 0
  /-- pieces of the manifest that have come, by offset -/
  pieces : Tab (List Byte) := []
  deriving DecidableEq, Repr

/-- A switch, unload or bolt operation that waits (R228, R241, R243, R250). -/
inductive BoltOp where
  | switchTo (epoch : Nat) (fin : FinOf)
  | unload (epoch : Nat) (drain : Bool) (fin : FinOf)
  | create (fin : FinOf)
  | scrub (fin : FinOf) (weights destroy : Bool)
  /-- a FAULTED bolt's scrub before its load (R234) -/
  | scrubLoad (fin : FinOf)
  /-- a scrub of a freed epoch's cores (R242) -/
  | freeScrub (cores : List Nat)
  deriving DecidableEq, Repr

/-- Why a bolt is paused (R253). -/
inductive PauseWhy where
  | repair (core : Nat)
  | skein (s : Nat)
  | watchdog
  | router
  | coolant
  | span
  | restore
  deriving DecidableEq, Repr

/-- An adapter slot (R244). -/
structure AdapterRec where
  bolt : Nat := 0
  baseId : Nat := 0
  bytes : List Byte := []
  shards : List ShardRec := []
  loaded : Bool := false
  closed : Bool := false
  resident : Bool := false
  damaged : Bool := false
  /-- wafer time of the latest use -/
  used : Nat := 0
  /-- the load in progress, the eviction that waits, and the placement in progress [09_bolts_weights R244–R246; reset none] -/
  fin : Option FinOf := none
  evict : Option FinOf := none
  /-- adapter frame that it occupies in every region [09_bolts_weights R245; reset 0] -/
  frame : Nat := 0
  /-- verified shards of a load in progress, by number [09_bolts_weights R244; reset none] -/
  parts : Tab (List Byte) := []
  placing : Bool := false
  modelId : Nat := 0
  deriving DecidableEq, Repr

/-- What a tuning forward pass saves of a row and query head (R225): m, l, and the output in BF16. -/
structure SavedRow where
  m : F32 := 0
  l : F32 := 0
  out : List (BitVec 16) := []
  deriving DecidableEq, Repr

/-- What the backward pass finds for a row and query head (R225): dq, and the terms of dk and dv by position. -/
structure RowGrad where
  dq : List F32 := []
  dk : List (List F32) := []
  dv : List (List F32) := []
  deriving DecidableEq, Repr

/-- A tuning job (R308, R309). -/
structure TuneRec where
  fin : FinOf := {}
  slot : Nat := 0
  nsteps : Nat := 0
  step : Nat := 0
  applied : Nat := 0
  discarded : Nat := 0
  job : BitVec 512 := 0
  /-- FP32 master copy and two moment tensors, by parameter index -/
  theta : List F32 := []
  mo : List F32 := []
  vv : List F32 := []
  /-- averages per layer, and whether the step replays after a first trigger -/
  avgs : List F32 := []
  replaying : Bool := false
  /-- examples: (token, target) by position; the stream slot that the job holds [11_serving R308 R309; reset none] -/
  examples : List (List (Nat × Bool)) := []
  held : Option Nat := none
  /-- given codes of the gradient tensors, by layer and tensor; none: dynamic [8 each; 07_four_bit R192; reset none] -/
  codes : Option (List (List Nat)) := none
  /-- of the latest step: examples used, saved rows and row gradients by layer, row and head, and the loss gradient at each
  flagged position [11_serving R309, 08_attention R225; reset none] -/
  batch : List Nat := []
  saved : List (List (List SavedRow)) := []
  rowGrads : List (List (List RowGrad)) := []
  lossGrads : List (List F32) := []
  deriving DecidableEq, Repr

/-- A bolt (R227–R258). -/
structure BoltRec where
  /-- BOLT_STATUS.state [3; 09_bolts_weights R229 R258; reset 0 NONE] -/
  st : BoltSt := .none
  /-- rectangle [6 + 7 + 6 + 7; 09_bolts_weights R227 R258; reset 0] -/
  sx0 : Nat := 0
  sy0 : Nat := 0
  w : Nat := 0
  h : Nat := 0
  /-- BOLT_CFG [32 + 2 + 2; 18_registers R425; reset 0] -/
  funcMask : BitVec 32 := 0
  homeSide : Nat := 0
  spanSide : Nat := 0
  /-- BOLT_STATUS.span_accept, retained [1 + 1; 09_bolts_weights R258; reset 0] -/
  spanAccept : Bool := false
  retained : Bool := false
  /-- BOLT_SHARE.share [21; 18_registers R425; reset 0] -/
  share : Nat := 0
  /-- BOLT_CREEL.quota_gb [10; 18_registers R425; reset 0] -/
  quotaGb : Nat := 0
  /-- blocks reserved on each port [18; 12_creel R320; reset 0] -/
  resvPerPort : Nat := 0
  /-- BOLT_TIMEOUT.pick_timeout [10; 18_registers R425; reset 50] -/
  pickTimeout : Nat := 50
  /-- current epoch and other epoch [09_bolts_weights R239 R258; reset none] -/
  current : Option EpochRec := none
  other : Option EpochRec := none
  /-- next epoch number [16; 09_bolts_weights R239; 1 after BOLT_CREATE] -/
  nextEpoch : Nat := 0
  load : Option LoadRec := none
  /-- a load opened by the head of a chain [09_bolts_weights R237; reset none] -/
  incoming : Option Incoming := none
  ops : List BoltOp := []
  /-- the current epoch is being unloaded (R243) [1; 09_bolts_weights R243; reset 0] -/
  unloading : Bool := false
  /-- mirrors the bolt still holds after a kill or fault: (manifest hash, shards, shape) [09_bolts_weights R247 R252; reset none] -/
  mirrors : List EpochRec := []
  /-- pause in progress and its start [09_bolts_weights R253; reset none] -/
  pauses : List PauseWhy := []
  pausedAt : Nat := 0
  drained : Bool := false
  /-- the pause is for a repair, whose stall is recorded (R254, R258) -/
  repairs : Bool := false
  timersSuspended : Bool := false
  /-- BOLT_REPAIR [16 + 8 + 16 + 13; 09_bolts_weights R258; reset 0] -/
  coresMoved : Nat := 0
  skeinsMoved : Nat := 0
  lastStallUs : Nat := 0
  /-- regions and slots of the current epoch [01_architecture R20 R22; reset none] -/
  regions : Tab RegionRec := []
  slots : Tab SlotRec := []
  tune : Option TuneRec := none
  /-- slots whose pick stands in the top-k reduction tree, in the order they entered it [01_architecture R20; reset none] -/
  tops : List Nat := []
  /-- port of the next bobbin save [5; 12_creel R320; reset 0] -/
  saveTurn : Nat := 0
  /-- blocks that hold pooled uses (page copies, bobbin saves, token logs, adapters, tuning state): (port, block)
  [12_creel R320; reset none] -/
  pool : List (Nat × Nat) := []
  /-- next page number to be tried [24; 08_attention R198; reset 0] -/
  nextPage : Nat := 0
  deriving DecidableEq, Repr

/-! ## Requests and queue pairs (10, 11) -/

/-- The fields of a GENERATE or CONTINUE whose inputs are being read or whose admission is open (R269, R290). -/
structure Intake where
  fin : FinOf := {}
  func : Nat := 0
  priority : Nat := 0
  defer : Bool := false
  keep : Bool := false
  idsOnly : Bool := false
  inAddr : Nat := 0
  inLen : Nat := 0
  inFmt : Nat := 0
  outAddr : Nat := 0
  outLen : Nat := 0
  maxTokens : Nat := 0
  sampleAddr : Nat := 0
  grammarAddr : Nat := 0
  grammarLen : Nat := 0
  adapter : Option Nat := none
  seed : Word := 0
  ttft : Nat := 0
  tbt : Nat := 0
  deadlineUs : Nat := 0
  ttl : Nat := 0
  retT : Nat := 0
  retN : Nat := 0
  retS : Nat := 0
  retW : Nat := 0
  epoch : Nat := 0
  /-- acceptance time -/
  tAccept : Nat := 0
  /-- the inputs have been read and checked: the prompt's tokens, the sampling block, the grammar tables -/
  read : Bool := false
  prompt : List Nat := []
  sampling : List Byte := []
  grammar : List Byte := []
  deriving DecidableEq, Repr

/-- A request-table entry (Table 11.1); `key` is W0 and `keyInv` its complement W1 (R285). -/
structure ReqRec where
  /-- W0 [64; 11_serving R284; reset state FREE] -/
  key : Word := 0
  keyInv : Word := 0xFFFFFFFFFFFFFFFF
  /-- W2 [16 + 10 + 5; 11_serving R284; reset 0] -/
  gen : Nat := 0
  qp : Nat := 0
  func : Nat := 0
  /-- W3 [32 + 32; 11_serving R284; reset 0] -/
  tag : Nat := 0
  turn : Nat := 0
  /-- opcode of the descriptor that opened the turn [8; 10_host R271; reset 0] -/
  opcode : Nat := 0
  /-- W4 [21 + 21 + 21; 11_serving R284; reset 0] -/
  ctxLen : Nat := 0
  turnTokens : Nat := 0
  maxTokens : Nat := 0
  /-- W5, W6: page numbers held, reserved pages [11_serving R284; reset 0] -/
  pageList : List Nat := []
  reservedPages : Nat := 0
  /-- W7: the token log [4 B per position; 11_serving R284 R301; reset empty] -/
  log : List Nat := []
  /-- W8: grammar tables, automaton state; the stack is W24–W31 [11_serving R284 R304; reset none] -/
  grammar : List Byte := []
  gstate : Nat := 0
  gstack : List Nat := []
  /-- the mask for the stream's next pick, as the ids allowed; none without a grammar [262,144; 11_serving R304; reset none] -/
  mask : Option (List (Nat × Nat × Nat)) := none
  /-- W9: the sampling block copy [256 B; 11_serving R305; reset defaults] -/
  sampling : List Byte := []
  /-- bytes generated this turn and not yet released, for the stop matcher [11_serving R301; reset empty] -/
  withheld : List Byte := []
  /-- W10, W11, W12, W13 [11_serving R284; reset 0] -/
  ttftTarget : Nat := 0
  tbtTarget : Nat := 0
  deadline : Nat := 0
  ttl : Nat := 0
  expiry : Nat := 0
  /-- W14, W15, W16, W17 [11_serving R284 R295; reset 0] -/
  tAccept : Nat := 0
  tLast : Nat := 0
  ttftUs : Nat := 0
  tbtAvg : Int := 0
  tbtMax : Nat := 0
  tbtViol : Nat := 0
  ttftViol : Bool := false
  /-- W18 [64; 11_serving R284; reset 0] -/
  seed : Word := 0
  /-- W19: T, N, S, W [42; 11_serving R284; reset 0] -/
  retT : Nat := 0
  retN : Nat := 0
  retS : Nat := 0
  retW : Nat := 0
  /-- D as admitted, and T, N, S, W as the GENERATE codes them, for its admission [8 + 4 fields; 08_attention R222 R226; reset 0] -/
  retD : Nat := 0
  retGiven : List Nat := []
  /-- W20, W21 [11_serving R284; reset 0] -/
  outAddr : Nat := 0
  outLen : Nat := 0
  textBytes : Nat := 0
  /-- W22: bobbin save held in creel: KV by region [11_serving R284, 08_attention R204; reset none] -/
  save : Option (Tab KvRec) := none
  /-- W23 [32; 11_serving R284; reset 0] -/
  warned : Nat := 0
  /-- new input not yet prefilled: the prompt's tokens [11_serving R290; reset none] -/
  prompt : List Nat := []
  /-- the descriptor whose inputs are read or whose first test is open [11_serving R290; reset none] -/
  intake : Option Intake := none
  /-- acceptance number of the descriptor whose final is owed [10_host R266; reset none] -/
  finN : Option Nat := none
  /-- positions whose keys and values every layer holds [08_attention R195 R224; reset 0] -/
  kvLen : Nat := 0
  /-- admitted, not deferred [1; 11_serving R287; reset 0] -/
  admitted : Bool := false
  /-- the next slot starts a new turn; a turn is open [model; 11_serving R287; reset 0] -/
  fresh : Bool := false
  openTurn : Bool := false
  /-- intervals counted this turn [model; 11_serving R295; reset 0] -/
  intervals : Nat := 0
  /-- end reason of the turn being drained, and the paused state it goes to (0 none, 1 HELD, 2 PARKED, 3 ABSENT) with that
  pause's ttl [11_serving R287; reset 0] -/
  endReason : Nat := 0
  pausePark : Nat := 0
  pauseTtl : Nat := 0
  /-- entry into HELD or PARKED, whichever came first [64; 11_serving R297; reset 0] -/
  pausedAt : Nat := 0
  /-- rebound to a new epoch (R242); the parking copy is in progress (R296) -/
  rebound : Bool := false
  parking : Bool := false
  /-- the turn's first mask is all zero [1; 11_serving R304; reset 0] -/
  noMask : Bool := false
  /-- undelivered tokens while writes are blocked: (record + 1, or 0 for text alone, and text) (R283) -/
  undelivered : List (Nat × List Byte) := []
  /-- port on which the bobbin save stands [5; 12_creel R320; reset 0] -/
  savePort : Nat := 0
  /-- the turn's header, and its header with done set, still to be written while writes are blocked [1 + 1; 10_host R276 R277 R283;
  reset 0] -/
  headDue : Bool := false
  doneDue : Bool := false
  deriving DecidableEq, Repr

/-- A completion ready and not yet written (R274). -/
structure Cqe where
  tag : Nat := 0
  handle : Nat := 0
  status : Nat := 0
  kind : Nat := 0
  opcode : Nat := 0
  endReason : Nat := 0
  /-- result bytes 16–55 -/
  result : List Nat := []
  numericWarn : Bool := false
  /-- request entry whose final it is (its entry becomes FREE when it is written) -/
  frees : Option Nat := none
  /-- the descriptor (submission ring, index number) whose final this is, for barriers -/
  finOf : Option (Nat × Nat) := none
  /-- held in its request's own entry, not in the queue pair's store (R274) -/
  entry : Bool := false
  deriving DecidableEq, Repr

/-- A queue pair (R262–R275). -/
structure QpRec where
  /-- QP_SQ, QP_CQ, QP_CFG shadows and committed [3 × 64 each; 10_host R262; reset 0] -/
  sqSh : Word := 0
  cqSh : Word := 0
  cfgSh : Word := 0
  sq : Word := 0
  cq : Word := 0
  cfg : Word := 0
  /-- QP_STATUS [10_host R262 Table 10.3; reset enabled 0, quiesced 1, error 0, err_cause 0, sq_head 0, cq_tail 0, cq_phase 1] -/
  quiesced : Bool := true
  error : Bool := false
  errCause : Nat := 0
  sqHead : Nat := 0
  cqTail : Nat := 0
  cqPhase : Bool := true
  /-- doorbell indices: tail handed over; released head; written entries not yet released [10_host R264; reset 0] -/
  sqTail : Nat := 0
  cqHead : Nat := 0
  unread : Nat := 0
  /-- completions held (R274) [10_host R274; reset none] -/
  held : List Cqe := []
  /-- QP_STATS.bad_doorbells, accepted [16 + 32; 10_host R262; reset 0] -/
  badDoorbells : Nat := 0
  accepted : Nat := 0
  /-- descriptors accepted whose final is not written, by acceptance number (R266) [10_host R266; reset none] -/
  openDescs : List Nat := []
  /-- next acceptance number [model; 10_host R266; reset 0] -/
  descNum : Nat := 0
  /-- a barrier descriptor waits at the head, and has been released [10_host R266; reset 0] -/
  barrierOk : Bool := false
  /-- interrupt moderation: pend and t0 [10_host R275; reset 0] -/
  pend : Nat := 0
  t0 : Nat := 0
  /-- wafer time of the disable (R263) -/
  disabledAt : Nat := 0
  deriving DecidableEq, Repr

/-- A PCIe function (R260, R275, R283). -/
structure FuncRec where
  /-- VF enabled by the host's SR-IOV configuration [1; 10_host R260 R263; DESIGN CHOICE 1, log 8] -/
  enabled : Bool := true
  /-- writes to the function can be issued [1; 10_host R283; DESIGN CHOICE 1, log 8] -/
  writable : Bool := true
  /-- MSI-X vectors masked, and pending [64 + 64; 10_host R275; reset per PCIe, DESIGN CHOICE 0, log 8] -/
  masked : Word := 0
  pendingMsix : Word := 0
  /-- Bus Master Enable, and the codes of the programmed maximum payload and read request sizes [1 + 3 + 3; 10_host R259 R283;
  DESIGN CHOICE 1, log 8; PRESUMED 0 and 2 (PCIe), log 78] -/
  busMaster : Bool := true
  maxPayload : Nat := 0
  maxRead : Nat := 2
  /-- a PF's SR-IOV VF Enable and NumVFs [1 + 16; 10_host R259 R263; DESIGN CHOICE 1 and 7, log 8] -/
  vfEnable : Bool := true
  numVfs : Nat := 7
  deriving DecidableEq, Repr

/-! ## Creel (12) -/

/-- Owner-map states (Table 12.5). -/
inductive Owner where
  | system | clean | dirty | zeroing | bolt (b : Nat)
  deriving DecidableEq, Repr

/-- A creel port (R311–R324). -/
structure PortRec where
  /-- CR_STATUS.state, train_fail [2 + 4; 12_creel R324; reset 0] -/
  state : Nat := 0
  trainFail : Nat := 0
  /-- CR_ECC corrected, uncorrected, last, valid [16 + 8 + 35 + 1; 12_creel R324; reset 0] -/
  corrected : Nat := 0
  uncorrected : Nat := 0
  last : Nat := 0
  valid : Bool := false
  /-- CR_TEMP mr4 per channel, refresh_waits [3 each + 32; 12_creel R324; reset 0] -/
  mr4 : Tab Nat := []
  refreshWaits : Nat := 0
  /-- owner map [5,543 entries; 12_creel R319; FREE_DIRTY, log 7] -/
  owners : Tab Owner := []
  /-- contents [24 GB; 12_creel R313; DESIGN CHOICE zero, log 5] -/
  mem : List Host.Cell := []
  /-- latest half line written: (half number, source and channel), for the merge of two halves [12_creel R315; reset none] -/
  lastHalf : Option (Nat × Nat) := none
  /-- lines in error: 1 single-bit, 2 worse [12_creel R314; reset none] -/
  ecc : Tab Nat := []
  /-- corrected lines to be rewritten [12_creel R314; reset none] -/
  rewrite : List Nat := []
  /-- wafer times of uncorrectable errors, latest first [12_creel R322; reset none] -/
  uncorrTimes : List Nat := []
  /-- THERMAL_WARN reported in the present excursion at the top MR4 code [12_creel R317; reset 0] -/
  topReported : Bool := false
  /-- refreshes postponed, by channel·16 + bank; refreshes issued per channel; the refreshing bank + 1 per channel [12_creel R311 R317; reset 0] -/
  postponed : Tab Nat := []
  refreshing : Tab Nat := []
  /-- wafer time until which the refresh holds its bank, by channel, and the accesses that have been counted as waiting for one
  [12_creel R317; reset none] -/
  refreshUntil : Tab Nat := []
  waited : List Flit := []
  /-- lines that foreground reads found uncorrectable, which the harness has yet to act on [12_creel R314; reset none] -/
  lost : List Nat := []
  deriving DecidableEq, Repr

/-! ## Aumen links (13) -/

/-- A lane of a link (R329, R330). -/
structure LaneRec where
  /-- 0 down, 1 up, 2 retraining, 3 failed [13_span R330; reset 0] -/
  state : Nat := 0
  /-- sender: next lane_seq, unacknowledged flits oldest first, resend pointer [13_span R329; reset 0, empty] -/
  txSeq : Nat := 0
  replay : List (BitVec 2048) := []
  /-- receiver: latest lane_seq in order, whether one has come, nak outstanding [13_span R329; reset 0] -/
  rxSeq : Nat := 0
  rxAny : Bool := false
  nak : Bool := false
  /-- consecutive failed attempts of one flit; wafer times of recent retries; of recent retrains [13_span R330; reset empty] -/
  attempts : Nat := 0
  retryTimes : List Nat := []
  retrainTimes : List Nat := []
  retrainStart : Nat := 0
  deriving DecidableEq, Repr

/-- A link (R325, R330, R339). -/
structure LinkRec where
  /-- LN_STATUS state, mode4, group [2 + 1 + 1; 13_span R339; reset 0] -/
  state : Nat := 0
  mode4 : Bool := false
  group : Bool := false
  /-- LN_STATUS peer_engine, peer_cfg, foreign, conflict; LN_PEER [13_span R339; reset 0] -/
  peerEngine : Nat := 0
  peerCfg : Bool := false
  foreign : Bool := false
  conflict : Bool := false
  peerSerial : Nat := 0
  /-- span_id of the peer's latest IDENT [32; 13_span R328 R334; reset 0] -/
  peerSpan : Nat := 0
  /-- LN_ERR retries, retrains, fec_uncorr [32 + 16 + 16; 13_span R339; reset 0] -/
  retries : Nat := 0
  retrains : Nat := 0
  fecUncorr : Nat := 0
  /-- LN_CTRL retrain, disable [1 + 1; 13_span R339; reset 0] -/
  retrainReq : Bool := false
  disable : Bool := false
  /-- lanes 0–7 [13_span R325; reset down] -/
  lanes : Tab LaneRec := []
  /-- wafer time of the latest IDENT [13_span R338; reset 0] -/
  identAt : Nat := 0
  /-- IDENTs sent [model; 13_span R328; reset 0] -/
  identsSent : Nat := 0
  deriving DecidableEq, Repr

/-- A bundle, by its peer's engine number (R331–R333). -/
structure BundleRec where
  /-- next bundle_seq to send, next to release [24 + 24; 13_span R332; reset 0] -/
  txSeq : Nat := 0
  rxSeq : Nat := 0
  /-- Aumen flits arrived and not yet released in order: (bundle_seq, vc, fabric flits) [13_span R332; reset empty] -/
  reorder : List (Nat × Nat × List Flit) := []
  /-- flits of space at the receiver for VC0–VC2 [3 × 16; 13_span R333; 256] -/
  space : Tab Nat := []
  /-- control flit bodies that wait for a lane [13_span R328; reset none] -/
  controls : List (List Byte) := []
  /-- data flits of lanes that left the bundle, to be sent again under their bundle_seq [13_span R330 R333; reset none] -/
  again : List (BitVec 2048) := []
  /-- flits sent and not acknowledged by the bundle [13_span R336; reset 0] -/
  unacked : Nat := 0
  /-- lane after the one used last, in the order of link and lane [13_span R332; reset 0] -/
  rr : Nat := 0
  /-- consecutive VC0 flits sent, and the bulk channel that went last [13_span R333, 06_fabric R150; reset 0] -/
  vc0run : Nat := 0
  lastBulk : Nat := 0
  deriving DecidableEq, Repr

/-- The span registers and routing (R334–R339). -/
structure SpanRec where
  /-- SPAN_CFG shadow and committed [48; 13_span R339; reset 0] -/
  cfgSh : Word := 0
  cfg : Word := 0
  /-- SPAN_ROUTE0–63 shadow and committed [64 × 64; 13_span R339; value 0, inv 0xFFFF_FFFF] -/
  routeSh : Tab Word := []
  route : Tab Word := []
  /-- the harness's copies of routes and peers [2 × 64 × 64; 13_span R335 R337; reset as route and peer] -/
  routeCopy : Tab Word := []
  peerCopy : Tab Word := []
  /-- route in force per destination, while a change waits for the old bundle to drain [13_span R336; reset none] -/
  routeOld : Tab Word := []
  /-- SPAN_PEER0–63 [64 × 64; 13_span R337 R339; value 0, inv 0xFFFF_FFFF] -/
  peer : Tab Word := []
  /-- flits held at the ingress by a SPAN_PEER mismatch, with the side [13_span R337; reset none] -/
  held : List (Nat × Flit) := []
  /-- bundles by peer engine number [13_span R331; reset none] -/
  bundles : Tab BundleRec := []
  deriving DecidableEq, Repr

/-! ## Power and cooling (14, 15) -/

/-- A skein: its voltage domain, governor, monitor and sensors. -/
structure SkeinRec where
  /-- PD_CTRL shadow and committed [64; 14_power R359 Table 14.9; code 0, enable 0, slew 2, logic 0, inv 0xFFFF_FFFF] -/
  ctrlSh : Word := 0xFFFFFFFF00000800
  ctrl : Word := 0xFFFFFFFF00000800
  /-- the harness's copy of PD_CTRL [64; 14_power R347; reset as ctrl] -/
  ctrlCopy : Word := 0xFFFFFFFF00000800
  /-- PD_STATUS current, voltage, vmin, status [12 + 12 + 10 + 8; 14_power R359; reset 0] -/
  current : Nat := 0
  voltage : Nat := 0
  vmin : Nat := 0
  status : Nat := 0
  /-- PD_STATUS.state [3; 14_power R359; reset 0] -/
  state : Nat := 0
  /-- PD_STATUS.droop [1; 14_power R359; reset 0] -/
  droop : Bool := false
  /-- PD_STATUS.kappa_p [9; 14_power R352; reset 256] -/
  kappaP : Nat := 256
  /-- wafer time of vmin, and PD_DROOP_TIME [64 + 64; 14_power R351 R359; reset 0] -/
  vminTime : Nat := 0
  droopTime : Nat := 0
  /-- wafer time of the latest TELEM, whether stale; of the latest DROOP and OVERCURRENT reports + 1 [14_power R345 R351 R352; reset 0] -/
  telemAt : Nat := 0
  stale : Bool := false
  droopAt : Nat := 0
  overAt : Nat := 0
  /-- neighbour cap on kappa_p, and the skeins turning on that set it [14_power R349; reset none] -/
  caps : List (Nat × Nat) := []
  /-- turn-on requested since; started at [14_power R349; reset none] -/
  turnOnReq : Option Nat := none
  turnOnAt : Option Nat := none
  /-- the caps of its neighbours were set at this time, for the start 2 µs later [14_power R349; reset none] -/
  capsAt : Option Nat := none
  turnOffAt : Option Nat := none
  /-- the start is held by a neighbour since this time, and counted as waiting [14_power R349; reset none] -/
  heldSince : Option Nat := none
  waited : Bool := false
  /-- PW_COMMIT changes held until the turn-on ends (R347) [14_power R347; reset none] -/
  heldCtrl : Option Word := none
  /-- undervoltage gate since [14_power R351; reset none] -/
  gate : Option Nat := none
  /-- VCORE in mV as the monitor's latest sample of a droop or gate has it; none: it stands at its code (log entry 76)
  [10; 02_core R36, 14_power R351; reset none] -/
  sag : Option Nat := none
  /-- allowance A and burst B with complements [10 + 10 each twice; 05_contract R127 R130; 0] -/
  allowance : BitVec 10 := 0
  allowanceInv : BitVec 10 := 0x3FF
  burst : BitVec 10 := 0
  burstInv : BitVec 10 := 0x3FF
  /-- the harness's copies of both [05_contract R130; 0] -/
  allowCopy : Nat := 0
  burstCopy : Nat := 0
  mismatchReported : Bool := false
  /-- TH_SKEIN temp_a, temp_b, used, mode, suspect_a, suspect_b [15_thermal R376; reset 0] -/
  tempA : Nat := 0
  tempB : Nat := 0
  used : Nat := 0
  mode : Nat := 0
  suspectA : Bool := false
  suspectB : Bool := false
  /-- TH_SKEIN.kappa_s [9; 15_thermal R365; reset 256] -/
  kappaS : Nat := 256
  /-- TH_SKEIN hot_q, stretch; THERMAL_WARN and THERMAL_CRIT episodes [15_thermal R365 R376; reset 0] -/
  hotQ : Nat := 0
  hotStretch : Nat := 0
  warnEp : Bool := false
  critEp : Bool := false
  /-- latest samples (A, B), newest first, and consecutive agreeing samples [15_thermal R364; reset empty] -/
  samples : List (Nat × Nat) := []
  agreeRun : Nat := 0
  /-- port counters: configuration, count, completed window, previous window end [16_faults R390; reset 0] -/
  portCfg : Tab Nat := []
  portCnt : Tab Nat := []
  portWin : Tab Nat := []
  portWinAt : Nat := 0
  /-- hardware marked it dead (R354), or its field's VARR is lost (R355) [14_power R354 R355; reset 0] -/
  dead : Bool := false
  deriving DecidableEq, Repr

/-- A field: its Treadle lane and VARR domain. -/
structure FieldRec where
  /-- VA_STATUS current, voltage, status, lost [15 + 14 + 8 + 1; 14_power R359; reset 0] -/
  vaCurrent : Nat := 0
  vaVoltage : Nat := 0
  vaStatus : Nat := 0
  vaLost : Bool := false
  vaOverAt : Nat := 0
  /-- TRD_LANE state, crc_errors, naks, alert [2 + 16 + 8 + 1; 14_power R359; reset 0] -/
  laneState : Nat := 0
  crcErrors : Nat := 0
  naks : Nat := 0
  alert : Bool := false
  /-- command outstanding (payload, tries, sent at), commands waiting, next seq [14_power R345; reset none] -/
  cmd : Option (Word × Nat × Nat) := none
  cmdQueue : List Word := []
  cmdSeq : Nat := 0
  /-- commands sent, in order (downstream payloads) [model; 14_power R342; reset empty] -/
  sent : List Word := []
  /-- wafer time of the latest valid upstream frame [14_power R345; reset 0] -/
  upAt : Nat := 0
  /-- domains still to be read with READ_STATUS in a recovery [14_power R345; reset none] -/
  recovering : List Nat := []
  deriving DecidableEq, Repr

/-- Engine-wide power state (R353, R357, R359). -/
structure PowerRec where
  /-- PW_STATUS pf_seen, input_clamp [1 + 1; 14_power R359; reset 0] -/
  pfSeen : Bool := false
  inputClamp : Bool := false
  /-- PW_INPUT total, vcore, varr, other W [20 + 20 + 12 + 12; 14_power R359; reset 0] -/
  totalW : Nat := 0
  vcoreW : Nat := 0
  varrW : Nat := 0
  otherW : Nat := 0
  /-- PW_CFG vmin_code, droop_mv [9 + 8; 14_power R359; reset 288, 50] -/
  vminCode : Nat := 288
  droopMv : Nat := 50
  /-- PW_EVENTS overcurrent, turn_ons, neighbour_waits, neighbour_caps [4 × 16; 14_power R359; reset 0] -/
  overcurrent : Nat := 0
  turnOns : Nat := 0
  neighbourWaits : Nat := 0
  neighbourCaps : Nat := 0
  /-- telemetry of domains 97–102: (current, voltage) [14_power R344; reset 0] -/
  aux : Tab (Nat × Nat) := []
  /-- consecutive sums over the limit [14_power R353; reset 0] -/
  overSums : Nat := 0
  deriving DecidableEq, Repr

/-- Engine-wide cooling state (R360–R376). -/
structure ThermalRec where
  /-- strapped configuration and its complement [2 + 2; 15_thermal R361; Straps] -/
  config : Nat := 0
  configInv : Nat := 3
  /-- bench limit and bench H apply after a mismatch [1; 15_thermal R361; reset 0] -/
  configBad : Bool := false
  /-- TH_STATUS kappa_c, trip [9 + 1; 15_thermal R369 R373 R376; reset 256, 0] -/
  kappaC : Nat := 256
  trip : Bool := false
  /-- TH_TRAY inlet, outlet, flow readings: inlet and outlet signed 0.01 °C, flow 0.01 L/min; valid; hub_ok [15_thermal R366 R376; reset 0] -/
  inlet : Int := 0
  outlet : Int := 0
  flow : Nat := 0
  valid : Nat := 0
  hubOk : Bool := false
  hubLost : Bool := false
  /-- TH_FANS fan0–fan3 [4 × 16; 15_thermal R376; reset 0] -/
  fans : List Nat := [0, 0, 0, 0]
  /-- TH_CFG flow_nom, rpm_nom [10 + 16; 15_thermal R376; reset 400, 6,000] -/
  flowNom : Nat := 400
  rpmNom : Nat := 6000
  /-- TH_WARM floor_c, floor_w, enable, ramp_miss [8 + 14 + 1 + 16; 15_thermal R376; reset 45, 1,500, 1, 0] -/
  floorC : Nat := 45
  floorW : Nat := 1500
  warmEnable : Bool := true
  rampMiss : Nat := 0
  /-- warm-keep work is called for [1; 15_thermal R374; reset 0] -/
  warmOn : Bool := false
  /-- skeins on whose unoccupied cores firmware heat loops run [15_thermal R374; reset none] -/
  heatSkeins : List Nat := []
  /-- TH_EVENTS warn, crit, disagree, flow_low, flow_loss [15_thermal R376; reset 0] -/
  warn : Nat := 0
  crit : Nat := 0
  disagree : Nat := 0
  flowLow : Nat := 0
  flowLoss : Nat := 0
  /-- consecutive failed and good hub reads [15_thermal R367; reset 0] -/
  failedReads : Nat := 0
  goodReads : Nat := 0
  /-- valid flow samples, newest first: 0.01 L/min, or the sum of the valid fans in RPM (21 kept) [15_thermal R370; reset empty] -/
  flowHist : List Nat := []
  /-- COOLANT_FLOW_LOW episode; stop active since; step reached; consecutive samples of 0.75 of nominal in it
  [15_thermal R369–R371; reset none] -/
  lowEp : Bool := false
  stopAt : Option Nat := none
  stopStep : Nat := 0
  okRun : Nat := 0
  /-- fall of input power: reference input and time [15_thermal R375; reset none] -/
  fall : Option (Nat × Nat) := none
  /-- input at the latest evaluation, and its time [15_thermal R375; reset 0] -/
  prevTotal : Nat := 0
  prevAt : Nat := 0
  deriving DecidableEq, Repr

/-! ## Faults, beacon, ledger, boot (16, 17) -/

/-- An entry of a collector queue (R380); `slot3` is set where it takes a slot reserved for severity 3. -/
structure QueueEntry where
  slot3 : Bool
  msg : FaultMsg
  first : Nat
  latest : Nat
  count : Nat
  deriving DecidableEq, Repr

/-- A collector: its queue, held fatal messages and overflow latch (R380, R381). -/
structure CollectorRec where
  /-- [256 entries; 16_faults R380; reset empty] -/
  queue : List QueueEntry := []
  /-- severity-3 messages held at the input [16_faults R381; reset none] -/
  heldFatal : List FaultMsg := []
  /-- overflow episode active, and the one-message latch [16_faults R381; reset none] -/
  overflow : Bool := false
  latch : Option QueueEntry := none
  /-- FT_FIELDf dropped, high [32 + 8; 16_faults R393; reset 0] -/
  dropped : Nat := 0
  high : Nat := 0
  deriving DecidableEq, Repr

/-- A log record (Table 16.5). -/
structure LogRec where
  msg : FaultMsg
  first : Nat
  seq : Nat
  arrivals : Nat
  field : Nat
  latest : Nat
  deriving DecidableEq, Repr

/-- The fault log, the FAULT block and the beacon (R382–R386, R393). -/
structure FaultRec where
  collectors : Tab CollectorRec := []
  /-- round-robin position of the wafer collector [16_faults R382; reset 0] -/
  turn : Nat := 0
  /-- the wafer log, newest first [65,536 records; 16_faults R382; reset empty] -/
  log : List LogRec := []
  /-- FT_STATUS last_seq, wrapped, kick_lapsed [32 + 1 + 1; 16_faults R393; reset 0] -/
  lastSeq : Nat := 0
  wrapped : Bool := false
  kickLapsed : Bool := false
  /-- FT_CFG irq_sev, vector, force_en [3 + 6 + 1; 16_faults R393; reset 4, 0, 0] -/
  irqSev : Nat := 4
  vector : Nat := 0
  forceEn : Bool := false
  /-- FT_FORCE, FT_FORCE_GO go, err [64 + 1 + 1; 16_faults R393; reset 0] -/
  force : Word := 0
  forceGo : Bool := false
  forceErr : Bool := false
  /-- force pairs of the sources other than cores, by source number: message and go [16_faults R384; reset 0] -/
  forcePairs : Tab (Word × Bool) := []
  /-- FT_KINDk arrivals, dropped [64 × (32 + 32); 16_faults R393; reset 0] -/
  kindArrivals : Tab Nat := []
  kindDropped : Tab Nat := []
  /-- beacon latch: category, severity, time [16_faults R385; reset none] -/
  latched : Option (Nat × Nat × Nat) := none
  /-- onset times of the active conditions of Table 16.6, by category [16_faults R385; reset none] -/
  onset : Tab Nat := []
  /-- halted, and the category shown with it [16_faults R385; reset none] -/
  halted : Option Nat := none
  /-- FAULT flits sent and not arrived [16_faults R377; reset none] -/
  inFlight : List FaultMsg := []
  deriving DecidableEq, Repr

/-- The ledger totals of Table 16.11 (R396). -/
structure LedgerRec where
  seq : Nat := 0
  powerOnS : Nat := 0
  boots : Nat := 0
  powerFails : Nat := 0
  unrecordedEnds : Nat := 0
  trips : Nat := 0
  coolantStops : Nat := 0
  falling : Bool := false
  tcHi : Nat := 0
  tcLo : Nat := 0
  cycles : Tab Nat := []
  tMax : Nat := 0
  tMaxSkein : Nat := 0
  inletMax : Int := 0
  fieldMax : Tab Nat := []
  droops : Nat := 0
  uvGates : Nat := 0
  deepestMv : Nat := 0
  deepestSkein : Nat := 0
  corrErr : Tab Nat := []
  uncorrErr : Tab Nat := []
  laneRetrains : Tab Nat := []
  reruns : Nat := 0
  escalations : Nat := 0
  warnedTokens : Nat := 0
  watchdogReplays : Nat := 0
  coresMoved : Nat := 0
  skeinsMoved : Nat := 0
  /-- fatal ring: (message, forced-free; power_on_s; wafer time) by index, and the next index -/
  fatal : Tab (Nat × Nat × Nat) := []
  fatalNext : Nat := 0
  deriving DecidableEq, Repr

/-- The ledger memory's records as stored: totals and the final flag; the slot is cut off while being written (R397). -/
structure LedgerSlot where
  held : Option (LedgerRec × Bool) := none
  deriving DecidableEq, Repr

/-- The SECURITY block and the on-module ledger memory (R233, R395, R397, R426). -/
structure LedgerMem where
  /-- totals kept by the harness [16_faults R396; DESIGN CHOICE zero, log 9] -/
  totals : LedgerRec := {}
  /-- records A and B, and the slot of the newest valid record [16_faults R395 R397; DESIGN CHOICE none, log 9] -/
  slotA : LedgerSlot := {}
  slotB : LedgerSlot := {}
  /-- LG_STATUS reset, write_fail [1 + 1; 16_faults R393; reset 0] -/
  noRecord : Bool := false
  writeFail : Bool := false
  /-- bad sites of the factory good-core map, by core number [36 KiB; 16_faults R395; DESIGN CHOICE all good, log 9] -/
  badCores : List Nat := []
  /-- anchors in the ledger memory: (hash, inv, valid) by slot [8 × 769; 09_bolts_weights R233; DESIGN CHOICE none, log 9] -/
  anchors : Tab (BitVec 384 × BitVec 384 × Bool) := []
  /-- fatal messages waiting for the next record [16_faults R383; reset none] -/
  pendingFatal : List (Nat × Nat) := []
  deriving DecidableEq, Repr

/-- The SECURITY registers (R233, R426). -/
structure SecurityRec where
  /-- ANCHORi shadow and committed: hash, inv, valid [8 × 769; 09_bolts_weights R233; Ledger] -/
  anchorSh : Tab (BitVec 384 × BitVec 384 × Bool) := []
  anchor : Tab (BitVec 384 × BitVec 384 × Bool) := []
  /-- ANCHOR_LOCK.lock [1; 09_bolts_weights R233; reset 0] -/
  lock : Bool := false
  /-- SEC_STATUS.mismatch [8; 18_registers R426; reset 0] -/
  mismatch : BitVec 8 := 0
  deriving DecidableEq, Repr

/-- SHED phases (Table 17.5). -/
inductive ShedPhase where
  | s | b | quiet | f
  deriving DecidableEq, Repr

/-- JTAG instructions (R417). -/
inductive Jtag where
  | bypass | idcode | sample | extest | clamp | highz
  deriving DecidableEq, Repr

/-- Boot, pins, clocks, JTAG (17). -/
structure BootRec where
  /-- RESET_N is high and the straps have been latched [1; 17_pins_boot R403; reset 0] -/
  booted : Bool := false
  /-- BOOT_STATUS stage, boot_src, mgmt_addr, slot, fallback, sysclk_lost, short_cores, fail [17_pins_boot R418; reset 0, Straps] -/
  stage : Nat := 0
  strapConfig : Nat := 0
  bootSrc : Bool := false
  mgmtAddr : Bool := false
  slot : Nat := 0
  fallback : Bool := false
  sysclkLost : Bool := false
  shortCores : Bool := false
  fail : Nat := 0
  /-- BOOT_STATUS svn, fw_version [16 + 32; 17_pins_boot R418; reset 0] -/
  svn : Nat := 0
  fwVersion : Nat := 0
  /-- BOOT_TIME ready_us, dead_cores, dead_skeins [32 + 19 + 13; 17_pins_boot R418; reset 0] -/
  readyUs : Nat := 0
  deadCores : Nat := 0
  deadSkeins : Nat := 0
  /-- step of Table 17.10 now running, 0 none [3; 17_pins_boot R411; reset 0] -/
  step : Nat := 0
  /-- T1: wafer time at which RESET_N rose [17_pins_boot R403; reset 0] -/
  t1 : Nat := 0
  /-- good sites found at boot: dead cores of this run [17_pins_boot R410 R412; reset none] -/
  deadThisRun : List Nat := []
  /-- spare skein of each field [05_contract R132, 17_pins_boot R411; reset none] -/
  spareSkein : Tab Nat := []
  /-- SHED phase; ALIVE running, and its level; kick time [17_pins_boot R403, 16_faults R386; reset S, 0] -/
  shed : ShedPhase := .s
  aliveOn : Bool := false
  aliveLevel : Bool := false
  kickAt : Nat := 0
  /-- OFF_REQ_N and THERM_TRIP_N driven low [1 + 1; 17_pins_boot R416, 15_thermal R373; reset 0] -/
  offReq : Bool := false
  thermTrip : Bool := false
  /-- firmware image buffer, tray flash slots (tag valid, seq, image), write in progress: slot and image [17_pins_boot R408 R414; reset empty] -/
  staged : List Host.Cell := []
  flash0 : Option (Nat × List Byte) := none
  flash1 : Option (Nat × List Byte) := none
  writing : Option (Nat × List Byte) := none
  writeWaits : Option Nat := none
  /-- JTAG instruction, its data register, boundary cells [17_pins_boot R417; reset IDCODE, PRESUMED log 10] -/
  jtag : Jtag := .idcode
  tdr : BitVec 32 := 0
  boundary : List Bool := []
  /-- PCIe link of each port is up [4; 17_pins_boot R407 R399; reset 0] -/
  linkUp : BitVec 4 := 0
  /-- PLDM response latest returned [17_pins_boot R415; reset 0] -/
  pldm : Nat := 0
  deriving DecidableEq, Repr

/-! ## Counters (16) -/

/-- A bolt's counter page (Table 16.9). -/
structure CtPage where
  /-- CT_BCFG [30; 16_faults R391; reset 0] -/
  bcfg : Word := 0
  /-- CT_SNAP [64; 16_faults R391; reset 0] -/
  snap : Word := 0
  /-- CT_SNAP_CTRL mode, done, short, len [2 + 1 + 1 + 32; 16_faults R391; reset 0] -/
  snapMode : Nat := 0
  snapDone : Bool := false
  snapShort : Bool := false
  snapLen : Nat := 0
  /-- CT_SAMPLE_CFG [64; 16_faults R391; reset 0] -/
  sampleCfg : Word := 0
  /-- CT_SAMPLE_RING [64; 16_faults R391; reset 0] -/
  ring : Word := 0
  /-- CT_SAMPLE_CTRL size_code, vector, head, tail, dropped [4 + 6 + 16 + 16 + 16; 16_faults R391; reset 0] -/
  sizeCode : Nat := 0
  vector : Nat := 0
  head : Nat := 0
  tail : Nat := 0
  dropped : Nat := 0
  /-- CT_PORTCFG0–7 [8 × 20; 16_faults R391; reset 0] -/
  portCfg : Tab Word := []
  deriving DecidableEq, Repr

/-- A bolt's SERVE registers (Tables 7.4, 8.7, 11.8). -/
structure ServeRec where
  /-- SV_CFG ttl_default, growth_tokens [32 + 21; 11_serving R310; reset 600,000, 1,024] -/
  ttlDefault : Nat := 600000
  growth : Nat := 1024
  /-- SV_ADMIT [4 × 16; 11_serving R310; reset 0] -/
  admitted : Nat := 0
  deferred : Nat := 0
  rejMemory : Nat := 0
  rejTime : Nat := 0
  /-- SV_SLO [2 × 32; 11_serving R310; reset 0] -/
  ttftViol : Nat := 0
  tbtViol : Nat := 0
  /-- KV_RET [50; 08_attention R226; threshold 16,384, top_n 256, sink 1, recent 8, prefetch 32] -/
  kvRet : Word := 16384 ||| (256 <<< 21) ||| (1 <<< 30) ||| (8 <<< 34) ||| (32 <<< 42)
  /-- KV_FETCH, KV_PREFETCH, KV_DROP, KV_EMPTY, KV_FLUSH [08_attention R226; reset 0] -/
  demand : Nat := 0
  stallUs : Nat := 0
  prefetchIssued : Nat := 0
  prefetchUsed : Nat := 0
  dropPages : Nat := 0
  dropRequests : Nat := 0
  recomputes : Nat := 0
  emptyRows : Nat := 0
  flushes : Nat := 0
  mapMismatch : Nat := 0
  /-- NW_REPLAY, NW_WARN, NW_GRAD [07_four_bit R191; reset 0] -/
  reruns : Nat := 0
  escalations : Nat := 0
  warned : Nat := 0
  lost : Nat := 0
  gradReplays : Nat := 0
  gradDiscards : Nat := 0
  /-- NW_REGIONr triggers and last_ratio [24 + 32; 07_four_bit R191; reset 0] -/
  triggers : Tab Nat := []
  lastRatio : Tab Nat := []
  deriving DecidableEq, Repr

/-! ## The engine -/

/-- The whole engine. -/
structure State where
  /-- Commands waiting, first in first out [model; task; reset empty] -/
  pending : List Instr := []
  /-- Wafer time in ns [64; 00_scope R13; reset 0] -/
  time : Nat := 0
  /-- Counter behind the free values: each open value takes the next [the MODEL's own; DESIGN CHOICE 0, log 3] -/
  free : Nat := 0
  /-- Cores by core number [294,912; 02_core] -/
  cores : Tab CoreRec := []
  /-- Routers by core number [294,912; 06_fabric] -/
  routers : Tab RouterRec := []
  /-- Flits in flight [06_fabric R147; reset none] -/
  net : List NetFlit := []
  /-- Harness cores [16; 01_architecture R30, 06_fabric R174] -/
  harness : Tab HarnessRec := []
  /-- Token-unit inbound lines, by side: 512 slots of 32 B [4 × 16 KiB; 06_fabric R171; DESIGN CHOICE zero, log 5] -/
  tokenIn : Tab (List Host.Cell) := []
  /-- Host apertures by 512·side + index: the function and the host address that the harness maps [4 × 512; 06_fabric R171;
  reset unmapped] -/
  aperture : Tab (Option (Nat × Nat)) := []
  /-- Lines accepted by a selvedge object and not yet acknowledged, by object [06_fabric R164; reset none] -/
  selvRx : Tab (List RxCount) := []
  /-- Responses that reached the harness: latest CTRL_RESP data, and CTRL probes outstanding by core [06_fabric R148, 09_bolts_weights R254; reset none] -/
  ctrlData : Word := 0
  probes : Tab Nat := []
  bolts : Tab BoltRec := []
  adapters : Tab AdapterRec := []
  serve : Tab ServeRec := []
  /-- Request table [16,384; 11_serving R284; reset FREE] -/
  reqs : Tab ReqRec := []
  /-- SV_TABLE.low_free, SV_MISMATCH.key [15 + 16; 11_serving R310; reset 16,384, 0] -/
  lowFree : Nat := 16384
  keyMismatch : Nat := 0
  qps : Tab QpRec := []
  funcs : Tab FuncRec := []
  /-- Host memory as the engine has written it [64-bit space; 10_host R271 R276; DESIGN CHOICE zero, log 5] -/
  hostMem : List Host.Cell := []
  /-- MSI-X messages sent: (function, vector), newest first [10_host R275; reset none] -/
  msix : List (Nat × Nat) := []
  /-- Value returned by the latest host read [64; 18_registers R420; reset 0] -/
  lastRead : Word := 0
  /-- Exchange RAM, 256 KiB, and XRAM_STATUS collision, coll_word [10_host R278 R279; DESIGN CHOICE zero, log 5; reset 0] -/
  xram : List Host.Cell := []
  xramColl : Bool := false
  xramWord : Nat := 0
  /-- ENGINE_STATUS.bad_access [16; 18_registers R423; reset 0] -/
  badAccess : Nat := 0
  creel : Tab PortRec := []
  links : Tab LinkRec := []
  span : SpanRec := {}
  skeins : Tab SkeinRec := []
  fields : Tab FieldRec := []
  power : PowerRec := {}
  thermal : ThermalRec := {}
  faults : FaultRec := {}
  /-- CT_CORE_SEL, CT_CORE_VAL0–3 [20 + 4 × 48; 16_faults R391; reset 0] -/
  ctSel : Nat := 0
  ctVal : Tab Nat := []
  ctPages : Tab CtPage := []
  ledger : LedgerMem := {}
  security : SecurityRec := {}
  boot : BootRec := {}
  deriving DecidableEq, Repr

/-- The engine right after reset: every field at the value its docstring gives, which is the field's default in the
structures above; every core, router, link and other part reads as its record's defaults. -/
def State.reset : State := {}

end Sys2Proof.Machine
end

