-- ==== Sys2Proof/Machine/Ops.lean ====
section
/-! DEFINITION. The operations that every family shares: bit fields, sparse tables, memory, the accessors of the
engine's parts, the guard on unit numbers, and the report of a fault message. -/

namespace Sys2Proof.Machine

open Sys2Proof

/-! ## Bits and bytes -/

/-- Bits `[lo+n-1:lo]` of a number. -/
def bits (w lo n : Nat) : Nat := (w >>> lo) % 2 ^ n

/-- One bit of a number. -/
def bitAt (w i : Nat) : Bool := (w >>> i) % 2 == 1

/-- `w` with `v` in bits `[lo+n-1:lo]`. -/
def setBits (w lo n v : Nat) : Nat := w - ((bits w lo n) <<< lo) + ((v % 2 ^ n) <<< lo)

/-- The two's complement value of the low `n` bits. -/
def sext (n v : Nat) : Int :=
  let u := v % 2 ^ n
  if u < 2 ^ (n - 1) then (u : Int) else (u : Int) - (2 ^ n : Nat)

/-- The `n`-bit code of an integer, wrapping. -/
def toBits (n : Nat) (v : Int) : Nat := (v % ((2 ^ n : Nat) : Int)).toNat

def boolNat (b : Bool) : Nat := if b then 1 else 0

/-- A counter of `n` bits that saturates (R15, RC fields). -/
def satAdd (n x d : Nat) : Nat := min (x + d) (2 ^ n - 1)

/-- Bitwise complement in `n` bits (R17). -/
def compl (n x : Nat) : Nat := 2 ^ n - 1 - x % 2 ^ n

/-- Little-endian value of a byte list. -/
def leNat : List Byte → Nat
  | [] => 0
  | b :: r => b.toNat + 256 * leNat r

/-- Little-endian field of `n` bytes at an offset of a byte list; bytes past the end read 0. -/
def leAt (bs : List Byte) (off n : Nat) : Nat := leNat ((bs.drop off).take n)

/-- The `n` bytes of a number, least significant first. -/
def leBytes : Nat → Nat → List Byte
  | 0, _ => []
  | n + 1, v => BitVec.ofNat 8 v :: leBytes n (v / 256)

/-- `f 0`, …, `f (n-1)`. -/
def tabulate {α : Type} (n : Nat) (f : Nat → α) : List α := (List.range n).map f

/-- The number whose field `i` of `w` bits is `f i`. -/
def packFields (w n : Nat) (f : Nat → Nat) : Nat :=
  (List.range n).foldl (fun a i => a + ((f i % 2 ^ w) <<< (w * i))) 0

/-! ## Sparse tables -/

/-- What key `k` holds; `d` where the table lists nothing. -/
def Tab.get {α : Type} (d : α) : List (Nat × α) → Nat → α
  | [], _ => d
  | (k', v) :: r, k => if k' = k then v else Tab.get d r k

/-- Entry `(k, v)` placed in key order, replacing an entry of `k`. -/
def Tab.insert {α : Type} : List (Nat × α) → Nat → α → List (Nat × α)
  | [], k, v => [(k, v)]
  | (k', w) :: r, k, v =>
    if k < k' then (k, v) :: (k', w) :: r
    else if k = k' then (k, v) :: r
    else (k', w) :: Tab.insert r k v

/-- No entry of `k`. -/
def Tab.erase {α : Type} (t : List (Nat × α)) (k : Nat) : List (Nat × α) := t.filter fun e => e.1 ≠ k

/-- Key `k` made to hold `v`: the default leaves no entry, which keeps the canonical form. -/
def Tab.put {α : Type} [DecidableEq α] (d : α) (t : List (Nat × α)) (k : Nat) (v : α) : List (Nat × α) :=
  if v = d then Tab.erase t k else Tab.insert t k v

/-- Keys rise strictly. -/
def Tab.sorted {α : Type} : List (Nat × α) → Bool
  | [] => true
  | [_] => true
  | (k, _) :: (k', w) :: r => decide (k < k') && Tab.sorted ((k', w) :: r)

/-- The canonical form: keys rise strictly and no entry holds the default. -/
def Tab.wf {α : Type} [DecidableEq α] (d : α) (t : List (Nat × α)) : Bool :=
  Tab.sorted t && t.all fun e => decide (e.2 ≠ d)

/-! ## Memory: byte cells in canonical form. A byte that nothing has written reads 0 (log entry 5). -/

/-- The canonical form of a memory. -/
abbrev Memory.wf (m : List Host.Cell) : Bool := Tab.wf (0 : Byte) m

def readByte (m : List Host.Cell) (a : Nat) : Byte := Tab.get 0 m a

def writeByte (m : List Host.Cell) (a : Nat) (b : Byte) : List Host.Cell := Tab.put 0 m a b

/-- The `n` bytes from `a` on. -/
def readBytes (m : List Host.Cell) (a : Nat) : Nat → List Byte
  | 0 => []
  | n + 1 => readByte m a :: readBytes m (a + 1) n

def writeBytes (m : List Host.Cell) (a : Nat) : List Byte → List Host.Cell
  | [] => m
  | b :: r => writeBytes (writeByte m a b) (a + 1) r

/-- The little-endian number in `n` bytes from `a` on. -/
def readLE (m : List Host.Cell) (a n : Nat) : Nat := leNat (readBytes m a n)

def writeLE (m : List Host.Cell) (a n v : Nat) : List Host.Cell := writeBytes m a (leBytes n v)

/-- The cells of a range removed: it reads as never written. -/
def clearRange (m : List Host.Cell) (a n : Nat) : List Host.Cell := m.filter fun e => !(a ≤ e.1 && e.1 < a + n)

/-! ## Outcomes -/

abbrev Out := Host.Outcome State Fault Refusal

/-- A command on a unit: its effect where the engine has the unit, and a fault where it has none (R4, R5, R10). -/
def onUnit (ok : Bool) (s : State) (f : State → State) : Out :=
  if ok then .next (f s) else .fault .noSuchUnit

def onCore (c : Nat) (s : State) (f : State → State) : Out := onUnit (decide (c < Config.nCores)) s f
def onSkein (k : Nat) (s : State) (f : State → State) : Out := onUnit (decide (k < Config.nSkeins)) s f
def onField (k : Nat) (s : State) (f : State → State) : Out := onUnit (decide (k < Config.nFields)) s f
def onHarness (h : Nat) (s : State) (f : State → State) : Out := onUnit (decide (h < Config.nHarness)) s f
def onBolt (b : Nat) (s : State) (f : State → State) : Out := onUnit (decide (b < Config.nBolts)) s f
def onQp (q : Nat) (s : State) (f : State → State) : Out := onUnit (decide (q < Config.nQueuePairs)) s f
def onFunc (k : Nat) (s : State) (f : State → State) : Out := onUnit (decide (k < Config.nFunctions)) s f
def onReq (i : Nat) (s : State) (f : State → State) : Out := onUnit (decide (i < Config.nRequests)) s f
def onPort (p : Nat) (s : State) (f : State → State) : Out := onUnit (decide (p < Config.nPorts)) s f
def onLink (l : Nat) (s : State) (f : State → State) : Out := onUnit (decide (l < Config.nLinks)) s f

/-- An effect under a condition of the state; where it fails the event does not take place (log entry 1). -/
def whenS (b : Bool) (s : State) (f : State → State) : State := if b then f s else s

/-! ## The engine's parts -/

/-- Cores by core number: the record of unit `k`, its replacement, and a change of it. -/
def State.core (s : State) (k : Nat) : CoreRec := Tab.get {} s.cores k
def State.setCore (s : State) (k : Nat) (r : CoreRec) : State := { s with cores := Tab.put {} s.cores k r }
def State.modCore (s : State) (k : Nat) (f : CoreRec → CoreRec) : State := s.setCore k (f (s.core k))

/-- Routers by core number: the record of unit `k`, its replacement, and a change of it. -/
def State.router (s : State) (k : Nat) : RouterRec := Tab.get {} s.routers k
def State.setRouter (s : State) (k : Nat) (r : RouterRec) : State := { s with routers := Tab.put {} s.routers k r }
def State.modRouter (s : State) (k : Nat) (f : RouterRec → RouterRec) : State := s.setRouter k (f (s.router k))

/-- Harness cores: the record of unit `k`, its replacement, and a change of it. -/
def State.harn (s : State) (k : Nat) : HarnessRec := Tab.get {} s.harness k
def State.setHarn (s : State) (k : Nat) (r : HarnessRec) : State := { s with harness := Tab.put {} s.harness k r }
def State.modHarn (s : State) (k : Nat) (f : HarnessRec → HarnessRec) : State := s.setHarn k (f (s.harn k))

/-- Bolts: the record of unit `k`, its replacement, and a change of it. -/
def State.bolt (s : State) (k : Nat) : BoltRec := Tab.get {} s.bolts k
def State.setBolt (s : State) (k : Nat) (r : BoltRec) : State := { s with bolts := Tab.put {} s.bolts k r }
def State.modBolt (s : State) (k : Nat) (f : BoltRec → BoltRec) : State := s.setBolt k (f (s.bolt k))

/-- Adapter slots: the record of unit `k`, its replacement, and a change of it. -/
def State.adapter (s : State) (k : Nat) : AdapterRec := Tab.get {} s.adapters k
def State.setAdapter (s : State) (k : Nat) (r : AdapterRec) : State := { s with adapters := Tab.put {} s.adapters k r }
def State.modAdapter (s : State) (k : Nat) (f : AdapterRec → AdapterRec) : State := s.setAdapter k (f (s.adapter k))

/-- SERVE registers of a bolt: the record of unit `k`, its replacement, and a change of it. -/
def State.serveOf (s : State) (k : Nat) : ServeRec := Tab.get {} s.serve k
def State.setServeOf (s : State) (k : Nat) (r : ServeRec) : State := { s with serve := Tab.put {} s.serve k r }
def State.modServeOf (s : State) (k : Nat) (f : ServeRec → ServeRec) : State := s.setServeOf k (f (s.serveOf k))

/-- Request-table entries: the record of unit `k`, its replacement, and a change of it. -/
def State.req (s : State) (k : Nat) : ReqRec := Tab.get {} s.reqs k
def State.setReq (s : State) (k : Nat) (r : ReqRec) : State := { s with reqs := Tab.put {} s.reqs k r }
def State.modReq (s : State) (k : Nat) (f : ReqRec → ReqRec) : State := s.setReq k (f (s.req k))

/-- Queue pairs: the record of unit `k`, its replacement, and a change of it. -/
def State.qp (s : State) (k : Nat) : QpRec := Tab.get {} s.qps k
def State.setQp (s : State) (k : Nat) (r : QpRec) : State := { s with qps := Tab.put {} s.qps k r }
def State.modQp (s : State) (k : Nat) (f : QpRec → QpRec) : State := s.setQp k (f (s.qp k))

/-- PCIe functions: the record of unit `k`, its replacement, and a change of it. -/
def State.func (s : State) (k : Nat) : FuncRec := Tab.get {} s.funcs k
def State.setFunc (s : State) (k : Nat) (r : FuncRec) : State := { s with funcs := Tab.put {} s.funcs k r }
def State.modFunc (s : State) (k : Nat) (f : FuncRec → FuncRec) : State := s.setFunc k (f (s.func k))

/-- Creel ports: the record of unit `k`, its replacement, and a change of it. -/
def State.port (s : State) (k : Nat) : PortRec := Tab.get {} s.creel k
def State.setPort (s : State) (k : Nat) (r : PortRec) : State := { s with creel := Tab.put {} s.creel k r }
def State.modPort (s : State) (k : Nat) (f : PortRec → PortRec) : State := s.setPort k (f (s.port k))

/-- Aumen links: the record of unit `k`, its replacement, and a change of it. -/
def State.link (s : State) (k : Nat) : LinkRec := Tab.get {} s.links k
def State.setLink (s : State) (k : Nat) (r : LinkRec) : State := { s with links := Tab.put {} s.links k r }
def State.modLink (s : State) (k : Nat) (f : LinkRec → LinkRec) : State := s.setLink k (f (s.link k))

/-- Skeins: the record of unit `k`, its replacement, and a change of it. -/
def State.skein (s : State) (k : Nat) : SkeinRec := Tab.get {} s.skeins k
def State.setSkein (s : State) (k : Nat) (r : SkeinRec) : State := { s with skeins := Tab.put {} s.skeins k r }
def State.modSkein (s : State) (k : Nat) (f : SkeinRec → SkeinRec) : State := s.setSkein k (f (s.skein k))

/-- Core fields: the record of unit `k`, its replacement, and a change of it. -/
def State.field (s : State) (k : Nat) : FieldRec := Tab.get {} s.fields k
def State.setField (s : State) (k : Nat) (r : FieldRec) : State := { s with fields := Tab.put {} s.fields k r }
def State.modField (s : State) (k : Nat) (f : FieldRec → FieldRec) : State := s.setField k (f (s.field k))

/-- Counter pages: the record of unit `k`, its replacement, and a change of it. -/
def State.ctPage (s : State) (k : Nat) : CtPage := Tab.get {} s.ctPages k
def State.setCtPage (s : State) (k : Nat) (r : CtPage) : State := { s with ctPages := Tab.put {} s.ctPages k r }
def State.modCtPage (s : State) (k : Nat) (f : CtPage → CtPage) : State := s.setCtPage k (f (s.ctPage k))

/-! ## Coordinates (R4) -/

def coreX (c : Nat) : Nat := c % 512
def coreY (c : Nat) : Nat := c / 512
def coreNum (x y : Nat) : Nat := y * 512 + x
def skeinOf (c : Nat) : Nat := (coreY c / 8) * 64 + coreX c / 8
def skeinX (k : Nat) : Nat := k % 64
def skeinY (k : Nat) : Nat := k / 64
def fieldOf (c : Nat) : Nat := (coreY c / 96) * 8 + coreX c / 64
def fieldOfSkein (k : Nat) : Nat := (skeinY k / 12) * 8 + skeinX k / 8
/-- The `q`-th core of a skein, in rows from its north-west corner (R132). -/
def skeinCore (k q : Nat) : Nat := coreNum (skeinX k * 8 + q % 8) (skeinY k * 8 + q / 8)
def skeinCores (k : Nat) : List Nat := tabulate 64 (skeinCore k)
/-- Router within the skein (R132). -/
def coreQ (c : Nat) : Nat := (coreY c % 8) * 8 + coreX c % 8
/-- The side of a queue's or function's PCIe port: N, E, S, W as 0–3 (R260). -/
def funcPort (f : Nat) : Nat := f / 8

/-! ## Global addresses (Table 0.1a) -/

def gaEngine (a : Nat) : Nat := bits a 41 6
def gaY (a : Nat) : Nat := bits a 31 10
def gaX (a : Nat) : Nat := bits a 22 9
def gaSs (a : Nat) : Nat := bits a 19 3
def gaOff (a : Nat) : Nat := bits a 0 19
/-- The 22-bit offset of a selvedge object, or the store select and offset of a core. -/
def gaLow (a : Nat) : Nat := bits a 0 22
def gaMake (engine y x low : Nat) : Nat := (engine <<< 41) + (y <<< 31) + (x <<< 22) + low

/-- The engine's own number, SPAN_CFG.number (R334). -/
def State.engineNo (s : State) : Nat := bits s.span.cfg.toNat 0 6

/-! ## Fault messages (R377–R379) -/

/-- The severity that Table 16.3 gives a kind; for kinds with two, the lower one. -/
def kindSeverity (k : Nat) : Nat :=
  if k = 0x20 then 0
  else if k ∈ [0x01, 0x06, 0x0B, 0x0E, 0x0F, 0x10, 0x12, 0x13, 0x15, 0x17, 0x18, 0x1A, 0x1C, 0x1F] then 1
  else 2

/-- The category that Table 16.3 gives a kind. -/
def kindCategory (k : Nat) : Nat :=
  if k ∈ [0x01, 0x02, 0x03, 0x10, 0x11] then 1
  else if k ∈ [0x04, 0x0D, 0x0E, 0x0F] then 2
  else if k ∈ [0x05, 0x07, 0x08, 0x09, 0x0A, 0x0B, 0x0C, 0x20] then 3
  else if k ∈ [0x06, 0x12, 0x13, 0x14, 0x1E] then 4
  else if k ∈ [0x15, 0x16, 0x17] then 5
  else if k ∈ [0x18, 0x19] then 6
  else if k ∈ [0x1A, 0x1B] then 7
  else if k ∈ [0x1C, 0x1F] then 8
  else if k = 0x1D then 15
  else 0

/-- A message sent with a given severity: it travels on VC0 until a FAULT command delivers it (R377). -/
def State.reportSev (s : State) (source kind sev detail : Nat) : State :=
  { s with faults := { s.faults with
      inFlight := s.faults.inFlight ++ [⟨source, kind, sev, detail % 2 ^ 36, false⟩] } }

/-- A message sent with its kind's severity. -/
def State.report (s : State) (source kind detail : Nat) : State :=
  s.reportSev source kind (kindSeverity kind) detail

def srcSkein (k : Nat) : Nat := 0x48000 + k
def srcPort (p : Nat) : Nat := 0x80000 + p
def srcLink (l : Nat) : Nat := 0x80100 + l
def srcFunc (f : Nat) : Nat := 0x80200 + f
def srcHarness (h : Nat) : Nat := 0x80300 + h
def srcToken (side : Nat) : Nat := 0x80400 + side
def srcTreadle (f : Nat) : Nat := 0x80500 + f
def srcCollector (f : Nat) : Nat := 0x80600 + f
def srcWafer : Nat := 0x80700
def srcThermal : Nat := 0x80701
def srcPower : Nat := 0x80702
def srcLoader : Nat := 0x80703
def srcReqTable : Nat := 0x80704
def srcSpan : Nat := 0x80705
def srcBolt (b : Nat) : Nat := 0x80800 + b

/-- The next free value's index; each open value takes one (log entry 3). -/
def State.takeFree (s : State) : Nat × State := (s.free, { s with free := s.free + 1 })

/-- An MSI-X message of a function's vector: a masked vector sets its pending bit; a function that cannot be written holds
it in the same way (R275, R283). -/
def State.sendMsix (s : State) (f v : Nat) : State :=
  let r := s.func f
  if r.masked.getLsbD v || !r.writable then
    s.setFunc f { r with pendingMsix := r.pendingMsix ||| BitVec.ofNat 64 (2 ^ v) }
  else { s with msix := (f, v) :: s.msix }

/-- What the engine does while no command waits: the wafer time advances by 1 ns (R13; log entry 17). -/
def State.idle (s : State) : State := { s with time := (s.time + 1) % 2 ^ 64 }

/-! ## Flits in flight: the list keeps the order of injection (R152) -/

/-- The first occurrence of an entry replaced by a list of entries. -/
def swapFirst (e : NetFlit) (l : List NetFlit) : List NetFlit → List NetFlit
  | [] => []
  | a :: r => if a = e then l ++ r else a :: swapFirst e l r

/-- The list without the first occurrence of an entry. -/
def dropFirst (e : NetFlit) : List NetFlit → List NetFlit := swapFirst e []

/-- The router in which a flit in flight stands. -/
def Loc.atRouter : Loc → Option (Nat × Nat)
  | .router x y _ => some (x, y)
  | .held x y _ => some (x, y)
  | .made x y => some (x, y)
  | .queued x y _ _ => some (x, y)
  | _ => none

def State.putNet (s : State) (f : Flit) (l : Loc) : State := { s with net := s.net ++ [⟨f, l⟩] }
def State.swapNet (s : State) (e : NetFlit) (l : List NetFlit) : State := { s with net := swapFirst e l s.net }

/-! ## FAULT flits (R377, R378; log entry 73) -/

/-- The message word of Table 16.1. -/
def msgWord (m : FaultMsg) : Nat := m.detail % 2 ^ 36 + (m.severity <<< 36) + (m.kind <<< 38) + (m.source <<< 44)

/-- The line of a FAULT flit: the message, and the forced flag in bit 64. -/
def faultLine (m : FaultMsg) : Line := BitVec.ofNat 256 (msgWord m + (boolNat m.forced <<< 64))

/-- The router whose core port injects the FAULT flits of a core or skein monitor; other sources stand in the selvedge. -/
def faultRouter (source : Nat) : Option Nat :=
  if source < Config.nCores then some source
  else if 0x48000 ≤ source ∧ source < 0x48000 + Config.nSkeins then some (skeinCore (source - 0x48000) 0) else none

/-- The core whose port a field's collector is at: the field's north-west one. -/
def collectorCore (f : Nat) : Nat := coreNum (64 * (f % 8)) (96 * (f / 8))

/-- The place at which a FAULT flit of a unit on the array has arrived. -/
def collectorLoc (c : Nat) : Loc := .core (coreX (collectorCore (fieldOf c))) (coreY (collectorCore (fieldOf c)))

/-! ## Lists as sets -/

def insertSorted (x : Nat) : List Nat → List Nat
  | [] => [x]
  | y :: r => if x < y then x :: y :: r else if x = y then y :: r else y :: insertSorted x r

end Sys2Proof.Machine
end

