-- ==== Sys2Proof/Machine/CoreOps.lean ====
section
/-! DEFINITION. One core at work: its record together with what it sends, its stores under SECDED (R53, R59), the
alias read-modify-write (R58), freezing (R40), and the performance counters (R387–R389). -/

namespace Sys2Proof.Machine

open Sys2Proof

/-- A core's record while a command acts on it, with the fault messages `(kind, severity, detail)` and the flits it has
sent, oldest first, and the next free-value index. -/
structure Cx where
  r : CoreRec
  msgs : List (Nat × Nat × Nat)
  out : List Flit
  free : Nat

def State.cx (s : State) (c : Nat) : Cx := ⟨s.core c, [], [], s.free⟩

/-- The core's work put back into the engine: its messages go out with the core as source (R378), its flits stand at its
router's core port. -/
def State.putCx (s : State) (c : Nat) (x : Cx) : State :=
  let s1 := s.setCore c x.r
  { s1 with
    free := x.free
    faults := { s1.faults with
      inFlight := s1.faults.inFlight ++ x.msgs.map fun m => ⟨c, m.1, m.2.1, m.2.2 % 2 ^ 36, false⟩ }
    net := s1.net ++ x.out.map fun f => ⟨f, .router (coreX c) (coreY c) 0⟩ }

def State.onCx (s : State) (c : Nat) (f : Cx → Cx) : State := s.putCx c (f (s.cx c))

def Cx.say (x : Cx) (kind sev detail : Nat) : Cx := { x with msgs := x.msgs ++ [(kind, sev, detail)] }
def Cx.send (x : Cx) (f : Flit) : Cx := { x with out := x.out ++ [f] }
def Cx.setR (x : Cx) (r : CoreRec) : Cx := { x with r := r }
def Cx.mod (x : Cx) (f : CoreRec → CoreRec) : Cx := { x with r := f x.r }
def Cx.modDp (x : Cx) (f : Datapath → Datapath) : Cx := { x with r := { x.r with dp := f x.r.dp } }

/-- A flit of this core; its router stamps engine, coordinates and bolt as it enters (R147, R160). -/
def blankFlit (ty : FlitType) (vc dst : Nat) : Flit :=
  { dst := dst, srcY := 0, srcX := 0, srcEngine := 0, type := ty, vc := vc, ext := false, bolt := 0, phase := false,
    wp := none, credited := false, creditId := 0, ch := 0, last := false, arg := 0, line := 0 }

/-- Issue and datapath held for a fault (R40): freeze cause, kind, detail; severity 2. -/
def Cx.freeze (x : Cx) (cause kind detail : Nat) : Cx :=
  (x.mod fun r => { r with st := .frozen, freezeCause := cause }).say kind 2 detail

def Cx.frozen (x : Cx) : Bool := decide (x.r.st = .frozen)

/-! ## Stores -/

/-- Bytes of an ECC unit and end of the window of a store select (Table 2.6); the aliases are the activation store. -/
def realSs (ss : Nat) : Nat := if ss = 5 ∨ ss = 6 then 1 else ss
def eccUnit (ss : Nat) : Nat := if ss = 0 then 16 else 8
def storeEnd (ss : Nat) : Nat :=
  if ss = 0 then 0x66000 else if ss = 1 then 0xC000 else if ss = 2 then 0x8000 else if ss = 3 then 0x4000 else 0

def Stores.mem (st : Stores) (ss : Nat) : List Host.Cell :=
  if ss = 0 then st.beam else if ss = 1 then st.act else if ss = 2 then st.part else st.inst

def Stores.setMem (st : Stores) (ss : Nat) (m : List Host.Cell) : Stores :=
  if ss = 0 then { st with beam := m } else if ss = 1 then { st with act := m }
  else if ss = 2 then { st with part := m } else { st with inst := m }

def eccKey (ss unit : Nat) : Nat := ss * 2 ^ 20 + unit

/-- The ECC units of an access that hold an error: (offset of the unit, 1 single or 2 double). -/
def Stores.errs (st : Stores) (ss off n : Nat) : List (Nat × Nat) :=
  let u := eccUnit ss
  (st.ecc.filter fun e => eccKey ss (off / u) ≤ e.1 && e.1 ≤ eccKey ss ((off + n - 1) / u)).map
    fun e => ((e.1 - eccKey ss 0) * u, e.2)

def Stores.read (st : Stores) (ss off n : Nat) : Nat := readLE (st.mem ss) off n

/-- A write of `n` bytes, in whole ECC units: the units are rewritten with valid ECC. -/
def Stores.write (st : Stores) (ss off n v : Nat) : Stores :=
  let u := eccUnit ss
  let st' := st.setMem ss (writeLE (st.mem ss) off n v)
  { st' with ecc := st'.ecc.filter fun e => !(eccKey ss (off / u) ≤ e.1 && e.1 ≤ eccKey ss ((off + n - 1) / u)) }

/-- Local address of a fault detail: store select and offset (R379). -/
def locAddr (ss off : Nat) : Nat := (ss <<< 19) + off % 2 ^ 19

/-! ## Performance counters -/

def perfCtr (r : CoreRec) (k : Nat) : PerfCtr := Tab.get {} r.perf k
def setPerfCtr (r : CoreRec) (k : Nat) (p : PerfCtr) : CoreRec := { r with perf := Tab.put {} r.perf k p }

/-- A counter wraps (R388, R389): the overflow flag, and a sample where one is asked for: PC_SAMPLE takes the bundle
address of the next issue, and a WRITE_WORD carries it to PC_SAMPLE_DST at most once in 4,096 cycles. -/
def Cx.wrapped (x : Cx) (k : Nat) : Cx :=
  let r := { x.r with pcOvf := x.r.pcOvf ||| BitVec.ofNat 4 (2 ^ k) }
  let x := x.setR r
  if (perfCtr r k).cfg.getLsbD 11 then
    let lost := bits r.pcSample.toNat 13 16
    let smp (l : Nat) : BitVec 29 := BitVec.ofNat 29 (r.pc % 1024 + (k <<< 10) + (1 <<< 12) + (l <<< 13))
    if r.pcSampleDst = 0 then x.setR { r with pcSample := smp lost }
    else if r.sinceSample ≥ 4096 then
      (x.setR { r with pcSample := smp lost, sinceSample := 0 }).send
        { blankFlit .writeWord 1 r.pcSampleDst.toNat with line := BitVec.ofNat 256 (r.pc % 1024 + (k <<< 10)) }
    else x.setR { r with pcSample := smp (satAdd 16 lost 1) }
  else x

/-- Counter `k` takes one event; the wrap of a low counter whose pair is chained counts in the odd one (R388). -/
def Cx.bump (x : Cx) (k : Nat) : Cx :=
  let p := perfCtr x.r k
  if p.cnt + 1 < 2 ^ 48 then x.setR (setPerfCtr x.r k { p with cnt := p.cnt + 1 })
  else
    let x := x.setR (setPerfCtr x.r k { p with cnt := 0 })
    let q := perfCtr x.r (k + 1)
    if k % 2 = 0 ∧ q.cfg.getLsbD 9 = true then
      if q.cfg.getLsbD 10 = true then
        if q.cnt + 1 < 2 ^ 48 then x.setR (setPerfCtr x.r (k + 1) { q with cnt := q.cnt + 1 })
        else (x.setR (setPerfCtr x.r (k + 1) { q with cnt := 0 })).wrapped (k + 1)
      else x
    else x.wrapped k

/-- Counter `k` in a cycle in which the conditions `evs` hold (R387). -/
def Cx.count (x : Cx) (evs : List Nat) (k : Nat) : Cx :=
  let p := perfCtr x.r k
  if p.cfg.getLsbD 10 = false ∨ (k % 2 = 1 ∧ p.cfg.getLsbD 9 = true) then x
  else
    let ev := bits p.cfg.toNat 0 8
    let hold := decide (ev = 1) || evs.contains ev
    let x := if hold && (p.cfg.getLsbD 8 || !p.prev) then x.bump k else x
    x.setR (setPerfCtr x.r k { perfCtr x.r k with prev := hold })

/-- One island cycle of the counters. -/
def Cx.perfCycle (x : Cx) (evs : List Nat) : Cx :=
  let x := (List.range 4).foldl (fun x k => x.count evs k) x
  x.mod fun r => { r with sinceSample := min 4096 (r.sinceSample + 1) }

/-- `n` cycles alike. -/
def Cx.perfCycles (x : Cx) (evs : List Nat) : Nat → Cx
  | 0 => x
  | n + 1 => (x.perfCycle evs).perfCycles evs n

/-- An event outside the issue cycles (a flit, a descriptor, a corrected error): one count. -/
def Cx.perfEvent (x : Cx) (ev : Nat) : Cx :=
  (List.range 4).foldl (fun x k =>
    let p := perfCtr x.r k
    if p.cfg.getLsbD 10 = true ∧ ¬ (k % 2 = 1 ∧ p.cfg.getLsbD 9 = true) ∧ bits p.cfg.toNat 0 8 = ev then x.bump k
    else x) x

/-! ## Reads under SECDED (R59) -/

/-- A corrected single-bit error: reported and counted. -/
def Cx.corrected (x : Cx) (ss off : Nat) : Cx :=
  ((x.mod fun r => { r with eccCorr := Tab.put 0 r.eccCorr ss (satAdd 16 (Tab.get 0 r.eccCorr ss) 1) }).say
    1 1 (locAddr ss off)).perfEvent 0x0D

/-- The errors of an access: single-bit ones corrected; the first double-bit one reported and recorded. -/
def Cx.eccCheck (x : Cx) (ss off n : Nat) : Cx × Bool :=
  let es := x.r.stores.errs ss off n
  let x := (es.filter fun e => e.2 = 1).foldl (fun x e => x.corrected ss e.1) x
  match es.find? fun e => e.2 ≠ 1 with
  | none => (x, true)
  | some e =>
    ((x.mod fun r => { r with eccLastAddr := locAddr ss e.1, eccLastValid := true }).say 2 2 (locAddr ss e.1), false)

/-- A read by the datapath: an uncorrectable error freezes the core with cause 1 and delivers nothing. -/
def Cx.dpRead (x : Cx) (ss off n : Nat) : Cx × Nat :=
  let p := x.eccCheck ss off n
  if p.2 then (p.1, p.1.r.stores.read ss off n)
  else (p.1.mod fun r => { r with st := .frozen, freezeCause := 1 }, 0)

def Cx.write (x : Cx) (ss off n v : Nat) : Cx :=
  x.mod fun r => { r with stores := r.stores.write ss off n v }

/-- The alias read-modify-write of R58: `W OR M` in the set alias, `W AND NOT M` in the clear alias; false where the
word holds an uncorrectable error and is not written. -/
def Cx.rmw (x : Cx) (off : Nat) (set : Bool) (mask : Nat) : Cx × Bool :=
  let p := x.eccCheck 1 off 8
  if p.2 then
    let w := p.1.r.stores.read 1 off 8
    let w' := if set then w ||| mask else w &&& compl 64 mask
    (p.1.write 1 off 8 (w' % 2 ^ 64), true)
  else (p.1, false)

/-- The same for the datapath: an uncorrectable error freezes the core. -/
def Cx.dpRmw (x : Cx) (off : Nat) (set : Bool) (mask : Nat) : Cx :=
  let p := x.rmw off set mask
  if p.2 then p.1 else p.1.mod fun r => { r with st := .frozen, freezeCause := 1 }

/-! ## Registers -/

def CoreRec.sreg (r : CoreRec) (k : Nat) : Nat := if k = 0 then 0 else (Tab.get 0 r.dp.s k).toNat
def CoreRec.vreg (r : CoreRec) (k : Nat) : VReg := Tab.get 0 r.dp.v k
/-- Lane `i` of a vector register, and all lanes. -/
def vlane (v : VReg) (i : Nat) : Nat := bits v.toNat (32 * i) 32
def vlanes (v : VReg) : List Nat := tabulate 32 (vlane v)
def vpack (l : List Nat) : VReg := BitVec.ofNat 1024 (packFields 32 l.length fun i => l.getD i 0)

def Datapath.setS (d : Datapath) (k : Nat) (v : Word) : Datapath :=
  if k = 0 then d else { d with s := Tab.put 0 d.s k v }
def Datapath.setV (d : Datapath) (k : Nat) (v : VReg) : Datapath := { d with v := Tab.put 0 d.v k v }

def CoreRec.accOf (r : CoreRec) (g : Nat) : AccGroup := Tab.get {} r.dp.acc g

/-- The index of the innermost active loop; 0 with none (R100, R115). -/
def CoreRec.i0 (r : CoreRec) : Nat :=
  match r.dp.loops with
  | [] => 0
  | l :: _ => l.idx

def CoreRec.chan (r : CoreRec) (ch : Nat) : Chan := Tab.get {} r.chans ch
def CoreRec.setChan (r : CoreRec) (ch : Nat) (x : Chan) : CoreRec := { r with chans := Tab.put {} r.chans ch x }

/-- Queue entries that a channel holds, the active one included (R60). -/
def Chan.held (c : Chan) : Nat := c.queue.length + if c.active.isSome then 1 else 0

/-- Idle with an empty queue (Table 4.13). -/
def Chan.free (c : Chan) : Bool := decide (c.state = .idle) && c.queue.isEmpty && c.active.isNone

end Sys2Proof.Machine
end

