-- ==== Sys2Proof/Machine/Fp.lean ====
section
/-! DEFINITION. IEEE 754-2019 binary32, binary16 and bfloat16 values and the exact arithmetic behind every rounding of
the engine (R71, R74, R110): values are exact dyadic numbers, and each result is rounded once. -/

namespace Sys2Proof.Machine

open Sys2Proof

/-- An exact value: NaN, an infinity, or `(−1)^neg · m · 2^e`. -/
inductive FVal where
  | nan
  | inf (neg : Bool)
  | fin (neg : Bool) (m : Nat) (e : Int)
  deriving DecidableEq, Repr

/-- A floating-point format of Table 3.2: exponent bits, mantissa bits, bias; what the all-ones exponent encodes:
0 normal values, 1 IEEE infinity and NaN, 2 normal values but NaN at all-ones mantissa (E4M3). -/
structure FFmt where
  eb : Nat
  mb : Nat
  bias : Nat
  top : Nat
  deriving DecidableEq, Repr

def fmtE2M1 : FFmt := ⟨2, 1, 1, 0⟩
def fmtE3M2 : FFmt := ⟨3, 2, 3, 0⟩
def fmtE2M3 : FFmt := ⟨2, 3, 1, 0⟩
def fmtE4M3 : FFmt := ⟨4, 3, 7, 2⟩
def fmtE5M2 : FFmt := ⟨5, 2, 15, 1⟩
def fmtFp16 : FFmt := ⟨5, 10, 15, 1⟩
def fmtBf16 : FFmt := ⟨8, 7, 127, 1⟩
def fmtFp32 : FFmt := ⟨8, 23, 127, 1⟩

/-- Exponent of a format's smallest subnormal, `1 − bias − mb`. -/
def fmtEmin (f : FFmt) : Int := 1 - (f.bias : Int) - (f.mb : Int)

/-- The magnitude code of the largest finite value. -/
def fmtMaxMag (f : FFmt) : Nat :=
  if f.top = 0 then 2 ^ (f.eb + f.mb) - 1
  else if f.top = 1 then (2 ^ f.eb - 1) * 2 ^ f.mb - 1
  else 2 ^ (f.eb + f.mb) - 2

/-- The magnitude code of the canonical NaN (Table 3.5). -/
def fmtNan (f : FFmt) : Nat :=
  if f.top = 1 then (2 ^ f.eb - 1) * 2 ^ f.mb + 2 ^ (f.mb - 1) else 2 ^ (f.eb + f.mb) - 1

/-- The magnitude code of infinity in an IEEE format. -/
def fmtInf (f : FFmt) : Nat := (2 ^ f.eb - 1) * 2 ^ f.mb

/-- The exact value of a code (R71). -/
def fDecode (f : FFmt) (code : Nat) : FVal :=
  let neg := bitAt code (f.eb + f.mb)
  let ex := bits code f.mb f.eb
  let ma := bits code 0 f.mb
  if f.top = 1 ∧ ex = 2 ^ f.eb - 1 then (if ma = 0 then .inf neg else .nan)
  else if f.top = 2 ∧ ex = 2 ^ f.eb - 1 ∧ ma = 2 ^ f.mb - 1 then .nan
  else if ex = 0 then .fin neg ma (fmtEmin f)
  else .fin neg (2 ^ f.mb + ma) (fmtEmin f + (ex : Int) - 1)

/-- `floor(log2 m)` for `m > 0`. -/
def log2Nat (m : Nat) : Nat := Nat.log2 m

/-- The exponent of the grid on which a magnitude `m · 2^e` stands in a format of `p` significant bits whose grid ends
at `2^emin`; the grid continues upward without limit (R81). -/
def gridExp (p : Nat) (emin : Int) (m : Nat) (e : Int) : Int :=
  max emin ((log2Nat m : Int) + e - ((p : Int) - 1))

/-- `m · 2^e` divided by `2^q`, rounded to the nearest integer, ties to even. -/
def rneAt (m : Nat) (e q : Int) : Nat :=
  if q ≤ e then m <<< (e - q).toNat
  else
    let k := (q - e).toNat
    let d := m >>> k
    let r := m - (d <<< k)
    let h := 2 ^ (k - 1)
    if r > h then d + 1 else if r < h then d else d + d % 2

/-- `m · 2^e` divided by `2^q`: the integer part, and the fraction in units of 2^−16, rounded down (R82). -/
def floorAt (m : Nat) (e q : Int) : Nat × Nat :=
  if q ≤ e then (m <<< (e - q).toNat, 0)
  else
    let k := (q - e).toNat
    let d := m >>> k
    (d, ((m - (d <<< k)) <<< 16) >>> k)

/-- Signed code of a magnitude code. -/
def withSign (f : FFmt) (neg : Bool) (mag : Nat) : Nat := mag + if neg then 2 ^ (f.eb + f.mb) else 0

/-- The magnitude code of `r · 2^q` on the grid of a format, unbounded above. -/
def gridCode (f : FFmt) (r : Nat) (q : Int) : Nat := (q - fmtEmin f).toNat * 2 ^ f.mb + r

/-- Round-to-nearest-even of an exact value into an IEEE format, overflow to infinity (R74). -/
def fRound (f : FFmt) : FVal → Nat
  | .nan => fmtNan f
  | .inf neg => withSign f neg (fmtInf f)
  | .fin neg 0 _ => withSign f neg 0
  | .fin neg m e =>
    let q := gridExp (f.mb + 1) (fmtEmin f) m e
    withSign f neg (min (gridCode f (rneAt m e q) q) (fmtInf f))

/-- Exact sum; an exact zero is +0 unless both terms are −0 (round-to-nearest-even). -/
def fvAdd : FVal → FVal → FVal
  | .nan, _ => .nan
  | _, .nan => .nan
  | .inf a, .inf b => if a = b then .inf a else .nan
  | .inf a, _ => .inf a
  | _, .inf b => .inf b
  | .fin na ma ea, .fin nb mb eb =>
    let e := min ea eb
    let x : Int := ((ma <<< (ea - e).toNat : Nat) : Int) * (if na then -1 else 1)
    let y : Int := ((mb <<< (eb - e).toNat : Nat) : Int) * (if nb then -1 else 1)
    let t := x + y
    if t = 0 then .fin (na && nb) 0 e else .fin (decide (t < 0)) t.natAbs e

def fvNeg : FVal → FVal
  | .nan => .nan
  | .inf a => .inf (!a)
  | .fin n m e => .fin (!n) m e

/-- Exact product. -/
def fvMul : FVal → FVal → FVal
  | .nan, _ => .nan
  | _, .nan => .nan
  | .inf a, .inf b => .inf (a != b)
  | .inf a, .fin b m _ => if m = 0 then .nan else .inf (a != b)
  | .fin b m _, .inf a => if m = 0 then .nan else .inf (a != b)
  | .fin a m e, .fin b n g => .fin (a != b) (m * n) (e + g)

/-- `a · 2^n`. -/
def fvScale (n : Int) : FVal → FVal
  | .fin s m e => .fin s m (e + n)
  | v => v

/-! ## Binary32 operations on codes -/

def dec32 (a : Nat) : FVal := fDecode fmtFp32 a
def rnd32 (v : FVal) : Nat := fRound fmtFp32 v
def f32Nan : Nat := 0x7FC00000
def f32Add (a b : Nat) : Nat := rnd32 (fvAdd (dec32 a) (dec32 b))
def f32Sub (a b : Nat) : Nat := rnd32 (fvAdd (dec32 a) (fvNeg (dec32 b)))
def f32Mul (a b : Nat) : Nat := rnd32 (fvMul (dec32 a) (dec32 b))
def f32Fma (a b c : Nat) : Nat := rnd32 (fvAdd (fvMul (dec32 a) (dec32 b)) (dec32 c))
def f32Scl (a : Nat) (n : Int) : Nat := rnd32 (fvScale n (dec32 a))

def f32IsNan (a : Nat) : Bool := decide (bits a 0 31 > 0x7F800000)
def f32IsFinite (a : Nat) : Bool := decide (bits a 23 8 ≠ 255)

/-- An order key of a non-NaN code: −0 below +0. -/
def f32Key (a : Nat) : Int := if bitAt a 31 then -(bits a 0 31 : Int) - 1 else (bits a 0 31 : Int)

/-- Numerical comparison, false on NaN; −0 equals +0. -/
def f32Val (a : Nat) : Int := if bitAt a 31 then -(bits a 0 31 : Int) else (bits a 0 31 : Int)
def f32Lt (a b : Nat) : Bool := !f32IsNan a && !f32IsNan b && decide (f32Val a < f32Val b)
def f32Le (a b : Nat) : Bool := !f32IsNan a && !f32IsNan b && decide (f32Val a ≤ f32Val b)

/-- VMAX and VMIN (Table 4.10): NaN gives the canonical NaN; +0 counts as greater than −0. -/
def f32Max (a b : Nat) : Nat :=
  if f32IsNan a || f32IsNan b then f32Nan else if f32Key a < f32Key b then b else a
def f32Min (a b : Nat) : Nat :=
  if f32IsNan a || f32IsNan b then f32Nan else if f32Key b < f32Key a then b else a

/-- Integer part of the square root: the binary digits from the top, in `k` steps. -/
def isqrtAux : Nat → Nat → Nat → Nat
  | 0, _, r => r
  | k + 1, n, r =>
    let r' := r + 2 ^ k
    isqrtAux k n (if r' * r' ≤ n then r' else r)

def isqrt (k n : Nat) : Nat := isqrtAux k n 0

/-- `(n / d) · 2^e` rounded once to binary32: the quotient keeps 64 bits and a sticky bit. -/
def rndQuot (neg : Bool) (n d : Nat) (e : Int) : Nat :=
  let k := 64 + log2Nat d
  let q := (n <<< k) / d
  let st := if (n <<< k) % d = 0 then 0 else 1
  rnd32 (.fin neg (2 * q + st) (e - k - 1))

/-- Quotient of two binary32 codes, rounded once; used where the harness divides (R370, R306). -/
def f32Div (a b : Nat) : Nat :=
  match dec32 a, dec32 b with
  | .nan, _ => f32Nan
  | _, .nan => f32Nan
  | .inf _, .inf _ => f32Nan
  | .inf x, .fin y _ _ => rnd32 (.inf (x != y))
  | .fin x _ _, .inf y => rnd32 (.fin (x != y) 0 0)
  | .fin x m e, .fin y n g =>
    if n = 0 then (if m = 0 then f32Nan else rnd32 (.inf (x != y)))
    else if m = 0 then rnd32 (.fin (x != y) 0 0) else rndQuot (x != y) m n (e - g)

/-- Square root, rounded once. -/
def f32Sqrt (a : Nat) : Nat :=
  match dec32 a with
  | .nan => f32Nan
  | .inf n => if n then f32Nan else rnd32 (.inf false)
  | .fin n m e =>
    if m = 0 then rnd32 (.fin n 0 0) else if n then f32Nan
    else
      let m' := if e % 2 = 0 then m else 2 * m
      let e' := if e % 2 = 0 then e else e - 1
      let y := m' <<< 80
      let r := isqrt 64 y
      rnd32 (.fin false (2 * r + (if r * r = y then 0 else 1)) (e' / 2 - 40 - 1))

/-! ## Special functions (R110): nearest FP32 of the exact value.
2^x and log2 x are evaluated to 2^−150, beyond the closest approach of either function to a tie (log entry 12). -/

/-- Fixed-point scale of the evaluations. -/
def fxBits : Nat := 160
/-- `⌊ln 2 · 2^160⌋`. -/
def fxLn2 : Nat := 1013035739299659071135698605846798551586536899366

/-- `2^160 · exp(z)` for `z` in fixed point: terms `z^k / k!`, `k` from `i` on. -/
def fxExpAux (z : Nat) : Nat → Nat → Nat → Nat → Nat
  | 0, _, _, acc => acc
  | n + 1, i, term, acc =>
    let t := (term * z) / (2 ^ fxBits * i)
    fxExpAux z n (i + 1) t (acc + t)

def fxExp (z : Nat) : Nat := fxExpAux z 45 1 (2 ^ fxBits) (2 ^ fxBits)

/-- VEXP2 (Table 4.11). -/
def f32Exp2 (a : Nat) : Nat :=
  match dec32 a with
  | .nan => f32Nan
  | .inf true => 0
  | .inf false => rnd32 (.inf false)
  | .fin neg m e =>
    if m = 0 then 0x3F800000
    else if (log2Nat m : Int) + e ≥ 8 then (if neg then 0 else rnd32 (.inf false))
    else
      -- x as a fixed-point integer of 160 fractional bits; x is at least 2^−149 in magnitude
      let mag : Nat := if e + 160 ≥ 0 then m <<< (e + 160).toNat else m >>> (-(e + 160)).toNat
      let x : Int := if neg then -(mag : Int) else mag
      let i := x / (2 ^ fxBits : Nat)
      let f := (x % (2 ^ fxBits : Nat)).toNat
      if f = 0 then rnd32 (.fin false 1 i)
      else rnd32 (.fin false (2 * fxExp ((f * fxLn2) >>> fxBits) + 1) (i - fxBits - 1))

/-- `Σ t^(2k+1) / (2k+1)` in fixed point, from term `i = 2k + 1` on. -/
def fxAtanhAux (t2 : Nat) : Nat → Nat → Nat → Nat → Nat
  | 0, _, _, acc => acc
  | n + 1, i, pw, acc => fxAtanhAux t2 n (i + 2) ((pw * t2) >>> fxBits) (acc + pw / i)

/-- `2^160 · log2(m / 2^23)` for a 24-bit significand. -/
def fxLog2 (m : Nat) : Nat :=
  let t := ((m - 2 ^ 23) <<< fxBits) / (m + 2 ^ 23)
  let t2 := (t * t) >>> fxBits
  ((2 * fxAtanhAux t2 55 1 t 0) <<< fxBits) / fxLn2

/-- VLOG2 (Table 4.11). -/
def f32Log2 (a : Nat) : Nat :=
  match dec32 a with
  | .nan => f32Nan
  | .inf true => f32Nan
  | .inf false => rnd32 (.inf false)
  | .fin neg m e =>
    if m = 0 then rnd32 (.inf true)
    else if neg then f32Nan
    else
      let k := log2Nat m
      let m' := m <<< (23 - k)
      let ex : Int := e + k
      if m' = 2 ^ 23 then rnd32 (.fin (decide (ex < 0)) ex.natAbs 0)
      else
        let v : Int := ex * (2 ^ fxBits : Nat) + (fxLog2 m' : Int)
        rnd32 (.fin (decide (v < 0)) (2 * v.natAbs + 1) (-(fxBits : Int) - 1))

/-- VRCP (Table 4.11). -/
def f32Rcp (a : Nat) : Nat :=
  match dec32 a with
  | .nan => f32Nan
  | .inf n => rnd32 (.fin n 0 0)
  | .fin n m e => if m = 0 then rnd32 (.inf n) else rndQuot n 1 m (-e)

/-- VRSQ (Table 4.11). -/
def f32Rsq (a : Nat) : Nat :=
  match dec32 a with
  | .nan => f32Nan
  | .inf true => f32Nan
  | .inf false => 0
  | .fin n m e =>
    if m = 0 then rnd32 (.inf n)
    else if n then f32Nan
    else
      let m' := if e % 2 = 0 then m else 2 * m
      let e' := if e % 2 = 0 then e else e - 1
      let y := 2 ^ 140 / m'
      let r := isqrt 71 y
      rnd32 (.fin false (2 * r + (if r * r * m' = 2 ^ 140 then 0 else 1)) (-(e' / 2) - 70 - 1))

/-- FP32 of a signed integer, nearest, ties to even (R85). -/
def f32OfInt (v : Int) : Nat := rnd32 (.fin (decide (v < 0)) v.natAbs 0)

/-- FP32 sum of a list from +0, in list order. -/
def f32SumList (l : List Nat) : Nat := l.foldl f32Add 0

end Sys2Proof.Machine
end

