-- ==== Sys2Proof/Machine/Formats.lean ====
section
/-! DEFINITION. The twelve formats, quantizing and widening, the product pairings and the block product, the seeded
rotation and the Philox generator (03_formats.md; R106, R175). -/

namespace Sys2Proof.Machine

open Sys2Proof

/-! ## Philox4x32-10 (the published generator that R82, R175 and R307 name) -/

def philoxRound (k0 k1 : Nat) : Nat × Nat × Nat × Nat → Nat × Nat × Nat × Nat
  | (c0, c1, c2, c3) =>
    let p0 := 0xD2511F53 * c0
    let p1 := 0xCD9E8D57 * c2
    ((p1 >>> 32) ^^^ c1 ^^^ k0, p1 % 2 ^ 32, (p0 >>> 32) ^^^ c3 ^^^ k1, p0 % 2 ^ 32)

def philoxRounds : Nat → Nat → Nat → Nat × Nat × Nat × Nat → Nat × Nat × Nat × Nat
  | 0, _, _, c => c
  | n + 1, k0, k1, c =>
    philoxRounds n ((k0 + 0x9E3779B9) % 2 ^ 32) ((k1 + 0xBB67AE85) % 2 ^ 32) (philoxRound k0 k1 c)

/-- Ten rounds on a counter of four words under a key of two. -/
def philox (k0 k1 : Nat) (c : Nat × Nat × Nat × Nat) : Nat × Nat × Nat × Nat := philoxRounds 10 k0 k1 c

/-- Word `k` of a draw. -/
def philoxWord (w : Nat × Nat × Nat × Nat) (k : Nat) : Nat :=
  if k = 0 then w.1 else if k = 1 then w.2.1 else if k = 2 then w.2.2.1 else w.2.2.2

/-- The 16 random bits of element `8g + k` (R82). -/
def stochDraw (key ctr virt el : Nat) : Nat :=
  let w := philox (bits key 0 32) (bits key 32 32) (bits ctr 0 32, bits ctr 32 32, virt % 2 ^ 32, el / 8)
  let k := el % 8
  bits (philoxWord w (k / 2)) (16 * (k % 2)) 16

/-! ## Formats and tags (Table 3.1) -/

/-- Bits of an element of a tag. -/
def tagWidth (t : Nat) : Nat :=
  if t = 1 ∨ t = 2 then 4 else if t = 3 then 3 else if t = 4 ∨ t = 5 then 6
  else if t = 6 ∨ t = 7 ∨ t = 8 then 8 else if t = 9 ∨ t = 10 then 16 else 32

/-- The floating-point format of a tag. -/
def tagFmt (t : Nat) : Option FFmt :=
  if t = 1 then some fmtE2M1 else if t = 4 then some fmtE3M2 else if t = 5 then some fmtE2M3
  else if t = 6 then some fmtE4M3 else if t = 7 then some fmtE5M2 else if t = 9 then some fmtFp16
  else if t = 10 then some fmtBf16 else if t = 11 then some fmtFp32 else none

/-- Bits below the point of an integer format's factor (Table 3.4). -/
def tagFrac (t : Nat) : Nat := if t = 3 then 1 else if t = 2 then 2 else 6

/-- A tag that carries a UE8M0 block scale. -/
def tagScaled (t : Nat) : Bool := decide (1 ≤ t ∧ t ≤ 8)

/-- The plain integer of a code of an integer format. -/
def elemInt (t code : Nat) : Int := sext (tagWidth t) code

/-- The exact value of an element code (R71, R73). -/
def elemVal (t code : Nat) : FVal :=
  match tagFmt t with
  | some f => fDecode f code
  | none =>
    let v := elemInt t code
    .fin (decide (v < 0)) v.natAbs (-(tagFrac t : Int))

/-- Largest finite positive value of a target, as `M · 2^k` (Tables 3.2, 3.4). -/
def tagMax (t : Nat) : Nat × Int :=
  match tagFmt t with
  | some f =>
    match fDecode f (fmtMaxMag f) with
    | .fin _ m e => (m, e)
    | _ => (0, 0)
  | none => (2 ^ (tagWidth t - 1) - 1, -(tagFrac t : Int))

/-- A magnitude on a grid of step `2^q`: nearest-even, or up when the draw `r` is below the fraction (R81, R82). -/
def gridRound (m : Nat) (e q : Int) : Option Nat → Nat
  | none => rneAt m e q
  | some r =>
    let p := floorAt m e q
    if r < p.2 then p.1 + 1 else p.1

/-- One finite value rounded onto an element format: the code, and whether it was clamped (R81, R82, R84). -/
def roundElem (t : Nat) (draw : Option Nat) (neg : Bool) (m : Nat) (e : Int) : Nat × Bool :=
  match tagFmt t with
  | some f =>
    if m = 0 then (withSign f neg 0, false)
    else
      let q := gridExp (f.mb + 1) (fmtEmin f) m e
      let c := gridCode f (gridRound m e q draw) q
      if c > fmtMaxMag f then (withSign f neg (fmtMaxMag f), true) else (withSign f neg c, false)
  | none =>
    let n := tagWidth t
    let r := if m = 0 then 0 else gridRound m (e + tagFrac t) 0 draw
    if neg then
      if r > 2 ^ (n - 1) then (2 ^ (n - 1), true) else (toBits n (-(r : Int)), false)
    else if r > 2 ^ (n - 1) - 1 then (2 ^ (n - 1) - 1, true) else (r, false)

/-- Conversion of one FP32 code to FP16 or BF16 (R84): the code, and whether it saturated. -/
def roundHalf (t : Nat) (draw : Option Nat) (a : Nat) : Nat × Bool :=
  match tagFmt t, dec32 a with
  | some f, .nan => (fmtNan f, false)
  | some f, .inf n => (withSign f n (fmtInf f), false)
  | _, .fin n m e => roundElem t draw n m e
  | none, _ => (0, false)

/-- What a QNT leaves: the scale code, the 32 element codes, and the number of saturated elements. -/
structure QBlock where
  scale : Nat
  codes : List Nat
  sat : Nat
  deriving DecidableEq, Repr

/-- The dynamic scale code of a block whose largest magnitude is `m · 2^e` (R79). -/
def dynScale (t : Nat) (m : Nat) (e : Int) : Nat :=
  if m = 0 then 0x7F
  else
    let mx := tagMax t
    let x0 : Int := ((log2Nat m : Int) + e) - ((log2Nat mx.1 : Int) + mx.2)
    -- m · 2^e ≤ max · 2^x0 ?
    let lo := min e (mx.2 + x0)
    let fits := decide (m <<< (e - lo).toNat ≤ mx.1 <<< (mx.2 + x0 - lo).toNat)
    let x := if fits then x0 else x0 + 1
    (max 0 (min 254 (x + 127))).toNat

/-- A finite magnitude `m · 2^e` lies below another. -/
def magLt (a b : Nat × Int) : Bool :=
  let lo := min a.2 b.2
  decide (a.1 <<< (a.2 - lo).toNat < b.1 <<< (b.2 - lo).toNat)

/-- The larger of two finite magnitudes. -/
def magMax (a b : Nat × Int) : Nat × Int := if magLt a b then b else a

def finMag : FVal → Nat × Int
  | .fin _ m e => (m, e)
  | _ => (0, 0)

def isFin : FVal → Bool
  | .fin _ _ _ => true
  | _ => false

/-- QNT on 32 FP32 codes (R77, R79–R84): `gs` a given scale code, `draw` the stochastic draws. Saturated are the elements
that a given scale clamps (R80), and with a dynamic scale those beyond the largest finite value (R79). -/
def qntBlock (t : Nat) (gs : Option Nat) (draw : Option (Nat → Nat)) (xs : List Nat) : QBlock :=
  let dr (i : Nat) : Option Nat := draw.map fun f => f i
  if t = 9 ∨ t = 10 then
    let r := xs.zipIdx.map fun p => roundHalf t (dr p.2) p.1
    ⟨0x7F, r.map (·.1), (r.filter (·.2)).length⟩
  else
    let vs := xs.map dec32
    if !(vs.all isFin) || decide (gs = some 0xFF) then ⟨0xFF, xs.map fun _ => 0, 32⟩
    else
      let mx := (vs.map finMag).foldl magMax (0, 0)
      let sc := match gs with
        | some g => g
        | none => dynScale t mx.1 mx.2
      let r := vs.zipIdx.map fun p =>
        match p.1 with
        | .fin n m e =>
          let y : Int := e - ((sc : Int) - 127)
          let c := roundElem t (dr p.2) n m y
          (c.1, if gs.isSome then c.2 else magLt (tagMax t) (m, y))
        | _ => (0, false)
      ⟨sc, r.map (·.1), (r.filter (·.2)).length⟩

/-- One element with its block scale, widened to FP32 (R75, R78). -/
def widen (t scale code : Nat) : Nat :=
  if tagScaled t then
    if scale = 0xFF then f32Nan else rnd32 (fvScale ((scale : Int) - 127) (elemVal t code))
  else rnd32 (elemVal t code)

/-! ## Stored blocks (R108) -/

/-- Element bytes, offset of the scale word, and lines of a stored block (Table 4.9). -/
def sbElemBytes (t : Nat) : Nat := 4 * tagWidth t
def sbLines (t : Nat) : Nat := if tagWidth t ≤ 6 then 1 else 2

/-- The bytes that a QNT store writes, as a number and a length: an E2M1 or INT4 line is completed with zeros;
the rest of the second line of an 8-bit block is left. -/
def sbBytes (t scale : Nat) (codes : List Nat) : Nat × Nat :=
  let el := packFields (tagWidth t) 32 fun i => codes.getD i 0
  let n := sbElemBytes t
  if tagScaled t then (el + ((scale + (t <<< 8)) <<< (8 * n)), if n = 16 then 32 else n + 8)
  else (el, n)

/-! ## The block product (R86–R93) -/

/-- A row of Table 3.8: weight tag, operand tag, LSB exponent of an exact tree, INT32 mode. -/
structure Pairing where
  w : Nat
  a : Nat
  lsb : Option Int
  int32 : Bool
  deriving DecidableEq, Repr

def pairing (p : Nat) : Pairing :=
  match p with
  | 0 => ⟨1, 1, some (-2), false⟩
  | 1 => ⟨1, 2, some (-3), false⟩
  | 2 => ⟨2, 1, some (-3), false⟩
  | 3 => ⟨2, 2, some (-4), true⟩
  | 4 => ⟨3, 1, some (-2), false⟩
  | 5 => ⟨3, 2, some (-3), true⟩
  | 6 => ⟨4, 4, some (-8), false⟩
  | 7 => ⟨4, 5, some (-7), false⟩
  | 8 => ⟨5, 4, some (-7), false⟩
  | 9 => ⟨5, 5, some (-6), false⟩
  | 10 => ⟨8, 8, some (-12), true⟩
  | 11 => ⟨6, 6, none, false⟩
  | 12 => ⟨6, 7, none, false⟩
  | 13 => ⟨7, 6, none, false⟩
  | 14 => ⟨7, 7, none, false⟩
  | 15 => ⟨10, 10, none, false⟩
  | _ => ⟨9, 9, none, false⟩

/-- Latency of the TMAC form that a pairing implies (Table 4.4). -/
def pairLatency (p : Nat) : Nat := if p ≤ 5 then 9 else if p ≤ 14 then 11 else 13

/-- Columns of an issue (Table 2.4). -/
def pairColumns (p : Nat) : Nat := if p ≤ 5 then 16 else if p ≤ 14 then 8 else 2

/-- Code of element `e`, column `j` of a row of 2,048 data bits (Table 2.5); not INT3. -/
def rowElem (t data j e : Nat) : Nat :=
  let w := tagWidth t
  bits data (32 * w * j + w * e) w

/-- A term of the tree: sign, magnitude and exponent of an exact product. -/
def sumTerms (lsb : Int) : List FVal → Int
  | [] => 0
  | .fin n m e :: r =>
    let q : Nat := if lsb ≤ e then m <<< (e - lsb).toNat else m >>> (lsb - e).toNat
    (if n then -(q : Int) else (q : Int)) + sumTerms lsb r
  | _ :: r => sumTerms lsb r

def anyNan (l : List FVal) : Bool := l.any fun v => decide (v = .nan)

/-- Table 3.9 on the products of a block whose scales are no NaN: none leaves the lane unchanged; `ex` is the
exponent that the block scales add. -/
def blockResult (lsb : Option Int) (ex : Int) (ps : List FVal) : Option Nat :=
  let pinf := ps.any fun v => decide (v = .inf false)
  let ninf := ps.any fun v => decide (v = .inf true)
  if anyNan ps || (pinf && ninf) then some f32Nan
  else if pinf then some (rnd32 (.inf false))
  else if ninf then some (rnd32 (.inf true))
  else
    let nz := ps.filterMap fun v => match v with
      | .fin _ m e => if m = 0 then none else some ((log2Nat m : Int) + e)
      | _ => none
    match nz with
    | [] => none
    | a :: r =>
      let l := lsb.getD (r.foldl max a - 29)
      let t := sumTerms l ps
      if t = 0 then none else some (rnd32 (.fin (decide (t < 0)) t.natAbs (l + ex)))

/-- The contribution of one column (R87, R88, R90, R91): `ws`, `as` codes; `sw`, `sa` UE8M0 codes. -/
def blockValue (p : Nat) (ws as : List Nat) (sw sa : Nat) : Option Nat :=
  let pr := pairing p
  let ps := (ws.zip as).map fun c => fvMul (elemVal pr.w c.1) (elemVal pr.a c.2)
  let scaled := tagScaled pr.w
  if scaled && (decide (sw = 0xFF) || decide (sa = 0xFF)) then some f32Nan
  else blockResult pr.lsb (if scaled then (sw : Int) + sa - 254 else 0) ps

/-- A fine-block scale: none where the half is NaN, else the integer `value / 2^−9` (R76, R89). -/
def fineSigma (code : Nat) : Option Nat :=
  if bitAt code 7 then none
  else match fDecode fmtE4M3 code with
    | .fin _ m e => some (m <<< (e + 9).toNat)
    | _ => none

/-- The contribution of one fine-block column (R89). -/
def blockValueFine (p : Nat) (ws as : List Nat) (s0 s1 sa : Nat) : Option Nat :=
  let pr := pairing p
  match fineSigma s0, fineSigma s1 with
  | some g0, some g1 =>
    if sa = 0xFF then some f32Nan
    else
      let ps := (ws.zip as).map fun c => fvMul (elemVal pr.w c.1) (elemVal pr.a c.2)
      let l := pr.lsb.getD 0
      let t := sumTerms l (ps.take 16) * g0 + sumTerms l (ps.drop 16) * g1
      if t = 0 then none else some (rnd32 (.fin (decide (t < 0)) t.natAbs (l - 9 + (sa : Int) - 127)))
  | _, _ => some f32Nan

/-- The integer contribution of one column (R93). -/
def blockInt (p : Nat) (ws as : List Nat) : Int :=
  let pr := pairing p
  ((ws.zip as).map fun c => elemInt pr.w c.1 * elemInt pr.a c.2).foldl (· + ·) 0

/-- A 32-bit lane as a signed integer, and the clamped sum of R93 with whether it clamped. -/
def clamp32 (v : Int) : Int × Bool :=
  if v > 2 ^ 31 - 1 then (2 ^ 31 - 1, true) else if v < -(2 ^ 31) then (-(2 ^ 31), true) else (v, false)

/-! ## The rotation (R106, R175) -/

/-- The 256-bit sign string of a seed. -/
def rotSigns (seed : Nat) : Nat :=
  let call (j : Nat) : Nat :=
    let w := philox (bits seed 0 32) (bits seed 32 32) (j, 0, 0, 0)
    packFields 32 4 (philoxWord w)
  call 0 + (call 1 <<< 128)

def f32SignFlip (a : Nat) : Nat := if bitAt a 31 then a - 2 ^ 31 else a + 2 ^ 31

/-- `x · d` for d = ±1: exact; a NaN becomes canonical (R74). -/
def f32MulSign (neg : Bool) (a : Nat) : Nat :=
  if f32IsNan a then f32Nan else if neg then f32SignFlip a else a

/-- One butterfly stage. -/
def rotStage (s : Nat) (x : List Nat) : List Nat :=
  tabulate x.length fun i =>
    if bitAt i s then f32Sub (x.getD (i - 2 ^ s) 0) (x.getD i 0)
    else f32Add (x.getD i 0) (x.getD (i + 2 ^ s) 0)

/-- The rotation of 256 FP32 codes. -/
def rot256 (seed : Nat) (inv : Bool) (x : List Nat) : List Nat :=
  let b := rotSigns seed
  let flip (y : List Nat) := y.zipIdx.map fun p => f32MulSign (bitAt b p.2) p.1
  let x0 := if inv then x else flip x
  let x1 := (List.range 8).foldl (fun y s => rotStage s y) x0
  let x2 := x1.map fun v => f32Scl v (-4)
  if inv then flip x2 else x2

end Sys2Proof.Machine
end

