-- ==== Sys2Proof/Machine/Flags.lean ====
section
/-! DEFINITION. Every flag that an operation computes: the sticky flag of an accumulator group (R92, R93), the group
flag register GF (R97), the saturation tally (R182), the flag words of wait forms (R116) and the fence of a wait. -/

namespace Sys2Proof.Machine

open Sys2Proof

/-- A value written to a lane sets the sticky flag when it is infinite or NaN (R92). -/
def laneFlag (v : Nat) : Bool := !f32IsFinite v

/-- A group as an issue with `init` leaves it before its columns are added (R102). -/
def accInit (init imode : Bool) (g : AccGroup) : AccGroup := if init then ⟨imode, false, 0⟩ else g

def accLane (g : AccGroup) (l : Nat) : Nat := bits g.lanes.toNat (32 * l) 32

def accSet (g : AccGroup) (l v : Nat) (flag : Bool) : AccGroup :=
  { g with lanes := BitVec.ofNat 512 (setBits g.lanes.toNat (32 * l) 32 v), sticky := g.sticky || flag }

/-- FP32 mode: `lane + b`; no contribution leaves the lane unchanged (R91 row 7, R92). -/
def accAddF (g : AccGroup) (l : Nat) : Option Nat → AccGroup
  | none => g
  | some b =>
    let v := f32Add (accLane g l) b
    accSet g l v (laneFlag v)

/-- INT32 mode: the clamped sum, whose clamp sets the flag (R93). -/
def accAddI (g : AccGroup) (l : Nat) (s : Int) : AccGroup :=
  let v := clamp32 (sext 32 (accLane g l) + s)
  accSet g l (toBits 32 v.1) v.2

/-- GF bit `i` takes a value (R97). -/
def gfSet (gf : BitVec 24) (i : Nat) (v : Bool) : BitVec 24 := BitVec.ofNat 24 (setBits gf.toNat i 1 (boolNat v))

/-- The tally takes a count and saturates (R182). -/
def tallyAdd (t n : Nat) : Nat := satAdd 16 t n

/-- The condition of WAITF on a flag word (Table 4.13). -/
def flagHolds (word mask : Nat) (any : Bool) : Bool :=
  if any then decide (word &&& mask ≠ 0) else decide (word &&& mask = mask)

/-- The saturating lane sum of an INT32 reduction, and whether it saturated (R119). -/
def satSum32 (a b : Nat) : Nat × Bool :=
  let v := clamp32 (sext 32 a + sext 32 b)
  (toBits 32 v.1, v.2)

/-- What a wait needs, on the core as it stands (Table 4.13, R60, R119): a flag word, a credit, an idle channel, or a
free entry of a channel's queue; a channel in ERROR discards instead of holding. -/
def waitHolds (r : CoreRec) : WaitCond → Bool
  | .flag off mask any _ => flagHolds (r.stores.read 1 off 8) mask.toNat any
  | .credit id need => decide (need ≤ Tab.get 0 r.credits id)
  | .queue ch => (r.chan ch).free
  | .shutFull ch _ => decide ((r.chan ch).state = .error) || decide ((r.chan ch).held < 4)
  | .rstepFlag _ t =>
    let w := (Tab.get 0 r.dp.tree t).toNat
    flagHolds (r.stores.read 1 (bits w 320 19) 8) (bits w 384 64) false
  | .rstepFull ch _ => decide ((r.chan ch).state = .error) || decide ((r.chan ch).held < 4)

end Sys2Proof.Machine
end

