-- ==== Sys2Proof/Machine/Operands.lean ====
section
/-! DEFINITION. The operand forms of a bundle: slot fields, reserved bits, base-plus-offset addresses and the plan that
one slot makes before the bundle issues (R95–R99, R111, Table 4.4). -/

namespace Sys2Proof.Machine

open Sys2Proof

/-! ## Slots -/

def slotA (bundle : Nat) : Nat := bits bundle 0 64
def slotB (bundle : Nat) : Nat := bits bundle 64 64
def opOf (w : Nat) : Nat := bits w 0 6

/-- A field at bits `[hi:lo]` of a slot, in the manual's notation. -/
def fld (w hi lo : Nat) : Nat := bits w lo (hi - lo + 1)
def flag (w i : Nat) : Bool := bitAt w i

/-- The bits `[hi:lo]` as a mask. -/
def fmask (hi lo : Nat) : Nat := (2 ^ (hi - lo + 1) - 1) <<< lo

/-- Opcodes of Table 4.1. -/
def validA (op : Nat) : Bool :=
  decide (op ≤ 5) || (decide (0x08 ≤ op) && decide (op ≤ 0x13)) || (decide (0x18 ≤ op) && decide (op ≤ 0x1B))

/-- Opcodes of Table 4.2. -/
def validB (op : Nat) : Bool := decide (op ≤ 0x23)

/-- Reserved bits of a slot-A word (Tables 4.5, 4.8; R103, R105, R106, R109). -/
def reservedA (op : Nat) : Nat :=
  if op = 0x00 then fmask 63 6
  else if op = 0x01 then fmask 63 47
  else if op = 0x02 then fmask 26 6 + fmask 63 43
  else if op = 0x03 then fmask 63 49
  else if op = 0x04 then fmask 63 14
  else if op = 0x05 then fmask 63 63
  else fmask 63 29

/-- Reserved bits of a slot-B word (Tables 4.12, 4.13; R113–R119, R182). -/
def reservedB (op : Nat) : Nat :=
  if op = 0x00 ∨ op = 0x23 then fmask 63 6
  else if op = 0x01 then fmask 10 10 + fmask 63 35
  else if op = 0x02 then fmask 63 46
  else if op = 0x03 then fmask 63 48
  else if op = 0x04 then fmask 18 16 + fmask 47 46 + fmask 63 52
  else if op = 0x05 then fmask 63 31
  else if op = 0x06 ∨ op = 0x07 then fmask 63 46
  else if op ≤ 0x13 then fmask 63 21
  else if op = 0x14 then fmask 63 48
  else if op = 0x15 then fmask 15 11 + fmask 63 48
  else if op = 0x16 then fmask 63 21
  else if op = 0x17 then fmask 63 11
  else if op = 0x18 then fmask 15 6 + fmask 63 26
  else if op = 0x19 ∨ op = 0x1A then fmask 15 11 + fmask 63 26
  else if op = 0x1B then fmask 63 26
  else if op = 0x1C then fmask 63 37
  else if op = 0x1D then fmask 18 16 + fmask 63 40
  else if op = 0x1E then fmask 63 35
  else if op = 0x1F then fmask 63 10
  else if op = 0x20 then fmask 63 11
  else if op = 0x21 then fmask 10 9 + fmask 18 16 + fmask 63 38
  else fmask 63 13

/-! ## Plans -/

/-- Where issue goes after the bundle. -/
inductive Ctl where
  | seq
  | branch (target : Nat)
  | loop (count last : Nat)
  | halt
  deriving DecidableEq, Repr

/-- What one slot does when its bundle issues, with everything that Table 4.15 checks. -/
structure Plan where
  /-- causes of Table 4.15 that the slot meets by itself -/
  illegal : List Nat := []
  /-- freeze cause, fault kind and detail of a fault that stops the bundle at issue (R43, R53) -/
  fault : Option (Nat × Nat × Nat) := none
  /-- datapath port beats: (store, cycles after issue) -/
  ports : List (Nat × Nat) := []
  /-- results: (register key, latency) -/
  writes : List (Nat × Nat) := []
  /-- results and beats after the issue cycle -/
  pend : List (Nat × Eff) := []
  /-- what happens in the issue cycle, after every source is read -/
  act : Cx → Cx := id
  heavy : Bool := false
  sf : Bool := false
  rot : Bool := false
  /-- counter events of Table 16.8 -/
  evs : List Nat := []
  /-- a wait that must end first, and the activation word that it reads once at issue -/
  wait : Option WaitCond := none
  waitRead : Option Nat := none
  /-- a descriptor address for a channel, or a reduction step (tree slot) for a channel -/
  shut : Option (Nat × Nat) := none
  step : Option (Nat × Nat) := none
  ctl : Ctl := .seq

/-- Register keys of Table 4.15 cause 7: vector, scalar, operand-file entry, accumulator group. -/
def keyV (k : Nat) : Nat := k
def keyS (k : Nat) : Nat := 32 + k
def keyX (k : Nat) : Nat := 64 + k
def keyG (k : Nat) : Nat := 72 + k

def planIllegal (causes : List Nat) : Plan := { illegal := causes }

/-- ADDRESS_RANGE by a datapath access: freeze cause 4 (R53). -/
def planRange (ss off : Nat) : Plan := { fault := some (4, 0x05, locAddr ss off) }

/-- FORMAT_TAG_MISMATCH: freeze cause 3 (R43, Table 16.3). -/
def tagDetail (pc found named : Nat) : Nat := pc % 1024 + (found <<< 10) + (named <<< 14)

/-- A scalar result; writes to s0 are discarded and reach no register (R97). -/
def withS (p : Plan) (k lat v : Nat) : Plan :=
  if k = 0 then p
  else { p with writes := p.writes ++ [(keyS k, lat)], pend := p.pend ++ [(lat, .sreg k (BitVec.ofNat 64 v))] }

/-- The post-increment of a base register, visible at 1; an increment of 0 writes nothing. -/
def withPost (p : Plan) (r : CoreRec) (rb step : Nat) : Plan :=
  if step = 0 then p else withS p rb 1 (r.sreg rb + step)

/-- A whole vector register. -/
def withV (p : Plan) (k lat : Nat) (v : VReg) : Plan :=
  { p with writes := p.writes ++ [(keyV k, lat)], pend := p.pend ++ [(lat, .vlanes k 0 32 v)] }

/-- The offset of a base-plus-offset access: the exact sum (log entry 13). -/
def baseOff (r : CoreRec) (rb imm : Nat) : Nat := r.sreg rb + imm

/-- A datapath access lies in its window and is aligned (R111, Table 2.6). -/
def accessOk (sels : List Nat) (ss off n align : Nat) : Bool :=
  sels.contains ss && decide (off % align = 0) &&
    decide (off + n ≤ (if ss = 0 then 0x60000 else storeEnd (realSs ss)))

/-- A beam row: 2,048 data bits and 128 scale bits, checked together (R46, R59). -/
def Cx.readRow (x : Cx) (row : Nat) : Cx × Nat × Nat :=
  let p := x.dpRead 0 (256 * row) 256
  let q := p.1.dpRead 0 (0x60000 + 16 * row) 16
  (q.1, p.2, q.2)

/-- Operand b of a vector operation: a register, or the low half of a scalar in every lane (R109). -/
def vecB (r : CoreRec) (w : Nat) : List Nat :=
  if flag w 26 then tabulate 32 fun _ => r.sreg (fld w 20 16) % 2 ^ 32 else vlanes (r.vreg (fld w 20 16))

end Sys2Proof.Machine
end

