-- ==== Sys2Proof/Machine/Vector.lean ====
section
/-! DEFINITION. The slot-A vector and special-function operations as plans (R109, R110, Tables 4.10 and 4.11). -/

namespace Sys2Proof.Machine

open Sys2Proof

/-- A lane-wise result in `vd`, visible at `lat`. -/
def planLanes (w lat : Nat) (l : List Nat) : Plan := withV {} (fld w 10 6) lat (vpack l)

def vecA (r : CoreRec) (w : Nat) : List Nat := vlanes (r.vreg (fld w 15 11))

/-- A lane-wise operation of two operands. -/
def planBin (op : Nat → Nat → Nat) (r : CoreRec) (w : Nat) : Plan :=
  planLanes w 4 (List.zipWith op (vecA r w) (vecB r w))

def planVadd : CoreRec → Nat → Plan := planBin f32Add
def planVsub : CoreRec → Nat → Plan := planBin f32Sub
def planVmul : CoreRec → Nat → Plan := planBin f32Mul
def planVmax : CoreRec → Nat → Plan := planBin f32Max
def planVmin : CoreRec → Nat → Plan := planBin f32Min

/-- VFMA: one rounding. -/
def planVfma (r : CoreRec) (w : Nat) : Plan :=
  let c := vlanes (r.vreg (fld w 25 21))
  planLanes w 4 (((vecA r w).zip (vecB r w)).zipIdx.map fun p => f32Fma p.1.1 p.1.2 (c.getD p.2 0))

/-- VSCL: `a · 2^n`, n the signed low half-word of s[vb]. -/
def planVscl (r : CoreRec) (w : Nat) : Plan :=
  let n := sext 16 (r.sreg (fld w 20 16))
  planLanes w 4 ((vecA r w).map fun a => f32Scl a n)

/-- VCVT of one lane: the value rounded to BF16 or FP16 and held as FP32 (R84). -/
def cvtLane (t : Nat) (draw : Option Nat) (a : Nat) : Nat := widen t 0x7F (roundHalf t draw a).1

/-- VCVT. -/
def planVcvt (virt : Nat) (r : CoreRec) (w : Nat) : Plan :=
  let vb := fld w 20 16
  let t := if flag w 27 then 9 else 10
  if flag w 28 then
    if vb = 31 then planIllegal [3]
    else
      let d := stochDraw (r.sreg vb) (r.sreg (vb + 1)) virt
      planLanes w 4 ((vecA r w).zipIdx.map fun p => cvtLane t (some (d p.2)) p.1)
  else planLanes w 4 ((vecA r w).map (cvtLane t none))

/-- One level of the fixed tree of VHSUM and VHMAX. -/
def treeLevel (op : Nat → Nat → Nat) : List Nat → List Nat
  | a :: b :: r => op a b :: treeLevel op r
  | l => l

def treeFold (op : Nat → Nat → Nat) (l : List Nat) : Nat :=
  ((List.range 5).foldl (fun u _ => treeLevel op u) l).headD 0

def broadcast (v : Nat) : List Nat := tabulate 32 fun _ => v

def planVhsum (r : CoreRec) (w : Nat) : Plan := planLanes w 10 (broadcast (treeFold f32Add (vecA r w)))
def planVhmax (r : CoreRec) (w : Nat) : Plan := planLanes w 6 (broadcast (treeFold f32Max (vecA r w)))
def planVbcl (r : CoreRec) (w : Nat) : Plan := planLanes w 2 (broadcast ((vecA r w).getD (fld w 20 16) 0))

/-- VMASK: lane `i` is kept where `s[vb] + i ≤ s[vc]`, signed, the sum exact (log entry 13). -/
def planVmask (r : CoreRec) (w : Nat) : Plan :=
  let b := sext 64 (r.sreg (fld w 20 16))
  let c := sext 64 (r.sreg (fld w 25 21))
  planLanes w 2 ((vecA r w).zipIdx.map fun p => if b + (p.2 : Int) ≤ c then p.1 else 0xFF800000)

/-- A special-function operation (R110), illegal within 4 cycles of the previous one (R50). -/
def planSf (lat : Nat) (fn : Nat → Nat) (r : CoreRec) (w : Nat) : Plan :=
  let early := match r.dp.lastSf with
    | some t => decide (r.dp.pt < t + 4)
    | none => false
  let p := planLanes w lat ((vecA r w).map fn)
  { p with illegal := if early then [8] else [], sf := true, evs := [0x17] }

def planVexp2 : CoreRec → Nat → Plan := planSf 12 f32Exp2
def planVlog2 : CoreRec → Nat → Plan := planSf 12 f32Log2
def planVrcp : CoreRec → Nat → Plan := planSf 10 f32Rcp
def planVrsq : CoreRec → Nat → Plan := planSf 10 f32Rsq

end Sys2Proof.Machine
end

