-- ==== Sys2Proof/Machine/Attn.lean ====
section
/-! DEFINITION. The arithmetic of pages, attention, retrieval, the norm watch, corrected products, expert routing and the
backward pass (R181–R187, R193, R194, R196, R197, R201–R217, R225). Values are FP32 codes as numbers unless a type says otherwise. -/

namespace Sys2Proof.Machine

open Sys2Proof

/-- BF16 keys and values of one KV head, by position. -/
abbrev HeadBf := List (List (BitVec 16) × List (BitVec 16))

/-! ## Pages (R196, R197, R214) -/

/-- A BF16 code widened exactly. -/
def widenBf (x : BitVec 16) : Nat := x.toNat <<< 16

/-- R197: the scale of a page's keys or values, the codes of each position, and the saturations counted. -/
def pageCodes (x : List (List (BitVec 16))) : BitVec 8 × List (List (BitVec 8)) × Nat :=
  let vals := x.map fun r => r.map widenBf
  let flat := vals.flatten.map dec32
  let scale := if flat.all isFin then
      let mx := (flat.map finMag).foldl magMax (0, 0)
      dynScale 6 mx.1 mx.2
    else 0xFF
  let rows := vals.map fun r => (tabulate ((r.length + 31) / 32) fun i => (r.drop (32 * i)).take 32).map
    fun b => qntBlock 6 (some scale) none b
  (BitVec.ofNat 8 scale, rows.map fun r => r.flatMap fun b => b.codes.map fun c => BitVec.ofNat 8 c,
    rows.foldl (fun a r => r.foldl (fun a b => a + b.sat) a) 0)

/-- The page of one KV head from its BF16 positions. -/
def pageOf (h : HeadBf) : PageData :=
  let k := pageCodes (h.map fun p => p.1)
  let v := pageCodes (h.map fun p => p.2)
  { k := k.2.1, kScale := k.1, v := v.2.1, vScale := v.1 }

/-- The saturations of a flush of that page (R197). -/
def pageSat (h : HeadBf) : Nat := (pageCodes (h.map fun p => p.1)).2.2 + (pageCodes (h.map fun p => p.2)).2.2

/-- An E4M3 code by value: NaN is the scale's affair (R214), `+0` above `−0`. -/
def e4m3Key (c : BitVec 8) : Int :=
  let m : Nat := c.toNat % 128
  if c.toNat < 128 then (m : Int) else -(m : Int) - 1

/-- The greatest or least code of a dimension over the page's positions. -/
def extremeCode (better : Int → Int → Bool) : List (BitVec 8) → BitVec 8
  | [] => 0
  | c :: r => r.foldl (fun a b => if better (e4m3Key b) (e4m3Key a) then b else a) c

def column (d : Nat) (rows : List (List (BitVec 8))) : List (BitVec 8) := rows.map fun r => r.getD d 0

/-- R214: kmax and kmin of a dimension. -/
def PageData.kmax (p : PageData) (d : Nat) : BitVec 8 := extremeCode (fun a b => decide (a > b)) (column d p.k)
def PageData.kmin (p : PageData) (d : Nat) : BitVec 8 := extremeCode (fun a b => decide (a < b)) (column d p.k)

/-! ## Queries (R205) -/

/-- The 32-wide blocks of a list. -/
def blocks32 (l : List Nat) : List (List Nat) :=
  tabulate ((l.length + 31) / 32) fun b => (l.drop (32 * b)).take 32

/-- A prepared query: q′, its E4M3 blocks and its BF16 codes. -/
structure Query where
  qs : List Nat
  q8 : List QBlock
  qb : List Nat

def quantQ (l : List Nat) : List QBlock := (blocks32 l).map fun b => qntBlock 6 none none b

/-- c of R205: the FP32 value nearest to log2(e) ÷ √d. -/
def attnScale (d : Nat) : Nat :=
  rnd32 (.fin false (2 * isqrt 110 (2 ^ (2 * fxBits + 200) / (fxLn2 * fxLn2 * max 1 d)) + 1) (-101))

def prepare (q : List F32) : Query :=
  let c := attnScale q.length
  let qs := q.map fun x => f32Mul x.toNat c
  ⟨qs, quantQ qs, qs.map fun x => (roundHalf 10 none x).1⟩

/-! ## Scores and value products (R206) -/

/-- Contributions added into one FP32 lane that starts at +0 (R91, R92). -/
def laneSum (l : List (Option Nat)) : Nat := l.foldl (fun a b => match b with
  | some v => f32Add a v
  | none => a) 0

def codesAt (b : Nat) (r : List (BitVec 8)) : List Nat := ((r.drop (32 * b)).take 32).map fun c => c.toNat
def halfAt (b : Nat) (r : List (BitVec 16)) : List Nat := ((r.drop (32 * b)).take 32).map fun c => c.toNat

/-- Score of a position of a page. -/
def scoreF8 (q : Query) (p : PageData) (t : Nat) : Nat :=
  laneSum (q.q8.zipIdx.map fun b => blockValue 11 (codesAt b.2 (p.k.getD t [])) b.1.codes p.kScale.toNat b.1.scale)

/-- Score of a position held as BF16. -/
def scoreB16 (q : Query) (h : HeadBf) (t : Nat) : Nat :=
  laneSum ((blocks32 q.qb).zipIdx.map fun b => blockValue 15 (halfAt b.2 (h.getD t ([], [])).1) b.1 0 0)

/-- Value products of 32 positions from `o` on, one for each dimension. -/
def pvF8 (p : PageData) (o d : Nat) (ps : List Nat) : List Nat :=
  let e := qntBlock 6 none none ps
  tabulate d fun i =>
    (blockValue 11 (((column i p.v).drop o).take 32 |>.map fun c => c.toNat) e.codes p.vScale.toNat e.scale).getD 0

def pvB16 (h : HeadBf) (o d : Nat) (ps : List Nat) : List Nat :=
  let e := ps.map fun x => (roundHalf 10 none x).1
  tabulate d fun i =>
    (blockValue 15 (tabulate 32 fun t => (((h.getD (o + t) ([], [])).2).getD i 0).toNat) e 0 0).getD 0

/-! ## Partials and their tree (R208–R211) -/

def negInf : Nat := 0xFF800000

structure Part where
  m : Nat
  l : Nat
  o : List Nat
  deriving DecidableEq, Repr

def emptyPart (d : Nat) : Part := ⟨negInf, 0, List.replicate d 0⟩

/-- One block of a unit: its 32 scores and its value product. -/
def blockStep (a : Part) (s : List Nat) (pv : List Nat → List Nat) : Part :=
  let mNew := f32Max a.m (treeFold f32Max s)
  if mNew = negInf then a
  else
    let alpha := f32Exp2 (f32Sub a.m mNew)
    let p := s.map fun x => f32Exp2 (f32Sub x mNew)
    ⟨mNew, f32Fma a.l alpha (treeFold f32Add p), (a.o.zip (pv p)).map fun x => f32Fma x.1 alpha x.2⟩

/-- The partial of a unit with its allowed positions; a block with none is skipped. -/
def unitPart (d : Nat) (ok : Nat → Bool) (score : Nat → Nat) (pv : Nat → List Nat → List Nat) : Part :=
  (List.range 2).foldl (fun a b =>
    if (List.range 32).all (fun t => !ok (32 * b + t)) then a
    else blockStep a (tabulate 32 fun t => if ok (32 * b + t) then score (32 * b + t) else negInf) (pv (32 * b)))
    (emptyPart d)

def combine (d : Nat) (a b : Part) : Part :=
  let m := f32Max a.m b.m
  if m = negInf then emptyPart d
  else
    let x := f32Exp2 (f32Sub a.m m)
    let y := f32Exp2 (f32Sub b.m m)
    ⟨m, f32Fma b.l y (f32Mul a.l x), (a.o.zip b.o).map fun p => f32Fma p.2 y (f32Mul p.1 x)⟩

/-- The tree over the units in order; the first argument bounds its depth. -/
def treeParts (d : Nat) : Nat → List Part → Part
  | 0, l => l.headD (emptyPart d)
  | n + 1, l => match l with
    | [] => emptyPart d
    | [a] => a
    | _ =>
      let h := 2 ^ Nat.log2 (l.length - 1)
      combine d (treeParts d n (l.take h)) (treeParts d n (l.drop h))

/-- R210, R211: the statistics of the row and the normalized output; an empty row has `l = +0`. -/
def finishPart (p : Part) : Part :=
  if bits p.l 0 31 = 0 then emptyPart p.o.length else ⟨p.m, p.l, p.o.map fun x => f32Mul x (f32Rcp p.l)⟩

/-! ## Retrieval (R213–R216) -/

/-- The bound of a query head for a page (R215). -/
def headBound (q : Query) (p : PageData) : Nat :=
  let qp := quantQ (q.qs.map fun x => f32Max x 0)
  let qn := quantQ (q.qs.map fun x => f32Min x 0x80000000)
  laneSum ((List.range qp.length).flatMap fun b =>
    let mx := tabulate 32 fun e => (p.kmax (32 * b + e)).toNat
    let mn := tabulate 32 fun e => (p.kmin (32 * b + e)).toNat
    let one (codes : List Nat) (k : QBlock) := blockValue 11 codes k.codes p.kScale.toNat k.scale
    [one mx (qp.getD b ⟨0x7F, [], 0⟩), one mn (qn.getD b ⟨0x7F, [], 0⟩)])

/-- A page's score: the vmax over the query heads, NaN if any bound is. -/
def pageScore (bounds : List Nat) : Nat :=
  if bounds.any f32IsNan then f32Nan else bounds.foldl f32Max negInf

/-- Rank order of scored pages: higher first, NaN below every number, equal scores to the lower page. -/
def pageBefore (a b : Nat × Nat) : Bool :=
  if f32IsNan a.1 then f32IsNan b.1 && decide (a.2 < b.2)
  else if f32IsNan b.1 then true
  else decide (f32Val a.1 > f32Val b.1) || (decide (f32Val a.1 = f32Val b.1) && decide (a.2 < b.2))

def insertBy {α : Type} (before : α → α → Bool) (x : α) : List α → List α
  | [] => [x]
  | y :: r => if before x y then x :: y :: r else y :: insertBy before x r

def sortBy {α : Type} (before : α → α → Bool) (l : List α) : List α := l.foldl (fun a x => insertBy before x a) []

/-- Retrieval parameters of a request: T, N, S, W, and the prefetch depth D (R213, R216, R222). -/
structure Retrieve where
  t : Nat
  n : Nat
  s : Nat
  w : Nat
  d : Nat

/-- What a query attends to: complete pages in ascending order, those selected, and those ranked next. -/
structure Selection where
  attended : List Nat
  selected : List Nat
  next : List Nat
  deriving DecidableEq, Repr

/-- R213, R216: the pages of a query at position `p`, given each page's score. -/
def selectPages (rt : Retrieve) (p : Nat) (score : Nat → Nat) : Selection :=
  let n := p / 64
  let every := List.range n
  if p < rt.t ∨ 1048576 ≤ rt.t then ⟨every, [], []⟩
  else
    let fixed (j : Nat) : Bool := decide (j < rt.s) || decide (n < j + 1 + rt.w)
    let cand := every.filter fun j => !fixed j
    let ranked := if cand.length ≤ rt.n then cand.map fun j => (0, j)
      else sortBy pageBefore (cand.map fun j => (score j, j))
    let sel := (ranked.take rt.n).map fun x => x.2
    ⟨every.filter fun j => fixed j || sel.contains j, sel, ((ranked.drop rt.n).take rt.d).map fun x => x.2⟩

/-! ## One token (R205–R212) -/

/-- Query heads that share a KV head. -/
def groupOf (x : AttnInput) : Nat := max 1 (x.queries.length / max 1 x.kv.length)

/-- The pages that a token at `p` attends to; `pages` holds every complete page below it, by KV head. -/
def tokenSelection (rt : Retrieve) (x : AttnInput) (p : Nat) (pages : List (List PageData)) : Selection :=
  let qs := x.queries.map prepare
  selectPages rt p fun j => pageScore (qs.zipIdx.map fun q =>
    headBound q.1 ((pages.getD j []).getD (q.2 / groupOf x) {}))

/-- The attention of a token: m, l and output of each query head. `open_` is the BF16 copy of its open page by KV head. -/
def attendToken (x : AttnInput) (p : Nat) (pages : List (List PageData)) (open_ : List HeadBf) (sel : List Nat) : List Part :=
  x.queries.zipIdx.map fun q =>
    let h := q.2 / groupOf x
    let qy := prepare q.1
    let d := q.1.length
    let ok (j t : Nat) : Bool := decide (64 * j + t ≤ p) && !x.excluded.contains (64 * j + t)
    let parts := sel.map fun j =>
      let pg := (pages.getD j []).getD h {}
      unitPart d (ok j) (scoreF8 qy pg) fun o ps => pvF8 pg o d ps
    let bf := open_.getD h []
    let last := unitPart d (ok (p / 64)) (scoreB16 qy bf) fun o ps => pvB16 bf o d ps
    finishPart (treeParts d 32 (parts ++ [last]))

/-- FP32 codes as values. -/
def toF32 (l : List Nat) : List F32 := l.map fun v => BitVec.ofNat 32 v

/-- Rows of a token's query heads that are empty (R211). -/
def emptyRows (l : List Part) : Nat := (l.filter fun p => decide (bits p.l 0 31 = 0)).length

/-- The BF16 of a list of FP32 values (R201). -/
def toBf (l : List F32) : List (BitVec 16) := l.map fun x => BitVec.ofNat 16 (roundHalf 10 none x.toNat).1

/-- A token's keys and values enter the bobbin at position `p`; what an earlier pass wrote from there on is replaced. -/
def KvRec.putToken (k : KvRec) (p : Nat) (x : AttnInput) : KvRec :=
  let i := p - 64 * k.pages.length
  { k with bobbin := x.kv.zipIdx.map fun h =>
      ((k.bobbin.getD h.2 []).take i) ++ [(toBf h.1.1, toBf h.1.2)] }

/-- Every complete page below position `p`: those held, then those that the chunk has completed (R203). -/
def KvRec.pagesBelow (k : KvRec) (p : Nat) : List (List PageData) :=
  let n := k.pages.length
  k.pages.map (fun q => q.data) ++ tabulate (p / 64 - n) fun i =>
    k.bobbin.map fun h => pageOf ((h.drop (64 * i)).take 64)

/-- The BF16 copy of the open page of position `p`. -/
def KvRec.openAt (k : KvRec) (p : Nat) : List HeadBf :=
  k.bobbin.map fun h => (h.drop (64 * (p / 64 - k.pages.length))).take 64

/-- Tokens of a pass from position `p` on: keys and values written, then each token attends (R203). -/
def attendPass (rt : Retrieve) (k : KvRec) (p : Nat) (inp : List AttnInput) :
    KvRec × List (List Part) × List Selection :=
  let k := inp.zipIdx.foldl (fun k x => k.putToken (p + x.2) x.1) k
  let sels := inp.zipIdx.map fun x => tokenSelection rt x.1 (p + x.2) (k.pagesBelow (p + x.2))
  let outs := (inp.zipIdx.zip sels).map fun x =>
    attendToken x.1.1 (p + x.1.2) (k.pagesBelow (p + x.1.2)) (k.openAt (p + x.1.2)) x.2.attended
  (k, outs, sels)

/-! ## The norm watch (R184, R185) -/

/-- The norm of R184. -/
def watchNorm (q : Nat) : Nat :=
  if f32IsNan q ∨ q = 0x7F800000 then q else if bits q 0 31 = 0 then 0 else f32Mul q (f32Rsq q)

def f32Neg1 : Nat := 0xBF800000
def avgUnset (a : Nat) : Bool := f32Lt a 0

def normTrig (rho n avg : Nat) : Bool :=
  !f32IsFinite n || (!avgUnset avg && f32Lt (f32Mul rho avg) n)

/-- The saturation test, in decode only. -/
def satTrig (decode : Bool) (ql s : Nat) : Bool := decode && decide (100 * s > ql)

def avgUpdate (n avg : Nat) : Nat :=
  if !f32IsFinite n then avg else if avgUnset avg then n else f32Fma (f32Sub n avg) 0x3C800000 avg

/-- The ratio of a report word. -/
def watchRatio (n avg : Nat) : Nat := if avgUnset avg then n else f32Div n avg

/-! ## Large products (R181, R187) -/

/-- A declared tree over the values of its leaves. -/
def treeSum (tree : SumTree) (leaf : Nat → Nat) : Nat :=
  match tree with
  | .leaf i => leaf i
  | .node a b => f32Add (treeSum a leaf) (treeSum b leaf)

/-- The pairing of a weight tag with an operand tag. -/
def pairNo (w a : Nat) : Nat :=
  ((List.range 17).find? fun p => decide ((pairing p).w = w) && decide ((pairing p).a = a)).getD 0

/-- What one block of weights makes of an operand entry. -/
def blockTerm (b : WBlock) (tag : Nat) (q : QBlock) : Option Nat :=
  blockValue (pairNo b.tag tag) (b.codes.map fun c => c.toNat) q.codes b.scale.toNat q.scale

def wideBlock (tag : Nat) (q : QBlock) : List Nat := q.codes.map fun c => widen tag q.scale c

/-- R187: the two INT4 digits of an activation block in E4M3 mode. -/
def e4m3Digits (v : List Nat) : QBlock × QBlock :=
  let a := wideBlock 6 (qntBlock 6 none none v)
  let h := qntBlock 2 none none a
  (h, qntBlock 2 none none ((a.zip (wideBlock 2 h)).map fun x => f32Sub x.1 x.2))

/-- The contributions of a segment to one output: one product, or one for each digit in that order. -/
def segmentTerms (e4m3 : Bool) (v : List F32) (b : WBlock) : List (Option Nat) :=
  let x := v.map fun y => y.toNat
  if e4m3 then
    let d := e4m3Digits x
    [blockTerm b 2 d.1, blockTerm b 2 d.2]
  else [blockTerm b 1 (qntBlock 1 none none x)]

/-- The reduced product for one output element. -/
def productMain (p : Product) (e4m3 : Bool) (o : Nat) : Nat :=
  treeSum p.tree fun c => laneSum (((p.act.getD c []).zip ((p.rows.getD o []).getD c [])).flatMap fun x =>
    segmentTerms e4m3 x.1 x.2)

/-- The correction of one output element (R181); it reads the rotated input in every mode. -/
def factorTerm (f : Factors) (xr : List (List F32)) (o : Nat) : Nat :=
  let xc := xr.map fun s => qntBlock f.tag none none (s.map fun y => y.toNat)
  let t := f.v.map fun row => treeSum f.tree fun k => laneSum [blockTerm (row.getD k ⟨f.tag, 0, []⟩) f.tag (xc.getD k ⟨0x7F, [], 0⟩)]
  let tc := (blocks32 (t ++ List.replicate ((32 - t.length % 32) % 32) 0)).map fun b => qntBlock f.tag none none b
  laneSum (((f.u.getD o []).zip tc).map fun x => blockTerm x.1 f.tag x.2)

/-- The outputs of a product, each corrected once it is complete. -/
def productOut (p : Product) (e4m3 : Bool) : List Nat :=
  tabulate p.rows.length fun o => match p.corr with
    | some f => f32Add (productMain p e4m3 o) (factorTerm f p.act.flatten o)
    | none => productMain p e4m3 o

/-- A core's elements of a layer's output: the residual add of its products, those of two experts under their gates (R194). -/
def coreElements (c : CoreOut) (e4m3 : Bool) (gate : Nat × Nat) : List Nat :=
  let res := c.residual.map fun x => x.toNat
  match c.prods with
  | [] => res
  | [p] => (res.zip (productOut p e4m3)).map fun x => f32Add x.1 x.2
  | p :: q :: _ => (res.zip ((productOut p e4m3).zip (productOut q e4m3))).map fun x =>
      f32Add x.1 (f32Fma gate.2 x.2.2 (f32Mul gate.1 x.2.1))

/-- The squares of a core's elements, summed in ascending order by lane, then over the lanes (R183). -/
def coreSquare (l : List Nat) : Nat :=
  treeFold f32Add (tabulate 32 fun i => (blocks32 l).foldl (fun a b => match b[i]? with
    | some x => f32Fma x x a
    | none => a) 0)

/-- q of R183: the squared norm of a layer's output over its cores. -/
def squareNorm (tree : SumTree) (cores : List (List Nat)) : Nat := treeSum tree fun c => coreSquare (cores.getD c [])

def watchQ (m : WatchSample) (e4m3 : Bool) (gate : Nat × Nat) : Nat :=
  squareNorm m.tree (m.cores.map fun c => coreElements c e4m3 gate)

/-- S of R183: the sum of the tallies that the region's cores copied. -/
def watchS (m : WatchSample) : Nat := m.tallies.foldl (fun a t => a + t) 0

/-! ## Expert routing (R193, R194) -/

/-- The logits of a mixture layer's router. -/
def routerLogits (r : RouterInput) : List Nat :=
  r.w.map fun e => treeSum r.tree fun c => laneSum (((r.x.getD c []).zip (e.getD c [])).map fun s =>
    blockValue 15 (s.2.map fun w => w.toNat) (s.1.map fun x => (roundHalf 10 none x.toNat).1) 0 0)

/-- The stored blocks in which a token goes to its experts: rotated, quantized once. -/
def routerBlocks (r : RouterInput) (e4m3 : Bool) : List (BitVec 8 × List Nat) :=
  let l := (r.x.flatten.flatten).map fun x => x.toNat
  let rot := r.seeds.zipIdx.flatMap fun s => rot256 s.1.toNat false ((l.drop (256 * s.2)).take 256)
  (blocks32 rot).map fun b =>
    let q := qntBlock (if e4m3 then 6 else 1) none none b
    (BitVec.ofNat 8 q.scale, q.codes)

/-- R193: the two experts of a token and their gates. -/
def expertGates (logits : List Nat) : (Nat × Nat) × Nat × Nat :=
  let r := sortBy pageBefore (logits.zipIdx)
  let a := r.getD 0 (f32Nan, 0)
  let b := r.getD 1 (f32Nan, 0)
  let ex := f32Exp2 (f32Mul (f32Sub b.1 a.1) 0x3FB8AA3B)
  let g1 := f32Rcp (f32Add 0x3F800000 ex)
  ((a.2, b.2), g1, f32Mul ex g1)

/-! ## The backward pass (R225) -/

/-- Keys, values and scores of one block of a unit, in the forms of its home (Table 8.4). -/
structure BackBlock where
  /-- first position, and whether the unit is a complete page -/
  pos : Nat
  page : Bool
  score : Nat → Nat
  key : Nat → List Nat
  value : Nat → List Nat
  scale : Nat
  raw : Nat → List Nat

/-- The value-gradient dot of a position: E5M2 against E4M3 values of a page, and, widened exactly, against BF16 values
(log entry 81). -/
def BackBlock.dot (b : BackBlock) (g : List QBlock) (t : Nat) : Nat :=
  laneSum (g.zipIdx.map fun q =>
    let v := ((b.raw t).drop (32 * q.2)).take 32
    if b.page then blockValue 12 v q.1.codes b.scale q.1.scale
    else blockValue 15 v ((wideBlock 7 q.1).map fun x => (roundHalf 10 none x).1) 0 0)

/-- The blocks of a row's attended units in forward order, with their allowed positions. -/
def backBlocks (x : AttnInput) (p h : Nat) (qy : Query) (pages : List (List PageData)) (open_ : HeadBf) :
    List (BackBlock × List Nat) :=
  let ok (j t : Nat) : Bool := decide (64 * j + t ≤ p) && !x.excluded.contains (64 * j + t)
  let wide (l : List (BitVec 16)) : List Nat := l.map widenBf
  (List.range (p / 64 + 1)).flatMap fun j => (List.range 2).filterMap fun b =>
    let ts := ((List.range 32).map fun t => 32 * b + t).filter (ok j)
    if ts = [] then none
    else if j < p / 64 then
      let pg := (pages.getD j []).getD h {}
      let codes (l : List (BitVec 8)) : List Nat := l.map fun c => c.toNat
      some (⟨64 * j, true, scoreF8 qy pg, fun t => (codes (pg.k.getD t [])).map (widen 6 pg.kScale.toNat),
        fun t => (codes (pg.v.getD t [])).map (widen 6 pg.vScale.toNat), pg.vScale.toNat, fun t => codes (pg.v.getD t [])⟩, ts)
    else some (⟨64 * j, false, scoreB16 qy open_, fun t => wide (open_.getD t ([], [])).1,
      fun t => wide (open_.getD t ([], [])).2, 0, fun t => (open_.getD t ([], [])).2.map fun c => c.toNat⟩, ts)

/-- One position of a row: the terms of dk and dv, and dq with its term added. -/
def backStep (qy : Query) (g : List Nat) (gq : List QBlock) (m r dd : Nat) (b : BackBlock) (a : List Nat × RowGrad) (t : Nat) :
    List Nat × RowGrad :=
  let pn := f32Mul (f32Exp2 (f32Sub (b.score t) m)) r
  let ds := f32Mul pn (f32Sub (b.dot gq t) dd)
  ((a.1.zip (b.key t)).map fun x => f32Fma ds x.2 x.1,
    { a.2 with
      dk := a.2.dk.set (b.pos + t) (toF32 (qy.qs.map fun x => f32Mul ds x))
      dv := a.2.dv.set (b.pos + t) (toF32 (g.map fun x => f32Mul pn x)) })

/-- `attn_backward` for one row and query head: `gs` is the given scale code of its gradient, none for a dynamic one. -/
def attnBackward (x : AttnInput) (p h : Nat) (q grad : List F32) (fin : Part) (gs : Option Nat) (pages : List (List PageData))
    (open_ : HeadBf) : RowGrad :=
  let none_ : RowGrad := ⟨toF32 (q.map fun _ => 0), List.replicate (p + 1) [], List.replicate (p + 1) []⟩
  if bits fin.l 0 31 = 0 then none_
  else
    let qy := prepare q
    let gq := (blocks32 (grad.map fun v => v.toNat)).map fun b => qntBlock 7 gs none b
    let g := gq.flatMap (wideBlock 7)
    let dd := (g.zip (fin.o.map fun o => widenBf (BitVec.ofNat 16 (roundHalf 10 none o).1))).foldl
      (fun a y => f32Fma y.1 y.2 a) 0
    let res := (backBlocks x p h qy pages open_).foldl (fun a b =>
      b.2.foldl (fun a t => backStep qy g gq fin.m (f32Rcp fin.l) dd b.1 a t) a) (q.map fun _ => 0, none_)
    { res.2 with dq := toF32 (res.1.map fun v => f32Mul v (attnScale q.length)) }

/-- The keys and values of a tuning row as the forward pass holds them. -/
def rowKv (r : TuneRow) : KvRec :=
  (r.past ++ [r.inp.kv]).zipIdx.foldl (fun k x => k.putToken x.2 { r.inp with kv := x.1 }) {}

/-- The forward pass of a tuning row, without retrieval (R213, R225). -/
def rowForward (r : TuneRow) : List Part :=
  attendToken r.inp r.pos ((rowKv r).pagesBelow r.pos) ((rowKv r).openAt r.pos) (List.range (r.pos / 64))

def rowSaved (r : TuneRow) : List SavedRow :=
  (rowForward r).map fun p => ⟨BitVec.ofNat 32 p.m, BitVec.ofNat 32 p.l, toBf (toF32 p.o)⟩

def rowBackward (r : TuneRow) (gs : Option Nat) : List RowGrad :=
  (rowForward r).zipIdx.map fun f =>
    let h := f.2 / groupOf r.inp
    attnBackward r.inp r.pos h (r.inp.queries.getD f.2 []) (r.grad.getD f.2 []) f.1 gs ((rowKv r).pagesBelow r.pos)
      (((rowKv r).openAt r.pos).getD h [])

end Sys2Proof.Machine
end

