-- ==== Sys2Proof/Machine/Scalar.lean ====
section
/-! DEFINITION. The slot-B operations as plans: memory, scalar, control, waits, markers and trees (R111–R119). -/

namespace Sys2Proof.Machine

open Sys2Proof

/-! ## Memory -/

/-- Counter events of a datapath access to a store. -/
def storeEv (ss : Nat) : List Nat := if ss = 0 then [0x08] else if ss = 1 then [0x0A] else [0x0C]

/-- Lanes of a beat: 8 from the activation store, 16 from the partial store (R49). -/
def beatLanes (ss : Nat) : Nat := if ss = 1 then 8 else 16

/-- A load beat in its own port cycle; its lanes are visible 2 cycles later. -/
def Cx.ldBeat (x : Cx) (at_ v lo n ss off : Nat) : Cx :=
  let q := x.dpRead ss off (4 * n)
  if q.1.frozen then q.1
  else q.1.modDp fun d => { d with
    pend := d.pend ++ [⟨at_ + 2, .vlanes v lo n (BitVec.ofNat 1024 (q.2 <<< (32 * lo)))⟩] }

/-- LDV. -/
def planLdv (r : CoreRec) (w : Nat) : Plan :=
  let ss := fld w 18 16
  let rb := fld w 15 11
  let vd := fld w 10 6
  let off := baseOff r rb (fld w 37 19)
  if accessOk [1, 2] ss off 128 (if ss = 2 then 64 else 32) then
    let n := beatLanes ss
    let beats := 32 / n
    withPost
      { ports := tabulate beats fun j => (ss, j)
        writes := tabulate beats fun j => (keyV vd, j + 2)
        pend := tabulate (beats - 1) fun j => (j + 1, .ldBeat vd ((j + 1) * n) n ss (off + 4 * n * (j + 1)))
        evs := storeEv ss
        act := fun x => x.ldBeat x.r.dp.pt vd 0 n ss off } r rb (32 * fld w 45 38)
  else planRange ss off

/-- STV: FP32, or BF16 and FP16 under R84. -/
def planStv (r : CoreRec) (w : Nat) : Plan :=
  let ss := fld w 18 16
  let rb := fld w 15 11
  let pk := fld w 47 46
  let v := r.vreg (fld w 10 6)
  if pk = 3 then planIllegal [3]
  else
    let t := if pk = 1 then 10 else 9
    let data := if pk = 0 then v.toNat
      else packFields 16 32 fun i => (roundHalf t none (vlane v i)).1
    let len := if pk = 0 then 128 else 64
    let off := baseOff r rb (fld w 37 19)
    if accessOk [1, 2] ss off len (if ss = 2 then 64 else 32) then
      let n := 4 * beatLanes ss
      let beats := len / n
      withPost
        { ports := tabulate beats fun j => (ss, j)
          pend := tabulate (beats - 1) fun j => (j + 1, .store ss (off + n * (j + 1)) n (bits data (8 * n * (j + 1)) (8 * n)))
          evs := storeEv ss
          act := fun x => x.write ss off n (bits data 0 (8 * n)) } r rb (32 * fld w 45 38)
    else planRange ss off

/-- The vector that a stored block widens to, and its tag check (R112); `blk` is the block's bytes as a number. -/
def Cx.vldwLand (x : Cx) (v fmt pc blk due : Nat) : Cx :=
  let n := sbElemBytes fmt
  let sw := blk >>> (8 * n)
  let tag := if tagScaled fmt then bits sw 8 4 else fmt
  if tag ≠ fmt then x.freeze 3 0x0A (tagDetail pc tag fmt)
  else
    let val := vpack (tabulate 32 fun i => widen fmt (bits sw 0 8) (bits blk (tagWidth fmt * i) (tagWidth fmt)))
    x.modDp fun d => { d with pend := d.pend ++ [⟨due, .vlanes v 0 32 val⟩] }

/-- VLDW. -/
def planVldw (r : CoreRec) (pc w : Nat) : Plan :=
  let fmt := fld w 51 48
  let rb := fld w 15 11
  let vd := fld w 10 6
  if fmt = 0 ∨ fmt = 3 ∨ fmt ≥ 0xB then planIllegal [3]
  else
    let off := baseOff r rb (fld w 37 19)
    let two := decide (sbLines fmt = 2)
    if accessOk [1] 1 off (if two then 64 else 32) 32 then
      withPost
        { ports := if two then [(1, 0), (1, 1)] else [(1, 0)]
          writes := [(keyV vd, if two then 4 else 3)]
          evs := [0x0A]
          act := fun x =>
            let q := x.dpRead 1 off 32
            if q.1.frozen then q.1
            else if two then q.1.modDp fun d => { d with pend := d.pend ++ [⟨d.pt + 1, .vldw2 vd fmt off pc q.2⟩] }
            else q.1.vldwLand vd fmt pc q.2 (q.1.r.dp.pt + 3) } r rb (32 * fld w 45 38)
    else planRange 1 off

/-- LDB: half a beam row as raw lanes. DESIGN CHOICE (log entry 75): the check covers the eight units of the half that is
loaded. -/
def planLdb (r : CoreRec) (w : Nat) : Plan :=
  let rb := fld w 15 11
  let vd := fld w 10 6
  let row := baseOff r rb (fld w 26 16)
  if row > 1535 then planRange 0 (256 * row)
  else
    let off := 256 * row + 128 * boolNat (flag w 27)
    withPost
      { ports := [(0, 0)]
        writes := [(keyV vd, 3)]
        evs := [0x08]
        act := fun x =>
          let q := x.dpRead 0 off 128
          if q.1.frozen then q.1
          else q.1.modDp fun d => { d with pend := d.pend ++ [⟨d.pt + 3, .vlanes vd 0 32 (BitVec.ofNat 1024 q.2)⟩] } }
      r rb (fld w 30 28)

/-- LDS: an alias returns the plain word. -/
def planLds (r : CoreRec) (w : Nat) : Plan :=
  let ss := fld w 18 16
  let rb := fld w 15 11
  let sd := fld w 10 6
  let off := baseOff r rb (fld w 37 19)
  if accessOk [1, 2, 5, 6] ss off 8 8 then
    withPost
      { ports := [(realSs ss, 0)]
        writes := if sd = 0 then [] else [(keyS sd, 2)]
        evs := storeEv (realSs ss)
        act := fun x =>
          let q := x.dpRead (realSs ss) off 8
          if q.1.frozen || decide (sd = 0) then q.1
          else q.1.modDp fun d => { d with pend := d.pend ++ [⟨d.pt + 2, .sreg sd (BitVec.ofNat 64 q.2)⟩] } }
      r rb (8 * fld w 45 38)
  else planRange ss off

/-- STS: a plain store, or the alias read-modify-write (R58). -/
def planSts (r : CoreRec) (w : Nat) : Plan :=
  let ss := fld w 18 16
  let rb := fld w 15 11
  let v := r.sreg (fld w 10 6)
  let off := baseOff r rb (fld w 37 19)
  if accessOk [1, 2, 5, 6] ss off 8 8 then
    let p : Plan :=
      if ss = 5 ∨ ss = 6 then
        { ports := [(1, 0), (1, 1)], evs := [0x0A], act := fun x => x.dpRmw off (decide (ss = 5)) v }
      else { ports := [(ss, 0)], evs := storeEv ss, act := fun x => x.write ss off 8 v }
    withPost p r rb (8 * fld w 45 38)
  else planRange ss off

/-- SHUT: only the address is queued (R60). -/
def planShut (r : CoreRec) (w : Nat) : Plan :=
  let off := baseOff r (fld w 15 11) (fld w 34 16)
  if accessOk [1] 1 off 64 64 then { shut := some (fld w 9 6, off) } else planRange 1 off

/-! ## Scalar operations (R113) -/

def planAlu (op : Nat → Nat → Nat) (lat : Nat) (r : CoreRec) (w : Nat) : Plan :=
  withS {} (fld w 10 6) lat (op (r.sreg (fld w 15 11)) (r.sreg (fld w 20 16)) % 2 ^ 64)

def aluSub (a b : Nat) : Nat := a + 2 ^ 64 - b
def aluShl (a b : Nat) : Nat := a <<< (b % 64)
def aluShr (a b : Nat) : Nat := a >>> (b % 64)
def aluSar (a b : Nat) : Nat := toBits 64 (sext 64 a / ((2 ^ (b % 64) : Nat) : Int))
def aluSlt (a b : Nat) : Nat := boolNat (decide (sext 64 a < sext 64 b))
def aluSltu (a b : Nat) : Nat := boolNat (decide (a < b))
def aluSeq (a b : Nat) : Nat := boolNat (decide (a = b))

def planAdd : CoreRec → Nat → Plan := planAlu (· + ·) 1
def planSub : CoreRec → Nat → Plan := planAlu aluSub 1
def planAnd : CoreRec → Nat → Plan := planAlu (· &&& ·) 1
def planOr : CoreRec → Nat → Plan := planAlu (· ||| ·) 1
def planXor : CoreRec → Nat → Plan := planAlu (· ^^^ ·) 1
def planShl : CoreRec → Nat → Plan := planAlu aluShl 1
def planShr : CoreRec → Nat → Plan := planAlu aluShr 1
def planSar : CoreRec → Nat → Plan := planAlu aluSar 1
def planSlt : CoreRec → Nat → Plan := planAlu aluSlt 1
def planSltu : CoreRec → Nat → Plan := planAlu aluSltu 1
def planSeq : CoreRec → Nat → Plan := planAlu aluSeq 1
def planMul : CoreRec → Nat → Plan := planAlu (· * ·) 3

def planAddi (r : CoreRec) (w : Nat) : Plan :=
  withS {} (fld w 10 6) 1 (toBits 64 ((r.sreg (fld w 15 11) : Int) + sext 32 (fld w 47 16)))

def planLih (r : CoreRec) (w : Nat) : Plan :=
  let rd := fld w 10 6
  withS {} rd 1 ((fld w 47 16 <<< 32) + r.sreg rd % 2 ^ 32)

def planMovv (r : CoreRec) (w : Nat) : Plan := withS {} (fld w 10 6) 2 (vlane (r.vreg (fld w 15 11)) (fld w 20 16))
def planMovgf (r : CoreRec) (w : Nat) : Plan := withS {} (fld w 10 6) 1 r.dp.gf.toNat

/-! ## Branches and loops (R114, R115) -/

def planTaken (b : Bool) (w : Nat) : Plan := if b then { ctl := .branch (fld w 25 16) } else {}

def planBr (_ : CoreRec) (w : Nat) : Plan := planTaken true w
def planBz (r : CoreRec) (w : Nat) : Plan := planTaken (decide (r.sreg (fld w 10 6) = 0)) w
def planBnz (r : CoreRec) (w : Nat) : Plan := planTaken (decide (r.sreg (fld w 10 6) ≠ 0)) w
def planBlt (r : CoreRec) (w : Nat) : Plan :=
  planTaken (decide (sext 64 (r.sreg (fld w 10 6)) < sext 64 (r.sreg (fld w 15 11)))) w

/-- LOOP (R115); the count is the 64-bit sum (log entry 13). Only the empty body is exempt from the limit of the outer
loop; a count of 0 never becomes active and needs no free loop. -/
def planLoop (r : CoreRec) (pc w : Nat) : Plan :=
  let count := (r.sreg (fld w 10 6) + fld w 26 11) % 2 ^ 64
  let last := fld w 36 27
  let c11 := if count > 65535 then [11] else []
  if last < pc then planIllegal (10 :: c11)
  else if last = pc then planIllegal c11
  else
    let inner := match r.dp.loops with
      | [] => false
      | l :: _ => decide (last > l.last)
    let c10 := if inner = true ∨ (count ≠ 0 ∧ r.dp.loops.length ≥ 4) then [10] else []
    if c10 ++ c11 ≠ [] then planIllegal (c10 ++ c11)
    else if count = 0 then { ctl := .branch (last + 1) }
    else { ctl := .loop count last }

/-! ## Waits, markers and trees (R116–R119) -/

def planWaitf (r : CoreRec) (w : Nat) : Plan :=
  let off := baseOff r (fld w 15 11) (fld w 37 19)
  if accessOk [1] 1 off 8 8 then
    let m := r.sreg (fld w 10 6)
    let clr := flag w 39
    { ports := if clr then [(1, 0), (1, 1)] else [(1, 0)]
      wait := some (.flag off (BitVec.ofNat 64 m) (flag w 38) clr)
      waitRead := some off
      act := fun x => if clr then x.dpRmw off false m else x }
  else planRange 1 off

def planWaitc (r : CoreRec) (w : Nat) : Plan :=
  { wait := some (.credit (fld w 13 6) ((r.sreg (fld w 18 14) + fld w 34 19) % 2 ^ 64)) }

def planWaitq (w : Nat) : Plan := { wait := some (.queue (fld w 9 6)) }

/-- PICK (R45, R117, R182): slice rotation advances, the tally is copied and the copy subtracted. -/
def planPick (r : CoreRec) (w : Nat) : Plan :=
  withS
    { evs := [0x13]
      act := fun x => x.mod fun c =>
        { c with sliceRot := (c.sliceRot + 1) % 8, dp := { c.dp with tally := c.dp.tally - r.dp.tally } } }
    (fld w 10 6) 1 r.dp.tally

/-- TDECL (R118): the record's two lines are read at 0 and 1, the slot is loaded at 2. -/
def planTdecl (r : CoreRec) (w : Nat) : Plan :=
  let off := baseOff r (fld w 15 11) (fld w 37 19)
  let t := fld w 8 6
  if accessOk [1] 1 off 64 64 then
    { ports := [(1, 0), (1, 1)]
      evs := [0x0A]
      act := fun x =>
        let q := x.dpRead 1 off 32
        if q.1.frozen then q.1
        else q.1.modDp fun d => { d with pend := d.pend ++ [⟨d.pt + 1, .tdecl2 t off q.2⟩] } }
  else planRange 1 off

/-- RSTEP (R119): it waits on the record's flag word and clears it, then queues the step. A record whose flag is not in
the activation store cannot be waited on; the step is queued and rejected when it is performed (R118, log entry 15). -/
def planRstep (r : CoreRec) (w : Nat) : Plan :=
  let t := fld w 8 6
  let ch := fld w 12 9
  let rec_ := (Tab.get 0 r.dp.tree t).toNat
  let fl := bits rec_ 320 22
  let mask := bits rec_ 384 64
  if bits fl 19 3 = 1 then
    let off := bits fl 0 19
    if accessOk [1] 1 off 8 8 then
      { ports := [(1, 0), (1, 1)]
        wait := some (.rstepFlag ch t)
        waitRead := some off
        act := fun x => x.dpRmw off false mask
        step := some (ch, t) }
    else planRange 1 off
  else { step := some (ch, t) }

end Sys2Proof.Machine
end

