-- ==== Sys2Proof/Machine/Shuttle.lean ====
section
/-! DEFINITION. The shuttle: descriptors, lines, reduction steps, grants, notifies and completion (R60–R66, R119,
R162, R163, R166, R167, R169). A channel goes on until it must wait for the fabric. -/

namespace Sys2Proof.Machine

open Sys2Proof

/-- Where a channel works: the engine's number and the core. -/
structure ShEnv where
  eng : Nat
  c : Nat
  deriving DecidableEq, Repr

/-! ## Descriptor fields (Table 2.8) -/

def Active.w (a : Active) (k : Nat) : Nat := bits a.words.toNat (64 * k) 64
def Active.op (a : Active) : Nat := bits (a.w 0) 0 4
def Active.chain (a : Active) : Bool := !a.isRstep && bitAt (a.w 0) 4
def Active.count (a : Active) : Nat := bits (a.w 0) 16 24
def Active.src (a : Active) : Nat := bits (a.w 1) 0 47
def Active.dstA (a : Active) : Nat := bits (a.w 2) 0 47
def Active.sstride (a : Active) : Int := sext 32 (bits (a.w 3) 0 32)
def Active.dstride (a : Active) : Int := sext 32 (bits (a.w 3) 32 32)
def Active.sub (a : Active) : Nat := bits (a.w 6) 0 16
def Active.frameOff (a : Active) : Nat := bits (a.w 6) 16 19

/-- Tree record fields (Table 4.14). -/
def Active.kind (a : Active) : Nat := bits (a.w 0) 0 2
def Active.nchild (a : Active) : Nat := bits (a.w 0) 2 3
def Active.lines (a : Active) : Nat := bits (a.w 0) 5 16

def Active.credited (a : Active) : Bool := if a.isRstep then bitAt (a.w 0) 29 else bitAt (a.w 0) 6
def Active.creditId (a : Active) : Nat := if a.isRstep then bits (a.w 0) 21 8 else bits (a.w 0) 8 8
def Active.notify (a : Active) : Bool := a.isRstep || bitAt (a.w 0) 5
def Active.notifyAddr (a : Active) : Nat := if a.isRstep then bits (a.w 3) 0 47 else bits (a.w 4) 0 47
def Active.notifyMask (a : Active) : Nat := if a.isRstep then a.w 4 else a.w 5

/-- Lines that the descriptor or step writes. -/
def Active.total (a : Active) : Nat :=
  if a.isRstep then a.lines
  else if a.op = 4 then a.count * a.sub else if a.op = 6 then 0 else a.count

/-- A notify address lies in a set or clear alias (R62). -/
def aliasAddr (a : Nat) : Bool :=
  decide (gaY a < 576) && (decide (gaSs a = 5) || decide (gaSs a = 6)) && decide (gaOff a < 0xC000)

/-- A malformed descriptor (R62). DESIGN CHOICE (log entry 75): a PAGEWALK whose sub_count is 0 is not among the conditions;
it completes with no lines. -/
def Active.malformed (a : Active) : Bool :=
  decide (a.op = 0) || decide (a.op > 6) || decide (a.count = 0) ||
  decide (bits (a.w 3) 0 32 % 32 ≠ 0) || decide (bits (a.w 3) 32 32 % 32 ≠ 0) || decide (a.frameOff % 32 ≠ 0) ||
  bitAt (a.w 0) 7 || decide (bits (a.w 0) 40 24 ≠ 0) || decide (a.w 1 >>> 47 ≠ 0) || decide (a.w 2 >>> 47 ≠ 0) ||
  decide (a.w 4 >>> 47 ≠ 0) || decide (a.w 6 >>> 35 ≠ 0) || decide (a.w 7 ≠ 0) ||
  (a.notify && !aliasAddr a.notifyAddr)

/-- A tree record that RSTEP rejects (R118). -/
def Active.badTree (a : Active) : Bool :=
  decide (a.kind = 3) || decide (a.nchild > 4) || decide (a.lines = 0) || decide (bits (a.w 5) 19 3 ≠ 1) ||
  decide (a.w 0 >>> 30 ≠ 0) || decide (a.w 1 >>> 44 ≠ 0) || decide (a.w 2 >>> 47 ≠ 0) || decide (a.w 3 >>> 47 ≠ 0) ||
  decide (a.w 5 >>> 22 ≠ 0) || decide (a.w 7 ≠ 0)

/-- A step in an address, within its 47 bits. -/
def gaStep (a : Nat) (d : Int) : Nat := ((a : Int) + d).toNat % 2 ^ 47

/-! ## Local accesses by a shuttle or a remote requester -/

/-- The access lies in one window of a store that may be accessed so (Table 2.6, R53, R54). -/
def localOk (r : CoreRec) (write : Bool) (ss off n : Nat) : Bool :=
  let small := if ss = 0 ∨ ss = 3 then 16 else 8
  (!write || (decide (off % small = 0) && decide (small ≤ n))) &&
  (if ss = 0 then decide (off + n ≤ 0x60000) || (decide (0x60000 ≤ off) && decide (off + n ≤ 0x66000))
   else if ss = 3 then write && decide (off + n ≤ 0x4000) && decide (r.st ≠ .run) && decide (r.st ≠ .wait)
   else decide (ss ≠ 4) && decide (ss ≠ 7) && decide (off + n ≤ storeEnd (realSs ss)))

/-- Counter event of a shuttle or remote access. -/
def shEv (ss : Nat) : Nat := if ss = 0 then 0x09 else if ss = 2 then 0x0C else 0x0B

/-- The channel stops in ERROR: its queue is discarded (R66); `e` the line index. -/
def Cx.chanStop (x : Cx) (ch e : Nat) : Cx :=
  x.mod fun r =>
    let k := r.chan ch
    r.setChan ch { k with state := .error, queue := [], active := none, entry := e % 2 ^ 24, mismatch := false }

def Cx.chanFail (x : Cx) (ch e kind detail : Nat) : Cx := (x.say kind 2 detail).chanStop ch e

/-- A local line or word read for a transfer (Table 2.7: an uncorrectable one is not sent). -/
def Cx.shRead (x : Cx) (ch e ss off n : Nat) : Cx × Option Nat :=
  if localOk x.r false ss off n then
    let q := x.eccCheck (realSs ss) off n
    if q.2 then ((q.1.perfEvent (shEv (realSs ss))), some (q.1.r.stores.read (realSs ss) off n))
    else (q.1.chanStop ch e, none)
  else (x.chanFail ch e 0x05 (locAddr ss off), none)

/-- Words of a line through an alias window, in ascending order (R58). DESIGN CHOICE (log entry 75): at the first word that
cannot be read the line stops, and its later words are not done. -/
def Cx.rmwWords (x : Cx) (off : Nat) (set : Bool) (v : Nat) : Nat → Cx × Bool
  | 0 => (x, true)
  | n + 1 =>
    let q := x.rmw off set (v % 2 ^ 64)
    if q.2 then q.1.rmwWords (off + 8) set (v >>> 64) n else q

/-- A write of `n` bytes into this core's own stores, aliases included; false where an alias word cannot be read. -/
def Cx.storeIn (x : Cx) (ss off n v : Nat) : Cx × Bool :=
  if ss = 5 ∨ ss = 6 then
    let q := x.rmwWords off (decide (ss = 5)) v (n / 8)
    (q.1.perfEvent 0x0B, q.2)
  else ((x.write ss off n v).perfEvent (shEv ss), true)

/-! ## Lines -/

/-- What happened with a line. -/
inductive LineSt where
  | done | wait | stop
  deriving DecidableEq, Repr

def isMine (v : ShEnv) (a : Nat) : Bool :=
  decide (gaEngine a = v.eng) && decide (gaY a = coreY v.c) && decide (gaX a = coreX v.c)

def Cx.act? (x : Cx) (ch : Nat) : Option Active := (x.r.chan ch).active
def Cx.setAct (x : Cx) (ch : Nat) (a : Active) : Cx :=
  x.mod fun r => r.setChan ch { r.chan ch with active := some a, state := .active }

/-- A WRITE or WRITE_WORD of a channel. -/
def writeFlit (ch dst n v : Nat) (last credited : Bool) (cid : Nat) : Flit :=
  { blankFlit (if n = 32 then .write else .writeWord) 1 dst with
    credited := credited, creditId := if credited then cid else 0, ch := ch, last := last, line := BitVec.ofNat 256 v }

/-- One line put to its destination: a local store accepts it at once; a remote one is injected, a credited one only by
CREDITED_LINE_SEND (`mayCredit`) and with credit in hand (R63, R167). -/
def Cx.putLine (v : ShEnv) (x : Cx) (ch : Nat) (a : Active) (i dst data : Nat) (mayCredit : Bool) : Cx × LineSt :=
  if isMine v dst then
    let ss := gaSs dst
    let off := gaOff dst
    if localOk x.r true ss off 32 then
      let q := x.storeIn ss off 32 data
      if q.2 then (q.1.setAct ch { a with next := i + 1 }, .done) else (q.1.chanStop ch i, .stop)
    else (x.chanFail ch i 0x05 (locAddr ss off), .stop)
  else
    let last := decide (i + 1 = a.total)
    if a.credited then
      if mayCredit && decide (Tab.get 0 x.r.credits a.creditId > 0) then
        let x := x.mod fun r => { r with credits := Tab.put 0 r.credits a.creditId (Tab.get 0 r.credits a.creditId - 1) }
        let x := ((x.send (writeFlit ch dst 32 data last true a.creditId)).perfEvent 0x0E).perfEvent 0x11
        (x.setAct ch { a with next := i + 1, sent := a.sent + 1 }, .done)
      else (x.setAct ch a, .wait)
    else
      let x := (x.send (writeFlit ch dst 32 data last false 0)).perfEvent 0x0E
      (x.setAct ch { a with next := i + 1, sent := a.sent + 1 }, .done)

/-- The line can be put now: its destination is local, or it needs no credit, or it has its credit. -/
def canPut (v : ShEnv) (x : Cx) (a : Active) (dst : Nat) (mayCredit : Bool) : Bool :=
  isMine v dst || !a.credited || (mayCredit && decide (Tab.get 0 x.r.credits a.creditId > 0))

/-- A line whose source is local or remote, then put. -/
def Cx.moveLine (v : ShEnv) (x : Cx) (ch : Nat) (a : Active) (i src dst : Nat) (mayCredit : Bool) : Cx × LineSt :=
  if isMine v src then
    if !canPut v x a dst mayCredit then (x, .wait)
    else
    let q := x.shRead ch i (gaSs src) (gaOff src) 32
    match q.2 with
    | some d => q.1.putLine v ch a i dst d mayCredit
    | none => (q.1, .stop)
  else match a.staged with
    | d :: rest =>
      let q := x.putLine v ch { a with staged := rest } i dst d.toNat mayCredit
      if q.2 = .wait then (x, .wait) else q
    | [] =>
      if a.outstanding > 0 then (x, .wait)
      else
        let k := if a.sstride = 32 ∧ a.op ≠ 2 then min 16 (a.total - i) else 1
        let x := (x.send { blankFlit .read 1 src with ch := ch, arg := k - 1 }).perfEvent 0x0E
        (x.setAct ch { a with outstanding := k }, .wait)

/-- Entry `i` of a local list of `n`-byte entries. DESIGN CHOICE (log entry 75): an entry that is not aligned to its size is
out of range. -/
def Cx.listEntry (x : Cx) (ch base i e n : Nat) : Cx × Option Nat :=
  let ss := bits base 19 3
  let off := bits base 0 19 + n * i
  if off % n = 0 then x.shRead ch e ss off n else (x.chanFail ch e 0x05 (locAddr ss off), none)

/-- A GATHER or SCATTER list entry must be a plain address (R63). -/
def Cx.listAddr (x : Cx) (ch base i : Nat) : Cx × Option Nat :=
  let q := x.listEntry ch base i i 8
  match q.2 with
  | some e =>
    if e >>> 47 ≠ 0 then (q.1.chanFail ch i 0x05 (bits base 0 22 + 8 * i), none) else q
  | none => q

/-- The translation of R64: the beam offset of a page, or the channel's stop in ERROR or MISS. DESIGN CHOICE (log entry 75): a
page-table entry whose bits [31:24] are not 0, which R64 only requires to be 0, stops as a page outside the map does. -/
def Cx.translate (x : Cx) (ch : Nat) (a : Active) (i : Nat) : Cx × Option Nat :=
  let e0 := i * a.sub
  let q := x.listEntry ch (bits a.src 0 22) i e0 4
  match q.2 with
  | none => (q.1, none)
  | some e =>
    let x := q.1
    let p := bits e 0 24
    let fm := x.r.frameMap.toNat
    let fg := x.r.frameGeom.toNat
    if e >>> 24 ≠ 0 ∨ p ≥ bits fm 22 24 then (x.chanFail ch e0 0x05 (bits (a.src + 4 * i) 0 22), none)
    else
      let at_ := bits fm 0 22 + 8 * p
      let q := x.shRead ch e0 (bits at_ 19 3) (bits at_ 0 19) 8
      match q.2 with
      | none => (q.1, none)
      | some f =>
        let x := q.1
        let bad := decide (f >>> 32 ≠ compl 32 (f % 2 ^ 32))
        let x := if bad then x.say 0x03 2 (p + (3 <<< 28)) else x
        if bad ∨ bits f 20 2 ≠ 0 then
          (x.mod fun r => r.setChan ch { r.chan ch with
            state := .miss, entry := i % 2 ^ 24, mismatch := bad, active := some a }, none)
        else if bits f 0 20 ≥ bits fg 38 20 then (x.chanFail ch e0 0x05 (bits at_ 0 22), none)
        else (x, some (bits fg 0 19 + bits f 0 20 * bits fg 19 19 + a.frameOff))

/-- Lane-wise combination of two lines (R119): the line, and whether an INT32 sum saturated. -/
def combineLines (kind acc child : Nat) : Nat × Bool :=
  let l (x i : Nat) : Nat := bits x (32 * i) 32
  let res (i : Nat) : Nat × Bool :=
    if kind = 0 then (f32Add (l acc i) (l child i), false)
    else if kind = 1 then satSum32 (l acc i) (l child i)
    else (f32Max (l acc i) (l child i), false)
  (packFields 32 8 fun i => (res i).1, (List.range 8).any fun i => (res i).2)

/-- The children's lines combined in declared order. -/
def Cx.combineFrom (x : Cx) (ch : Nat) (a : Active) (l i acc : Nat) : Nat → Cx × Option Nat
  | 0 => (x, some acc)
  | n + 1 =>
    let o := bits (a.w 1) 22 22 + 32 * a.lines * i + 32 * l
    let q := x.shRead ch l (bits o 19 3) (bits o 0 19) 32
    match q.2 with
    | none => (q.1, none)
    | some d =>
      let c := combineLines a.kind acc d
      let x := if c.2 then q.1.modDp fun dp => { dp with gf := gfSet dp.gf (16 + a.tree) true } else q.1
      x.combineFrom ch a l (i + 1) c.1 n

/-- Line `next` of the active descriptor or step. -/
def Cx.lineStep (v : ShEnv) (x : Cx) (ch : Nat) (a : Active) (mayCredit : Bool) : Cx × LineSt :=
  let i := a.next
  let dst := gaStep a.dstA ((i : Int) * a.dstride)
  let src := gaStep a.src ((i : Int) * a.sstride)
  if a.isRstep then
    -- a credited line is combined when it can be sent
    if !canPut v x a a.dstA mayCredit then (x, .wait)
    else
      let o := bits (a.w 1) 0 22 + 32 * i
      let q := x.shRead ch i (bits o 19 3) (bits o 0 19) 32
      match q.2 with
      | none => (q.1, .stop)
      | some own =>
        let q := q.1.combineFrom ch a i 0 own a.nchild
        match q.2 with
        | none => (q.1, .stop)
        | some d => q.1.putLine v ch a i (gaStep a.dstA (32 * i)) d mayCredit
  else if a.op = 1 then x.moveLine v ch a i src dst mayCredit
  else if a.op = 2 then
    if !canPut v x a dst mayCredit && !a.staged.isEmpty then (x, .wait)
    else
      let q := x.listAddr ch (bits a.src 0 22) i
      match q.2 with
      | none => (q.1, .stop)
      | some e => q.1.moveLine v ch a i e dst mayCredit
  else if a.op = 3 then
    let q := x.listAddr ch (bits a.dstA 0 22) i
    match q.2 with
    | none => (q.1, .stop)
    | some e =>
      let q := q.1.moveLine v ch a i src e mayCredit
      if q.2 = .wait ∧ isMine v src = true then (x, .wait) else q
  else if a.op = 4 then
    let l := i % a.sub
    if !canPut v x a dst mayCredit then (x, .wait)
    else match a.page with
    | some base =>
      let q := x.shRead ch i 0 (base + 32 * l) 32
      match q.2 with
      | none => (q.1, .stop)
      | some d => q.1.putLine v ch { a with page := if l + 1 = a.sub then none else some base } i dst d mayCredit
    | none =>
      let q := x.translate ch a (i / a.sub)
      match q.2 with
      | none => (q.1, .stop)
      | some base =>
        let a := { a with page := some base }
        let q := (q.1.setAct ch a).shRead ch i 0 base 32
        match q.2 with
        | none => (q.1, .stop)
        | some d => q.1.putLine v ch { a with page := if 1 = a.sub then none else some base } i dst d mayCredit
  else if a.op = 5 then x.putLine v ch a i dst 0 mayCredit
  else (x, .wait)

/-! ## Completion (R65, R61) -/

/-- The descriptor is complete: a chained one stands next, in the same queue entry. -/
def Cx.finish (x : Cx) (ch : Nat) (a : Active) : Cx :=
  (x.mod fun r =>
    let k := r.chan ch
    r.setChan ch { k with
      state := .idle
      active := none
      queue := if a.chain then .desc (a.addr + 64) :: k.queue else k.queue }).perfEvent 0x10

/-- Every line is accepted: the notify, or completion. -/
def Cx.linesDone (v : ShEnv) (x : Cx) (ch : Nat) (a : Active) : Cx :=
  if !a.notify then x.finish ch a
  else
    let d := a.notifyAddr
    if isMine v d then
      if localOk x.r true (gaSs d) (gaOff d) 8 then
        let q := x.storeIn (gaSs d) (gaOff d) 8 a.notifyMask
        if q.2 then q.1.finish ch a else q.1.chanStop ch a.next
      else x.chanFail ch a.next 0x05 (bits d 0 22)
    else ((x.send (writeFlit ch d 8 a.notifyMask true false 0)).perfEvent 0x0E).setAct ch { a with notifying := true }

/-- Lines go on until one must wait; when the last one is accepted the descriptor ends. -/
def Cx.pump (v : ShEnv) (ch : Nat) : Nat → Cx → Cx
  | 0, x => x
  | n + 1, x =>
    match x.act? ch with
    | none => x
    | some a =>
      if (x.r.chan ch).state ≠ .active ∨ a.notifying = true then x
      else if a.next < a.total then
        let q := x.lineStep v ch a false
        match q.2 with
        | .done => Cx.pump v ch n q.1
        | _ => q.1
      else if a.sent = a.acked then x.linesDone v ch a
      else x

def pumpFuel (a : Active) : Nat := a.total + 2

def Cx.run (v : ShEnv) (x : Cx) (ch : Nat) : Cx :=
  match x.act? ch with
  | some a => Cx.pump v ch (pumpFuel a) x
  | none => x

/-! ## Starting a descriptor -/

/-- States in which a core's shuttle works. -/
def shuttleOn (r : CoreRec) : Bool :=
  decide (r.st = .idle) || decide (r.st = .run) || decide (r.st = .wait) || decide (r.st = .frozen) ||
  decide (r.st = .fenced)

def newActive (words : BitVec 512) (addr : Nat) (isR : Bool) (tree : Nat) : Active :=
  { words := words, addr := addr, isRstep := isR, tree := tree }

/-- A GRANT opens its record and sends the flit, or waits for a record (R166). -/
def Cx.grantGo (v : ShEnv) (x : Cx) (ch : Nat) (a : Active) : Cx :=
  let d := a.dstA
  let key (g : GrantRec) : Bool :=
    decide (g.engine = gaEngine d) && decide (g.y = gaY d) && decide (g.x = gaX d) && decide (g.creditId = (bits (a.w 0) 8 8))
  if x.r.grants.any key ∨ x.r.grants.length ≥ 64 then x.setAct ch { a with waitsRecord := true }
  else
    let g : GrantRec := { engine := gaEngine d, y := gaY d, x := gaX d, creditId := (bits (a.w 0) 8 8),
                          store := bits a.src 19 3, base := bits a.src 0 19, limit := a.count, used := 0 }
    let x := x.mod fun r => { r with grants := r.grants ++ [g], exhausted := r.exhausted.filter fun e => !key e }
    let x := (x.send { blankFlit .grant 0 d with creditId := (bits (a.w 0) 8 8), ch := ch, arg := a.count }).perfEvent 0x0E
    x.linesDone v ch { a with waitsRecord := false }

/-- The front queue entry starts, if it is a descriptor of operation `op` (R61): its two lines are read; a malformed
one stops the channel (R62). -/
def Cx.startDesc (v : ShEnv) (x : Cx) (ch op : Nat) : Cx :=
  let k := x.r.chan ch
  match k.state, k.active, k.queue with
  | .idle, none, .desc addr :: rest =>
    if !shuttleOn x.r then x
    else
      let y := x.mod fun r => r.setChan ch { k with queue := rest, state := .active, entry := 0, mismatch := false }
      let q := y.shRead ch 0 1 addr 64
      match q.2 with
      | none => q.1
      | some w =>
        let a := newActive (BitVec.ofNat 512 w) addr false 0
        if a.malformed then q.1.chanFail ch 0 0x09 (2 ^ 35 + ch)
        else if a.op ≠ op then x
        else if op = 6 then
          let ss := bits a.src 19 3
          if (ss = 1 ∨ ss = 2) ∧ a.count ≤ 1536 ∧ localOk q.1.r false ss (bits a.src 0 19) (32 * a.count) = true then
            q.1.grantGo v ch a
          else q.1.chanFail ch 0 0x05 (bits a.src 0 22)
        else (q.1.setAct ch a).run v ch
  | _, _, _ => x

/-- A queued reduction step starts (R119); a rejected record stops the channel (R118, R62). -/
def Cx.startStep (v : ShEnv) (x : Cx) (ch : Nat) : Cx :=
  let k := x.r.chan ch
  match k.state, k.active, k.queue with
  | .idle, none, .rstep t w :: rest =>
    if !shuttleOn x.r then x
    else
      let a := newActive w 0 true t
      let y := x.mod fun r => r.setChan ch { k with queue := rest, state := .active, entry := 0, mismatch := false }
      if a.badTree then y.chanFail ch 0 0x09 (2 ^ 35 + ch) else (y.setAct ch a).run v ch
  | _, _, _ => x

/-- The local stores that a descriptor or step reads and writes. -/
def Active.uses (v : ShEnv) (a : Active) (store : Nat) : Bool :=
  let loc (x : Nat) : Bool := isMine v x && decide (realSs (gaSs x) = store)
  if a.isRstep then
    !a.badTree && (decide (bits (a.w 1) 19 3 = store) || decide (bits (a.w 1) 41 3 = store) || loc a.dstA)
  else
    !a.malformed &&
      ((decide (a.op = 1 ∨ a.op = 3) && loc a.src) || (decide (a.op = 4) && decide (store = 0)) ||
        (decide (a.op = 1 ∨ a.op = 2 ∨ a.op = 4 ∨ a.op = 5) && loc a.dstA))

/-- An active descriptor has a line that it can go on with now: it waits for no response and no credit. -/
def Active.canGo (r : CoreRec) (a : Active) : Bool :=
  decide (a.next < a.total) && !a.notifying && !a.waitsRecord && decide (a.outstanding = 0) &&
    (!a.credited || decide (0 < Tab.get 0 r.credits a.creditId))

/-- A channel requests these stores: with a queue entry that it has not started, the activation store for a descriptor's own
lines and the stores that the descriptor or step uses; while it is active, the stores of the line that it can go on with
(R55, R61). -/
def CoreRec.chanWants (v : ShEnv) (r : CoreRec) (ch store : Nat) : Bool :=
  let k := r.chan ch
  match k.state, k.active, k.queue with
  | .idle, none, .desc addr :: _ =>
    decide (store = 1) || (newActive (BitVec.ofNat 512 (r.stores.read 1 addr 64)) addr false 0).uses v store
  | .idle, none, .rstep t w :: _ => (newActive w 0 true t).uses v store
  | .active, some a, _ => a.canGo r && a.uses v store
  | _, _, _ => false

/-- The lowest channel that requests a store. -/
def CoreRec.wanting (v : ShEnv) (r : CoreRec) (store : Nat) : Option Nat :=
  (List.range 16).find? fun ch => r.chanWants v ch store

def State.shEnv (s : State) (c : Nat) : ShEnv := ⟨s.engineNo, c⟩

def execStart (op c ch : Nat) (s : State) : Out :=
  onUnit (decide (c < Config.nCores) && decide (ch < 16)) s fun s => s.onCx c fun x => x.startDesc (s.shEnv c) ch op

def execCopy (c ch : Nat) (s : State) : Out := execStart 1 c ch s
def execGather (c ch : Nat) (s : State) : Out := execStart 2 c ch s
def execScatter (c ch : Nat) (s : State) : Out := execStart 3 c ch s
def execPagewalk (c ch : Nat) (s : State) : Out := execStart 4 c ch s
def execFill (c ch : Nat) (s : State) : Out := execStart 5 c ch s
def execGrant (c ch : Nat) (s : State) : Out := execStart 6 c ch s

def execReductionStep (c ch : Nat) (s : State) : Out :=
  onUnit (decide (c < Config.nCores) && decide (ch < 16)) s fun s => s.onCx c fun x => x.startStep (s.shEnv c) ch

/-- A grant record is exhausted, and a GRANT that waited for it goes on (R166). -/
def execGrantRecordFree (c ch : Nat) (s : State) : Out :=
  onUnit (decide (c < Config.nCores) && decide (ch < 16)) s fun s => s.onCx c fun x =>
    match x.act? ch with
    | some a => if a.waitsRecord && shuttleOn x.r then x.grantGo (s.shEnv c) ch a else x
    | none => x

/-- One credited line is injected and draws on its credit (R167); the channel then goes on. -/
def execCreditedLineSend (c ch : Nat) (s : State) : Out :=
  onUnit (decide (c < Config.nCores) && decide (ch < 16)) s fun s => s.onCx c fun x =>
    match x.act? ch with
    | some a =>
      if (x.r.chan ch).state = .active ∧ a.credited = true ∧ a.notifying = false ∧ a.next < a.total ∧
          shuttleOn x.r = true then
        let q := x.lineStep (s.shEnv c) ch a true
        match q.2 with
        | .done => q.1.run (s.shEnv c) ch
        | _ => q.1
      else x
    | none => x

end Sys2Proof.Machine
end

