-- ==== Sys2Proof/Machine/Tensor.lean ====
section
/-! DEFINITION. The slot-A tensor, rotate and quantize operations as plans: TMAC, TSCL, TDRN, ROT256 and QNT
(R100–R108). -/

namespace Sys2Proof.Machine

open Sys2Proof

/-! ## TMAC -/

/-- Weight codes of column `j` of a row. -/
def colCodes (wtag row j : Nat) : List Nat := tabulate 32 fun e => rowElem wtag row j e

def entryCodes (e : OpEntry) (atag : Nat) : List Nat :=
  tabulate 32 fun i => bits e.elems.toNat (16 * i) 16 % 2 ^ tagWidth atag

/-- Lane of issue column `j` (Table 4.6), and the row column it reads. -/
def tmacLane (pair lsel j : Nat) : Nat :=
  if pair ≤ 5 then j else if pair ≤ 14 then 8 * lsel + j else 2 * lsel + j
def tmacRowCol (pair lsel j : Nat) : Nat := if pair ≤ 14 then j else 2 * (lsel % 2) + j

/-- The lanes that an issue writes, as a mask: all 16 where it initializes the group (R102). -/
def tmacMask (pair lsel : Nat) (init : Bool) : Nat :=
  if init then 0xFFFF
  else (List.range (pairColumns pair)).foldl (fun a j => a ||| 2 ^ tmacLane pair lsel j) 0

/-- One logical row added into a group: `row` its element bits, `scale` its UE8M0 (or first-half E4M3) scales, `fine`
the second-half scales of a fine-block row. -/
def tmacAdd (pair lsel : Nat) (imode : Bool) (row scale : Nat) (fine : Option Nat) (e : OpEntry) (g : AccGroup) :
    AccGroup :=
  let pr := pairing pair
  let as := entryCodes e pr.a
  (List.range (pairColumns pair)).foldl (fun g j =>
    let jc := tmacRowCol pair lsel j
    let ws := colCodes pr.w row jc
    let l := tmacLane pair lsel j
    if imode then accAddI g l (blockInt pair ws as)
    else
      let sw := bits scale (8 * jc) 8
      match fine with
      | some f => accAddF g l (blockValueFine pair ws as sw (bits f (8 * jc) 8) e.scale.toNat)
      | none => accAddF g l (blockValue pair ws as sw e.scale.toNat)) g

/-- A group's new value, in issue order, and its visibility at pipe cycle `due` (R102). -/
def Cx.setAcc (x : Cx) (g mask due : Nat) (v : AccGroup) (seq : Nat) : Cx :=
  x.modDp fun d => { d with
    acc := Tab.put {} d.acc g v
    pend := d.pend ++ [⟨due, .acc g mask v seq⟩] }

/-- Slot fields of TMAC that its issue uses. -/
def tmacF (r : CoreRec) (w : Nat) : TmacF :=
  { pair := fld w 10 6, init := flag w 12, imode := flag w 13,
    g := (fld w 20 17 + if flag w 46 then r.i0 else 0) % 16, lsel := fld w 23 21, k := fld w 26 24 }

/-- The product of one issue enters the group value `g0`. -/
def Cx.tmacOnto (x : Cx) (f : TmacF) (g0 : AccGroup) (row scale : Nat) (fine : Option Nat) (e : OpEntry) (due seq : Nat) : Cx :=
  x.setAcc f.g (tmacMask f.pair f.lsel f.init) due (tmacAdd f.pair f.lsel f.imode row scale fine e g0) seq

/-- The product of one issue enters its group. -/
def Cx.tmacInto (x : Cx) (f : TmacF) (row scale : Nat) (fine : Option Nat) (e : OpEntry) (due seq : Nat) : Cx :=
  x.tmacOnto f (accInit f.init f.imode (x.r.accOf f.g)) row scale fine e due seq

/-- The scales of a `k = 3` issue that no `k = 4` read delivers are open: its lanes take free values (R104,
log entry 14). -/
def Cx.int3Free (x : Cx) : Cx :=
  match x.r.dp.int3 with
  | some q =>
    match q.k3 with
    | some (f, _, seq) =>
      let g0 := x.r.accOf f.g
      let g := (List.range 16).foldl (fun g l =>
        let v := (Config.freeWord (x.free + l)).toNat % 2 ^ 32
        accSet g l v (laneFlag v)) g0
      let x := { x with free := x.free + 16 }
      let x := x.setAcc f.g 0xFFFF (q.cycle + 9) g seq
      x.modDp fun d => { d with int3 := some { q with k3 := none } }
    | none => x
  | none => x

/-- An INT3 issue (R104, Table 4.7): `row` the group's first physical row. A `k = 3` issue in FP32 mode initializes its
group at once, as R102 gives it; its product follows when the `k = 4` read delivers its scales. -/
def Cx.tmacInt3 (x : Cx) (f : TmacF) (e : OpEntry) (row : Nat) : Cx :=
  let p := x.r.dp.pt
  let seq := x.r.dp.seq
  let last := match x.r.dp.int3 with
    | some q => q.latch.toNat
    | none => 0
  let setSeq (x : Cx) (latch : Nat) (k3 : Option (TmacF × OpEntry × Nat)) : Cx := x.modDp fun d => { d with
    int3 := if f.k = 4 then none else some ⟨row, f.k + 1, p, BitVec.ofNat 2048 latch, k3⟩ }
  if f.k = 3 then
    if f.imode then (x.tmacInto f (last >>> 512) 0 none e (p + 9) seq |> fun x => setSeq x last none)
    else
      let x := x.modDp fun d => { d with acc := Tab.put {} d.acc f.g (accInit f.init f.imode (x.r.accOf f.g)) }
      setSeq x last (some (f, e, seq))
  else
    let q := x.readRow (row + if f.k = 4 then 3 else f.k)
    if q.1.frozen then q.1
    else if f.k = 4 then
      let x := match q.1.r.dp.int3 with
        | some s => match s.k3 with
          | some (f3, e3, seq3) => q.1.tmacOnto f3 (q.1.r.accOf f3.g) (last >>> 512) q.2.2 none e3 (p + 8) seq3
          | none => q.1
        | none => q.1
      setSeq (x.tmacInto f q.2.1 (bits q.2.1 1536 128) none e (p + 9) seq) 0 none
    else
      let bitsOf := if f.k = 0 then q.2.1 else if f.k = 1 then (last + (q.2.1 <<< 2048)) >>> 1536
        else (last + (q.2.1 <<< 2048)) >>> 1024
      setSeq (q.1.tmacInto f bitsOf q.2.2 none e (p + 9) seq) q.2.1 none

/-- TMAC in its issue cycle. -/
def Cx.tmacIssue (x : Cx) (w row : Nat) (e : OpEntry) : Cx :=
  let f := tmacF x.r w
  let x := x.modDp fun d => { d with seq := d.seq + 1 }
  if (pairing f.pair).w = 3 then x.tmacInt3 f e row
  else
    let q := x.readRow row
    if q.1.frozen then q.1
    else
      let fine := match flag w 11, x.r.dp.latch with
        | true, some (lr, data) => some (bits data.toNat (128 * (row - lr - 1)) 128)
        | _, _ => none
      q.1.tmacInto f q.2.1 q.2.2 fine e (x.r.dp.pt + pairLatency f.pair) (x.r.dp.seq)

/-- The legal lane selects of a form. -/
def lselLegal (pair : Nat) : Nat := if pair ≤ 5 then 1 else if pair ≤ 14 then 2 else 8

/-- The issue keeps the sequence of Table 4.7 (R104): the next `k` of an open sequence in the same group row, `k = 4`
in the very next cycle; with none open only `k = 0` starts one. -/
def int3Ok (r : CoreRec) (isI3 : Bool) (k row : Nat) : Bool :=
  match r.dp.int3 with
  | some q => isI3 && decide (k = q.nextK) && decide (row = q.row) && (decide (k ≠ 4) || decide (r.dp.pt = q.cycle + 1))
  | none => !isI3 || decide (k = 0)

/-- TMAC (R100–R104, R43). DESIGN CHOICE (log entry 75): where both hold, the tag mismatch is the fault reported, and not
the row's ADDRESS_RANGE. -/
def planTmac (r : CoreRec) (pc w : Nat) : Plan :=
  let f := tmacF r w
  if f.pair > 0x10 then planIllegal [3]
  else
    let pr := pairing f.pair
    let isI3 := decide (pr.w = 3)
    let fb := flag w 11
    let rb := fld w 31 27
    let row := baseOff r rb (fld w 42 32)
    let kfbOk := match r.dp.latch with
      | some (lr, _) => decide (lr + 1 ≤ row) && decide (row ≤ lr + 16)
      | none => false
    let c3 := decide (f.lsel ≥ lselLegal f.pair) || decide (f.k > if isI3 then 4 else 0)
    let c4 := (f.imode && !pr.int32) || (fb && !(decide (pr.w = 1) || decide (pr.w = 2))) ||
      (!f.init && (r.accOf f.g).imode != f.imode) || (fb && !kfbOk)
    let c5 := !int3Ok r isI3 f.k row
    let causes := (if c3 then [3] else []) ++ (if c4 then [4] else []) ++ (if c5 then [5] else [])
    let e : OpEntry := Tab.get {} r.dp.op (fld w 16 14)
    let rr := if isI3 then row + (if f.k = 4 then 3 else f.k) else row
    let noRead := isI3 && decide (f.k = 3)
    let lat := pairLatency f.pair
    let p : Plan :=
      { illegal := causes
        fault :=
          if e.tag.toNat ≠ pr.a then some (3, 0x0A, tagDetail pc e.tag.toNat pr.a)
          else if row > 1535 then some (4, 0x05, locAddr 0 (256 * row))
          else if noRead then none
          else if rr > 1535 then some (4, 0x05, locAddr 0 (256 * rr)) else none
        ports := if noRead then [] else [(0, 0)]
        writes := [(keyG f.g, lat)]
        act := fun x => x.tmacIssue w row e
        heavy := true
        evs := [0x03, 0x04] ++ if noRead then [] else [0x08] }
    withPost p r rb (fld w 45 43)

/-! ## TSCL, TDRN -/

/-- TSCL (R103): the latch serves every later issue's cycle 3. -/
def planTscl (r : CoreRec) (w : Nat) : Plan :=
  let row := baseOff r (fld w 31 27) (fld w 42 32)
  if row > 1535 then planRange 0 (256 * row)
  else
    { ports := [(0, 0)]
      evs := [0x08]
      act := fun x =>
        let q := x.readRow row
        if q.1.frozen then q.1
        else q.1.modDp fun d => { d with latch := some (row, BitVec.ofNat 2048 q.2.1) } }

/-- TDRN (R105): the group as visible at issue. -/
def planTdrn (r : CoreRec) (w : Nat) : Plan :=
  let g := fld w 9 6
  let a : AccGroup := Tab.get {} r.dp.accVis g
  let lane (i : Nat) : Nat := accLane a i
  let gfp : List (Nat × Eff) := [(2, .gf g a.sticky)]
  if flag w 10 then
    let rb := fld w 21 17
    let off := baseOff r rb (fld w 40 22)
    if accessOk [2] 2 off 64 64 then
      withPost { ports := [(2, 0)], pend := gfp, evs := [0x0C], act := fun x => x.write 2 off 64 a.lanes.toNat }
        r rb (64 * fld w 48 41)
    else planRange 2 off
  else
    let vd := fld w 15 11
    let h := boolNat (flag w 16)
    let val := packFields 32 16 fun i => if a.imode then f32OfInt (sext 32 (lane i)) else lane i
    { writes := [(keyV vd, 2)]
      pend := (2, .vlanes vd (16 * h) 16 (BitVec.ofNat 1024 (val <<< (512 * h)))) :: gfp }

/-! ## ROT256, QNT -/

/-- ROT256 (R106). -/
def planRot256 (r : CoreRec) (w : Nat) : Plan :=
  let m := fld w 7 6
  let x := (List.range 8).flatMap fun i => vlanes (r.vreg (8 * m + i))
  let y := rot256 (r.sreg (fld w 13 9)) (flag w 8) x
  let early := match r.dp.lastRot with
    | some t => decide (r.dp.pt < t + 8)
    | none => false
  { illegal := if early then [9] else []
    writes := tabulate 8 fun i => (keyV (8 * m + i), 24)
    pend := tabulate 8 fun i => (24, .vlanes (8 * m + i) 0 32 (vpack ((y.drop (32 * i)).take 32)))
    heavy := true
    rot := true
    evs := [0x03, 0x18] }

/-- Target tags of QNT (Table 4.8). -/
def qntFmtOk (t : Nat) : Bool := decide (t = 1 ∨ t = 2 ∨ (4 ≤ t ∧ t ≤ 10))

/-- QNT (R107, R108, R182). -/
def planQnt (virt : Nat) (r : CoreRec) (w : Nat) : Plan :=
  let t := fld w 17 14
  let sk := fld w 29 25
  if !qntFmtOk t || decide (sk % 2 = 1) then planIllegal [3]
  else
    let gs := if flag w 18 then some (r.sreg (fld w 24 20) % 256) else none
    let draw := if flag w 19 then some (stochDraw (r.sreg sk) (r.sreg (sk + 1)) virt) else none
    let q := qntBlock t gs draw (vlanes (r.vreg (fld w 10 6)))
    let x := fld w 13 11
    let e : OpEntry := ⟨BitVec.ofNat 4 t, BitVec.ofNat 8 q.scale, BitVec.ofNat 512 (packFields 16 32 fun i => q.codes.getD i 0)⟩
    let p : Plan :=
      { writes := [(keyX x, 6)]
        pend := [(6, .opent x e), (6, .tally q.sat)] }
    if flag w 30 then
      let rb := fld w 35 31
      let off := baseOff r rb (fld w 54 36)
      let sb := sbBytes t q.scale q.codes
      if accessOk [1] 1 off sb.2 32 then
        let beats : List (Nat × Eff) :=
          if sb.2 > 32 then [(5, .store 1 off 32 (bits sb.1 0 256)), (6, .store 1 (off + 32) (sb.2 - 32) (sb.1 >>> 256))]
          else [(5, .store 1 off 32 sb.1)]
        withPost { p with
          ports := if sb.2 > 32 then [(1, 5), (1, 6)] else [(1, 5)]
          pend := p.pend ++ beats } r rb (32 * fld w 62 55)
      else planRange 1 off
    else p

end Sys2Proof.Machine
end

