-- ==== Sys2Proof/Machine/Issue.lean ====
section
/-! DEFINITION. One island cycle of a core: fetch, governor, results that become visible, the checks of Table 4.15, waits
and issue (R39, R95–R97, R114–R120, R128), and the commands that are a bundle operation. -/

namespace Sys2Proof.Machine

open Sys2Proof

/-! ## What the skein and the bolt give a core -/

/-- The clamp factor of a skein: the least of the power, thermal and coolant clamps (R127, R352, R365, R369). -/
def State.kappa (s : State) (k : Nat) : Nat :=
  let x := s.skein k
  x.caps.foldl (fun a c => min a c.2) (min x.kappaP (min x.kappaS s.thermal.kappaC))

/-- The governor values of a core's skein: effective allowance (0 on a complement mismatch, R130) and burst. -/
structure Env where
  eff : Nat
  burst : Nat
  virt : Nat
  /-- stores that the shuttle wins in this cycle under shuttle-first arbitration (R56) -/
  taken : List Nat := []
  deriving DecidableEq, Repr

def budgetBad (x : SkeinRec) : Bool := x.allowanceInv != ~~~x.allowance || x.burstInv != ~~~x.burst

/-- The index of a core in a list of placed cores. -/
def indexIn (c : Nat) : List Nat → Nat → Option Nat
  | [], _ => none
  | d :: r, i => if d = c then some i else indexIn c r (i + 1)

/-- Virtual core number of a region-local index (R133). -/
def EpochRec.virt (e : EpochRec) (region i : Nat) : Nat := (e.virts.getD region []).getD i 0

/-- The virtual core number that an epoch's placement gives a core (R132, R133). -/
def placedVirt (e : EpochRec) (c : Nat) : Option Nat :=
  (e.place.zip e.virts).findSome? fun p => (indexIn c p.1 0).map fun i => p.2.getD i 0

/-- The number that the load gave a site which no region took (R132). -/
def unusedVirt (e : EpochRec) (c : Nat) : Option Nat := (Tab.get none (e.unused.map fun k => (k.1, some k.2)) c)

/-- The number of a core in the first bolt whose current or other epoch gives it one. -/
def State.virtBy (s : State) (f : EpochRec → Option Nat) : Option Nat :=
  (List.range Config.nBolts).findSome? fun b => ((s.bolt b).current.bind f).or ((s.bolt b).other.bind f)

/-- The virtual core number of a core in its bolt (R82): of the region it serves, else of the fill order. -/
def State.virtCore (s : State) (c : Nat) : Nat :=
  ((s.virtBy fun e => placedVirt e c).or (s.virtBy fun e => unusedVirt e c)).getD (Config.unplacedVirt c)

/-- A priority bit: shuttle first (R56). -/
def CoreRec.shuttleFirst (r : CoreRec) (store : Nat) : Bool := r.arb.getLsbD store

/-- A remote access that has reached the core's port requests the store that it names (R55). -/
def State.remoteAsks (s : State) (c store : Nat) : Bool :=
  s.net.any fun e => decide (e.loc = .core (coreX c) (coreY c)) &&
    (decide (e.flit.type = .write) || decide (e.flit.type = .writeWord) || decide (e.flit.type = .read)) &&
    decide (realSs (gaSs e.flit.dst) = store)

/-- The shuttle requests a store: a channel, or a remote access that has been delivered (R55). -/
def State.shuttleAsks (s : State) (c store : Nat) : Bool :=
  ((s.core c).wanting (s.shEnv c) store).isSome || s.remoteAsks c store

def State.coreEnv (s : State) (c : Nat) : Env :=
  let k := skeinOf c
  let x := s.skein k
  { eff := if budgetBad x then 0 else x.allowance.toNat * s.kappa k / 256
    burst := x.burst.toNat
    virt := s.virtCore c
    taken := [0, 1, 2].filter fun k => (s.core c).shuttleFirst k && s.shuttleAsks c k }

/-! ## Results that become visible (R96) -/

/-- A snapshot of a group reaches the lanes of its mask that no later issue has reached yet. -/
def accLand (d : Datapath) (g mask : Nat) (snap : AccGroup) (seq : Nat) : Datapath :=
  let cur : AccGroup := Tab.get {} d.accVis g
  let newer (i : Nat) : Bool := decide (seq < Tab.get 0 d.accSeq (32 * g + i))
  let take (i : Nat) : Bool := bitAt mask i && !newer i
  let lanes := packFields 32 16 fun i => if take i then accLane snap i else accLane cur i
  let v : AccGroup :=
    { imode := if newer 16 then cur.imode else snap.imode
      sticky := if newer 16 then cur.sticky else snap.sticky
      lanes := BitVec.ofNat 512 lanes }
  { d with
    accVis := Tab.put {} d.accVis g v
    accSeq := (List.range 17).foldl (fun t i =>
      if (i = 16 || bitAt mask i) && !newer i then Tab.put 0 t (32 * g + i) seq else t) d.accSeq }

/-- One pending result lands in its cycle. -/
def Cx.landOne (x : Cx) (due : Nat) : Eff → Cx
  | .vlanes v lo n val => x.modDp fun d =>
    let old := (Tab.get 0 d.v v : VReg).toNat
    d.setV v (BitVec.ofNat 1024 (setBits old (32 * lo) (32 * n) (val.toNat >>> (32 * lo))))
  | .sreg r val => x.modDp fun d => d.setS r val
  | .opent k e => x.modDp fun d => { d with op := Tab.put {} d.op k e }
  | .acc g mask snap seq => x.modDp fun d => accLand d g mask snap seq
  | .gf bit val => x.modDp fun d => { d with gf := gfSet d.gf bit val }
  | .tally n =>
    let x := x.modDp fun d => { d with tally := tallyAdd d.tally n }
    if n > 0 then x.perfEvent 0x14 else x
  | .tree t w => x.modDp fun d => { d with tree := Tab.put 0 d.tree t w }
  | .store ss off n val => (x.write ss off n val).perfEvent ((storeEv ss).headD 0)
  | .ldBeat v lo n ss off => x.ldBeat due v lo n ss off
  | .vldw2 v fmt off pc first =>
    let q := x.dpRead 1 (off + 32) 32
    if q.1.frozen then q.1 else q.1.vldwLand v fmt pc (first + (q.2 <<< 256)) (due + 3)
  | .tdecl2 t off first =>
    let q := x.dpRead 1 (off + 32) 32
    if q.1.frozen then q.1
    else q.1.modDp fun d => { d with pend := d.pend ++ [⟨due + 1, .tree t (BitVec.ofNat 512 (first + (q.2 <<< 256)))⟩] }

/-- The least due cycle of the pending results. -/
def minDue : List Pend → Option Nat
  | [] => none
  | p :: r => match minDue r with
    | none => some p.due
    | some d => some (min p.due d)

/-- The later lines of a load are read in the cycle itself; every other result has its value. -/
def Eff.isRead : Eff → Bool
  | .ldBeat .. => true
  | .vldw2 .. => true
  | .tdecl2 .. => true
  | _ => false

/-- The first pending result of a cycle that a test picks, and the rest. -/
def takeIf (p : Pend → Bool) : List Pend → Option (Eff × List Pend)
  | [] => none
  | q :: r => if p q then some (q.eff, r) else (takeIf p r).map fun x => (x.1, q :: x.2)

/-- The next pending result of a cycle: what has its value lands before a line is read, which can freeze the core. -/
def takeDue (d : Nat) (l : List Pend) : Option (Eff × List Pend) :=
  (takeIf (fun q => decide (q.due = d) && !q.eff.isRead) l).or (takeIf (fun q => decide (q.due = d)) l)

/-- Results land cycle by cycle up to `upto`, until a read freezes the core. -/
def Cx.land : Nat → Nat → Cx → Cx
  | 0, _, x => x
  | n + 1, upto, x =>
    if x.frozen then x
    else match minDue x.r.dp.pend with
      | none => x
      | some d =>
        if d > upto then x
        else match takeDue d x.r.dp.pend with
          | none => x
          | some (e, rest) => Cx.land n upto ((x.modDp fun dp => { dp with pend := rest }).landOne d e)

/-- Enough landings for everything that can be in flight. -/
def landFuel : Nat := 1024

/-- The last cycle in which something in flight lands. -/
def lastDue (d : Datapath) : Nat :=
  d.pend.foldl (fun a p => max a (match p.eff with
    | .ldBeat .. => p.due + 2
    | .vldw2 .. => p.due + 3
    | .tdecl2 .. => p.due + 1
    | _ => p.due)) d.pt

/-- Every operation in flight completes (Table 2.13 halt, R117). -/
def Cx.drain (x : Cx) (env : Env) : Cx :=
  let t := lastDue x.r.dp
  let k := t - x.r.dp.pt
  let x := Cx.land landFuel t x
  x.mod fun r => { r with
    balance := min (64 * env.burst) (r.balance + (k * env.eff : Nat))
    dp := { r.dp with pt := t } }

/-! ## Plans of a bundle -/

/-- The plan of slot A (Table 4.1). -/
def planA (virt : Nat) (r : CoreRec) (pc w : Nat) : Plan :=
  match opOf w with
  | 0x01 => planTmac r pc w
  | 0x02 => planTscl r w
  | 0x03 => planTdrn r w
  | 0x04 => planRot256 r w
  | 0x05 => planQnt virt r w
  | 0x08 => planVadd r w
  | 0x09 => planVsub r w
  | 0x0A => planVmul r w
  | 0x0B => planVfma r w
  | 0x0C => planVmax r w
  | 0x0D => planVmin r w
  | 0x0E => planVscl r w
  | 0x0F => planVcvt virt r w
  | 0x10 => planVhsum r w
  | 0x11 => planVhmax r w
  | 0x12 => planVbcl r w
  | 0x13 => planVmask r w
  | 0x18 => planVexp2 r w
  | 0x19 => planVlog2 r w
  | 0x1A => planVrcp r w
  | 0x1B => planVrsq r w
  | _ => {}

/-- The plan of slot B (Table 4.2). -/
def planB (r : CoreRec) (pc w : Nat) : Plan :=
  match opOf w with
  | 0x01 => planShut r w
  | 0x02 => planLdv r w
  | 0x03 => planStv r w
  | 0x04 => planVldw r pc w
  | 0x05 => planLdb r w
  | 0x06 => planLds r w
  | 0x07 => planSts r w
  | 0x08 => planAdd r w
  | 0x09 => planSub r w
  | 0x0A => planAnd r w
  | 0x0B => planOr r w
  | 0x0C => planXor r w
  | 0x0D => planShl r w
  | 0x0E => planShr r w
  | 0x0F => planSar r w
  | 0x10 => planSlt r w
  | 0x11 => planSltu r w
  | 0x12 => planSeq r w
  | 0x13 => planMul r w
  | 0x14 => planAddi r w
  | 0x15 => planLih r w
  | 0x16 => planMovv r w
  | 0x17 => planMovgf r w
  | 0x18 => planBr r w
  | 0x19 => planBz r w
  | 0x1A => planBnz r w
  | 0x1B => planBlt r w
  | 0x1C => planLoop r pc w
  | 0x1D => planWaitf r w
  | 0x1E => planWaitc r w
  | 0x1F => planWaitq w
  | 0x20 => planPick r w
  | 0x21 => planTdecl r w
  | 0x22 => planRstep r w
  | 0x23 => { ctl := .halt }
  | _ => {}

/-- Some pair occurs twice in a list, or also in another. -/
def clash (l other : List (Nat × Nat)) : Bool :=
  match l with
  | [] => false
  | p :: r => r.contains p || other.contains p || clash r other

/-- The causes of Table 4.15 that a bundle meets. -/
def illegalCauses (d : Datapath) (wa wb : Nat) (a b : Plan) : List Nat :=
  let pa := (a.ports ++ b.ports).map fun p => (p.1, d.pt + p.2)
  let wr := (a.writes ++ b.writes).map fun p => (p.1, d.pt + p.2)
  (if validA (opOf wa) && validB (opOf wb) then [] else [1]) ++
  (if (validA (opOf wa) && decide (wa &&& reservedA (opOf wa) ≠ 0)) ||
      (validB (opOf wb) && decide (wb &&& reservedB (opOf wb) ≠ 0)) then [2] else []) ++
  a.illegal ++ b.illegal ++
  (if clash pa d.ports || ((decide (opOf wa = 1) || decide (opOf wa = 2)) && decide (opOf wb = 5)) then [6] else []) ++
  (if clash wr d.writes then [7] else [])

/-- The cause reported: the lowest code met (log entry 16). -/
def leastCause : List Nat → Option Nat
  | [] => none
  | c :: r => match leastCause r with
    | none => some c
    | some d => some (min c d)

/-! ## Issue -/

/-- Loops that a taken branch to `t` leaves active: one whose body lacks `t` ends with every loop inside it (R114). The
list is innermost first. -/
def loopsAfterBranch (t : Nat) (l : List LoopRec) : List LoopRec :=
  (l.foldr (fun (x : LoopRec) (acc : List LoopRec × Bool) =>
    if acc.2 then acc else if x.first ≤ t ∧ t ≤ x.last then (x :: acc.1, false) else (acc.1, true)) ([], false)).1

/-- The loop end (R115): the innermost loop whose last bundle has issued iterates or ends; the next issue address. -/
def loopEnd (pc : Nat) : List LoopRec → List LoopRec × Nat
  | [] => ([], pc + 1)
  | l :: r =>
    if l.last = pc then
      if l.idx + 1 < l.count then ({ l with idx := l.idx + 1 } :: r, l.first) else loopEnd pc r
    else (l :: r, pc + 1)

/-- Program counter, loops and pipe cycle after an issue. -/
def ctlNext (pc : Nat) (d : Datapath) : Ctl → Datapath × Nat
  | .seq =>
    let q := loopEnd pc d.loops
    ({ d with loops := q.1, pt := d.pt + 1 }, q.2)
  | .branch t => ({ d with loops := loopsAfterBranch t d.loops, pt := d.pt + 2 }, t)
  | .loop count last => ({ d with loops := ⟨pc + 1, last, count, 0⟩ :: d.loops, pt := d.pt + 1 }, pc + 1)
  | .halt => ({ d with pt := d.pt + 1 }, pc + 1)

/-- A SHUT or RSTEP reaches a channel: an ERROR channel discards and counts it (R60, R119). -/
def Chan.enqueue (c : Chan) (e : QEntry) : Chan :=
  if c.state = .error then { c with discarded := satAdd 8 c.discarded 1 } else { c with queue := c.queue ++ [e] }

/-- Issue is held: the core waits (R39, Table 2.3). -/
def Cx.hold (x : Cx) (w : WaitCond) : Cx :=
  (x.mod fun r => { r with st := .wait, wait := some w }).perfCycle
    (match w with
     | .credit .. => [0x06, 0x12]
     | _ => [0x06])

/-- The queue entries that slot B adds (R60, R119). -/
def CoreRec.withQueued (r : CoreRec) (b : Plan) : CoreRec :=
  let r := match b.shut with
    | some (ch, off) => r.setChan ch ((r.chan ch).enqueue (.desc off))
    | none => r
  match b.step with
  | some (ch, t) => r.setChan ch ((r.chan ch).enqueue (.rstep t (Tab.get 0 r.dp.tree t)))
  | none => r

/-- The results, port beats and special issues that a bundle puts into the pipe. -/
def Datapath.withResults (d : Datapath) (a b : Plan) : Datapath :=
  { d with
    pend := d.pend ++ (a.pend ++ b.pend).map fun q => ⟨d.pt + q.1, q.2⟩
    ports := (d.ports.filter fun q => d.pt ≤ q.2) ++ (a.ports ++ b.ports).map fun q => (q.1, d.pt + q.2)
    writes := (d.writes.filter fun q => d.pt ≤ q.2) ++ (a.writes ++ b.writes).map fun q => (q.1, d.pt + q.2)
    lastSf := if a.sf then some d.pt else d.lastSf
    lastRot := if a.rot then some d.pt else d.lastRot }

/-- Control flow and the governor's charge after an issue at `pc` (R39, R114, R115, R128); a core in WAIT runs again. -/
def CoreRec.afterIssue (q : CoreRec) (pc : Nat) (heavy : Bool) (ctl : Ctl) : CoreRec :=
  { q with
    dp := (ctlNext pc q.dp ctl).1
    pc := (ctlNext pc q.dp ctl).2
    balance := q.balance - (if heavy then 512 else 0)
    heavy100 := q.heavy100 + (if heavy then 1 else 0)
    clampReported := if q.st = .wait then false else q.clampReported
    wait := none
    st := if q.st = .wait then .run else q.st }

/-- The governor's refill of one cycle (R128). -/
def CoreRec.refill (r : CoreRec) (env : Env) : CoreRec := { r with balance := min (64 * env.burst) (r.balance + env.eff) }

/-- What follows the cycle of an issue: the second cycle of a taken branch (R114), a HALT's drain (R117), and the end of
the instruction store (R53). -/
def Cx.afterCycle (x : Cx) (env : Env) : Ctl → Cx
  | .branch _ =>
    let x := (x.mod fun r => r.refill env).perfCycle []
    if x.frozen then x else if x.r.pc ≥ 1024 then x.freeze 4 0x05 (locAddr 3 0x4000) else x
  | .halt => if x.frozen then x else (x.drain env).mod fun r => if r.st = .frozen then r else { r with st := .idle }
  | _ => if x.frozen then x else if x.r.pc ≥ 1024 then x.freeze 4 0x05 (locAddr 3 0x4000) else x

/-- The bundle issues: acts, results, ports, queue, control flow, counters. `skipB` leaves out slot B's act, which has
taken place already. -/
def Cx.issue (x : Cx) (env : Env) (wa : Nat) (a b : Plan) (skipB : Bool) : Cx :=
  let x := if opOf wa = 1 then x else x.int3Free
  let x := a.act x
  let x := if skipB then x else b.act x
  let x := x.setR ((CoreRec.withQueued { x.r with dp := x.r.dp.withResults a b } b).afterIssue x.r.pc a.heavy b.ctl)
  (x.perfCycle ([0x02] ++ a.evs ++ b.evs ++ if x.r.stretch > 0 then [0x16] else [])).afterCycle env b.ctl

/-- The queue entry that slot B needs is there, or its channel discards in ERROR. -/
def queueRoom (r : CoreRec) (ch : Nat) : Bool :=
  decide ((r.chan ch).state = .error) || decide ((r.chan ch).held < 4)

/-- Waits and full queues, then issue. `resumed` is the condition that has just ended. -/
def Cx.tryIssue (x : Cx) (env : Env) (wa : Nat) (a b : Plan) (resumed : Option WaitCond) : Cx :=
  let stepFull := match resumed with
    | some (.rstepFull ..) => true
    | _ => false
  if stepFull then x.issue env wa a b true
  else
    let x := match resumed, b.waitRead with
      | none, some off => (x.dpRead 1 off 8).1
      | _, _ => x
    if x.frozen then x
    else
      let held := match b.wait with
        | some w => if waitHolds x.r w then none else some w
        | none => none
      match held with
      | some w => x.hold w
      | none =>
        match b.shut, b.step with
        | some (ch, off), _ => if queueRoom x.r ch then x.issue env wa a b false else x.hold (.shutFull ch off)
        | none, some (ch, t) =>
          if queueRoom x.r ch then x.issue env wa a b false
          else
            let y := b.act x
            if y.frozen then y else y.hold (.rstepFull ch t)
        | none, none => x.issue env wa a b false

/-- A datapath access waits while the shuttle wins its store: the cycle passes and the pipe stands (R39, R56). -/
def Cx.loseCycle (x : Cx) : Cx := (x.mod fun r => { r with denied := [] }).perfCycle [0x07]

/-- The datapath requests, at pipe cycle `p`, a store that the shuttle wins. -/
def losesPort (env : Env) (p : Nat) (ports : List (Nat × Nat)) : Bool :=
  ports.any fun q => decide (q.2 = p) && env.taken.contains q.1

/-- The cycle from the governor on. DESIGN CHOICE (log entry 75): of the faults that two slots meet only slot A's is reported,
and a cause of Table 4.15 before either. -/
def Cx.cycleBody (x : Cx) (env : Env) (w pc : Nat) (resumed : Option WaitCond) : Cx :=
  let wa := slotA w
  let wb := slotB w
  let x := x.mod fun r => r.refill env
  if (opOf wa = 1 ∨ opOf wa = 4) ∧ x.r.balance ≤ 0 then
    (x.mod fun r => { r with stallRun := r.stallRun + 1 }).perfCycle [0x05]
  else
    let x := x.mod fun r => { r with stallRun := 0 }
    if losesPort env x.r.dp.pt x.r.dp.ports then x.loseCycle
    else
    let x := (x.eccCheck 3 (16 * pc) 16).1
    let x := Cx.land landFuel x.r.dp.pt x
    let x := if opOf wb = 0x23 ∧ ¬ x.frozen then x.drain env else x
    if x.frozen then x
    else
      let a := if validA (opOf wa) then planA env.virt x.r pc wa else {}
      let b := if validB (opOf wb) then planB x.r pc wb else {}
      match leastCause (illegalCauses x.r.dp wa wb a b) with
      | some c => x.freeze 2 0x09 (pc % 1024 + (c <<< 10))
      | none =>
        match a.fault, b.fault with
        | some f, _ => x.freeze f.1 f.2.1 f.2.2
        | none, some f => x.freeze f.1 f.2.1 f.2.2
        | none, none =>
          if losesPort env 0 (a.ports ++ b.ports) then x.loseCycle else x.tryIssue env wa a b resumed

/-- One island cycle of a core in RUN: fetch under SECDED (R59), then the bundle, if it is one that `sel` names. -/
def Cx.runCycle (x : Cx) (env : Env) (sel : Nat → Nat → Bool) : Cx :=
  if x.r.st ≠ .run then x
  else
    let pc := x.r.pc
    let bad := (x.r.stores.errs 3 (16 * pc) 16).any fun e => e.2 ≠ 1
    if bad then
      (x.eccCheck 3 (16 * pc) 16).1.mod fun r => { r with st := .frozen, freezeCause := 1 }
    else
      let w := x.r.stores.read 3 (16 * pc) 16
      if sel (opOf (slotA w)) (opOf (slotB w)) then x.cycleBody env w pc none else x

/-- Counters over `n` cycles in which the same conditions hold. -/
def Cx.perfHold (x : Cx) (evs : List Nat) (n : Nat) : Cx :=
  if n = 0 then x
  else
    let x := (List.range 4).foldl (fun x k =>
      let p := perfCtr x.r k
      if p.cfg.getLsbD 10 = false ∨ (k % 2 = 1 ∧ p.cfg.getLsbD 9 = true) then x
      else
        let ev := bits p.cfg.toNat 0 8
        let hold := decide (ev = 1) || evs.contains ev
        let add := if hold then (if p.cfg.getLsbD 8 then n else if p.prev then 0 else 1) else 0
        let x := x.setR (setPerfCtr x.r k { p with prev := hold })
        if add = 0 then x
        else
          let x := x.setR (setPerfCtr x.r k { perfCtr x.r k with cnt := (p.cnt + add - 1) % 2 ^ 48 })
          if p.cnt + add - 1 < 2 ^ 48 then x.bump k else (x.bump k).wrapped k) x
    x.mod fun r => { r with sinceSample := min 4096 (r.sinceSample + n) }

/-- A wait ends after `n` more cycles, if what it waits for holds (R116); `sel` says which waits the command ends. -/
def Cx.resume (x : Cx) (env : Env) (n : Nat) (sel : WaitCond → Bool) : Cx :=
  match x.r.st, x.r.wait with
  | .wait, some w =>
    if sel w && waitHolds x.r w then
      let x := x.mod fun r => { r with balance := min (64 * env.burst) (r.balance + (n * env.eff : Nat)) }
      let x := x.perfHold [0x06] n
      let pc := x.r.pc
      x.cycleBody env (x.r.stores.read 3 (16 * pc) 16) pc (some w)
    else x
  | _, _ => x

/-- A governor on a complement mismatch reports it once (R130): class 7, index the skein. -/
def State.budgetCheck (s : State) (k : Nat) : State :=
  let x := s.skein k
  if budgetBad x && !x.mismatchReported then
    (s.setSkein k { x with mismatchReported := true }).report (srcSkein k) 0x03 (k + (7 <<< 28))
  else s

/-- The shuttle's denied cycles after a cycle of the core that began at pipe cycle `p` (R56): with the datapath first, a
store whose port the datapath took while a channel requested it; any other cycle ends the run. -/
def Cx.countDenied (v : ShEnv) (remote : Nat → Bool) (p : Nat) (x : Cx) : Cx :=
  x.mod fun r => { r with denied := (List.range 3).foldl (fun t k =>
    Tab.put 0 t k (if r.dp.pt > p ∧ r.arb.getLsbD k = false ∧ r.dp.ports.contains (k, p) = true ∧
      ((r.wanting v k).isSome || remote k) = true then Tab.get 0 t k + 1 else 0)) r.denied }

/-- A command that is a bundle operation: the core takes one island cycle in which a bundle with that operation stands
at its program counter; with another bundle there, or out of RUN, the event does not take place (log entry 1). -/
def execSlot (sel : Nat → Nat → Bool) (c : Nat) (s : State) : Out :=
  onCore c s fun s =>
    let s := s.budgetCheck (skeinOf c)
    s.onCx c fun x =>
      let y := x.runCycle (s.coreEnv c) sel
      if y.r.dp.pt > x.r.dp.pt ∨ y.r.stallRun > x.r.stallRun then y.countDenied (s.shEnv c) (s.remoteAsks c) x.r.dp.pt else y

def inA (op : Nat) : Nat → Nat → Bool := fun a _ => decide (a = op)
def inB (op : Nat) : Nat → Nat → Bool := fun _ b => decide (b = op)

/-! ## Slot A -/

def execNopa (c : Nat) (s : State) : Out := execSlot (inA 0x00) c s
def execTmac (c : Nat) (s : State) : Out := execSlot (inA 0x01) c s
def execTscl (c : Nat) (s : State) : Out := execSlot (inA 0x02) c s
def execTdrn (c : Nat) (s : State) : Out := execSlot (inA 0x03) c s
def execRot256 (c : Nat) (s : State) : Out := execSlot (inA 0x04) c s
def execQnt (c : Nat) (s : State) : Out := execSlot (inA 0x05) c s
def execVadd (c : Nat) (s : State) : Out := execSlot (inA 0x08) c s
def execVsub (c : Nat) (s : State) : Out := execSlot (inA 0x09) c s
def execVmul (c : Nat) (s : State) : Out := execSlot (inA 0x0A) c s
def execVfma (c : Nat) (s : State) : Out := execSlot (inA 0x0B) c s
def execVmax (c : Nat) (s : State) : Out := execSlot (inA 0x0C) c s
def execVmin (c : Nat) (s : State) : Out := execSlot (inA 0x0D) c s
def execVscl (c : Nat) (s : State) : Out := execSlot (inA 0x0E) c s
def execVcvt (c : Nat) (s : State) : Out := execSlot (inA 0x0F) c s
def execVhsum (c : Nat) (s : State) : Out := execSlot (inA 0x10) c s
def execVhmax (c : Nat) (s : State) : Out := execSlot (inA 0x11) c s
def execVbcl (c : Nat) (s : State) : Out := execSlot (inA 0x12) c s
def execVmask (c : Nat) (s : State) : Out := execSlot (inA 0x13) c s
def execVexp2 (c : Nat) (s : State) : Out := execSlot (inA 0x18) c s
def execVlog2 (c : Nat) (s : State) : Out := execSlot (inA 0x19) c s
def execVrcp (c : Nat) (s : State) : Out := execSlot (inA 0x1A) c s
def execVrsq (c : Nat) (s : State) : Out := execSlot (inA 0x1B) c s

/-! ## Slot B -/

def execNopb (c : Nat) (s : State) : Out := execSlot (inB 0x00) c s
def execShut (c : Nat) (s : State) : Out := execSlot (inB 0x01) c s
def execLdv (c : Nat) (s : State) : Out := execSlot (inB 0x02) c s
def execStv (c : Nat) (s : State) : Out := execSlot (inB 0x03) c s
def execVldw (c : Nat) (s : State) : Out := execSlot (inB 0x04) c s
def execLdb (c : Nat) (s : State) : Out := execSlot (inB 0x05) c s
def execLds (c : Nat) (s : State) : Out := execSlot (inB 0x06) c s
def execSts (c : Nat) (s : State) : Out := execSlot (inB 0x07) c s
def execAdd (c : Nat) (s : State) : Out := execSlot (inB 0x08) c s
def execSub (c : Nat) (s : State) : Out := execSlot (inB 0x09) c s
def execAnd (c : Nat) (s : State) : Out := execSlot (inB 0x0A) c s
def execOr (c : Nat) (s : State) : Out := execSlot (inB 0x0B) c s
def execXor (c : Nat) (s : State) : Out := execSlot (inB 0x0C) c s
def execShl (c : Nat) (s : State) : Out := execSlot (inB 0x0D) c s
def execShr (c : Nat) (s : State) : Out := execSlot (inB 0x0E) c s
def execSar (c : Nat) (s : State) : Out := execSlot (inB 0x0F) c s
def execSlt (c : Nat) (s : State) : Out := execSlot (inB 0x10) c s
def execSltu (c : Nat) (s : State) : Out := execSlot (inB 0x11) c s
def execSeq (c : Nat) (s : State) : Out := execSlot (inB 0x12) c s
def execMul (c : Nat) (s : State) : Out := execSlot (inB 0x13) c s
def execAddi (c : Nat) (s : State) : Out := execSlot (inB 0x14) c s
def execLih (c : Nat) (s : State) : Out := execSlot (inB 0x15) c s
def execMovv (c : Nat) (s : State) : Out := execSlot (inB 0x16) c s
def execMovgf (c : Nat) (s : State) : Out := execSlot (inB 0x17) c s
def execBr (c : Nat) (s : State) : Out := execSlot (inB 0x18) c s
def execBz (c : Nat) (s : State) : Out := execSlot (inB 0x19) c s
def execBnz (c : Nat) (s : State) : Out := execSlot (inB 0x1A) c s
def execBlt (c : Nat) (s : State) : Out := execSlot (inB 0x1B) c s
def execLoop (c : Nat) (s : State) : Out := execSlot (inB 0x1C) c s
def execWaitf (c : Nat) (s : State) : Out := execSlot (inB 0x1D) c s
def execWaitc (c : Nat) (s : State) : Out := execSlot (inB 0x1E) c s
def execWaitq (c : Nat) (s : State) : Out := execSlot (inB 0x1F) c s
def execPick (c : Nat) (s : State) : Out := execSlot (inB 0x20) c s
def execTdecl (c : Nat) (s : State) : Out := execSlot (inB 0x21) c s
def execRstep (c : Nat) (s : State) : Out := execSlot (inB 0x22) c s
def execHalt (c : Nat) (s : State) : Out := execSlot (inB 0x23) c s

/-- A reserved opcode in either slot (R98). -/
def execReservedOpcode (c : Nat) (s : State) : Out := execSlot (fun a b => !validA a || !validB b) c s

/-- The condition of a wait form comes to hold (R116). -/
def execWaitEnd (c cycles : Nat) (s : State) : Out :=
  onCore c s fun s => s.onCx c fun x => x.resume (s.coreEnv c) cycles fun w =>
    match w with
    | .flag .. => true
    | .credit .. => true
    | .queue .. => true
    | .rstepFlag .. => true
    | _ => false

/-- An entry of a full queue frees (R60, R119). -/
def execShuttleQueueFree (c cycles : Nat) (s : State) : Out :=
  onCore c s fun s => s.onCx c fun x => x.resume (s.coreEnv c) cycles fun w =>
    match w with
    | .shutFull .. => true
    | .rstepFull .. => true
    | _ => false

end Sys2Proof.Machine
end

