-- ==== Sys2Proof/Machine/Crypto.lean ====
section
/-! DEFINITION. The checks of data at the engine's boundary: CRC-32 (IEEE 802.3), CRC-8, SHA-384 (FIPS 180-4) and ECDSA
P-384 verification (FIPS 186-5), as Table 0.10 names them (R18, R232, R327, R342, R366, R396). -/

namespace Sys2Proof.Machine

open Sys2Proof

/-! ## CRC -/

/-- One bit of the reflected CRC-32. -/
def crc32Bit (c : Nat) : Nat := if c % 2 = 1 then (c / 2) ^^^ 0xEDB88320 else c / 2
def crc32Byte (c b : Nat) : Nat := (List.range 8).foldl (fun c _ => crc32Bit c) (c ^^^ b)
def crc32 (bs : List Byte) : Nat := (bs.foldl (fun c b => crc32Byte c b.toNat) 0xFFFFFFFF) ^^^ 0xFFFFFFFF

/-- One bit of the CRC-8 with polynomial 0x07, most significant bit first. -/
def crc8Bit (c : Nat) : Nat := if c / 128 % 2 = 1 then (c * 2 % 256) ^^^ 0x07 else c * 2 % 256
def crc8 (bs : List Byte) : Nat := bs.foldl (fun c b => (List.range 8).foldl (fun c _ => crc8Bit c) (c ^^^ b.toNat)) 0xFF

/-! ## SHA-384

FIPS 180-4, 5.3.4, 6.4 and 6.5: eight words of state, eighty rounds a block, the first six words as the digest. -/

/-- The 64-bit fields of a number, the lowest first. -/
def wordsOf (n v : Nat) : List Word := tabulate n fun i => BitVec.ofNat 64 (bits v (64 * i) 64)

/-- The round constants (FIPS 180-4, 4.2.3), packed sixteen to a number. -/
def shaConstants : List Word := [
    0xc19bf174cf6926949bdc06a725c7123580deb1fe3b1696b172be5d74f27b896f550c7dc3d5ffb4e2243185be4ee4b28c12835b0145706fbed807aa98a3030242ab1c5ed5da6d8118923f82a4af194f9b59f111f1b605d0193956c25bf348b538e9b5dba58189dbbcb5c0fbcfec4d3b2f7137449123ef65cd428a2f98d728ae22,
    0x142929670a0e6e7006ca6351e003826fd5a79147930aa725c6e00bf33da88fc2bf597fc7beef0ee4b00327c898fb213fa831c66d2db43210983e5152ee66dfab76f988da831153b55cb0a9dcbd41fbd44a7484aa6ea6e4832de92c6f592b0275240ca1cc77ac9c650fc19dc68b8cd5b5efbe4786384f25e3e49b69c19ef14ad2,
    0x106aa07032bbd1b8f40e35855771202ad69906245565a910d192e819d6ef5218c76c51a30654be30c24b8b70d0f89791a81a664bbc423001a2bfe8a14cf1036492722c851482353b81c2c92e47edaee6766a0abb3c77b2a8650a73548baf63de53380d139d95b3df4d2c6dfc5ac42aed2e1b21385c26c92627b70a8546d22ffc,
    0xc67178f2e372532bbef9a3f7b2c67915a4506cebde82bde990befffa23631e288cc702081a6439ec84c87814a1f0ab7278a5636f43172f60748f82ee5defb2fc682e6ff3d6b2b8a35b9cca4f7763e3734ed8aa4ae3418acb391c0cb3c5c95a6334b0bcb5e19b48a82748774cdf8eeb991e376c085141ab5319a4c116b8d2d0c8,
    0x6c44198c4a4758175fcb6fab3ad6faec597f299cfc657e2a4cc5d4becb3e42b6431d67c49c100d4c3c9ebe0a15c9bebc32caab7b40c7249328db77f523047d841b710b35131c471b113f9804bef90dae0a637dc5a2c898a606f067aa72176fbaf57d4f7fee6ed178eada7dd6cde0eb1ed186b8c721c0c207ca273eceea26619c].flatMap (wordsOf 16)

/-- The state before the first block (FIPS 180-4, 5.3.4). -/
def shaStart : List Word := wordsOf 8
  0x47b5481dbefa4fa4db0c2e0d64f98fa78eb44a876858151167332667ffc00b31152fecd8f70e59399159015a3070dd17629a292a367cd507cbbb9d5dc1059ed8

/-- An exclusive or of three rotations, or of two and a shift. -/
def spin3 (p q r : Nat) (x : Word) : Word := x.rotateRight p ^^^ (x.rotateRight q ^^^ x.rotateRight r)
def spin2 (p q r : Nat) (x : Word) : Word := x.rotateRight p ^^^ (x.rotateRight q ^^^ x >>> r)

/-- A block's eighty words: each after the sixteenth from the words 2, 7, 15 and 16 before it. -/
def shaWords (block : List Word) : List Word :=
  (List.range 64).foldl (fun l t =>
    let back (k : Nat) : Word := l.getD (16 + t - k) 0
    l ++ [back 16 + spin2 1 8 7 (back 15) + (back 7 + spin2 19 61 6 (back 2))]) block

/-- One round: the words move down one place, and two of them take sums. -/
def shaRound : List Word → Word → List Word
  | [a, b, c, d, e, f, g, h], kw =>
    let pick := (f ^^^ g) &&& e ^^^ g
    let most := (a ||| b) &&& c ||| a &&& b
    let x := kw + h + pick + spin3 14 18 41 e
    [x + most + spin3 28 34 39 a, a, b, c, x + d, e, f, g]
  | l, _ => l

def shaBlock (v block : List Word) : List Word :=
  v.zipWith (· + ·) ((shaConstants.zipWith (· + ·) (shaWords block)).foldl shaRound v)

/-- A big-endian number of a byte list. -/
def beNat (bs : List Byte) : Nat := bs.foldl (fun a b => a * 256 + b.toNat) 0

/-- `n` pieces of `k` bytes. -/
def piecesBe {α : Type} (k : Nat) (f : List Byte → α) (n : Nat) (bs : List Byte) : List α :=
  tabulate n fun i => f ((bs.drop (k * i)).take k)

/-- The message with a one bit, zeros up to 112 bytes in the last block, and its length in bits. -/
def shaPad (bs : List Byte) : List Byte :=
  let n := bs.length
  bs ++ 0x80 :: List.replicate ((239 - n % 128) % 128) 0 ++ (leBytes 16 (8 * n)).reverse

/-- SHA-384 as its 48 bytes. -/
def sha384 (bs : List Byte) : List Byte :=
  let p := shaPad bs
  let v := (piecesBe 128 (piecesBe 8 (fun w => BitVec.ofNat 64 (beNat w)) 16) (p.length / 128) p).foldl shaBlock shaStart
  (v.take 6).flatMap fun w => (leBytes 8 w.toNat).reverse

/-- A hash as registers and manifests hold it: byte 0 lowest. -/
def hashOf (bs : List Byte) : BitVec 384 := BitVec.ofNat 384 (leNat (sha384 bs))

/-! ## ECDSA P-384 -/

def p384P : Nat := 2 ^ 384 - 2 ^ 128 - 2 ^ 96 + 2 ^ 32 - 1
def p384N : Nat := 0xffffffffffffffffffffffffffffffffffffffffffffffffc7634d81f4372ddf581a0db248b0a77aecec196accc52973
def p384B : Nat := 0xb3312fa7e23ee7e4988e056be3f82d19181d9c6efe8141120314088f5013875ac656398d8a2ed19d2a85c8edd3ec2aef
def p384Gx : Nat := 0xaa87ca22be8b05378eb1c71ef320ad746e1d3b628ba79b9859f741e082542a385502f25dbf55296c3a545e3872760ab7
def p384Gy : Nat := 0x3617de4a96262c6f5d9e98bf9292dc29f8f41dbd289a147ce9da3113b5f0b8c00a60b1ce1d7e819d7a431d7c90ea0e5f

/-- `b ^ e mod m`, with the bits of `e` from bit `k - 1` down. -/
def powMod (b e m : Nat) : Nat → Nat
  | 0 => 1 % m
  | k + 1 =>
    let r := powMod b (e / 2) m k
    if e % 2 = 1 then r * r % m * b % m else r * r % m

def invMod (a m : Nat) : Nat := powMod (a % m) (m - 2) m 384

/-- A point in Jacobian coordinates; `z = 0` is the point at infinity. -/
structure JPoint where
  x : Nat
  y : Nat
  z : Nat

def subP (a b : Nat) : Nat := (a + p384P - b % p384P) % p384P

def jDouble (q : JPoint) : JPoint :=
  if q.z = 0 ∨ q.y = 0 then ⟨1, 1, 0⟩
  else
    let p := p384P
    let zz := q.z * q.z % p
    let m := 3 * subP q.x zz * (q.x + zz) % p
    let yy := q.y * q.y % p
    let s := 4 * q.x * yy % p
    let x := subP (m * m % p) (2 * s % p)
    ⟨x, subP (m * subP s x % p) (8 * yy * yy % p), 2 * q.y * q.z % p⟩

def jAdd (a b : JPoint) : JPoint :=
  if a.z = 0 then b
  else if b.z = 0 then a
  else
    let p := p384P
    let za := a.z * a.z % p
    let zb := b.z * b.z % p
    let u1 := a.x * zb % p
    let u2 := b.x * za % p
    let s1 := a.y * zb % p * b.z % p
    let s2 := b.y * za % p * a.z % p
    if u1 = u2 then (if s1 = s2 then jDouble a else ⟨1, 1, 0⟩)
    else
      let h := subP u2 u1
      let r := subP s2 s1
      let hh := h * h % p
      let hhh := hh * h % p
      let v := u1 * hh % p
      let x := subP (subP (r * r % p) hhh) (2 * v % p)
      ⟨x, subP (r * subP v x % p) (s1 * hhh % p), h * a.z % p * b.z % p⟩

/-- `k · q` over the low `n` bits of `k`. -/
def jMul (k : Nat) (q : JPoint) : Nat → JPoint
  | 0 => ⟨1, 1, 0⟩
  | n + 1 =>
    let h := jDouble (jMul (k / 2) q n)
    if k % 2 = 1 then jAdd h q else h

/-- A signature `r`, `s` over a message by the key with the point (`qx`, `qy`). -/
def ecdsaVerify (qx qy r s : Nat) (msg : List Byte) : Bool :=
  let p := p384P
  let n := p384N
  if qx ≥ p ∨ qy ≥ p ∨ qy * qy % p ≠ (qx * qx % p * qx + (p - 3) * qx + p384B) % p ∨ r = 0 ∨ s = 0 ∨ r ≥ n ∨ s ≥ n then false
  else
    let e := beNat (sha384 msg)
    let w := invMod s n
    let q := jAdd (jMul (e * w % n) ⟨p384Gx, p384Gy, 1⟩ 384) (jMul (r * w % n) ⟨qx, qy, 1⟩ 384)
    if q.z = 0 then false
    else
      let zi := invMod q.z p
      decide (q.x * (zi * zi % p) % p % n = r)

/-- A signature of 96 bytes by a 97-byte uncompressed public key. -/
def signatureOk (key sig msg : List Byte) : Bool :=
  decide (leAt key 0 1 = 4) &&
  ecdsaVerify (beNat ((key.drop 1).take 48)) (beNat ((key.drop 49).take 48)) (beNat (sig.take 48))
    (beNat ((sig.drop 48).take 48)) msg

end Sys2Proof.Machine
end

