-- ==== Sys2Proof/Machine/Ledger.lean ====
section
/-! DEFINITION. The lifetime ledger: its totals, its record as bytes and its writes (R395–R397). -/

namespace Sys2Proof.Machine

open Sys2Proof

/-- A change of the ledger totals. -/
def State.modTotals (s : State) (f : LedgerRec → LedgerRec) : State :=
  { s with ledger := { s.ledger with totals := f s.ledger.totals } }

/-- The ledger's field index of a source (R396): fields 0–47, then 48 + 3 × side + i; i is 0 for the first outer field, 1
for the centre field and 2 for the other outer field. -/
def ledgerField (source : Nat) : Nat :=
  if source < Config.nCores then fieldOf source
  else if 0x48000 ≤ source ∧ source < 0x48000 + Config.nSkeins then fieldOfSkein (source - 0x48000)
  else if 0x80000 ≤ source ∧ source < 0x80020 then
    let p := source - 0x80000
    48 + 3 * (p / 8) + (if p % 8 < 4 then 0 else 2)
  else if 0x80100 ≤ source ∧ source < 0x80124 then
    let l := source - 0x80100
    48 + 3 * (l / 9) + (l % 9) / 3
  else if 0x80200 ≤ source ∧ source < 0x80220 then 48 + 3 * ((source - 0x80200) / 8) + 1
  else if 0x80300 ≤ source ∧ source < 0x80310 then 48 + 3 * ((source - 0x80300) / 4) + 1
  else if 0x80400 ≤ source ∧ source < 0x80404 then 48 + 3 * (source - 0x80400) + 1
  else 49

/-- What a logged record adds to the totals: its arrivals, by kind (R396). -/
def LedgerRec.note (t : LedgerRec) (m : FaultMsg) (n : Nat) : LedgerRec :=
  let f := ledgerField m.source
  if m.kind = 0x01 ∨ m.kind = 0x10 then { t with corrErr := Tab.put 0 t.corrErr f (satAdd 32 (Tab.get 0 t.corrErr f) n) }
  else if m.kind = 0x02 ∨ m.kind = 0x11 then
    { t with uncorrErr := Tab.put 0 t.uncorrErr f (satAdd 32 (Tab.get 0 t.uncorrErr f) n) }
  else if m.kind = 0x12 then
    if m.severity = 1 then { t with droops := satAdd 32 t.droops n } else { t with uvGates := satAdd 32 t.uvGates n }
  else t

/-- Seconds with RESET_N high, lifetime: the total at boot and the time since T1. -/
def State.powerOnS (s : State) : Nat := s.ledger.totals.powerOnS + (s.time - s.boot.t1) / 1000000000

/-- The bytes of a record (Table 16.11) with its CRC-32. -/
def LedgerRec.bytes (t : LedgerRec) (powerOn : Nat) (final : Bool) : List Byte :=
  let b (n v : Nat) : List Byte := leBytes n v
  let body :=
    [0x4B, 0x57, 0x4C, 0x47] ++ b 2 1 ++ b 2 0 ++ b 8 t.seq ++ b 8 powerOn ++ b 4 t.boots ++ b 4 t.powerFails ++
    b 4 t.unrecordedEnds ++ b 2 t.trips ++ b 2 t.coolantStops ++ b 4 (boolNat final + 2 * boolNat t.falling) ++
    b 2 t.tcHi ++ b 2 t.tcLo ++ ((List.range 8).flatMap fun i => b 4 (Tab.get 0 t.cycles i)) ++
    b 2 t.tMax ++ b 2 t.tMaxSkein ++ b 2 (toBits 16 t.inletMax) ++ b 2 0 ++
    ((List.range 48).flatMap fun i => b 2 (Tab.get 0 t.fieldMax i)) ++
    b 4 t.droops ++ b 4 t.uvGates ++ b 2 t.deepestMv ++ b 2 t.deepestSkein ++ b 4 0 ++
    ((List.range 60).flatMap fun i => b 4 (Tab.get 0 t.corrErr i)) ++
    ((List.range 60).flatMap fun i => b 4 (Tab.get 0 t.uncorrErr i)) ++
    ((List.range 36).flatMap fun i => b 4 (Tab.get 0 t.laneRetrains i)) ++
    b 8 t.reruns ++ b 8 t.escalations ++ b 8 t.warnedTokens ++ b 4 t.watchdogReplays ++ b 4 t.coresMoved ++
    b 4 t.skeinsMoved ++ b 4 0 ++
    ((List.range 16).flatMap fun i =>
      let e := Tab.get (0, 0, 0) t.fatal i
      b 8 e.1 ++ b 8 e.2.1 ++ b 8 e.2.2) ++
    b 1 t.fatalNext
  let body := (body ++ List.replicate (0x7FC - body.length) 0).take 0x7FC
  body ++ b 4 (crc32 body)

/-- Fatal messages that wait go into the fatal ring (R383). -/
def LedgerRec.takeFatal (t : LedgerRec) (powerOn : Nat) : List (Nat × Nat) → LedgerRec
  | [] => t
  | (m, at_) :: r =>
    LedgerRec.takeFatal { t with fatal := Tab.put (0, 0, 0) t.fatal t.fatalNext (m, powerOn, at_),
                                 fatalNext := (t.fatalNext + 1) % 16 } powerOn r

def slotSeq (k : LedgerSlot) : Nat :=
  match k.held with
  | some (r, _) => r.seq + 1
  | none => 0

/-- A record written to the slot that does not hold the newest valid one (R397); a failed read-back leaves the slot
invalid and sets LG_STATUS.write_fail. -/
def State.ledgerStore (s : State) (final ok : Bool) : State :=
  let m := s.ledger
  let t := m.totals.takeFatal s.powerOnS m.pendingFatal
  let t := { t with seq := t.seq + 1 }
  let stored : LedgerSlot := ⟨if ok then some ({ t with powerOnS := s.powerOnS }, final) else none⟩
  let m := { m with totals := t, pendingFatal := if ok then [] else m.pendingFatal, writeFail := !ok }
  { s with ledger := if slotSeq m.slotB < slotSeq m.slotA then { m with slotB := stored } else { m with slotA := stored } }

/-- Every 60 s, or on a final event, a record is written and read back. -/
def execLedgerWrite (final readBackOk : Bool) (s : State) : Out := .next (s.ledgerStore final readBackOk)

end Sys2Proof.Machine
end

