-- ==== Sys2Proof/Machine/FaultLog.lean ====
section
/-! DEFINITION. Fault collection, the wafer log, injection, the beacon and ALIVE, and the host's view of the counters
(R377–R393). -/

namespace Sys2Proof.Machine

open Sys2Proof

/-! ## Collectors (R380, R381) -/

/-- Sources that Table 16.2 lists. -/
def validSource (n : Nat) : Bool :=
  decide (n < Config.nCores) || (decide (0x48000 ≤ n) && decide (n < 0x48000 + Config.nSkeins)) ||
  (decide (0x80000 ≤ n) && decide (n < 0x80020)) || (decide (0x80100 ≤ n) && decide (n < 0x80124)) ||
  (decide (0x80200 ≤ n) && decide (n < 0x80220)) || (decide (0x80300 ≤ n) && decide (n < 0x80310)) ||
  (decide (0x80400 ≤ n) && decide (n < 0x80404)) || (decide (0x80500 ≤ n) && decide (n < 0x80530)) ||
  (decide (0x80600 ≤ n) && decide (n ≤ 0x80630)) || (decide (0x80700 ≤ n) && decide (n ≤ 0x80705)) ||
  (decide (0x80800 ≤ n) && decide (n < 0x80808))

/-- The queue of a source: a field's, 48 for the selvedge queue, or none for what reaches the wafer collector directly. -/
def collectorOf (source : Nat) : Option Nat :=
  if source < Config.nCores then some (fieldOf source)
  else if 0x48000 ≤ source ∧ source < 0x48000 + Config.nSkeins then some (fieldOfSkein (source - 0x48000))
  else if (0x80600 ≤ source ∧ source ≤ 0x80630) ∨ source = srcWafer then none
  else some 48

def State.collector (s : State) (k : Nat) : CollectorRec := Tab.get {} s.faults.collectors k
def State.setCollector (s : State) (k : Nat) (r : CollectorRec) : State :=
  { s with faults := { s.faults with collectors := Tab.put {} s.faults.collectors k r } }

def sameKey (m : FaultMsg) (e : QueueEntry) : Bool :=
  decide (e.msg.source = m.source) && decide (e.msg.kind = m.kind) && (e.msg.forced == m.forced)

/-- Slots taken: reserved for severity 3, and general. -/
def reservedUsed (q : List QueueEntry) : Nat := (q.filter fun e => e.slot3).length
def generalUsed (q : List QueueEntry) : Nat := (q.filter fun e => !e.slot3).length

/-- An arrival of a kind that is not logged: the kind's drop counter (R381). -/
def State.countDrop (s : State) (kind : Nat) : State :=
  { s with faults := { s.faults with
      kindDropped := Tab.put 0 s.faults.kindDropped kind (satAdd 32 (Tab.get 0 s.faults.kindDropped kind) 1) } }

def queueField (k : Nat) : Nat := if k = 48 then 63 else k

/-- A message dropped at a queue; the first drop of an episode raises QUEUE_OVERFLOW through the latch, and one that finds
the latch full is counted. -/
def State.dropAt (s : State) (k : Nat) (m : FaultMsg) : State :=
  let r := s.collector k
  let r := { r with dropped := satAdd 32 r.dropped 1 }
  let s := s.countDrop m.kind
  if r.overflow then s.setCollector k r
  else
    let o : FaultMsg := ⟨srcCollector k, 0x1D, 2, queueField k + (m.kind <<< 6), false⟩
    match r.latch with
    | none => s.setCollector k { r with overflow := true, latch := some ⟨false, o, s.time, s.time, 1⟩ }
    | some _ => (s.setCollector k { r with overflow := true }).countDrop 0x1D

def CollectorRec.noteHigh (r : CollectorRec) : CollectorRec := { r with high := max r.high r.queue.length }

/-- The arrival of a message at a queue, by the first row of Table 16.4 that applies. -/
def State.queueArrive (s : State) (k : Nat) (m : FaultMsg) : State :=
  let r := s.collector k
  let q := r.queue
  match q.find? (sameKey m) with
  | some e =>
    if e.count ≥ 65535 then s.countDrop m.kind
    else
      let e' := { e with count := e.count + 1, latest := s.time,
                         msg := { e.msg with severity := max e.msg.severity m.severity } }
      s.setCollector k { r with queue := q.map fun x => if sameKey m x then e' else x }
  | none =>
    let e (slot3 : Bool) : QueueEntry := ⟨slot3, m, s.time, s.time, 1⟩
    if m.severity = 3 then
      if reservedUsed q < 16 then s.setCollector k ({ r with queue := q ++ [e true] } : CollectorRec).noteHigh
      else if generalUsed q < 240 then s.setCollector k ({ r with queue := q ++ [e false] } : CollectorRec).noteHigh
      else s.setCollector k { r with heldFatal := r.heldFatal ++ [m] }
    else if generalUsed q < 240 then s.setCollector k ({ r with queue := q ++ [e false] } : CollectorRec).noteHigh
    else s.dropAt k m

/-- The list without the first occurrence of a message. -/
def dropMsg (m : FaultMsg) : List FaultMsg → List FaultMsg
  | [] => []
  | a :: r => if a = m then r else a :: dropMsg m r

/-! ## The beacon (R385) -/

/-- The engine has declared ready; a flash write keeps it so (Table 17.13). -/
def State.ready (s : State) : Bool := decide (s.boot.stage = 6) || decide (s.boot.stage = 8)

/-- Categories of the conditions of Table 16.6 that are active. -/
def State.activeCats (s : State) : List Nat :=
  (if (s.fields.any fun e => decide (e.2.laneState = 2) || e.2.vaLost) || (s.skeins.any fun e => e.2.dead) then [4] else []) ++
  (if s.creel.any fun e => decide (e.2.state ≥ 2) then [1] else []) ++
  (if s.links.any fun e => decide (e.2.state ≥ 2) || e.2.mode4 then [2] else []) ++
  (if s.skeins.any fun e => e.2.critEp then [5] else []) ++
  (if s.thermal.lowEp || decide (s.thermal.kappaC < 256) || s.thermal.stopAt.isSome then [6] else []) ++
  (if s.bolts.any fun e => decide (e.2.st = .faulted) then [3] else []) ++
  (if (s.faults.collectors.any fun e => e.2.overflow) || s.boot.sysclkLost then [15] else [])

/-- Onset times kept with the conditions: one that begins takes the wafer time, one that has ended is forgotten. -/
def State.noteConds (s : State) : State :=
  let cats := s.activeCats
  let kept := s.faults.onset.filter fun e => cats.contains e.1
  { s with faults := { s.faults with onset := cats.foldl (fun t k =>
      if (kept.any fun e => decide (e.1 = k)) = true then t else Tab.insert t k s.time) kept } }

/-- The state code of the beacon: 0 not ready, 1 ready, 2 degraded, 3 halted. -/
def State.beaconState (s : State) : Nat :=
  if s.faults.halted.isSome then 3
  else if !s.ready then 0
  else if s.activeCats.isEmpty then 1 else 2

/-- The greater of two candidates (severity, time, category); ties go to the later. -/
def beaconMax (a b : Nat × Nat × Nat) : Nat × Nat × Nat :=
  if a.1 < b.1 ∨ (a.1 = b.1 ∧ a.2.1 ≤ b.2.1) then b else a

/-- The category shown (R385). -/
def State.beaconCat (s : State) : Nat :=
  match s.faults.halted with
  | some c => c
  | none =>
    let act := s.faults.onset.map fun e => (2, e.2, e.1)
    let lat := match s.faults.latched with
      | some (c, sev, t) => [(sev, t, c)]
      | none => []
    ((act ++ lat).foldl beaconMax (0, 0, 0)).2.2

/-- A message of severity 2 or 3 latches its category, unless a more severe one is latched. -/
def State.latchBeacon (s : State) (m : FaultMsg) : State :=
  if m.severity < 2 then s
  else
    let l := (kindCategory m.kind, m.severity, s.time)
    match s.faults.latched with
    | some (_, sev, _) => if sev ≤ m.severity then { s with faults := { s.faults with latched := some l } } else s
    | none => { s with faults := { s.faults with latched := some l } }

/-- The state becomes halted, with the category shown from then on; ALIVE holds its level (R385, R386). -/
def State.halt (s : State) (cat : Nat) : State :=
  match s.faults.halted with
  | some _ => s
  | none => { s with faults := { s.faults with halted := some cat }, boot := { s.boot with aliveOn := false } }

/-- A flit in flight that carries a message. -/
def carriesMsg (m : FaultMsg) (e : NetFlit) : Bool := decide (e.flit.type = .fault) && decide (e.flit.line = faultLine m)

/-- The state with a message taken from where it has arrived: a FAULT flit at its collector, or a message of a source in the
selvedge; none where it is still on its way. A message that is nowhere comes from outside. -/
def State.takeFault (s : State) (m : FaultMsg) : Option State :=
  match faultRouter m.source with
  | some c =>
    match s.net.find? fun e => carriesMsg m e && decide (e.loc = collectorLoc c) with
    | some e => some { s with net := dropFirst e s.net }
    | none => if s.net.any (carriesMsg m) || s.faults.inFlight.contains m then none else some s
  | none => some { s with faults := { s.faults with inFlight := dropMsg m s.faults.inFlight } }

/-- A FAULT flit arrives at its collector; while a fatal message waits there, the field's flits wait (Table 16.4). What
reaches the wafer collector directly stands in that collector's own latch. -/
def execFault (m : FaultMsg) (s : State) : Out :=
  .next (match s.takeFault m, collectorOf m.source with
    | none, _ => s
    | some s', some k => if (s.collector k).heldFatal.isEmpty then ((s'.queueArrive k m).latchBeacon m).noteConds else s
    | some s', none =>
      let r := s'.collector 49
      (s'.setCollector 49 { r with queue := r.queue ++ [⟨false, m, s.time, s.time, 1⟩] }).latchBeacon m)

/-! ## The wafer log (R382, R383) -/

/-- Sequence numbers run from 1 to 2^32 − 1 and start at 1 again. -/
def nextSeq (n : Nat) : Nat := if n + 1 < 2 ^ 32 then n + 1 else 1

/-- An entry is logged: the record, the kind's arrivals, the ledger's totals, the interrupt, and for a real message of
severity 3 the fatal ring and the halt with its ledger record. -/
def State.logEntry (s : State) (k : Nat) (e : QueueEntry) : State :=
  let seq := nextSeq s.faults.lastSeq
  let rec_ : LogRec := { msg := e.msg, first := e.first, seq := seq, arrivals := e.count,
                         field := if k < 48 then k else 0xFF, latest := e.latest }
  let f := s.faults
  let s := { s with faults := { f with
      log := (rec_ :: f.log).take 65536
      wrapped := f.wrapped || decide (f.log.length ≥ 65536)
      lastSeq := seq
      kindArrivals := Tab.put 0 f.kindArrivals e.msg.kind (satAdd 32 (Tab.get 0 f.kindArrivals e.msg.kind) e.count) } }
  let s := s.modTotals fun t => t.note e.msg e.count
  let s := if f.irqSev ≤ e.msg.severity ∧ f.vector ≠ 0 then s.sendMsix 0 f.vector else s
  if e.msg.severity = 3 ∧ e.msg.forced = false then
    let s := { s with ledger := { s.ledger with pendingFatal := s.ledger.pendingFatal ++ [(msgWord e.msg, s.time)] } }
    if s.faults.halted.isNone then (s.halt (kindCategory e.msg.kind)).ledgerStore true true else s
  else s

/-- The first entry that a predicate picks, and the queue without it. -/
def pickEntry (p : QueueEntry → Bool) : List QueueEntry → Option (QueueEntry × List QueueEntry)
  | [] => none
  | e :: r => if p e then some (e, r) else (pickEntry p r).map fun q => (q.1, e :: q.2)

/-- A queue from which an entry was taken: a held fatal message takes the free slot, and an overflow episode ends below 128
entries. -/
def State.afterTake (s : State) (k : Nat) (q : List QueueEntry) : State :=
  let r := { s.collector k with queue := q }
  let r := if q.length < 128 then { r with overflow := false } else r
  match r.heldFatal with
  | m :: rest =>
    let slot3 := decide (reservedUsed q < 16)
    s.setCollector k { r with heldFatal := rest, queue := q ++ [⟨slot3, m, s.time, s.time, 1⟩] }
  | [] => s.setCollector k r

/-- The queues in the order of the collector's turn: field queues and the selvedge queue; queue 49 holds what came
directly. -/
def turnOrder (turn : Nat) : List Nat := (List.range 49).map fun i => (turn + i) % 49

/-- The wafer collector takes one entry: severity 3 first, then what came directly, then the queues in turn. -/
def State.collectorTake (s : State) : State :=
  let fatal := ((turnOrder s.faults.turn) ++ [49]).findSome? fun k =>
    (pickEntry (fun e => decide (e.msg.severity = 3)) (s.collector k).queue).map fun q => (k, q)
  match fatal with
  | some (k, e, q) => (s.afterTake k q).logEntry k e
  | none =>
    match (List.range 49).findSome? fun k => ((s.collector k).latch).map fun e => (k, e) with
    | some (k, e) => ((s.setCollector k { s.collector k with latch := none }).latchBeacon e.msg).logEntry 49 e
    | none =>
      match (s.collector 49).queue with
      | e :: q => (s.setCollector 49 { s.collector 49 with queue := q }).logEntry 49 e
      | [] =>
        match (turnOrder s.faults.turn).findSome? fun k =>
            (pickEntry (fun _ => true) (s.collector k).queue).map fun q => (k, q) with
        | some (k, e, q) =>
          let s := { s with faults := { s.faults with turn := (k + 1) % 49 } }
          (s.afterTake k q).logEntry k e
        | none => s

def execCollectorTake (s : State) : Out := .next s.collectorTake.noteConds

/-! ## Injection (R384) -/

/-- Blocks that only the admin function reaches. -/
def adminFn (f : Nat) : Bool := decide (f = 0)

/-- An access that Table 18.2 discards or zeroes is counted (R420). -/
def State.refuseAccess (s : State) : State := { s with badAccess := satAdd 16 s.badAccess 1 }

/-- An access to a register of function 0 (R428). -/
def asAdmin (f : Nat) (s : State) (g : State → State) : State := if adminFn f then g s else s.refuseAccess

/-- The message in FT_FORCE. -/
def forceMsgOf (w : Nat) : FaultMsg := ⟨bits w 44 20, bits w 38 6, bits w 36 2, bits w 0 36, true⟩

def State.forceGo (s : State) : State :=
  let m := forceMsgOf s.faults.force.toNat
  if s.faults.forceEn ∧ 0 < m.kind ∧ m.kind ≤ 0x20 ∧ validSource m.source = true then
    let s := { s with faults := { s.faults with forceGo := true } }
    if m.source < Config.nCores then
      s.modCore m.source fun r => { r with forceMsg := s.faults.force, forceGo := true }
    else { s with faults := { s.faults with forcePairs := Tab.put (0, false) s.faults.forcePairs m.source (s.faults.force, true) } }
  else { s with faults := { s.faults with forceGo := false, forceErr := true } }

def execForceGo (f : Nat) (s : State) : Out := onFunc f s fun s => asAdmin f s State.forceGo

/-- The pair of a source: message and go. -/
def State.forcePair (s : State) (source : Nat) : Word × Bool :=
  if source < Config.nCores then ((s.core source).forceMsg, (s.core source).forceGo)
  else Tab.get (0, false) s.faults.forcePairs source

/-- A source whose FORCE_GO is set sends the message with the forced flag; FT_FORCE_GO.go clears. A number that Table 16.2 does
not list is no source, and sends nothing (R378). -/
def execForceSend (source : Nat) (s : State) : Out :=
  .next <| whenS (validSource source) s fun s =>
    let p := s.forcePair source
    if p.2 then
      let m := { forceMsgOf p.1.toNat with source := source }
      let s := if source < Config.nCores then s.modCore source fun r => { r with forceGo := false }
        else { s with faults := { s.faults with forcePairs := Tab.put (0, false) s.faults.forcePairs source (p.1, false) } }
      { s with faults := { s.faults with forceGo := false, inFlight := s.faults.inFlight ++ [m] } }
    else s

/-- FT_BEACON.ack clears the latch. -/
def State.beaconAck (s : State) : State := { s with faults := { s.faults with latched := none } }

def execBeaconAck (f : Nat) (s : State) : Out := onFunc f s fun s => asAdmin f s State.beaconAck

/-! ## ALIVE (R386) -/

/-- Firmware kicks the generator. -/
def execAliveKick (s : State) : Out :=
  .next (whenS s.ready s fun s => { s with boot := { s.boot with kickAt := s.time } })

/-- 3 ms without a kick: ALIVE holds and the state shows halted with category 15. -/
def execAliveKickLapse (s : State) : Out :=
  .next (whenS (s.ready && decide (s.boot.kickAt + 3000000 ≤ s.time)) s fun s =>
    { s with boot := { s.boot with aliveOn := false },
             faults := { s.faults with kickLapsed := true, halted := some (s.faults.halted.getD 15) } })

/-- ALIVE toggles at each 500 µs of wafer time while the state is not halted. -/
def execAliveToggle (s : State) : Out :=
  .next (whenS (s.ready && s.boot.aliveOn && s.faults.halted.isNone && decide (s.time % 500000 = 0)) s fun s =>
    { s with boot := { s.boot with aliveLevel := !s.boot.aliveLevel } })

/-! ## Port counters and the host's view of the counters (R390–R392) -/

/-- A port counter's window closes at a multiple of 2^n ns, and the counter restarts. -/
def execPortCounterWindow (k i : Nat) (s : State) : Out :=
  onUnit (decide (k < Config.nSkeins) && decide (i < 8)) s fun s => s.modSkein k fun r =>
    let g := Tab.get 0 r.portCfg i
    let n := bits g 14 5
    if bitAt g 19 = true ∧ 10 ≤ n ∧ n ≤ 30 ∧ s.time % 2 ^ n = 0 then
      { r with portWin := Tab.put 0 r.portWin i (Tab.get 0 r.portCnt i), portCnt := Tab.put 0 r.portCnt i 0, portWinAt := s.time }
    else r

/-- A virtual core of a placed epoch stands on the site. -/
def State.siteHeld (s : State) (core : Nat) : Bool :=
  s.bolts.any fun x => (x.2.current.toList ++ x.2.other.toList).any fun e => e.place.any fun l => l.contains core

/-- Four latched counter values. -/
def latched4 (f : Nat → Nat) : Tab Nat := (List.range 4).foldl (fun t i => Tab.put 0 t i (f i)) []

/-- A core number written to CT_CORE_SEL latches the core's four counters, or zeros for a site not occupied (R391, R427). What
a number beyond the engine's cores latches the spec does not say: free values (log entry 74). -/
def State.ctLatch (s : State) (core : Nat) : State :=
  if core < Config.nCores then
    { s with ctSel := core + 2 ^ 19
             ctVal := if s.siteHeld core then latched4 fun i => (perfCtr (s.core core) i).cnt else [] }
  else
    { s with ctSel := core + 2 ^ 19
             ctVal := latched4 fun i => (Config.freeWord (s.free + i)).toNat % 2 ^ 48
             free := s.free + 4 }

def execCtCoreSel (f core : Nat) (s : State) : Out :=
  onUnit (decide (f < Config.nFunctions) && decide (core < 2 ^ 19)) s fun s =>
    asAdmin f s fun s => s.ctLatch core

/-- Cores of a bolt's current epoch: (virtual core, region, core). -/
def State.boltCores (s : State) (b : Nat) : List (Nat × Nat × Nat) :=
  match (s.bolt b).current with
  | some e => ((List.range e.place.length).flatMap fun r =>
      (List.range (e.place.getD r []).length).map fun i => (e.virt r i, r, (e.place.getD r []).getD i 0))
  | none => []

/-- The skeins of a bolt's rectangle. -/
def BoltRec.skeins (b : BoltRec) : List Nat :=
  (List.range b.h).flatMap fun j => (List.range b.w).map fun i => (b.sy0 + j) * 64 + b.sx0 + i

def coreCnt (s : State) (c i : Nat) : Nat := (perfCtr (s.core c) i).cnt

/-- The records of a snapshot, in the three modes of R392. -/
def State.snapRecords (s : State) (b mode : Nat) : List (List Byte) :=
  let cores := s.boltCores b
  if mode = 0 then cores.map fun v =>
    leBytes 4 v.1 ++ leBytes 4 v.2.1 ++ ((List.range 3).flatMap fun i => leBytes 8 (coreCnt s v.2.2 i))
  else if mode = 1 then
    (List.range (match (s.bolt b).current with
      | some e => e.place.length
      | none => 0)).map fun r =>
      let mine := cores.filter fun v => decide (v.2.1 = r)
      leBytes 4 r ++ leBytes 4 mine.length ++
        ((List.range 3).flatMap fun i => leBytes 8 (mine.foldl (fun a v => a + coreCnt s v.2.2 i) 0))
  else if mode = 2 then (s.bolt b).skeins.map fun k =>
    let x := s.skein k
    let cnt (i : Nat) : Nat := if bits (Tab.get 0 x.portCfg i) 14 5 = 0 then Tab.get 0 x.portCnt i else Tab.get 0 x.portWin i
    leBytes 2 k ++ leBytes 6 0 ++ ((List.range 8).flatMap fun i => leBytes 8 (cnt i)) ++ leBytes 8 x.portWinAt
  else []

/-- A bolt's counter page is open to a function: the admin function, or a function of the bolt while tenant is set. -/
def State.ctAllowed (s : State) (f b : Nat) : Bool :=
  adminFn f || ((s.ctPage b).bcfg.getLsbD 29 && (s.bolt b).funcMask.getLsbD f)

/-- PC_CFG of counter `k` of a bolt's cores, as the counter page gives it (R391). -/
def CtPage.coreCfg (g : CtPage) (k : Nat) : Nat :=
  let v := g.bcfg.toNat
  let w := g.sampleCfg.toNat
  if k < 3 then bits v (8 * k) 8 + (bits v (24 + k) 1 <<< 8) + ((if k = 1 then bits v 27 1 else 0) <<< 9) + (bits v 28 1 <<< 10)
  else bits w 0 10 % 512 + (bits w 9 1 <<< 10) + (1 <<< 11)

/-- The mailbox word that takes a bolt's counter samples: the last word of the window of Table 6.11 for samples (log entry 45). -/
def State.sampleDst (s : State) (b : Nat) : Nat := gaMake s.engineNo (960 + 16 * (s.bolt b).homeSide) 0 0x7FF8

/-- The harness programs some counters of some cores of a bolt; counter 3 starts its period (R391). -/
def State.ctCores (s : State) (b : Nat) (cores ks : List Nat) : State :=
  let g := s.ctPage b
  cores.foldl (fun s c => s.modCore c fun r => ks.foldl (fun r k =>
    let p := { perfCtr r k with cfg := BitVec.ofNat 12 (g.coreCfg k) }
    if k = 3 then setPerfCtr { r with pcSampleDst := BitVec.ofNat 47 (s.sampleDst b) } 3
      { p with cnt := 2 ^ 48 - bits g.sampleCfg.toNat 32 32 }
    else setPerfCtr r k p) r) s

/-- The harness programs the port counters of every skein of a bolt (R391). -/
def State.ctPorts (s : State) (b : Nat) : State :=
  let g := s.ctPage b
  (s.bolt b).skeins.foldl (fun s k => s.modSkein k fun r => { r with
    portCfg := (List.range 8).foldl (fun t i => Tab.put 0 t i (Tab.get 0 g.portCfg i).toNat) [] }) s

/-- Every occupied core of the bolt's current epoch, and every skein, as its page has them. -/
def State.ctProgram (s : State) (b : Nat) : State :=
  (s.ctCores b ((s.boltCores b).map fun v => v.2.2) (List.range 4)).ctPorts b

/-- The records that fit the buffer. -/
def fitRecords (len : Nat) : List (List Byte) → List Byte × Bool
  | [] => ([], false)
  | r :: rest => if r.length ≤ len then let q := fitRecords (len - r.length) rest; (r ++ q.1, q.2) else ([], true)

/-- CT_SNAP_CTRL.go: the records go to the host buffer, and done is set. -/
def State.ctSnap (s : State) (b : Nat) : State :=
  let g := s.ctPage b
  let q := fitRecords g.snapLen (s.snapRecords b g.snapMode)
  { s.setCtPage b { g with snapDone := true, snapShort := q.2 } with hostMem := writeBytes s.hostMem g.snap.toNat q.1 }

def execCtSnapGo (f b : Nat) (s : State) : Out :=
  onUnit (decide (f < Config.nFunctions) && decide (b < Config.nBolts)) s fun s =>
    if s.ctAllowed f b then s.ctSnap b else s.refuseAccess

end Sys2Proof.Machine
end

