-- ==== Sys2Proof/Machine/HostQ.lean ====
section
/-! DEFINITION. Queue pairs: records, doorbells, acceptance of descriptors, completions, interrupts, and the exchange RAM's
collision (R259–R268, R271–R275, R279). -/

namespace Sys2Proof.Machine

open Sys2Proof

/-! ## Fields of a queue-pair record (Table 10.3) -/

def ringSize (w : Word) : Nat := 2 ^ (6 + bits w.toNat 0 4)
def ringBase (w : Word) : Nat := (bits w.toNat 12 52) * 4096
def cfgFunc (w : Word) : Nat := bits w.toNat 0 5
def cfgVector (w : Word) : Nat := bits w.toNat 5 6
def cfgIrqEn (w : Word) : Bool := w.getLsbD 11
def cfgAggCount (w : Word) : Nat := bits w.toNat 12 8
def cfgAggTime (w : Word) : Nat := bits w.toNat 20 16
def cfgEnable (w : Word) : Bool := w.getLsbD 36

def QpRec.enabled (r : QpRec) : Bool := cfgEnable r.cfg
def QpRec.func (r : QpRec) : Nat := cfgFunc r.cfg
def QpRec.cqSize (r : QpRec) : Nat := ringSize r.cq
def QpRec.sqSize (r : QpRec) : Nat := ringSize r.sq
def QpRec.cqFull (r : QpRec) : Bool := !r.held.isEmpty

/-- The bolt that a function is mapped to (R261). -/
def State.boltOfFunc (s : State) (f : Nat) : Option Nat :=
  (List.range Config.nBolts).find? fun b => decide ((s.bolt b).st ≠ .none) && (s.bolt b).funcMask.getLsbD f

/-- A queue-pair error: the queue stops, and vector 0 of its function fires (R264). -/
def State.qpError (s : State) (q cause : Nat) : State :=
  (s.modQp q fun r => { r with error := true, errCause := cause }).sendMsix (s.qp q).func 0

/-- A change of a bolt's state, signalled on vector 0 of its functions (R275). -/
def State.setBoltSt (s : State) (b : Nat) (st : BoltSt) : State :=
  let r := s.bolt b
  if r.st = st then s
  else (List.range Config.nFunctions).foldl (fun s f => if r.funcMask.getLsbD f then s.sendMsix f 0 else s)
    (s.setBolt b { r with st := st })

/-! ## Completions (R271–R275) -/

/-- The 64 bytes of an entry (Table 10.8). -/
def cqeBytes (c : Cqe) (sqHead q : Nat) (phase : Bool) : List Byte :=
  leBytes 4 c.tag ++ leBytes 4 c.handle ++ leBytes 1 c.status ++ leBytes 1 c.kind ++ leBytes 1 c.opcode ++
  leBytes 1 c.endReason ++ leBytes 2 sqHead ++ leBytes 2 q ++
  (((c.result ++ List.replicate 40 0).take 40).flatMap fun v => leBytes 1 v) ++ leBytes 6 0 ++
  leBytes 1 (boolNat c.numericWarn) ++ leBytes 1 (boolNat phase)

/-- The check of the moderation rule on one queue pair (R275). -/
def State.moderate (s : State) (q : Nat) : State :=
  let r := s.qp q
  if cfgIrqEn r.cfg ∧ 0 < r.pend ∧ (max 1 (cfgAggCount r.cfg) ≤ r.pend ∨
      (0 < cfgAggTime r.cfg ∧ r.t0 + 1000 * cfgAggTime r.cfg ≤ s.time)) then
    (s.setQp q { r with pend := 0 }).sendMsix r.func (cfgVector r.cfg)
  else s

/-- A descriptor's final has been written: barriers no longer wait for it (R266). -/
def State.finalDone (s : State) (c : Cqe) : State :=
  let s := match c.finOf with
    | some (q, n) => s.modQp q fun r => { r with openDescs := r.openDescs.filter fun m => m ≠ n }
    | none => s
  match c.frees with
  | some i => s.setReq i { ({} : ReqRec) with gen := (s.req i).gen }
  | none => s

/-- One entry written into its ring slot, with its phase; an interrupt may follow. -/
def State.writeCqe (s : State) (q : Nat) (c : Cqe) : State :=
  let r := s.qp q
  let at_ := ringBase r.cq + 64 * r.cqTail
  let s := { s with hostMem := writeBytes s.hostMem at_ (cqeBytes c r.sqHead q r.cqPhase) }
  let wrap := decide (r.cqTail + 1 = r.cqSize)
  let r := { r with
    cqTail := if wrap then 0 else r.cqTail + 1
    cqPhase := if wrap then !r.cqPhase else r.cqPhase
    unread := r.unread + 1
    t0 := if r.pend = 0 then s.time else r.t0
    pend := r.pend + 1 }
  ((s.setQp q r).finalDone c).moderate q

/-- The queue pair can write an entry now. -/
def State.cqRoom (s : State) (q : Nat) : Bool :=
  let r := s.qp q
  r.enabled && !r.error && decide (r.unread < r.cqSize) && (s.func r.func).writable

/-- Held completions are written in the order they became ready, while slots are free. -/
def State.flushCq (q : Nat) : Nat → State → State
  | 0, s => s
  | n + 1, s =>
    match (s.qp q).held with
    | c :: rest =>
      if s.cqRoom q then State.flushCq q n ((s.modQp q fun r => { r with held := rest }).writeCqe q c) else s
    | [] => s

def State.drainCq (s : State) (q : Nat) : State := State.flushCq q (s.qp q).held.length s

/-- A completion becomes ready: written, or held; a disabled queue pair writes none, and what the final ends is ended. -/
def State.complete (s : State) (q : Nat) (c : Cqe) : State :=
  if (s.qp q).enabled then (s.modQp q fun r => { r with held := r.held ++ [c] }).drainCq q else s.finalDone c

/-- Completions held in the queue pair's own store: those that no request's entry holds (R274). -/
def QpRec.storeHeld (r : QpRec) : Nat := (r.held.filter fun c => !c.entry).length

/-! ## Descriptors (R266–R268) -/

/-- Bytes `[off, off+n)` of a descriptor as a number. -/
def dfield (d : BitVec 1024) (off n : Nat) : Nat := bits d.toNat (8 * off) (8 * n)
def dOpcode (d : BitVec 1024) : Nat := dfield d 0 1
def dTag (d : BitVec 1024) : Nat := dfield d 4 4
def dHandle (d : BitVec 1024) : Nat := dfield d 8 4

/-- Every byte outside the given ranges (offset, length) is 0. -/
def dZeroBut (d : BitVec 1024) (used : List (Nat × Nat)) : Bool :=
  (List.range 128).all fun i => (used.any fun u => decide (u.1 ≤ i) && decide (i < u.1 + u.2)) || decide (dfield d i 1 = 0)

/-- The queue pair's next entry can be accepted; a power-fail stops ring fetch (R357). -/
def State.canFetch (s : State) (q : Nat) : Bool :=
  let r := s.qp q
  r.enabled && !r.error && !s.power.pfSeen && decide (r.sqHead ≠ r.sqTail) && decide (r.storeHeld < 4)

/-- A descriptor accepted: its queue, its acceptance number, and the bolt it applies to. -/
structure Acc where
  q : Nat
  n : Nat
  d : BitVec 1024
  bolt : Option Nat

/-- The entry at the head of a ring is accepted, if it can be and no barrier holds it (R266). -/
def State.accept (s : State) (q : Nat) (d : BitVec 1024) : Option (State × Acc) :=
  let r := s.qp q
  if !s.canFetch q then none
  else if (dfield d 1 1) % 2 = 1 ∧ r.barrierOk = false ∧ r.openDescs ≠ [] then none
  else
    let s := s.setQp q { r with
      sqHead := (r.sqHead + 1) % r.sqSize
      accepted := (r.accepted + 1) % 2 ^ 32
      openDescs := r.openDescs ++ [r.descNum]
      descNum := r.descNum + 1
      barrierOk := false }
    some (s, ⟨q, r.descNum, d, if q = 0 then some (dfield d 2 1) else s.boltOfFunc r.func⟩)

/-- The final completion of a descriptor. -/
def Acc.cqe (a : Acc) (status : Nat) (result : List Nat) : Cqe :=
  { tag := dTag a.d, handle := dHandle a.d, status := status, kind := 0, opcode := dOpcode a.d, endReason := 0,
    result := result, numericWarn := false, frees := none, finOf := some (a.q, a.n) }

def State.finish (s : State) (a : Acc) (status : Nat) (result : List Nat) : State := s.complete a.q (a.cqe status result)
/-- Codes of Table 9.2. -/
def BoltSt.code : BoltSt → Nat
  | .none => 0
  | .empty => 1
  | .loading => 2
  | .serving => 3
  | .paused => 4
  | .faulted => 5
  | .scrubbing => 6

/-- The result bytes of a descriptor that is refused (Table 10.10): no failing shard, the current epoch, or the bolt's
state. -/
def State.refused (s : State) (a : Acc) : List Nat :=
  let r := match a.bolt with
    | some b => s.bolt b
    | none => {}
  if dOpcode a.d = 0x10 then [0, 0, 0, 0, 255, 255, 255, 255]
  else if dOpcode a.d = 0x13 then match r.current with
    | some e => [e.num % 256, e.num / 256]
    | none => []
  else if dOpcode a.d = 0x20 ∨ dOpcode a.d = 0x21 ∨ dOpcode a.d = 0x22 then [r.st.code]
  else []

def State.invalid (s : State) (a : Acc) : State := s.finish a 0x07 (s.refused a)

/-- The header's reserved fields are 0 (Table 10.4). -/
def headerOk (q : Nat) (d : BitVec 1024) : Bool :=
  decide (dfield d 1 1 < 2) && (if q = 0 then decide (dfield d 2 1 < 8) else decide (dfield d 2 1 = 0)) &&
  decide (dfield d 3 1 = 0) && decide (dfield d 12 4 = 0)

/-- A command that is a descriptor: the ring's next entry is this one, of this opcode, and it is accepted; otherwise the
event does not take place (log entry 1). -/
def onDesc (op q : Nat) (d : BitVec 1024) (s : State) (f : State → Acc → State) : Out :=
  onQp q s fun s => if dOpcode d = op then
    match s.accept q d with
    | some (s, a) => if headerOk q d then f s a else s.invalid a
    | none => s
  else s

def knownOpcodes : List Nat :=
  [0x01, 0x02, 0x03, 0x04, 0x05, 0x10, 0x11, 0x12, 0x13, 0x14, 0x20, 0x21, 0x22, 0x30, 0x3F]

/-- NOP completes OK on any queue; an entry with an unknown opcode completes INVALID (R268). -/
def execNop (q : Nat) (d : BitVec 1024) (s : State) : Out :=
  onQp q s fun s =>
    if dOpcode d = 0x3F ∨ ¬ dOpcode d ∈ knownOpcodes then
      match s.accept q d with
      | some (s, a) =>
        if headerOk q d && decide (dOpcode d = 0x3F) && dZeroBut d [(0, 16)] && decide (dHandle d = 0) then
          s.finish a 0x00 [] else s.invalid a
      | none => s
    else s

/-! ## Doorbells (R264) -/

/-- A doorbell of a function that owns an enabled queue pair acts; any other is counted. -/
def State.doorbell (s : State) (f q : Nat) (g : State → QpRec → State) : State :=
  let r := s.qp q
  if r.enabled ∧ r.func = f then g s r else s.setQp q { r with badDoorbells := satAdd 16 r.badDoorbells 1 }

/-- SQ_TAIL: the entries before `v` pass to the engine. -/
def State.sqTailTo (s : State) (f q v : Nat) : State :=
  s.doorbell f q fun s r => if v ≥ r.sqSize then s.qpError q 1 else s.setQp q { r with sqTail := v }

/-- CQ_HEAD: the completion entries before `v` are released. -/
def State.cqHeadTo (s : State) (f q v : Nat) : State :=
  s.doorbell f q fun s r =>
    let k := (v + r.cqSize - r.cqHead) % r.cqSize
    if v ≥ r.cqSize ∨ k > r.unread then s.qpError q 2
    else (s.setQp q { r with cqHead := v, unread := r.unread - k }).drainCq q

def execSqTail (f q : Nat) (t : BitVec 32) (s : State) : Out :=
  onUnit (decide (f < Config.nFunctions) && decide (q < Config.nQueuePairs)) s fun s => s.sqTailTo f q (t.toNat % 65536)

def execCqHead (f q : Nat) (h : BitVec 32) (s : State) : Out :=
  onUnit (decide (f < Config.nFunctions) && decide (q < Config.nQueuePairs)) s fun s => s.cqHeadTo f q (h.toNat % 65536)

/-- A write into BAR2: the doorbells of page `off / 0x1000`; any other write to a page is discarded and counted. -/
def State.doorbellWrite (s : State) (f off size v : Nat) : State :=
  let q := off / 0x1000
  if Config.nQueuePairs ≤ q then s
  else if size = 4 ∧ off % 0x1000 = 0 then s.sqTailTo f q (v % 65536)
  else if size = 4 ∧ off % 0x1000 = 4 then s.cqHeadTo f q (v % 65536)
  else s.modQp q fun r => { r with badDoorbells := satAdd 16 r.badDoorbells 1 }

/-- Every earlier descriptor of the ring has written its final: a barrier descriptor may be accepted. -/
def execBarrierRelease (q : Nat) (s : State) : Out :=
  onQp q s fun s => s.modQp q fun r => if r.openDescs = [] then { r with barrierOk := true } else r

/-- A disabled queue pair with no DMA outstanding reports quiesced. -/
def execQpQuiesced (q : Nat) (s : State) : Out :=
  onQp q s fun s => s.modQp q fun r => if r.enabled then r else { r with quiesced := true }

/-- The check at each whole microsecond of wafer time (R275). -/
def execIrqModerationTick (s : State) : Out :=
  .next (whenS (decide (s.time % 1000 = 0)) s fun s => (s.qps.map fun e => e.1).foldl (fun s q => s.moderate q) s)

/-- A vector is unmasked: its pending message is sent. -/
def execMsixUnmask (f v : Nat) (s : State) : Out :=
  onUnit (decide (f < Config.nFunctions) && decide (v < 64)) s fun s =>
    let r := s.func f
    let bit := BitVec.ofNat 64 (2 ^ v)
    let r' := { r with masked := r.masked &&& ~~~bit }
    if r.pendingMsix.getLsbD v && r.writable then
      { s.setFunc f { r' with pendingMsix := r.pendingMsix &&& ~~~bit } with msix := (f, v) :: s.msix }
    else s.setFunc f r'

/-- A host access to the exchange RAM meets a harness access on one word: the reader gets undefined data, a free value, and
a later host access is recorded (R279). -/
def execXramCollision (word : Nat) (hostIsRead hostLater : Bool) (s : State) : Out :=
  onUnit (decide (word < 32768)) s fun s =>
    let s := if hostIsRead then
        let q := s.takeFree
        { q.2 with lastRead := Config.freeWord q.1 }
      else s
    if hostLater then { s with xramColl := true, xramWord := word } else s

end Sys2Proof.Machine
end

