-- ==== Sys2Proof/Machine/Image.lean ====
section
/-! DEFINITION. The loom image: its sections and records, the checks that need no placement, and the placement of its
regions on a grid of sites (R132, R133, R136–R140, R173, R236). -/

namespace Sys2Proof.Machine

open Sys2Proof

/-! ## Header and directory (Table 5.3) -/

def imFlags (m : List Byte) : Nat := leAt m 0x008 4
def imRegions (m : List Byte) : Nat := leAt m 0x00C 2
def imShapes (m : List Byte) : Nat := leAt m 0x00E 1
def imSlots (m : List Byte) : Nat := leAt m 0x010 2
def imChunk (m : List Byte) : Nat := leAt m 0x012 2
def imTimeout (m : List Byte) : Nat := leAt m 0x014 2
def imCount (m : List Byte) : Nat := leAt m 0x016 2
def imCreelFed (m : List Byte) : Bool := bitAt (imFlags m) 0

/-- Every byte of a range is 0. -/
def zeros (m : List Byte) (off n : Nat) : Bool := (m.drop off).take n |>.all fun b => b == 0

/-- A used directory entry. -/
structure Sect where
  kind : Nat
  shape : Nat
  len : Nat
  off : Nat
  deriving DecidableEq, Repr

def imSects (m : List Byte) : List Sect := tabulate (imCount m) fun i =>
  let o := 0x40 + 16 * i
  ⟨leAt m o 2, leAt m (o + 2) 1, 64 * leAt m (o + 4) 4, leAt m (o + 8) 8⟩

/-- A kind that stands once per shape; the others are shared (Table 5.4). -/
def perShape (kind : Nat) : Bool := kind ∈ [2, 5, 6, 7, 8]

def imSect (m : List Byte) (kind shape : Nat) : Option Sect :=
  (imSects m).find? fun k => decide (k.kind = kind) && decide (k.shape = if perShape kind then shape else 0xFF)

/-- Sections that are apart. -/
def apart (a b : Sect) : Bool := decide (a.off + a.len ≤ b.off) || decide (b.off + b.len ≤ a.off)

def pairwise {α : Type} (p : α → α → Bool) : List α → Bool
  | [] => true
  | a :: r => r.all (p a) && pairwise p r

/-- The header and the directory (R136). -/
def imHeaderOk (m : List Byte) : Bool :=
  let ks := imSects m
  let n := imShapes m
  decide (1024 ≤ m.length) && decide (leAt m 0 4 = 0x4D4C574B) && decide (leAt m 4 2 = 1) && decide (leAt m 6 2 = 0x00B1) &&
  decide (imFlags m < 2) && decide (1 ≤ imRegions m) && decide (imRegions m ≤ 256) && decide (1 ≤ n) && decide (n ≤ 8) &&
  zeros m 0x00F 1 && decide (1 ≤ imSlots m) && decide (imSlots m ≤ 512) && decide (1 ≤ imChunk m) &&
  decide (imChunk m ≤ 4096) && decide (1 ≤ imCount m) && decide (imCount m ≤ 60) && zeros m 0x018 40 &&
  zeros m (0x40 + 16 * imCount m) (16 * (60 - imCount m)) &&
  (List.range (imCount m)).all (fun i => zeros m (0x40 + 16 * i + 3) 1) &&
  ks.all (fun k => decide (1 ≤ k.kind) && decide (k.kind ≤ 8) && decide (k.off % 64 = 0) && decide (1024 ≤ k.off) &&
    decide (k.off + k.len ≤ m.length) && (if perShape k.kind then decide (k.shape < n) else decide (k.shape = 0xFF))) &&
  pairwise (fun a b => apart a b && !(decide (a.kind = b.kind) && decide (a.shape = b.shape))) ks &&
  (imSect m 1 0).isSome && (imSect m 3 0).isSome &&
  (List.range n).all fun k => (imSect m 2 k).isSome && (imSect m 5 k).isSome

/-! ## Records -/

/-- Record `i` of `n` bytes of a section. -/
def secRec (m : List Byte) (k : Sect) (n i : Nat) : List Byte := (m.drop (k.off + n * i)).take n

def secRecs (m : List Byte) (k : Option Sect) (n count : Nat) : List (List Byte) :=
  match k with
  | some k => tabulate count fun i => secRec m k n i
  | none => []

/-- The section holds its records. -/
def secHolds (k : Option Sect) (n count : Nat) : Bool :=
  match k with
  | some k => decide (n * count ≤ k.len)
  | none => decide (count = 0)

/-- Kind and layer of each region. -/
def imRegionList (m : List Byte) : List (Nat × Nat) :=
  (secRecs m (imSect m 1 0) 16 (imRegions m)).map fun r => (leAt r 0 1, leAt r 1 2)

def imRegionsOk (m : List Byte) : Bool :=
  secHolds (imSect m 1 0) 16 (imRegions m) &&
  (secRecs m (imSect m 1 0) 16 (imRegions m)).all fun r => decide (leAt r 0 1 ≤ 3) && zeros r 3 13

/-- Core count, allowance and burst of each region in a shape (Table 5.5). -/
def imShape (m : List Byte) (k : Nat) : List (Nat × Nat × Nat) :=
  (secRecs m (imSect m 2 k) 16 (imRegions m)).map fun r =>
    let w := leAt r 0 16
    (bits w 0 24, bits w 24 10, bits w 34 10)

def imShapeOk (m : List Byte) (k : Nat) : Bool :=
  secHolds (imSect m 2 k) 16 (imRegions m) &&
  (secRecs m (imSect m 2 k) 16 (imRegions m)).all fun r =>
    let w := leAt r 0 16
    decide (1 ≤ bits w 0 24) && decide (bits w 24 10 ≤ 512) && decide (bits w 44 84 = 0)

/-- A code or data segment: its count or length, its store offset, and where its bytes begin. -/
structure Seg where
  count : Nat
  at_ : Nat
  start : Nat
  deriving DecidableEq, Repr

def align64 (n : Nat) : Nat := (n + 63) / 64 * 64

/-- The segments from `pos` to `end_`; the first argument bounds their number. A code segment's count is in bundles of 16
bytes. -/
def segsFrom (m : List Byte) (code : Bool) (end_ : Nat) : Nat → Nat → Option (List Seg)
  | 0, pos => if pos = end_ then some [] else none
  | n + 1, pos =>
    if pos = end_ then some []
    else
      let c := leAt m pos 4
      let size := if code then 16 * c else c
      let stop := pos + 16 + size
      let ok := decide (1 ≤ c) && (if code then decide (c ≤ 1024) && zeros m (pos + 4) 12 else zeros m (pos + 8) 8) &&
        decide (align64 stop ≤ end_) && zeros m stop (align64 stop - stop)
      if ok then (segsFrom m code end_ n (align64 stop)).map fun l => ⟨c, if code then 0 else leAt m (pos + 4) 4, pos + 16⟩ :: l
      else none

def imSegs (m : List Byte) (kind : Nat) : Option (List Seg) :=
  match imSect m kind 0 with
  | some k => segsFrom m (decide (kind = 3)) (k.off + k.len) (k.len / 64) k.off
  | none => some []

/-- A CORES record (Table 5.6). -/
structure CoreCfg where
  code : Nat
  act : Nat
  part : Nat
  beam : Nat
  freq : Nat
  arb : Nat
  yield_ : Nat
  start : Nat
  deriving DecidableEq, Repr

def coreCfg (r : List Byte) : CoreCfg :=
  ⟨leAt r 0 4, leAt r 4 4, leAt r 8 4, leAt r 12 4, leAt r 16 1, leAt r 17 1, leAt r 18 1, leAt r 20 2⟩

def shapeCores (m : List Byte) (k : Nat) : Nat := (imShape m k).foldl (fun a g => a + g.1) 0

/-- The position in a shape's CORES section of a region's first record. -/
def regionStart (m : List Byte) (k region : Nat) : Nat := ((imShape m k).take region).foldl (fun a g => a + g.1) 0

/-- The record of a region-local core. -/
def imCore (m : List Byte) (k region idx : Nat) : CoreCfg :=
  match imSect m 5 k with
  | some t => coreCfg (secRec m t 32 (regionStart m k region + idx))
  | none => ⟨0, 0, 0, 0, 0, 0, 0, 0⟩

def noSeg : Nat := 0xFFFFFFFF

def coreRecOk (r : List Byte) (ncode ndata : Nat) : Bool :=
  let c := coreCfg r
  let data (x : Nat) : Bool := decide (x = noSeg) || decide (x < ndata)
  decide (c.code < ncode) && data c.act && data c.part && data c.beam && decide (64 ≤ c.freq) && decide (c.freq ≤ 232) &&
  decide (c.arb < 8) && zeros r 19 1 && decide (c.start ≤ 1023) && zeros r 22 10

/-- A relocation record (Table 5.7). -/
structure Reloc where
  kind : Nat
  ss : Nat
  off : Nat
  atRegion : Nat
  atIndex : Nat
  tgtRegion : Nat
  tgtIndex : Nat
  /-- object or parameter number -/
  number : Nat
  engine : Nat
  deriving DecidableEq, Repr

def relocOf (r : List Byte) : Reloc :=
  let w := leAt r 0 16
  ⟨bits w 0 4, bits w 4 3, bits w 8 19, bits w 32 8, bits w 40 24, bits w 64 8, bits w 72 24, bits w 64 32, bits w 96 6⟩

/-- The records of a section without count, its padding left out: at most `pad` all-zero records at the end. -/
def openRecs (m : List Byte) (k : Option Sect) (n pad : Nat) : List (List Byte) :=
  match k with
  | some k =>
    let l := tabulate (k.len / n) fun i => secRec m k n i
    let z := min pad ((l.reverse.takeWhile fun r => zeros r 0 n).length)
    l.take (l.length - z)
  | none => []

def imRelocs (m : List Byte) (k : Nat) : List (List Byte) := openRecs m (imSect m 6 k) 16 3

/-- A PLACE record (Table 9.6). -/
structure PlaceRun where
  shard : Nat
  src : Nat
  lines : Nat
  index : Nat
  region : Nat
  dst : Nat
  deriving DecidableEq, Repr

def placeOf (r : List Byte) : PlaceRun := ⟨leAt r 0 4, leAt r 4 4, leAt r 8 4, leAt r 12 3, leAt r 15 1, leAt r 16 4⟩
def imPlaceRecs (m : List Byte) (k : Nat) : List (List Byte) := openRecs m (imSect m 7 k) 32 1
def imPlaces (m : List Byte) (k : Nat) : List PlaceRun := (imPlaceRecs m k).map placeOf

/-! ## Checks on records -/

/-- Bytes of the beam, activation and partial windows. -/
def windowEnd (ss : Nat) : Nat := if ss = 0 then 0x66000 else if ss = 1 then 0xC000 else if ss = 2 then 0x8000 else 0

/-- A run of the beam store lies wholly in its data window or wholly in its scale window. -/
def beamRunOk (off n : Nat) : Bool := decide (off + n ≤ 0x60000) || (decide (0x60000 ≤ off) && decide (off + n ≤ 0x66000))

def hasCore (m : List Byte) (k region idx : Nat) : Bool := decide (idx < ((imShape m k).getD region (0, 0, 0)).1)

/-- What the check knows of the load: shards as (kind, length, used here), chain length, own position, creel extents. -/
structure ImEnv where
  shards : List (Nat × Nat × Bool)
  chainLen : Nat
  position : Nat
  extents : Nat

/-- A selvedge object that a relocation may name (Table 6.10). -/
def objectOk (n extents : Nat) : Bool :=
  let cls := n / 65536
  let side := bits n 12 4
  let idx := bits n 0 12
  if cls = 1 then decide (side < 4) && decide (idx < 4)
  else if cls = 2 then decide (side < 4) && decide (idx = 0)
  else if cls = 3 then decide (side < 4) && decide (idx < 512)
  else if cls = 5 then decide (side = 0) && decide (idx < extents)
  else false

def relocOk (m : List Byte) (k : Nat) (v : ImEnv) (r : List Byte) : Bool :=
  let w := leAt r 0 16
  let c := relocOf r
  decide (bits w 7 1 = 0) && decide (bits w 27 5 = 0) && decide (bits w 102 26 = 0) && decide (c.ss < 3) &&
  decide (c.off % 8 = 0) && decide (c.off + 8 ≤ windowEnd c.ss) && hasCore m k c.atRegion c.atIndex &&
  (if c.kind = 1 then decide (c.engine < v.chainLen) && (decide (c.engine ≠ v.position) || hasCore m k c.tgtRegion c.tgtIndex)
   else if c.kind = 2 then objectOk c.number v.extents
   else if c.kind = 3 then decide (c.number ≤ 5)
   else false)

def placeOk (m : List Byte) (k : Nat) (v : ImEnv) (r : List Byte) : Bool :=
  let p := placeOf r
  let s := v.shards.getD p.shard (0, 0, false)
  decide (s.1 = 2) && s.2.2 && decide (p.src % 32 = 0) && decide (1 ≤ p.lines) && decide (p.lines ≤ 13056) &&
  decide (p.src + 32 * p.lines ≤ s.2.1) && hasCore m k p.region p.index && decide (p.dst % 32 = 0) &&
  beamRunOk p.dst (32 * p.lines) && zeros r 20 12

/-- Runs of different cores, or apart on one core. -/
def runsApart (a b : PlaceRun) : Bool :=
  decide (a.region ≠ b.region) || decide (a.index ≠ b.index) || decide (a.dst + 32 * a.lines ≤ b.dst) ||
  decide (b.dst + 32 * b.lines ≤ a.dst)

/-- The first and last beam row that a run of `n` bytes touches, in its data or its scale fields (Table 2.6). -/
def beamRows (off n : Nat) : Nat × Nat :=
  if off < 0x60000 then (off / 256, (off + n - 1) / 256) else ((off - 0x60000) / 16, (off + n - 1 - 0x60000) / 16)

/-- A data segment of the beam store is clear of the weight rows of its core (log entry 46). -/
def clearOfRuns (runs : List PlaceRun) (region idx off n : Nat) : Bool :=
  let a := beamRows off n
  runs.all fun p => decide (p.region ≠ region) || decide (p.index ≠ idx) ||
    (let b := beamRows p.dst (32 * p.lines); decide (a.2 < b.1) || decide (b.2 < a.1))

def segFits (segs : List Seg) (x ss : Nat) : Bool :=
  decide (x = noSeg) ||
  let g := segs.getD x ⟨0, 0, 0⟩
  if ss = 0 then beamRunOk g.at_ g.count else decide (g.at_ + g.count ≤ windowEnd ss)

/-- Every core's data segments lie in their windows and clear of its weight rows. -/
def coresFit (m : List Byte) (k : Nat) (segs : List Seg) : Bool :=
  let runs := imPlaces m k
  (imShape m k).zipIdx.all fun g => (List.range g.1.1).all fun i =>
    let c := imCore m k g.2 i
    segFits segs c.act 1 && segFits segs c.part 2 && segFits segs c.beam 0 &&
    (decide (c.beam = noSeg) ||
      let t := segs.getD c.beam ⟨0, 0, 0⟩
      clearOfRuns runs g.2 i t.at_ t.count)

/-! ## TENSORS records (R139) -/

def tnCounts (m : List Byte) (k : Nat) : Nat × Nat × Nat :=
  match imSect m 8 k with
  | some t => (leAt m t.off 4, leAt m (t.off + 4) 4, leAt m (t.off + 8) 4)
  | none => (0, 0, 0)

def tnRecs (m : List Byte) (k off n count : Nat) : List (List Byte) :=
  match imSect m 8 k with
  | some t => tabulate count fun i => (m.drop (t.off + off + n * i)).take n
  | none => []

def imTensors (m : List Byte) (k : Nat) : List (List Byte) := tnRecs m k 16 32 (tnCounts m k).1
def imKvRecs (m : List Byte) (k : Nat) : List (List Byte) := tnRecs m k (16 + 32 * (tnCounts m k).1) 48 (tnCounts m k).2.1
def imAdRecs (m : List Byte) (k : Nat) : List (List Byte) :=
  tnRecs m k (16 + 32 * (tnCounts m k).1 + 48 * (tnCounts m k).2.1) 32 (tnCounts m k).2.2

/-- Header and record sizes of a TENSORS section, and every reserved bit of it. -/
def tensorsForm (m : List Byte) (k : Nat) : Bool :=
  match imSect m 8 k with
  | some t =>
    let n := tnCounts m k
    decide (n.1 ≤ 65535) && decide (n.2.1 ≤ 256) && decide (n.2.2 ≤ 256) && zeros m (t.off + 12) 4 &&
    decide (16 + 32 * n.1 + 48 * n.2.1 + 32 * n.2.2 ≤ t.len) &&
    (imTensors m k).all (fun r => decide (leAt r 4 1 < 32) && zeros r 17 1 && zeros r 20 12) &&
    (imKvRecs m k).all (fun r => zeros r 40 8) && (imAdRecs m k).all fun r => zeros r 18 14
  | none => true

/-- Everything of one shape but what its TENSORS records say. -/
def imShapeChecks (m : List Byte) (v : ImEnv) (k : Nat) : Bool :=
  match imSegs m 3, imSegs m 4 with
  | some code, some data =>
    imShapeOk m k && secHolds (imSect m 5 k) 32 (shapeCores m k) &&
    (secRecs m (imSect m 5 k) 32 (shapeCores m k)).all (fun r => coreRecOk r code.length data.length) &&
    (imRelocs m k).all (relocOk m k v) && (imPlaceRecs m k).all (placeOk m k v) && pairwise runsApart (imPlaces m k) &&
    coresFit m k data && tensorsForm m k
  | _, _ => false

/-- The checks of the image that need no placement (R136–R138, R236). -/
def imageOk (m : List Byte) (v : ImEnv) : Bool :=
  imHeaderOk m && imRegionsOk m && (List.range (imShapes m)).all fun k => imShapeChecks m v k

/-! ## TENSORS of the chosen shape (R139) -/

def kvGeomOf (r : List Byte) : KvGeom where
  region := leAt r 0 2
  heads := leAt r 2 2
  lanes := leAt r 4 4
  framesHi := leAt r 8 2
  framesLo := leAt r 10 2
  lanesHi := leAt r 12 4
  frameBase := leAt r 16 4
  frameStride := leAt r 20 4
  mapBase := leAt r 24 4
  mapLen := leAt r 28 4
  wlBase := leAt r 32 4
  wlStride := leAt r 36 4

def adGeomOf (r : List Byte) : AdapterGeom where
  region := leAt r 0 2
  frames := leAt r 2 2
  frameBase := leAt r 4 4
  frameStride := leAt r 8 4
  frameBytes := leAt r 12 4
  rankMax := leAt r 16 1
  fmt := leAt r 17 1

def tensorOk (m : List Byte) (r : List Byte) : Bool :=
  let kind := leAt r 5 1
  decide (1 ≤ bits (leAt r 4 1) 0 4) && decide (bits (leAt r 4 1) 0 4 ≤ 12) && decide (kind ≤ 7) && decide (leAt r 6 2 < imRegions m) &&
  (if kind ∈ [1, 2, 6] then decide (leAt r 16 1 ∈ [8, 16, 32, 64]) else decide (leAt r 16 1 = 0))

def kvOk (m : List Byte) (k : Nat) (r : List Byte) : Bool :=
  let g := kvGeomOf r
  decide (g.region < imRegions m) && decide (1 ≤ g.heads) && decide (g.heads ≤ 256) && decide (1 ≤ g.lanes) &&
  decide (g.heads * g.lanes ≤ ((imShape m k).getD g.region (0, 0, 0)).1) && decide (g.lanesHi ≤ g.lanes) &&
  decide (g.frameStride % 32 = 0) && decide (g.frameBase + max g.framesHi g.framesLo * g.frameStride ≤ 0x60000) &&
  decide (g.mapBase < 2 ^ 20) && decide (bits g.mapBase 0 19 + 8 * g.mapLen ≤ windowEnd (bits g.mapBase 19 3))

def adOk (m : List Byte) (r : List Byte) : Bool :=
  let g := adGeomOf r
  decide (g.region < imRegions m) && decide (g.frames ≤ 256) && decide (8 ≤ g.rankMax) && decide (g.rankMax ≤ 64) &&
  (decide (g.fmt = 6) || decide (g.fmt = 0xA)) &&
  (decide (g.frames = 0) || decide (g.frameBase + (g.frames - 1) * g.frameStride + g.frameBytes ≤ 0x60000))

def tensorsOk (m : List Byte) (k : Nat) : Bool :=
  (imTensors m k).all (tensorOk m) && decide ((imTensors m k).map fun r => leAt r 0 4).Nodup && (imKvRecs m k).all (kvOk m k) &&
  decide ((imKvRecs m k).map fun r => leAt r 0 2).Nodup && (imAdRecs m k).all (adOk m) &&
  decide ((imAdRecs m k).map fun r => leAt r 0 2).Nodup

/-! ## Placement (R132, R133) -/

/-- A skein of a bolt's grid: the virtual number of its first site, and its sites, spare left out. -/
abbrev Grid := List (Nat × List Nat)

/-- The sites of a skein with their virtual numbers. -/
def numbered (k : Nat × List Nat) : List (Nat × Nat) := k.2.zipIdx k.1

/-- Whole skeins for `n` cores: the cores taken, each with its virtual number, and the skeins after them. -/
def takeCores : Nat → Grid → Option (List (Nat × Nat) × Grid)
  | 0, g => some ([], g)
  | _ + 1, [] => none
  | n + 1, k :: g => (takeCores (n + 1 - k.2.length) g).map fun q => ((numbered k).take (n + 1) ++ q.1, q.2)

/-- Skeins of the grid that hold a site. -/
def Grid.usable (g : Grid) : Grid := g.filter fun k => !k.2.isEmpty

/-- Regions placed in order: per region its cores, each with its virtual number. -/
def placeRegions : List Nat → Grid → Option (List (List (Nat × Nat)))
  | [], _ => some []
  | n :: r, g => match takeCores n g with
    | some (l, g') => (placeRegions r g').map fun q => l :: q
    | none => none

/-- The first shape in image order that fits, with its placement (R133). -/
def chooseShape (m : List Byte) (g : Grid) : Option (Nat × List (List (Nat × Nat))) :=
  (List.range (imShapes m)).findSome? fun k =>
    (placeRegions ((imShape m k).map fun x => x.1) g.usable).map fun q => (k, q)

/-- Σ A × f over the occupied cores (R131). -/
def imCharge (m : List Byte) (k : Nat) : Nat :=
  (imShape m k).zipIdx.foldl (fun a g => (List.range g.1.1).foldl (fun a i => a + g.1.2.1 * (imCore m k g.2 i).freq) a) 0

/-- The harness core and watch core of each region, from the relocations that name a harness mailbox: the core that holds
the first such word, else local core 0 and harness core 0 of the home side (log entry 24). -/
def imWatch (m : List Byte) (k homeSide : Nat) (place : List (List Nat)) : List (Nat × Nat) :=
  place.zipIdx.map fun g =>
    match ((imRelocs m k).map relocOf).find? fun c => decide (c.kind = 2) && decide (c.number / 65536 = 1) && decide (c.atRegion = g.2) with
    | some c => (g.1.getD c.atIndex 0, 4 * bits c.number 12 4 + bits c.number 0 12)
    | none => (g.1.getD 0 0, 4 * homeSide)

end Sys2Proof.Machine
end

