-- ==== Sys2Proof/Machine/CoreCtl.lean ====
section
/-! DEFINITION. Core control, channel status, scrub, heartbeat, arbitration and the core's own events (R38–R41, R56–R59,
R64, R66–R69, R129, R389). -/

namespace Sys2Proof.Machine

open Sys2Proof

/-! ## CORE_CTRL (R40, Table 2.13) -/

def CoreRec.setStart (r : CoreRec) (b : Nat) : CoreRec := { r with startBundle := b % 1024 }

/-- Entry into RUN at a bundle: the balance is the burst (R128), no marker has executed since IDLE (R45), no loop is
active and nothing of an earlier program is in flight. -/
def CoreRec.enterRun (r : CoreRec) (burst : Nat) : CoreRec :=
  { r with
    st := .run
    pc := r.startBundle
    balance := 64 * burst
    sliceRot := 0
    stallRun := 0
    clampReported := false
    freezeCause := 0
    wait := none
    dp := { r.dp with loops := [], pend := [], ports := [], writes := [], int3 := none, lastSf := none, lastRot := none } }

/-- CORE_CTRL.go: an IDLE core starts issuing; other states ignore it. -/
def State.coreGo (s : State) (c : Nat) : State :=
  s.modCore c fun r => if r.st = .idle then r.enterRun (s.coreEnv c).burst else r

def State.coreStart (s : State) (c start : Nat) : State := s.modCore c fun r => r.setStart start

def execCoreCtrlGo (c start : Nat) (s : State) : Out :=
  onCore c s fun s => (s.coreStart c start).coreGo c

/-- A frozen core's operations in flight are discarded. -/
def CoreRec.discardFlight (r : CoreRec) : CoreRec :=
  { r with dp := { r.dp with pend := [], ports := [], writes := [], int3 := none } }

/-- CORE_CTRL.halt: from RUN or WAIT the operations in flight complete first; from FROZEN they are discarded. -/
def Cx.ctrlHalt (x : Cx) (env : Env) : Cx :=
  if x.r.st = .run ∨ x.r.st = .wait then
    (x.drain env).mod fun r => if r.st = .frozen then r else { r with st := .idle, wait := none }
  else if x.r.st = .frozen then
    x.mod fun r => { r.discardFlight with st := .idle, freezeCause := 0, wait := none }
  else x

def State.coreHalt (s : State) (c : Nat) : State := s.onCx c fun x => x.ctrlHalt (s.coreEnv c)

def execCoreCtrlHalt (c start : Nat) (s : State) : Out :=
  onCore c s fun s => (s.coreStart c start).coreHalt c

/-! ## Scrub (R41, R68) -/

def CoreRec.kept (r : CoreRec) (row : Nat) : Bool := (Tab.get 0 r.scrubKeep (row / 64)).getLsbD (row % 64)

/-- The beam row of a data or scale-field offset. -/
def rowOf (off : Nat) : Nat := if off < 0x60000 then off / 256 else (off - 0x60000) / 16

/-- Every word zero with valid ECC, but for the kept beam rows, which stay as they are. -/
def CoreRec.scrubbed (r : CoreRec) : Stores :=
  { beam := r.stores.beam.filter fun e => r.kept (rowOf e.1)
    act := []
    part := []
    inst := []
    ecc := r.stores.ecc.filter fun e => decide (e.1 < 2 ^ 20) && r.kept (rowOf (16 * e.1))
    writeBack := r.stores.writeBack.filter fun row => r.kept row }

/-- Entry into SCRUBBING: the stores are zeroed, and the performance counters and their registers cleared (R387). -/
def CoreRec.enterScrub (r : CoreRec) : CoreRec :=
  { r.discardFlight with
    st := .scrubbing
    freezeCause := 0
    wait := none
    stores := r.scrubbed
    perf := []
    pcOvf := 0
    pcSample := 0
    pcSampleDst := 0
    sinceSample := 4096 }

def State.coreScrub (s : State) (c : Nat) : State :=
  s.modCore c fun r => if r.st = .idle ∨ r.st = .frozen then r.enterScrub else r

def execCoreCtrlScrub (c start : Nat) (s : State) : Out :=
  onCore c s fun s => (s.coreStart c start).coreScrub c

/-- Leaving SCRUBBING for IDLE: accumulators (R44), scale latch (R103), tree slots (R118), tally (R182), channels (R66),
credit counters and grant records (R166, R167) are as after reset. DESIGN CHOICE (log entry 75): the channels' discarded and
yield counts go with the channels. -/
def CoreRec.leaveScrub (r : CoreRec) : CoreRec :=
  { r with
    st := .idle
    chans := []
    credits := []
    grants := []
    exhausted := []
    rx := []
    sliceRot := 0
    denied := []
    dp := { r.dp with
      acc := [], accVis := [], accSeq := [], latch := none, int3 := none, tree := [], tally := 0, loops := [],
      pend := [], ports := [], writes := [] } }

/-! ## The commit of the core control block (R16, R69) -/

/-- What a commit of these shadows is rejected for (R69). DESIGN CHOICE (log entry 75): the window of the beam store is that of
store select 000, data and scale fields. -/
def coreCommitBad (frameMap frameGeom : Nat) : Bool :=
  let ss := bits frameMap 19 3
  let stride := bits frameGeom 19 19
  let frames := bits frameGeom 38 20
  decide (ss ≠ 0 ∧ ss ≠ 1) ||
  decide (bits frameMap 0 19 + 8 * bits frameMap 22 24 > storeEnd ss) ||
  decide (stride = 0 ∧ frames ≠ 0) || decide (stride % 32 ≠ 0) ||
  decide (bits frameGeom 0 19 + frames * stride > 0x60000)

def Cx.commit (x : Cx) : Cx :=
  if coreCommitBad x.r.frameMapSh.toNat x.r.frameGeomSh.toNat then x.say 0x1F 1 0xFF8
  else x.mod fun r => { r with arb := r.arbSh, frameMap := r.frameMapSh, frameGeom := r.frameGeomSh }

def execCoreCommit (c : Nat) (s : State) : Out := onCore c s fun s => s.onCx c Cx.commit

/-! ## CHAN_STATUS (R64, R66) -/

/-- CHAN_STATUS.clear: ERROR or MISS returns to idle and the queue is discarded. -/
def CoreRec.clearChan (r : CoreRec) (ch : Nat) : CoreRec :=
  let k := r.chan ch
  if k.state = .error ∨ k.state = .miss then r.setChan ch { k with state := .idle, queue := [], active := none } else r

def execChanStatusClear (c ch : Nat) (s : State) : Out :=
  onUnit (decide (c < Config.nCores) && decide (ch < 16)) s fun s => s.modCore c fun r => r.clearChan ch

/-- CHAN_STATUS.resume: a channel in MISS retries the walk at the recorded entry. -/
def Cx.resumeChan (v : ShEnv) (x : Cx) (ch : Nat) : Cx :=
  if (x.r.chan ch).state = .miss ∧ shuttleOn x.r = true then
    (x.mod fun r => r.setChan ch { r.chan ch with state := .active, mismatch := false }).run v ch
  else x

def execChanStatusResume (c ch : Nat) (s : State) : Out :=
  onUnit (decide (c < Config.nCores) && decide (ch < 16)) s fun s => s.onCx c fun x => x.resumeChan (s.shEnv c) ch

/-! ## Heartbeat (R38) -/

/-- The states in which a core sends heartbeats and its monitor expects them. -/
def beating (st : CoreSt) : Bool :=
  decide (st = .idle) || decide (st = .run) || decide (st = .wait) || decide (st = .frozen) || decide (st = .scrubbing)

/-- The skein's islands run: no undervoltage gate holds its clocks (R351), and no trip has stopped them (R373). -/
def State.clocked (s : State) (k : Nat) : Bool := (s.skein k).gate.isNone && !s.thermal.trip

/-- The address of a skein's monitor: its corner core (R390; log entry 19). -/
def State.monitorAddr (s : State) (k : Nat) : Nat :=
  gaMake s.engineNo (skeinY k * 8) (skeinX k * 8) 0

/-- A live core sends a BEAT to its skein monitor. -/
def execHeartbeat (c : Nat) (s : State) : Out :=
  onCore c s fun s => whenS (beating (s.core c).st && s.clocked (skeinOf c)) s fun s =>
    s.onCx c fun x =>
      ((x.mod fun r => { r with heartbeats := r.heartbeats + 1 }).send
        (blankFlit .beat 0 (s.monitorAddr (skeinOf c)))).perfEvent 0x0E

/-! ## Arbitration (R56) -/

/-- The limit of denied cycles. -/
def CoreRec.yieldCycles (r : CoreRec) : Nat := 16 * bits r.arb.toNat 8 8

/-- A yield is counted at the channel served; one to a remote access is at no channel. -/
def CoreRec.countYield (r : CoreRec) : Option Nat → CoreRec
  | some ch => r.setChan ch { r.chan ch with yields := satAdd 8 (r.chan ch).yields 1 }
  | none => r

/-- The shuttle, denied for 16 × yield_limit consecutive cycles, wins one cycle; a datapath that issues waits (R39). -/
def execArbitrationYield (c store : Nat) (s : State) : Out :=
  onUnit (decide (c < Config.nCores) && decide (store < 3)) s fun s => s.onCx c fun x =>
    let w := x.r.wanting (s.shEnv c) store
    if (w.isSome = true ∨ s.remoteAsks c store = true) ∧ x.r.st = .run ∧ x.r.yieldCycles ≠ 0 ∧
        x.r.yieldCycles ≤ Tab.get 0 x.r.denied store then
      (x.mod fun r => { r.countYield w with
        denied := Tab.put 0 r.denied store 0
        balance := min (64 * (s.coreEnv c).burst) (r.balance + (s.coreEnv c).eff) }).perfCycle [0x07]
    else x

/-! ## The governor's report and counter wraps (R129, R389) -/

/-- A core stalled by its governor for more than 4,096 consecutive cycles reports once until it re-enters RUN. -/
def execBudgetClamp (c : Nat) (s : State) : Out :=
  onCore c s fun s => s.onCx c fun x =>
    if 4096 < x.r.stallRun ∧ x.r.clampReported = false then
      (x.mod fun r => { r with clampReported := true }).say 0x06 1 0
    else x

/-- A counter at 2^48 − 1 that runs takes one more event and wraps. -/
def execCounterWrap (c k : Nat) (s : State) : Out :=
  onUnit (decide (c < Config.nCores) && decide (k < 4)) s fun s => s.onCx c fun x =>
    let p := perfCtr x.r k
    if p.cnt = 2 ^ 48 - 1 ∧ p.cfg.getLsbD 10 = true ∧ x.r.st ≠ .off then x.bump k else x

/-! ## The core control block as its words (Table 2.10, Tables 2.11–2.19a, 16.7) -/

/-- Parts of a frequency code in which every interpolated point of Table 2.2 is a whole number. -/
def freqParts : Nat := 5600

/-- The guaranteed frequency at a VCORE given in half millivolts, in parts of a code of 6.25 MHz: exact (Table 2.2,
interpolated). -/
def guaranteed (hv : Nat) : Nat :=
  let seg (v0 f0 v1 f1 : Nat) : Nat := f0 + (f1 - f0) * (hv - v0) / (v1 - v0)
  if hv ≤ 1100 then 358400
  else if hv ≤ 1200 then seg 1100 358400 1200 555520
  else if hv ≤ 1300 then seg 1200 555520 1300 761600
  else if hv ≤ 1440 then seg 1300 761600 1440 1075200
  else if hv ≤ 1600 then seg 1440 1075200 1600 1209600
  else if hv ≤ 1760 then seg 1600 1209600 1760 1299200
  else 1299200

/-- The present VCORE of a skein in half millivolts: the sample of a droop, else 2.5 mV for each step of its code (R346). -/
def State.vcoreHalf (s : State) (k : Nat) : Nat :=
  match (s.skein k).sag with
  | some mv => min (2 * mv) (bits (s.skein k).ctrl.toNat 0 9 * 5)
  | none => bits (s.skein k).ctrl.toNat 0 9 * 5

/-- The frequency code of a core's island, rounded down once: target, replica and stretch, never below 64 (R36, R37, R67). The
replica's margin over the guarantee is a free value. -/
def State.freqNow (s : State) (c : Nat) : Nat :=
  let r := s.core c
  let hv := s.vcoreHalf (skeinOf c)
  let replica := guaranteed hv + Config.replicaMargin c hv (s.skein (skeinOf c)).used
  max 64 (min (freqParts * r.freqTarget) replica * 16 / ((16 + r.stretch) * freqParts))

def CoreSt.code : CoreSt → Nat
  | .off => 0
  | .idle => 1
  | .run => 2
  | .wait => 3
  | .frozen => 4
  | .scrubbing => 5
  | .fenced => 6
  | .dead => 7

def ChanSt.code : ChanSt → Nat
  | .idle => 0
  | .active => 1
  | .miss => 2
  | .error => 3

def Chan.word (k : Chan) : Nat :=
  k.state.code + (k.held <<< 2) + (boolNat k.mismatch <<< 7) + (k.entry <<< 8) + (k.discarded <<< 32) + (k.yields <<< 40)

/-- The value of a word of the core control block, and the block after the read: RC fields are cleared (R15). -/
def State.ccbRead (s : State) (c off : Nat) : Nat × CoreRec :=
  let r := s.core c
  if off % 8 ≠ 0 then (0, r)
  else if off = 0x000 then (coreX c + (coreY c <<< 9), r)
  else if off = 0x008 then (r.st.code + (r.freezeCause <<< 8) + ((r.pc % 1024) <<< 16), r)
  else if off = 0x010 then (r.startBundle <<< 4, r)
  else if off = 0x018 then (r.freqTarget + (r.stretch <<< 8) + (s.freqNow c <<< 16), r)
  else if off = 0x020 then (r.arb.toNat, r)
  else if off = 0x028 then (r.frameMap.toNat, r)
  else if off = 0x030 then (r.frameGeom.toNat, r)
  else if off = 0x038 then (r.sliceRot, r)
  else if off = 0x040 then (r.heartbeats.toNat, r)
  else if 0x080 ≤ off ∧ off < 0x100 then
    let ch := (off - 0x080) / 8
    ((r.chan ch).word, r.setChan ch { r.chan ch with discarded := 0, yields := 0 })
  else if off = 0x100 then (packFields 16 4 fun i => Tab.get 0 r.eccCorr i, { r with eccCorr := [] })
  else if off = 0x108 then (r.eccLastAddr + (boolNat r.eccLastValid <<< 22), r)
  else if 0x140 ≤ off ∧ off < 0x160 then ((perfCtr r ((off - 0x140) / 8)).cfg.toNat, r)
  else if 0x160 ≤ off ∧ off < 0x180 then ((perfCtr r ((off - 0x160) / 8)).cnt, r)
  else if off = 0x180 then (r.pcOvf.toNat, r)
  else if off = 0x188 then (r.pcSample.toNat, { r with pcSample := BitVec.ofNat 29 (bits r.pcSample.toNat 0 13) })
  else if off = 0x190 then (r.pcSampleDst.toNat, r)
  else if off = 0x200 then (r.forceMsg.toNat, r)
  else if off = 0x208 then (boolNat r.forceGo, r)
  else if 0x400 ≤ off ∧ off < 0x4C0 then ((Tab.get 0 r.scrubKeep ((off - 0x400) / 8)).toNat, r)
  else (0, r)

/-- A harness write of a word of the core control block. DESIGN CHOICE (log entry 75): of CORE_CTRL bits written at once, go
acts first, then halt, then scrub. -/
def State.ccbWrite (s : State) (c off v : Nat) : State :=
  if off = 0x010 then
    let s := s.coreStart c (bits v 4 10)
    let s := if bitAt v 0 then s.coreGo c else s
    let s := if bitAt v 1 then s.coreHalt c else s
    if bitAt v 2 then s.coreScrub c else s
  else if 0x080 ≤ off ∧ off < 0x100 then
    let ch := (off - 0x080) / 8
    let s := if bitAt v 5 then s.modCore c fun r => r.clearChan ch else s
    if bitAt v 6 then s.onCx c fun x => x.resumeChan (s.shEnv c) ch else s
  else if off = 0xFF8 then if bitAt v 0 then s.onCx c Cx.commit else s
  else s.modCore c fun r =>
    if off = 0x018 then { r with freqTarget := max 64 (min 232 (bits v 0 8)), stretch := bits v 8 4 }
    else if off = 0x020 then { r with arbSh := BitVec.ofNat 16 (bits v 0 3 + (bits v 8 8 <<< 8)) }
    else if off = 0x028 then { r with frameMapSh := BitVec.ofNat 64 (bits v 0 46) }
    else if off = 0x030 then { r with frameGeomSh := BitVec.ofNat 64 (bits v 0 58) }
    else if off = 0x108 then { r with eccLastValid := r.eccLastValid && !bitAt v 22 }
    else if 0x140 ≤ off ∧ off < 0x160 then
      let k := (off - 0x140) / 8
      let m := if k % 2 = 1 then bits v 0 12 else setBits (bits v 0 12) 9 1 0
      setPerfCtr r k { perfCtr r k with cfg := BitVec.ofNat 12 m }
    else if 0x160 ≤ off ∧ off < 0x180 then
      let k := (off - 0x160) / 8
      setPerfCtr r k { perfCtr r k with cnt := bits v 0 48 }
    else if off = 0x180 then { r with pcOvf := r.pcOvf &&& ~~~(BitVec.ofNat 4 v) }
    else if off = 0x188 then
      { r with pcSample := if bitAt v 12 then BitVec.ofNat 29 (setBits r.pcSample.toNat 12 1 0) else r.pcSample }
    else if off = 0x190 then { r with pcSampleDst := BitVec.ofNat 47 v }
    else if off = 0x200 then { r with forceMsg := BitVec.ofNat 64 v }
    else if off = 0x208 then { r with forceGo := r.forceGo || bitAt v 0 }
    else if 0x400 ≤ off ∧ off < 0x4C0 then
      if r.st = .scrubbing then r else { r with scrubKeep := Tab.put 0 r.scrubKeep ((off - 0x400) / 8) (BitVec.ofNat 64 v) }
    else r

end Sys2Proof.Machine
end

