-- ==== Sys2Proof/Machine/Creel.lean ====
section
/-! DEFINITION. Creel ports: checked reads and writes under the owner map, refresh, patrol, rewrites and zero-fill
(R311–R321). -/

namespace Sys2Proof.Machine

open Sys2Proof

/-- Usable bytes of a port (R313). -/
def creelBytes : Nat := Config.creelBlocks * Config.creelBlockBytes

/-- The sources that an owner-map entry accepts (Table 12.5): the harness, and cores by their bolt. -/
def Owner.admits (o : Owner) (harness : Bool) (bolt : Option Nat) : Bool :=
  match o with
  | .system => harness
  | .bolt b => harness || decide (bolt = some b)
  | .clean => false
  | .dirty => false
  | .zeroing => false

def PortRec.owner (r : PortRec) (block : Nat) : Owner := Tab.get .dirty r.owners block
def PortRec.setOwner (r : PortRec) (block : Nat) (o : Owner) : PortRec := { r with owners := Tab.put .dirty r.owners block o }

/-- A line's error detail: port [4:0] and line offset [35:5] (R314). -/
def creelDetail (p line : Nat) : Nat := p + (line <<< 5)

/-- A single-bit error: reported, counted, and the line set down to be rewritten (R314). -/
def State.creelCorrected (s : State) (p line : Nat) : State :=
  (s.modPort p fun r => { r with
    corrected := satAdd 16 r.corrected 1
    rewrite := insertSorted line r.rewrite }).report (srcPort p) 0x10 (creelDetail p line)

/-- A worse error: reported, counted and held in CR_ECC.last; its time counts toward retirement (R314, R322). -/
def State.creelUncorrected (s : State) (p line : Nat) : State :=
  (s.modPort p fun r => { r with
    uncorrected := satAdd 8 r.uncorrected 1
    last := line
    valid := true
    uncorrTimes := s.time :: r.uncorrTimes.filter fun t => s.time < t + 3600000000000 }).report
      (srcPort p) 0x11 (creelDetail p line)

/-- The check of one 64 B line on a read: whether its data can be delivered (R314). -/
def State.creelCheck (s : State) (p line : Nat) : State × Bool :=
  match Tab.get 0 (s.port p).ecc line with
  | 0 => (s, true)
  | 1 => (s.creelCorrected p line, true)
  | _ => (s.creelUncorrected p line, false)

/-- Why a port refuses an access at offset `o` of `n` bytes: Table 6.8's reason, 0 for none, with its report (R171, R313,
R319, R322). -/
def State.creelGate (s : State) (p o n dst : Nat) (harness : Bool) (bolt : Option Nat) : State × Nat :=
  let r := s.port p
  if r.state ≠ 1 then (s, 4)
  else if o + n > creelBytes ∨ o % n ≠ 0 then (s.report (srcPort p) 0x05 (gaLow dst), 2)
  else if (r.owner (o / Config.creelBlockBytes)).admits harness bolt then (s, 0)
  else (s.report (srcPort p) 0x0D (bits dst 19 28), 3)

/-- The check of a line for a foreground access: a lost line is set down for the harness to act on (Table 12.3). -/
def State.creelServe (s : State) (p line : Nat) : State × Bool :=
  let c := s.creelCheck p line
  if c.2 then c else (c.1.modPort p fun r => { r with lost := insertSorted line r.lost }, false)

/-- The first half of a line that no second half has followed: the line is read for its read-modify-write, and checked
(R314, R315). -/
def State.settleHalf (s : State) (p : Nat) : State :=
  match (s.port p).lastHalf with
  | some h => ((s.creelServe p (h.1 / 2)).1).modPort p fun r => { r with lastHalf := none }
  | none => s

/-- 32 B of a line read: the state, the reason and the data; `again`, the line's other half was just read in one access, and
its check stands. -/
def State.creelRead (s : State) (p o dst : Nat) (harness : Bool) (bolt : Option Nat) (again : Bool) : State × Nat × Nat :=
  let g := s.creelGate p o 32 dst harness bolt
  if g.2 ≠ 0 then (g.1, g.2, 0)
  else
    let s := g.1.settleHalf p
    let c := if again then (s, decide (Tab.get 0 (s.port p).ecc (o / 64) < 2)) else s.creelServe p (o / 64)
    if c.2 then (c.1, 0, readLE (c.1.port p).mem o 32) else (c.1, 4, 0)

/-- The bytes of a line written, the line's check codes new where the whole of it stands. -/
def PortRec.store (r : PortRec) (o n v : Nat) (whole : Bool) (half : Option (Nat × Nat)) : PortRec :=
  { r with
    mem := writeLE r.mem o n v
    lastHalf := half
    ecc := if whole then Tab.erase r.ecc (o / 64) else r.ecc
    rewrite := if whole then r.rewrite.filter fun l => l ≠ o / 64 else r.rewrite
    lost := if whole then r.lost.filter fun l => l ≠ o / 64 else r.lost }

/-- A write of 32 or 8 bytes from source `src`. The two halves of a line from one source, one after the other, are one write of
the line; any other write reads the line first, the first half once the next access shows that no second half follows it
(R315). -/
def State.creelWrite (s : State) (p o n v dst src : Nat) (harness : Bool) (bolt : Option Nat) : State × Nat :=
  let g := s.creelGate p o n dst harness bolt
  if g.2 ≠ 0 then g
  else
    let half := o / 32
    let other := if half % 2 = 0 then half + 1 else half - 1
    if n = 32 ∧ (g.1.port p).lastHalf = some (other, src) then (g.1.modPort p fun r => r.store o n v true none, 0)
    else
      let s := g.1.settleHalf p
      if n = 32 then (s.modPort p fun r => r.store o n v false (some (half, src)), 0)
      else
        let c := s.creelServe p (o / 64)
        (c.1.modPort p fun r => r.store o n v c.2 none, 0)

/-- Channel and bank of a byte offset (R318). -/
def creelChannel (o : Nat) : Nat := (o / 64 / 31) % 4
def creelBank (o : Nat) : Nat := (o / 64 / 31 / 4) % 16

/-- The byte offset in a port that a creel address names, with its port (Table 6.9). -/
def creelPortOf (a : Nat) : Nat := (gaY a - 576) / 12
def creelOffset (a : Nat) : Nat := (((gaY a - 576) % 12) * 512 + gaX a) * 2 ^ 22 + gaLow a
def isCreel (a : Nat) : Bool := decide (576 ≤ gaY a) && decide (gaY a < 960)

/-- An access to a bank of a port. -/
def onBank (p ch bank : Nat) (f : Flit) : Bool :=
  isCreel f.dst && decide (creelPortOf f.dst = p) && decide (creelChannel (creelOffset f.dst) = ch) &&
    decide (creelBank (creelOffset f.dst) = bank)

/-- The foreground accesses that wait for a bank of a port. -/
def State.bankQueue (s : State) (p ch bank : Nat) : List Flit :=
  (s.net.filter fun e => decide (e.loc = .ring (p / 8)) && onBank p ch bank e.flit).map fun e => e.flit

/-- A foreground access waits for a bank of a port. -/
def State.creelWaiting (s : State) (p ch bank : Nat) : Bool := !(s.bankQueue p ch bank).isEmpty

/-- A refresh issued at a time holds its bank for 190 ns. -/
def PortRec.refresh (r : PortRec) (ch bank now : Nat) : PortRec :=
  { r with refreshing := Tab.put 0 r.refreshing ch (bank + 1), refreshUntil := Tab.put 0 r.refreshUntil ch (now + 190) }

/-- Accesses that wait for a refresh, each counted once. -/
def PortRec.waits (r : PortRec) (l : List Flit) : PortRec :=
  let new := l.filter fun f => !r.waited.contains f
  { r with waited := r.waited ++ new, refreshWaits := satAdd 32 r.refreshWaits new.length }

/-- A refresh holds the bank that an access needs. -/
def State.bankHeld (s : State) (f : Flit) : Bool :=
  let r := s.port (creelPortOf f.dst)
  let ch := creelChannel (creelOffset f.dst)
  isCreel f.dst && decide (Tab.get 0 r.refreshing ch = creelBank (creelOffset f.dst) + 1) &&
    decide (s.time < Tab.get 0 r.refreshUntil ch)

/-- The refresh due on a bank (R317): postponed behind a waiting access within the limit of 8; otherwise issued, and an
access that met the limit waits for it. With no access waiting the postponed ones are made up. -/
def execCreelRefresh (p ch bank : Nat) (s : State) : Out :=
  onUnit (decide (p < Config.nPorts) && decide (ch < 4) && decide (bank < 16)) s fun s =>
    s.modPort p fun r =>
      let k := ch * 16 + bank
      let owed := Tab.get 0 r.postponed k
      if s.creelWaiting p ch bank then
        if owed < 8 then { r with postponed := Tab.put 0 r.postponed k (owed + 1) }
        else (r.refresh ch bank s.time).waits (s.bankQueue p ch bank)
      else { r.refresh ch bank s.time with postponed := Tab.put 0 r.postponed k 0 }

/-- The top MR4 code of the three bits that CR_TEMP holds, and the highest at the base refresh rate (log entry 21). -/
def mr4Top : Nat := 7
def mr4Base : Nat := 3

/-- The highest MR4 code of a port's channels (Table 12.7). -/
def PortRec.worstMr4 (r : PortRec) : Nat := (List.range 4).foldl (fun a c => max a (Tab.get 0 r.mr4 c)) 0

/-- The wafer time between two refreshes of a channel (R317). -/
def refreshNs (code : Nat) : Nat := if code ≤ mr4Base then 488 else if code < mr4Top then 244 else 122

/-- MR4 of a channel is read; the top code is reported once per excursion (R311, R317). -/
def execMr4Read (p ch code : Nat) (s : State) : Out :=
  onUnit (decide (p < Config.nPorts) && decide (ch < 4) && decide (code < 8)) s fun s =>
    let r := s.port p
    let r := { r with mr4 := Tab.put 0 r.mr4 ch code }
    if r.worstMr4 = mr4Top then
      if r.topReported then s.setPort p r
      else (s.setPort p { r with topReported := true }).report (srcPort p) 0x15 p
    else s.setPort p { r with topReported := false }

/-- A corrected line is rewritten, with valid check codes. -/
def execCreelLineRewrite (p line : Nat) (s : State) : Out :=
  onPort p s fun s => s.modPort p fun r =>
    if line ∈ r.rewrite then { r with ecc := Tab.erase r.ecc line, rewrite := r.rewrite.filter fun l => l ≠ line } else r

/-- A dirty block becomes zero data and FREE_CLEAN. -/
def PortRec.zeroBlock (r : PortRec) (block : Nat) : PortRec :=
  { r.setOwner block .clean with
    mem := clearRange r.mem (block * Config.creelBlockBytes) Config.creelBlockBytes
    ecc := r.ecc.filter fun e => decide (e.1 / 65536 ≠ block)
    lost := r.lost.filter fun l => decide (l / 65536 ≠ block)
    rewrite := r.rewrite.filter fun l => decide (l / 65536 ≠ block) }

def execBlockZeroDone (p block : Nat) (s : State) : Out :=
  onUnit (decide (p < Config.nPorts) && decide (block < Config.creelBlocks)) s fun s => s.modPort p fun r =>
    if r.owner block = .dirty ∨ r.owner block = .zeroing then r.zeroBlock block else r

end Sys2Proof.Machine
end

