-- ==== Sys2Proof/Machine/Pool.lean ====
section
/-! DEFINITION. The creel of a bolt: blocks taken from and given back to the owner map, and what each port must hold of the
bolt's pooled uses (R320, R321); and the request entries as every family uses them: key word, pages, slots, completions
and the ways a request ends (R284–R288, R291). -/

namespace Sys2Proof.Machine

open Sys2Proof

/-! ## Blocks (R319–R321) -/

/-- Blocks of a port that a bolt owns. -/
def PortRec.boltBlocks (r : PortRec) (b : Nat) : List Nat := (r.owners.filter fun e => e.2 = .bolt b).map fun e => e.1

/-- The first run of `n` blocks whose owners all satisfy `p`. -/
def PortRec.findRun (r : PortRec) (n : Nat) (p : Owner → Bool) : Option Nat :=
  (List.range (Config.creelBlocks + 1 - n)).find? fun k => (List.range n).all fun i => p (r.owner (k + i))

/-- The lowest run of FREE_CLEAN blocks; else the lowest run of free blocks, whose dirty ones are zeroed first. -/
def PortRec.freeRun (r : PortRec) (n : Nat) : Option Nat :=
  (r.findRun n fun o => o = .clean).or (r.findRun n fun o => o = .clean || o = .dirty)

/-- Blocks `k, …, k+n-1` become blocks of a bolt: a dirty one reads as zero first (R321). -/
def PortRec.takeBlocks (r : PortRec) (b k n : Nat) : PortRec :=
  (List.range n).foldl (fun r i =>
    (if r.owner (k + i) = .clean then r else r.zeroBlock (k + i)).setOwner (k + i) (.bolt b)) r

/-- A run of `n` blocks for a bolt on a port that is up, within the blocks reserved to the bolt there. -/
def State.allocRun (s : State) (b p n : Nat) : Option (State × Nat) :=
  let r := s.port p
  if r.state = 1 ∧ (r.boltBlocks b).length + n ≤ (s.bolt b).resvPerPort then
    (r.freeRun n).map fun k => (s.setPort p (r.takeBlocks b k n), k)
  else none

/-- The port of a placement modulo 32: where that port is not up, the next one that is (R322; log entry 11). -/
def State.homePort (s : State) (x : Nat) : Nat :=
  (((List.range Config.nPorts).map fun i => (x + i) % Config.nPorts).find? fun p => decide ((s.port p).state = 1)).getD
    (x % Config.nPorts)

/-- A block freed from a bolt enters FREE_DIRTY. -/
def State.freeBlock (s : State) (p k : Nat) : State := s.modPort p fun r => r.setOwner k .dirty

def State.freeBlocks (s : State) (l : List (Nat × Nat)) : State := l.foldl (fun s e => s.freeBlock e.1 e.2) s

/-- Every block of a bolt on every port enters FREE_DIRTY. -/
def State.freeCreel (s : State) (b : Nat) : State :=
  (List.range Config.nPorts).foldl (fun s p => ((s.port p).boltBlocks b).foldl (fun s k => s.freeBlock p k) s) s

/-- Blocks of 4 MiB that a number of bytes takes. -/
def blocksFor (n : Nat) : Nat := (n + Config.creelBlockBytes - 1) / Config.creelBlockBytes

/-- The bytes of a list, laid in the blocks `ks` of a port. -/
def State.fillBlocks (s : State) (p : Nat) : List Nat → List Byte → State
  | [], _ => s
  | k :: ks, bs => State.fillBlocks (s.modPort p fun r =>
      { r with mem := writeBytes r.mem (k * Config.creelBlockBytes) (bs.take Config.creelBlockBytes) })
      p ks (bs.drop Config.creelBlockBytes)

/-! ## Request entries (R284–R286) -/

def ReqRec.kf (r : ReqRec) (lo n : Nat) : Nat := bits r.key.toNat lo n
def ReqRec.st (r : ReqRec) : Nat := r.kf 0 4
def ReqRec.bolt (r : ReqRec) : Nat := r.kf 4 3
def ReqRec.prio (r : ReqRec) : Nat := r.kf 7 3
def ReqRec.slot (r : ReqRec) : Nat := r.kf 10 10
def ReqRec.epoch (r : ReqRec) : Nat := r.kf 20 16
def ReqRec.adapterNo (r : ReqRec) : Option Nat := if r.key.getLsbD 44 then some (r.kf 36 8) else none
def ReqRec.keep (r : ReqRec) : Bool := r.key.getLsbD 45
def ReqRec.defer (r : ReqRec) : Bool := r.key.getLsbD 46
def ReqRec.idsOnly (r : ReqRec) : Bool := r.key.getLsbD 47
def ReqRec.auto (r : ReqRec) : Bool := r.key.getLsbD 48

/-- A field of the key word written, with the complement (R17, R285). -/
def ReqRec.setKey (r : ReqRec) (lo n v : Nat) : ReqRec :=
  let k := BitVec.ofNat 64 (setBits r.key.toNat lo n v)
  { r with key := k, keyInv := ~~~k }

def ReqRec.setSt (r : ReqRec) (v : Nat) : ReqRec := r.setKey 0 4 v
def ReqRec.keyOk (r : ReqRec) : Bool := r.keyInv == ~~~r.key

/-- The states of Table 11.1a. -/
def rqFree : Nat := 0
def rqQueued : Nat := 1
def rqPrefill : Nat := 2
def rqDecode : Nat := 3
def rqHeld : Nat := 4
def rqParked : Nat := 5
def rqAbsent : Nat := 6
def rqDraining : Nat := 7
def rqDone : Nat := 8
def rqCancelled : Nat := 9
def rqFaulted : Nat := 10
def rqRejected : Nat := 11
def noSlot : Nat := 0x3FF

/-- The entry is in use, or set aside for a GENERATE whose inputs are being read (log entry 22). -/
def ReqRec.live (r : ReqRec) : Bool := decide (r.st ≠ 0) || r.intake.isSome

/-- The request still runs or waits: it is not FREE and its final is not pending. -/
def ReqRec.open_ (r : ReqRec) : Bool := decide (1 ≤ r.st) && decide (r.st ≤ 7)

/-- The entries of a bolt, in index order. -/
def State.boltReqs (s : State) (b : Nat) : List Nat :=
  (s.reqs.filter fun e => e.2.live && decide (e.2.bolt = b)).map fun e => e.1

def State.freeEntries (s : State) : Nat := Config.nRequests - (s.reqs.filter fun e => decide (e.2.st ≠ 0)).length

def ReqRec.handle (r : ReqRec) (i : Nat) : Nat := i + (r.gen <<< 16)

/-! ## Epochs of a bolt -/

/-- The epoch of that number, where the bolt holds it. -/
def BoltRec.epochOf (b : BoltRec) (n : Nat) : Option EpochRec :=
  match b.current with
  | some e => if e.num = n then some e else (match b.other with
    | some o => if o.num = n then some o else none
    | none => none)
  | none => match b.other with
    | some o => if o.num = n then some o else none
    | none => none

def BoltRec.modEpoch (b : BoltRec) (n : Nat) (f : EpochRec → EpochRec) : BoltRec :=
  { b with
    current := b.current.map fun e => if e.num = n then f e else e
    other := b.other.map fun e => if e.num = n then f e else e }

def State.reqEpoch (s : State) (r : ReqRec) : EpochRec := ((s.bolt r.bolt).epochOf r.epoch).getD {}

/-! ## Frame maps and work lists (R198–R200) -/

def EpochRec.kv? (e : EpochRec) (region : Nat) : Option KvGeom := e.kvGeom.find? fun g => decide (g.region = region)

/-- The code of a home in frame-map and work-list entries (Table 8.2). -/
def Home.code : Home → Nat
  | .frame => 0
  | .both => 0
  | .creel => 1
  | .absent => 2

/-- The lane cores of a region that hold the frames of a page, one per head group. -/
def EpochRec.pageCores (e : EpochRec) (g : KvGeom) (num : Nat) : List Nat :=
  tabulate g.heads fun h => (e.place.getD g.region []).getD (h * g.lanes + num % g.lanes) 0

/-- A word of a core's store as the harness writes it. -/
def State.pokeCore (s : State) (c ss off n v : Nat) : State :=
  s.modCore c fun r => { r with stores := r.stores.write ss off n v }

/-- The frame-map entry of a page (Table 8.2); the harness's own copy of it with its complement (R199, R200). -/
def KvPage.entry (p : KvPage) : Nat := bits p.frame 0 20 + (p.home.code <<< 20)
def KvPage.sealed (p : KvPage) : KvPage := { p with inv := compl 32 p.entry }
def KvPage.copyOk (p : KvPage) : Bool := decide (p.inv = compl 32 p.entry)

/-- The frame-map entry of a page, with its complement, on every lane core that holds a frame of it. -/
def State.syncPage (s : State) (e : EpochRec) (g : KvGeom) (p : KvPage) : State :=
  let v := p.entry
  (e.pageCores g p.num).foldl (fun s c =>
    s.pokeCore c (bits g.mapBase 19 3) (bits g.mapBase 0 19 + 8 * (p.num / g.lanes)) 8 (v + (compl 32 v <<< 32))) s

/-- The entries of a work list: the pages of one lane, in ascending logical index. -/
def workEntries (lanes lane : Nat) (pages : List KvPage) : List Nat :=
  (pages.zipIdx.filter fun p => decide (p.1.num % lanes = lane)).map fun p =>
    p.2 + (p.1.frame <<< 24) + (p.1.home.code <<< 44)

/-- The place of a slot number among the slots of an epoch's image: 0, 1, …. -/
def EpochRec.slotIx (e : EpochRec) (slot : Nat) : Nat := (indexIn slot e.slotNos 0).getD 0

/-- The work list of a stream slot on every lane core of a region (R200). -/
def State.syncWork (s : State) (e : EpochRec) (g : KvGeom) (slot : Nat) (pages : List KvPage) : State :=
  (List.range (g.heads * g.lanes)).foldl (fun s i =>
    let c := (e.place.getD g.region []).getD i 0
    let l := workEntries g.lanes (i % g.lanes) pages
    let words := l.length :: l
    s.modCore c fun r => { r with stores := words.zipIdx.foldl (fun st w =>
      st.write 1 (g.wlBase + e.slotIx slot * g.wlStride + 8 * w.2) 8 w.1) r.stores }) s

/-- Every page of a KV record leaves its homes: the frame maps show it absent. -/
def State.dropPages (s : State) (e : EpochRec) (region : Nat) (kv : KvRec) : State :=
  match e.kv? region with
  | some g => kv.pages.foldl (fun s p => s.syncPage e g { p with home := .absent }) s
  | none => s

/-! ## Where a request's keys and values are -/

/-- The KV of a request: in its slot, else in its save. -/
def State.reqKv (s : State) (r : ReqRec) : Tab KvRec :=
  if r.slot = noSlot then r.save.getD [] else (Tab.get {} (s.bolt r.bolt).slots (r.slot)).kv

def BoltRec.slotRec (b : BoltRec) (k : Nat) : SlotRec := Tab.get {} b.slots k
def BoltRec.modSlot (b : BoltRec) (k : Nat) (f : SlotRec → SlotRec) : BoltRec :=
  { b with slots := Tab.put {} b.slots k (f (b.slotRec k)) }
def BoltRec.region (b : BoltRec) (k : Nat) : RegionRec := Tab.get {} b.regions k
def BoltRec.setRegion (b : BoltRec) (k : Nat) (g : RegionRec) : BoltRec := { b with regions := Tab.put {} b.regions k g }

def State.setReqKv (s : State) (i : Nat) (kv : Tab KvRec) : State :=
  let r := s.req i
  if r.slot = noSlot then s.setReq i { r with save := some kv }
  else s.modBolt r.bolt fun b => b.modSlot r.slot fun k => { k with kv := kv }

/-- Units of a slot that stand in a bolt's regions vanish: the slot is back at its pick boundary (R22, R253). -/
def BoltRec.abandon (b : BoltRec) (slot : Nat) : BoltRec :=
  let mine (u : Option PUnit) : Option PUnit := u.filter fun u => decide (u.slot ≠ slot)
  { b with
    tops := b.tops.filter fun k => decide (k ≠ slot)
    regions := b.regions.map fun e => (e.1, { e.2 with
      unit := mine e.2.unit, inbox := mine e.2.inbox, chunkOut := Tab.erase e.2.chunkOut slot
      jobs := e.2.jobs.filter fun j => decide (j.slot ≠ slot), job := e.2.job.filter fun j => decide (j.slot ≠ slot) }) }

/-- Synthetic picks (R374) leave their slots, which are zero-filled, as `p` says. -/
def BoltRec.dropSynthetic (b : BoltRec) (p : Nat → Bool) : BoltRec :=
  ((b.slots.filter fun k => k.2.synthetic && p k.1).map fun k => k.1).foldl
    (fun b k => ({ b with slots := Tab.erase b.slots k }).abandon k) b

/-! ## Pooled creel uses (R320) -/

/-- Bytes of a page copy of a region: one frame per head, by the serving constant of a page in all layers. -/
def copyBytes (e : EpochRec) (region : Nat) : Nat :=
  match e.kv? region with
  | some g => e.serve.pageBytes * g.heads / max 1 (e.kvGeom.foldl (fun a h => a + h.heads) 0)
  | none => 0

/-- Pages of a KV record that have a copy in creel. -/
def KvRec.copies (k : KvRec) : List KvPage := k.pages.filter fun p => p.home = .creel || p.home = .both

/-- Uses of a bolt's pool (Table 12.6). -/
inductive PoolUse where
  | log (i : Nat) | save (i : Nat) | page (i region j : Nat) | adapter (k : Nat) | tune
  deriving DecidableEq, Repr

/-- Bytes on a port of `n` bytes that go block by block round-robin over the ports, from a first one on. -/
def State.spread (s : State) (first n p : Nat) : Nat :=
  ((List.range (blocksFor n)).filter fun j => decide (s.homePort (first + j) = p)).foldl (fun a j =>
    a + min Config.creelBlockBytes (n - Config.creelBlockBytes * j)) 0

/-- What one request has on a port: token-log segments, bobbin save and page copies. -/
def State.reqUses (s : State) (p i : Nat) : List (PoolUse × Nat) :=
  let r := s.req i
  let e := s.reqEpoch r
  ((List.range ((r.log.length + 16383) / 16384)).filter fun k => decide (s.homePort (i + k) = p)).map (fun _ =>
    (PoolUse.log i, 65536)) ++
  (if (r.save.getD []).any (fun k => !k.2.bobbin.isEmpty) && decide (s.homePort r.savePort = p) then
    [(PoolUse.save i, e.serve.bobbinBytes)] else []) ++
  (s.reqKv r).flatMap fun k =>
    (k.2.pages.zipIdx.filter fun x => (x.1.home = .creel || x.1.home = .both) &&
      decide (s.homePort (x.1.num + k.1) = p)).map fun x => (PoolUse.page i k.1 x.2, copyBytes e k.1)

/-- The uses on a port with their bytes, in the order in which the model packs them into the bolt's pool blocks there (log
entry 37). -/
def State.usesOn (s : State) (b p : Nat) : List (PoolUse × Nat) :=
  ((s.boltReqs b).flatMap fun i => s.reqUses p i) ++
  ((s.adapters.filter fun a => decide (a.2.bolt = b)).filterMap fun a =>
    let n := s.spread a.1 (a.2.shards.foldl (fun n sh => n + sh.length) 0) p
    if n = 0 then none else some (PoolUse.adapter a.1, n)) ++
  (match (s.bolt b).tune with
    | some t =>
      let n := s.spread t.slot (12 * t.theta.length) p
      if n = 0 then [] else [(PoolUse.tune, n)]
    | none => [])

/-- Bytes that a bolt's pooled uses need on a port. -/
def State.poolBytes (s : State) (b p : Nat) : Nat := (s.usesOn b p).foldl (fun a u => a + u.2) 0

def State.poolNeed (s : State) (b p : Nat) : Nat := blocksFor (s.poolBytes b p)
def BoltRec.poolOn (b : BoltRec) (p : Nat) : List (Nat × Nat) := b.pool.filter fun e => decide (e.1 = p)

/-- The use that holds a byte of the packed uses. -/
def useAt (o : Nat) : List (PoolUse × Nat) → Option PoolUse
  | [] => none
  | (u, n) :: r => if o < n then some u else useAt (o - n) r

/-- The use of a bolt's pool that a line of a port holds. -/
def State.useOfLine (s : State) (b p line : Nat) : Option PoolUse :=
  (indexIn (line / 65536) (((s.bolt b).poolOn p).map fun x => x.2) 0).bind fun n =>
    useAt (n * Config.creelBlockBytes + 64 * (line % 65536)) (s.usesOn b p)

/-- The bolt's blocks suffice on every port for what its pooled uses need. -/
def State.poolFits (s : State) (b : Nat) : Bool :=
  let r := s.bolt b
  (List.range Config.nPorts).all fun p =>
    let n := s.poolNeed b p
    let have_ := (r.poolOn p).length
    decide (n ≤ have_) ||
      (decide ((s.port p).state = 1) && decide (((s.port p).boltBlocks b).length + (n - have_) ≤ r.resvPerPort))

def State.poolGrow (b p : Nat) : Nat → State → State
  | 0, s => s
  | n + 1, s => match s.allocRun b p 1 with
    | some (s, k) => State.poolGrow b p n (s.modBolt b fun r => { r with pool := r.pool ++ [(p, k)] })
    | none => s

def State.poolShrink (s : State) (b p n : Nat) : State :=
  let out := ((s.bolt b).poolOn p).reverse.take n
  (s.freeBlocks out).modBolt b fun r => { r with pool := r.pool.filter fun e => !out.contains e }

/-- Blocks are taken or freed until each port holds what the pooled uses need. -/
def State.fitPool (s : State) (b : Nat) : State :=
  (List.range Config.nPorts).foldl (fun s p =>
    let n := s.poolNeed b p
    let have_ := ((s.bolt b).poolOn p).length
    if have_ < n then State.poolGrow b p (n - have_) s else s.poolShrink b p (have_ - n)) s

/-! ## Leaving a slot, freeing pages (R22, R204, R224) -/

/-- A region's KV as it stood with the first `n` positions, for a return to the pick boundary (R253). -/
def KvRec.rollback (k : KvRec) (n : Nat) : KvRec :=
  let k := { k with reserved := [] }
  let len := k.pages.length
  match k.base with
  | some q =>
    if q.pos = n then
      { k with pages := k.pages.take q.pages, bobbin := q.bobbin, avg0 := q.avg0, avg1 := q.avg1, flushDue := none }
    else if 64 * len ≤ n then { k with bobbin := k.bobbin.map fun h => h.take (n - 64 * len), flushDue := none }
    else { k with pages := k.pages.take (n / 64), bobbin := k.lastBf.map fun h => h.take (n % 64), flushDue := none }
  | none =>
    if 64 * len ≤ n then { k with bobbin := k.bobbin.map fun h => h.take (n - 64 * len), flushDue := none }
    else { k with pages := k.pages.take (n / 64), bobbin := k.lastBf.map fun h => h.take (n % 64), flushDue := none }

/-- Pages beyond the first `n` of a KV record leave their homes. -/
def State.dropFrom (s : State) (e : EpochRec) (region n : Nat) (kv : KvRec) : State :=
  s.dropPages e region { kv with pages := kv.pages.drop n }

/-- The stream of a slot is back at its pick boundary: no unit in flight, KV of the positions that every layer holds. -/
def State.toBoundary (s : State) (i : Nat) : State :=
  let r := s.req i
  if r.slot = noSlot then s
  else
    let e := s.reqEpoch r
    let k := (s.bolt r.bolt).slotRec r.slot
    let kv := k.kv.map fun x => (x.1, x.2.rollback r.kvLen)
    let s := (k.kv.zip kv).foldl (fun s x => s.dropFrom e x.1.1 x.2.2.pages.length x.1.2) s
    s.modBolt r.bolt fun b => (b.abandon r.slot).modSlot r.slot fun k =>
      { k with kv := kv, waiting := [], tail := [], drawn := none }

/-- The slot is zero-filled and given back; its work lists are emptied. -/
def State.clearSlot (s : State) (b slot : Nat) (e : EpochRec) : State :=
  let s := e.kvGeom.foldl (fun s g => s.syncWork e g slot []) s
  s.modBolt b fun r => ({ r with slots := Tab.erase r.slots slot }).abandon slot

/-- The stream leaves its slot, its KV discarded or kept in the save (R204). -/
def State.leaveSlot (s : State) (i : Nat) (keep : Bool) : State :=
  let r := s.req i
  if r.slot = noSlot then s
  else
    let s := s.toBoundary i
    let kv := ((s.bolt r.bolt).slotRec r.slot).kv
    let s := s.setReq i { r.setKey 10 10 noSlot with
      save := if keep then some kv else none, savePort := (s.bolt r.bolt).saveTurn }
    let s := if keep then s.modBolt r.bolt fun b => { b with saveTurn := (b.saveTurn + 1) % Config.nPorts } else s
    let s := if keep then s else kv.foldl (fun s k => s.dropPages (s.reqEpoch r) k.1 k.2) s
    s.clearSlot r.bolt r.slot (s.reqEpoch r)

/-- Pages, creel copies and bobbin save freed: nothing of the sequence is held but the token log (R224). -/
def State.freePages (s : State) (i : Nat) : State :=
  let r := s.req i
  let s := (s.reqKv r).foldl (fun s k => s.dropPages (s.reqEpoch r) k.1 k.2) s
  let s := if r.slot = noSlot then s else s.modBolt r.bolt fun b => b.modSlot r.slot fun k => { k with kv := [] }
  s.modReq i fun r => { r with pageList := [], save := none, kvLen := 0 }

/-! ## Completions of a request (R271–R273, R287) -/

def natBytes (n v : Nat) : List Nat := (leBytes n v).map fun b => b.toNat

/-- The result bytes of a turn's final (Table 10.10). -/
def ReqRec.result (r : ReqRec) : List Nat :=
  natBytes 4 r.turnTokens ++ natBytes 4 r.ctxLen ++ natBytes 4 r.textBytes ++ natBytes 4 r.ttftUs ++
  natBytes 4 (min r.tbtAvg.toNat (2 ^ 32 - 1)) ++ natBytes 4 (min r.tbtMax (2 ^ 32 - 1)) ++ natBytes 2 r.tbtViol ++
  natBytes 2 r.epoch ++ natBytes 4 r.warned

/-- The final of the turn that is open, or of the descriptor that waits: to the queue pair in W2 with the tag in W3. -/
def State.reqFinal (s : State) (i status : Nat) (frees : Bool) : State :=
  let r := s.req i
  s.complete r.qp {
    tag := r.tag, handle := r.handle i, status := status, kind := 0, opcode := r.opcode, endReason := r.endReason,
    result := r.result, numericWarn := decide (0 < r.warned), frees := if frees then some i else none,
    finOf := r.finN.map fun n => (r.qp, n), entry := true }

/-- The stream slot that a bolt's tuning job holds is free again. -/
def State.freeTuneSlot (s : State) (b : Nat) : State :=
  match (s.bolt b).tune with
  | some t => match t.held with
    | some k => s.modBolt b fun r => r.modSlot k fun _ => {}
    | none => s
  | none => s

/-- A final of a descriptor that opened no turn. -/
def State.finishOf (s : State) (f : FinOf) (status : Nat) (result : List Nat) : State :=
  s.complete f.q {
    tag := f.tag, handle := f.handle, status := status, kind := 0, opcode := f.opcode, endReason := 0,
    result := result, numericWarn := false, frees := none, finOf := some (f.q, f.n) }

def Acc.fin (a : Acc) : FinOf := ⟨a.q, a.n, dTag a.d, dHandle a.d, dOpcode a.d⟩

/-! ## The stream buffer (R276, R277) -/

/-- The end of the token area. -/
def tokenEnd (maxTokens : Nat) : Nat := (64 + 4 * maxTokens + 63) / 64 * 64

/-- The header of a turn: counts, flags and turn number. -/
def ReqRec.header (r : ReqRec) (done : Bool) : List Byte :=
  leBytes 4 r.turnTokens ++ leBytes 4 r.textBytes ++
  leBytes 4 (boolNat done + 2 * boolNat (done && decide (0 < r.warned))) ++ leBytes 4 r.turn

def State.toHost (s : State) (a : Nat) (bs : List Byte) : State := { s with hostMem := writeBytes s.hostMem a bs }

/-- The header written with done set, before the final completion (R24, R277); while writes are blocked it is due. -/
def State.doneHeader (s : State) (i : Nat) : State :=
  let r := s.req i
  if r.openTurn && !r.fresh then
    if (s.func r.func).writable then s.toHost r.outAddr (r.header true) else s.setReq i { r with doneDue := true }
  else s

/-! ## Ends (R285, R287) -/

/-- The fields of a request with nothing held: no pages, log, save, grammar or reservation. -/
def ReqRec.released (r : ReqRec) : ReqRec :=
  { r.setKey 10 10 noSlot with
    pageList := [], reservedPages := 0, log := [], save := none, kvLen := 0, expiry := 0, grammar := [], gstate := 0,
    gstack := [], mask := none, prompt := [], withheld := [] }

/-- The descriptor whose inputs are being read is the one whose final the end is (R266). -/
def ReqRec.adoptIntake (r : ReqRec) : ReqRec :=
  match r.intake with
  | some k => { r with qp := k.fin.q, tag := k.fin.tag, opcode := k.fin.opcode, finN := some k.fin.n, intake := none }
  | none => r

/-- A pending final takes another status: the request is ended again before it is written (Table 11.2, log entry 80). -/
def State.restate (s : State) (i st status : Nat) : State :=
  (s.modReq i fun r => r.setSt st).modQp (s.req i).qp fun q => { q with
    held := q.held.map fun c => if c.frees = some i then { c with status := status } else c }

/-- A request ends: it leaves its slot, all it holds is freed, its output is closed and its final becomes ready; the entry
is FREE once that is written. An entry whose final is pending takes the new state and status. -/
def State.endReq (s : State) (i st status : Nat) : State :=
  let r := s.req i
  if 8 ≤ r.st then s.restate i st status
  else if r.live then
    let s := (s.doneHeader i).leaveSlot i false
    let s := s.freePages i
    let s := s.modReq i fun r => { r.adoptIntake.released.setSt st with endReason := 0, openTurn := false }
    (s.reqFinal i status true).fitPool r.bolt
  else s

/-- What a completion's status code says (Table 10.9). -/
def ssOk : Nat := 0x00
def ssRejMemory : Nat := 0x01
def ssRejTime : Nat := 0x02
def ssDeferred : Nat := 0x03
def ssCancelled : Nat := 0x04
def ssTtl : Nat := 0x05
def ssFaulted : Nat := 0x06
def ssInvalid : Nat := 0x07
def ssIntegrity : Nat := 0x08
def ssTimeout : Nat := 0x09
def ssEpoch : Nat := 0x0A
def ssWarn : Nat := 0x0B

/-- The bolt, slot and epoch of a request whose key word is lost: by the slot that names it, else by its function's bolt; the
epoch is the one whose slot it is, else the current one. -/
def State.keyOwner (s : State) (i : Nat) : Nat × Nat × Nat :=
  let owner := (List.range Config.nBolts).findSome? fun b =>
    ((s.bolt b).slots.find? fun e => decide (e.2.req = some i)).map fun e => (b, e.1)
  match owner with
  | some (b, slot) =>
    let es := (s.bolt b).current.toList ++ (s.bolt b).other.toList
    (b, slot, ((es.find? fun e => e.slotNos.contains slot).getD (es.headD {})).num)
  | none =>
    let b := (s.boltOfFunc (s.req i).func).getD 0
    (b, noSlot, ((s.bolt b).current.getD {}).num)

/-- A key word that fails its complement: reported, counted, and the request is treated as FAULTED (R285). Its pages leave
their homes in every epoch of its bolt: no other request has their numbers. -/
def State.keyFail (s : State) (i : Nat) : State :=
  let s := (s.report srcReqTable 0x03 (i + (4 <<< 28)))
  let s := { s with keyMismatch := satAdd 16 s.keyMismatch 1 }
  let o := s.keyOwner i
  let base := BitVec.ofNat 64 ((if o.2.1 = noSlot then rqHeld else rqDecode) + (o.1 <<< 4) + (o.2.1 <<< 10) + (o.2.2 <<< 20))
  let s := s.modReq i fun r => { r with key := base, keyInv := ~~~base }
  let es := (s.bolt o.1).current.toList ++ (s.bolt o.1).other.toList
  let s := es.foldl (fun s e => (s.reqKv (s.req i)).foldl (fun s k => s.dropPages e k.1 k.2) s) s
  s.endReq i rqFaulted ssFaulted

/-- A use of a request's entry: its key word is checked first. -/
def State.useReq (s : State) (i : Nat) (f : State → State) : State :=
  if (s.req i).keyOk then f s else s.keyFail i

/-- A pass over the table: every entry whose key word fails is ended before any is used (R17, R285). -/
def State.checkKeys (s : State) : State :=
  ((s.reqs.filter fun e => !e.2.keyOk).map fun e => e.1).foldl (fun s i => s.keyFail i) s

/-- A request loses its pages and enters ABSENT, token log kept, reservation released, counted in KV_DROP
(R223, R226, R242, R297). -/
def State.toAbsent (s : State) (i : Nat) : State :=
  let s := s.leaveSlot i false
  let s := s.freePages i
  let s := s.modServeOf (s.req i).bolt fun v => { v with dropRequests := satAdd 16 v.dropRequests 1 }
  (s.modReq i fun r => { r.setSt rqAbsent with reservedPages := 0, expiry := 0, parking := false }).fitPool (s.req i).bolt

/-- R291: what a context of `n` positions takes beyond its pages. -/
def overheadPages (c : ServeConst) (nCtx maxTokens : Nat) : Nat :=
  (4 * (nCtx + maxTokens) + c.bobbinBytes + c.pageBytes - 1) / max 1 c.pageBytes

def ceilDiv (a b : Nat) : Nat := (a + b - 1) / b

/-- The serving constants by which a bolt counts pages: those of its current epoch. -/
def BoltRec.consts (b : BoltRec) : ServeConst := (b.current.getD {}).serve

/-- Entry into HELD or PARKED, with its TTL (R297): from the pause's value, else the request's, else the default; none where
the harness paused it. A reservation is trimmed where a turn ends (R291). -/
def State.enterPaused (s : State) (i st ttl : Nat) : State :=
  let r := s.req i
  let ms := if ttl ≠ 0 then ttl else if r.ttl ≠ 0 then r.ttl else (s.serveOf r.bolt).ttlDefault
  let trim := if r.auto then r.reservedPages
    else ceilDiv r.ctxLen 64 + overheadPages (s.bolt r.bolt).consts r.ctxLen r.maxTokens
  s.setReq i { r.setSt st with
    pausedAt := s.time
    expiry := if r.auto then 0 else s.time + 1000000 * ms
    reservedPages := min r.reservedPages trim
    parking := decide (st = rqParked) }

/-- The harness pauses a running stream: its turn stays open (R223, R289). -/
def State.autoPause (s : State) (i : Nat) : State :=
  let s := s.leaveSlot i true
  (s.modReq i fun r => r.setKey 48 1 1).enterPaused i rqHeld 0

end Sys2Proof.Machine
end

