-- ==== Sys2Proof/Machine/Text.lean ====
section
/-! DEFINITION. What a token-unit lane computes: the checks of a token-unit shard, tokenizing, the stop matcher and UTF-8,
grammars, the sampling block, logits and the draw (R299–R307). -/

namespace Sys2Proof.Machine

open Sys2Proof

/-! ## The token-unit shard (Table 11.3, R299) -/

def tuVocab (b : List Byte) : Nat := leAt b 0x08 4
def tuMerges (b : List Byte) : Nat := leAt b 0x0C 4
def tuDfaStates (b : List Byte) : Nat := leAt b 0x10 2
def tuEnds (b : List Byte) : List Nat := tabulate (leAt b 0x12 1) fun i => leAt b (0x14 + 4 * i) 4
def tuByteId (b : List Byte) (x : Nat) : Nat := leAt b (leAt b 0x80 8 + 4 * x) 4
def tuDfa (b : List Byte) (st x : Nat) : Nat := leAt b (leAt b 0x88 8 + 2 * (256 * st + x)) 2
def tuEntry (b : List Byte) (id : Nat) : Nat := leAt b (leAt b 0x90 8 + 8 * id) 8
def tuSpecial (b : List Byte) (id : Nat) : Bool := bitAt (tuEntry b id) 48
def tuMerge (b : List Byte) (i : Nat) : Nat × Nat × Nat :=
  let o := leAt b 0xA0 8 + 12 * i
  (leAt b o 4, leAt b (o + 4) 4, leAt b (o + 8) 4)

/-- The byte string of a token: empty for a special one. -/
def tuString (b : List Byte) (id : Nat) : List Byte :=
  if tuSpecial b id then []
  else (b.drop (leAt b 0x98 8 + bits (tuEntry b id) 0 32)).take (bits (tuEntry b id) 32 16)

/-- The serving constants of a shard. -/
def tuServe (b : List Byte) : ServeConst where
  vocab := tuVocab b
  endIds := tuEnds b
  chunkNs := leAt b 0x40 4
  pickBaseNs := leAt b 0x44 4
  pickSlopeNs := leAt b 0x48 4
  ctxCap := leAt b 0x4C 4
  regions := leAt b 0x50 2
  tailNs := leAt b 0x54 4
  adapterNs := leAt b 0x58 4
  waferPages := leAt b 0x5C 4
  pageBytes := leAt b 0x60 4
  bobbinBytes := leAt b 0x64 4

/-- The header bytes that Table 11.3 names. -/
def tuNamed : List (Nat × Nat) := [(0x00, 6), (0x08, 11), (0x14, 32), (0x40, 18), (0x54, 20), (0x80, 48)]

def tuReservedZero (b : List Byte) : Bool :=
  (List.range 0xB0).all fun i => (tuNamed.any fun u => decide (u.1 ≤ i) && decide (i < u.1 + u.2)) || decide (leAt b i 1 = 0)

/-- A table of `n` bytes at the offset that the header word at `h` gives lies in the shard. -/
def tuFits (b : List Byte) (h n : Nat) : Bool := decide (leAt b h 8 + n ≤ b.length)

def noDup : List (Nat × Nat) → Bool
  | [] => true
  | x :: r => !r.contains x && noDup r

/-- The checks of R299 and R300; `nregions` is the image's. -/
def tuShardOk (b : List Byte) (nregions : Nat) : Bool :=
  let v := tuVocab b
  let c := tuServe b
  decide (0xB0 ≤ b.length) && decide (leAt b 0 4 = 0x4B54574B) && decide (leAt b 4 2 = 1) && tuReservedZero b &&
  decide (1 ≤ v) && decide (v ≤ 262144) && decide (1 ≤ tuDfaStates b) && decide (tuDfaStates b ≤ 4096) &&
  decide (1 ≤ leAt b 0x12 1) && decide (leAt b 0x12 1 ≤ 8) && (tuEnds b).all (fun e => decide (e < v)) &&
  decide (c.chunkNs ≠ 0) && decide (c.pickBaseNs ≠ 0) && decide (c.ctxCap ≠ 0) && decide (c.regions ≠ 0) &&
  decide (c.pageBytes ≠ 0) && decide (c.regions ≤ nregions) &&
  tuFits b 0x80 1024 && tuFits b 0x88 (512 * tuDfaStates b) && tuFits b 0x90 (8 * v) && tuFits b 0x98 (leAt b 0xA8 8) &&
  tuFits b 0xA0 (12 * tuMerges b) &&
  (List.range v).all (fun id => decide (bits (tuEntry b id) 32 16 ≤ 255)) &&
  noDup (tabulate (tuMerges b) fun i => ((tuMerge b i).1, (tuMerge b i).2.1))

/-! ## Tokenizing (R300) -/

/-- The pieces of a text: the piece open now, those closed, latest first, and the automaton's state. -/
def tuPieces (b : List Byte) : List Byte → Nat → List Byte → List (List Byte) → List (List Byte)
  | [], _, cur, done => if cur.isEmpty then done else cur :: done
  | x :: r, st, cur, done =>
    let e := tuDfa b st x.toNat
    if bitAt e 15 && !cur.isEmpty then tuPieces b r (e % 4096) [x] (cur :: done)
    else tuPieces b r (e % 4096) (cur ++ [x]) done

/-- The entry index of a pair in the merge table; an entry whose result is special is never taken (log entry 79). -/
def tuRank (b : List Byte) (l r : Nat) : Option Nat :=
  (List.range (tuMerges b)).find? fun i => decide ((tuMerge b i).1 = l) && decide ((tuMerge b i).2.1 = r) &&
    !tuSpecial b (tuMerge b i).2.2

/-- The lowest merge among the adjacent pairs of a sequence, leftmost first: (rank, position). -/
def tuBest (b : List Byte) (s : List Nat) : Option (Nat × Nat) :=
  (List.range (s.length - 1)).foldl (fun best i =>
    match tuRank b (s.getD i 0) (s.getD (i + 1) 0), best with
    | some k, some (k0, _) => if k < k0 then some (k, i) else best
    | some k, none => some (k, i)
    | none, _ => best) none

/-- Merges until no pair is found; each one shortens the sequence, whose length bounds their number. -/
def tuMergeAll (b : List Byte) : Nat → List Nat → List Nat
  | 0, s => s
  | n + 1, s => match tuBest b s with
    | some (k, i) => tuMergeAll b n (s.take i ++ (tuMerge b k).2.2 :: s.drop (i + 2))
    | none => s

/-- The tokens of a text, none of them special: a byte whose ID is special brings no token (log entry 79). -/
def tokenize (b : List Byte) (text : List Byte) : List Nat :=
  (tuPieces b text 0 [] []).reverse.flatMap fun p =>
    let s := (p.map fun x => tuByteId b x.toNat).filter fun id => !tuSpecial b id
    tuMergeAll b s.length s

/-! ## Text release (R277, R301) -/

/-- Length of the UTF-8 sequence that a byte leads, with the range of its second byte; 0 for no lead byte. -/
def utf8Lead (x : Nat) : Nat × Nat × Nat :=
  if x < 0x80 then (1, 0, 0)
  else if 0xC2 ≤ x ∧ x ≤ 0xDF then (2, 0x80, 0xBF)
  else if x = 0xE0 then (3, 0xA0, 0xBF)
  else if x = 0xED then (3, 0x80, 0x9F)
  else if 0xE1 ≤ x ∧ x ≤ 0xEF then (3, 0x80, 0xBF)
  else if x = 0xF0 then (4, 0x90, 0xBF)
  else if 0xF1 ≤ x ∧ x ≤ 0xF3 then (4, 0x80, 0xBF)
  else if x = 0xF4 then (4, 0x80, 0x8F)
  else (0, 0, 0)

/-- Bytes 1, 2, … of a sequence fit it as far as they are present. -/
def utf8Tail (lo hi : Nat) (first : Bool) : List Byte → Bool
  | [] => true
  | x :: r => (if first then decide (lo ≤ x.toNat) && decide (x.toNat ≤ hi)
      else decide (0x80 ≤ x.toNat) && decide (x.toNat ≤ 0xBF)) && utf8Tail lo hi false r

/-- Valid UTF-8 of a text, U+FFFD for each ill-formed byte, and the incomplete sequence at its end, which stays unless
`final`. The first argument bounds the steps. -/
def utf8Clean (final : Bool) : Nat → List Byte → List Byte × List Byte
  | 0, l => ([], l)
  | _ + 1, [] => ([], [])
  | n + 1, x :: r =>
    let k := utf8Lead x.toNat
    let seq := r.take (k.1 - 1)
    if k.1 ≠ 0 ∧ seq.length = k.1 - 1 ∧ utf8Tail k.2.1 k.2.2 true seq = true then
      let q := utf8Clean final n (r.drop (k.1 - 1))
      (x :: seq ++ q.1, q.2)
    else if k.1 ≠ 0 ∧ seq.length < k.1 - 1 ∧ utf8Tail k.2.1 k.2.2 true seq = true ∧ final = false then ([], x :: r)
    else
      let q := utf8Clean final n r
      ([0xEF, 0xBF, 0xBD] ++ q.1, q.2)

/-- The length of the longest of the strings with which a text ends; 0 for none (log entry 79). -/
def stopEnd (stops : List (List Byte)) (l : List Byte) : Nat :=
  stops.foldl (fun best p => if p.length ≤ l.length ∧ l.drop (l.length - p.length) = p then max best p.length else best) 0

/-- Where the stop string begins with which the text, taken byte by byte, first ends. -/
def findStop (stops : List (List Byte)) (l : List Byte) : Option Nat :=
  (List.range (l.length + 1)).findSome? fun n =>
    let k := stopEnd stops (l.take n)
    if k = 0 then none else some (n - k)

/-- The longest end of a text that could begin a stop string. -/
def stopTail (stops : List (List Byte)) (l : List Byte) : Nat :=
  (List.range 32).foldl (fun best k =>
    if k ≤ l.length ∧ stops.any (fun p => decide (k < p.length) && decide (l.drop (l.length - k) = p.take k)) then max best k
    else best) 0

/-- What the matcher makes of more bytes: text released, bytes withheld, and whether a stop string is complete. -/
def feedText (stops : List (List Byte)) (withheld new : List Byte) : List Byte × List Byte × Bool :=
  let buf := withheld ++ new
  match findStop stops buf with
  | some i => ((utf8Clean true buf.length (buf.take i)).1, [], true)
  | none =>
    let k := stopTail stops buf
    let q := utf8Clean false buf.length (buf.take (buf.length - k))
    (q.1, q.2 ++ buf.drop (buf.length - k), false)

/-- The withheld bytes at a turn's end. -/
def flushText (withheld : List Byte) : List Byte := (utf8Clean true withheld.length withheld).1

/-! ## Grammars (Table 11.4, R303, R304) -/

def grStates (g : List Byte) : Nat := leAt g 0x04 4
def grEntries (g : List Byte) : Nat := leAt g 0x08 4
def grStart (g : List Byte) : Nat := leAt g 0x0C 2
def grState (g : List Byte) (st : Nat) : Nat := leAt g (0x40 + 8 * st) 8
def grEntry (g : List Byte) (i : Nat) : Nat := leAt g (0x40 + 8 * grStates g + 16 * i) 16

def geFirst (e : Nat) : Nat := bits e 0 32
def geLast (e : Nat) : Nat := bits e 32 32
def geNext (e : Nat) : Nat := bits e 64 16
def geTop (e : Nat) : Nat := bits e 80 8
def geAny (e : Nat) : Bool := bitAt e 88
def gePop (e : Nat) : Nat := bits e 89 2
def gePush (e : Nat) : Nat := bits e 91 2
def geSym (e i : Nat) : Nat := bits e (96 + 8 * i) 8

/-- The checks of R303. -/
def grammarOk (g : List Byte) (vocab : Nat) (ends : List Nat) : Bool :=
  decide (g.length ≤ 16777216) && decide (leAt g 0 4 = 0x5247574B) && decide (1 ≤ grStates g) &&
  decide (grStates g ≤ 65536) && decide (0x40 + 8 * grStates g + 16 * grEntries g ≤ g.length) &&
  decide (grStart g < grStates g) && (List.range 0x32).all (fun i => decide (leAt g (0x0E + i) 1 = 0)) &&
  (List.range (grStates g)).all (fun st => decide (bits (grState g st) 49 15 = 0)) &&
  (List.range (grEntries g)).all fun i =>
    let e := grEntry g i
    decide (geNext e < grStates g) && decide (geFirst e ≤ geLast e) && decide (geLast e < vocab) &&
    ends.all (fun d => decide (d < geFirst e) || decide (geLast e < d)) && decide (gePop e ≤ 2) && decide (gePush e ≤ 2) &&
    (List.range (gePush e)).all (fun k => decide (geSym e k ≠ 0)) && decide (bits e 93 3 = 0) && decide (bits e 112 16 = 0)

/-- The entry index that stands for an end token in a mask. -/
def endEntry : Nat := 2 ^ 32

/-- The mask of a state and stack, as ID ranges in the order that claims them: (first, last, entry) (R304). The stack's top
is the head of the list. -/
def grMask (g : List Byte) (ends : List Nat) (st : Nat) (stack : List Nat) : List (Nat × Nat × Nat) :=
  let w := grState g st
  (tabulate (bits w 32 16) (fun i => bits w 0 32 + i)).filterMap (fun i =>
    let e := grEntry g i
    if i < grEntries g ∧ (geAny e = true ∨ geTop e = stack.headD 0) ∧ gePop e ≤ stack.length ∧
        stack.length - gePop e + gePush e ≤ 64 then some (geFirst e, geLast e, i) else none) ++
  (if bitAt w 48 && stack.isEmpty then ends.map fun d => (d, d, endEntry) else [])

def maskAllows (m : Option (List (Nat × Nat × Nat))) (id : Nat) : Bool :=
  match m with
  | none => true
  | some l => l.any fun e => decide (e.1 ≤ id) && decide (id ≤ e.2.1)

/-- The transition of an accepted ID: state and stack after it. -/
def grStep (g : List Byte) (m : List (Nat × Nat × Nat)) (st : Nat) (stack : List Nat) (id : Nat) : Nat × List Nat :=
  match m.find? fun e => decide (e.1 ≤ id) && decide (id ≤ e.2.1) with
  | some (_, _, i) =>
    if i = endEntry then (st, stack)
    else
      let e := grEntry g i
      (geNext e, (tabulate (gePush e) fun k => geSym e k).reverse ++ stack.drop (gePop e))
  | none => (st, stack)

/-! ## The sampling block (Table 11.5, R305) -/

def smF (b : List Byte) (o : Nat) : Nat := leAt b o 4
def smTemp (b : List Byte) : Nat := if b.isEmpty then 0x3F800000 else smF b 0
def smTopK (b : List Byte) : Nat := if leAt b 4 2 = 0 then 256 else leAt b 4 2
def smTopP (b : List Byte) : Nat := if bits (smF b 8) 0 31 = 0 then 0x3F800000 else smF b 8
def smMinP (b : List Byte) : Nat := smF b 12
def smRep (b : List Byte) : Nat := if bits (smF b 16) 0 31 = 0 then 0x3F800000 else smF b 16
def smPres (b : List Byte) : Nat := smF b 20
def smWindow (b : List Byte) : Nat := if smF b 24 = 0 then 1024 else smF b 24
def smStopIds (b : List Byte) : List Nat := tabulate (leAt b 28 1) fun i => leAt b (32 + 4 * i) 4
def smStops (b : List Byte) : List (List Byte) :=
  tabulate (leAt b 29 1) fun i => (b.drop (65 + 32 * i)).take (leAt b (64 + 32 * i) 1)

/-- An FP32 field between two bounds, and no NaN. -/
def smIn (v lo hi : Nat) : Bool := f32Le lo v && f32Le v hi

/-- Every field in its range, every reserved byte 0. -/
def samplingOk (b : List Byte) : Bool :=
  b.isEmpty || (decide (b.length = 256) &&
    smIn (smF b 0) 0 0x42C80000 && decide (leAt b 4 2 ≤ 256) && smIn (smF b 8) 0 0x3F800000 &&
    smIn (smF b 12) 0 0x3F800000 && smIn (smF b 16) 0 0x41800000 && smIn (smF b 20) 0xC1000000 0x41000000 &&
    decide (smF b 24 ≤ 65536) && decide (leAt b 28 1 ≤ 8) && decide (leAt b 29 1 ≤ 4) &&
    (List.range (leAt b 29 1)).all (fun i => decide (1 ≤ leAt b (64 + 32 * i) 1) && decide (leAt b (64 + 32 * i) 1 ≤ 31)) &&
    decide (leAt b 6 2 = 0) && decide (leAt b 30 2 = 0) && (List.range 64).all fun i => decide (leAt b (192 + i) 1 = 0))

/-! ## Logits and the draw (R306, R307) -/

/-- R306 for one ID: its logit, its count in the window, and whether the mask allows it. -/
def adjusted (b : List Byte) (allowed : Bool) (count l : Nat) : Nat :=
  if !allowed then negInf
  else
    let l := if count = 0 then l
      else f32Sub (if f32Lt 0 l then f32Mul l (f32Rcp (smRep b)) else f32Mul l (smRep b)) (smPres b)
    if bits (smTemp b) 0 31 = 0 then l else f32Mul l (f32Mul 0x3FB8AA3B (f32Rcp (smTemp b)))

/-- The `k` best values of the vocabulary, ranked. -/
def ranked (k : Nat) (l : List (Nat × Nat)) : List (Nat × Nat) := (sortBy pageBefore l).take k

/-- The kept candidates with the running sums of their probabilities (R307). -/
def runningSums : Nat → List (Nat × Nat) → List (Nat × Nat)
  | _, [] => []
  | a, (p, id) :: r =>
    let c := f32Add a p
    (c, id) :: runningSums c r

/-- R307: the token and whether it is marked NUMERIC_WARN. `cand` holds (z, id), ranked. -/
def choose (b : List Byte) (seed : Word) (cand : List (Nat × Nat)) (pos : Nat) : Nat × Bool :=
  let c0 := cand.headD (f32Nan, 0)
  let z0 := c0.1
  if f32IsNan z0 ∨ z0 = negInf then (c0.2, true)
  else if bits (smTemp b) 0 31 = 0 ∨ smTopK b = 1 then (c0.2, false)
  else
    let prob (z : Nat) : Nat :=
      if z0 = 0x7F800000 then (if z = 0x7F800000 then 0x3F800000 else 0) else f32Exp2 (f32Sub z z0)
    let kept := (cand.map fun x => (prob x.1, x.2)).filter fun x => f32Le (smMinP b) x.1
    let sums := runningSums 0 kept
    let total := (sums.getLastD (0, 0)).1
    let lim := f32Mul (smTopP b) total
    let j := sums.findIdx fun x => f32Le lim x.1
    let upto := sums.take (j + 1)
    let cj := (upto.getLastD (0, c0.2))
    let w := philoxWord (philox (bits seed.toNat 0 32) (bits seed.toNat 32 32) (pos, 0, 0, 0)) 0
    let u := rnd32 (.fin false (w / 256) (-24))
    let t := f32Mul u cj.1
    match upto.find? fun x => f32Lt t x.1 with
    | some x => (x.2, false)
    | none => (cj.2, false)

end Sys2Proof.Machine
end

