-- ==== Sys2Proof/Machine/Kv.lean ====
section
/-! DEFINITION. Units in the spatial pipeline, the norm watch's verdicts, bobbins and pages, demand fetches, reclaim and
recompute (R19–R26, R182–R190, R196–R224). -/

namespace Sys2Proof.Machine

open Sys2Proof

/-! ## Stages (R20, Table 1.4) -/

def EpochRec.ofKind (e : EpochRec) (k : Nat) : List Nat :=
  (e.regions.zipIdx.filter fun r => decide (r.1.1 = k)).map fun r => r.2

/-- The regions that a unit passes, in order: embed, the layers, unembed (log entry 24). -/
def EpochRec.stages (e : EpochRec) : List Nat := e.ofKind 1 ++ e.ofKind 0 ++ e.ofKind 2

def nextOf (r : Nat) : List Nat → Option Nat
  | a :: b :: l => if a = r then some b else nextOf r (b :: l)
  | _ => none

/-- The expert regions of a mixture layer, in order: those of kind 3 with the layer's number (log entry 24). -/
def EpochRec.experts (e : EpochRec) (r : Nat) : List Nat :=
  (e.regions.zipIdx.filter fun x => decide (x.1 = (3, (e.regions.getD r (0, 0)).2))).map fun x => x.2

/-- Levels of the top-k reduction tree: those of a binary tree over the unembed region's cores (log entry 24). -/
def EpochRec.treeDepth (e : EpochRec) : Nat :=
  max 1 (Nat.log2 (2 * (e.place.getD ((e.ofKind 2).headD 0) []).length - 1))

def EpochRec.kindOf (e : EpochRec) (r : Nat) : Nat := (e.regions.getD r (3, 0)).1

/-- The region after `r`; only the last unit of a stream's input passes the unembed region. -/
def EpochRec.next (e : EpochRec) (r : Nat) (u : PUnit) : Option Nat :=
  (nextOf r e.stages).filter fun n => u.lastOfInput || decide (e.kindOf n ≠ 2)

/-- A region of an epoch, as commands and the state name it: epoch · 256 + region (log entry 2). -/
def rkey (e : EpochRec) (r : Nat) : Nat := e.num * 256 + r

/-- The epoch of a region key, while its regions work. -/
def BoltRec.running (b : BoltRec) (key : Nat) : Option EpochRec :=
  (b.epochOf (key / 256)).filter fun e => (e.st = .current || e.st = .draining) && decide (key % 256 < e.regions.length)

/-! ## Units of a stream (R20, R23–R25, R212) -/

def freshTok : TokWatch := ⟨0, false, false, false⟩

def mkUnit (slot : Nat) (kind : UnitKind) (pos len : Nat) (last : Bool) : PUnit :=
  { slot := slot, kind := kind, pos := pos, len := len, toks := List.replicate len freshTok, cur := 0, pass := some 0, inp := none,
    verdict := false, lastOfInput := last, out := [] }

/-- The units that take a stream from `p` to `n` positions: chunks, or a pick for a single position. -/
def unitsFor (slot chunk p n : Nat) : List PUnit :=
  if n ≤ p then []
  else if n = p + 1 then [mkUnit slot .pick p 1 true]
  else
    let c := max 1 chunk
    let k := ceilDiv (n - p) c
    tabulate k fun i => mkUnit slot (.chunk i) (p + i * c) (min c (n - p - i * c)) (decide (i + 1 = k))

/-- Positions of a request's sequence, new input included. -/
def ReqRec.seqLen (r : ReqRec) : Nat := r.log.length + r.prompt.length

/-- Pages of all layers that `n` positions take get page numbers, on consecutive lanes (R198, R301). -/
def State.growPages (i n : Nat) : Nat → State → State
  | 0, s => s
  | f + 1, s =>
    let r := s.req i
    if ceilDiv n 64 ≤ r.pageList.length then s
    else
      let b := s.bolt r.bolt
      let e := s.reqEpoch r
      let used := (s.boltReqs r.bolt).flatMap fun j => (s.req j).pageList
      let lanes := e.kvGeom.foldl (fun a g => Nat.lcm a (max 1 g.lanes)) 1
      let space := e.kvGeom.foldl (fun a g => min a (g.lanes * g.mapLen)) (2 ^ 24)
      let first := match r.pageList.getLast? with
        | some p => p + 1
        | none => b.nextPage
      let num := ((List.range (space / lanes + 1)).map fun k => (first + k * lanes) % max 1 space).find? fun p => !used.contains p
      let p := num.getD (first % max 1 space)
      State.growPages i n f ((s.setReq i { r with pageList := r.pageList ++ [p] }).modBolt r.bolt fun b =>
        { b with nextPage := (p + 1) % max 1 space })

def State.pagesFor (s : State) (i n : Nat) : State := State.growPages i n (ceilDiv n 64) s

/-- A slot's stream waits at the first region with every position that the layers do not hold. -/
def State.queueUnits (s : State) (i : Nat) : State :=
  let r := s.req i
  let e := s.reqEpoch r
  let us := unitsFor r.slot e.chunk r.kvLen r.seqLen
  s.modBolt r.bolt fun b => b.modSlot r.slot fun k => { k with
    waiting := us, tail := [], drawn := none, chunksTaken := 0, chunksOut := 0, chunksTotal := us.length }

/-- A stream whose pages or bobbin are lost runs prefill over its whole token log (R224). -/
def State.recompute (s : State) (i : Nat) : State :=
  let r := s.req i
  let s := (s.toBoundary i).freePages i
  let s := s.modServeOf r.bolt fun v => { v with recomputes := satAdd 16 v.recomputes 1 }
  if r.slot = noSlot then s.fitPool r.bolt else ((s.pagesFor i r.seqLen).queueUnits i).fitPool r.bolt

/-! ## Exhaustion (R223) -/

/-- The paused request of lowest priority, oldest pause, lowest index. -/
def State.pausedVictim (s : State) (b : Nat) (states : List Nat) : Option Nat :=
  (s.boltReqs b).foldl (fun best i =>
    let r := s.req i
    if states.contains r.st = false then best
    else match best with
      | none => some i
      | some j =>
        let q := s.req j
        if r.prio > q.prio ∨ (r.prio = q.prio ∧ r.pausedAt < q.pausedAt) then some i else best) none

/-- The DECODE stream of highest rank number other than one, of those that `p` takes. -/
def State.rankVictim (s : State) (b need : Nat) (p : Nat → Bool := fun _ => true) : Option Nat :=
  (s.boltReqs b).foldl (fun best i =>
    let r := s.req i
    let rank (j : Nat) : Nat := ((s.bolt b).slotRec (s.req j).slot).rank
    if r.st ≠ rqDecode ∨ i = need ∨ p i = false then best
    else match best with
      | none => some i
      | some j => if rank i > rank j then some i else best) none

/-- A paused request is dropped to ABSENT, and counted in KV_DROP. -/
def State.dropReq (s : State) (i : Nat) : State :=
  let r := s.req i
  let pages := (s.reqKv r).foldl (fun a k => a + k.2.pages.length) 0
  (s.toAbsent i).modServeOf r.bolt fun v => { v with dropPages := (v.dropPages + pages) % 2 ^ 32 }

/-- One step of R223 for the stream `need`; false once the stream in need has lost its own pages. -/
def State.reclaimSpace (s : State) (b need : Nat) : State × Bool :=
  match s.pausedVictim b [rqHeld, rqParked] with
  | some v => (s.dropReq v, decide (v ≠ need))
  | none =>
    match s.rankVictim b need with
    | some v => ((s.autoPause v).dropReq v, true)
    | none => ((s.autoPause need).dropReq need, false)

/-- A change of a bolt's pooled creel uses that takes place once it fits, with space freed under R223 before. -/
def State.withRoom (b need : Nat) (f : State → State) : Nat → State → State × Bool
  | 0, s => (s, false)
  | n + 1, s =>
    let s' := f s
    if s'.poolFits b then (s'.fitPool b, true)
    else
      let q := s.reclaimSpace b need
      if q.2 then State.withRoom b need f n (q.1.fitPool b) else (q.1.fitPool b, false)

/-! ## Frames (R198, R199, R219–R222) -/

/-- A page of a request in a region changed. -/
def State.modPage (s : State) (i region j : Nat) (f : KvPage → KvPage) : State :=
  let r := s.req i
  let kv := s.reqKv r
  let k := Tab.get {} kv region
  match k.pages[j]? with
  | some p =>
    let p' := (f p).sealed
    let s := s.setReqKv i (Tab.put {} kv region { k with pages := k.pages.set j p' })
    let e := s.reqEpoch r
    match e.kv? region with
    | some g =>
      let s := s.syncPage e g p'
      if r.slot = noSlot then s else s.syncWork e g r.slot (k.pages.set j p')
    | none => s
  | none => s

/-- Pages of a bolt's epoch in a region: (request, index, page). -/
def State.regionPages (s : State) (b epoch region : Nat) : List (Nat × Nat × KvPage) :=
  (s.boltReqs b).flatMap fun i =>
    let r := s.req i
    if r.epoch = epoch then ((Tab.get {} (s.reqKv r) region).pages.zipIdx).map fun p => (i, p.2, p.1) else []

def KvPage.onWafer (p : KvPage) : Bool := p.home = .frame || p.home = .both
def KvPage.takesFrame (p : KvPage) : Bool := p.onWafer || p.arrive.isSome

/-- Frames of a lane core. -/
def KvGeom.frames (g : KvGeom) (lane : Nat) : Nat := if lane < g.lanesHi then g.framesHi else g.framesLo

/-- A unit of the slot stands in the region. -/
def BoltRec.slotInRegion (b : BoltRec) (key slot : Nat) : Bool :=
  let g := b.region key
  decide ((g.unit.map fun u => u.slot) = some slot) || decide ((g.inbox.map fun u => u.slot) = some slot)

/-- Frames of a lane that are reserved for pages being written (R202). -/
def State.reservedFrames (s : State) (b epoch : Nat) (g : KvGeom) (lane : Nat) : List Nat :=
  (s.boltReqs b).flatMap fun i =>
    let r := s.req i
    let k := Tab.get {} (s.reqKv r) g.region
    if r.epoch = epoch then
      (k.reserved.zipIdx.filter fun x => decide (r.pageList.getD (k.pages.length + x.2) 0 % g.lanes = lane)).map fun x => x.1
    else []

/-! ## Frame contents (Table 8.3; log entry 82) -/

/-- The 64 rows of a frame, of `d` dimensions: 256 data bytes and the scale code of each. -/
def PageData.rows (p : PageData) : List (List Byte × Byte) :=
  let d := (p.k.headD []).length
  ((List.range 8).flatMap fun g => (List.range (d / 32)).map fun k =>
    (tabulate 256 fun x => (p.k.getD (8 * g + x / 32) []).getD (32 * k + x % 32) 0, p.kScale)) ++
  ((List.range 2).flatMap fun h => (List.range (d / 8)).map fun c =>
    (tabulate 256 fun x => (p.v.getD (32 * h + x % 32) []).getD (8 * c + x / 32) 0, p.vScale))

/-- A row of a frame written with valid ECC: its data bytes at `off`, its scale bytes. -/
def Stores.writeRow (st : Stores) (off : Nat) (row : List Byte × Byte) : Stores :=
  (st.write 0 off 256 (leNat row.1)).write 0 (0x60000 + off / 256 * 16) 16 (leNat (List.replicate 8 row.2))

/-- A page's bytes in its frame, on every lane core that holds one. -/
def State.fillFrame (s : State) (e : EpochRec) (g : KvGeom) (p : KvPage) : State :=
  ((e.pageCores g p.num).zip p.data).foldl (fun s x => s.modCore x.1 fun r => { r with
    stores := x.2.rows.zipIdx.foldl (fun st row =>
      st.writeRow (g.frameBase + p.frame * g.frameStride + 256 * row.2) row.1) r.stores }) s

/-- A page of a request comes into its frame: the bytes first, then the entries (R199). -/
def State.intoFrame (s : State) (i : Nat) (e : EpochRec) (g : KvGeom) (j : Nat) (f : KvPage → KvPage) : State :=
  match (Tab.get {} (s.reqKv (s.req i)) g.region).pages[j]? with
  | some p => (s.fillFrame e g (f p)).modPage i g.region j f
  | none => s

/-- A page outside the sets that R221 keeps: sink, recent, latest selection and prefetch. -/
def evictable (r : ReqRec) (k : KvRec) (j : Nat) : Bool :=
  !decide (j < r.retS) && !decide (k.pages.length < j + 1 + r.retW) && !k.selected.contains j && !k.prefetched.contains j

/-- Of the pages of a lane, the one least recently attended, ties to the lower page number. -/
def oldestPage (l : List (Nat × Nat × KvPage)) : Option (Nat × Nat × KvPage) :=
  l.foldl (fun best x => match best with
    | none => some x
    | some y => if x.2.2.used < y.2.2.used ∨ (x.2.2.used = y.2.2.used ∧ x.2.2.num < y.2.2.num) then some x else best) none

/-- Every page of a request gets a creel copy and its frames are freed (R296). -/
def State.parkPages (s : State) (i : Nat) : State :=
  let kv := s.reqKv (s.req i)
  kv.foldl (fun s k => (List.range k.2.pages.length).foldl (fun s j =>
    s.modPage i k.1 j fun p => if p.onWafer then { p with home := .creel } else p) s) s

/-- Frame `num`'s lane has a free frame now: the lowest. -/
def State.freeFrame (s : State) (b : Nat) (e : EpochRec) (g : KvGeom) (num : Nat) : Option Nat :=
  let lane := num % g.lanes
  let used := (((s.regionPages b e.num g.region).filter fun x =>
    decide (x.2.2.num % g.lanes = lane) && x.2.2.takesFrame).map fun x => x.2.2.frame) ++ s.reservedFrames b e.num g lane
  (List.range (g.frames lane)).find? fun f => !used.contains f

/-- R221, cases 1 and 2: what a prefetch may take. -/
def State.easyFrame (s : State) (b : Nat) (e : EpochRec) (g : KvGeom) (num : Nat) : State × Option Nat :=
  match s.freeFrame b e g num with
  | some f => (s, some f)
  | none =>
    let lane := num % g.lanes
    let cand := (s.regionPages b e.num g.region).filter fun x =>
      let r := s.req x.1
      decide (x.2.2.num % g.lanes = lane) && decide (x.2.2.home = .both) &&
      !((s.bolt b).slotInRegion (rkey e g.region) r.slot) && evictable r (Tab.get {} (s.reqKv r) g.region) x.2.1
    match oldestPage cand with
    | some (i, j, p) => (s.modPage i g.region j fun p => { p with home := .creel, prefetched := false }, some p.frame)
    | none => (s, none)

/-- A page's frame given up, with a copy in creel that needs space there; none where there is none. -/
def State.evictPage (s : State) (b i region j : Nat) : Option State :=
  let s' := s.modPage i region j fun p => { p with home := .creel, prefetched := false }
  if s'.poolFits b then some (s'.fitPool b) else none

/-- The pages of a stream whose partials its unit in the region keeps: their frames may be taken for the unit's other pages (R220). -/
def State.keptPages (s : State) (b : Nat) (e : EpochRec) (region i : Nat) : List Nat :=
  match ((s.bolt b).region (rkey e region)).unit with
  | some u => if u.slot = (s.req i).slot then u.kept else []
  | none => []

/-- R221: a frame for page `num` of the stream `need`, then a frame of its own whose partial is kept (R220), then R223 where
creel has no space. A stream whose unit occupies the region keeps its work list there (R200). The last argument bounds the
requests that may be paused or dropped. -/
def State.takeFrame (b : Nat) (e : EpochRec) (g : KvGeom) (need num : Nat) : Nat → State → State × Option Nat
  | 0, s => (s, none)
  | n + 1, s =>
    let q := s.easyFrame b e g num
    match q.2 with
    | some f => (q.1, some f)
    | none =>
      let lane := num % g.lanes
      let onLane (i : Nat) : Bool := (s.regionPages b e.num g.region).any fun x =>
        decide (x.1 = i) && decide (x.2.2.num % g.lanes = lane) && x.2.2.onWafer
      let held := (s.boltReqs b).foldl (fun best i =>
        let r := s.req i
        if r.st ≠ rqHeld ∨ onLane i = false then best
        else match best with
          | none => some i
          | some j => if r.prio > (s.req j).prio then some i else best) (none : Option Nat)
      let dec := s.rankVictim b need fun i => onLane i && !(s.bolt b).slotInRegion (rkey e g.region) (s.req i).slot
      let s1 := match held, dec with
        | some i, _ =>
          let s' := (s.parkPages i).modReq i fun r => r.setSt rqParked
          if s'.poolFits b then some (s'.fitPool b) else none
        | none, some i =>
          let cand := (s.regionPages b e.num g.region).filter fun x => decide (x.1 = i) &&
            decide (x.2.2.num % g.lanes = lane) && x.2.2.onWafer
          match oldestPage cand with
          | some (i, j, _) => s.evictPage b i g.region j
          | none => none
        | none, none =>
          let cand := (s.regionPages b e.num g.region).filter fun x => decide (x.1 = need) &&
            decide (x.2.2.num % g.lanes = lane) && x.2.2.onWafer && (s.keptPages b e g.region need).contains x.2.1
          match oldestPage cand with
          | some (i, j, _) => s.evictPage b i g.region j
          | none => none
      match s1 with
      | some s' => State.takeFrame b e g need num n s'
      | none =>
        let v := s.reclaimSpace b need
        if v.2 then State.takeFrame b e g need num n (v.1.fitPool b) else (v.1.fitPool b, none)

/-- Fuel of a reclaim: every live request can be paused, parked and dropped once, and every page evicted. -/
def State.reclaimFuel (s : State) (b : Nat) : Nat :=
  4 * (s.boltReqs b).length + 2 + (s.boltReqs b).foldl (fun a i =>
    a + (s.reqKv (s.req i)).foldl (fun a k => a + k.2.pages.length) 0) 0

/-! ## Demand fetches (R218, R219) -/

/-- The request words that the lane cores of a page write. -/
def fetchWords (e : EpochRec) (g : KvGeom) (slot j num : Nat) : List (Word × Nat) :=
  (e.pageCores g num).map fun c => (BitVec.ofNat 64 (1 + (g.region <<< 4) + (slot <<< 12) + (j <<< 21)), c)

/-- The harness core that a region's cores write to, and the region's watch core. -/
def EpochRec.harnessOf (e : EpochRec) (r : Nat) : Nat := (e.watch.getD r (0, 0)).2
def EpochRec.watchCore (e : EpochRec) (r : Nat) : Nat := (e.watch.getD r (0, 0)).1

def ReqRec.retrieve (r : ReqRec) : Retrieve := ⟨r.retT, r.retN, r.retS, r.retW, r.retD⟩

/-- A unit of a region replaced. -/
def State.setUnit (s : State) (b key : Nat) (u : PUnit) : State :=
  s.modBolt b fun r => r.setRegion key { r.region key with unit := some u }

/-- Frames for the pages that a unit opens or completes, up to page `want` of the region (R202); false where the stream has
been paused for want of one. -/
def State.reserveFrames (b : Nat) (e : EpochRec) (g : KvGeom) (i want : Nat) : Nat → State → State × Bool
  | 0, s => (s, true)
  | n + 1, s =>
    let kv := s.reqKv (s.req i)
    let k := Tab.get {} kv g.region
    let j := k.pages.length + k.reserved.length
    if want < j then (s, true)
    else
      let q := State.takeFrame b e g i ((s.req i).pageList.getD j 0) (s.reclaimFuel b) s
      match q.2 with
      | some f =>
        let kv := q.1.reqKv (q.1.req i)
        let k := Tab.get {} kv g.region
        State.reserveFrames b e g i want n (q.1.setReqKv i (Tab.put {} kv g.region { k with reserved := k.reserved ++ [f] }))
      | none => (q.1, false)

/-- A page whose frame-map copy fails its complement: counted, marked absent, and the stream recomputed (R200, R224, R226). -/
def State.mapMismatch (s : State) (i region j : Nat) : State :=
  ((s.modServeOf (s.req i).bolt fun v => { v with mapMismatch := satAdd 16 v.mapMismatch 1 }).modPage i region j fun p =>
    { p with home := .absent, arrive := none }).recompute i

/-- The region's watch core adds a unit's empty rows to its word in the harness mailbox (R211). -/
def State.countEmpty (s : State) (e : EpochRec) (region n : Nat) : State :=
  s.modHarn (e.harnessOf region) fun h =>
    let a := 0xC000 + 8 * region
    { h with mailbox := writeLE h.mailbox a 8 ((readLE h.mailbox a 8 + n) % 2 ^ 64) }

/-- A token's router: the two experts with their gates, and the token in each of them that this engine holds (R193, R194). -/
def State.dispatch (s : State) (b key : Nat) (e : EpochRec) (slot pos : Nat) (e4m3 : Bool) (r : RouterInput) :
    State × ((Nat × Nat) × Nat × Nat) × Nat :=
  let x := expertGates (routerLogits r)
  let sites := e.experts (key % 256)
  let job (second : Bool) : ExpertJob := ⟨slot, pos, key, second, if e4m3 then 6 else 1, routerBlocks r e4m3⟩
  let send (s : State) (k : Nat) (second : Bool) : State × Nat := match sites[k]? with
    | some g => (s.modBolt b fun r =>
        let g' := r.region (rkey e g)
        r.setRegion (rkey e g) { g' with jobs := g'.jobs ++ [job second] }, 1)
    | none => (s, 0)
  let s1 := send s x.1.1 false
  let s2 := send s1.1 x.1.2 true
  (s2.1, x, s1.2 + s2.2)

/-- The tokens of a pass go to their experts in position order. -/
def State.dispatchAll (s : State) (b key : Nat) (e : EpochRec) (u : PUnit) (t : Nat) (inp : List AttnInput) :
    State × List (Option ((Nat × Nat) × Nat × Nat)) × Nat :=
  inp.zipIdx.foldl (fun a x => match x.1.router with
    | some r =>
      let tok := u.toks.getD (t + x.2) freshTok
      let q := a.1.dispatch b key e u.slot (u.pos + t + x.2) (tok.e4m3 || tok.rerun) r
      (q.1, a.2.1 ++ [some q.2.1], a.2.2 + q.2.2)
    | none => (a.1, a.2.1 ++ [none], a.2.2)) (s, [], 0)

/-- A pass attends: its pages are used, its results and empty rows counted, its tokens routed. -/
def State.endPass (s : State) (b key : Nat) (e : EpochRec) (u : PUnit) (t : Nat) (inp : List AttnInput) (k : KvRec) (need : List Nat)
    (outs : List (List Part)) (sels : List Selection) : State :=
  let region := key % 256
  let pages := k.pages.zipIdx.map fun p =>
    if need.contains p.2 then { p.1 with used := s.time, prefetched := false } else p.1
  let hits := (k.pages.zipIdx.filter fun p => need.contains p.2 && p.1.prefetched).length
  let k' := { k with
    pages := pages, selected := (sels.flatMap fun x => x.selected).eraseDups, prefetched := (sels.flatMap fun x => x.next).eraseDups }
  let wait := match u.waitFrom with
    | some t0 => (s.time - t0) / 1000
    | none => 0
  let s := s.modBolt b fun r => r.modSlot u.slot fun x => { x with kv := Tab.put {} x.kv region k' }
  let s := s.modServeOf b fun v => { v with
    prefetchUsed := (v.prefetchUsed + hits) % 2 ^ 32, stallUs := satAdd 32 v.stallUs wait }
  let n := outs.foldl (fun a l => a + emptyRows l) 0
  let s := if n = 0 then s else s.countEmpty e region n
  let q := s.dispatchAll b key e u t inp
  q.1.setUnit b key { u with
    pass := none, inp := none, kept := [], waitFrom := none, gates := u.gates.take t ++ q.2.1, owed := q.2.2
    out := u.out.take t ++ outs.map fun l => l.map fun p => toF32 p.o }

/-- The attention of a pass from token `t` on, its frames reserved: it is lost with an absent page, waits for pages in creel,
keeping the partials of the pages that are here (R220), and else ends. -/
def State.passOn (s : State) (b key : Nat) (e : EpochRec) (u : PUnit) (t : Nat) (inp : List AttnInput) (i : Nat) : State :=
  let region := key % 256
  let r := s.req i
  let k0 := Tab.get {} ((s.bolt b).slotRec u.slot).kv region
  let k := if u.pos = r.kvLen ∧ t = 0 ∧ k0.base.map (fun q => q.pos) ≠ some r.kvLen then
      { k0 with base := some ⟨r.kvLen, k0.pages.length, k0.bobbin, k0.avg0, k0.avg1⟩ } else k0
  let q := attendPass r.retrieve k (u.pos + t) inp
  let attended := q.2.2.flatMap fun x => x.attended
  let need := (List.range k.pages.length).filter fun j => attended.contains j
  let page (j : Nat) : KvPage := k.pages.getD j ⟨.absent, 0, 0, [], 0, false, none, 0⟩
  let left := need.filter fun j => !u.kept.contains j
  match k.pages.findIdx? fun p => !p.copyOk with
  | some j => s.mapMismatch i region j
  | none =>
    if left.any fun j => decide ((page j).home = .absent) then s.recompute i
    else
      let missing := left.filter fun j => decide ((page j).home = .creel)
      if missing.isEmpty then s.endPass b key e u t inp q.1 need q.2.1 q.2.2
      else
        let s := s.modBolt b fun r => r.modSlot u.slot fun x => { x with kv := Tab.put {} x.kv region k }
        let s := match e.kv? region with
          | some g => s.modHarn (e.harnessOf region) fun h => { h with ring := h.ring ++
              ((missing.filter fun j => (page j).arrive.isNone).flatMap fun j => fetchWords e g u.slot j (page j).num) }
          | none => s
        s.setUnit b key { u with
          pass := none, inp := some (t, inp), kept := u.kept ++ left.filter fun j => !missing.contains j
          waitFrom := u.waitFrom.or (some s.time) }

/-- A pass of a unit from its token `t` on. -/
def State.runPass (s : State) (b key : Nat) (e : EpochRec) (u : PUnit) (t : Nat) (inp : List AttnInput) : State :=
  match ((s.bolt b).slotRec u.slot).req with
  | none => s.setUnit b key { u with pass := none, inp := none }
  | some i =>
    let want := (u.pos + u.len - 1) / 64
    let q := match e.kv? (key % 256) with
      | some g => State.reserveFrames b e g i want (want + 1) s
      | none => (s, true)
    if q.2 then q.1.passOn b key e u t inp i else q.1

/-- A unit that waited for pages goes on once they are in frames. -/
def State.tryAttend (s : State) (b key : Nat) : State :=
  match (s.bolt b).running key, ((s.bolt b).region key).unit with
  | some e, some u => match u.inp with
    | some (t, inp) => s.runPass b key e u t inp
    | none => s
  | _, _ => s

/-! ## REGION_TAKE_UNIT -/

/-- The slot whose unit the first region takes: lowest rank, then lowest number (R21). -/
def State.firstSlot (s : State) (b : Nat) (e : EpochRec) : Option Nat :=
  ((s.bolt b).slots.filter fun x => !x.2.waiting.isEmpty &&
    (match x.2.req with
      | some i => decide ((s.req i).epoch = e.num)
      | none => x.2.synthetic && decide (e.st = .current))).foldl (fun best x => match best with
      | none => some (x.1, x.2.rank)
      | some (k, rk) => if x.2.rank < rk then some (x.1, x.2.rank) else some (k, rk)) (none : Option (Nat × Nat))
    |>.map fun x => x.1

/-- The unit that a free region takes next: from the waiting streams in the first region, else the one handed to it. -/
def State.takeable (s : State) (b : Nat) (e : EpochRec) (key : Nat) : Option (State × PUnit) :=
  let g := (s.bolt b).region key
  match g.inbox with
  | some u => some (s.modBolt b fun r => r.setRegion key { g with inbox := none }, u)
  | none =>
    if e.stages.head? = some (key % 256) then
      match s.firstSlot b e with
      | some k =>
        let x := (s.bolt b).slotRec k
        x.waiting.head?.map fun u => (s.modBolt b fun r => r.modSlot k fun x => { x with
          waiting := x.waiting.drop 1, chunksTaken := x.chunksTaken + 1 }, u)
      | none => none
    else none

/-- A unit enters a region: its slot makes progress (R125); a region without attention has nothing to judge before
hand-out. -/
def State.enterRegion (s : State) (b key : Nat) (e : EpochRec) (u : PUnit) : State :=
  let layer := decide (e.kindOf (key % 256) = 0)
  let s := s.modBolt b fun r => r.modSlot u.slot fun x => { x with progress := s.time }
  s.setUnit b key { u with
    cur := 0, verdict := !layer, out := [], inp := none, sat := 0, kept := [], waitFrom := none, gates := [], owed := 0
    pass := if (e.kv? (key % 256)).isSome && layer then some 0 else none
    toks := u.toks.map fun t => { t with rerun := false } }

/-- A page is brought back from creel into a frame without a waiting unit (R222). -/
def State.prefetchPage (s : State) (b : Nat) (e : EpochRec) (g : KvGeom) (i j : Nat) : State :=
  match (Tab.get {} (s.reqKv (s.req i)) g.region).pages[j]? with
  | some p =>
    if p.home = .creel ∧ p.arrive = none then
      let q := s.easyFrame b e g p.num
      match q.2 with
      | some f =>
        let s := q.1.intoFrame i e g j fun p => { p with home := .both, frame := f, prefetched := true }
        s.modServeOf b fun v => { v with prefetchIssued := (v.prefetchIssued + 1) % 2 ^ 32 }
      | none => q.1
    else s
  | none => s

/-- R222: a stream in full attention whose unit waits for a region has its pages there fetched. -/
def State.prefetchWaiting (s : State) (b region slot : Nat) (e : EpochRec) : State :=
  match e.kv? region, ((s.bolt b).slotRec slot).req with
  | some g, some i =>
    let r := s.req i
    if r.seqLen ≤ r.retT then
      (List.range (Tab.get {} (s.reqKv r) region).pages.length).foldl (fun s j => s.prefetchPage b e g i j) s
    else s
  | _, _ => s

/-- The stream whose unit waits for the first region has its pages there fetched (R222). -/
def State.prefetchFirst (s : State) (b key : Nat) (e : EpochRec) : State :=
  if e.stages.head? = some (key % 256) then match s.firstSlot b e with
    | some k => s.prefetchWaiting b (key % 256) k e
    | none => s
  else s

/-- An expert region takes the next token sent to it, one at a time (R20, R194). -/
def State.takeJob (s : State) (b key : Nat) : State :=
  let g := (s.bolt b).region key
  match g.job, g.jobs with
  | none, j :: rest => s.modBolt b fun r => r.setRegion key { g with job := some j, jobs := rest }
  | _, _ => s

/-- The flush of a slot's page in a region is due: its next unit reads nothing there before it (R202). -/
def BoltRec.flushWaits (r : BoltRec) (region slot : Nat) : Bool :=
  (Tab.get {} (r.slotRec slot).kv region : KvRec).flushDue.isSome

/-- A region that works takes the waiting unit of lowest rank; the inputs of a pass start its attention. -/
def execRegionTakeUnit (b key : Nat) (inp : List AttnInput) (s : State) : Out :=
  onBolt b s fun s =>
    match (s.bolt b).running key with
    | some e =>
      if (s.bolt b).st ≠ .serving then s
      else if e.kindOf (key % 256) = 3 then s.takeJob b key
      else
        let s := match ((s.bolt b).region key).unit with
          | some _ => s
          | none => match s.takeable b e key with
            | some (s, u) => (s.enterRegion b key e u).prefetchFirst b key e
            | none => s
        match ((s.bolt b).region key).unit with
        | some u => match u.pass with
          | some t =>
            if inp.length = u.len - t ∧ 0 < inp.length ∧ (s.bolt b).flushWaits (key % 256) u.slot = false then
              s.runPass b key e u t inp
            else s
          | none => s
        | none => s
    | none => s

/-! ## UNIT_HAND_OUT -/

/-- R222: after a unit in retrieval mode, the next-ranked and the missing selected pages of the region. -/
def State.prefetchAfter (s : State) (b key slot : Nat) (e : EpochRec) : State :=
  match e.kv? (key % 256), ((s.bolt b).slotRec slot).req with
  | some g, some i =>
    let k := Tab.get {} (s.reqKv (s.req i)) g.region
    (k.prefetched ++ k.selected).foldl (fun s j => s.prefetchPage b e g i j) s
  | _, _ => s

/-- The turn's input enters the token log and the context. -/
def ReqRec.logPrompt (r : ReqRec) : ReqRec :=
  let log := r.log ++ r.prompt
  { r with log := log, prompt := [], ctxLen := log.length }

/-- Pages of a request dropped with nothing else of it, counted in KV_DROP: it will be ABSENT. -/
def State.dropOwn (s : State) (i : Nat) : State :=
  let r := s.req i
  let pages := (s.reqKv r).foldl (fun a k => a + k.2.pages.length) 0
  (s.freePages i).modServeOf r.bolt fun v => { v with
    dropPages := (v.dropPages + pages) % 2 ^ 32, dropRequests := satAdd 16 v.dropRequests 1 }

/-- Space for what a stream leaves in creel, freed under R223; false where nothing else could be freed and its own pages
were dropped. -/
def State.makeRoom (b need : Nat) : Nat → State → State × Bool
  | 0, s => (s.fitPool b, true)
  | n + 1, s =>
    if s.poolFits b then (s.fitPool b, true)
    else match s.pausedVictim b [rqHeld, rqParked], s.rankVictim b need with
      | some v, _ => State.makeRoom b need n (s.dropReq v)
      | none, some v => State.makeRoom b need n ((s.autoPause v).dropReq v)
      | none, none => ((s.dropOwn need).fitPool b, false)

/-- A turn ends: the stream leaves its slot and the request drains (R287); the withheld text is released (R301). -/
def State.endTurn (s : State) (i reason park ttl : Nat) : State :=
  let r := s.req i
  let stay := decide (park ≠ 0) || r.keep
  let text := if r.idsOnly then [] else flushTextOf r.withheld
  let room := r.outLen - tokenEnd r.maxTokens - r.textBytes
  let put := text.take room
  let s := if put.isEmpty then s
    else if (s.func r.func).writable && r.undelivered.isEmpty then
      s.toHost (r.outAddr + tokenEnd r.maxTokens + r.textBytes) put
    else s.modReq i fun r => { r with undelivered := r.undelivered ++ [(0, put)] }
  let s := s.modReq i fun r => { r.logPrompt with withheld := [], textBytes := r.textBytes + put.length }
  let s := s.leaveSlot i stay
  let q := if stay then State.makeRoom r.bolt i (s.reclaimFuel r.bolt) s else (s.fitPool r.bolt, true)
  q.1.modReq i fun r => { r.setSt rqDraining with
    endReason := reason, pausePark := if q.2 then (if park ≠ 0 then park else boolNat r.keep) else 3, pauseTtl := ttl }
where
  /-- The withheld bytes as they are written at a turn's end. -/
  flushTextOf (w : List Byte) : List Byte := (utf8Clean true w.length w).1

/-- The last chunk leaves the last layer under an all-zero first mask: the turn ends with reason 6 (R304). -/
def State.noTokenEnd (s : State) (b slot : Nat) : State :=
  match ((s.bolt b).slotRec slot).req with
  | some i =>
    let s := s.modReq i fun r => { r.logPrompt with kvLen := r.seqLen, fresh := false }
    s.endTurn i 6 0 0
  | none => s

/-- A synthetic pick has passed every region (R374): its token is discarded and its bobbin zero-filled; while warm-keep work
is called for, the next one waits at the first region. -/
def State.syntheticDone (s : State) (b slot : Nat) : State :=
  s.modBolt b fun r =>
    if s.thermal.warmOn then r.modSlot slot fun k => { k with kv := [], waiting := [mkUnit slot .pick 0 1 true] }
    else { r with slots := Tab.erase r.slots slot }

/-- A unit leaves the last region: a stream's last one enters the top-k tree on its way to the sampler, any other has done its
work. -/
def State.leavePipe (s : State) (b : Nat) (u : PUnit) : State :=
  let x := (s.bolt b).slotRec u.slot
  let noMask := match x.req with
    | some i => (s.req i).noMask
    | none => false
  if x.synthetic then s.syntheticDone b u.slot
  else if u.lastOfInput && noMask then s.noTokenEnd b u.slot
  else s.modBolt b fun r => ({ r with tops := if u.lastOfInput then r.tops ++ [u.slot] else r.tops } : BoltRec).modSlot u.slot
    fun x => { x with chunksOut := x.chunksOut + 1, tail := if u.lastOfInput then x.tail ++ [u] else x.tail }

/-- A level of the epoch's top-k tree is free: each holds one pick, and picks move up as they can (R20). -/
def BoltRec.treeRoom (r : BoltRec) (e : EpochRec) : Bool :=
  decide ((r.tops.filter fun k => e.slotNos.contains k).length < e.treeDepth)

/-- An expert region hands its result back to the region that sent the token (R194). -/
def State.endJob (s : State) (b key : Nat) : State :=
  match ((s.bolt b).region key).job with
  | some j => s.modBolt b fun r =>
      let r := r.setRegion key { r.region key with job := none }
      r.setRegion j.home { r.region j.home with unit := (r.region j.home).unit.map fun u =>
        if u.slot = j.slot then { u with owed := u.owed - 1 } else u }
  | none => s

/-- A region hands its finished unit to the next region once that one is free (R20, R188). -/
def execUnitHandOut (b key : Nat) (s : State) : Out :=
  onBolt b s fun s =>
    if (s.bolt b).st = .serving ∧ ((s.bolt b).region key).job.isSome then s.endJob b key
    else match (s.bolt b).running key, ((s.bolt b).region key).unit with
    | some e, some u =>
      if (s.bolt b).st = .serving ∧ u.verdict = true ∧ u.pass = none ∧ u.inp = none then
        let clear (s : State) : State := s.modBolt b fun r =>
          let g := r.region key
          r.setRegion key { g with unit := none, chunkOut := match u.kind with
            | .chunk k => Tab.put 0 g.chunkOut u.slot (k + 1)
            | .pick => g.chunkOut }
        let noMask := match ((s.bolt b).slotRec u.slot).req with
          | some i => (s.req i).noMask
          | none => false
        let nx := match e.next (key % 256) u with
          | some n => if noMask && decide (e.kindOf n = 2) then none else some n
          | none => none
        match nx with
        | some n =>
          let g := (s.bolt b).region (rkey e n)
          if g.unit.isNone && g.inbox.isNone then
            let s := (clear s).modBolt b fun r => r.setRegion (rkey e n) { r.region (rkey e n) with inbox := some u }
            (s.prefetchAfter b key u.slot e).prefetchWaiting b n u.slot e
          else s
        | none =>
          if u.lastOfInput && !noMask && !(s.bolt b).treeRoom e then s
          else ((clear s).prefetchAfter b key u.slot e).leavePipe b u
      else s
    | _, _ => s

/-! ## LAYER_VERDICT (R183–R190) -/

/-- The word of a watch report (Table 7.2). -/
def watchWord (seq slot : Nat) (norm sat : Bool) (count : Nat) (prefill later : Bool) (ratio : Nat) : Nat :=
  seq % 65536 + (slot <<< 16) + (boolNat norm <<< 25) + (boolNat sat <<< 26) + (min 3 count <<< 27) +
  (boolNat prefill <<< 29) + (boolNat later <<< 30) + (ratio <<< 32)

/-- The watch core writes its report into the region's ring of the harness mailbox. -/
def State.watchReport (s : State) (b key : Nat) (e : EpochRec) (w : Nat → Nat) : State :=
  let g := (s.bolt b).region key
  let region := key % 256
  let s := s.modHarn (e.harnessOf region) fun h => { h with
    mailbox := writeLE h.mailbox (0x8000 + 64 * region + 8 * (g.watchSeq % 8)) 8 (w g.watchSeq) }
  let quiet := match g.unit with
    | some u => ((s.bolt b).slotRec u.slot).synthetic
    | none => false
  s.modBolt b fun r => r.setRegion key { r.region key with
    watchSeq := (g.watchSeq + 1) % 65536, quiet := if quiet then g.quiet ++ [g.watchSeq] else g.quiet }

/-- A token's pass is final: its norm enters the average of its copy, and the next token is judged. -/
def State.tokenFinal (s : State) (b key : Nat) (u : PUnit) (tok : TokWatch) (n : Nat) : State :=
  let p := u.pos + u.cur
  let region := key % 256
  let s := s.modBolt b fun r => r.modSlot u.slot fun x =>
    let k := Tab.get {} x.kv region
    let avg := (if (p + 1) % 2 = 0 then k.avg0 else k.avg1).toNat
    let v := BitVec.ofNat 32 (avgUpdate n avg)
    { x with kv := Tab.put {} x.kv region (if p % 2 = 0 then { k with avg0 := v } else { k with avg1 := v }) }
  let u := { u with toks := u.toks.set u.cur tok, cur := u.cur + 1 }
  let done := decide (u.cur = u.len)
  let s := s.setUnit b key { u with verdict := done }
  let fill := decide ((u.pos + u.len) / 64 > u.pos / 64)
  if done && fill then s.modBolt b fun r => r.modSlot u.slot fun x =>
    let k := Tab.get {} x.kv region
    { x with kv := Tab.put {} x.kv region { k with flushDue := some k.pages.length } }
  else s

/-- Table 7.1 on the token that the layer judges: `m` is what its norm watch measured. -/
def State.judge (s : State) (b key : Nat) (e : EpochRec) (u : PUnit) (m : WatchSample) : State :=
  let region := key % 256
  let p := u.pos + u.cur
  let k := Tab.get {} ((s.bolt b).slotRec u.slot).kv region
  let avg := (if (p + 1) % 2 = 0 then k.avg0 else k.avg1).toNat
  let decode := decide (u.kind = .pick)
  let tok := u.toks.getD u.cur freshTok
  let gate := match u.gates.getD u.cur none with
    | some x => x.2
    | none => (0, 0)
  let n := watchNorm (watchQ m (tok.e4m3 || tok.rerun) gate)
  let norm := normTrig (Config.jumpRatio e.manifestHash region).toNat n avg
  let sat := satTrig decode (Config.layerElements e.manifestHash region) (watchS m + u.sat)
  if !(norm || sat) then s.tokenFinal b key u { tok with rerun := false } n
  else
    let before := tok.triggers
    let s := s.watchReport b key e fun seq =>
      watchWord seq u.slot norm sat (before + 1) (!decode) (decide (3 ≤ before)) (watchRatio n avg)
    let tok' := { tok with triggers := before + 1, e4m3 := decide (2 ≤ before + 1), warn := tok.warn || decide (before = 2) }
    if before < 2 ∧ tok.rerun = false ∧ tok.e4m3 = false then
      s.setUnit b key { u with
        toks := u.toks.set u.cur { tok' with rerun := true }
        pass := if (e.kv? region).isSome then some u.cur else none, kept := [] }
    else s.tokenFinal b key u { tok' with rerun := false } n

def execLayerVerdict (b key : Nat) (m : WatchSample) (s : State) : Out :=
  onBolt b s fun s =>
    match (s.bolt b).running key, ((s.bolt b).region key).unit with
    | some e, some u =>
      if (s.bolt b).st = .serving ∧ e.kindOf (key % 256) = 0 ∧ u.verdict = false ∧ u.pass = none ∧ u.inp = none ∧
          u.owed = 0 ∧ u.cur < u.len then s.judge b key e u m
      else s
    | _, _ => s

/-! ## BOBBIN_FLUSH (R197, R202, R203, R214) -/

/-- The frame reserved for a region's next page, else one taken now. -/
def State.nextFrame (s : State) (b : Nat) (e : EpochRec) (g : KvGeom) (i num : Nat) : State × Option Nat :=
  let kv := s.reqKv (s.req i)
  let k := Tab.get {} kv g.region
  match k.reserved with
  | f :: rest => (s.setReqKv i (Tab.put {} kv g.region { k with reserved := rest }), some f)
  | [] => State.takeFrame b e g i num (s.reclaimFuel b) s

/-- The saturations of a flush enter the tallies of the slot's unit in the region (R197). -/
def State.addSat (s : State) (b key slot n : Nat) : State :=
  s.modBolt b fun r => r.setRegion key { r.region key with unit := (r.region key).unit.map fun u =>
    if u.slot = slot then { u with sat := u.sat + n } else u }

/-- The oldest complete page in a bobbin goes to a frame; the bobbin keeps what follows it. -/
def State.flushPage (s : State) (b : Nat) (e : EpochRec) (region i : Nat) : State :=
  let r := s.req i
  let kv := s.reqKv r
  let k := Tab.get {} kv region
  match e.kv? region with
  | some g =>
    let j := k.pages.length
    let num := r.pageList.getD j 0
    let q := s.nextFrame b e g i num
    match q.2 with
    | some f =>
      let s := q.1
      let k := Tab.get {} (s.reqKv (s.req i)) region
      let full := k.bobbin.map fun h => h.take 64
      let page : KvPage := (⟨.frame, num, f, full.map pageOf, s.time, false, none, 0⟩ : KvPage).sealed
      let rest := k.bobbin.map fun h => h.drop 64
      let more := rest.any fun h => decide (64 ≤ h.length)
      let k := { k with
        pages := k.pages ++ [page], bobbin := rest, lastBf := full, flushDue := if more then some (j + 1) else none }
      let s := s.setReqKv i (Tab.put {} (s.reqKv (s.req i)) region k)
      let s := s.addSat b (rkey e region) (s.req i).slot (full.foldl (fun a h => a + pageSat h) 0)
      let s := (s.fillFrame e g page).syncPage e g page
      let s := if (s.req i).slot = noSlot then s else s.syncWork e g (s.req i).slot k.pages
      s.modServeOf b fun v => { v with flushes := (v.flushes + 1) % 2 ^ 32 }
    | none => q.1
  | none => s

/-- After the verdict of the unit that fills a page, its region writes the page with its coarse index. -/
def execBobbinFlush (b key slot : Nat) (s : State) : Out :=
  onUnit (decide (b < Config.nBolts) && decide (slot < Config.maxSlots)) s fun s =>
    match (s.bolt b).running key, ((s.bolt b).slotRec slot).req with
    | some e, some i =>
      let k := Tab.get {} ((s.bolt b).slotRec slot).kv (key % 256)
      if k.flushDue.isSome && k.bobbin.any (fun h => decide (64 ≤ h.length)) then s.flushPage b e (key % 256) i else s
    | _, _ => s

/-! ## The harness's rings (R174, R190, R211, R218, R219) -/

/-- One entry of the request ring drained: a fetch request, a chain report, or a reserved kind, which is counted. -/
def execRequestWord (h : Nat) (s : State) : Out :=
  onHarness h s fun s => s.modHarn h fun r =>
    match r.ring with
    | [] => r
    | (w, c) :: rest =>
      let k := w.toNat % 16
      if k = 1 then { r with ring := rest, fetches := r.fetches ++ [(w, c)] }
      else if k = 2 then { r with ring := rest, reports := r.reports ++ [(w, c)] }
      else { r with ring := rest, badWords := r.badWords + 1 }

/-- The bolt and running epoch that a core's region belongs to. -/
def State.ownerOf (s : State) (c region : Nat) : Option (Nat × EpochRec) :=
  (List.range Config.nBolts).findSome? fun b =>
    (([(s.bolt b).current, (s.bolt b).other].filterMap id).find? fun e =>
      (e.place.getD region []).contains c).map fun e => (b, e)

def rwRegion (w : Word) : Nat := bits w.toNat 4 8
def rwSlot (w : Word) : Nat := bits w.toNat 12 9
def rwPage (w : Word) : Nat := bits w.toNat 21 24
def rwChain (w : Word) : Nat := bits w.toNat 45 2

/-- A lane core's service window: one chain, and bit 0 of the flag word set (R218). -/
def State.openWindow (s : State) (c : Nat) : State :=
  s.modCore c fun r =>
    let st := r.stores.write 1 0xB008 8 1
    let st := st.write 1 0xB010 8 0xB040
    { r with stores := st.write 1 0xB000 8 (st.read 1 0xB000 8 ||| 1) }

/-- A fetch request is served: a frame is taken for the page, its chains are written and bit 0 is set; an absent page makes
the stream recompute. -/
def execFetchRequest (h : Nat) (s : State) : Out :=
  onHarness h s fun s =>
    match (s.harn h).fetches with
    | [] => s
    | (w, c) :: rest =>
      let s := s.modHarn h fun r => { r with fetches := rest }
      match s.ownerOf c (rwRegion w) with
      | some (b, e) =>
        match e.kv? (rwRegion w), ((s.bolt b).slotRec (rwSlot w)).req with
        | some g, some i =>
          match (Tab.get {} (s.reqKv (s.req i)) g.region).pages[rwPage w]? with
          | some p =>
            if p.home = .absent then s.recompute i
            else if p.onWafer then s
            else if p.arrive.isSome then s.openWindow c
            else
              let q := State.takeFrame b e g i p.num (s.reclaimFuel b) s
              match q.2 with
              | some f =>
                let s := q.1.modPage i g.region (rwPage w) fun p => { p with frame := f, arrive := some g.heads }
                (s.modServeOf b fun v => { v with demand := (v.demand + 1) % 2 ^ 32 }).openWindow c
              | none => q.1
          | none => s
        | _, _ => s
      | none => s

/-- The lines in error of a page's creel copy are counted and reported as the copy is read; whether one is uncorrectable. -/
def State.copyBad (s : State) (b i region j : Nat) : State × Bool :=
  (List.range Config.nPorts).foldl (fun q p =>
    (((s.port p).ecc.filter fun x => s.useOfLine b p x.1 = some (.page i region j))).foldl (fun q x =>
      ((q.1.creelCheck p x.1).1, q.2 || decide (2 ≤ x.2))) q) (s, false)

/-- The chain of one lane core has arrived: after the last one the page is in its frame and the waiting unit goes on; a copy with
an uncorrectable line is lost, and the stream is recomputed (R219). -/
def State.chainDone (s : State) (b : Nat) (e : EpochRec) (g : KvGeom) (i c chain : Nat) : State :=
  let pages := (Tab.get {} (s.reqKv (s.req i)) g.region).pages
  let s := s.modCore c fun r =>
    { r with stores := r.stores.write 1 0xB000 8 (r.stores.read 1 0xB000 8 ||| 2 ^ (8 + chain)) }
  match pages.findIdx? fun p => p.arrive.isSome && (e.pageCores g p.num).contains c with
  | some j =>
    let left := ((pages.getD j ⟨.absent, 0, 0, [], 0, false, none, 0⟩).arrive.getD 0) - 1
    if left = 0 then
      let q := s.copyBad b i g.region j
      if q.2 then (q.1.modPage i g.region j fun p => { p with home := .absent, arrive := none }).recompute i
      else (q.1.intoFrame i e g j fun p => { p with home := .both, arrive := none }).tryAttend b (rkey e g.region)
    else s.modPage i g.region j fun p => { p with arrive := some left }
  | none => s

def execChainReport (h : Nat) (s : State) : Out :=
  onHarness h s fun s =>
    match (s.harn h).reports with
    | [] => s
    | (w, c) :: rest =>
      let s := s.modHarn h fun r => { r with reports := rest }
      match s.ownerOf c (rwRegion w) with
      | some (b, e) =>
        match e.kv? (rwRegion w), ((s.bolt b).slotRec (rwSlot w)).req with
        | some g, some i => s.chainDone b e g i c (rwChain w)
        | _, _ => s
      | none => s

/-! ## WATCH_RING_POLL (R190, R191, R211) -/

/-- Detail of NORM_JUMP and REPLAY_EXHAUSTED. -/
def watchDetail (region w : Nat) : Nat :=
  bits w 16 9 + (region <<< 9) + (bits w 25 1 <<< 17) + (bits w 26 1 <<< 18) + (bits w 27 2 <<< 19) + (bits w 29 1 <<< 21)

/-- One report consumed. -/
def State.takeReport (s : State) (b core region w : Nat) (quiet : Bool) : State :=
  let count := bits w 27 2
  let later := bitAt w 30
  let s := s.modServeOf b fun v => { v with
    triggers := Tab.put 0 v.triggers region (satAdd 24 (Tab.get 0 v.triggers region) 1)
    lastRatio := Tab.put 0 v.lastRatio region (bits w 32 32)
    reruns := if count = 1 then (v.reruns + 1) % 2 ^ 32 else v.reruns
    escalations := if count = 2 then (v.escalations + 1) % 2 ^ 32 else v.escalations
    warned := if count = 3 ∧ later = false then (v.warned + 1) % 2 ^ 32 else v.warned }
  if quiet then s
  else if count = 3 then (if later then s else s.report core 0x0C (watchDetail region w))
  else s.report core 0x0B (watchDetail region w)

/-- The reports of a ring that the harness has not read: at most 8; older ones are lost and counted. -/
def State.pollRing (s : State) (h b : Nat) (e : EpochRec) (region : Nat) : State :=
  let g := (s.bolt b).region (rkey e region)
  let seen := Tab.get 0 (s.harn h).watchSeq (rkey e region)
  let fresh := (g.watchSeq + 65536 - seen) % 65536
  let lost := fresh - min fresh 8
  let s := (List.range (min fresh 8)).foldl (fun s k =>
    let q := (seen + lost + k) % 65536
    let w := readLE (s.harn h).mailbox (0x8000 + 64 * region + 8 * (q % 8)) 8
    s.takeReport b (e.watchCore region) region w (g.quiet.contains q)) s
  let s := s.modBolt b fun r => r.setRegion (rkey e region) { r.region (rkey e region) with quiet := [] }
  let s := s.modServeOf b fun v => { v with lost := satAdd 16 v.lost lost }
  s.modHarn h fun r => { r with watchSeq := Tab.put 0 r.watchSeq (rkey e region) g.watchSeq }

/-- The growth of a region's empty-row word. -/
def State.pollRows (s : State) (h b : Nat) (e : EpochRec) (region : Nat) : State :=
  let w := readLE (s.harn h).mailbox (0xC000 + 8 * region) 8
  let old := Tab.get 0 (s.harn h).emptyRows region
  let d := (w + 2 ^ 64 - old) % 2 ^ 64
  if d = 0 then s
  else
    let s := s.modHarn h fun r => { r with emptyRows := Tab.put 0 r.emptyRows region w }
    let s := s.modServeOf b fun v => { v with emptyRows := satAdd 32 v.emptyRows d }
    s.report (e.watchCore region) 0x20 (region + (min d (2 ^ 28 - 1) <<< 8))

def execWatchRingPoll (h : Nat) (s : State) : Out :=
  onHarness h s fun s => (List.range Config.nBolts).foldl (fun s b =>
    ([(s.bolt b).current, (s.bolt b).other].filterMap id).foldl (fun s e =>
      (List.range e.regions.length).foldl (fun s r =>
        if e.watch.length ≤ r ∨ e.harnessOf r ≠ h then s else (s.pollRing h b e r).pollRows h b e r) s) s) s

/-- A PAGEWALK of a parking chain stands in MISS on a page-service channel: the harness places the page in a frame and resumes
the channel; after a mismatch it marks the page absent, clears the channel and has the stream recomputed (R221). -/
def State.serveMiss (s : State) (b i : Nat) (e : EpochRec) (g : KvGeom) (c ch : Nat) : State :=
  let r := s.core c
  let k := r.chan ch
  let pages := (Tab.get {} (s.reqKv (s.req i)) g.region).pages
  match pages.findIdx? fun p => decide (p.num / g.lanes = k.entry) && (e.pageCores g p.num).contains c with
  | some j =>
    if k.mismatch then ((s.modCore c fun r => r.clearChan ch).mapMismatch i g.region j)
    else
      let num := (pages.getD j ⟨.absent, 0, 0, [], 0, false, none, 0⟩).num
      let q := State.takeFrame b e g i num (s.reclaimFuel b) s
      match q.2 with
      | some f =>
        let s := q.1.intoFrame i e g j fun p => { p with home := .both, frame := f }
        s.onCx c fun x => x.resumeChan (s.shEnv c) ch
      | none => q.1
  | none => s

/-- The lane cores and page-service channels of a request's pages that stand in MISS. -/
def State.misses (s : State) (i : Nat) : List (KvGeom × Nat × Nat) :=
  let r := s.req i
  let e := s.reqEpoch r
  (s.reqKv r).flatMap fun k => match e.kv? k.1 with
    | some g => ((k.2.pages.flatMap fun p => e.pageCores g p.num).eraseDups).flatMap fun c =>
        ([12, 13, 14, 15].filter fun ch => decide (((s.core c).chan ch).state = .miss)).map fun ch => (g, c, ch)
    | none => []

/-- PARK_COMPLETE: every page of a PARKED request has a creel copy and its frames are free (R296). -/
def execParkComplete (i : Nat) (s : State) : Out :=
  onReq i s fun s => s.useReq i fun s =>
    let r := s.req i
    if r.st = rqParked ∧ r.parking = true then
      if s.misses i ≠ [] then
        (s.misses i).foldl (fun s x => s.serveMiss r.bolt i (s.reqEpoch (s.req i)) x.1 x.2.1 x.2.2) s
      else
      let q := State.withRoom r.bolt i (fun s => s.parkPages i) (s.reclaimFuel r.bolt) s
      if q.2 then q.1.modReq i fun r => { r with parking := false } else q.1
    else s

end Sys2Proof.Machine
end

