-- ==== Sys2Proof/Machine/Fabric.lean ====
section
/-! DEFINITION. The fabric: routers, fences, blocks and waypoints (R144–R160), and what a flit does where it arrives
(R162–R174, R431). -/

namespace Sys2Proof.Machine

open Sys2Proof

/-! ## Router registers (R158, Tables 6.4–6.6) -/

/-- A register with value 0 and its complement. -/
def rtReset : Word := 0xFFFFFFFF00000000

def RouterRec.word (r : RouterRec) (i : Nat) : Word := Tab.get rtReset r.reg i
def RouterRec.shadow (r : RouterRec) (i : Nat) : Word := Tab.get rtReset r.sh i
/-- The value of a register word, and whether its complement disagrees (R17). -/
def wordVal (w : Word) : Nat := bits w.toNat 0 32
def wordBad (w : Word) : Bool := decide (bits w.toNat 32 32 ≠ compl 32 (wordVal w))
/-- A value with its complement. -/
def withInv (v : Nat) : Word := BitVec.ofNat 64 (v % 2 ^ 32 + (compl 32 v <<< 32))
def RouterRec.val (r : RouterRec) (i : Nat) : Nat := wordVal (r.word i)
def RouterRec.bad (r : RouterRec) (i : Nat) : Bool := wordBad (r.word i)

/-- Ports: 0 core, 1–4 mesh N E S W, 5–8 express N E S W. -/
def RouterRec.fenced (r : RouterRec) (p : Nat) : Bool := decide (p ≠ 0) && bitAt (r.val 0) (3 + p)
def RouterRec.blocked (r : RouterRec) (p : Nat) : Bool := if p = 0 then bitAt (r.val 1) 8 else bitAt (r.val 1) (p - 1)

/-- The router at (x, y) has port `p` (R144). -/
def hasPort (x y p : Nat) : Bool :=
  if p ≤ 4 then true
  else if p = 5 then decide (y % 8 = 0) && decide (8 ≤ y)
  else if p = 6 then decide (x % 8 = 0) && decide (x + 8 ≤ 511)
  else if p = 7 then decide (y % 8 = 0) && decide (y + 8 ≤ 575)
  else decide (p = 8) && decide (x % 8 = 0) && decide (8 ≤ x)

/-- What RT_COMMIT is rejected for (R158). -/
def RouterRec.commitBad (r : RouterRec) (x y : Nat) : Bool :=
  let ports := [1, 2, 3, 4, 5, 6, 7, 8]
  let fence := wordVal (r.shadow 0)
  let block := wordVal (r.shadow 1)
  ((List.range 10).any fun i => wordBad (r.shadow i)) ||
  (ports.any fun p =>
    let w := wordVal (r.shadow (p + 1))
    bitAt w 19 && (decide (511 < bits w 0 9) || decide (575 < bits w 9 10))) ||
  (ports.any fun p => !hasPort x y p && (bitAt fence (3 + p) || bitAt block (p - 1)))

/-- The writable bits of a register's value. -/
def rtMask (i : Nat) : Nat := if i = 0 then 0x3FFF else if i = 1 then 0x1FF else 0xFFFFF

/-- A core whose port is blocked in RT_BLOCK is FENCED, and one whose port no longer is enters IDLE, from which its monitor
expects it again (R38, R40; log entry 77). OFF and DEAD cores stay. -/
def CoreRec.fence (r : CoreRec) (blocked : Bool) : CoreRec :=
  if blocked then
    if r.st ∈ [.off, .fenced, .dead] then r
    else { r with st := .fenced, freezeCause := 0, wait := none, dp := { r.dp with pend := [], ports := [], writes := [], int3 := none } }
  else if r.st = .fenced then { r with st := .idle, missed := 0, beatSeen := false } else r

/-- The registers of a router as committed, and its core as they fence it. -/
def State.setRt (s : State) (c : Nat) (r : RouterRec) : State :=
  (s.setRouter c r).modCore c fun k => k.fence (r.blocked 0)

def State.rtCommit (s : State) (c : Nat) : State :=
  let r := s.router c
  if r.commitBad (coreX c) (coreY c) then s.report c 0x1F 0x78
  else s.setRt c { r with reg := r.sh, copy := r.sh }

def execRtCommit (c : Nat) (s : State) : Out := onCore c s fun s => s.rtCommit c

/-- The harness writes and commits one register of a router (R157, R161, R254): value with complement, copy kept. -/
def State.rtSet (s : State) (c i v : Nat) : State :=
  let r := s.router c
  s.setRt c { r with
    sh := Tab.put rtReset r.sh i (withInv v)
    reg := Tab.put rtReset r.reg i (withInv v)
    copy := Tab.put rtReset r.copy i (withInv v) }

/-! ## Flit fields (Tables 6.1, 6.8) -/

end Sys2Proof.Machine

namespace Sys2Proof

open Sys2Proof.Machine

def Flit.src (f : Flit) : Nat := gaMake f.srcEngine f.srcY f.srcX 0
def Flit.count (f : Flit) : Nat := f.arg % 16 + 1
def Flit.acks (f : Flit) : Nat := f.arg % 32
def Flit.reason (f : Flit) : Nat := bits f.arg 5 4
def Flit.isData (f : Flit) : Bool := decide (f.vc ≠ 0)
def Flit.isRequest (f : Flit) : Bool := decide (f.type = .write) || decide (f.type = .writeWord) || decide (f.type = .read)
def Flit.bytes (f : Flit) : Nat := if f.type = .write then 32 else 8
def Flit.data (f : Flit) : Nat := if f.type = .write then f.line.toNat else bits f.line.toNat 0 64


end Sys2Proof

namespace Sys2Proof.Machine

open Sys2Proof

/-- A response to `f`. -/
def respond (ty : FlitType) (f : Flit) (arg : Nat) (line : Nat) : Flit :=
  { blankFlit ty 2 f.src with ch := f.ch, arg := arg, line := BitVec.ofNat 256 line }
def nackOf (f : Flit) (reason : Nat) : Flit := respond .nack f (1 + (reason <<< 5)) 0
def ackOf (src ch n : Nat) : Flit := { blankFlit .ack 2 src with ch := ch, arg := n }
def dataOf (f : Flit) (reason line : Nat) : Flit := respond .readData f (reason <<< 5) line

end Sys2Proof.Machine

namespace Sys2Proof

open Sys2Proof.Machine

/-- A harness source and a token-unit source (R172, Table 6.9). -/
def Flit.fromHarness (f : Flit) : Bool :=
  decide (960 ≤ f.srcY) && decide ((f.srcY - 960) % 16 = 0) && decide (f.srcY < 1024) && decide (f.srcX < 4)
def Flit.fromToken (f : Flit) : Bool :=
  decide (960 ≤ f.srcY) && decide ((f.srcY - 960) % 16 = 1) && decide (f.srcX = 0)
/-- The sources that creel counts as the harness: harness cores, the token unit, and the PCIe and Aumen transfer engines
(R319). -/
def Flit.countsHarness (f : Flit) : Bool :=
  f.fromHarness || f.fromToken ||
  (decide (960 ≤ f.srcY) && (decide ((f.srcY - 960) % 16 = 2) || decide ((f.srcY - 960) % 16 = 3)))


end Sys2Proof

namespace Sys2Proof.Machine

open Sys2Proof

/-- The local bolt that a core source counts as: its own tag, or the bolt that SPAN_PEER maps it to (R337). -/
def State.peerBolt (s : State) (engine bolt : Nat) : Option Nat :=
  let n := bits (wordVal (Tab.get rtReset s.span.peer engine)) (4 * bolt) 4
  if bitAt n 3 then some (n % 8) else none
def State.flitBolt (s : State) (f : Flit) : Option Nat :=
  if f.srcY ≥ 576 then none
  else if f.srcEngine = s.engineNo then some f.bolt else s.peerBolt f.srcEngine f.bolt

/-! ## The selvedge ring and the way out to another engine (R154, R335) -/

/-- The side of a selvedge object. -/
def objSide (a : Nat) : Nat := if gaY a < 960 then creelPortOf a / 8 else (gaY a - 960) / 16

/-- A link carries data to an engine: up, and both ends have committed SPAN_CFG.enable (R331, R334). -/
def State.carries (s : State) (l e : Nat) : Bool :=
  let k := s.link l
  decide (k.state = 1) && k.peerCfg && s.span.cfg.getLsbD 6 && decide (k.peerEngine = e)

/-- A bundle to an engine exists (R331). -/
def State.bundleUp (s : State) (e : Nat) : Bool := (List.range Config.nLinks).any fun l => s.carries l e

def State.routeWord (s : State) (e : Nat) : Word := Tab.get rtReset s.span.route e

/-- The next hop toward an engine: the next entry while its bundle exists, otherwise the alternate. -/
def State.hopOf (s : State) (e : Nat) : Option Nat :=
  let v := wordVal (s.routeWord e)
  if bitAt v 6 && s.bundleUp (bits v 0 6) then some (bits v 0 6)
  else if bitAt v 13 && s.bundleUp (bits v 7 6) then some (bits v 7 6) else none

/-- The edge router and port by which a flit from side `side` enters the array toward a core (R154). -/
def edgeEntry (side dst : Nat) : Loc :=
  if side = 0 then .router (gaX dst) 0 1
  else if side = 1 then .router 511 (gaY dst) 2
  else if side = 2 then .router (gaX dst) 575 3
  else .router 0 (gaY dst) 4

/-- A response made in the selvedge on a side: its source is that side's harness block (Table 6.1). -/
def State.selvedgeNack (s : State) (side : Nat) (f : Flit) (reason : Nat) : Flit :=
  { nackOf f reason with srcEngine := s.engineNo, srcY := 960 + 16 * side, ext := true }

/-- Where a flit to another engine goes from the ring: to the bundle of its next hop; it waits on a corrupt entry and while a
route change waits (R336); with no bundle it is dropped, and a request is answered with reason 7. -/
def State.egressAt (s : State) (side : Nat) (f : Flit) : State × Option Loc :=
  let e := gaEngine f.dst
  if wordBad (s.routeWord e) then (s.report srcSpan 0x03 (e + (9 <<< 28)), some (.ring side))
  else if (s.span.routeOld.any fun r => decide (r.1 = e)) = true then (s, some (.ring side))
  else match s.hopOf e with
    | some h => (s, some (.bundle h))
    | none =>
      let s := s.report srcSpan 0x05 (bits f.dst 19 28 + 2 ^ 35)
      (if f.isRequest && decide (f.srcY < 576) && decide (f.srcEngine = s.engineNo) then
        s.putNet (s.selvedgeNack side f 7) (edgeEntry side f.src)
      else s, none)

/-- A flit that enters the ring for another engine. -/
def State.egress (s : State) (side : Nat) (f : Flit) : State :=
  let q := s.egressAt side f
  match q.2 with
  | some l => q.1.putNet f l
  | none => q.1

/-- A flit that stands in the selvedge: to another engine, to a core of this one, or to an object on the ring. -/
def State.fromSelvedge (s : State) (side : Nat) (f : Flit) : State :=
  if gaEngine f.dst ≠ s.engineNo then s.egress side f
  else if gaY f.dst < 576 then s.putNet f (edgeEntry side f.dst)
  else s.putNet f (.ring side)

/-- A response of a selvedge object. -/
def State.objRespond (s : State) (dst : Nat) (f : Flit) : State :=
  s.fromSelvedge (objSide dst) { f with srcEngine := s.engineNo, srcY := gaY dst, srcX := gaX dst, ext := true }

/-! ## Routing (R153, R154, R156) -/

/-- One decision of dimension order, weft first. -/
def dimPort (x y : Nat) (tx ty : Int) : Nat :=
  if tx ≠ (x : Int) then
    let east := decide ((x : Int) < tx)
    let far := decide (x % 8 = 0) && decide (8 ≤ (tx - x).natAbs)
    if east then (if far && decide (x + 8 ≤ 511) then 6 else 2) else (if far && decide (8 ≤ x) then 8 else 4)
  else if ty ≠ (y : Int) then
    let south := decide ((y : Int) < ty)
    let far := decide (y % 8 = 0) && decide (8 ≤ (ty - y).natAbs)
    if south then (if far && decide (y + 8 ≤ 575) then 7 else 3) else (if far && decide (8 ≤ y) then 5 else 1)
  else 0

/-- The point at which a straight path leaves the array on a side. -/
def sideExit (side x y : Nat) : Int × Int :=
  if side = 0 then (x, -1) else if side = 1 then (512, y) else if side = 2 then (x, 576) else (-1, y)

def State.exitPoint (s : State) (f : Flit) : Int × Int :=
  if gaEngine f.dst ≠ s.engineNo then
    sideExit (bits ((s.router (coreNum f.srcX f.srcY)).val 0) 12 2) f.srcX f.srcY
  else if gaY f.dst < 576 then (gaX f.dst, gaY f.dst)
  else sideExit (objSide f.dst) f.srcX f.srcY

/-- The port of a flit at (x, y), and the flit with its phase: at its waypoint it goes on to its exit point. -/
def State.nextPort (s : State) (f : Flit) (x y : Nat) : Nat × Flit :=
  let e := s.exitPoint f
  match f.phase, f.wp with
  | false, some (wx, wy) =>
    if wx = x ∧ wy = y then (dimPort x y e.1 e.2, { f with phase := true }) else (dimPort x y wx wy, f)
  | _, _ => (dimPort x y e.1 e.2, f)

/-- A data flit that may not leave through a fenced port: from this engine's cores to a core of this engine (R160). -/
def State.fenceable (s : State) (f : Flit) : Bool :=
  f.isData && !f.ext && decide (gaEngine f.dst = s.engineNo) && decide (gaY f.dst < 576)

/-- Where a flit stands after leaving (x, y) by port `p`: a neighbour's router, its core, or a side of the ring. -/
inductive Leave where
  | at_ (l : Loc) | side (k : Nat)
  deriving DecidableEq, Repr

def leave (x y p : Nat) : Leave :=
  match p with
  | 0 => .at_ (.core x y)
  | 1 => if y = 0 then .side 0 else .at_ (.router x (y - 1) 3)
  | 2 => if x = 511 then .side 1 else .at_ (.router (x + 1) y 4)
  | 3 => if y = 575 then .side 2 else .at_ (.router x (y + 1) 1)
  | 4 => if x = 0 then .side 3 else .at_ (.router (x - 1) y 2)
  | 5 => .at_ (.router x (y - 8) 7)
  | 6 => .at_ (.router (x + 8) y 8)
  | 7 => .at_ (.router x (y + 8) 5)
  | _ => .at_ (.router (x - 8) y 6)

/-- Waypoint of a port: (valid, x, y). -/
def RouterRec.way (r : RouterRec) (p : Nat) : Bool × Nat × Nat :=
  let w := r.val (p + 1)
  (bitAt w 19, bits w 0 9, bits w 9 10)

/-- A router's decision for a flit (R153). -/
inductive Verdict where
  /-- register `i` of core `c`'s router fails its complement check: the flit is held (R159) -/
  | hold (c i : Nat)
  /-- dropped at a fenced port (R160) -/
  | fence
  /-- unroutable (R156) -/
  | drop
  /-- for a core whose port is blocked: reason 5 (R164) -/
  | coreBlocked
  /-- out of port `p`, with the phase and waypoint that the flit leaves with -/
  | go (p : Nat) (f : Flit)
  deriving DecidableEq, Repr

/-- The flits that a blocked core port lets through: accesses to the router itself, and what its monitor or collector takes
(log entry 20). -/
def passesBlock (t : FlitType) : Bool := decide (t = .ctrl) || decide (t = .beat) || decide (t = .fault)

/-- The decision for a flit at the router (x, y): fence, block, detour, and the way on. The exit point toward another engine
needs RT_FENCE of the router that injected the flit (R154). -/
def State.verdict (s : State) (f0 : Flit) (x y : Nat) : Verdict :=
  let r := s.router (coreNum x y)
  let c0 := coreNum f0.srcX f0.srcY
  if gaEngine f0.dst ≠ s.engineNo ∧ (s.router c0).bad 0 = true then .hold c0 0
  else
    let q := s.nextPort f0 x y
    let fenceable := s.fenceable f0 && decide (q.1 ≠ 0)
    if fenceable && r.bad 0 then .hold (coreNum x y) 0
    else if fenceable && r.fenced q.1 then .fence
    else if r.bad 1 then .hold (coreNum x y) 1
    else if !r.blocked q.1 then .go q.1 q.2
    else if q.1 = 0 then if passesBlock f0.type then .go 0 q.2 else .coreBlocked
    else if q.2.phase ∨ q.2.wp.isSome = true then .drop
    else if r.bad (q.1 + 1) then .hold (coreNum x y) (q.1 + 1)
    else
      let w := r.way q.1
      if !w.1 then .drop
      else
        let q2 := s.nextPort { q.2 with wp := some (w.2.1, w.2.2) } x y
        if q2.1 ≠ 0 && fenceable && r.fenced q2.1 then .fence
        else if r.blocked q2.1 then .drop
        else .go q2.1 q2.2

/-- A router stamps what its core injects (R147, R160). -/
def State.stamp (s : State) (f : Flit) (x y : Nat) : Flit :=
  let v := (s.router (coreNum x y)).val 0
  { f with srcY := y, srcX := x, srcEngine := s.engineNo, ext := false, bolt := bits v 0 3 }

/-- The output port that a flit at a router waits for, or will. -/
def State.portOf (s : State) (e : NetFlit) (x y : Nat) : Option Nat :=
  let by_ (f : Flit) : Option Nat := match s.verdict f x y with
    | .go p _ => some p
    | _ => none
  match e.loc with
  | .router x' y' port =>
    if x' = x ∧ y' = y then by_ (if port = 0 then s.stamp e.flit x y else e.flit) else none
  | .held x' y' port => if x' = x ∧ y' = y then by_ (if port = 0 then s.stamp e.flit x y else e.flit) else none
  | .made x' y' => if x' = x ∧ y' = y then by_ e.flit else none
  | .queued x' y' _ out => if x' = x ∧ y' = y then some out else none
  | _ => none

/-- Other traffic waits at a router for an output port on the virtual channels that `vc` accepts. -/
def State.waitingAt (s : State) (f : Flit) (x y p : Nat) (vc : Nat → Bool) : Bool :=
  s.net.any fun e => decide (e.flit ≠ f) && vc e.flit.vc && decide (s.portOf e x y = some p)

/-- The port's arbitration lets a flit go now (R150). -/
def State.myTurn (s : State) (f : Flit) (x y p : Nat) : Bool :=
  let r := s.router (coreNum x y)
  let run := Tab.get 0 r.vc0run p
  let w0 := s.waitingAt f x y p fun v => decide (v = 0)
  if f.vc = 0 then !(decide (63 ≤ run) && s.waitingAt f x y p fun v => decide (v ≠ 0))
  else if w0 && decide (run < 63) then false
  else !(decide (Tab.get 0 r.lastBulk p = f.vc) && s.waitingAt f x y p fun v => decide (v ≠ 0) && decide (v ≠ f.vc))

/-- The counts of the arbitration after a flit has gone. -/
def State.went (s : State) (f : Flit) (x y p : Nat) : State :=
  let bulk := s.waitingAt f x y p fun v => decide (v ≠ 0)
  s.modRouter (coreNum x y) fun r =>
    if f.vc = 0 then { r with vc0run := Tab.put 0 r.vc0run p (if bulk then Tab.get 0 r.vc0run p + 1 else 0) }
    else { r with vc0run := Tab.put 0 r.vc0run p 0, lastBulk := Tab.put 0 r.lastBulk p f.vc }

/-- The skein's port counters count a flit through a port of one of its routers (R390). -/
def State.countPort (s : State) (f : Flit) (c p : Nat) (input : Bool) : State :=
  let k := skeinOf c
  let r := s.skein k
  let hit (i : Nat) : Bool :=
    let g := Tab.get 0 r.portCfg i
    bitAt g 19 && decide (bits g 0 4 = p) && decide (bits g 4 6 = coreQ c) && (bitAt g 10 == input) && bitAt (bits g 11 3) f.vc
  if (List.range 8).any hit then
    s.setSkein k { r with portCnt := (List.range 8).foldl (fun t i =>
      if hit i then Tab.put 0 t i ((Tab.get 0 t i + 1) % 2 ^ 48) else t) r.portCnt }
  else s

/-- A response of the router toward the source of a flit: it stands in the router, stamped (R156, R164). -/
def State.routerSends (s : State) (f : Flit) (x y : Nat) : State := s.putNet (s.stamp f x y) (.made x y)

/-- A NACK toward the source from a router. -/
def State.routerNack (s : State) (f : Flit) (x y reason : Nat) : State :=
  if f.isRequest then s.routerSends (nackOf f reason) x y else s

/-- The answer for a core whose port is blocked: a request has reason 5, anything else is lost (R164). -/
def State.coreBlocked (s : State) (f : Flit) (x y : Nat) : State :=
  if f.type = .read then (List.range f.count).foldl (fun s _ => s.routerSends (dataOf f 5 0) x y) s
  else s.routerNack f x y 5

/-- A flit that is decided goes out of its port, or waits for it; out of the array it stands in the selvedge. -/
def State.tryOut (s : State) (e : NetFlit) (x y p : Nat) : State :=
  if s.myTurn e.flit x y p then
    let s := (s.countPort e.flit (coreNum x y) p false).went e.flit x y p
    match leave x y p with
    | .at_ l => s.swapNet e [⟨e.flit, l⟩]
    | .side k =>
      if gaEngine e.flit.dst ≠ s.engineNo then
        let q := s.egressAt k e.flit
        match q.2 with
        | some l => q.1.swapNet e [⟨e.flit, l⟩]
        | none => q.1.swapNet e []
      else s.swapNet e [⟨e.flit, .ring k⟩]
  else s

/-- A checked and stamped flit is decided once, from the register values in force (R153); on a mismatch it is held, in its
place (R159). -/
def State.decideFlit (s : State) (e : NetFlit) (x y port : Nat) : State :=
  let f := e.flit
  let c := coreNum x y
  match s.verdict f x y with
  | .hold k i => s.report k 0x03 (i + ((if i = 0 then 2 else 1) <<< 28))
  | .fence => ((s.swapNet e []).report c 0x0D (bits f.dst 19 28)).routerNack f x y 3
  | .drop => ((s.swapNet e []).report c 0x05 (bits f.dst 19 28 + 2 ^ 35)).routerNack f x y 7
  | .coreBlocked => (s.swapNet e []).coreBlocked f x y
  | .go p g => (s.swapNet e [⟨g, .queued x y port p⟩]).tryOut ⟨g, .queued x y port p⟩ x y p

/-- A checked flit: its own core's is stamped and must belong to a bolt (R160); a router whose RT_FENCE mismatches stamps none
(R159). -/
def State.admitFlit (s : State) (e : NetFlit) (x y port : Nat) : State :=
  let c := coreNum x y
  let held (f : Flit) : NetFlit := ⟨f, .held x y port⟩
  if port = 0 then
    if (s.router c).bad 0 then (s.swapNet e [held e.flit]).report c 0x03 (2 <<< 28)
    else
      let g := s.stamp e.flit x y
      if g.isData && !bitAt ((s.router c).val 0) 3 then
        let s := (s.swapNet e []).report c 0x0D (bits g.dst 19 28)
        if g.isRequest then s.putNet (s.stamp (nackOf g 3) x y) (.core x y) else s
      else (s.swapNet e [held g]).decideFlit (held g) x y port
  else (s.swapNet e [held e.flit]).decideFlit (held e.flit) x y port

/-- The flit stands in the input queue of a port. -/
def atInput (x y port : Nat) : Loc → Bool
  | .router x' y' p => decide (x' = x) && decide (y' = y) && decide (p = port)
  | .held x' y' p => decide (x' = x) && decide (y' = y) && decide (p = port)
  | .queued x' y' p _ => decide (x' = x) && decide (y' = y) && decide (p = port)
  | .made x' y' => decide (x' = x) && decide (y' = y) && decide (port = 0)
  | _ => false

/-- The first flit in flight of the input queue, virtual channel and lane of a flit (R151, R152). -/
def State.firstIn (s : State) (f : Flit) (x y port : Nat) : Option NetFlit :=
  s.net.find? fun e => atInput x y port e.loc && decide (e.flit.vc = f.vc) && (e.flit.phase == f.phase)

/-- The VCORE domain of a skein is powered: its routers forward (R146). -/
def State.domainUp (s : State) (k : Nat) : Bool := decide (1 ≤ (s.skein k).state) && decide ((s.skein k).state ≤ 4)

/-- A flit goes on in its router: the input check (R149), the stamp, the decision, the port. -/
def State.goOn (s : State) (e : NetFlit) (x y port : Nat) (err : EccErr) : State :=
  match e.loc with
  | .queued _ _ _ p => s.tryOut e x y p
  | .made _ _ => s.decideFlit e x y port
  | .held _ _ _ => s.admitFlit e x y port
  | _ =>
    let c := coreNum x y
    let s := s.countPort e.flit c port true
    match err with
    | .none => s.admitFlit e x y port
    | .single => (s.reportSev c 0x01 1 (port + 2 ^ 35)).admitFlit e x y port
    | .double => (s.swapNet e []).reportSev c 0x02 2 (port + 2 ^ 35)

/-- The FAULT flit of a message, to the collector of its source's field (R377, R378; log entry 73). -/
def State.faultFlit (s : State) (m : FaultMsg) (c : Nat) : Flit :=
  let k := collectorCore (fieldOf c)
  { blankFlit .fault 0 (gaMake s.engineNo (coreY k) (coreX k) 0) with line := faultLine m }

/-- A message whose FAULT flit enters its router is on its way as that flit. -/
def State.takeMsg (s : State) (f : Flit) (x y port : Nat) : State :=
  if f.type = .fault ∧ port = 0 then
    match s.faults.inFlight.find? fun m => decide (faultRouter m.source = some (coreNum x y)) &&
        decide (s.faultFlit m (coreNum x y) = f) with
    | some m => { s with faults := { s.faults with inFlight := s.faults.inFlight.erase m } }
    | none => s
  else s

/-- A flit enters a router or goes on in it (R149, R153): it is the first of its input queue, channel and lane, or comes from
outside when none stands there. A lost or unpowered router forwards nothing (R146, R157). -/
def State.routeFlit (s : State) (f : Flit) (x y port : Nat) (err : EccErr) : State :=
  if (s.router (coreNum x y)).lost || !s.domainUp (skeinOf (coreNum x y)) then s
  else match s.firstIn f x y port with
    | some e => if e.flit = f then s.goOn e x y port err else s
    | none => ((s.takeMsg f x y port).putNet f (.router x y port)).goOn ⟨f, .router x y port⟩ x y port err

def execRouteFlit (f : Flit) (x y port : Nat) (err : EccErr) (s : State) : Out :=
  onUnit (decide (x < Config.columns) && decide (y < Config.rows) && decide (port < 9)) s fun s =>
    s.routeFlit f x y port err

/-! ## Arrival -/

/-- The place of arrival of a flit on this engine. -/
def arrivedAt (f : Flit) (l : Loc) : Bool :=
  match l with
  | .core x y => decide (gaY f.dst = y) && decide (gaX f.dst = x)
  | .ring _ => decide (576 ≤ gaY f.dst)
  | _ => false

/-- The receiver that a selvedge address belongs to, as a key: a creel port is one receiver. -/
def objKey (a : Nat) : Nat := if isCreel a then (576 + 12 * creelPortOf a) * 512 else gaY a * 512 + gaX a

/-- Two addresses name one destination core or selvedge object (R152). -/
def sameUnit (a b : Nat) : Bool :=
  decide (gaEngine a = gaEngine b) &&
    if gaY a < 576 ∨ gaY b < 576 then decide (gaY a = gaY b) && decide (gaX a = gaX b) else decide (objKey a = objKey b)

/-- The flit has its source's stamp: it has passed the router that injects it. -/
def stamped : Loc → Bool
  | .router _ _ port => decide (port ≠ 0)
  | .held _ _ port => decide (port ≠ 0)
  | _ => true

/-- The state with a flit taken from where it has arrived; none where it is still on its way, stands behind an earlier one
of its source, destination and virtual channel (R152), or is not for this engine. A flit that is nowhere in flight comes from
outside. -/
def State.arrive (s : State) (f : Flit) : Option State :=
  if gaEngine f.dst ≠ s.engineNo then none
  else match s.net.find? fun e => stamped e.loc && sameUnit e.flit.dst f.dst && decide (e.flit.vc = f.vc) &&
      decide (e.flit.src = f.src) with
    | some e => if e.flit = f ∧ arrivedAt e.flit e.loc = true then some { s with net := dropFirst e s.net } else none
    | none => if s.net.any fun e => decide (e.flit = f) then none else some s

/-- What arrives acts, where it can; an access whose bank a refresh holds waits (R317). -/
def State.arriving (s : State) (f : Flit) (g : State → State) : State :=
  match s.arrive f with
  | some t =>
    if s.bankHeld f then s.modPort (creelPortOf f.dst) fun r => r.waits [f]
    else g (if isCreel f.dst then t.modPort (creelPortOf f.dst) fun r => { r with waited := r.waited.filter fun x => x ≠ f } else t)
  | none => s

/-! ## A core as receiver (R162–R168) -/

/-- Lines accepted are counted per source and channel; one ACK returns the count at 16 lines or at the last one (R164). -/
def countRx (l : List RxCount) (f : Flit) (now : Nat) : List RxCount × Option Nat :=
  let same (r : RxCount) : Bool :=
    decide (r.engine = f.srcEngine) && decide (r.y = f.srcY) && decide (r.x = f.srcX) && decide (r.ch = f.ch)
  let n := (match l.find? same with
    | some r => r.count
    | none => 0) + 1
  let rest := l.filter fun r => !same r
  if n ≥ 16 ∨ f.last = true then (rest, some n)
  else (rest ++ [⟨f.srcEngine, f.srcY, f.srcX, f.ch, n, now⟩], none)

def Cx.accepted (x : Cx) (f : Flit) (now : Nat) : Cx :=
  let q := countRx x.r.rx f now
  let x := x.mod fun r => { r with rx := q.1 }
  match q.2 with
  | some n => (x.send (ackOf f.src f.ch n)).perfEvent 0x0E
  | none => x

def Cx.nack (x : Cx) (f : Flit) (reason : Nat) : Cx := (x.send (nackOf f reason)).perfEvent 0x0E

/-- The record of a credited line's source and id. -/
def grantKey (f : Flit) (g : GrantRec) : Bool :=
  decide (g.engine = f.srcEngine) && decide (g.y = f.srcY) && decide (g.x = f.srcX) && decide (g.creditId = f.creditId)

/-- Why a line has no valid credit (R165, R167): the cause of the detail field, none where it has. -/
def creditCause (r : CoreRec) (f : Flit) : Option Nat :=
  let ss := gaSs f.dst
  let off := gaOff f.dst
  if f.credited then
    match r.grants.find? (grantKey f) with
    | some g =>
      if g.store = ss ∧ g.base ≤ off ∧ off < g.base + 32 * g.limit then
        if g.used < g.limit then none else some 2
      else some 1
    | none => if r.exhausted.any (grantKey f) then some 2 else some 0
  else if (ss = 1 ∨ ss = 2) ∧ f.fromHarness = false ∧ f.fromToken = false then some 3
  else none

def creditDetail (f : Flit) (cause : Nat) : Nat :=
  (f.srcY * 512 + f.srcX) % 2 ^ 19 + (f.srcEngine <<< 19) + (f.creditId <<< 25) + (boolNat f.credited <<< 33) + (cause <<< 34)

/-- An accepted credited line uses one of its record's lines; the record is freed when all are used. -/
def CoreRec.useGrant (r : CoreRec) (f : Flit) : CoreRec :=
  if f.credited then
    match r.grants.find? (grantKey f) with
    | some g =>
      let g' := { g with used := g.used + 1 }
      if g'.used ≥ g'.limit then
        { r with grants := r.grants.filter fun h => !grantKey f h,
                 exhausted := (r.exhausted.filter fun h => !grantKey f h) ++ [g'] }
      else { r with grants := r.grants.map fun h => if grantKey f h then g' else h }
    | none => r
  else r

/-- A WRITE or WRITE_WORD at a core's store. -/
def Cx.takeWrite (x : Cx) (f : Flit) (now : Nat) : Cx :=
  let x := x.perfEvent 0x0F
  let ss := gaSs f.dst
  let off := gaOff f.dst
  let n := f.bytes
  if x.r.st = .scrubbing ∨ x.r.discard = true then x.nack f 6
  else match creditCause x.r f with
    | some cause => (x.say 0x04 2 (creditDetail f cause)).nack f 1
    | none =>
      if !localOk x.r true ss off n then (x.say 0x05 2 (gaLow f.dst)).nack f 2
      else
        let q := x.storeIn ss off n f.data
        if q.2 then (q.1.mod fun r => r.useGrant f).accepted f now else q.1.nack f 4

/-- One line of a READ at a core: the reason and the data. -/
def Cx.readLine (x : Cx) (ss off : Nat) : Cx × Nat × Nat :=
  if x.r.st = .scrubbing then (x, 0, 0)
  else if !localOk x.r false ss off 32 then (x.say 0x05 2 (locAddr ss off), 2, 0)
  else
    let q := x.eccCheck (realSs ss) off 32
    if q.2 then (q.1.perfEvent (shEv (realSs ss)), 0, q.1.r.stores.read (realSs ss) off 32) else (q.1, 4, 0)

/-- A READ at a core: `n` lines return in address order. -/
def Cx.takeRead (f : Flit) : Nat → Nat → Cx → Cx
  | 0, _, x => x
  | n + 1, i, x =>
    let q := x.readLine (gaSs f.dst) (gaOff f.dst + 32 * i)
    Cx.takeRead f n (i + 1) ((q.1.send (dataOf f q.2.1 q.2.2)).perfEvent 0x0E)

/-- What a dead or unpowered core does with a flit before its port is blocked is open: it acts as a live one does, or
nothing happens (R431): a free value. -/
def State.coreTakes (s : State) (c : Nat) (g : State → State) : State :=
  let st := (s.core c).st
  if st = .dead ∨ st = .off then
    let q := s.takeFree
    if Config.freeBit q.1 then g q.2 else q.2
  else g s

/-! ## Selvedge objects as receivers (R171, R174, Tables 6.9 and 6.11) -/

/-- Class of an address from y 960 on: 0 mailbox, 1 token inbound, 2 aperture, 3 link control, 4 exchange RAM, 5 none. -/
def objClass (a : Nat) : Nat :=
  let k := (gaY a - 960) % 16
  if gaY a = 960 ∧ gaX a = 4 then 4
  else if k = 0 ∧ gaX a < 4 then 0
  else if k = 1 ∧ gaX a = 0 then 1
  else if k = 2 then 2
  else if k = 3 ∧ gaX a < 9 then 3
  else 5

def objHarness (a : Nat) : Nat := 4 * objSide a + gaX a

/-- Refused: a range error (reason 2) or an owner error (reason 3), with its report. -/
def State.objRange (s : State) (source : Nat) (f : Flit) : State × Nat := (s.report source 0x05 (gaLow f.dst), 2)
def State.objOwner (s : State) (source : Nat) (f : Flit) : State × Nat := (s.report source 0x0D (bits f.dst 19 28), 3)

/-- A mailbox offset that may be accessed. -/
def mailboxOk (off n : Nat) : Bool :=
  decide (off + n ≤ 0xC800) || (decide (0xF000 ≤ off) && decide (off + n ≤ 0xF040))

/-- A counter sample reaches the mailbox (R389, R391, R392): a record in the bolt's sample ring, or a drop; counter 3 is
preset for its next period. -/
def State.sampleArrive (s : State) (c pc : Nat) : State :=
  match (List.range Config.nBolts).find? fun b => ((s.bolt b).current.bind fun e => placedVirt e c).isSome with
  | none => s
  | some b =>
    let g := s.ctPage b
    let lost := bits (s.core c).pcSample.toNat 13 16
    let s := s.modCore c fun r => setPerfCtr
      { r with pcSample := BitVec.ofNat 29 (bits r.pcSample.toNat 0 13) } 3
      { perfCtr r 3 with cnt := 2 ^ 48 - bits g.sampleCfg.toNat 32 32 }
    let size := 2 ^ (6 + g.sizeCode)
    if (g.tail + 1) % size = g.head % size then s.setCtPage b { g with dropped := satAdd 16 g.dropped (lost + 1) }
    else
      let region := match (s.bolt b).current with
        | some e => ((List.range e.place.length).find? fun i => (indexIn c (e.place.getD i []) 0).isSome).getD 0
        | none => 0
      let rec_ := leBytes 4 (s.virtCore c) ++ leBytes 2 pc ++ leBytes 1 region ++ leBytes 1 0 ++ leBytes 8 s.time
      let t := (g.tail + 1) % size
      let s := { s.setCtPage b { g with tail := t, dropped := satAdd 16 g.dropped lost } with
        hostMem := writeBytes s.hostMem (g.ring.toNat + 16 * (g.tail % size)) rec_ }
      if t % 1024 = 0 ∧ g.vector ≠ 0 then
        match (List.range 32).find? fun i => (s.bolt b).funcMask.getLsbD i with
        | some fn => s.sendMsix fn g.vector
        | none => s
      else s

/-- A write to a harness mailbox: its memory, or an entry of the request ring. -/
def State.mailWrite (s : State) (f : Flit) : State × Nat :=
  let h := objHarness f.dst
  let off := gaLow f.dst
  let n := f.bytes
  if !mailboxOk off n || decide (off % n ≠ 0) then s.objRange (srcHarness h) f
  else if 0xF000 ≤ off then
    (s.modHarn h fun r => { r with ring := r.ring ++ [(BitVec.ofNat 64 f.line.toNat, f.srcY * 512 + f.srcX)] }, 0)
  else
    let s := s.modHarn h fun r => { r with mailbox := writeLE r.mailbox off n f.data }
    let c := coreNum f.srcX f.srcY
    if f.type = .writeWord ∧ f.srcY < 576 ∧ f.srcEngine = s.engineNo ∧ (s.core c).pcSampleDst.toNat = f.dst then
      (s.sampleArrive c (f.data % 1024), 0)
    else (s, 0)

/-- A write to a selvedge object: the reason, 0 where it is accepted. -/
def State.objWrite (s : State) (f : Flit) : State × Nat :=
  let a := f.dst
  let off := gaLow a
  let n := f.bytes
  if isCreel a then
    s.creelWrite (creelPortOf a) (creelOffset a) n f.data a ((f.src <<< 4) + f.ch) f.countsHarness (s.flitBolt f)
  else
    let h := srcHarness (4 * objSide a)
    match objClass a with
    | 0 => s.mailWrite f
    | 1 =>
      if 0x4000 < off + n ∨ off % n ≠ 0 then s.objRange (srcToken (objSide a)) f
      else match s.flitBolt f with
        | some b =>
          if (s.bolt b).st ≠ .none ∧ (s.bolt b).homeSide = objSide a then
            ({ s with tokenIn := Tab.put [] s.tokenIn (objSide a) (writeLE (Tab.get [] s.tokenIn (objSide a)) off n f.data) }, 0)
          else s.objOwner (srcToken (objSide a)) f
        | none => s.objOwner (srcToken (objSide a)) f
    | 2 =>
      match Tab.get none s.aperture (512 * objSide a + gaX a), s.flitBolt f with
      | some (fn, base), some b =>
        if (s.bolt b).funcMask.getLsbD fn then
          if off % n ≠ 0 then s.objRange (srcFunc (8 * objSide a)) f
          else ({ s with hostMem := writeLE s.hostMem (base + off) n f.data }, 0)
        else s.objOwner (srcFunc (8 * objSide a)) f
      | _, _ => s.objOwner (srcFunc (8 * objSide a)) f
    | 3 =>
      let l := 9 * objSide a + gaX a
      if !f.fromHarness then s.objOwner (srcLink l) f else if 0x1000 < off + n then s.objRange (srcLink l) f else (s, 0)
    | 4 =>
      if !f.fromHarness then s.objOwner h f
      else if 0x40000 < off + n ∨ off % n ≠ 0 then s.objRange h f
      else ({ s with xram := writeLE s.xram off n f.data }, 0)
    | _ => s.objRange h f

/-- One line of a READ of a selvedge object: reason and data. -/
def State.objRead (s : State) (f : Flit) (i : Nat) : State × Nat × Nat :=
  let a := f.dst
  let off := gaLow a + 32 * i
  let h := srcHarness (4 * objSide a)
  let fail (q : State × Nat) : State × Nat × Nat := (q.1, q.2, 0)
  if isCreel a then
    let o := creelOffset a + 32 * i
    s.creelRead (creelPortOf a) o a f.countsHarness (s.flitBolt f) (decide (0 < i) && decide (o % 64 ≠ 0))
  else match objClass a with
    | 0 =>
      if !mailboxOk off 32 then fail (s.objRange (srcHarness (objHarness a)) f)
      else if 0xF000 ≤ off then (s, 0, 0)
      else (s, 0, readLE (s.harn (objHarness a)).mailbox off 32)
    | 1 =>
      if 0x4000 < off + 32 then fail (s.objRange (srcToken (objSide a)) f)
      else match s.flitBolt f with
        | some b =>
          if (s.bolt b).st ≠ .none ∧ (s.bolt b).homeSide = objSide a then
            (s, 0, readLE (Tab.get [] s.tokenIn (objSide a)) off 32)
          else fail (s.objOwner (srcToken (objSide a)) f)
        | none => fail (s.objOwner (srcToken (objSide a)) f)
    | 2 =>
      match Tab.get none s.aperture (512 * objSide a + gaX a), s.flitBolt f with
      | some (fn, base), some b =>
        if (s.bolt b).funcMask.getLsbD fn then (s, 0, readLE s.hostMem (base + off) 32)
        else fail (s.objOwner (srcFunc (8 * objSide a)) f)
      | _, _ => fail (s.objOwner (srcFunc (8 * objSide a)) f)
    | 3 =>
      let l := 9 * objSide a + gaX a
      if !f.fromHarness then fail (s.objOwner (srcLink l) f)
      else if 0x1000 < off + 32 then fail (s.objRange (srcLink l) f) else (s, 0, 0)
    | 4 =>
      if !f.fromHarness then fail (s.objOwner h f)
      else if 0x40000 < off + 32 then fail (s.objRange h f)
      else (s, 0, readLE s.xram off 32)
    | _ => fail (s.objRange h f)

/-- A selvedge object's acknowledgement counts (R164). -/
def State.objAccepted (s : State) (f : Flit) : State :=
  let k := objKey f.dst
  let q := countRx (Tab.get [] s.selvRx k) f s.time
  let s := { s with selvRx := Tab.put [] s.selvRx k q.1 }
  match q.2 with
  | some n => s.objRespond f.dst (ackOf f.src f.ch n)
  | none => s

/-- An access to the core control block that is not dropped: by the harness, in its window and aligned (R53, R54). -/
def ccbOk (f : Flit) (off : Nat) : Bool := f.fromHarness && decide (off < 0x1000) && decide (off % 8 = 0)

/-- A WRITE or WRITE_WORD that has arrived. DESIGN CHOICE (log entry 75): a 256-bit line to the core control block acts on the
one register at its address, with the line's low 64 bits. -/
def State.takeWrite (s : State) (f : Flit) : State :=
  if gaY f.dst < 576 then
    let c := coreNum (gaX f.dst) (gaY f.dst)
    if gaSs f.dst = 4 ∧ ccbOk f (gaOff f.dst) = true then
      (s.ccbWrite c (gaOff f.dst) (bits f.line.toNat 0 64)).onCx c fun x => x.accepted f s.time
    else s.coreTakes c fun s => s.onCx c fun x => x.takeWrite f s.time
  else
    let q := s.objWrite f
    if q.2 = 0 then q.1.objAccepted f else q.1.objRespond f.dst (nackOf f q.2)

def execWrite (f : Flit) (s : State) : Out :=
  .next (whenS (decide (f.type = .write)) s fun s => s.arriving f fun s => s.takeWrite f)

def execWriteWord (f : Flit) (s : State) : Out :=
  .next (whenS (decide (f.type = .writeWord)) s fun s => s.arriving f fun s => s.takeWrite f)

/-- The lines of a READ of a selvedge object, in address order. -/
def State.objReads (f : Flit) : Nat → Nat → State → State
  | 0, _, s => s
  | n + 1, i, s =>
    let q := s.objRead f i
    State.objReads f n (i + 1) (q.1.objRespond f.dst (dataOf f q.2.1 q.2.2))

/-- The lines of a harness's READ of the core control block, in address order: the register at each line's address, in its
low 64 bits (log entry 75); a line past the window has reason 2 (R53, R164). -/
def State.ccbReads (c : Nat) (f : Flit) : Nat → Nat → State → State
  | 0, _, s => s
  | n + 1, i, s =>
    let off := gaOff f.dst + 32 * i
    let s := if off < 0x1000 then
        (s.setCore c (s.ccbRead c off).2).onCx c fun x => x.send (dataOf f 0 (s.ccbRead c off).1)
      else s.onCx c fun x => (x.say 0x05 2 (locAddr 4 off)).send (dataOf f 2 0)
    State.ccbReads c f n (i + 1) s

/-- A READ that has arrived. -/
def execRead (f : Flit) (s : State) : Out :=
  .next (whenS (decide (f.type = .read)) s fun s => s.arriving f fun s =>
    if gaY f.dst < 576 then
      let c := coreNum (gaX f.dst) (gaY f.dst)
      if gaSs f.dst = 4 ∧ f.fromHarness = true then State.ccbReads c f f.count 0 s
      else s.coreTakes c fun s => s.onCx c fun x => Cx.takeRead f f.count 0 (x.perfEvent 0x0F)
    else State.objReads f f.count 0 s)

/-! ## Responses at the requesting channel (R65, R66, R162, R164) -/

/-- A response acts on the channel it names at a core, be it active or in MISS; one for the harness or another selvedge source
ends there. -/
def State.atChannel (s : State) (f : Flit) (g : ShEnv → Cx → Active → Cx) : State :=
  if gaY f.dst < 576 then
    let c := coreNum (gaX f.dst) (gaY f.dst)
    s.coreTakes c fun s => s.onCx c fun x =>
      let x := x.perfEvent 0x0F
      match x.act? f.ch with
      | some a =>
        if (x.r.chan f.ch).state = .active ∨ (x.r.chan f.ch).state = .miss then g (s.shEnv c) x a else x
      | none => x
  else s

/-- A READ_DATA: a non-zero reason stops the channel; otherwise the line is staged, and a full batch is written. -/
def execReadData (f : Flit) (s : State) : Out :=
  .next (whenS (decide (f.type = .readData)) s fun s => s.arriving f fun s =>
    s.atChannel f fun v x a =>
      if a.outstanding = 0 then x
      else if f.reason ≠ 0 then x.chanStop f.ch a.next
      else
        let x := x.setAct f.ch { a with staged := a.staged ++ [f.line], outstanding := a.outstanding - 1 }
        if a.outstanding = 1 then x.run v f.ch else x)

/-- Lines of a channel in MISS are acknowledged: it keeps its position. -/
def Cx.ackMiss (x : Cx) (ch : Nat) (a : Active) (n : Nat) : Cx :=
  x.mod fun r => r.setChan ch { r.chan ch with active := some { a with acked := a.acked + n } }

/-- An ACK: its lines are accepted; the last one lets the notify go, and the notify's own ACK completes the descriptor. -/
def execAck (f : Flit) (s : State) : Out :=
  .next (whenS (decide (f.type = .ack)) s fun s => s.arriving f fun s =>
    s.atChannel f fun v x a =>
      if (x.r.chan f.ch).state = .miss then x.ackMiss f.ch a f.acks
      else if a.notifying then x.finish f.ch a
      else (x.setAct f.ch { a with acked := a.acked + f.acks }).run v f.ch)

/-- A NACK puts the channel in ERROR. -/
def execNack (f : Flit) (s : State) : Out :=
  .next (whenS (decide (f.type = .nack)) s fun s => s.arriving f fun s =>
    s.atChannel f fun _ x a => x.chanStop f.ch a.acked)

/-- A GRANT adds to the writer's credit counter, saturating (R167). -/
def execGrantFlit (f : Flit) (s : State) : Out :=
  .next (whenS (decide (f.type = .grant)) s fun s => s.arriving f fun s =>
    if gaY f.dst < 576 then
      let c := coreNum (gaX f.dst) (gaY f.dst)
      s.coreTakes c fun s => s.onCx c fun x =>
        (x.perfEvent 0x0F).mod fun r =>
          { r with credits := Tab.put 0 r.credits f.creditId (satAdd 16 (Tab.get 0 r.credits f.creditId) f.arg) }
    else s)

/-! ## CTRL, CTRL_RESP and BEAT (R148, R158, R172, R390) -/

end Sys2Proof.Machine

namespace Sys2Proof

open Sys2Proof.Machine

/-- A CTRL flit's head argument, which the head's table leaves to the type: bit 0 reads, bit 1 names the core control block
(log entry 20). -/
def Flit.ctrlReads (f : Flit) : Bool := bitAt f.arg 0
def Flit.ctrlCore (f : Flit) : Bool := bitAt f.arg 1


end Sys2Proof

namespace Sys2Proof.Machine

open Sys2Proof

def ctrlResp (f : Flit) (v : Nat) : Flit :=
  { blankFlit .ctrlResp 0 f.src with ch := f.ch, line := BitVec.ofNat 256 (v % 2 ^ 64) }

/-- A router register or, at the skein's corner router, a port counter register: read. -/
def State.rtRead (s : State) (c i : Nat) : Nat :=
  if i < 10 then ((s.router c).word i).toNat
  else if coreQ c = 0 then
    let r := s.skein (skeinOf c)
    if 0x100 ≤ i ∧ i < 0x108 then Tab.get 0 r.portCfg (i - 0x100)
    else if 0x108 ≤ i ∧ i < 0x110 then Tab.get 0 r.portCnt (i - 0x108)
    else if 0x110 ≤ i ∧ i < 0x118 then Tab.get 0 r.portWin (i - 0x110)
    else 0
  else 0

/-- The same written: shadows, RT_COMMIT, and port counter configurations. -/
def State.rtWrite (s : State) (c i v : Nat) : State :=
  if i < 10 then
    s.modRouter c fun r => { r with
      sh := Tab.put rtReset r.sh i (BitVec.ofNat 64 ((v % 2 ^ 32 &&& rtMask i) + (bits v 32 32 <<< 32))) }
  else if i = 0x0F then if bitAt v 0 then s.rtCommit c else s
  else if coreQ c = 0 ∧ 0x100 ≤ i ∧ i < 0x108 then
    s.modSkein (skeinOf c) fun r => { r with
      portCfg := Tab.put 0 r.portCfg (i - 0x100) (bits v 0 20)
      portCnt := Tab.put 0 r.portCnt (i - 0x100) 0 }
  else s

/-- A CTRL flit from a harness source accesses a router's registers or the core control block; from any other source it is
dropped (R54, R172). -/
def execCtrl (f : Flit) (s : State) : Out :=
  .next (whenS (decide (f.type = .ctrl)) s fun s => s.arriving f fun s =>
    if gaY f.dst < 576 then
      let c := coreNum (gaX f.dst) (gaY f.dst)
      let v := bits f.line.toNat 0 64
      let off := gaOff f.dst
      if !f.fromHarness then s.report c 0x05 (gaLow f.dst)
      else if f.ctrlCore then
        if !ccbOk f off then s.report c 0x05 (gaLow f.dst)
        else if f.ctrlReads then
          let q := s.ccbRead c off
          (s.setCore c q.2).putNet (ctrlResp f q.1) (.router (coreX c) (coreY c) 0)
        else s.ccbWrite c off v
      else if f.ctrlReads then s.putNet (ctrlResp f (s.rtRead c (off / 8))) (.router (coreX c) (coreY c) 0)
      else s.rtWrite c (off / 8) v
    else s)

/-- A CTRL_RESP brings its data to the harness, and answers an outstanding probe of that core (R254). -/
def execCtrlResp (f : Flit) (s : State) : Out :=
  .next (whenS (decide (f.type = .ctrlResp)) s fun s => s.arriving f fun s =>
    if 960 ≤ gaY f.dst then
      { s with ctrlData := BitVec.ofNat 64 f.line.toNat,
               probes := if f.srcY < 576 then Tab.erase s.probes (coreNum f.srcX f.srcY) else s.probes }
    else s)

/-- A heartbeat reaches its skein monitor, which sees it in its open window (R38). -/
def execBeat (f : Flit) (s : State) : Out :=
  .next (whenS (decide (f.type = .beat)) s fun s => s.arriving f fun s =>
    let c := coreNum f.srcX f.srcY
    if f.srcY < 576 ∧ f.dst = s.monitorAddr (skeinOf c) then
      s.modCore c fun r => { r with beatSeen := true, missed := 0 }
    else s)

/-! ## The ingress check (R337) -/

/-- A flit refused at the ingress: a request is answered with reason 3 over the span. -/
def State.ingressRefuse (s : State) (side : Nat) (f : Flit) : State :=
  let s := s.report srcSpan 0x0D (bits f.dst 19 28)
  if f.isRequest then s.fromSelvedge side (s.selvedgeNack side f 3) else s

/-- A selvedge object that a remote harness reaches (Table 13.6). -/
def remoteHarnessOk (a : Nat) : Bool :=
  isCreel a || (decide (960 ≤ gaY a) && decide ((gaY a - 960) % 16 = 0) && decide (gaX a < 4)) ||
  (decide (gaY a = 960) && decide (gaX a = 4))

/-- The core at an address belongs to a bolt, by its router's fence register. -/
def State.inBolt (s : State) (a b : Nat) : Bool :=
  let v := (s.router (coreNum (gaX a) (gaY a))).val 0
  bitAt v 3 && decide (v % 8 = b)

/-- A flit that the ingress holds until the harness has rewritten a register that its check needs (R159, R337). -/
def State.holdIngress (s : State) (side : Nat) (f : Flit) : State :=
  { s with span := { s.span with held := s.span.held ++ [(side, f)] } }

/-- A flit that a bundle has released on a side (Table 13.6). Responses of remote selvedge objects are delivered, and a
CTRL flit of another engine is dropped (log entry 38). -/
def State.ingress (s : State) (side : Nat) (f0 : Flit) : State :=
  let f := { f0 with ext := true }
  if gaEngine f.dst ≠ s.engineNo then s.egress side f
  else if f.vc = 0 then (if f.type = .ctrl ∨ f.type = .ctrlResp then s else s.fromSelvedge side f)
  else if f.srcY < 576 then
    if wordBad (Tab.get rtReset s.span.peer f.srcEngine) then
      (s.holdIngress side f).report srcSpan 0x03 (f.srcEngine + (10 <<< 28))
    else if gaY f.dst < 576 ∧ (s.router (coreNum (gaX f.dst) (gaY f.dst))).bad 0 = true then
      (s.holdIngress side f).report (coreNum (gaX f.dst) (gaY f.dst)) 0x03 (2 <<< 28)
    else match s.peerBolt f.srcEngine f.bolt with
      | none => s.ingressRefuse side f
      | some b => if gaY f.dst < 576 ∧ s.inBolt f.dst b = false then s.ingressRefuse side f else s.fromSelvedge side f
  else if f.isRequest then (if remoteHarnessOk f.dst && f.countsHarness then s.fromSelvedge side f else s.ingressRefuse side f)
  else s.fromSelvedge side f

/-- Flits that the ingress held meet the check again. -/
def State.ingressAgain (s : State) : State :=
  s.span.held.foldl (fun s h => s.ingress h.1 h.2) { s with span := { s.span with held := [] } }

/-! ## The acknowledgement timer (R164) and the harness's rewrites (R130, R159, R335, R337, R347) -/

/-- A source as the timer names it: engine, y and x. -/
def rxSource (r : RxCount) : Nat := (r.engine <<< 19) + r.y * 512 + r.x

/-- The count of a source and channel, 64 ns after its latest line. -/
def lapsedRx (l : List RxCount) (src ch now : Nat) : Option RxCount :=
  l.find? fun r => decide (rxSource r = src) && decide (r.ch = ch) && decide (r.since + 64 ≤ now)

/-- 64 ns pass: the receiver sends one ACK with its count. Receivers are cores, and selvedge objects by their key. -/
def execAckTimerExpiry (c src ch : Nat) (s : State) : Out :=
  onUnit (decide (c < 1024 * 512)) s fun s =>
    if c < Config.nCores then
      s.onCx c fun x =>
        match lapsedRx x.r.rx src ch s.time with
        | some r => ((x.mod fun k => { k with rx := k.rx.filter fun q => q ≠ r }).send
            (ackOf (gaMake r.engine r.y r.x 0) r.ch r.count)).perfEvent 0x0E
        | none => x
    else
      match lapsedRx (Tab.get [] s.selvRx c) src ch s.time with
      | some r =>
        { s with selvRx := Tab.put [] s.selvRx c ((Tab.get [] s.selvRx c).filter fun q => q ≠ r) }.objRespond
          (gaMake s.engineNo (c / 512) (c % 512) 0) (ackOf (gaMake r.engine r.y r.x 0) r.ch r.count)
      | none => s

/-- Flits that stand on the ring for an engine go to their bundle again. -/
def State.egressAgain (s : State) (e : Nat) : State :=
  let held (n : NetFlit) : Bool := match n.loc with
    | .ring _ => decide (gaEngine n.flit.dst = e) && decide (e ≠ s.engineNo)
    | _ => false
  (s.net.filter held).foldl (fun s n => match n.loc with
    | .ring k => s.egress k n.flit
    | _ => s) { s with net := s.net.filter fun n => !held n }

/-- The harness rewrites a register from its own copy after a complement mismatch. -/
def State.rewrite (s : State) : RewriteTarget → State
  | .allowance k => s.modSkein k fun r => { r with
      allowance := BitVec.ofNat 10 r.allowCopy, allowanceInv := ~~~(BitVec.ofNat 10 r.allowCopy),
      burst := BitVec.ofNat 10 r.burstCopy, burstInv := ~~~(BitVec.ofNat 10 r.burstCopy), mismatchReported := false }
  | .router c i =>
    let r := s.router c
    (s.setRt c { r with
      reg := Tab.put rtReset r.reg i (Tab.get rtReset r.copy i)
      sh := Tab.put rtReset r.sh i (Tab.get rtReset r.copy i) }).ingressAgain
  | .spanRoute e =>
    ({ s with span := { s.span with
        route := Tab.put rtReset s.span.route e (Tab.get rtReset s.span.routeCopy e) } } : State).egressAgain e
  | .spanPeer e =>
    ({ s with span := { s.span with
        peer := Tab.put rtReset s.span.peer e (Tab.get rtReset s.span.peerCopy e) } } : State).ingressAgain
  | .voltage k => s.modSkein k fun r => { r with ctrl := r.ctrlCopy, ctrlSh := r.ctrlCopy }

/-- The mismatch that calls for the rewrite is there. -/
def State.mismatched (s : State) : RewriteTarget → Bool
  | .allowance k => budgetBad (s.skein k)
  | .router c i => (s.router c).bad i
  | .spanRoute e => wordBad (s.routeWord e)
  | .spanPeer e => wordBad (Tab.get rtReset s.span.peer e)
  | .voltage k => wordBad (s.skein k).ctrl

def rewriteUnit : RewriteTarget → Bool
  | .allowance k => decide (k < Config.nSkeins)
  | .router c i => decide (c < Config.nCores) && decide (i < 10)
  | .spanRoute e => decide (e < 64)
  | .spanPeer e => decide (e < 64)
  | .voltage k => decide (k < Config.nSkeins)

def execHarnessRewrite (t : RewriteTarget) (s : State) : Out :=
  onUnit (rewriteUnit t) s fun s => whenS (s.mismatched t) s fun s => s.rewrite t

end Sys2Proof.Machine
end

