-- ==== Sys2Proof/Machine/Links.lean ====
section
/-! DEFINITION. Aumen flits, lanes with their retry, and bundles: what a lane sends and takes, and the order of release
(R327–R333). -/

namespace Sys2Proof.Machine

open Sys2Proof

/-! ## Flit heads as bits (Tables 6.1, 6.2) -/

def typeCode : FlitType → Nat
  | .write => 0x0
  | .writeWord => 0x1
  | .read => 0x2
  | .readData => 0x3
  | .ack => 0x4
  | .nack => 0x5
  | .grant => 0x6
  | .ctrl => 0x8
  | .ctrlResp => 0x9
  | .fault => 0xA
  | .beat => 0xB

def flitType (n : Nat) : Option FlitType :=
  [FlitType.write, .writeWord, .read, .readData, .ack, .nack, .grant, .ctrl, .ctrlResp, .fault, .beat].find? fun t =>
    decide (typeCode t = n)

/-- The 128-bit head of a flit. -/
def headOf (f : Flit) : Nat :=
  let w := f.wp.getD (0, 0)
  f.dst % 2 ^ 47 + (f.srcY <<< 47) + (f.srcX <<< 57) + (f.srcEngine <<< 66) + (typeCode f.type <<< 72) + (f.vc <<< 76) +
  (boolNat f.ext <<< 78) + (f.bolt <<< 79) + (boolNat f.phase <<< 82) + (boolNat f.wp.isSome <<< 83) + (w.1 <<< 84) +
  (w.2 <<< 93) + (boolNat f.credited <<< 103) + (f.creditId <<< 104) + (f.ch <<< 112) + (boolNat f.last <<< 116) +
  (f.arg <<< 117)

/-- The flit of a head and a line; no block generates the other type codes. -/
def flitOf (h : Nat) (line : Line) : Option Flit :=
  (flitType (bits h 72 4)).map fun t =>
    { dst := bits h 0 47, srcY := bits h 47 10, srcX := bits h 57 9, srcEngine := bits h 66 6, type := t, vc := bits h 76 2,
      ext := bitAt h 78, bolt := bits h 79 3, phase := bitAt h 82,
      wp := if bitAt h 83 then some (bits h 84 9, bits h 93 10) else none, credited := bitAt h 103,
      creditId := bits h 104 8, ch := bits h 112 4, last := bitAt h 116, arg := bits h 117 11, line := line }

/-! ## The Aumen flit (Table 13.2) -/

def auByte (raw : BitVec 2048) (k : Nat) : Nat := bits raw.toNat (8 * k) 8
def auField (raw : BitVec 2048) (k n : Nat) : Nat := bits raw.toNat (8 * k) (8 * n)
def auKind (raw : BitVec 2048) : Nat := auByte raw 0
def auSeq (raw : BitVec 2048) : Nat := auByte raw 1
def auBundle (raw : BitVec 2048) : Nat := auField raw 4 3
def auBytes (raw : BitVec 2048) : List Byte := tabulate 256 fun k => BitVec.ofNat 8 (auByte raw k)

/-- The CRC holds, the kind is not reserved, and the reserved bytes are 0. -/
def auGood (raw : BitVec 2048) : Bool :=
  decide (crc32 ((auBytes raw).take 252) = auField raw 252 4) && decide (auKind raw < 4)

/-- A flit from its bytes 0–251, with its CRC. -/
def auMake (b : List Byte) : BitVec 2048 :=
  let b := (b ++ List.replicate (252 - b.length) 0).take 252
  BitVec.ofNat 2048 (leNat (b ++ leBytes 4 (crc32 b)))

/-- The fabric flits that a slot flit or a run flit carries. -/
def auFlits (raw : BitVec 2048) : List Flit :=
  let n := auByte raw 248
  if auKind raw = 1 then
    (List.range (min n 5)).filterMap fun i => flitOf (auField raw (8 + 48 * i) 16) (BitVec.ofNat 256 (auField raw (24 + 48 * i) 32))
  else if auKind raw = 2 then
    (List.range (min n 7)).filterMap fun k =>
      (flitOf (auField raw 8 16) (BitVec.ofNat 256 (auField raw (24 + 32 * k) 32))).map fun f =>
        { f with dst := (f.dst + 32 * k) % 2 ^ 47, last := f.last && decide (k + 1 = n) }
  else []

/-! ## Lanes (R329) -/

def State.lane (s : State) (l k : Nat) : LaneRec := Tab.get {} (s.link l).lanes k
def State.setLane (s : State) (l k : Nat) (r : LaneRec) : State :=
  s.modLink l fun x => { x with lanes := Tab.put {} x.lanes k r }

/-- Lanes of the group in use; all of them on an eight-lane link. -/
def LinkRec.inUse (r : LinkRec) (k : Nat) : Bool := !r.mode4 || decide (k / 4 = boolNat r.group)

/-- The latest lane_seq received in order; before the first flit, the one before 0 (log entry 39). -/
def LaneRec.latest (r : LaneRec) : Nat := if r.rxAny then r.rxSeq else 255

/-- Bytes 0–7 of a flit that a lane sends now. -/
def LaneRec.front (r : LaneRec) (kind bseq vc : Nat) : List Byte :=
  leBytes 1 kind ++ leBytes 1 r.txSeq ++ leBytes 1 r.latest ++ leBytes 1 (boolNat r.rxAny + 2 * boolNat r.nak) ++
  leBytes 3 bseq ++ leBytes 1 vc

/-- A lane takes a flit to send: numbered, and kept for replay. -/
def LaneRec.push (r : LaneRec) (kind bseq vc : Nat) (body : List Byte) (count : Nat) : LaneRec :=
  let b := (body ++ List.replicate (240 - body.length) 0).take 240
  { r with txSeq := (r.txSeq + 1) % 256
           replay := r.replay ++ [auMake (r.front kind bseq vc ++ b ++ leBytes 1 count)] }

def LaneRec.room (r : LaneRec) : Bool := decide (r.state = 1) && decide (r.replay.length < 64)

/-- Lanes that can take a flit now: for data on the links that carry it, for control on every link that is not down. -/
def State.freeLanes (s : State) (e : Nat) (control : Bool) : List Nat :=
  (List.range (8 * Config.nLinks)).filter fun n =>
    let k := s.link (n / 8)
    (if control then decide (k.state ≠ 3) && decide (k.peerEngine = e) && decide (k.peerSerial ≠ 0) else s.carries (n / 8) e) &&
    k.inUse (n % 8) && (s.lane (n / 8) (n % 8)).room

def State.bundle (s : State) (e : Nat) : BundleRec := Tab.get {} s.span.bundles e
def State.setBundle (s : State) (e : Nat) (r : BundleRec) : State :=
  { s with span := { s.span with bundles := Tab.put {} s.span.bundles e r } }

/-- The next lane with room, in round-robin order of link and lane. -/
def pickLane (rr : Nat) (l : List Nat) : Option Nat := (l.find? fun n => decide (rr ≤ n)).or l.head?

/-- A flit given to the next free lane of a bundle; none where no lane has room. -/
def State.giveLane (s : State) (e : Nat) (control : Bool) (kind bseq vc : Nat) (body : List Byte) (count : Nat) : Option State :=
  (pickLane (s.bundle e).rr (s.freeLanes e control)).map fun n =>
    (s.setLane (n / 8) (n % 8) ((s.lane (n / 8) (n % 8)).push kind bseq vc body count)).setBundle e
      { s.bundle e with rr := (n + 1) % (8 * Config.nLinks) }

/-- A control flit to an engine (Table 13.3): it goes on the lane of the bundle that is free next. -/
def State.sendControl (s : State) (e name : Nat) (content : List Byte) : State :=
  s.setBundle e { s.bundle e with controls := (s.bundle e).controls ++ [leBytes 1 name ++ content] }

/-- The route word of a destination before the harness uses it for a message: one whose complement fails is reported and written
again from the harness's copy (R17, R335). -/
def State.goodRoute (s : State) (e : Nat) : State :=
  if wordBad (s.routeWord e) then (s.report srcSpan 0x03 (e + (9 <<< 28))).rewrite (.spanRoute e) else s

/-- A harness-to-harness message to an engine, over the route that survives: what it says, the engine and its bolt, the
sender, the load that it is about, and its arguments (R237, R238; log entry 41). -/
def State.sayTo (s : State) (e what b id : Nat) (args : List Byte) : State :=
  if e = s.engineNo then s
  else
    let s := s.goodRoute e
    match s.hopOf e with
    | some h => s.sendControl h 3 (leBytes 1 what ++ leBytes 1 e ++ leBytes 1 s.engineNo ++ leBytes 1 b ++ leBytes 4 id ++ args)
    | none => s

/-- The same to every other position of a chain. -/
def State.sayAll (s : State) (e : EpochRec) (what : Nat) (args : List Byte) : State :=
  (e.chain.zipIdx.filter fun x => decide (x.2 ≠ e.position)).foldl (fun s x =>
    s.sayTo x.1.1 what x.1.2 (e.manifestHash.toNat % 2 ^ 32) args) s

/-- What the messages of a load say. -/
def msgOpen : Nat := 0
def msgManifest : Nat := 1
def msgShard : Nat := 2
def msgReady : Nat := 3
def msgCommit : Nat := 4
def msgAck : Nat := 5
def msgFail : Nat := 6
def msgEnd : Nat := 7
/-- A member of a span group has lost every route to another (R338). -/
def msgLost : Nat := 8
/-- A position is fit for the load (R234); the next position asks for a shard, and has it in pieces (R235, R237); a virtual core
has moved (R135). -/
def msgFit : Nat := 9
def msgWant : Nat := 10
def msgBytes : Nat := 11
def msgMoved : Nat := 12

/-- Control flits go before data. -/
def State.pumpControls (e : Nat) : Nat → State → State
  | 0, s => s
  | n + 1, s =>
    match (s.bundle e).controls with
    | c :: rest => match s.giveLane e true 3 0 0 c 0 with
      | some s' => State.pumpControls e n (s'.setBundle e { s'.bundle e with controls := rest })
      | none => s
    | [] => s

/-! ## Egress of a bundle (R328, R332, R333) -/

/-- The flits of a virtual channel that wait for a bundle, in order. -/
def State.bundleWaits (s : State) (e vc : Nat) : List Flit :=
  (s.net.filter fun n => decide (n.loc = .bundle e) && decide (n.flit.vc = vc)).map fun n => n.flit

/-- `b` continues the run that `a` begins, `k` lines on. -/
def continues (a b : Flit) (k : Nat) : Bool :=
  decide (a.type = .write) && decide ({ b with dst := a.dst, line := a.line, last := a.last } = a) &&
  decide (b.dst = a.dst + 32 * k)

/-- The lines that make a run with the first flit: consecutive, none but the final one the last of its descriptor. -/
def runFrom (a : Flit) : Nat → Nat → List Flit → List Flit
  | 0, _, _ => []
  | _ + 1, _, [] => []
  | n + 1, k, b :: r => if continues a b k then (if b.last then [b] else b :: runFrom a n (k + 1) r) else []

def runOf : List Flit → List Flit
  | [] => []
  | a :: r => if a.last then [a] else a :: runFrom a 6 1 r

/-- The flits of a slot flit: up to five, before the next run begins. -/
def slotsOf : Nat → List Flit → List Flit
  | 0, _ => []
  | _ + 1, [] => []
  | n + 1, a :: r => if 2 ≤ (runOf (a :: r)).length then [] else a :: slotsOf n r

def lineBytes (l : Line) : List Byte := leBytes 32 l.toNat
def headBytes (f : Flit) : List Byte := leBytes 16 (headOf f)

/-- Kind, flits, body and count of the next Aumen flit of a channel. -/
def nextAumen (l : List Flit) : Nat × List Flit × List Byte :=
  let run := runOf l
  match run, run.getLast? with
  | a :: _ :: _, some z => (2, run, headBytes { a with last := z.last } ++ run.flatMap fun f => lineBytes f.line)
  | _, _ =>
    let x := slotsOf 5 l
    (1, x, x.flatMap fun f => headBytes f ++ lineBytes f.line)

/-- The channel that goes next, among those with flits and with space at the receiver (R150, R333). -/
def State.bundleVc (s : State) (e : Nat) : Option Nat :=
  let r := s.bundle e
  let can (v : Nat) : Bool := !(s.bundleWaits e v).isEmpty && decide (0 < Tab.get 256 r.space v)
  let bulk := can 1 || can 2
  if can 0 && !(decide (63 ≤ r.vc0run) && bulk) then some 0
  else if can 1 && !(decide (r.lastBulk = 1) && can 2) then some 1
  else if can 2 then some 2
  else none

def dropFlits (e : Nat) (fs : List Flit) (net : List NetFlit) : List NetFlit :=
  fs.foldl (fun n f => dropFirst ⟨f, .bundle e⟩ n) net

/-- What waits for a bundle goes to its lanes while they have room and the receiver has space. -/
def State.pump (e : Nat) : Nat → State → State
  | 0, s => s
  | n + 1, s =>
    match s.bundleVc e with
    | some v =>
      let x := nextAumen (s.bundleWaits e v)
      let r := s.bundle e
      match s.giveLane e false x.1 r.txSeq v x.2.2 x.2.1.length with
      | some s' =>
        let r' := s'.bundle e
        let bulk := !(s.bundleWaits e 1).isEmpty || !(s.bundleWaits e 2).isEmpty
        State.pump e n ({ s' with net := dropFlits e x.2.1 s'.net }.setBundle e { r' with
          txSeq := (r.txSeq + 1) % 2 ^ 24
          unacked := r.unacked + 1
          space := Tab.put 256 r.space v (Tab.get 256 r.space v - 1)
          vc0run := if v = 0 then (if bulk then r.vc0run + 1 else 0) else 0
          lastBulk := if v = 0 then r.lastBulk else v })
      | none => s
    | none => s

/-- Data flits of lanes that left the bundle are sent again, under their bundle_seq (R330, R333). -/
def State.pumpAgain (e : Nat) : Nat → State → State
  | 0, s => s
  | n + 1, s =>
    match (s.bundle e).again with
    | w :: rest => match s.giveLane e false (auKind w) (auBundle w) (auByte w 7) ((auBytes w).drop 8) (auByte w 248) with
      | some s' => State.pumpAgain e n (s'.setBundle e { s'.bundle e with again := rest })
      | none => s
    | [] => s

def State.pumpBundle (s : State) (e : Nat) : State :=
  let s := State.pumpControls e (s.bundle e).controls.length s
  if !(s.bundle e).controls.isEmpty then s
  else
    let s := State.pumpAgain e (s.bundle e).again.length s
    if (s.bundle e).again.isEmpty then State.pump e s.net.length s else s

/-! ## Arrival on a lane (R329) -/

/-- A flit of the lane is lost: a retry, reported with the lane_seq that is missing. -/
def State.laneLost (s : State) (l k : Nat) : State :=
  let r := s.lane l k
  let s := s.setLane l k { r with
    nak := true, attempts := r.attempts + 1
    retryTimes := s.time :: r.retryTimes.filter fun t => decide (s.time < t + 1000000) }
  (s.modLink l fun x => { x with retries := satAdd 32 x.retries 1 }).report (srcLink l) 0x0E
    (l + (k <<< 6) + (((r.latest + 1) % 256) <<< 9))

/-- Data flits of a bundle in a replay buffer. -/
def dataFlits (l : List (BitVec 2048)) : Nat := (l.filter fun f => decide (auKind f = 1) || decide (auKind f = 2)).length

/-- The acknowledgement that a flit carries: the replay buffer keeps what follows ack_seq. -/
def State.laneAck (s : State) (l k : Nat) (raw : BitVec 2048) : State :=
  let r := s.lane l k
  let left := (r.txSeq + 255 - auByte raw 2) % 256
  if auByte raw 3 % 2 = 1 ∧ left < r.replay.length then
    let n := r.replay.length - left
    let e := (s.link l).peerEngine
    (s.setLane l k { r with replay := r.replay.drop n }).setBundle e
      { s.bundle e with unacked := (s.bundle e).unacked - dataFlits (r.replay.take n) }
  else s

/-- The check of an arriving flit: whether its body is taken now. A flit that fails its CRC or its FEC, and a gap in
lane_seq, is one retry; while the nak stands later flits are discarded. -/
def State.laneTake (s : State) (l k : Nat) (raw : BitVec 2048) (fecOk : Bool) : State × Bool :=
  let s := if fecOk then s else s.modLink l fun x => { x with fecUncorr := satAdd 16 x.fecUncorr 1 }
  if !fecOk || !auGood raw then (s.laneLost l k, false)
  else
    let s := s.laneAck l k raw
    let r := s.lane l k
    let next := (r.latest + 1) % 256
    if auKind raw = 0 then
      if auSeq raw = r.latest then (s.setLane l k { r with nak := false, attempts := 0 }, true)
      else (if r.nak then s else s.laneLost l k, false)
    else if auSeq raw = next then
      (s.setLane l k { r with rxSeq := next, rxAny := true, nak := false, attempts := 0 }, true)
    else if r.nak ∨ (next + 256 - auSeq raw) % 256 ≤ 64 then (s, false)
    else (s.laneLost l k, false)

/-- The lane of a link receives. -/
def State.laneHears (s : State) (l k : Nat) : Bool :=
  let r := s.link l
  decide (k < 8) && decide ((s.lane l k).state = 1) && r.inUse k && decide (r.state ≠ 3) && !r.disable

/-- A command on a lane of a link: the flit is of the command's kind, or is lost in any case. -/
def onLane_ (l k : Nat) (kind : Nat) (raw : BitVec 2048) (fecOk : Bool) (s : State) (f : State → State) : Out :=
  onUnit (decide (l < Config.nLinks) && decide (k < 8)) s fun s =>
    whenS (s.laneHears l k && (!fecOk || !auGood raw || decide (auKind raw = kind))) s fun s =>
      let q := s.laneTake l k raw fecOk
      let s := if q.2 then f q.1 else q.1
      s.pumpBundle (s.link l).peerEngine

/-! ## Release in bundle order (R332, R333) -/

/-- The fabric flits of a released flit meet the ingress check on the side of the link, and its buffer space is returned. -/
def State.release (s : State) (e side vc : Nat) (fs : List Flit) : State :=
  let s := fs.foldl (fun s f => s.ingress side f) s
  s.sendControl e 2 (leBytes 2 (boolNat (decide (vc = 0))) ++ leBytes 2 (boolNat (decide (vc = 1))) ++
    leBytes 2 (boolNat (decide (vc = 2))))

/-- Flits that stand in order are released. -/
def State.releaseAll (e side : Nat) : Nat → State → State
  | 0, s => s
  | n + 1, s =>
    let r := s.bundle e
    match r.reorder.find? fun x => decide (x.1 = r.rxSeq) with
    | some x =>
      State.releaseAll e side n ((s.setBundle e { r with
        rxSeq := (r.rxSeq + 1) % 2 ^ 24, reorder := r.reorder.filter fun y => y.1 ≠ x.1 }).release e side x.2.1 x.2.2)
    | none => s

/-- The body of a data flit enters its bundle; one whose bundle_seq was released before is discarded. -/
def State.bundleTake (s : State) (l : Nat) (raw : BitVec 2048) : State :=
  let e := (s.link l).peerEngine
  let r := s.bundle e
  let ahead := (auBundle raw + 2 ^ 24 - r.rxSeq) % 2 ^ 24
  if s.carries l e = false ∨ 2 ^ 23 ≤ ahead ∨ (r.reorder.any fun x => decide (x.1 = auBundle raw)) = true then s
  else
    let s := s.setBundle e { r with reorder := r.reorder ++ [(auBundle raw, auByte raw 7, auFlits raw)] }
    State.releaseAll e (l / 9) (r.reorder.length + 1) s

def execIdleFlit (l k : Nat) (raw : BitVec 2048) (fecOk : Bool) (s : State) : Out := onLane_ l k 0 raw fecOk s fun s => s

def execSlotFlit (l k : Nat) (raw : BitVec 2048) (fecOk : Bool) (s : State) : Out :=
  onLane_ l k 1 raw fecOk s fun s => s.bundleTake l raw

def execRunFlit (l k : Nat) (raw : BitVec 2048) (fecOk : Bool) (s : State) : Out :=
  onLane_ l k 2 raw fecOk s fun s => s.bundleTake l raw

/-- A control flit of a name (Table 13.3). -/
def onControl (l k name : Nat) (raw : BitVec 2048) (s : State) (f : State → State) : Out :=
  onUnit (decide (l < Config.nLinks) && decide (k < 8)) s fun s =>
    whenS (!auGood raw || decide (auByte raw 8 = name)) s fun s =>
      match onLane_ l k 3 raw true s f with
      | .next t => t
      | _ => s

/-- CREDIT: ingress buffer space returned for VC0, VC1 and VC2. -/
def execCredit (l k : Nat) (raw : BitVec 2048) (s : State) : Out :=
  onControl l k 2 raw s fun s =>
    let e := (s.link l).peerEngine
    s.setBundle e { s.bundle e with space := (List.range 3).foldl (fun t v =>
      Tab.put 256 t v (min 256 (Tab.get 256 t v + auField raw (9 + 2 * v) 2))) (s.bundle e).space }

end Sys2Proof.Machine
end

