-- ==== Sys2Proof/Machine/Serving.lean ====
section
/-! DEFINITION. Requests: GENERATE, CONTINUE, PAUSE, CANCEL and QUERY_REQ, the reading of their inputs, admission, slots
and ranks, pause TTLs, and the end of a turn (R240, R266–R272, R284–R298, R303–R305). -/

namespace Sys2Proof.Machine

open Sys2Proof

/-! ## Epochs (R239–R241) -/

/-- An epoch becomes the current one: its cores start (R236, R239). -/
def State.startEpoch (s : State) (b : Nat) (e : EpochRec) : State :=
  let s := s.modBolt b fun r => { r with
    current := some { e with st := .current }
    regions := e.regions.zipIdx.foldl (fun t g =>
      Tab.put {} t (rkey e g.2) { (Tab.get {} t (rkey e g.2) : RegionRec) with kind := g.1.1, layer := g.1.2 }) r.regions }
  e.place.flatten.foldl (fun s c => (s.modCore c fun r => { r with discard := false }).coreGo c) (s.ctProgram b)

/-- The switch that waits on a bolt: the named epoch and its completion. -/
def BoltRec.pendingSwitch (b : BoltRec) : Option (Nat × FinOf) :=
  b.ops.findSome? fun o => match o with
    | .switchTo n f => some (n, f)
    | _ => none

def isSwitch : BoltOp → Bool
  | .switchTo _ _ => true
  | _ => false

/-- Residence of the bolt's adapters ends with the epoch whose frames they occupied. -/
def State.evictAll (s : State) (b : Nat) : State :=
  { s with adapters := s.adapters.map fun e => (e.1, if e.2.bolt = b then { e.2 with resident := false, placing := false } else e.2) }

/-- A switch to a PLACED epoch takes place: the named epoch becomes current, the old one drains (R241). -/
def State.switchPlaced (s : State) (b : Nat) : State :=
  let r := (s.bolt b).dropSynthetic fun _ => true
  match r.pendingSwitch, r.other with
  | some (n, _), some o =>
    if o.num = n ∧ o.st = .placed then
      let s := s.setBolt b { r with
        other := r.current.map fun e => { e with st := .draining }
        ops := r.ops.filter fun p => !isSwitch p }
      (s.startEpoch b o).evictAll b
    else s
  | _, _ => s

/-- The epoch to which an admission binds now (R240, R241, R243), where the bolt takes a GENERATE. -/
def State.bindEpoch (s : State) (b : Nat) : Option EpochRec :=
  let r := s.bolt b
  if (r.st = .serving ∨ r.st = .paused) ∧ r.unloading = false then
    match r.pendingSwitch with
    | some (n, _) => r.epochOf n
    | none => r.current
  else none

/-! ## Descriptors (R267–R270) -/

/-- The request that a handle names, for a queue pair of its function, which belongs to a bolt (R261, R267, R268). -/
def State.lookup (s : State) (a : Acc) : Option Nat :=
  let h := dHandle a.d
  let i := bits h 0 14
  let r := s.req i
  if a.q ≠ 0 ∧ a.bolt.isSome = true ∧ bits h 14 2 = 0 ∧ r.st ≠ rqFree ∧ r.gen = bits h 16 16 ∧ (s.qp a.q).func = r.func then some i
  else none

/-- A descriptor on the request that its handle names: the entry's key word is checked first (R285); without such a request the
descriptor completes INVALID. -/
def State.onHandle (s : State) (a : Acc) (f : State → Nat → State) : State :=
  let s := s.useReq (bits (dHandle a.d) 0 14) fun s => s
  match s.lookup a with
  | some i => f s i
  | none => s.invalid a

def gPromptLen (d : BitVec 1024) : Nat := dfield d 24 4
def gMaxTokens (d : BitVec 1024) : Nat := dfield d 44 4

/-- The fields that GENERATE and CONTINUE share are in range (Table 10.6, R269, R276). -/
def turnFieldsOk (d : BitVec 1024) (lo : Nat) : Bool :=
  decide (lo ≤ gPromptLen d) && decide (gPromptLen d ≤ 67108864) && decide (dfield d 28 1 ≤ 1) &&
  (decide (dfield d 28 1 = 0) || decide (gPromptLen d % 4 = 0)) && decide (dfield d 29 1 ≤ 7) &&
  decide (dfield d 30 1 < 8) && decide (dfield d 32 8 % 64 = 0) && decide (dfield d 40 4 % 64 = 0) &&
  decide (1 ≤ gMaxTokens d) && decide (gMaxTokens d ≤ 1048576) &&
  decide (tokenEnd (gMaxTokens d) + 256 ≤ dfield d 40 4) && decide (dfield d 64 4 ≤ 16777216)

def generateOk (d : BitVec 1024) : Bool :=
  turnFieldsOk d 1 && decide (dHandle d = 0) &&
  dZeroBut d [(0, 31), (32, 38), (72, 31), (104, 2)] &&
  (decide (dfield d 68 2 < 256) || decide (dfield d 68 2 = 0xFFFF)) && decide (dfield d 96 4 < 2 ^ 21) &&
  decide (dfield d 100 2 ≤ 256) && decide (dfield d 102 1 ≤ 16) && decide (dfield d 104 2 ≤ 256)

def continueOk (d : BitVec 1024) : Bool := turnFieldsOk d 0 && dZeroBut d [(0, 31), (32, 36), (80, 16)]

/-- What a GENERATE or CONTINUE asks for, as accepted; the retrieval fields are as coded, 0 for the default. -/
def intakeOf (a : Acc) (func epoch now : Nat) : Intake where
  fin := a.fin
  func := func
  priority := dfield a.d 29 1
  defer := bitAt (dfield a.d 30 1) 0
  keep := bitAt (dfield a.d 30 1) 1
  idsOnly := bitAt (dfield a.d 30 1) 2
  inAddr := dfield a.d 16 8
  inLen := gPromptLen a.d
  inFmt := dfield a.d 28 1
  outAddr := dfield a.d 32 8
  outLen := dfield a.d 40 4
  maxTokens := gMaxTokens a.d
  sampleAddr := dfield a.d 48 8
  grammarAddr := dfield a.d 56 8
  grammarLen := dfield a.d 64 4
  adapter := if dfield a.d 68 2 < 256 then some (dfield a.d 68 2) else none
  seed := BitVec.ofNat 64 (dfield a.d 72 8)
  ttft := dfield a.d 80 4
  tbt := dfield a.d 84 4
  deadlineUs := dfield a.d 88 4
  ttl := dfield a.d 92 4
  retT := dfield a.d 96 4
  retN := dfield a.d 100 2
  retS := dfield a.d 102 1
  retW := dfield a.d 104 2
  epoch := epoch
  tAccept := now

/-- R244: the adapter belongs to the bolt, is loaded and open, and fits the epoch's model. -/
def State.adapterOk (s : State) (b modelId : Nat) : Option Nat → Bool
  | none => true
  | some k =>
    let r := s.adapter k
    r.loaded && !r.closed && decide (r.bolt = b) && decide (r.baseId = modelId)

/-- The lowest entry that is FREE and not set aside (R286). -/
def State.freeEntry (s : State) : Option Nat := (List.range Config.nRequests).find? fun i => !(s.req i).live

/-- GENERATE accepted: its inputs are read before its first test (R290). An entry is set aside for it; it stays FREE, with
its generation, until the request is admitted or deferred (log entry 22). -/
def State.generate (s : State) (a : Acc) : State :=
  match (if a.q = 0 then none else a.bolt) with
  | some b =>
    match s.bindEpoch b, s.freeEntry with
    | some e, some i =>
      let k := intakeOf a (s.qp a.q).func e.num s.time
      if generateOk a.d && s.adapterOk b e.modelId k.adapter then
        s.setReq i { (({ ({} : ReqRec) with gen := (s.req i).gen }).setKey 4 3 b).setKey 10 10 noSlot with intake := some k }
      else s.invalid a
    | _, _ => s.invalid a
  | none => s.invalid a

def execGenerate (q : Nat) (d : BitVec 1024) (s : State) : Out := onDesc 0x01 q d s State.generate

/-- The request's adapter is closed to new admissions (R246). -/
def State.adapterClosed (s : State) (r : ReqRec) : Bool :=
  match r.adapterNo with
  | some k => (s.adapter k).closed
  | none => false

/-- CONTINUE accepted for a paused or ABSENT request that the harness did not pause (R269, R288, R289). -/
def State.continue_ (s : State) (a : Acc) (i : Nat) : State :=
  let r := s.req i
  if continueOk a.d && (decide (r.st = rqHeld) || decide (r.st = rqParked) || decide (r.st = rqAbsent)) && !r.auto &&
      !s.adapterClosed r then
    s.setReq i { r with intake := some (intakeOf a r.func r.epoch s.time) }
  else s.invalid a

/-- A request whose earlier CONTINUE is still being read takes the next one after it: the ring waits (R288). -/
def execCont (q : Nat) (d : BitVec 1024) (s : State) : Out :=
  if (s.req (bits (dHandle d) 0 14)).intake.isSome ∧ (s.req (bits (dHandle d) 0 14)).st ≠ rqFree then onQp q s fun s => s
  else onDesc 0x02 q d s fun s a => s.onHandle a fun s i => s.continue_ a i

/-- PAUSE: a running turn ends with reason 5; a HELD request is parked (R270, R287, R297). -/
def State.pause (s : State) (a : Acc) (i : Nat) : State :=
  let r := s.req i
  let park := dfield a.d 16 1 = 1
  let ttl := dfield a.d 20 4
  if r.st = rqPrefill ∨ r.st = rqDecode then (s.endTurn i 5 (if park then 2 else 1) ttl).finish a ssOk []
  else if r.st = rqHeld then
    let s := if park then s.setReq i { r.setSt rqParked with
        parking := true
        expiry := if ttl ≠ 0 ∧ r.auto = false then r.pausedAt + 1000000 * ttl else r.expiry } else s
    s.finish a ssOk []
  else s.invalid a

def execPause (q : Nat) (d : BitVec 1024) (s : State) : Out :=
  onDesc 0x03 q d s fun s a =>
    if dZeroBut d [(0, 17), (20, 4)] && decide (dfield d 16 1 < 2) then s.onHandle a fun s i => s.pause a i
    else s.invalid a

/-- CANCEL frees a request in any state but FREE, ending an open turn, and completes OK (R270, R287). -/
def execCancel (q : Nat) (d : BitVec 1024) (s : State) : Out :=
  onDesc 0x04 q d s fun s a =>
    if dZeroBut d [(0, 12)] then s.onHandle a fun s i => (s.endReq i rqCancelled ssCancelled).finish a ssOk []
    else s.invalid a

/-- Milliseconds left of a pause's TTL. -/
def ReqRec.ttlLeft (r : ReqRec) (now : Nat) : Nat :=
  if (r.st = rqHeld ∨ r.st = rqParked) ∧ r.expiry ≠ 0 then min (ceilDiv (r.expiry - now) 1000000) 0xFFFFFFFF else 0xFFFFFFFF

/-- The result bytes of QUERY_REQ (Table 10.10). -/
def ReqRec.queryResult (r : ReqRec) (now : Nat) : List Nat :=
  [r.st, r.bolt, r.prio, boolNat r.keep] ++ r.result ++ natBytes 4 (r.ttlLeft now)

def execQueryReq (q : Nat) (d : BitVec 1024) (s : State) : Out :=
  onDesc 0x05 q d s fun s a =>
    if dZeroBut d [(0, 12)] then s.onHandle a fun s i => s.finish a ssOk ((s.req i).queryResult s.time)
    else s.invalid a

/-! ## INPUTS_READ (R269, R290, R300, R303, R305) -/

/-- A descriptor whose inputs were being read ends without opening a turn: a set-aside entry is given back. -/
def State.dropIntake (s : State) (i status : Nat) : State :=
  let r := s.req i
  match r.intake with
  | some k =>
    let s := s.setReq i (if r.st = rqFree then { ({} : ReqRec) with gen := r.gen } else { r with intake := none })
    s.finishOf k.fin status []
  | none => s

def words4 : List Byte → List Nat
  | a :: b :: c :: d :: r => leNat [a, b, c, d] :: words4 r
  | _ => []

/-- The tokens of a prompt, where every ID of one given as IDs is valid (R269, R300). -/
def promptTokens (e : EpochRec) (k : Intake) (bytes : List Byte) : Option (List Nat) :=
  if k.inFmt = 0 then some (tokenize e.tokenShard bytes)
  else
    let l := words4 bytes
    if l.all fun w => decide (w < 2 ^ 18) && decide (w < e.serve.vocab) then some l else none

/-- The checks of the inputs: the intake with them, or none where the descriptor is INVALID. -/
def readIntake (e : EpochRec) (r : ReqRec) (k : Intake) (prompt sampling grammar : List Byte) : Option Intake :=
  match promptTokens e k prompt with
  | some l =>
    let room := decide (l.length + k.maxTokens ≤ Config.maxContext) &&
      (decide (r.st = rqFree) || decide (r.ctxLen + l.length < Config.maxContext))
    if room && samplingOk sampling && (grammar.isEmpty && decide (k.grammarAddr = 0) ||
        grammarOk grammar e.serve.vocab e.serve.endIds) then
      some { k with read := true, prompt := l, sampling := sampling, grammar := grammar }
    else none
  | none => none

def execInputsRead (i : Nat) (prompt sampling grammar : List Byte) (s : State) : Out :=
  onReq i s fun s => s.useReq i fun s =>
    let r := s.req i
    match r.intake with
    | some k =>
      if k.read = false ∧ prompt.length = k.inLen ∧ sampling.length = (if k.sampleAddr = 0 then 0 else 256) ∧
          grammar.length = (if k.grammarAddr = 0 then 0 else k.grammarLen) then
        match readIntake (((s.bolt r.bolt).epochOf k.epoch).getD {}) r k prompt sampling grammar with
        | some k => s.setReq i { r with intake := some k }
        | none => s.dropIntake i ssInvalid
      else s
    | none => s

/-! ## The memory and time tests (R291, R292) -/

/-- What a test is about: a request, or one that a descriptor would open or resume. -/
structure Cand where
  idx : Nat
  bolt : Nat
  epoch : EpochRec
  ctxLen : Nat
  /-- tokens that its prefill would run -/
  fill : Nat
  newTokens : Nat
  prio : Nat
  ttft : Nat
  deadline : Nat
  tAccept : Nat
  elapsed : Nat
  maxTokens : Nat
  reserved : Nat
  grammar : List Byte
  adapter : Option Nat

/-- Tokens that a prefill of a request runs, with `new` ones of input: every position that the layers do not hold. -/
def ReqRec.fill (r : ReqRec) (new : Nat) : Nat := r.log.length + new - r.kvLen

def State.candOfReq (s : State) (i : Nat) : Cand :=
  let r := s.req i
  { idx := i, bolt := r.bolt, epoch := s.reqEpoch r, ctxLen := r.ctxLen, fill := r.fill r.prompt.length,
    newTokens := r.prompt.length, prio := r.prio, ttft := r.ttftTarget, deadline := r.deadline, tAccept := r.tAccept,
    elapsed := s.time - r.tAccept, maxTokens := r.maxTokens, reserved := r.reservedPages, grammar := r.grammar,
    adapter := r.adapterNo }

def absDeadline (now us : Nat) : Nat := if us = 0 then 0 else now + 1000 * us

def State.candOfIntake (s : State) (i : Nat) (k : Intake) (e : EpochRec) : Cand :=
  let r := s.req i
  { idx := i, bolt := r.bolt, epoch := e, ctxLen := r.ctxLen, fill := r.fill k.prompt.length,
    newTokens := k.prompt.length, prio := k.priority, ttft := k.ttft, deadline := absDeadline k.tAccept k.deadlineUs,
    tAccept := k.tAccept, elapsed := 0, maxTokens := k.maxTokens, reserved := r.reservedPages, grammar := k.grammar,
    adapter := if r.st = rqFree then k.adapter else r.adapterNo }

/-- Bytes of a bolt's mirrors on this engine: their blocks, one that two mirrors share counted once. -/
def BoltRec.mirrorBytes (b : BoltRec) : Nat :=
  Config.creelBlockBytes * ((b.current.toList ++ b.other.toList ++ b.mirrors).flatMap fun e => e.mirror).eraseDups.length

/-- wafer_pages + creel_pages (R291). -/
def State.pageBudget (s : State) (b : Nat) : Nat :=
  let r := s.bolt b
  let adapters := (s.adapters.filter fun e => decide (e.2.bolt = b)).foldl (fun a e =>
    a + e.2.shards.foldl (fun n k => n + k.length) 0) 0
  let tuning := match r.tune with
    | some t => 12 * t.theta.length
    | none => 0
  r.consts.waferPages + (r.quotaGb * 1000000000 - r.mirrorBytes - adapters - tuning) / max 1 r.consts.pageBytes

/-- The sum of reserved_pages over a bolt's requests. -/
def State.committed (s : State) (b : Nat) : Nat :=
  (s.reqs.filter fun e => e.2.live && decide (e.2.bolt = b)).foldl (fun a e => a + e.2.reservedPages) 0

/-- pages_r of R291. -/
def State.pagesOf (s : State) (c : Cand) : Nat :=
  let n := c.ctxLen + c.newTokens
  ceilDiv (n + min c.maxTokens (s.serveOf c.bolt).growth) 64 + overheadPages (s.bolt c.bolt).consts n c.maxTokens

/-- Bytes of the different grammar tables that the lane of a side holds, with one more (R303). -/
def State.grammarBytes (s : State) (side : Nat) (g : List Byte) : Nat :=
  let held := (s.reqs.filter fun e => e.2.live && decide ((s.bolt e.2.bolt).homeSide = side)).map fun e => e.2.grammar
  (g :: held).eraseDups.foldl (fun a t => a + t.length) 0

def State.memOk (s : State) (c : Cand) : Bool :=
  decide (s.committed c.bolt + (s.pagesOf c - c.reserved) ≤ s.pageBudget c.bolt) &&
  (c.grammar.isEmpty || decide (s.grammarBytes (s.bolt c.bolt).homeSide c.grammar ≤ 67108864))

/-- t_pick of R292. -/
def ServeConst.tPick (c : ServeConst) (ctx : Nat) : Nat := c.pickBaseNs + c.pickSlopeNs * min ctx c.ctxCap / 1024

/-- The order of R294: priority, effective deadline (infinite where nothing sets one), acceptance, slot. -/
structure RankKey where
  prio : Nat
  deadline : Nat
  tAccept : Nat
  slot : Nat

def infTime : Nat := 2 ^ 80
def orInf (set : Bool) (v : Nat) : Nat := if set then v else infTime

def RankKey.lt (a b : RankKey) : Bool :=
  if a.prio ≠ b.prio then decide (a.prio < b.prio)
  else if a.deadline ≠ b.deadline then decide (a.deadline < b.deadline)
  else if a.tAccept ≠ b.tAccept then decide (a.tAccept < b.tAccept)
  else decide (a.slot < b.slot)

def ReqRec.rankKey (r : ReqRec) : RankKey :=
  let target := if r.st = rqDecode then orInf (decide (r.tbtTarget ≠ 0)) (r.tLast + r.tbtTarget)
    else orInf (decide (r.ttftTarget ≠ 0)) (r.tAccept + 1000 * r.ttftTarget)
  ⟨r.prio, min target (orInf (decide (r.deadline ≠ 0)) r.deadline), r.tAccept, r.slot⟩

def Cand.rankKey (c : Cand) : RankKey :=
  ⟨c.prio, min (orInf (decide (c.ttft ≠ 0)) (c.tAccept + 1000 * c.ttft)) (orInf (decide (c.deadline ≠ 0)) c.deadline),
    c.tAccept, noSlot⟩

/-- Admitted and waiting for a slot. -/
def ReqRec.waits (r : ReqRec) : Bool := decide (r.st = rqQueued) && r.admitted

/-- The requests of a bolt other than the candidate's entry. -/
def State.others (s : State) (c : Cand) : List ReqRec :=
  ((s.boltReqs c.bolt).filter fun i => decide (i ≠ c.idx)).map fun i => s.req i

/-- Chunks of a prefill that the first region has not taken, and that have not left the last one; a stream in DECODE that is
recomputed runs a prefill too (R224). -/
def State.chunksLeft (s : State) (r : ReqRec) : Nat × Nat :=
  let k := (s.bolt r.bolt).slotRec r.slot
  if r.st = rqPrefill ∨ (r.st = rqDecode ∧ 1 < k.chunksTotal) then (k.waiting.length, k.chunksTotal - k.chunksOut)
  else if r.waits then
    let n := ceilDiv (r.fill r.prompt.length) (max 1 (s.reqEpoch r).chunk)
    (n, n)
  else (0, 0)

/-- slot_wait of R292. -/
def State.slotWait (s : State) (c : Cand) : Nat :=
  let rs := s.others c
  let used := (rs.filter fun r => decide (r.slot ≠ noSlot) && decide (r.epoch = c.epoch.num)).length
  let before := (rs.filter fun r => r.waits && r.rankKey.lt c.rankKey).length
  if used + before < c.epoch.slots then 0
  else
    let v := (s.bolt c.bolt).consts
    let left := rs.filterMap fun r =>
      if r.st = rqDecode then some ((r.maxTokens - r.turnTokens) * v.tPick r.ctxLen)
      else if r.st = rqPrefill then
        some (((s.chunksLeft r).2 + v.regions - 1) * v.chunkNs + v.tailNs +
          r.maxTokens * v.tPick (r.ctxLen + r.fill r.prompt.length))
      else none
    left.foldl min (left.headD 0)

def State.adapterWait (s : State) (c : Cand) : Nat :=
  match c.adapter with
  | some k => if (s.adapter k).resident then 0 else (s.bolt c.bolt).consts.adapterNs
  | none => 0

def State.timeOk (s : State) (c : Cand) : Bool :=
  let v := (s.bolt c.bolt).consts
  let rs := s.others c
  let cr := ceilDiv c.fill (max 1 c.epoch.chunk)
  let ahead := (rs.filter fun r => r.rankKey.lt c.rankKey).foldl (fun a r => a + (s.chunksLeft r).1) 0
  let wait := ahead * v.chunkNs + s.slotWait c + s.adapterWait c
  let ttft := c.elapsed + wait + (cr + v.regions - 1) * v.chunkNs + v.tailNs
  let band := min (cr + rs.foldl (fun a r => a + (s.chunksLeft r).2) 0) v.regions
  (decide (c.ttft = 0) || decide (ttft ≤ 1000 * c.ttft)) &&
  rs.all fun r => !(decide (r.st = rqPrefill) || decide (r.st = rqDecode)) || decide (r.tbtTarget = 0) ||
    decide (v.tPick r.ctxLen + band * v.chunkNs ≤ r.tbtTarget)

/-! ## ADMISSION_DECISION (R289, R290, R293) -/

def State.countAdmit (s : State) (b : Nat) : State :=
  s.modServeOf b fun v => { v with admitted := satAdd 16 v.admitted 1 }
def State.countDefer (s : State) (b : Nat) : State :=
  s.modServeOf b fun v => { v with deferred := satAdd 16 v.deferred 1 }
def State.countReject (s : State) (b status : Nat) : State :=
  s.modServeOf b fun v =>
    if status = ssRejMemory then { v with rejMemory := satAdd 16 v.rejMemory 1 }
    else { v with rejTime := satAdd 16 v.rejTime 1 }

/-- The parameters of retrieval: a field given as non-zero replaces the bolt's value (R226). -/
def retParam (given deflt : Nat) (minus : Nat) : Nat := if given = 0 then deflt else given - minus

/-- A request that its GENERATE brings to admission takes its retrieval parameters, top_n 0 or above 256 acting as 256 (R226). -/
def State.admitRet (s : State) (r : ReqRec) : ReqRec :=
  let ret := (s.serveOf r.bolt).kvRet.toNat
  let n := bits ret 21 9
  if r.retGiven = [] then r
  else { r with
    retT := retParam (r.retGiven.getD 0 0) (bits ret 0 21) 0
    retN := retParam (r.retGiven.getD 1 0) (if n = 0 ∨ 256 < n then 256 else n) 0
    retS := retParam (r.retGiven.getD 2 0) (bits ret 30 4) 1
    retW := retParam (r.retGiven.getD 3 0) (bits ret 34 8) 1
    retD := bits ret 42 8, retGiven := [] }

/-- A deferred or auto-paused request passes its re-test. -/
def State.admitReq (s : State) (i pages : Nat) : State :=
  let r := s.admitRet (s.req i)
  (s.setReq i { (r.setKey 48 1 0).setSt rqQueued with
    admitted := true, reservedPages := pages, expiry := 0, parking := false }).countAdmit r.bolt

/-- A rebound request's adapter no longer fits its epoch (R242). -/
def State.adapterGone (s : State) (r : ReqRec) : Bool :=
  match r.adapterNo with
  | some k => r.rebound && decide ((s.adapter k).baseId ≠ (s.reqEpoch r).modelId)
  | none => false

/-- A deferred GENERATE is bound to the epoch that takes admissions now (R240); a deferred CONTINUE keeps its epoch. -/
def State.rebindDeferred (s : State) (i : Nat) : State :=
  let r := s.req i
  match s.bindEpoch r.bolt with
  | some e => if r.st = rqQueued ∧ r.opcode = 1 then s.setReq i (r.setKey 20 16 e.num) else s
  | none => s

/-- The re-test of a deferred or auto-paused request. Where its adapter has been closed or fits its epoch no more, a deferred
one ends INVALID and an auto-paused one waits (R244, R246; log entry 80). -/
def State.retest (s : State) (i : Nat) : State :=
  s.useReq i fun s =>
    let s := s.rebindDeferred i
    let r := s.req i
    let c := s.candOfReq i
    if r.auto && s.adapterGone r then s.endReq i rqCancelled ssInvalid
    else if !r.auto && !(s.adapterOk r.bolt (s.reqEpoch r).modelId r.adapterNo) then s.endReq i rqRejected ssInvalid
    else if !s.adapterClosed r && s.memOk c && s.timeOk c then s.admitReq i (s.pagesOf c) else s

/-- A new turn opens at an entry: the fields that a GENERATE alone sets, and those of both (Table 11.1). -/
def State.openTurn (s : State) (i : Nat) (k : Intake) (e : EpochRec) (admitted : Bool) (pages : Nat) : State :=
  let r := s.req i
  let r := if r.st ≠ rqFree then r
    else
      let r := { r with
        gen := r.gen % 65535 + 1, func := k.func, seed := k.seed, retGiven := [k.retT, k.retN, k.retS, k.retW] }
      let r := if admitted then s.admitRet r else r
      let r := (r.setKey 20 16 e.num).setKey 36 9 (match k.adapter with
        | some x => x + 256
        | none => 0)
      r.setKey 10 10 noSlot
  let r := (((r.setKey 7 3 k.priority).setKey 45 1 (boolNat k.keep)).setKey 46 1 (boolNat k.defer)).setKey 47 1 (boolNat k.idsOnly)
  let s := s.setReq i { r.setSt rqQueued with
    qp := k.fin.q, tag := k.fin.tag, opcode := k.fin.opcode, finN := some k.fin.n, turn := (r.turn + 1) % 2 ^ 32
    turnTokens := 0, maxTokens := k.maxTokens, textBytes := 0, warned := 0, prompt := k.prompt
    grammar := k.grammar, gstate := 0, gstack := [], mask := none, noMask := false, sampling := k.sampling, withheld := []
    ttftTarget := k.ttft, tbtTarget := k.tbt, deadline := absDeadline k.tAccept k.deadlineUs, ttl := k.ttl, expiry := 0
    tAccept := k.tAccept, outAddr := k.outAddr, outLen := k.outLen, ttftUs := 0, tbtAvg := 0, tbtMax := 0, tbtViol := 0
    ttftViol := false, intervals := 0, fresh := true, openTurn := true, endReason := 0, pausePark := 0, pauseTtl := 0
    undelivered := [], headDue := false, doneDue := false, intake := none, parking := false, admitted := admitted
    reservedPages := if admitted then pages else r.reservedPages }
  let s := { s with lowFree := min s.lowFree s.freeEntries }
  if admitted then s.countAdmit r.bolt else s.countDefer r.bolt

/-- The notice of a GENERATE that took an entry (R271). -/
def State.notice (s : State) (i status : Nat) : State :=
  let r := s.req i
  s.complete r.qp { tag := r.tag, handle := r.handle i, status := status, kind := 1, opcode := r.opcode, entry := true }

/-- A request whose epoch the bolt no longer holds, and which found none to be bound to then, is bound to the epoch that
takes admissions now (R242; log entry 43). -/
def State.bindNow (s : State) (i : Nat) : State :=
  let r := s.req i
  if r.st = rqFree ∨ ((s.bolt r.bolt).epochOf r.epoch).isSome = true then s
  else match s.bindEpoch r.bolt with
    | some e => s.setReq i { r.setKey 20 16 e.num with rebound := true }
    | none => s

/-- The first test of a descriptor whose inputs have been read. -/
def State.firstTest (s : State) (i : Nat) (k : Intake) : State :=
  s.useReq i fun s =>
    let s := s.bindNow i
    let r := s.req i
    let new := decide (r.st = rqFree)
    match (if new then s.bindEpoch r.bolt else (s.bolt r.bolt).epochOf r.epoch) with
    | some e =>
      if (if new then s.adapterOk r.bolt e.modelId k.adapter && k.prompt.all fun t => decide (t < e.serve.vocab)
          else !s.adapterGone r && !s.adapterClosed r) then
        let c := s.candOfIntake i k e
        let mem := s.memOk c
        let ok := mem && s.timeOk c
        let bad := if mem then ssRejTime else ssRejMemory
        if ok || k.defer then
          let s := s.openTurn i k e ok (s.pagesOf c)
          if new then s.notice i (if ok then ssOk else ssDeferred) else s
        else (s.countReject r.bolt bad).dropIntake i bad
      else s.dropIntake i ssInvalid
    | none => s.dropIntake i ssInvalid

/-- Insertion by a strict order: equal elements keep theirs. -/
def insertBefore {α : Type} (lt : α → α → Bool) (x : α) : List α → List α
  | [] => [x]
  | y :: r => if lt x y then x :: y :: r else y :: insertBefore lt x r

def orderBy {α : Type} (lt : α → α → Bool) (l : List α) : List α := l.foldl (fun a x => insertBefore lt x a) []

def ReqRec.deferred (r : ReqRec) : Bool := decide (r.st = rqQueued) && !r.admitted

/-- Auto-paused before deferred of their priority, then acceptance time (R289, R290). -/
def retestBefore (a b : ReqRec) : Bool :=
  if a.prio ≠ b.prio then decide (a.prio < b.prio)
  else if a.auto != b.auto then a.auto
  else decide (a.tAccept < b.tAccept)

/-- Deferred requests whose deadline has been reached. -/
def State.rejectLate (s : State) (b : Nat) : State :=
  ((s.boltReqs b).filter fun i => (s.req i).deferred && decide ((s.req i).deadline ≠ 0) &&
    decide ((s.req i).deadline ≤ s.time)).foldl (fun s i =>
      s.useReq i fun s => (s.countReject b ssRejTime).endReq i rqRejected ssRejTime) s

/-- A decision point of a bolt (R290). -/
def State.admission (s : State) (b : Nat) : State :=
  let s := s.checkKeys.switchPlaced b
  let s := s.rejectLate b
  let again := orderBy (fun i j => retestBefore (s.req i) (s.req j)) ((s.boltReqs b).filter fun i =>
    (s.req i).deferred || ((s.req i).auto && (decide ((s.req i).st = rqHeld) || decide ((s.req i).st = rqParked) ||
      decide ((s.req i).st = rqAbsent))))
  let s := again.foldl (fun s i => s.retest i) s
  let new := orderBy (fun (x y : Nat × Intake) => decide (x.2.tAccept < y.2.tAccept)) ((s.boltReqs b).filterMap fun i =>
    ((s.req i).intake.filter fun k => k.read).map fun k => (i, k))
  new.foldl (fun s x => s.firstTest x.1 x.2) s

/-- Admission stops at a power-fail (R357). -/
def execAdmissionDecision (b : Nat) (s : State) : Out :=
  onBolt b s fun s => whenS (!s.power.pfSeen) s fun s => s.admission b

/-! ## SLOT_RANKING (R21, R22, R294, R304) -/

/-- No unit of a slot stands anywhere: its stream is at a pick boundary. -/
def BoltRec.slotAtRest (b : BoltRec) (slot : Nat) : Bool :=
  let k := b.slotRec slot
  let has (u : Option PUnit) : Bool := match u with
    | some u => decide (u.slot = slot)
    | none => false
  k.waiting.isEmpty && k.tail.isEmpty && k.drawn.isNone && !b.regions.any fun g => has g.2.unit || has g.2.inbox

/-- The lowest free slot of an epoch; one that runs a synthetic pick is taken at that stream's pick boundary (R374), where
its next unit has not entered the first region. -/
def State.freeSlot (s : State) (b : Nat) (e : EpochRec) : Option Nat :=
  let r := s.bolt b
  e.slotNos.find? fun k => decide ((r.slotRec k).req = none) && !(r.slotRec k).tuning &&
    (r.slotAtRest k || ((r.slotRec k).synthetic && ({ r with slots := Tab.erase r.slots k } : BoltRec).slotAtRest k))

/-- A stream takes a slot: a new turn's header is written and its first mask built; its bobbins are restored from the
save, and its units wait at the first region. -/
def State.takeSlot (s : State) (i slot : Nat) : State :=
  let r := s.req i
  let e := s.reqEpoch r
  let s := if !r.fresh then s
    else if (s.func r.func).writable then s.toHost r.outAddr (({ turn := r.turn } : ReqRec).header false)
    else s.setReq i { r with headDue := true }
  let r := s.req i
  let m := if r.grammar.isEmpty then none
    else if r.fresh then some (grMask r.grammar e.serve.endIds (grStart r.grammar) []) else r.mask
  let kv := r.save.getD []
  let s := s.setReq i { (r.setKey 10 10 slot).setSt rqPrefill with
    save := none, fresh := false, mask := m
    gstate := if r.fresh then (if r.grammar.isEmpty then 0 else grStart r.grammar) else r.gstate
    gstack := if r.fresh then [] else r.gstack
    noMask := decide (r.turnTokens = 0) && decide (m = some []) }
  let s := s.modBolt r.bolt fun b => b.modSlot slot fun _ => { req := some i, kv := kv, progress := s.time }
  let s := match r.adapterNo with
    | some k => s.modAdapter k fun a => { a with used := s.time }
    | none => s
  let s := kv.foldl (fun s k => match e.kv? k.1 with
    | some g => s.syncWork e g slot k.2.pages
    | none => s) s
  let s := if r.kvLen = 0 ∧ r.log ≠ [] then
      s.modServeOf r.bolt fun v => { v with recomputes := satAdd 16 v.recomputes 1 } else s
  let s := s.pagesFor i r.seqLen
  (s.queueUnits i).fitPool r.bolt

def State.adapterReady (s : State) (r : ReqRec) : Bool :=
  match r.adapterNo with
  | some k => (s.adapter k).resident && !(match (s.bolt r.bolt).tune with
      | some t => decide (t.slot = k)
      | none => false)
  | none => true

/-- Admitted requests take free slots in rank order. -/
def State.assignSlots (s : State) (b : Nat) : State :=
  if (s.bolt b).st ≠ .serving then s
  else
    (orderBy (fun i j => (s.req i).rankKey.lt (s.req j).rankKey) ((s.boltReqs b).filter fun i => (s.req i).waits)).foldl
      (fun s i => s.useReq i fun s =>
        let r := s.req i
        let e := s.reqEpoch r
        if r.waits && (decide (e.st = .current) || decide (e.st = .draining)) && s.adapterReady r then
          match s.freeSlot b e with
          | some k => s.takeSlot i k
          | none => s
        else s) s

/-- The ranks of the slot-holding streams (R294). -/
def State.rankSlots (s : State) (b : Nat) : State :=
  let l := orderBy (fun i j => (s.req i).rankKey.lt (s.req j).rankKey)
    ((s.boltReqs b).filter fun i => decide ((s.req i).slot ≠ noSlot))
  l.zipIdx.foldl (fun s x => s.modBolt b fun r => r.modSlot (s.req x.1).slot fun k => { k with rank := x.2 }) s

def execSlotRanking (b : Nat) (s : State) : Out := onBolt b s fun s => (s.checkKeys.assignSlots b).rankSlots b

/-! ## TTL_CHECK (R288, R297) -/

/-- A pause whose TTL has run out: the request is ABSENT, with an event. -/
def State.expire (s : State) (i : Nat) : State :=
  s.useReq i fun s =>
    let s := s.toAbsent i
    let r := s.req i
    s.complete r.qp { tag := 0, handle := r.handle i, status := ssTtl, kind := 2, opcode := r.opcode, entry := true }

def ReqRec.expired (r : ReqRec) (now : Nat) : Bool :=
  (decide (r.st = rqHeld) || decide (r.st = rqParked)) && decide (r.expiry ≠ 0) && decide (r.expiry ≤ now) && r.intake.isNone

def execTtlCheck (s : State) : Out :=
  let s := s.checkKeys
  .next (((s.reqs.filter fun e => e.2.expired s.time).map fun e => e.1).foldl (fun s i => s.expire i) s)

/-! ## TURN_WRITTEN (R277, R287) -/

/-- The status of a turn's end: EPOCH_CHANGED stands, NUMERIC_WARN takes the place of OK only (R272). -/
def ReqRec.turnStatus (r : ReqRec) : Nat := if r.rebound then ssEpoch else if 0 < r.warned then ssWarn else ssOk

/-- A drained turn's output is written: the header with done set, the final, and the state after it; a stream whose pages were
dropped as it left its slot is ABSENT (R223). -/
def State.turnWritten (s : State) (i : Nat) : State :=
  s.useReq i fun s =>
    let r := s.req i
    if r.st = rqDraining ∧ (s.func r.func).writable = true ∧ r.undelivered = [] then
      let s := s.doneHeader i
      let status := r.turnStatus
      if r.pausePark = 0 then
        let s := s.freePages i
        let s := s.modReq i fun r => { r.released.setSt rqDone with openTurn := false }
        (s.reqFinal i status true).fitPool r.bolt
      else
        let s := s.modReq i fun r => { r with openTurn := false, rebound := false }
        (if r.pausePark = 3 then s.modReq i fun r => { r.setSt rqAbsent with reservedPages := 0, expiry := 0, pausedAt := s.time }
          else s.enterPaused i (if r.pausePark = 2 then rqParked else rqHeld) r.pauseTtl).reqFinal i status false
    else s

def execTurnWritten (i : Nat) (s : State) : Out := onReq i s fun s => s.turnWritten i

end Sys2Proof.Machine
end

