-- ==== Sys2Proof/Machine/Treadle.lean ====
section
/-! DEFINITION. What goes down a Treadle lane, a skein's voltage code, and a request for its turn-on (R342–R349). -/

namespace Sys2Proof.Machine

open Sys2Proof

/-! ## Domains and downstream payloads (R343, Table 14.3) -/

/-- The domain of a skein within its lane, and the skein of a domain. -/
def domainOf (k : Nat) : Nat := (skeinY k % 12) * 8 + skeinX k % 8
def skeinOfDomain (f d : Nat) : Nat := ((f / 8) * 12 + d / 8) * 64 + (f % 8) * 8 + d % 8

def opSetV : Nat := 1
def opEnable : Nat := 2
def opDisable : Nat := 3
def opSetSlew : Nat := 4
def opReadStatus : Nat := 5
def opFaultAck : Nat := 8

/-- A payload without its sequence number. -/
def trdWord (op domain rest : Nat) : Word := BitVec.ofNat 64 (op + (domain <<< 8) + rest)
def trdSetV (domain code : Nat) : Word := trdWord opSetV domain ((code <<< 16) + (compl 9 code <<< 32))
def trdSlew (op domain slew : Nat) : Word := trdWord op domain (slew <<< 41)
def trdOp (w : Word) : Nat := bits w.toNat 0 4
def trdDomain (w : Word) : Nat := bits w.toNat 8 7

/-- PD_CTRL's fields (Table 14.9). -/
def pdCode (w : Word) : Nat := bits w.toNat 0 9
def pdEnable (w : Word) : Bool := w.getLsbD 9
def pdSlew (w : Word) : Nat := bits w.toNat 10 2
def pdLogic (w : Word) : Bool := w.getLsbD 12

/-! ## Sending (R345, R347) -/

/-- The head of a lane's queue waits for a PD_CTRL whose complement disagrees. -/
def State.headBad (s : State) (f : Nat) : Bool :=
  match (s.field f).cmdQueue with
  | p :: _ => decide (trdOp p = opSetV) && wordBad (s.skein (skeinOfDomain f (trdDomain p))).ctrl
  | [] => false

/-- The next command of a lane is sent, if none is outstanding; on a lost lane only READ_STATUS is. A SET_V whose PD_CTRL
disagrees with its complement is not sent. -/
def State.trdPump (s : State) (f : Nat) : State :=
  let r := s.field f
  match r.cmd, r.cmdQueue with
  | none, p :: rest =>
    if s.headBad f ∨ (r.laneState = 2 ∧ trdOp p ≠ opReadStatus) then s
    else
      let w := BitVec.ofNat 64 (setBits p.toNat 4 4 r.cmdSeq)
      s.setField f { r with
        cmd := some (w, 1, s.time), cmdQueue := rest, cmdSeq := (r.cmdSeq + 1) % 16, sent := r.sent ++ [w] }
  | _, _ => s

/-- A PD_CTRL pair found bad as its command comes to be sent (R347). -/
def State.trdCheck (s : State) (f : Nat) : State :=
  let r := s.field f
  match r.cmd, r.cmdQueue with
  | none, p :: _ => if s.headBad f then s.report (srcTreadle f) 0x03 (skeinOfDomain f (trdDomain p) + (5 <<< 28)) else s
  | _, _ => s

def State.trdNext (s : State) (f : Nat) : State := (s.trdCheck f).trdPump f

/-- A command for a lane. -/
def State.trdSend (s : State) (f : Nat) (w : Word) : State :=
  let r := s.field f
  let s := s.setField f { r with cmdQueue := r.cmdQueue ++ [w] }
  if r.cmdQueue = [] then s.trdNext f else s

/-! ## Voltage codes (R346, R347) -/

/-- PD_CTRL with its copies. -/
def SkeinRec.setCtrl (r : SkeinRec) (v : Nat) : SkeinRec :=
  { r with ctrl := withInv v, ctrlSh := withInv v, ctrlCopy := withInv v }

/-- A committed PD_CTRL takes effect: what changed is sent to the stage; header switches that are to close are requested. -/
def State.applyCtrl (s : State) (k v : Nat) : State :=
  let r := s.skein k
  let f := fieldOfSkein k
  let d := domainOf k
  let old := r.ctrl
  let new := withInv v
  let s := s.setSkein k { r.setCtrl v with
    heldCtrl := none
    turnOnReq := if pdLogic new && !pdLogic old && !r.dead && r.turnOnReq.isNone then some s.time else r.turnOnReq }
  if r.dead then s
  else
  let s := if pdSlew new ≠ pdSlew old then s.trdSend f (trdSlew opSetSlew d (pdSlew new)) else s
  let s := if pdCode new ≠ pdCode old ∧ pdEnable new = true then s.trdSend f (trdSetV d (pdCode new))
    else if pdEnable new && !pdEnable old then s.trdSend f (trdSetV d (pdCode new)) else s
  if pdEnable new && !pdEnable old then s.trdSend f (trdSlew opEnable d (pdSlew new))
  else if pdEnable old && !pdEnable new then s.trdSend f (trdWord opDisable d 0) else s

/-- The same under R347: a change of code or slew in the middle of a turn-on is held until it ends. -/
def State.commitCtrl (s : State) (k v : Nat) : State :=
  let r := s.skein k
  let new := withInv v
  if r.turnOnAt.isSome ∧ (pdCode new ≠ pdCode r.ctrl ∨ pdSlew new ≠ pdSlew r.ctrl) then
    s.setSkein k { r with heldCtrl := some new }
  else s.applyCtrl k v

/-- The lowest code whose guaranteed frequency reaches a freq_target. -/
def codeFor (freq : Nat) : Nat :=
  ((List.range 133).find? fun i => decide (freqParts * freq ≤ guaranteed (5 * (220 + i)))).getD 132 + 220

/-- Cores that hold a virtual core. -/
def State.occupied (s : State) : List Nat :=
  s.bolts.flatMap fun x => (x.2.current.toList ++ x.2.other.toList).flatMap fun e =>
    if e.placedDone then e.place.flatten else []

/-- The code that the harness gives a skein: the code of its fastest occupied core, and vmin_code at the least (R346). -/
def State.wantedCode (s : State) (k : Nat) (occ : List Nat) : Nat :=
  let cores := occ.filter fun c => decide (skeinOf c = k)
  let f := cores.foldl (fun a c => max a (s.core c).freqTarget) 0
  max s.power.vminCode (if cores = [] then 220 else codeFor f)

/-- The codes of some skeins evaluated again. -/
def State.reCode (s : State) (l occ : List Nat) : State :=
  l.foldl (fun s k =>
    let r := s.skein k
    let c := s.wantedCode k occ
    if r.dead ∨ pdCode r.ctrl = c then s else s.commitCtrl k (setBits (wordVal r.ctrl) 0 9 c)) s

/-! ## Requests for a turn-on (R349) -/

/-- The up to eight skeins that touch a skein at an edge or a corner. -/
def neighbours (k : Nat) : List Nat :=
  ([(0, 0), (0, 1), (0, 2), (1, 0), (1, 2), (2, 0), (2, 1), (2, 2)].filter fun d =>
    decide (1 ≤ skeinX k + d.1) && decide (skeinX k + d.1 ≤ 64) && decide (1 ≤ skeinY k + d.2) &&
      decide (skeinY k + d.2 ≤ 72)).map fun d => (skeinY k + d.2 - 1) * 64 + (skeinX k + d.1 - 1)

/-- A neighbour whose latest TELEM exceeds 10.20 A. -/
def State.hotNeighbours (s : State) (k : Nat) : List Nat := (neighbours k).filter fun j => decide (1020 < (s.skein j).current)

/-- Every condition of R349 but the neighbours' currents, with the 20 µs after a turn-off (R350) and the stops of R345, R354
and R371. -/
def State.turnOnReady (s : State) (k : Nat) : Bool :=
  let r := s.skein k
  let f := fieldOfSkein k
  let on := s.skeins.filter fun e => e.2.turnOnAt.isSome
  r.turnOnReq.isSome && decide (r.state = 2) && !r.stale && !r.dead && !bitAt r.status 2 && !s.power.pfSeen &&
  decide ((on.filter fun e => decide (fieldOfSkein e.1 = f)).length < 8) && !on.any (fun e => (neighbours k).contains e.1) &&
  decide ((s.field f).laneState ≠ 2) && !(s.field f).alert && !(s.field f).vaLost && s.thermal.stopAt.isNone &&
  (match r.turnOffAt with
    | some t => decide (t + 20000 ≤ s.time)
    | none => true)

/-- Since when neighbours' currents alone hold the turn-ons that wait; a turn-on so held is counted once. -/
def State.noteHeld (s : State) : State :=
  (s.skeins.filter fun e => e.2.turnOnReq.isSome).foldl (fun s e =>
    let k := e.1
    let r := s.skein k
    if s.turnOnReady k ∧ s.hotNeighbours k ≠ [] then
      if r.heldSince.isSome then s
      else
        let s := s.setSkein k { r with heldSince := some s.time, waited := true }
        if r.waited then s
        else { s with power := { s.power with neighbourWaits := satAdd 16 s.power.neighbourWaits 1 } }
    else if r.capsAt.isNone then s.setSkein k { r with heldSince := none } else s) s

/-- Skeins whose logic is off ask to be turned on. -/
def State.requestTurnOns (s : State) (l : List Nat) : State :=
  (l.foldl (fun s k => s.modSkein k fun r =>
    if r.state = 4 ∨ r.dead = true ∨ r.turnOnReq.isSome ∨ r.turnOnAt.isSome then r else { r with turnOnReq := some s.time }) s).noteHeld

end Sys2Proof.Machine
end

