-- ==== Sys2Proof/Machine/Mirror.lean ====
section
/-! DEFINITION. The weight mirror, the virtual grid, the placement of an epoch on its sites, and how an epoch or a bolt
gives up what it holds (R132–R139, R173, R235–R239, R242, R247, R250–R252, R257, R320). -/

namespace Sys2Proof.Machine

open Sys2Proof

/-! ## Shards in creel (R231, R237, R320) -/

/-- The shard is used by this position, or by a later one of the chain. -/
def ShardRec.here (k : ShardRec) (pos : Nat) : Bool := bitAt k.uses pos
def ShardRec.onward (k : ShardRec) (pos : Nat) : Bool := decide (bits k.uses (pos + 1) 64 ≠ 0)
def ShardRec.kept (k : ShardRec) (pos : Nat) : Bool := k.here pos || k.onward pos

/-- Shard `i` begins on port `i` mod 32, behind the earlier shards of that port (log entry 11); what is only forwarded is
packed apart. The table holds the bytes packed on each port, and from 32 on those only forwarded. -/
def packShards (port : Nat → Nat) (pos : Nat) : Nat → List ShardRec → Tab Nat → List ShardRec × Tab Nat
  | _, [], t => ([], t)
  | i, k :: r, t =>
    if k.kept pos then
      let fwd := !k.here pos
      let key := port i + 32 * boolNat fwd
      let off := Tab.get 0 t key
      let q := packShards port pos (i + 1) r (Tab.put 0 t key (off + align64 k.length))
      ({ k with port := port i, off := off, fwd := fwd } :: q.1, q.2)
    else
      let q := packShards port pos (i + 1) r t
      (k :: q.1, q.2)

/-- `n` blocks of a port for a bolt, one by one. -/
def State.allocMany (b p : Nat) : Nat → State → Option (State × List (Nat × Nat))
  | 0, s => some (s, [])
  | n + 1, s => match s.allocRun b p 1 with
    | some (s, k) => (State.allocMany b p n s).map fun q => (q.1, (p, k) :: q.2)
    | none => none

/-- Blocks on every port for the bytes packed there. -/
def State.allocPacked (s : State) (b : Nat) (t : Nat → Nat) : Option (State × List (Nat × Nat)) :=
  (List.range Config.nPorts).foldl (fun o p => o.bind fun q =>
    (State.allocMany b p (blocksFor (t p)) q.1).map fun r => (r.1, q.2 ++ r.2)) (some (s, []))

/-- The mirror of a load: every shard that this engine uses or forwards has its place; none where a port lacks blocks. -/
def State.allocMirror (s : State) (b : Nat) (e : EpochRec) : Option (State × EpochRec) :=
  let q := packShards s.homePort e.position 0 e.shards []
  (s.allocPacked b fun p => Tab.get 0 q.2 p).bind fun x =>
    (x.1.allocPacked b fun p => Tab.get 0 q.2 (p + 32)).map fun y =>
      (y.1, { e with shards := q.1, mirror := x.2, fwd := y.2 })

def EpochRec.shard (e : EpochRec) (i : Nat) : ShardRec := e.shards.getD i {}

/-- The blocks that hold a shard's port of the mirror, in order. -/
def EpochRec.blocksOf (e : EpochRec) (k : ShardRec) : List Nat :=
  ((if k.fwd then e.fwd else e.mirror).filter fun x => decide (x.1 = k.port)).map fun x => x.2

/-- The port address of byte `o` of a list of blocks. -/
def blockAddr (ks : List Nat) (o : Nat) : Nat :=
  ks.getD (o / Config.creelBlockBytes) 0 * Config.creelBlockBytes + o % Config.creelBlockBytes

/-- Bytes of a shard written into the mirror, with valid check codes. -/
def State.mirrorWrite (s : State) (e : EpochRec) (i o : Nat) (bs : List Byte) : State :=
  let k := e.shard i
  let at_ (n : Nat) : Nat := blockAddr (e.blocksOf k) (k.off + o + n)
  s.modPort k.port fun r =>
    let lines := (List.range bs.length).map fun n => at_ n / 64
    { r with
      mem := bs.zipIdx.foldl (fun m x => writeByte m (at_ x.2) x.1) r.mem
      ecc := r.ecc.filter fun x => !lines.contains x.1
      rewrite := r.rewrite.filter fun x => !lines.contains x }

/-- Bytes of a shard read from the mirror; none where a line of them is lost (R248). -/
def State.mirrorRead (s : State) (e : EpochRec) (i o n : Nat) : Option (List Byte) :=
  let k := e.shard i
  let r := s.port k.port
  let at_ (x : Nat) : Nat := blockAddr (e.blocksOf k) (k.off + o + x)
  if (k.st = .verified ∨ k.st = .damaged) ∧ r.state = 1 ∧ (k.lost.any fun x => decide (o < x.1 + x.2) && decide (x.1 < o + n)) = false ∧
      (List.range n).all (fun x => decide (Tab.get 0 r.ecc (at_ x / 64) < 2)) = true then
    some ((List.range n).map fun x => readByte r.mem (at_ x))
  else none

/-- The harness reads bytes of a shard: the lines of them in error are counted and reported (R314). -/
def State.mirrorCheck (s : State) (e : EpochRec) (i o n : Nat) : State :=
  let k := e.shard i
  let lines := ((List.range n).map fun x => blockAddr (e.blocksOf k) (k.off + o + x) / 64).dedup
  ((s.port k.port).ecc.filter fun x => lines.contains x.1).foldl (fun s x => (s.creelCheck k.port x.1).1) s

/-- The harness reads every shard that this position uses. -/
def State.mirrorCheckAll (s : State) (e : EpochRec) : State :=
  (List.range e.shards.length).foldl (fun s i =>
    if (e.shard i).here e.position then s.mirrorCheck e i 0 (e.shard i).length else s) s

/-- The shards of a kind that this position uses, joined in table order. -/
def State.joinShards (s : State) (e : EpochRec) (kind : Nat) : Option (List Byte) :=
  (List.range e.shards.length).foldl (fun o i => o.bind fun bs =>
    let k := e.shard i
    if k.kind = kind ∧ k.here e.position = true then (s.mirrorRead e i 0 k.length).map fun x => bs ++ x else some bs) (some [])

/-- The loom image of an epoch, and its token-unit shard (R231). -/
def State.imageOf (s : State) (e : EpochRec) : Option (List Byte) := s.joinShards e 1
def State.tokenShardOf (s : State) (e : EpochRec) : Option (List Byte) := s.joinShards e 3

/-- Epoch records of a bolt whose blocks stand. -/
def BoltRec.holdersOfBlocks (b : BoltRec) : List EpochRec := b.current.toList ++ b.other.toList ++ b.mirrors

/-- The blocks of an epoch that left its bolt, but for those that another epoch or mirror of the bolt shares (R247). -/
def State.freeMirror (s : State) (b : Nat) (e : EpochRec) : State :=
  let held := (s.bolt b).holdersOfBlocks.flatMap fun x => x.mirror ++ x.fwd
  let ext := e.extents.flatMap fun x => (List.range x.2.2).map fun k => (x.1, x.2.1 + k)
  s.freeBlocks (((e.mirror ++ e.fwd).filter fun x => !held.contains x) ++ ext)

/-- Shards that were kept only to be forwarded are freed at the end of the load (R237). -/
def State.freeForwarded (s : State) (b n : Nat) : State :=
  match (s.bolt b).epochOf n with
  | some e => (s.freeBlocks e.fwd).modBolt b fun r => r.modEpoch n fun e => { e with fwd := [] }
  | none => s

/-! ## The virtual grid (R132, R133) -/

/-- The skeins of a rectangle in fill order. -/
def BoltRec.fillOrder (b : BoltRec) : List Nat :=
  (List.range b.h).flatMap fun j =>
    let row := (List.range b.w).map fun i => (b.sy0 + j) * 64 + b.sx0 + i
    if j % 2 = 0 then row else row.reverse

/-- Every site of a bolt's rectangle. -/
def BoltRec.sites (b : BoltRec) : List Nat := b.skeins.flatMap skeinCores

/-- The good-core map holds the site as good (R132), and the site can be used. -/
def State.siteGood (s : State) (c : Nat) : Bool := !s.ledger.badCores.contains c
def State.siteUsable (s : State) (c : Nat) : Bool :=
  s.siteGood c && decide ((s.core c).st ≠ .fenced) && decide ((s.core c).st ≠ .dead)

def State.isSpareSkein (s : State) (k : Nat) : Bool :=
  s.boot.spareSkein.any fun e => decide (e.1 = fieldOfSkein k) && decide (e.2 = k)

/-- The skein's spare: its highest-numbered good site. -/
def State.spareOf (s : State) (k : Nat) : Option Nat := ((skeinCores k).filter s.siteUsable).getLast?

/-- The skein is dead, or its field has lost its arrays (R354, R355). -/
def State.skeinLost (s : State) (k : Nat) : Bool := (s.skein k).dead || (s.field (fieldOfSkein k)).vaLost

/-- The sites of a skein that virtual cores may take. -/
def State.skeinSites (s : State) (k : Nat) : List Nat :=
  if s.isSpareSkein k || s.skeinLost k then [] else ((skeinCores k).filter s.siteUsable).dropLast

/-- Virtual number bases over the skeins in fill order. -/
def baseOf : List (List Nat) → Nat → List Nat
  | [], _ => []
  | l :: r, n => n :: baseOf r (n + l.length)

/-- The bolt's skeins in fill order, without those of a list: with the skeins that other epochs use left out, the virtual
cores that they leave free (R133, R239; log entry 42). -/
def State.gridBut (s : State) (b : Nat) (used : List Nat) : Grid :=
  let order := (s.bolt b).fillOrder
  let sites := order.map s.skeinSites
  ((order.zip ((baseOf sites 0).zip sites)).filter fun k => !used.contains k.1).map fun k => k.2

/-- The skeins that the bolt's epochs occupy. -/
def BoltRec.usedSkeins (b : BoltRec) : List Nat :=
  ((b.current.toList ++ b.other.toList).flatMap fun e => e.place.flatten.map skeinOf).eraseDups

def State.gridOf (s : State) (b : Nat) : Grid := s.gridBut b (s.bolt b).usedSkeins

def CoreRec.modStores (r : CoreRec) (f : Stores → Stores) : CoreRec := { r with stores := f r.stores }

/-! ## What is written on a site (R136–R139, R236) -/

/-- The weight runs of a virtual core, written into its beam store; none where a mirror line is lost. -/
def State.runsInto (s : State) (e : EpochRec) (m : List Byte) (region idx : Nat) (st : Stores) : Option Stores :=
  ((imPlaces m e.shape).filter fun p => decide (p.region = region) && decide (p.index = idx)).foldl (fun o p =>
    o.bind fun st => (s.mirrorRead e p.shard p.src (32 * p.lines)).map fun bs =>
      st.write 0 p.dst (32 * p.lines) (leNat bs)) (some st)

def segInto (m : List Byte) (ss x : Nat) (st : Stores) : Stores :=
  if x = noSeg then st
  else
    let g := ((imSegs m 4).getD []).getD x ⟨0, 0, 0⟩
    st.write ss g.at_ g.count (leNat ((m.drop g.start).take g.count))

/-- Code and data segments of a core record. -/
def segsInto (m : List Byte) (c : CoreCfg) (st : Stores) : Stores :=
  let g := ((imSegs m 3).getD []).getD c.code ⟨0, 0, 0⟩
  let st := st.write 3 0 (16 * g.count) (leNat ((m.drop g.start).take (16 * g.count)))
  segInto m 0 c.beam (segInto m 2 c.part (segInto m 1 c.act st))

/-- A lane core's frame map: every entry absent, with its complement (R199). -/
def mapInto (g : KvGeom) (st : Stores) : Stores :=
  (List.range g.mapLen).foldl (fun st k =>
    let v := 2 <<< 20
    st.write (bits g.mapBase 19 3) (bits g.mapBase 0 19 + 8 * k) 8 (v + (compl 32 v <<< 32))) st

/-- The address of a selvedge object (R171, R173, R320). -/
def objectAddr (e : EpochRec) (engine n : Nat) : Nat :=
  let cls := n / 65536
  let side := bits n 12 4
  let idx := bits n 0 12
  if cls = 5 then
    let x := e.extents.getD idx (0, 0, 0)
    gaMake engine (576 + 12 * x.1 + x.2.1 / 512) (x.2.1 % 512) 0
  else if cls = 2 then gaMake engine (961 + 16 * side) 0 0
  else if cls = 3 then gaMake engine (962 + 16 * side) idx 0
  else gaMake engine (960 + 16 * side) idx 0

/-- A virtual core of a chain position as a number. -/
def siteKey (pos region idx : Nat) : Nat := idx + 2 ^ 24 * region + 2 ^ 32 * pos

/-- The site of a virtual core of a chain position: its engine number and core number; that of another position as the free
value that the load's harnesses agreed on, until a message says that it has moved (R135). -/
def State.siteOf (s : State) (e : EpochRec) (pos region idx : Nat) : Nat × Nat :=
  if pos = e.position then (s.engineNo, (e.place.getD region []).getD idx 0)
  else
    let n := (e.chain.getD pos (0, 0)).1
    match e.moved.find? fun x => decide (x.1 = siteKey pos region idx) with
    | some x => (n, x.2)
    | none => (n, Config.remoteSite n region idx % Config.nCores)

/-- A relocated word (Table 5.7). -/
def State.relocWord (s : State) (b : Nat) (e : EpochRec) (m : List Byte) (c : Reloc) (w : Nat) : Nat :=
  if c.kind = 1 then
    let t := s.siteOf e c.engine c.tgtRegion c.tgtIndex
    setBits w 22 25 (bits (gaMake t.1 (coreY t.2) (coreX t.2) 0) 22 25)
  else if c.kind = 2 then setBits w 0 47 (objectAddr e s.engineNo c.number)
  else
    let v := if c.number = 0 then e.virt c.atRegion c.atIndex
      else if c.number = 1 then ((imShape m e.shape).getD c.atRegion (0, 0, 0)).1
      else if c.number = 2 then c.atIndex
      else if c.number = 3 then e.shape
      else if c.number = 4 then b
      else s.engineNo
    setBits w 0 32 v

/-- The relocations of a virtual core, patched into its stores. -/
def State.relocsInto (s : State) (b : Nat) (e : EpochRec) (m : List Byte) (region idx : Nat) (st : Stores) : Stores :=
  (((imRelocs m e.shape).map relocOf).filter fun c => decide (c.atRegion = region) && decide (c.atIndex = idx)).foldl
    (fun st c => st.write c.ss c.off 8 (s.relocWord b e m c (st.read c.ss c.off 8))) st

/-- The KV record of a region where the region-local core is a lane core (R139). -/
def laneGeom (e : EpochRec) (region idx : Nat) : Option KvGeom :=
  (e.kv? region).filter fun g => decide (idx < g.heads * g.lanes)

/-- Control values of a core record, with the frame map and geometry of a lane core. -/
def coreControls (m : List Byte) (e : EpochRec) (region idx : Nat) (r : CoreRec) : CoreRec :=
  let c := imCore m e.shape region idx
  let arb := BitVec.ofNat 16 (c.arb + (c.yield_ <<< 8))
  let r := { r with freqTarget := c.freq, arbSh := arb, arb := arb, startBundle := c.start, scrubKeep := [] }
  match laneGeom e region idx with
  | some g =>
    let frames := if idx % g.lanes < g.lanesHi then g.framesHi else g.framesLo
    let fm := BitVec.ofNat 64 (bits g.mapBase 0 22 + (g.mapLen <<< 22))
    let fg := BitVec.ofNat 64 (g.frameBase + (g.frameStride <<< 19) + (frames <<< 38))
    { r with frameMapSh := fm, frameMap := fm, frameGeomSh := fg, frameGeom := fg }
  | none => { r with frameMapSh := 0, frameMap := 0, frameGeomSh := 0, frameGeom := 0 }

/-- A virtual core placed on its site: weight runs, or the retained rows kept (R252), activation store zeroed, segments,
control values and relocations. None where a mirror line is lost. -/
def State.placeCore (s : State) (b : Nat) (e : EpochRec) (m : List Byte) (keepBeam : Bool) (region idx : Nat) : Option State :=
  let c := (e.place.getD region []).getD idx 0
  let old := (s.core c).stores
  let blank : Stores := if keepBeam then { beam := old.beam, ecc := old.ecc.filter fun x => decide (x.1 < 2 ^ 20) } else {}
  (if keepBeam then some blank else s.runsInto e m region idx blank).map fun st =>
    let st := segsInto m (imCore m e.shape region idx) st
    let st := match laneGeom e region idx with
      | some g => mapInto g st
      | none => st
    s.modCore c fun r => { coreControls m e region idx r with stores := s.relocsInto b e m region idx st }

/-- A skein's allowance and burst, with complements and the harness's copies (R130). -/
def State.setBudget (s : State) (k a b : Nat) : State :=
  s.modSkein k fun r => { r with
    allowance := BitVec.ofNat 10 a, allowanceInv := ~~~(BitVec.ofNat 10 a), burst := BitVec.ofNat 10 b,
    burstInv := ~~~(BitVec.ofNat 10 b), allowCopy := a, burstCopy := b, mismatchReported := false }

/-- Allowance and burst of a region in every skein that it occupies. -/
def State.setBudgets (s : State) (m : List Byte) (e : EpochRec) : State :=
  e.place.zipIdx.foldl (fun s g =>
    let x := (imShape m e.shape).getD g.2 (0, 0, 0)
    ((g.1.map skeinOf).eraseDups).foldl (fun s k => s.setBudget k x.2.1 x.2.2) s) s

/-- Creel-fed extents take the bytes of their shards from the mirror (R320, R323). -/
def State.fillExtents (s : State) (e : EpochRec) : Option State :=
  let weights := (List.range e.shards.length).filter fun i => decide ((e.shard i).kind = 2) && (e.shard i).here e.position
  (e.extents.zip weights).foldl (fun o x => o.bind fun s =>
    (s.mirrorRead e x.2 0 (e.shard x.2).length).map fun bs =>
      s.fillBlocks x.1.1 ((List.range x.1.2.2).map fun k => x.1.2.1 + k) bs) (some s)

/-- Every virtual core of an epoch placed, extents filled, allowances and voltage codes set (R236, R346). -/
def State.placeEpoch (s : State) (b : Nat) (e : EpochRec) (m : List Byte) (keepBeam : Bool) : Option State :=
  let cores := e.place.zipIdx.flatMap fun g => (List.range g.1.length).map fun i => (g.2, i)
  ((s.fillExtents e).bind fun s => cores.foldl (fun o x => o.bind fun s => s.placeCore b e m keepBeam x.1 x.2) (some s)).map
    fun s => (s.setBudgets m e).reCode ((e.place.flatten.map skeinOf).eraseDups) (s.occupied ++ e.place.flatten)

/-! ## Scrubs (R41, R68, R250, R252) -/

/-- The rows that hold weights of a virtual core. -/
def weightRows (m : List Byte) (shape region idx : Nat) : List Nat :=
  (((imPlaces m shape).filter fun p => decide (p.region = region) && decide (p.index = idx)).flatMap fun p =>
    let a := rowOf p.dst
    let z := rowOf (p.dst + 32 * p.lines - 1)
    (List.range (z + 1 - a)).map fun k => a + k).eraseDups

def keepTable (rows : List Nat) : Tab Word :=
  (List.range 24).foldl (fun t k =>
    Tab.put 0 t k (BitVec.ofNat 64 (packFields 1 64 fun j => boolNat (rows.contains (64 * k + j))))) []

/-- A core halts and enters SCRUBBING with these rows kept; a core that is OFF, FENCED or DEAD stays. -/
def State.scrubCore (s : State) (c : Nat) (rows : List Nat) : State :=
  ((s.coreHalt c).modCore c fun r => { r with scrubKeep := keepTable rows }).coreScrub c

def State.scrubCores (s : State) (l : List Nat) : State := l.foldl (fun s c => s.scrubCore c []) s

/-- The retained rows of an epoch are zeroed. -/
def State.zeroRetained (s : State) (e : EpochRec) : State :=
  e.place.flatten.foldl (fun s c => s.modCore c fun k => { k with stores := {}, scrubKeep := [] }) s

/-- Retained rows are zeroed, and the mirror kept with them is freed (R252). -/
def State.dropRetained (s : State) (b : Nat) : State :=
  let r := s.bolt b
  if r.retained then
    let s := r.mirrors.foldl (fun s e => s.zeroRetained e) s
    let s := s.setBolt b { r with retained := false, mirrors := [] }
    r.mirrors.foldl (fun s e => s.freeMirror b e) s
  else s

/-! ## Ends of epochs, loads and bolts (R238, R242, R243, R257) -/

/-- The requests that hold an epoch (R242). -/
def State.holders (s : State) (b n : Nat) : List Nat :=
  (s.boltReqs b).filter fun i =>
    let r := s.req i
    decide (r.epoch = n) && decide (r.st ∈ [rqQueued, rqPrefill, rqDecode, rqHeld, rqDraining])

/-- PARKED and ABSENT requests of an epoch that goes lose their pages and copies and are bound to the epoch that takes
admissions now, where there is one (R242). -/
def State.rebind (s : State) (b n : Nat) : State :=
  let s := s.checkKeys
  ((s.boltReqs b).filter fun i => decide ((s.req i).epoch = n) && decide ((s.req i).st ∈ [rqParked, rqAbsent])).foldl
    (fun s i =>
      let s := s.toAbsent i
      match s.bindEpoch b with
      | some e => s.modReq i fun r => { r.setKey 20 16 e.num with rebound := true }
      | none => s) s

/-- The budget of the skeins that an epoch leaves. -/
def State.clearBudgets (s : State) (e : EpochRec) : State :=
  ((e.place.flatten.map skeinOf).eraseDups).foldl (fun s k => s.setBudget k 0 0) s

/-- What an epoch holds on the wafer and in creel is given up, once its bolt no longer lists it. -/
def State.releaseEpoch (s : State) (b : Nat) (e : EpochRec) : State :=
  let s := s.clearBudgets e
  let s := if e.placedDone then s.scrubCores e.place.flatten else s
  let s := s.freeMirror b e
  s.modBolt b fun r => { r with regions := r.regions.filter fun g => decide (g.1 / 256 ≠ e.num) }

/-- The SPAN_PEER entries that map to a bolt are cleared (R337). -/
def State.clearPeers (s : State) (b : Nat) : State :=
  (List.range 64).foldl (fun s f =>
    let v := wordVal (Tab.get rtReset s.span.peerCopy f)
    let v' := packFields 4 8 fun j => if bits v (4 * j) 4 = 8 + b then 0 else bits v (4 * j) 4
    if v' = v then s
    else { s with span := { s.span with
      peer := Tab.put rtReset s.span.peer f (withInv v'), peerCopy := Tab.put rtReset s.span.peerCopy f (withInv v') } }) s

/-- The cores of a bolt accept writes again, and it is in no span group. -/
def State.openCores (s : State) (b : Nat) : State :=
  let s := (s.bolt b).sites.foldl (fun s c => s.modCore c fun r => { r with discard := false }) s
  s.clearPeers b

/-- A bolt enters EMPTY. -/
def State.enterEmpty (s : State) (b : Nat) : State := (s.openCores b).setBoltSt b .empty

def isScrubLoad : BoltOp → Bool
  | .scrubLoad _ => true
  | _ => false

/-- Result bytes of a load's final (Table 10.10). -/
def loadResult (e : EpochRec) (pos shard : Nat) : List Nat :=
  natBytes 2 e.num ++ natBytes 1 pos ++ natBytes 1 0 ++ natBytes 4 shard

/-! ## Shards in flight (R235) -/

/-- Every position of the chain is in a list. -/
def allPositions (n : Nat) (l : List Nat) : Bool := (List.range n).all fun k => l.contains k

/-- Shards in flight on the engine's hash engines. -/
def State.inFlight (s : State) : Nat :=
  let n (l : List ShardRec) : Nat := (l.filter fun k => decide (k.st = .inFlight)).length
  s.bolts.foldl (fun a e => match e.2.load, e.2.other with
    | some _, some o => a + n o.shards
    | _, _ => a) 0 + s.adapters.foldl (fun a e => a + n e.2.shards) 0

/-- The waiting shards are requested in table order, with at most `n` more in flight. -/
def takeWaiting (now : Nat) (can : Nat → ShardRec → Bool) : Nat → Nat → List ShardRec → List ShardRec
  | _, _, [] => []
  | 0, _, l => l
  | n + 1, i, k :: r =>
    if k.st = .waiting ∧ can i k = true then { k with st := .inFlight, since := now } :: takeWaiting now can n (i + 1) r
    else k :: takeWaiting now can (n + 1) (i + 1) r

/-- A position asks the one before it for a shard. -/
def State.wantShard (s : State) (e : EpochRec) (i : Nat) : State :=
  let before := e.chain.getD (e.position - 1) (0, 0)
  s.sayTo before.1 msgWant before.2 (e.manifestHash.toNat % 2 ^ 32) (leBytes 4 i)

/-- A load requests what it can, once every position of its chain is fit: the head from host memory, another position what
the one before it has announced (R234, R235, R237). -/
def State.requestShards (s : State) (b : Nat) : State :=
  let r := s.bolt b
  match r.load, r.other with
  | some l, some e =>
    if r.ops.any isScrubLoad then s
    else
      let can (i : Nat) (k : ShardRec) : Bool := k.kept e.position &&
        (if e.position = 0 then allPositions e.chain.length l.fit else l.announced.contains i)
      let shards := takeWaiting s.time can (32 - s.inFlight) 0 e.shards
      let s := s.setBolt b { r with other := some { e with shards := shards } }
      if e.position = 0 then s
      else (((e.shards.zip shards).zipIdx).filter fun x => decide (x.1.1.st ≠ x.1.2.st)).foldl (fun s x => s.wantShard e x.2) s
  | _, _ => s

def State.requestAdapter (s : State) (k : Nat) : State :=
  s.modAdapter k fun a => { a with shards := takeWaiting s.time (fun _ _ => a.fin.isSome) (32 - s.inFlight) 0 a.shards }

/-- Every load goes on with what the hash engines can take. -/
def State.requestAll (s : State) : State :=
  let s := (List.range Config.nBolts).foldl (fun s b => s.requestShards b) s
  (s.adapters.map fun e => e.1).foldl (fun s k => s.requestAdapter k) s

/-- A load ends without success: its shards are freed, every core that it had written is scrubbed, and a LOADING bolt is
EMPTY again (R238, R243). The head completes the descriptor and tells the other positions; another position tells the
head. The hash engines that it leaves go to other loads. -/
def State.loadFail (s : State) (b status pos shard : Nat) : State :=
  let r := s.bolt b
  match r.load, r.other with
  | some l, some e =>
    let s := s.setBolt b { r with
      load := none, other := none, ops := r.ops.filter fun o => !isScrubLoad o }
    let s := if r.ops.any isScrubLoad then s.scrubCores r.sites else s
    let s := s.releaseEpoch b e
    let s := if r.st = .loading then s.enterEmpty b else s
    let args := leBytes 1 status ++ leBytes 1 pos ++ leBytes 4 shard
    let s := if e.position = 0 then (s.sayAll e msgFail args).finishOf l.fin status (loadResult e pos shard)
      else
        let head := e.chain.getD 0 (0, 0)
        s.sayTo head.1 msgFail head.2 (e.manifestHash.toNat % 2 ^ 32) args
    s.requestAll
  | _, _ => s

/-- The final of an operation that waits, as its bolt faults or is killed. -/
def BoltOp.fins : BoltOp → List FinOf
  | .switchTo _ f => [f]
  | .unload _ _ f => [f]
  | .create f => [f]
  | .scrub f _ _ => [f]
  | .scrubLoad _ => []
  | .freeScrub _ => []

/-- Load, tuning job, switches and unloads of a bolt end with a status; a switch to a PLACED epoch has its completion. -/
def State.endOps (s : State) (b status : Nat) : State :=
  let s := s.loadFail b status 0 0xFFFFFFFF
  let r := s.bolt b
  let s := match r.tune with
    | some t => s.finishOf t.fin status (natBytes 4 t.applied ++ natBytes 4 t.discarded)
    | none => s
  let s := s.freeTuneSlot b
  let s := s.setBolt b { s.bolt b with ops := [], tune := none, unloading := false }
  ((r.ops.filter fun o => !(isSwitch o && decide (r.other.map (fun e => e.st) = some .placed))).flatMap BoltOp.fins).foldl
    (fun s f => s.finishOf f status []) s

/-- Every request of a bolt ends. -/
def State.endAll (s : State) (b st status : Nat) : State :=
  let s := s.checkKeys
  (s.boltReqs b).foldl (fun s i => s.endReq i st status) s

/-- A descriptor whose inputs were being read for a bolt that goes. -/
def State.haltBolt (s : State) (b : Nat) : State := (s.bolt b).sites.foldl (fun s c => s.coreHalt c) s

/-- A bolt goes FAULTED from whatever state: its requests end, its cores halt, its mirrors are kept (R126, R256, R257). -/
def State.faultNow (s : State) (b : Nat) : State :=
  if (s.bolt b).st ∈ [.none, .faulted] then s
  else
    let s := s.endOps b ssFaulted
    let s := s.endAll b rqFaulted ssFaulted
    let s := s.haltBolt b
    let s := s.modBolt b fun r => { r with
      current := none, other := none, pauses := [], drained := false, timersSuspended := false, regions := [], slots := []
      tops := []
      mirrors := r.mirrors ++ r.current.toList ++ r.other.toList }
    ((s.evictAll b).setBoltSt b .faulted).noteConds

/-- A bolt that holds epochs, or loads one, goes FAULTED. -/
def State.faultBolt (s : State) (b : Nat) : State :=
  if (s.bolt b).st ∈ [.empty, .scrubbing] then s else s.faultNow b

end Sys2Proof.Machine
end

