-- ==== Sys2Proof/Machine/Adapters.lean ====
section
/-! DEFINITION. Adapters on the wafer, their eviction, and tuning (R192, R225, R245, R246, R308, R309). -/

namespace Sys2Proof.Machine

open Sys2Proof

/-! ## ADAPTER_PLACED (R139, R245) -/

/-- Requests of a bolt that name an adapter slot, in given states. -/
def State.adapterUsers (s : State) (k : Nat) (states : List Nat) : List Nat :=
  (s.boltReqs (s.adapter k).bolt).filter fun i =>
    decide ((s.req i).adapterNo = some k) && decide ((s.req i).st ∈ states)

/-- QUEUED to DRAINING but for the paused states that hold no frame. -/
def activeStates : List Nat := [rqQueued, rqPrefill, rqDecode, rqHeld, rqDraining]

/-- The epochs on the wafer whose frames an adapter takes. -/
def State.adapterEpochs (s : State) (k : Nat) : List EpochRec :=
  ((s.bolt (s.adapter k).bolt).current.toList ++ (s.bolt (s.adapter k).bolt).other.toList).filter fun e =>
    e.placedDone && decide (e.modelId = (s.adapter k).baseId)

/-- Adapter frames that every region of an epoch has. -/
def EpochRec.adapterFrames (e : EpochRec) : Nat := (e.adapterGeom.map fun g => g.frames).foldl min 256

/-- The cores of an epoch's adapter records, in the order of the factor bytes: record, core, first byte (R139). -/
def EpochRec.adapterSites (e : EpochRec) : List (AdapterGeom × Nat × Nat) :=
  (e.adapterGeom.foldl (fun (q : List (AdapterGeom × Nat × Nat) × Nat) g =>
    let cores := e.place.getD g.region []
    (q.1 ++ cores.zipIdx.map (fun c => (g, c.1, q.2 + c.2 * g.frameBytes)), q.2 + cores.length * g.frameBytes)) ([], 0)).1

/-- The bytes of an adapter written into one frame of every region. -/
def State.writeFrames (s : State) (e : EpochRec) (frame : Nat) (bytes : List Byte) : State :=
  e.adapterSites.foldl (fun s x =>
    s.modCore x.2.1 fun r => r.modStores fun st =>
      st.write 0 (x.1.frameBase + frame * x.1.frameStride) x.1.frameBytes (leNat ((bytes.drop x.2.2).take x.1.frameBytes))) s

def State.residents (s : State) (b : Nat) : List (Nat × AdapterRec) :=
  s.adapters.filter fun e => e.2.resident && decide (e.2.bolt = b)

/-- The adapter used longest ago, ties to the lower slot. -/
def oldestAdapter (l : List (Nat × AdapterRec)) : Option (Nat × AdapterRec) :=
  l.foldl (fun o x => match o with
    | some y => if x.2.used < y.2.used then some x else o
    | none => some x) none

/-- A frame for an adapter: a free one, or that of the least recently used adapter that no stream in a slot names. -/
def State.adapterFrame (s : State) (b frames : Nat) : Option (State × Nat) :=
  let res := s.residents b
  match (List.range frames).find? fun f => !res.any fun x => decide (x.2.frame = f) with
  | some f => some (s, f)
  | none => (oldestAdapter (res.filter fun x => s.adapterUsers x.1 [rqPrefill, rqDecode] = [])).map fun x =>
      (s.modAdapter x.1 fun a => { a with resident := false }, x.2.frame)

/-- Placing an adapter from creel finishes. A damaged copy cannot be placed: the requests that name it complete FAULTED
(Table 12.3). -/
def State.placeAdapter (s : State) (k : Nat) : State :=
  let a := s.adapter k
  let users := s.adapterUsers k [rqQueued]
  let es := s.adapterEpochs k
  if a.loaded = false ∨ a.resident = true ∨ users = [] ∨ es = [] then s
  else if a.damaged then users.foldl (fun s i => s.endReq i rqFaulted ssFaulted) s
  else match s.adapterFrame a.bolt ((es.map fun e => e.adapterFrames).foldl min 256) with
    | some (s, f) =>
      let s := es.foldl (fun s e => s.writeFrames e f a.bytes) s
      s.modAdapter k fun a => { a with resident := true, frame := f, used := s.time }
    | none => s

def execAdapterPlaced (k : Nat) (s : State) : Out := onUnit (decide (k < 256)) s fun s => s.placeAdapter k

/-! ## EVICT_ADAPTER, EVICT_ADAPTER_DONE (R246) -/

/-- The slot that an adapter descriptor names belongs to the bolt, is loaded, and is open. -/
def State.adapterOpen (s : State) (b k : Nat) : Bool :=
  decide (k < 256) && (s.adapter k).loaded && !(s.adapter k).closed && decide ((s.adapter k).bolt = b)

def execEvictAdapter (q : Nat) (d : BitVec 1024) (s : State) : Out :=
  onDesc 0x12 q d s fun s a =>
    let k := dfield d 16 2
    match (if dZeroBut d [(0, 18)] && decide (dHandle d = 0) then a.bolt else none) with
    | some b => if s.adapterOpen b k then s.modAdapter k fun r => { r with closed := true, evict := some a.fin } else s.invalid a
    | none => s.invalid a

/-- A tuning job works on the slot. -/
def State.tunes (s : State) (k : Nat) : Bool := match (s.bolt (s.adapter k).bolt).tune with
  | some t => decide (t.slot = k)
  | none => false

def State.evictDone (s : State) (k : Nat) (f : FinOf) : State :=
  let b := (s.adapter k).bolt
  let s := (s.adapterUsers k [rqParked, rqAbsent]).foldl (fun s i => s.endReq i rqCancelled ssCancelled) s
  ((s.setAdapter k {}).fitPool b).finishOf f ssOk []

def execEvictAdapterDone (k : Nat) (s : State) : Out :=
  onUnit (decide (k < 256)) s fun s => match (s.adapter k).evict with
    | some f => if s.adapterUsers k activeStates = [] ∧ s.tunes k = false then s.evictDone k f else s
    | none => s

/-! ## TUNE_ADAPTER (R308) -/

def jobField (j : BitVec 512) (off n : Nat) : Nat := bits j.toNat (8 * off) (8 * n)
def jobLr (j : BitVec 512) : Nat := jobField j 20 4
def jobBeta1 (j : BitVec 512) : Nat := jobField j 24 4
def jobBeta2 (j : BitVec 512) : Nat := jobField j 28 4
def jobEps (j : BitVec 512) : Nat := jobField j 32 4
def jobWd (j : BitVec 512) : Nat := jobField j 36 4

def fracOk (x : Nat) : Bool := f32Le 0 x && f32Lt x 0x3F800000

/-- Every field of the job block is in the range of Table 11.6. -/
def jobOk (j : BitVec 512) : Bool :=
  decide (1 ≤ jobField j 12 4) && decide (1 ≤ jobField j 16 2) && decide (jobField j 16 2 ≤ 256) &&
  f32Lt 0 (jobLr j) && fracOk (jobBeta1 j) && fracOk (jobBeta2 j) && f32Lt 0 (jobEps j) && f32Le 0 (jobWd j) &&
  decide (jobField j 40 24 = 0)

def tuneFieldsOk (d : BitVec 1024) : Bool :=
  dZeroBut d [(0, 18), (20, 16)] && decide (dHandle d = 0) && decide (1 ≤ dfield d 20 4) && decide (dfield d 32 4 = 64)

/-- 16-bit words of a list of bytes. -/
def words2 : List Byte → List Nat
  | a :: b :: r => leNat [a, b] :: words2 r
  | _ => []

/-- The examples of a job: a count from 2 to 65,536, then that many words, each an ID and a loss flag (R308). -/
def tuneWords : List Byte → List Nat
  | a :: b :: c :: d :: r => leNat [a, b, c, d] :: tuneWords r
  | _ => []

def tuneExamples : Nat → List Nat → Option (List (List (Nat × Bool)))
  | 0, l => if l = [] then some [] else none
  | _ + 1, [] => none
  | k + 1, n :: l =>
    let w := l.take n
    if 2 ≤ n ∧ n ≤ 65536 ∧ w.length = n ∧ (w.all fun x => decide (bits x 18 13 = 0)) = true then
      (tuneExamples k (l.drop n)).map fun r => (w.map fun x => (bits x 0 18, bitAt x 31)) :: r
    else none

/-- The examples as the job block counts them, in exactly `data_len` bytes. -/
def jobExamples (j : BitVec 512) (bytes : List Byte) : Option (List (List (Nat × Bool))) :=
  if bytes.length = jobField j 8 4 ∧ bytes.length % 4 = 0 then tuneExamples (jobField j 12 4) (tuneWords bytes) else none

/-- A job at its start: the master copy from the slot's BF16 values, both moments zero, the averages unset. -/
def tuneStart (a : AdapterRec) (e : EpochRec) (f : FinOf) (k nsteps : Nat) (job : BitVec 512)
    (examples : List (List (Nat × Bool))) : TuneRec :=
  let theta : List F32 := (words2 a.bytes).map fun w => BitVec.ofNat 32 (w <<< 16)
  { fin := f, slot := k, nsteps := nsteps, job := job, theta := theta, mo := theta.map fun _ => 0, vv := theta.map fun _ => 0,
    avgs := (e.ofKind 0).map fun _ => BitVec.ofNat 32 f32Neg1, examples := examples }

/-- TUNE_ADAPTER is for the bolt's functions, not for the admin queue (Table 10.5). -/
def State.tuneAdapter (s : State) (a : Acc) (job : BitVec 512) (bytes : List Byte) : State :=
  let k := dfield a.d 16 2
  match (if a.q = 0 then none else a.bolt) with
  | some b => match (s.bolt b).current, jobExamples job bytes with
    | some e, some x =>
      if tuneFieldsOk a.d && jobOk job && s.adapterOpen b k && (s.adapterUsers k activeStates).isEmpty &&
          (s.bolt b).tune.isNone then
        let s' := s.modBolt b fun r => { r with tune := some (tuneStart (s.adapter k) e a.fin k (dfield a.d 20 4) job x) }
        if s'.poolFits b then s'.fitPool b else s.finish a ssRejMemory []
      else s.invalid a
    | _, _ => s.invalid a
  | none => s.invalid a

def execTuneAdapter (q : Nat) (d : BitVec 1024) (job : TuneJob) (s : State) : Out :=
  onDesc 0x30 q d s fun s a => s.tuneAdapter a job.block job.examples

/-! ## TUNE_STEP (R192, R309) -/

/-- `rne((1 − beta) · x)`. -/
def oneMinusMul (beta x : Nat) : Nat := rnd32 (fvMul (fvAdd (dec32 0x3F800000) (fvNeg (dec32 beta))) (dec32 x))

/-- `rne(x / (1 − beta^n))`. -/
def biasCorrect (x beta n : Nat) : Nat :=
  match dec32 x, dec32 beta with
  | .nan, _ => f32Nan
  | .inf g, _ => rnd32 (.inf g)
  | .fin g m e, .fin _ mb eb =>
    let one := 2 ^ ((-eb).toNat * n)
    if m = 0 then rnd32 (.fin g 0 0) else rndQuot g (m * one) (one - mb ^ n) e
  | _, _ => f32Nan

/-- `rne(vrsq(v)^−1 + eps)`, exact but for the one rounding. -/
def rootPlus (v eps : Nat) : Nat :=
  match dec32 (f32Rsq v), dec32 eps with
  | .nan, _ => f32Nan
  | _, .nan => f32Nan
  | .inf _, _ => eps
  | _, .inf g => rnd32 (.inf g)
  | .fin _ m e, .fin _ n g =>
    if m = 0 then rnd32 (.inf false)
    else
      let t := e + g
      if 0 ≤ t then rndQuot false (1 + (n * m) <<< t.toNat) m (-e) else rndQuot false (2 ^ (-t).toNat + n * m) m (t - e)

/-- The update of one parameter in step `s`: parameter and moments. -/
def tuneParam (j : BitVec 512) (s theta mo v g : Nat) : Nat × Nat × Nat :=
  let mo := f32Fma (jobBeta1 j) mo (oneMinusMul (jobBeta1 j) g)
  let v := f32Fma (jobBeta2 j) v (oneMinusMul (jobBeta2 j) (f32Mul g g))
  let mh := biasCorrect mo (jobBeta1 j) (s + 1)
  let vh := biasCorrect v (jobBeta2 j) (s + 1)
  let step := f32Mul (jobLr j) (f32Add (f32Div mh (rootPlus vh (jobEps j))) (f32Mul (jobWd j) theta))
  (f32Sub theta step, mo, v)

/-- The examples of a step, in order. -/
def TuneRec.batchOf (t : TuneRec) : List Nat :=
  let b := jobField t.job 16 2
  (List.range b).map fun i => (t.step * b + i) % t.examples.length

/-- The targets at the flagged positions of a step's batch, in order. -/
def TuneRec.targets (t : TuneRec) : List Nat :=
  t.batchOf.flatMap fun i => ((t.examples.getD i []).filter fun x => x.2).map fun x => x.1

def oneF : Nat := 0x3F800000

/-- The loss gradient at a flagged position: `(softmax − one-hot) ÷ F`, each operation rounded to FP32 (log entry 81). -/
def lossGradient (n target : Nat) (logits : List F32) : List F32 :=
  tabulate logits.length fun j => BitVec.ofNat 32
    (f32Div (f32Sub (Config.lossSoftmax logits j).toNat (if j = target then oneF else 0)) (rnd32 (.fin false n 0)))

/-- The gradient tensors of a layer, in blocks: those of its products, then that of its attention's output. -/
def layerBlocks (m : TuneLayer) : List (List (List Nat)) :=
  let nat (l : List F32) : List Nat := l.map fun x => x.toNat
  m.tensors.map (fun b => b.map nat) ++ [m.rows.flatMap fun r => r.grad.flatMap fun g => blocks32 (nat g)]

/-- The given code of a layer's tensor in this step: none in the first step and in a replay, where codes are dynamic. -/
def TuneRec.given (t : TuneRec) (l i : Nat) : Option Nat :=
  if t.replaying then none else t.codes.map fun c => (c.getD l []).getD i 0

/-- S of a layer: the saturation count of its gradient QNTs. -/
def TuneRec.satOf (t : TuneRec) (l : Nat) (m : TuneLayer) : Nat :=
  (layerBlocks m).zipIdx.foldl (fun n x => x.1.foldl (fun n b => n + (qntBlock 7 (t.given l x.2) none b).sat) n) 0

/-- The elements that a layer's gradient QNTs quantize. -/
def gradElements (m : TuneLayer) : Nat :=
  (layerBlocks m).foldl (fun n x => x.foldl (fun n b => n + b.length) n) 0

/-- The codes of the next step: one more than the largest dynamic code of each tensor's blocks, at most 254. -/
def nextCodes (inp : TuneInput) : List (List Nat) :=
  inp.layers.map fun m => (layerBlocks m).map fun x =>
    min 254 (x.foldl (fun n b => max n (qntBlock 7 none none b).scale) 0 + 1)

/-- q of a layer's output gradient (R183). -/
def layerQ (m : TuneLayer) : Nat := squareNorm m.tree (m.cores.map fun c => c.map fun x => x.toNat)

/-- The first layer whose gradient triggers: region, norm test, saturation test. -/
def TuneRec.trigger (t : TuneRec) (e : EpochRec) (inp : TuneInput) : Option (Nat × Bool × Bool) :=
  (List.range t.avgs.length).findSome? fun l =>
    let m := inp.layers.getD l ⟨[], .leaf 0, [], []⟩
    let region := (e.ofKind 0).getD l 0
    let norm := normTrig (Config.jumpRatio e.manifestHash region).toNat (watchNorm (layerQ m)) (t.avgs.getD l 0).toNat
    let sat := satTrig true (gradElements m) (t.satOf l m)
    if norm || sat then some (region, norm, sat) else none

/-- The passes of a step: the examples that it uses, the rows that the forward pass saves, the loss gradients, and the row
gradients that the backward pass finds (R225, R309). -/
def TuneRec.passes (t : TuneRec) (inp : TuneInput) : TuneRec :=
  { t with
    batch := t.batchOf
    saved := inp.layers.map fun m => m.rows.map rowSaved
    lossGrads := (inp.logits.zip t.targets).map fun x => lossGradient t.targets.length x.2 x.1
    rowGrads := inp.layers.zipIdx.map fun m => m.1.rows.map fun r => rowBackward r (t.given m.2 m.1.tensors.length) }

/-- The virtual core and the index on it of every BF16 factor of an adapter. -/
def EpochRec.factorSites (e : EpochRec) : List (Nat × Nat) :=
  e.adapterGeom.flatMap fun g => (List.range (e.place.getD g.region []).length).flatMap fun i =>
    (List.range (g.frameBytes / 2)).map fun j => (e.virt g.region i, j)

/-- The slot's BF16 values, rounded from the master copy with stochastic rounding under a key (R192). -/
def roundFactors (e : EpochRec) (key step : Nat) (theta : List F32) : List Byte :=
  (theta.zip e.factorSites).flatMap fun x =>
    leBytes 2 (roundHalf 0xA (some (stochDraw key (step % 2 ^ 32) x.2.1 (x.2.2 % 32))) x.1.toNat).1

/-- An applied step: parameters, moments and averages, and the slot's values. The key of the stochastic rounding, which the
manual does not give, is a free value. -/
def State.tuneApply (s : State) (b : Nat) (e : EpochRec) (t : TuneRec) (inp : TuneInput) : State :=
  let q := s.takeFree
  let s := q.2
  let new := (t.theta.zip (t.mo.zip (t.vv.zip inp.grads))).map fun x =>
    tuneParam t.job t.step x.1.toNat x.2.1.toNat x.2.2.1.toNat x.2.2.2.toNat
  let theta : List F32 := new.map fun x => BitVec.ofNat 32 x.1
  let t := { t with
    theta := theta
    mo := new.map fun x => BitVec.ofNat 32 x.2.1
    vv := new.map fun x => BitVec.ofNat 32 x.2.2
    avgs := (t.avgs.zip inp.layers).map fun x => BitVec.ofNat 32 (avgUpdate (watchNorm (layerQ x.2)) x.1.toNat)
    codes := some (nextCodes inp)
    applied := t.applied + 1 }
  let bytes := roundFactors e (Config.freeWord q.1).toNat t.step theta
  let s := s.modBolt b fun r => { r with tune := some t }
  let s := s.modAdapter t.slot fun a => { a with bytes := bytes }
  let a := s.adapter t.slot
  if a.resident then (s.adapterEpochs t.slot).foldl (fun s e => s.writeFrames e a.frame bytes) s else s

/-- The job goes to its next step, or ends: after its last step, or after the step in which the slot was evicted. -/
def State.tuneNext (s : State) (b : Nat) : State :=
  match (s.bolt b).tune with
  | some t =>
    let n := t.step + 1
    let fin (status : Nat) : State :=
      (((s.freeTuneSlot b).modBolt b fun r => { r with tune := none }).fitPool b).finishOf t.fin status
        (natBytes 4 t.applied ++ natBytes 4 t.discarded)
    if (s.adapter t.slot).closed then fin ssCancelled
    else if t.nsteps ≤ n then fin ssOk
    else s.modBolt b fun r => { r with tune := some { t with step := n, replaying := false } }
  | none => s

/-- A step in the slot that the job holds: a first trigger replays it, a second one discards it; the codes then come from the
replay. -/
def State.tuneStep (s : State) (b slot : Nat) (e : EpochRec) (t : TuneRec) (inp : TuneInput) : State :=
  let s := s.modBolt b fun r => r.modSlot slot fun _ => { tuning := true, rank := Config.maxSlots }
  let t := { t.passes inp with held := some slot }
  match t.trigger e inp with
  | some (region, norm, sat) =>
    if t.replaying then
      let s := s.modBolt b fun r => { r with tune := some { t with
        discarded := t.discarded + 1, codes := some (nextCodes inp) } }
      let s := s.modServeOf b fun v => { v with gradDiscards := satAdd 32 v.gradDiscards 1 }
      (s.report (e.watchCore region) 0x0C
        (slot + (region <<< 9) + (boolNat norm <<< 17) + (boolNat sat <<< 18) + (2 <<< 19) + (1 <<< 21))).tuneNext b
    else
      (s.modBolt b fun r => { r with tune := some { t with replaying := true } }).modServeOf b fun v =>
        { v with gradReplays := satAdd 32 v.gradReplays 1 }
  | none => (s.tuneApply b e t inp).tuneNext b

/-- The operands of a step are those of its layers and parameters, and of the flagged positions of its batch. -/
def TuneRec.fits (t : TuneRec) (inp : TuneInput) : Bool :=
  decide (inp.layers.length = t.avgs.length) && decide (inp.grads.length = t.theta.length) &&
  decide (inp.logits.length = t.targets.length)

/-- A step runs in the stream slot that the job holds, or takes, in a SERVING bolt. -/
def execTuneStep (b : Nat) (inp : TuneInput) (s : State) : Out :=
  onBolt b s fun s =>
    match (s.bolt b).tune, (s.bolt b).current with
    | some t, some e =>
      match (if (s.bolt b).st = .serving ∧ t.fits inp = true then t.held.orElse fun _ => s.freeSlot b e else none) with
      | some slot => s.tuneStep b slot e t inp
      | none => s
    | _, _ => s

end Sys2Proof.Machine
end

