-- ==== Sys2Proof/Machine/Repair.lean ====
section
/-! DEFINITION. Pause, drain, repair and resume of a bolt, the pick watchdog, lost routers, patrol scrub, and what is done
about lost content of the wafer and of creel (R38, R57, R59, R125, R126, R135, R157, R168, R224, R248, R249, R253–R257,
R314, R322). -/

namespace Sys2Proof.Machine

open Sys2Proof

/-! ## Where a core is placed -/

def findAt (e : EpochRec) (c : Nat) : Option (Nat × Nat) :=
  e.place.zipIdx.findSome? fun g => (indexIn c g.1 0).map fun i => (g.2, i)

/-- The virtual core on a site: bolt, epoch, region and region-local index. -/
def State.placedAt (s : State) (c : Nat) : Option (Nat × EpochRec × Nat × Nat) :=
  (List.range Config.nBolts).findSome? fun b =>
    ((s.bolt b).holdersOfBlocks.filter fun e => e.placedDone).findSome? fun e => (findAt e c).map fun x => (b, e, x.1, x.2)

/-- The core lies in the bolt's rectangle. -/
def BoltRec.covers (b : BoltRec) (c : Nat) : Bool :=
  let x := coreX c / 8
  let y := coreY c / 8
  decide (b.st ≠ .none) && decide (b.sx0 ≤ x) && decide (x < b.sx0 + b.w) && decide (b.sy0 ≤ y) && decide (y < b.sy0 + b.h)

def State.boltAt (s : State) (c : Nat) : Option Nat := (List.range Config.nBolts).find? fun b => (s.bolt b).covers c

/-! ## Streams that lose content (R224) -/

/-- A stream whose pages or bobbin are lost: in a slot it runs prefill again; elsewhere all its pages are freed, so that it
does so when it resumes. -/
def State.loseStream (s : State) (i : Nat) : State :=
  let r := s.req i
  if r.slot ≠ noSlot then s.recompute i
  else if r.kvLen = 0 then s
  else ((s.freePages i).fitPool r.bolt).modServeOf r.bolt fun v => { v with recomputes := satAdd 16 v.recomputes 1 }

def State.loseStreams (s : State) (l : List Nat) : State := l.eraseDups.foldl (fun s i => s.loseStream i) s

/-- Requests of an epoch with a page of the region that satisfies `p`, or with a bobbin entry in a row that satisfies `q`
on the core of that index; the pages are marked absent. -/
def State.losePages (s : State) (b : Nat) (e : EpochRec) (region idx : Nat) (p : KvPage → Bool) (q : Nat → Bool) : State :=
  let hit := (s.regionPages b e.num region).filter fun x => x.2.2.onWafer && p x.2.2
  let bobbins := (s.boltReqs b).filter fun i =>
    let r := s.req i
    decide (r.epoch = e.num) && decide (r.slot ≠ noSlot) &&
    (List.range 1536).any fun row => q row && decide (Config.bobbinRow e.manifestHash region idx row = r.slot + 1)
  let s := hit.foldl (fun s x => s.modPage x.1 region x.2.1 fun p => { p with home := .absent, arrive := none }) s
  s.loseStreams (hit.map (fun x => x.1) ++ bobbins)

/-- The page's frame of some head lies on the lane of a region-local index. -/
def onLane (g : KvGeom) (idx : Nat) (p : KvPage) : Bool := decide (p.num % g.lanes = idx % g.lanes)

/-! ## Pause (R168, R253) -/

/-- Channels cleared: idle, with empty queues (R66, R168). -/
def CoreRec.clearChans (r : CoreRec) : CoreRec :=
  { r with chans := r.chans.map fun e => (e.1, { e.2 with state := .idle, queue := [], active := none, mismatch := false }) }

/-- The streams in a bolt's slots. -/
def State.slotHolders (s : State) (b : Nat) : List Nat := (s.boltReqs b).filter fun i => decide ((s.req i).slot ≠ noSlot)

/-- The bolt's cores halt, their channels are cleared, and they discard arriving writes (R168, steps 1 and 2). -/
def State.quiesce (s : State) (b : Nat) : State :=
  (s.bolt b).sites.foldl (fun s c => (s.coreHalt c).modCore c fun r => { r.clearChans with discard := true }) s

def isRepair : PauseWhy → Bool
  | .repair _ => true
  | .skein _ => true
  | .router => true
  | .restore => true
  | _ => false

/-- The pause of a bolt: every unit in flight is abandoned and each slot returns to its pick boundary (R253). -/
def State.pauseBolt (s : State) (b : Nat) (why : PauseWhy) : State :=
  let r := s.bolt b
  if r.st = .serving ∨ r.st = .paused then
    let s := s.quiesce b
    let s := (s.slotHolders b).foldl (fun s i => s.toBoundary i) s
    let s := s.modBolt b fun r => { r.dropSynthetic (fun _ => true) with
      pauses := if r.pauses.contains why then r.pauses else r.pauses ++ [why]
      pausedAt := if r.st = .paused then r.pausedAt else s.time
      drained := false
      repairs := r.repairs || isRepair why }
    s.setBoltSt b .paused
  else s

/-! ## Restoring content in place (R248) -/

/-- The runs of a core that touch a row. -/
def runsOnRow (m : List Byte) (shape region idx row : Nat) : List PlaceRun :=
  (imPlaces m shape).filter fun p => decide (p.region = region) && decide (p.index = idx) &&
    decide (rowOf p.dst ≤ row) && decide (row ≤ rowOf (p.dst + 32 * p.lines - 1))

/-- The beam row's units in error: 16 of data and one of scale field. -/
def rowUnit (row key : Nat) : Bool := (decide (16 * row ≤ key) && decide (key < 16 * row + 16)) || decide (key = 0x6000 + row)

/-- A row written whole, with valid check codes. -/
def Stores.zeroRow (st : Stores) (row : Nat) : Stores :=
  { (st.write 0 (256 * row) 256 0).write 0 (0x60000 + 16 * row) 16 0 with
    ecc := st.ecc.filter fun e => !(decide (e.1 < 2 ^ 20) && rowUnit row e.1) }

/-- The runs of a row rewritten from the mirror, over a row of zeros; a lost line faults the bolt (R249). -/
def State.restoreRuns (s : State) (b : Nat) (e : EpochRec) (c : Nat) (runs : List PlaceRun) (row : Nat) : State :=
  let s := runs.foldl (fun s p => s.mirrorCheck e p.shard p.src (32 * p.lines)) s
  let lines := runs.map fun p => (s.mirrorRead e p.shard p.src (32 * p.lines)).map fun bs => (p.dst, bs)
  if lines.all fun o => o.isSome then
    s.modCore c fun r => r.modStores fun st =>
      (lines.filterMap id).foldl (fun st x => st.write 0 x.1 x.2.length (leNat x.2)) (st.zeroRow row)
  else s.faultBolt b

/-- The parts of a beam store that hold placed or harness-managed content beside weight runs and KV frames: the data segment,
adapter frames, and the frame map and work lists of a lane core. -/
def managedSpans (m : List Byte) (e : EpochRec) (region idx : Nat) : List (Nat × Nat) :=
  let c := imCore m e.shape region idx
  let g := ((imSegs m 4).getD []).getD c.beam ⟨0, 0, 0⟩
  (if c.beam = noSeg then [] else [(g.at_, g.count)]) ++
  ((e.adapterGeom.filter fun a => decide (a.region = region)).map fun a => (a.frameBase, a.frames * a.frameStride)) ++
  (match laneGeom e region idx with
    | some g =>
      (if bits g.mapBase 19 3 = 0 then [(bits g.mapBase 0 19, 8 * g.mapLen)] else []) ++
      (if bits g.wlBase 19 3 = 0 then [(bits g.wlBase 0 19, Config.maxSlots * g.wlStride)] else [])
    | none => [])

/-- A row's data or scale bytes lie in one of some spans. -/
def rowMeets (row : Nat) (l : List (Nat × Nat)) : Bool :=
  l.any fun x => (decide (x.1 < 256 * row + 256) && decide (256 * row < x.1 + x.2)) ||
    (decide (x.1 < 0x60000 + 16 * row + 16) && decide (0x60000 + 16 * row < x.1 + x.2))

/-- An uncorrectable beam row: weights from the mirror; a KV frame or a bobbin is recomputed; a row outside any placed or
harness-managed content is zeroed; of other such content, for which R248 states no restoration, the row stays (log entry 83). -/
def State.restoreRow (s : State) (c row : Nat) : State :=
  let zero (s : State) : State := s.modCore c fun r => { r with stores := r.stores.zeroRow row }
  match s.placedAt c with
  | some (b, e, region, idx) => match s.imageOf e with
   | none => s.faultBolt b
   | some m =>
    let runs := runsOnRow m e.shape region idx row
    if runs ≠ [] then s.restoreRuns b e c runs row
    else if rowMeets row (managedSpans m e region idx) then s
    else
      let frame (p : KvPage) : Bool := match laneGeom e region idx with
        | some g =>
          let at_ := g.frameBase + p.frame * g.frameStride
          onLane g idx p && decide (at_ < 256 * row + 256) && decide (256 * row < at_ + g.frameStride)
        | none => false
      zero (s.losePages b e region idx frame fun x => decide (x = row))
  | none => zero s

/-- The code segment of a core rewritten from the image. -/
def State.restoreCode (s : State) (c : Nat) : State :=
  match s.placedAt c with
  | some (b, e, region, idx) =>
    match s.imageOf e with
    | some m =>
      let g := ((imSegs m 3).getD []).getD (imCore m e.shape region idx).code ⟨0, 0, 0⟩
      s.modCore c fun r => r.modStores fun st =>
        { st.write 3 0 (16 * g.count) (leNat ((m.drop g.start).take (16 * g.count))) with
          ecc := st.ecc.filter fun x => decide (x.1 / 2 ^ 20 ≠ 3) }
    | none => s.faultBolt b
  | none => s

/-- Everything uncorrectable in a core's beam and instruction stores. -/
def State.restoreCore (s : State) (c : Nat) : State :=
  let bad := (s.core c).stores.ecc.filter fun e => decide (e.2 = 2)
  let rows := ((bad.filter fun e => decide (e.1 < 2 ^ 20)).map fun e => rowOf (16 * e.1)).eraseDups
  let s := rows.foldl (fun s row => s.restoreRow c row) s
  if bad.any fun e => decide (e.1 / 2 ^ 20 = 3) then s.restoreCode c else s

/-! ## Moves (R135, R254, R255) -/

/-- Sites that virtual cores of a bolt occupy. -/
def BoltRec.taken (b : BoltRec) : List Nat := ((b.current.toList ++ b.other.toList).flatMap fun e => e.place.flatten)

/-- Free good sites of a field's spare skein, where it lies in the bolt. -/
def State.spareSites (s : State) (b k : Nat) : List Nat :=
  match s.boot.spareSkein.find? fun e => decide (e.1 = fieldOfSkein k) with
  | some (_, sp) =>
    if (s.bolt b).skeins.contains sp && !s.skeinLost sp then
      (skeinCores sp).filter fun c => s.siteUsable c && !(s.bolt b).taken.contains c
    else []
  | none => []

/-- The site that a dead core's virtual core takes: its skein's spare, else one in the field's spare skein (R135). -/
def State.moveTarget (s : State) (b c : Nat) : Option Nat :=
  let k := skeinOf c
  match (s.spareOf k).filter fun x => !(s.bolt b).taken.contains x && decide (c < x) with
  | some x => some x
  | none => (s.spareSites b k).head?

/-- Words of placed cores that are relocated to a moved virtual core are rewritten (R135, R138). -/
def State.retarget (s : State) (b : Nat) (e : EpochRec) (m : List Byte) (pos region idx : Nat) : State :=
  (((imRelocs m e.shape).map relocOf).filter fun c => decide (c.kind = 1) && decide (c.engine = pos) &&
    decide (c.tgtRegion = region) && decide (c.tgtIndex = idx)).foldl (fun s c =>
      let at_ := (e.place.getD c.atRegion []).getD c.atIndex 0
      s.modCore at_ fun r => r.modStores fun st =>
        st.write c.ss c.off 8 (s.relocWord b e m c (st.read c.ss c.off 8))) s

/-- The harness-managed windows of a lane core on its new site: frame-map entries and work lists (R254). -/
def State.refillWindows (s : State) (b : Nat) (e : EpochRec) (region : Nat) : State :=
  match e.kv? region with
  | some g =>
    let s := (s.regionPages b e.num region).foldl (fun s x => s.syncPage e g x.2.2) s
    (s.slotHolders b).foldl (fun s i =>
      let r := s.req i
      if r.epoch = e.num then s.syncWork e g r.slot (Tab.get {} (s.reqKv r) region).pages else s) s
  | none => s

/-- The other positions of a chain hear of a virtual core's new site. -/
def State.tellMove (s : State) (e : EpochRec) (region idx to_ : Nat) : State :=
  s.sayAll e msgMoved (leBytes 1 e.position ++ leBytes 1 region ++ leBytes 4 idx ++ leBytes 4 to_)

/-- One virtual core of an epoch moves to a site; false where the mirror has lost what it needs. Of an epoch that is not placed
yet, the site alone changes. -/
def State.moveVirt (s : State) (b : Nat) (e : EpochRec) (region idx to_ : Nat) : State × Bool :=
  let old := (e.place.getD region []).getD idx 0
  let e := { e with
    place := e.place.set region ((e.place.getD region []).set idx to_)
    watch := e.watch.map fun w => if w.1 = old then (to_, w.2) else w }
  if e.placedDone = false then (s.modBolt b fun r => r.modEpoch e.num fun _ => e, true)
  else match s.imageOf e with
  | some m =>
    let s := ((imPlaces m e.shape).filter fun p => decide (p.region = region) && decide (p.index = idx)).foldl (fun s p =>
      s.mirrorCheck e p.shard p.src (32 * p.lines)) s
    match (s.modBolt b fun r => r.modEpoch e.num fun _ => e).placeCore b e m false region idx with
    | some s =>
      let s := (s.retarget b e m e.position region idx).tellMove e region idx to_
      let x := (imShape m e.shape).getD region (0, 0, 0)
      let s := if skeinOf to_ = skeinOf old then s else s.setBudget (skeinOf to_) x.2.1 x.2.2
      let s := match laneGeom e region idx with
        | some g => s.losePages b e region idx (onLane g idx) fun _ => true
        | none => s
      (((s.refillWindows b e region).reCode [skeinOf to_, skeinOf old] s.occupied).ctCores b [to_] (List.range 4), true)
    | none => (s, false)
  | none => (s, false)

/-- The virtual core on a site of a bolt's epochs. -/
def State.virtOn (s : State) (b c : Nat) : Option (EpochRec × Nat × Nat) :=
  ((s.bolt b).current.toList ++ (s.bolt b).other.toList).findSome? fun e => (findAt e c).map fun x => (e, x.1, x.2)

def State.countMoves (s : State) (b cores skeins : Nat) : State :=
  (s.modBolt b fun r => { r with
    coresMoved := satAdd 16 r.coresMoved cores, skeinsMoved := satAdd 8 r.skeinsMoved skeins }).modTotals fun t =>
    { t with coresMoved := satAdd 32 t.coresMoved cores, skeinsMoved := satAdd 32 t.skeinsMoved skeins }

/-- R254: the dead core's virtual core moves, or the bolt goes FAULTED. -/
def State.repairCore (s : State) (b c : Nat) : State :=
  match s.virtOn b c with
  | some (e, region, idx) =>
    match s.moveTarget b c with
    | some to_ =>
      let q := s.moveVirt b e region idx to_
      if q.2 then q.1.countMoves b 1 0 else q.1.faultBolt b
    | none => s.faultBolt b
  | none => s

/-- R255: every virtual core of a skein moves at once to the field's spare skein. -/
def State.repairSkein (s : State) (b k : Nat) : State :=
  let cores := (skeinCores k).filter fun c => (s.virtOn b c).isSome
  let sites := s.spareSites b k
  if cores = [] then s
  else if sites.length < cores.length then s.faultBolt b
  else
    let q := (cores.zip sites).foldl (fun (q : State × Bool) x =>
      match q.2, q.1.virtOn b x.1 with
      | true, some (e, region, idx) => q.1.moveVirt b e region idx x.2
      | _, _ => q) (s, true)
    if q.2 then q.1.countMoves b 0 1 else q.1.faultBolt b

/-- What a drained pause does before it can end. -/
def State.doPause (s : State) (b : Nat) : PauseWhy → State
  | .repair c => s.repairCore b c
  | .skein k => s.repairSkein b k
  | _ => s

/-- What befalls a bolt's cores: a LOADING bolt, none of whose cores runs, is repaired at once; any other pauses for it. -/
def State.upset (s : State) (b : Nat) (why : PauseWhy) : State :=
  if (s.bolt b).st = .loading then s.doPause b why else s.pauseBolt b why

/-! ## DRAIN_COMPLETE, BOLT_RESUME (R168, R250, R253, R254) -/

/-- A flit in the bolt's routers to or from its cores. -/
def State.boltFlit (s : State) (b : BoltRec) (n : NetFlit) : Bool :=
  let at_ := match n.loc, n.loc.atRouter with
    | _, some (x, y) => b.covers (coreNum x y)
    | .core x y, none => b.covers (coreNum x y)
    | _, none => false
  at_ && ((decide (n.flit.srcEngine = s.engineNo) && decide (n.flit.srcY < 576) && b.covers (coreNum n.flit.srcX n.flit.srcY)) ||
    (decide (gaEngine n.flit.dst = s.engineNo) && decide (gaY n.flit.dst < 576) && b.covers (coreNum (gaX n.flit.dst) (gaY n.flit.dst))))

/-- Every grant record and credit counter of the bolt is cleared (R168, step 4). -/
def State.clearCredits (s : State) (b : Nat) : State :=
  (s.bolt b).sites.foldl (fun s c => s.modCore c fun r => { r with grants := [], exhausted := [], credits := [], rx := [] }) s

/-- Placed cores of the epochs that run. -/
def BoltRec.runningCores (b : BoltRec) : List Nat :=
  (b.current.toList ++ b.other.toList.filter fun e => e.st = .draining).flatMap fun e => e.place.flatten

/-- The rows that the scrub of a kill keeps: weight rows of placed epochs loaded with resident = 1, where SCRUB_WEIGHTS is
0 (R250). -/
def State.killKeeps (s : State) (b : Nat) (weights : Bool) : Tab (List Nat) :=
  if weights then []
  else ((s.bolt b).mirrors.filter fun e => e.resident && e.placedDone).foldl (fun t e => match s.imageOf e with
    | some m => e.place.zipIdx.foldl (fun t g => g.1.zipIdx.foldl (fun t c =>
        Tab.insert t c.1 (weightRows m e.shape g.2 c.2)) t) t
    | none => t) []

/-- The skeins of a bolt whose logic is off ask to be turned on (R228, R349). -/
def State.wakeSkeins (s : State) (b : Nat) : State :=
  s.requestTurnOns (s.bolt b).skeins

/-- Sites of a bolt scrubbed as its kill asks for, or before a load (R250, step 3; R234). -/
def State.scrubSites (s : State) (b : Nat) (l : List Nat) : State :=
  let weights := ((s.bolt b).ops.findSome? fun o => match o with
    | .scrub _ w _ => some w
    | _ => none).getD true
  let keep := s.killKeeps b weights
  l.foldl (fun s c => s.scrubCore c (Tab.get [] keep c)) s

/-- The scrub of a bolt; skeins whose logic is off are turned on for it. -/
def State.scrubBolt (s : State) (b : Nat) : State := (s.scrubSites b (s.bolt b).sites).wakeSkeins b

/-- The timers of a bolt's slots restart as if each had made progress now (R125). -/
def BoltRec.restartTimers (b : BoltRec) (now : Nat) : BoltRec :=
  { b with slots := b.slots.map fun k => (k.1, { k.2 with progress := now }) }

/-- The bolt resumes: its cores go, and the abandoned units replay from each slot's pick boundary (R253). -/
def execBoltResume (b : Nat) (s : State) : Out :=
  onBolt b s fun s =>
    let r := s.bolt b
    whenS (decide (r.st = .paused) && r.drained && r.pauses.isEmpty) s fun s =>
      let s := r.sites.foldl (fun s c => s.modCore c fun k => { k with discard := false }) s
      let s := r.runningCores.foldl (fun s c => s.coreGo c) s
      let s := (s.slotHolders b).foldl (fun s i => s.queueUnits i) s
      let s := s.modBolt b fun r => { r.restartTimers s.time with
        drained := false
        repairs := false
        lastStallUs := if r.repairs then min ((s.time - r.pausedAt) / 1000) 65535 else r.lastStallUs }
      s.setBoltSt b .serving

/-! ## WATCHDOG_CHECK (R125, R126) -/

/-- Where a slot's oldest unit is: the region, and the place code of R126. -/
def BoltRec.oldestUnit (b : BoltRec) (slot : Nat) : Nat × Nat :=
  let k := b.slotRec slot
  if k.tail ≠ [] ∨ k.drawn.isSome then (0, 2)
  else
    let stages (e : EpochRec) : List Nat := e.stages.reverse
    let has (e : EpochRec) (r : Nat) : Bool :=
      let g := b.region (rkey e r)
      [g.unit, g.inbox].any fun u => match u with
        | some u => decide (u.slot = slot)
        | none => false
    match (b.current.toList ++ b.other.toList).findSome? fun e => (stages e).find? (has e) with
    | some r => (r, 0)
    | none => (0, 1)

/-- A stream that R125 times. -/
def State.timed (s : State) (b slot : Nat) : Bool :=
  match ((s.bolt b).slotRec slot).req with
  | some i => decide ((s.req i).st = rqPrefill) || decide ((s.req i).st = rqDecode)
  | none => false

/-- A slot times out with its oldest unit at `u`: reported; the bolt replays, or goes FAULTED the second time before its next
token. -/
def State.slotTimeout (s : State) (b slot : Nat) (u : Nat × Nat) : State :=
  let r := s.bolt b
  let s := s.report (srcBolt b) 0x07 (slot + (b <<< 9) + (u.1 <<< 12) + (u.2 <<< 20))
  if (r.slotRec slot).timedOut then s.faultBolt b
  else
    let s := s.modBolt b fun r => r.modSlot slot fun k => { k with timedOut := true }
    (s.pauseBolt b .watchdog).modTotals fun t => { t with watchdogReplays := satAdd 32 t.watchdogReplays 1 }

/-- A core that a freezing read has stopped (R59, R248). -/
def State.frozenRead (s : State) (c : Nat) : Bool := decide ((s.core c).st = .frozen) && decide ((s.core c).freezeCause = 1)

/-- The check of one bolt. A freezing read found on a running core pauses the bolt for the restore (log entry 35). -/
def State.watchdogBolt (s : State) (b : Nat) : State :=
  let r := s.bolt b
  if r.st ≠ .serving then s
  else
    let late := if r.timersSuspended then [] else
      (r.slots.filter fun k => s.timed b k.1 && decide (k.2.progress + 1000000 * r.pickTimeout ≤ s.time)).map fun k => k.1
    let s := (late.map fun k => (k, r.oldestUnit k)).foldl (fun s k => s.slotTimeout b k.1 k.2) s
    if r.runningCores.any s.frozenRead then s.pauseBolt b .restore else s

/-! ## Lost routers (R157) -/

/-- A block of lost routers: its corner, width and height in sites. -/
structure LostBox where
  x : Nat
  y : Nat
  w : Nat
  h : Nat

def LostBox.has (o : LostBox) (x y : Nat) : Bool :=
  decide (o.x ≤ x) && decide (x < o.x + o.w) && decide (o.y ≤ y) && decide (y < o.y + o.h)

def LostBox.ofCore (c : Nat) : LostBox := ⟨coreX c, coreY c, 1, 1⟩
def LostBox.ofSkein (k : Nat) : LostBox := ⟨8 * skeinX k, 8 * skeinY k, 8, 8⟩
def LostBox.ofField (f : Nat) : LostBox := ⟨64 * (f % 8), 96 * (f / 8), 64, 96⟩

/-- A bolt's rectangle in sites, or the whole array for a router of no bolt. -/
def State.rectAt (s : State) (c : Nat) : LostBox :=
  match s.boltAt c with
  | some b => let r := s.bolt b; ⟨8 * r.sx0, 8 * r.sy0, 8 * r.w, 8 * r.h⟩
  | none => ⟨0, 0, Config.columns, Config.rows⟩

/-- The waypoint for a port whose neighbour is lost, with both legs inside a rectangle: along the blocked direction the
flit first leaves its row, or its column, and passes the lost block beside it (log entry 36). -/
def wayRound (o rect : LostBox) (x y p : Nat) : Option (Nat × Nat) :=
  let rowsBeside := (if o.y = 0 then [] else [o.y - 1]) ++ [o.y + o.h]
  let colsBeside := (if o.x = 0 then [] else [o.x - 1]) ++ [o.x + o.w]
  let cands := if p % 4 = 2 ∨ p % 4 = 0 then rowsBeside.map fun v => (x, v)
    else colsBeside.map fun v => (v, if p % 4 = 3 then o.y + o.h else o.y - 1)
  cands.find? fun c => rect.has c.1 c.2 && decide (c.1 < Config.columns) && decide (c.2 < Config.rows) && !(decide (c = (x, y)))

/-- Cores of the rectangle lie beyond the lost block in the port's direction. -/
def beyond (o rect : LostBox) (p : Nat) : Bool :=
  if p % 4 = 1 then decide (rect.y < o.y)
  else if p % 4 = 2 then decide (o.x + o.w < rect.x + rect.w)
  else if p % 4 = 3 then decide (o.y + o.h < rect.y + rect.h)
  else decide (rect.x < o.x)

/-- The routers beside a lost block that have a port into it: core and port. -/
def State.besides (s : State) (o : LostBox) : List (Nat × Nat) :=
  let xs := (List.range (o.w + 16)).filterMap fun i => if o.x + i < 8 then none else some (o.x + i - 8)
  let ys := (List.range (o.h + 16)).filterMap fun i => if o.y + i < 8 then none else some (o.y + i - 8)
  (ys.flatMap fun y => xs.map fun x => (x, y)).flatMap fun q =>
    if q.1 < Config.columns ∧ q.2 < Config.rows ∧ o.has q.1 q.2 = false ∧ (s.router (coreNum q.1 q.2)).lost = false then
      ([1, 2, 3, 4, 5, 6, 7, 8].filter fun p => hasPort q.1 q.2 p && (match leave q.1 q.2 p with
        | .at_ (.router x y _) => o.has x y
        | _ => false)).map fun p => (coreNum q.1 q.2, p)
    else []

/-- Block and waypoint of one port. -/
def State.detour (s : State) (o : LostBox) (c p : Nat) : State :=
  let s := s.rtSet c 1 ((s.router c).val 1 ||| 2 ^ (p - 1))
  match wayRound o (s.rectAt c) (coreX c) (coreY c) p with
  | some w => s.rtSet c (p + 1) (w.1 + (w.2 <<< 9) + 2 ^ 19)
  | none => s

/-- A block of routers is lost: its flits are gone, its neighbours get blocks and waypoints, and every bolt replays; a bolt
with no way round goes FAULTED. -/
def State.loseRouters (s : State) (o : LostBox) : State :=
  let at_ (n : NetFlit) : Bool := match n.loc, n.loc.atRouter with
    | _, some (x, y) => o.has x y
    | .core x y, none => o.has x y
    | _, none => false
  let s := { s with net := s.net.filter fun n => !at_ n }
  let s := (List.range o.h).foldl (fun s j => (List.range o.w).foldl (fun s i =>
    s.modRouter (coreNum (o.x + i) (o.y + j)) fun r => { r with lost := true }) s) s
  let ports := s.besides o
  let stuck := (List.range Config.nBolts).filter fun b => ports.any fun q =>
    decide (s.boltAt q.1 = some b) && beyond o (s.rectAt q.1) q.2 &&
      (wayRound o (s.rectAt q.1) (coreX q.1) (coreY q.1) q.2).isNone
  let s := ports.foldl (fun s q => s.detour o q.1 q.2) s
  (List.range Config.nBolts).foldl (fun s b => if stuck.contains b then s.faultBolt b else s.pauseBolt b .router) s

/-! ## Core death (R38, R254) -/

/-- The harness's probe of a router: a CTRL read from harness core 0. -/
def State.probe (s : State) (c : Nat) : State :=
  let f := { blankFlit .ctrl 0 (gaMake s.engineNo (coreY c) (coreX c) 8) with
    srcY := 960, srcX := 0, srcEngine := s.engineNo, ext := true, arg := 1 }
  ({ s with probes := Tab.put 0 s.probes c (s.time + 1) } : State).fromSelvedge 0 f

/-- A core is dead: declared, reported by its skein monitor, probed; its port is blocked and its bolt pauses. -/
def State.coreDied (s : State) (c : Nat) : State :=
  let s := s.modCore c fun r => { r.discardFlight with st := .dead, wait := none }
  let s := (s.report (srcSkein (skeinOf c)) 0x08 0).probe c
  let s := s.rtSet c 1 ((s.router c).val 1 ||| 2 ^ 8)
  match s.boltAt c with
  | some b => s.upset b (.repair c)
  | none => s

/-- A heartbeat window closes: after four without a heartbeat the monitor declares the core dead. -/
def execHeartbeatWindowExpiry (c : Nat) (s : State) : Out :=
  onCore c s fun s =>
    let r := s.core c
    whenS (beating r.st && s.clocked (skeinOf c)) s fun s =>
      if r.beatSeen then s.setCore c { r with beatSeen := false, missed := 0 }
      else if r.missed + 1 < 4 then s.setCore c { r with missed := r.missed + 1 }
      else (s.setCore c { r with missed := r.missed + 1 }).coreDied c

/-- No response to a probe within 1 µs: the router is lost. -/
def execProbeTimeout (c : Nat) (s : State) : Out :=
  onCore c s fun s =>
    let t := Tab.get 0 s.probes c
    whenS (decide (t ≠ 0) && decide (t - 1 + 1000 ≤ s.time)) s fun s =>
      ({ s with probes := Tab.erase s.probes c } : State).loseRouters (LostBox.ofCore c)

/-! ## Patrol scrub (R57, R59) -/

/-- A patrol read of a beam row: single-bit errors are corrected and to be written back; a row with a worse error is
recorded, reported, and restored by the harness (R248). -/
def execPatrolScrubRead (c row : Nat) (s : State) : Out :=
  onUnit (decide (c < Config.nCores) && decide (row < 1536)) s fun s =>
    whenS (beating (s.core c).st && decide ((s.core c).st ≠ .scrubbing) && s.clocked (skeinOf c)) s fun s =>
      let hits := (s.core c).stores.ecc.filter fun e => decide (e.1 < 2 ^ 20) && rowUnit row e.1
      let s := s.onCx c fun x =>
        let x := (x.eccCheck 0 (256 * row) 256).1
        let x := (x.eccCheck 0 (0x60000 + 16 * row) 16).1
        (x.mod fun r => { r with
          patrolRow := (row + 1) % 1536
          stores := if hits.any fun e => decide (e.2 = 1) then
            { r.stores with writeBack := insertSorted row r.stores.writeBack } else r.stores }).perfEvent 0x15
      if hits.any fun e => decide (e.2 = 2) then s.restoreRow c row else s

/-- The corrected row is written back in a free cycle. -/
def execScrubWriteBack (c row : Nat) (s : State) : Out :=
  onUnit (decide (c < Config.nCores) && decide (row < 1536)) s fun s => s.modCore c fun r =>
    if row ∈ r.stores.writeBack then
      { r with stores := { r.stores with
        writeBack := r.stores.writeBack.filter fun x => x ≠ row
        ecc := r.stores.ecc.filter fun e => !(decide (e.1 < 2 ^ 20) && rowUnit row e.1 && decide (e.2 = 1)) } }
    else r

/-! ## Lost creel content (R249, Table 12.3, R322) -/

/-- The wafer copy of 32 bytes of a shard: the core and beam offset of a placed run that is not marked bad. -/
def State.waferCopy (s : State) (e : EpochRec) (m : List Byte) (shard o : Nat) : Option (List Byte) :=
  if e.placedDone then
    (imPlaces m e.shape).findSome? fun p =>
      let c := (e.place.getD p.region []).getD p.index 0
      let at_ := p.dst + (o - p.src)
      if p.shard = shard ∧ p.src ≤ o ∧ o + 32 ≤ p.src + 32 * p.lines ∧
          ((s.core c).stores.errs 0 at_ 32).all (fun x => decide (x.2 ≠ 2)) = true then
        some (leBytes 32 ((s.core c).stores.read 0 at_ 32))
      else none
  else none

/-- A shard of an epoch, of whichever record of the bolt lists it, marked damaged, with the bytes that are lost. -/
def BoltRec.damage (b : BoltRec) (num shard : Nat) (lost : List (Nat × Nat)) : BoltRec :=
  let f (e : EpochRec) : EpochRec :=
    let k := e.shard shard
    if e.num = num then { e with shards := e.shards.set shard { k with
      st := .damaged, lost := k.lost ++ lost.filter fun x => !k.lost.contains x } } else e
  { b with current := b.current.map f, other := b.other.map f, mirrors := b.mirrors.map f }

/-- Bytes `[o, o+n)` of a shard are lost: what a beam run holds is rewritten from it; what no run holds stays lost, and the
shard is damaged (R249). -/
def State.loseMirror (s : State) (b : Nat) (e : EpochRec) (shard o n : Nat) : State :=
  let k := e.shard shard
  let parts := (List.range ((min n (k.length - o) + 31) / 32)).map fun i =>
    (o + 32 * i, if k.kind = 2 then (s.imageOf e).bind fun m => s.waferCopy e m shard (o + 32 * i) else none)
  let s := parts.foldl (fun s x => match x.2 with
    | some bs => s.mirrorWrite e shard x.1 (bs.take (k.length - x.1))
    | none => s) s
  let gone := (parts.filter fun x => x.2.isNone).map fun x => (x.1, 32)
  if gone = [] then s else s.modBolt b fun r => r.damage e.num shard gone

/-- The shard lines of an epoch that lie in a line of a port: shard and byte offset. -/
def EpochRec.shardAt (e : EpochRec) (p line : Nat) : Option (Nat × Nat) :=
  (List.range e.shards.length).findSome? fun i =>
    let k := e.shard i
    if (k.st = .verified ∨ k.st = .damaged) ∧ k.port = p ∧ k.kept e.position = true then
      ((List.range ((k.length + 63) / 64)).find? fun n => decide (blockAddr (e.blocksOf k) (k.off + 64 * n) / 64 = line)).map
        fun n => (i, 64 * n)
    else none

/-- Lost content of a pooled use (Table 12.3). -/
def State.loseUse (s : State) (b : Nat) : PoolUse → State
  | .log i => s.useReq i fun s => s.endReq i rqFaulted ssFaulted
  | .save i => s.useReq i fun s => s.loseStream i
  | .page i region j =>
    let p := ((Tab.get {} (s.reqKv (s.req i)) region).pages.getD j ⟨.absent, 0, 0, [], 0, false, none, 0⟩)
    if p.home = .both then s.modPage i region j fun q => { q with home := .frame }
    else if p.home = .creel then (s.modPage i region j fun q => { q with home := .absent }).loseStream i
    else s
  | .adapter k => s.modAdapter k fun a => { a with damaged := true }
  | .tune => match (s.bolt b).tune with
    | some t => ((((s.freeTuneSlot b).modBolt b fun r => { r with tune := none }).finishOf t.fin ssFaulted
        (natBytes 4 t.applied ++ natBytes 4 t.discarded))).fitPool b
    | none => s

/-- The extent of an epoch that holds a block: its index. -/
def EpochRec.extentAt (e : EpochRec) (p block : Nat) : Option Nat :=
  (List.range e.extents.length).find? fun i =>
    let x := e.extents.getD i (0, 0, 0)
    decide (x.1 = p) && decide (x.2.1 ≤ block) && decide (block < x.2.1 + x.2.2)

/-- An uncorrectable line of a block that a bolt owns (Table 12.3). -/
def State.loseLine (s : State) (b p line : Nat) : State :=
  let block := line / 65536
  let r := s.bolt b
  match r.holdersOfBlocks.findSome? fun e => (e.shardAt p line).map fun x => (e, x) with
  | some (e, i, o) => s.loseMirror b e i o 64
  | none =>
    match r.holdersOfBlocks.find? fun e => (e.extentAt p block).isSome with
    | some e => match s.fillExtents e with
      | some s => (s.modPort p fun k => { k with ecc := Tab.erase k.ecc line }).pauseBolt b .restore
      | none => s.faultBolt b
    | none =>
      match s.useOfLine b p line with
      | some u => s.loseUse b u
      | none => s

/-- The lines of a port that foreground reads found lost: what each held is acted on (Table 12.3; log entry 84). -/
def State.actOnLost (s : State) (p : Nat) : State :=
  let r := s.port p
  if r.lost = [] then s
  else r.lost.foldl (fun s line => match (s.port p).owner (line / 65536) with
    | .bolt b => if 2 ≤ Tab.get 0 (s.port p).ecc line then s.loseLine b p line else s
    | _ => s) (s.setPort p { r with lost := [] })

/-- The harness's periodic check: lost creel lines, then every bolt's timers (R125). -/
def execWatchdogCheck (s : State) : Out :=
  let s := (List.range Config.nPorts).foldl (fun s p => s.actOnLost p) s
  .next ((List.range Config.nBolts).foldl (fun s b => s.watchdogBolt b) s)

/-- A patrol read of an allocated block: every line of it is checked, and a lost line of a bolt's block is acted on. -/
def execCreelPatrol (p block : Nat) (s : State) : Out :=
  onUnit (decide (p < Config.nPorts) && decide (block < Config.creelBlocks)) s fun s =>
    let r := s.port p
    let allocated := match r.owner block with
      | .system => true
      | .bolt _ => true
      | _ => false
    whenS (allocated && decide (r.state = 1)) s fun s =>
      (r.ecc.filter fun e => decide (e.1 / 65536 = block)).foldl (fun s e =>
        let q := s.creelCheck p e.1
        if q.2 then q.1
        else match r.owner block with
          | .bolt b => q.1.loseLine b p e.1
          | _ => q.1) s

/-- Every mirror of a bolt, and one that stands with retained rows alone, is read in full (R249). -/
def execMirrorPatrol (b : Nat) (s : State) : Out :=
  onUnit (decide (b < Config.nBolts) || (s.bolt b).retained) s fun s =>
    (List.range Config.nPorts).foldl (fun s p =>
      if (s.port p).state ≠ 1 then s
      else (s.port p).ecc.foldl (fun s e =>
        if ((s.bolt b).holdersOfBlocks.any fun x => (x.shardAt p e.1).isSome) = true then
          let q := s.creelCheck p e.1
          if q.2 then q.1 else q.1.loseLine b p e.1
        else s) s) s

/-! ## A port that fails in use (R322) -/

/-- The first port from a shard's own on whose blocks, within the bolt's quota, hold `n` more. -/
def State.portWithRoom (s : State) (b i n : Nat) : Option (Nat × State × List (Nat × Nat)) :=
  (List.range Config.nPorts).findSome? fun j =>
    let p := (i + j) % Config.nPorts
    if (s.port p).state = 1 then (State.allocMany b p n s).map fun q => (p, q) else none

/-- The shards of an epoch on a retired port go to other ports, and are reloaded from the wafer where every byte of them
stands there; a shard without a place or a copy is damaged. -/
def State.moveShard (s : State) (b num p i : Nat) : State :=
  match (s.bolt b).holdersOfBlocks.find? fun e => decide (e.num = num) with
  | some e =>
    let k := e.shard i
    if k.port ≠ p ∨ (k.st ≠ .verified ∧ k.st ≠ .damaged) ∨ k.kept e.position = false then s
    else
      match s.portWithRoom b i (blocksFor k.length) with
      | some (to_, s, blocks) =>
        let have_ := (e.blocksOf { k with port := to_, fwd := false }).length
        let f (x : EpochRec) : EpochRec := if x.num = num then
            { x with mirror := x.mirror ++ blocks
                     shards := x.shards.set i { k with port := to_, off := have_ * Config.creelBlockBytes, fwd := false } } else x
        let s := s.modBolt b fun r => { r with current := r.current.map f, other := r.other.map f, mirrors := r.mirrors.map f }
        s.loseMirror b (f e) i 0 k.length
      | none => s.modBolt b fun r => r.damage num i [(0, k.length)]
  | none => s

/-- A creel-fed extent of a retired port gets blocks elsewhere, filled from the mirror; its addresses are rewritten. -/
def State.moveExtents (s : State) (b p : Nat) (e : EpochRec) : State :=
  if e.extents.any fun x => decide (x.1 = p) then
    let q := e.extents.zipIdx.foldl (fun (o : Option (State × List (Nat × Nat × Nat))) x => o.bind fun q =>
      if x.1.1 ≠ p then some (q.1, q.2 ++ [x.1])
      else (q.1.allocRun b (q.1.homePort x.2) x.1.2.2).map fun r => (r.1, q.2 ++ [(q.1.homePort x.2, r.2, x.1.2.2)])) (some (s, []))
    let done := q.bind fun q =>
      let e' := { e with extents := q.2 }
      (q.1.fillExtents e').bind fun s => (s.imageOf e').map fun m =>
        let s := s.modBolt b fun r => r.modEpoch e.num fun _ => e'
        ((imRelocs m e.shape).map relocOf).foldl (fun s c =>
          if c.kind = 2 ∧ c.number / 65536 = 5 then
            let at_ := (e.place.getD c.atRegion []).getD c.atIndex 0
            s.modCore at_ fun r => r.modStores fun st =>
              st.write c.ss c.off 8 (s.relocWord b e' m c (st.read c.ss c.off 8))
          else s) s
    match done with
    | some s => s.pauseBolt b .restore
    | none => s.faultBolt b
  else s

/-- A bolt loses what it held on a port. -/
def State.losePort (s : State) (b p : Nat) (uses : List (PoolUse × Nat)) : State :=
  let s := uses.foldl (fun s u => s.loseUse b u.1) s
  let s := s.modBolt b fun r => { r with pool := r.pool.filter fun x => x.1 ≠ p }
  let s := (s.bolt b).holdersOfBlocks.foldl (fun s e =>
    (List.range e.shards.length).foldl (fun s i => s.moveShard b e.num p i) s) s
  let s := ((s.bolt b).current.toList ++ (s.bolt b).other.toList).foldl (fun s e => s.moveExtents b p e) s
  s.fitPool b

/-- More than 64 uncorrectable errors within one hour: the port is retired until RESET_N. -/
def execCreelPortRetire (p : Nat) (s : State) : Out :=
  onPort p s fun s =>
    let r := s.port p
    let recent := r.uncorrTimes.filter fun t => decide (s.time ≤ t + 3600000000000)
    whenS (decide (r.state = 1) && decide (64 < recent.length)) s fun s =>
      let uses := (List.range Config.nBolts).map fun b => (b, if r.boltBlocks b = [] then [] else s.usesOn b p)
      let s := s.setPort p { r with state := 3 }
      (uses.foldl (fun s u => if r.boltBlocks u.1 = [] then s else s.losePort u.1 p u.2) s).noteConds

end Sys2Proof.Machine
end

