-- ==== Sys2Proof/Machine/Bolts.lean ====
section
/-! DEFINITION. Creating, scrubbing and destroying a bolt, and the drain that a pause or a kill waits for (R161, R168,
R227–R229, R250–R252, R320). -/

namespace Sys2Proof.Machine

open Sys2Proof

/-! ## BOLT_CREATE (R227, R228) -/

def isCreate : BoltOp → Bool
  | .create _ => true
  | _ => false

/-- The bolt number is in use: created, or being created. -/
def BoltRec.inUse (b : BoltRec) : Bool := decide (b.st ≠ .none) || b.ops.any isCreate

def rectsMeet (a b : BoltRec) : Bool :=
  decide (a.sx0 < b.sx0 + b.w) && decide (b.sx0 < a.sx0 + a.w) && decide (a.sy0 < b.sy0 + b.h) && decide (b.sy0 < a.sy0 + a.h)

def sameRect (a b : BoltRec) : Bool :=
  decide (a.sx0 = b.sx0) && decide (a.sy0 = b.sy0) && decide (a.w = b.w) && decide (a.h = b.h)

/-- Blocks reserved on every port for a quota (R320). -/
def quotaBlocks (gb : Nat) : Nat := ceilDiv (gb * 1000000000) (32 * Config.creelBlockBytes)

/-- The bolt that a BOLT_CREATE describes (Table 10.7). -/
def boltOf (d : BitVec 1024) (f : FinOf) : BoltRec where
  sx0 := dfield d 16 1
  sy0 := dfield d 17 1
  w := dfield d 18 1
  h := dfield d 19 1
  funcMask := BitVec.ofNat 32 (dfield d 20 4)
  homeSide := funcPort (((List.range Config.nFunctions).find? fun i => bitAt (dfield d 20 4) i).getD 0)
  spanSide := bits (dfield d 30 1) 0 2
  spanAccept := bitAt (dfield d 30 1) 2
  share := dfield d 24 4
  quotaGb := dfield d 28 2
  resvPerPort := quotaBlocks (dfield d 28 2)
  nextEpoch := 1
  ops := [.create f]

/-- Every field in its range (Table 9.1). -/
def createFieldsOk (d : BitVec 1024) : Bool :=
  let r := boltOf d {}
  dZeroBut d [(0, 31)] && decide (dHandle d = 0) && decide (dfield d 30 1 < 8) && decide (1 ≤ r.w) && decide (r.sx0 + r.w ≤ 64) &&
  decide (1 ≤ r.h) && decide (r.sy0 + r.h ≤ 72) && decide (r.funcMask ≠ 0)

def State.otherBolts (s : State) (b : Nat) : List BoltRec :=
  ((List.range Config.nBolts).filter fun x => decide (x ≠ b) && (s.bolt x).inUse).map s.bolt

/-- The configuration that counts: bench after a mismatch (R361). -/
def State.configCode (s : State) : Nat := if s.thermal.configBad || decide (s.thermal.configInv ≠ 3 - s.thermal.config) then 3 else s.thermal.config

/-- Blocks of a port that no bolt has reserved and no retained mirror holds. -/
def State.unreserved (s : State) (b p : Nat) (r : BoltRec) : Nat :=
  let kept := s.bolts.foldl (fun a x =>
    if x.2.inUse ∨ x.1 = b ∨ (x.2.retained && sameRect x.2 r) = true then a else a + ((s.port p).boltBlocks x.1).length) 0
  Config.creelBlocks - Config.systemBlocks - (s.otherBolts b).foldl (fun a k => a + k.resvPerPort) 0 - kept

/-- What R228 refuses. -/
def State.createOk (s : State) (b : Nat) (d : BitVec 1024) : Bool :=
  let r := boltOf d {}
  let others := s.otherBolts b
  createFieldsOk d && !(s.bolt b).inUse && others.all (fun k => !rectsMeet k r) &&
  others.all (fun k => decide (k.funcMask &&& r.funcMask = 0)) &&
  decide (others.foldl (fun a k => a + k.share) r.share ≤ Config.heavyBudget s.configCode) &&
  (List.range Config.nPorts).all fun p => decide ((s.port p).state ≠ 1) || decide (r.resvPerPort ≤ s.unreserved b p r)

/-- Blocks of one bolt number become those of another. -/
def State.reown (s : State) (x b : Nat) : State :=
  if x = b then s
  else (List.range Config.nPorts).foldl (fun s p => s.modPort p fun r => { r with
    owners := r.owners.map fun e => (e.1, if e.2 = .bolt x then .bolt b else e.2) }) s

/-- Records of retained rows: those of bolt numbers that are not in use, and those that stand apart (from 8 on). -/
def State.keptRecs (s : State) : List Nat := (s.bolts.filter fun x => !x.2.inUse && x.2.retained).map fun x => x.1

/-- A record of the rows alone: no mirror stands for them, so no load can reuse them. -/
def BoltRec.rowsOnly (k : BoltRec) : BoltRec :=
  { sx0 := k.sx0, sy0 := k.sy0, w := k.w, h := k.h, retained := true
    mirrors := k.mirrors.map fun e => { e with shards := e.shards.map fun x => { x with st := .waiting }, mirror := [] } }

/-- The mirrors of the number's last bolt, kept for a warm reload (R256), with nothing of them placed. -/
def BoltRec.looseMirrors (k : BoltRec) : List EpochRec := k.mirrors.map fun e => { e with place := [], placedDone := false }

/-- A number from 8 on with no record. -/
def State.apart (s : State) : Nat :=
  (((List.range (s.bolts.length + 1)).map fun i => Config.nBolts + i).find? fun i => decide (s.bolt i = {})).getD Config.nBolts

/-- The rows that the number's last bolt retains, where the new bolt has another rectangle: zeroed if it lies over them, else
set apart; the mirrors stay with the number (R252, R256). -/
def State.leaveRows (s : State) (b : Nat) (r : BoltRec) : State × List EpochRec :=
  let k := s.bolt b
  if k.retained ∧ sameRect k r = false then
    let s := if rectsMeet k r then k.mirrors.foldl (fun s e => s.zeroRetained e) s
      else s.setBolt s.apart k.rowsOnly
    (s.setBolt b {}, k.looseMirrors)
  else (s, [])

/-- Weights retained after a BOLT_DESTROY go to a bolt of the same rectangle; those that the new bolt meets otherwise are
dropped (R252). -/
def State.inheritRetained (s : State) (b : Nat) (r : BoltRec) : State × BoltRec :=
  let q := s.leaveRows b r
  let s := q.1.keptRecs.foldl (fun s x =>
    if sameRect (s.bolt x) r = false ∧ rectsMeet (s.bolt x) r = true then (s.dropRetained x).setBolt x {} else s) q.1
  match s.keptRecs.find? fun x => sameRect (s.bolt x) r with
  | some x => ((s.reown x b).setBolt x {}, { r with retained := true, mirrors := (s.bolt x).mirrors ++ q.2 })
  | none => (s, { r with mirrors := q.2 })

/-- The ports of the router at (x, y) that face out of a rectangle, as the fence bits (R161). -/
def fenceBits (r : BoltRec) (x y : Nat) : Nat :=
  [1, 2, 3, 4, 5, 6, 7, 8].foldl (fun a p =>
    let out := match leave x y p with
      | .at_ (.router x' y' _) => !(decide (8 * r.sx0 ≤ x') && decide (x' < 8 * (r.sx0 + r.w)) &&
          decide (8 * r.sy0 ≤ y') && decide (y' < 8 * (r.sy0 + r.h)))
      | _ => true
    if hasPort x y p && out then a + 2 ^ (3 + p) else a) 0

/-- Member, bolt, span side and fences of every router of a bolt, committed (R161). -/
def State.raiseFences (s : State) (b : Nat) : State :=
  let r := s.bolt b
  r.sites.foldl (fun s c => s.rtSet c 0 (b + 8 + fenceBits r (coreX c) (coreY c) + (r.spanSide <<< 12))) s

def State.clearFences (s : State) (b : Nat) : State := (s.bolt b).sites.foldl (fun s c => s.rtSet c 0 0) s

def BoltOp.createFin : BoltOp → Option FinOf
  | .create f => some f
  | _ => none

/-- The skein's logic is on, or it cannot be turned on. -/
def State.skeinAwake (s : State) (k : Nat) : Bool := decide ((s.skein k).state = 4) || s.skeinLost k

/-- A create goes on: once no core of the rectangle is SCRUBBING the skeins are turned on, and once they are the fences are
raised and the bolt is EMPTY (R228). -/
def State.createAdvance (s : State) (b : Nat) : State :=
  let r := s.bolt b
  match r.ops.findSome? BoltOp.createFin with
  | some f =>
    if r.sites.any fun c => decide ((s.core c).st = .scrubbing) then s
    else
      let s := s.wakeSkeins b
      if r.skeins.all s.skeinAwake then
        let s := r.skeins.foldl (fun s k => s.setBudget k 0 0) s
        let s := (s.raiseFences b).setBolt b { r with ops := r.ops.filter fun o => !isCreate o }
        ((s.enterEmpty b).finishOf f ssOk [1])
      else s
  | none => s

/-- A descriptor that only the admin queue takes: the bolt it names. -/
def Acc.admin (a : Acc) : Option Nat := if a.q = 0 then a.bolt else none

def execBoltCreate (q : Nat) (d : BitVec 1024) (s : State) : Out :=
  onDesc 0x20 q d s fun s a =>
    match a.admin with
    | some b =>
      if s.createOk b d then
        let x := s.inheritRetained b (boltOf d a.fin)
        (((x.1.setBolt b x.2).setServeOf b {}).setCtPage b {}).createAdvance b
      else s.invalid a
    | none => s.invalid a

/-! ## SCRUB and BOLT_DESTROY (R250) -/

def killOk (d : BitVec 1024) : Bool := dZeroBut d [(0, 17)] && decide (dHandle d = 0) && decide (dfield d 16 1 < 2)

/-- Steps 1 and 2 of a kill: everything of the bolt ends, its cores halt, its epochs are kept as mirrors. -/
def State.kill (s : State) (b : Nat) (f : FinOf) (weights destroy : Bool) : State :=
  let s := (s.endAll b rqCancelled ssCancelled).endOps b ssCancelled
  let s := s.quiesce b
  let s := s.modBolt b fun r => { r with
    current := none, other := none, pauses := [], drained := false, repairs := false, timersSuspended := false,
    regions := [], slots := [], tops := [], incoming := none
    mirrors := r.mirrors ++ r.current.toList ++ r.other.toList
    ops := [.scrub f weights destroy] }
  ((s.evictAll b).setBoltSt b .scrubbing).noteConds

/-- A FAULTED bolt leaves its state by LOAD_MODEL or BOLT_DESTROY alone (R126, Table 9.2). -/
def State.killDesc (s : State) (a : Acc) (d : BitVec 1024) (destroy : Bool) : State :=
  match a.admin with
  | some b =>
    if killOk d && decide ((s.bolt b).st ≠ .none) && decide ((s.bolt b).st ≠ .scrubbing) &&
        (destroy || decide ((s.bolt b).st ≠ .faulted)) then
      s.kill b a.fin (bitAt (dfield d 16 1) 0) destroy
    else s.invalid a
  | none => s.invalid a

def execScrub (q : Nat) (d : BitVec 1024) (s : State) : Out := onDesc 0x22 q d s fun s a => s.killDesc a d false
def execBoltDestroy (q : Nat) (d : BitVec 1024) (s : State) : Out := onDesc 0x21 q d s fun s a => s.killDesc a d true

/-- The adapter slots of a bolt that is killed: a load ends CANCELLED, an eviction has what it asked for. -/
def State.freeAdapters (s : State) (b : Nat) : State :=
  (s.adapters.filter fun e => decide (e.2.bolt = b)).foldl (fun s e =>
    let s := s.setAdapter e.1 {}
    let s := match e.2.fin with
      | some f => s.finishOf f ssCancelled (natBytes 2 e.1)
      | none => s
    match e.2.evict with
    | some f => s.finishOf f ssOk []
    | none => s) s

/-- The blocks of a bolt that no mirror of it keeps are freed dirty (R250, step 4). -/
def State.freeAllBut (s : State) (b : Nat) (keep : List (Nat × Nat)) : State :=
  (List.range Config.nPorts).foldl (fun s p =>
    ((s.port p).boltBlocks b).foldl (fun s k => if keep.contains (p, k) then s else s.freeBlock p k) s) s

/-- The mirrors that stay with retained weight rows (R250, step 3; R252). -/
def BoltRec.retainable (b : BoltRec) (weights : Bool) : List EpochRec :=
  if weights then []
  else (b.mirrors.filter fun e => e.resident && e.placedDone).map fun e => { e with st := .none, extents := [], fwd := [] }

/-- Steps 4 and 5. -/
def State.killDone (s : State) (b : Nat) (f : FinOf) (weights destroy : Bool) : State :=
  let r := s.bolt b
  let keep := r.retainable weights
  let s := (s.freeAdapters b).freeAllBut b (keep.flatMap fun e => e.mirror)
  let s := r.skeins.foldl (fun s k => s.setBudget k 0 0) s
  if destroy then
    let s := (s.clearFences b).openCores b
    let s := ((s.setCtPage b {}).ctPorts b).setBoltSt b .none
    let s := s.setBolt b (if keep = [] then {} else
      { sx0 := r.sx0, sy0 := r.sy0, w := r.w, h := r.h, retained := true, mirrors := keep })
    (s.setServeOf b {}).finishOf f ssOk [0]
  else
    let s := s.setBolt b { r with pool := [], ops := [], drained := false, mirrors := keep, retained := !keep.isEmpty }
    (s.enterEmpty b).finishOf f ssOk [1]

def BoltOp.scrubOf : BoltOp → Option (FinOf × Bool × Bool)
  | .scrub f w d => some (f, w, d)
  | _ => none

/-- Every site of a bolt has left SCRUBBING, and none waits to be turned on. -/
def State.scrubbed (s : State) (b : Nat) : Bool :=
  (s.bolt b).sites.all fun c =>
    decide ((s.core c).st ≠ .scrubbing) && (decide ((s.core c).st ≠ .off) || s.skeinLost (skeinOf c))

/-- A kill goes on once its scrub has ended (R250). -/
def State.scrubAdvance (s : State) (b : Nat) : State :=
  let r := s.bolt b
  match r.ops.findSome? BoltOp.scrubOf with
  | some (f, w, d) => if r.drained && s.scrubbed b then s.killDone b f w d else s
  | none => s

/-! ## DRAIN_COMPLETE (R168, R250, R253) -/

/-- A scrub under way, of a kill or before a load. -/
def BoltRec.scrubs (b : BoltRec) : Bool := decide (b.st = .scrubbing) || b.ops.any isScrubLoad

/-- The bolt's routers hold no flit of it: records and counters are cleared, and the pause or the kill goes on. -/
def State.drainDone (s : State) (b : Nat) : State :=
  let s := (s.clearCredits b).modBolt b fun r => { r with drained := true }
  if (s.bolt b).scrubs then (s.scrubBolt b).scrubAdvance b
  else
    let s := (s.bolt b).pauses.foldl (fun s w => s.doPause b w) s
    let s := (s.bolt b).runningCores.foldl (fun s c => s.restoreCore c) s
    s.modBolt b fun r => { r with pauses := r.pauses.filter fun w => w = .coolant }

def execDrainComplete (b : Nat) (s : State) : Out :=
  onBolt b s fun s =>
    let r := s.bolt b
    whenS ((decide (r.st = .paused) || r.scrubs) && !r.drained && !s.net.any (s.boltFlit r)) s fun s => s.drainDone b

end Sys2Proof.Machine
end

