-- ==== Sys2Proof/Machine/Load.lean ====
section
/-! DEFINITION. Model packages: the manifest and its signature, the load of a package on one engine or along a chain, the
image check, the placement and the commit of an epoch; adapters into creel (R131, R140, R230–R239, R244, R247, R252, R299,
R320, R337). -/

namespace Sys2Proof.Machine

open Sys2Proof

/-! ## The manifest (R230–R232) -/

def mfKind (m : List Byte) : Nat := leAt m 0x006 2
def mfModel (m : List Byte) : Nat := leAt m 0x008 16
def mfCount (m : List Byte) : Nat := leAt m 0x01C 4
def mfKey (m : List Byte) : List Byte := (m.drop 0x020).take 97
def mfBase (m : List Byte) : Nat := leAt m 0x0A0 16
def mfPositions (m : List Byte) : Nat := leAt m 0x0B0 1
def mfSigAt (m : List Byte) : Nat := 0x100 + 64 * mfCount m

/-- The shard entries (Table 9.4). -/
def mfShards (m : List Byte) : List ShardRec := tabulate (mfCount m) fun i =>
  let o := 0x100 + 64 * i
  { kind := leAt m o 2, length := leAt m (o + 4) 4, uses := leAt m (o + 8) 8, hash := BitVec.ofNat 384 (leAt m (o + 16) 48) }

/-- Image shards, then token-unit shards, then weight shards. -/
def kindOrder (k : Nat) : Nat := if k = 1 then 0 else if k = 3 then 1 else if k = 2 then 2 else 3

def risesFrom : Nat → List Nat → Bool
  | _, [] => true
  | a, b :: r => decide (a ≤ b) && risesFrom b r

/-- Step 1 of R232 for a package of a kind. -/
def manifestFormOk (m : List Byte) (kind : Nat) : Bool :=
  decide (leAt m 0 4 = 0x464D574B) && decide (leAt m 4 2 = 1) && decide (mfKind m = kind) && decide (1 ≤ mfCount m) &&
  decide (mfCount m ≤ 65535) && decide (m.length = mfSigAt m + 96) && decide (1 ≤ mfPositions m) &&
  decide (mfPositions m ≤ 64) && zeros m 0x081 31 && zeros m 0x0B1 79 && (decide (kind = 1) || decide (mfBase m = 0)) &&
  (List.range (mfCount m)).all (fun i => zeros m (0x102 + 64 * i) 2) &&
  (mfShards m).all (fun k => decide (1 ≤ k.length) && decide (k.length ≤ 67108864)) &&
  (decide (kind = 1) || risesFrom 0 ((mfShards m).map fun k => kindOrder k.kind))

/-- Step 4: no shard of a kind that the package does not allow. -/
def manifestKindsOk (m : List Byte) (kind : Nat) : Bool :=
  (mfShards m).all fun k => if kind = 0 then decide (1 ≤ k.kind) && decide (k.kind ≤ 3) else decide (k.kind = 4)

/-- A slot that the ledger memory never filled. -/
def anchorNone : BitVec 384 × BitVec 384 × Bool := (0, 0, false)
def State.anchorSlot (s : State) (i : Nat) : BitVec 384 × BitVec 384 × Bool := Tab.get anchorNone s.security.anchor i
def anchorBad (k : BitVec 384 × BitVec 384 × Bool) : Bool := k.2.2 && decide (k.2.1 ≠ ~~~k.1)

/-- The anchors are checked against their complements as they are used; a slot that mismatches is reported (R233). -/
def State.checkAnchors (s : State) : State :=
  (List.range 8).foldl (fun s i =>
    if anchorBad (s.anchorSlot i) then
      ({ s with security := { s.security with mismatch := s.security.mismatch ||| BitVec.ofNat 8 (2 ^ i) } } : State).report
        srcLoader 0x03 (i + (8 <<< 28))
    else s) s

/-- A publisher's key is enrolled. -/
def State.enrolled (s : State) (key : List Byte) : Bool :=
  (List.range 8).any fun i =>
    let k := s.anchorSlot i
    k.2.2 && !anchorBad k && decide (k.1 = hashOf key)

/-- The four steps of R232: the status, OK where the manifest stands. -/
def State.checkManifest (s : State) (m : List Byte) (kind b pos : Nat) : State × Nat :=
  if !manifestFormOk m kind then (s, ssInvalid)
  else
    let s := s.checkAnchors
    let fail (why : Nat) : State × Nat := (s.report srcLoader 0x1B (why + (b <<< 1) + (pos <<< 4)), ssIntegrity)
    if !s.enrolled (mfKey m) then fail 0
    else if !signatureOk (mfKey m) (m.drop (mfSigAt m)) (m.take (mfSigAt m)) then fail 1
    else if manifestKindsOk m kind then (s, ssOk) else (s, ssInvalid)

/-! ## Shards in flight (R235) -/

/-- Every shard that an engine uses or forwards is verified. -/
def EpochRec.allVerified (e : EpochRec) : Bool :=
  e.shards.all fun k => !k.kept e.position || decide (k.st = .verified)

/-- Announcement of a verified shard to the next position. -/
def State.announce (s : State) (e : EpochRec) (i : Nat) : State :=
  let next := e.chain.getD (e.position + 1) (0, 0)
  if (e.shard i).onward e.position && decide (e.position + 1 < e.chain.length) then
    s.sayTo next.1 msgShard next.2 (e.manifestHash.toNat % 2 ^ 32) (leBytes 4 i)
  else s

/-! ## The image check (R140, R236) -/

/-- Slots that a bolt needs: those of its placed epochs, or of a staged one that takes their place (log entry 40). -/
def BoltRec.slotNeed (b : BoltRec) : Nat :=
  let placed := ((b.current.toList ++ b.other.toList).filter fun e => decide (e.place ≠ [])).foldl (fun a e => a + e.slots) 0
  let staged := (b.other.toList.filter fun e => decide (e.place = [])).foldl (fun a e => a + e.slots) 0
  max placed staged

def State.slotsUsed (s : State) : List Nat :=
  s.bolts.flatMap fun x => (x.2.current.toList ++ x.2.other.toList).flatMap fun e => e.slotNos

/-- The lowest slot numbers that are not in use. -/
def State.pickSlots (s : State) (n : Nat) : List Nat :=
  let used := s.slotsUsed
  ((List.range Config.maxSlots).filter fun k => !used.contains k).take n

/-- Creel extents of a creel-fed image: one for each weight shard that the position uses, on its port (R320). -/
def State.allocExtents (s : State) (b : Nat) (e : EpochRec) : Option (State × List (Nat × Nat × Nat)) :=
  ((e.shards.filter fun k => decide (k.kind = 2) && k.here e.position).zipIdx).foldl (fun o x => o.bind fun q =>
    let n := blocksFor x.1.length
    let p := q.1.homePort x.2
    (q.1.allocRun b p n).map fun r => (r.1, q.2 ++ [(p, r.2, n)])) (some (s, []))

/-- What an epoch takes from its image once a shape is chosen. -/
def settled (e : EpochRec) (m tk : List Byte) (k : Nat) (pl : List (List (Nat × Nat))) (grid : Grid) (home : Nat) : EpochRec :=
  let place := pl.map fun x => x.map fun c => c.1
  { e with
    imageOk := true, shape := k, slots := imSlots m, chunk := imChunk m, pickTimeout := imTimeout m,
    creelFed := imCreelFed m, charge := imCharge m k, regions := imRegionList m, place := place,
    virts := pl.map (fun x => x.map fun c => c.2)
    unused := ((grid.flatMap numbered).filter fun c => !place.flatten.contains c.1).foldl (fun t c => Tab.insert t c.1 c.2) []
    kvGeom := (imKvRecs m k).map kvGeomOf, adapterGeom := (imAdRecs m k).map adGeomOf,
    serve := tuServe tk, tokenShard := tk, watch := imWatch m k home place }

/-- The bolt's share holds the charges of its placed epochs (R131). -/
def BoltRec.shareOk (b : BoltRec) (e : EpochRec) : Bool :=
  let more := if e.place = [] then 0 else b.current.toList.foldl (fun a c => a + c.charge) 0
  decide (e.charge + more ≤ b.share * 64 * 192)

/-- The last checks, with the chosen shape: tensors, slots, charge, extents; a retained mirror that the placement does not
meet is dropped (R252). -/
def State.settle (s : State) (b : Nat) (e : EpochRec) (m tk : List Byte) (k : Nat) (pl : List (List (Nat × Nat))) :
    Except Nat State :=
  let r := s.bolt b
  let e := settled e m tk k pl (s.gridBut b []) r.homeSide
  let s1 := s.setBolt b { r with other := some e }
  let slots := (List.range Config.nBolts).foldl (fun a x => a + (s1.bolt x).slotNeed) 0
  if !(tensorsOk m k && decide (slots ≤ Config.maxSlots) && r.shareOk e) then .error ssInvalid
  else match (if e.creelFed then s1.allocExtents b e else some (s1, [])) with
    | some (s, ext) =>
      let e := { e with extents := ext, slotNos := if pl = [] then [] else s.pickSlots e.slots }
      let s := s.modBolt b fun r => { r with other := some e }
      let same := r.mirrors.any fun x => decide (x.manifestHash = e.manifestHash) && decide (x.shape = k) && decide (x.place = e.place)
      .ok (if r.retained && !same then s.dropRetained b else s)
    | none => .error ssRejMemory

/-- The image check of a load: the state with the epoch's image taken up, or the status with which the load ends. -/
def State.imageCheck (s : State) (b : Nat) (e : EpochRec) : Except Nat State :=
  match s.imageOf e, s.tokenShardOf e with
  | some m, some tk =>
    let env : ImEnv := {
      shards := e.shards.map fun k => (k.kind, k.length, k.here e.position)
      chainLen := e.chain.length
      position := e.position
      extents := if imCreelFed m then (e.shards.filter fun k => decide (k.kind = 2) && k.here e.position).length else 0 }
    let tokens := tuShardOk tk (imRegions m) || (tk.isEmpty && decide (e.position ≠ 0))
    if !(imageOk m env && tokens) then .error ssInvalid
    else
      let r := s.bolt b
      match (if e.noPlace && decide (r.st ≠ .loading) then none else chooseShape m (s.gridOf b)) with
      | some (k, pl) => s.settle b e m tk k pl
      | none =>
        if r.st = .loading then .error ssInvalid
        else match chooseShape m (s.gridBut b []) with
          | some (k, _) => s.settle b e m tk k []
          | none => .error ssInvalid
  | _, _ => .error ssIntegrity

/-- The shards that the check reads are verified. -/
def EpochRec.imageHere (e : EpochRec) : Bool :=
  e.shards.all fun k => !(k.here e.position && (decide (k.kind = 1) || decide (k.kind = 3))) || decide (k.st = .verified)

def State.checkWhenHere (s : State) (b : Nat) : State :=
  let r := s.bolt b
  match r.load, r.other with
  | some _, some e =>
    if e.imageOk = false ∧ e.imageHere = true ∧ r.ops.any isScrubLoad = false then
      match s.imageCheck b e with
      | .ok s => s
      | .error st => s.loadFail b st e.position 0xFFFFFFFF
    else s
  | _, _ => s

/-- A position has nothing left to do before the commit: it reports ready to the head (R238). -/
def State.reportReady (s : State) (b : Nat) : State :=
  let r := s.bolt b
  match r.load, r.other with
  | some l, some e =>
    if l.ready.contains e.position then s
    else
      let s := s.setBolt b { r with load := some { l with ready := l.ready ++ [e.position] } }
      if e.position = 0 then s
      else
        let head := e.chain.getD 0 (0, 0)
        s.sayTo head.1 msgReady head.2 (e.manifestHash.toNat % 2 ^ 32) (leBytes 1 e.position)
  | _, _ => s

/-- A load goes on: the image check once its shards are there; a STAGED epoch is ready once every shard is verified. -/
def State.loadAdvance (s : State) (b : Nat) : State :=
  let s := s.checkWhenHere b
  let r := s.bolt b
  match r.load, r.other with
  | some _, some e => if e.imageOk && decide (e.place = []) && e.allVerified then s.reportReady b else s
  | _, _ => s

/-! ## LOAD_MODEL (R234, R239, R247) -/

/-- A bolt that can take a load now. -/
def BoltRec.loadable (b : BoltRec) : Bool :=
  (decide (b.st = .empty) || decide (b.st = .serving) || decide (b.st = .faulted)) &&
  !(b.current.isSome && b.other.isSome) && decide (b.other.isNone) && b.load.isNone

/-- A mirror that the bolt still holds for this manifest and position, every shard of the position verified (R247). -/
def BoltRec.warm (b : BoltRec) (hash : BitVec 384) (pos : Nat) : Option EpochRec :=
  b.holdersOfBlocks.find? fun e => decide (e.manifestHash = hash) && decide (e.position = pos) &&
    e.shards.all fun k => !k.here pos || decide (k.st = .verified)

/-- What goes before a load: a bolt gives up every mirror but the one that the load takes, and the rows retained with it are
zeroed (R234, R252, R257). -/
def State.beforeLoad (s : State) (b : Nat) (warm : Option EpochRec) : State :=
  let r := s.bolt b
  if r.st = .faulted then
    let s := s.freeAdapters b
    let keep := (warm.filter fun e => r.mirrors.contains e).toList
    let s := s.setBolt b { s.bolt b with mirrors := keep }
    let s := (r.mirrors.filter fun e => !keep.contains e).foldl (fun s e => s.freeMirror b e) s
    keep.foldl (fun s e => s.freeBlocks (e.extents.flatMap fun x => (List.range x.2.2).map fun k => (x.1, x.2.1 + k))) s
  else if r.retained && warm.isNone then s.dropRetained b
  else if r.mirrors = [] then s
  else (r.mirrors.filter fun e => warm ≠ some e).foldl (fun s e =>
    ((if r.retained then s.zeroRetained e else s).modBolt b fun r => { r with mirrors := r.mirrors.erase e }).freeMirror b e) s

/-- The mirror of a load: the one that the bolt holds, with new blocks for what is only forwarded; else new blocks. -/
def State.mirrorFor (s : State) (b : Nat) (e : EpochRec) : Option EpochRec → Option (State × EpochRec)
  | none => s.allocMirror b e
  | some w =>
    let q := packShards s.homePort e.position 0 e.shards []
    (s.allocPacked b fun p => Tab.get 0 q.2 (p + 32)).map fun y =>
      (y.1, { e with
        shards := q.1.zipIdx.map fun x => if x.1.here e.position then w.shard x.2 else x.1
        mirror := w.mirror, fwd := y.2 })

def nextEpochNo (n : Nat) : Nat := if n ≥ 65535 then 1 else n + 1

/-- A load starts on a bolt, or ends with a status before any shard is requested. -/
def State.openLoad (s : State) (b : Nat) (fin : FinOf) (resident noPlace : Bool) (chain : List (Nat × Nat)) (pos : Nat)
    (m : List Byte) : State × Nat :=
  let r := s.bolt b
  if !r.loadable then (s, ssInvalid)
  else
    let c := s.checkManifest m 0 b pos
    if c.2 ≠ ssOk then c
    else if chain.length ≠ mfPositions m then (c.1, ssInvalid)
    else
      let hash := hashOf m
      let e : EpochRec := { num := r.nextEpoch, st := .loading, manifestHash := hash, modelId := mfModel m, resident := resident,
                            noPlace := noPlace, chain := chain, position := pos, shards := mfShards m }
      let warm := r.warm hash pos
      match (c.1.beforeLoad b warm).mirrorFor b e warm with
      | none => (c.1, ssRejMemory)
      | some (s, e) =>
        let r := s.bolt b
        let faulted := decide (r.st = .faulted)
        let s := s.setBolt b { r with
          other := some e, load := some { fin := fin, epoch := e.num, since := s.time, retained := r.retained, fit := [pos] }
          nextEpoch := nextEpochNo r.nextEpoch
          mirrors := if r.retained then r.mirrors else []
          drained := false
          ops := if faulted then r.ops ++ [.scrubLoad fin] else r.ops }
        let s := if faulted then s.quiesce b else s
        let s := if faulted ∨ r.st = .empty then s.setBoltSt b .loading else s
        (((s.requestShards b).loadAdvance b).noteConds, ssOk)

def loadFieldsOk (d : BitVec 1024) : Bool :=
  dZeroBut d [(0, 30), (32, 16)] && decide (dHandle d = 0) && decide (416 ≤ dfield d 24 4) &&
  decide (dfield d 24 4 ≤ 4194592) && decide (dfield d 28 1 < 4) && decide (1 ≤ dfield d 29 1) && decide (dfield d 29 1 ≤ 64) &&
  (decide (dfield d 40 8 ≠ 0) || decide (dfield d 29 1 = 1))

/-- A chain word: engine [5:0], bolt [10:8], other bits 0. -/
def chainWord (w : Word) : Option (Nat × Nat) :=
  let n := w.toNat
  if n = bits n 0 6 + (bits n 8 3 <<< 8) then some (bits n 0 6, bits n 8 3) else none

/-- The chain: position 0 names this engine and bolt, and every other engine can be reached. -/
def State.chainOf (s : State) (b : Nat) (words : List Word) : Option (List (Nat × Nat)) :=
  if words = [] then some [(s.engineNo, b)]
  else
    let l := words.filterMap chainWord
    if l.length = words.length ∧ l.head? = some (s.engineNo, b) ∧
        (l.drop 1).all (fun x => decide (x.1 ≠ s.engineNo) && (s.hopOf x.1).isSome) = true then some l else none

/-- Pieces of a list of `n` bytes with their offsets. -/
def piecesOf (n : Nat) : Nat → Nat → List Byte → List (Nat × List Byte)
  | 0, _, _ => []
  | f + 1, o, l => if l.isEmpty then [] else (o, l.take n) :: piecesOf n f (o + n) (l.drop n)

/-- The head opens the load on every other position: the chain and the manifest go there. -/
def State.tellChain (s : State) (e : EpochRec) (m : List Byte) : State :=
  (e.chain.zipIdx.filter fun x => decide (x.2 ≠ 0)).foldl (fun s x =>
    let id := e.manifestHash.toNat % 2 ^ 32
    let s := s.sayTo x.1.1 msgOpen x.1.2 id (leBytes 1 x.2 ++ leBytes 1 e.chain.length ++
      leBytes 1 (boolNat e.resident + 2 * boolNat e.noPlace) ++ leBytes 4 m.length ++
      e.chain.flatMap fun c => leBytes 1 c.1 ++ leBytes 1 c.2)
    (piecesOf 200 (m.length / 200 + 1) 0 m).foldl (fun s p =>
      s.sayTo x.1.1 msgManifest x.1.2 id (leBytes 4 p.1 ++ leBytes 1 p.2.length ++ p.2)) s) s

def State.loadModel (s : State) (a : Acc) (m : List Byte) (words : List Word) : State :=
  match a.bolt with
  | some b =>
    if (s.bolt b).loadable = false then s.invalid a
    else
      let pos := match s.chainOf b words with
        | some l => l
        | none => []
      let q := s.openLoad b a.fin (bitAt (dfield a.d 28 1) 0) (bitAt (dfield a.d 28 1) 1) pos 0 m
      if q.2 ≠ ssOk then q.1.finish a q.2 (q.1.refused a)
      else match (q.1.bolt b).load, (q.1.bolt b).other with
        | some _, some e => q.1.tellChain e m
        | _, _ => q.1
  | none => s.invalid a

def execLoadModel (q : Nat) (d : BitVec 1024) (manifest : List Byte) (chain : List Word) (s : State) : Out :=
  if loadFieldsOk d = false ∨ (manifest.length = dfield d 24 4 ∧ chain.length = (if dfield d 40 8 = 0 then 0 else dfield d 29 1)) then
    onDesc 0x10 q d s fun s a => if loadFieldsOk d then s.loadModel a manifest chain else s.invalid a
  else onQp q s fun s => s

/-! ## SHARD_ARRIVAL, SHARD_ATTEMPT_TIMEOUT (R235) -/

/-- Where a shard number points: a bolt's load, or an adapter slot from 65,536 on (log entry 44). -/
def adapterShard (shard : Nat) : Option (Nat × Nat) :=
  if shard < 65536 then none else some (shard / 65536 - 1, shard % 65536)

def ShardRec.retry (k : ShardRec) (now : Nat) : ShardRec := { k with attempts := k.attempts + 1, st := .inFlight, since := now }

/-- A failed attempt of a model's shard: the next one, or the end of the load. -/
def State.shardFailed (s : State) (b i status : Nat) : State :=
  match (s.bolt b).other with
  | some e =>
    let k := e.shard i
    if 3 ≤ k.attempts then s.loadFail b status e.position i
    else
      let s := s.modBolt b fun r => { r with other := some { e with shards := e.shards.set i (k.retry s.time) } }
      if e.position = 0 then s else s.wantShard e i
  | none => s

/-- The bytes of a model's shard: into the mirror, verified and announced, or a failed attempt. -/
def State.shardHere (s : State) (b i : Nat) (bytes : List Byte) : State :=
  match (s.bolt b).load, (s.bolt b).other with
  | some _, some e =>
    let k := e.shard i
    if k.st = .inFlight ∧ bytes.length = k.length then
      let s := s.mirrorWrite e i 0 bytes
      if hashOf bytes = k.hash then
        let e := { e with shards := e.shards.set i { k with st := .verified } }
        let s := s.modBolt b fun r => { r with other := some e }
        ((s.announce e i).requestAll).loadAdvance b
      else
        (s.report srcLoader 0x1A (i + (e.position <<< 16) + (k.attempts <<< 22) + (b <<< 24))).shardFailed b i ssIntegrity
    else s
  | _, _ => s

/-- An adapter's load ends: with its slot, or the slot is given back. -/
def State.adapterEnd (s : State) (k status : Nat) : State :=
  let a := s.adapter k
  match a.fin with
  | some f =>
    if status = ssOk then
      let bytes := (List.range a.shards.length).flatMap fun i => Tab.get [] a.parts i
      (s.setAdapter k { a with fin := none, loaded := true, bytes := bytes, parts := [] }).finishOf f ssOk (natBytes 2 k)
    else (((s.setAdapter k {}).fitPool a.bolt).finishOf f status (natBytes 2 k)).requestAll
  | none => s

def State.adapterFailed (s : State) (k i status : Nat) : State :=
  let a := s.adapter k
  let sh := a.shards.getD i {}
  if 3 ≤ sh.attempts then s.adapterEnd k status
  else s.setAdapter k { a with shards := a.shards.set i (sh.retry s.time) }

def State.adapterShardHere (s : State) (b k i : Nat) (bytes : List Byte) : State :=
  let a := s.adapter k
  let sh := a.shards.getD i {}
  if a.fin.isSome = true ∧ a.bolt = b ∧ sh.st = .inFlight ∧ bytes.length = sh.length then
    if hashOf bytes = sh.hash then
      let a := { a with shards := a.shards.set i { sh with st := .verified }, parts := Tab.put [] a.parts i bytes }
      let s := (s.setAdapter k a).requestAll
      if a.shards.all fun x => decide (x.st = .verified) then s.adapterEnd k ssOk else s
    else (s.report srcLoader 0x1A (i + (sh.attempts <<< 22) + (b <<< 24))).adapterFailed k i ssIntegrity
  else s

def execShardArrival (b shard : Nat) (bytes : List Byte) (s : State) : Out :=
  onBolt b s fun s => match adapterShard shard with
    | some (k, i) => s.adapterShardHere b k i bytes
    | none => s.shardHere b shard bytes

/-- 500 ms from an attempt's request without a hash result. -/
def ShardRec.late (k : ShardRec) (now : Nat) : Bool := decide (k.st = .inFlight) && decide (k.since + 500000000 ≤ now)

def execShardAttemptTimeout (b shard : Nat) (s : State) : Out :=
  onBolt b s fun s => match adapterShard shard with
    | some (k, i) =>
      let a := s.adapter k
      whenS (a.fin.isSome && decide (a.bolt = b) && (a.shards.getD i {}).late s.time) s fun s => s.adapterFailed k i ssTimeout
    | none => match (s.bolt b).load, (s.bolt b).other with
      | some _, some e => whenS ((e.shard shard).late s.time) s fun s => s.shardFailed b shard ssTimeout
      | _, _ => s

/-! ## PLACEMENT_DONE (R236, R241) -/

/-- Every site of an epoch's place is IDLE. -/
def State.placeIdle (s : State) (e : EpochRec) : Bool := e.place.flatten.all fun c => decide ((s.core c).st = .idle)

/-- The placement of a load's epoch. -/
def State.placeLoad (s : State) (b : Nat) (e : EpochRec) : State :=
  let s := s.mirrorCheckAll e
  match (s.imageOf e).bind fun m => s.placeEpoch b e m (s.bolt b).retained with
  | some s =>
    let r := s.bolt b
    (s.setBolt b { r with retained := false, mirrors := [], other := some { e with placedDone := true } }).reportReady b
  | none => s.loadFail b ssIntegrity e.position 0xFFFFFFFF

/-- The QUEUED requests of an epoch that cannot be placed (R241). -/
def State.faultQueued (s : State) (b n : Nat) : State :=
  ((s.boltReqs b).filter fun i => decide ((s.req i).epoch = n) && decide ((s.req i).st = rqQueued)).foldl
    (fun s i => s.endReq i rqFaulted ssFaulted) s

/-- The finals of the switches that wait: every one names the one other epoch of its bolt. -/
def BoltRec.switchFins (b : BoltRec) : List FinOf := b.ops.filterMap fun o => match o with
  | .switchTo _ f => some f
  | _ => none

def State.finishAll (s : State) (l : List FinOf) (status : Nat) (result : List Nat) : State :=
  l.foldl (fun s f => s.finishOf f status result) s

/-- A switch to a STAGED epoch whose placement has failed. -/
def State.switchFails (s : State) (b : Nat) (e : EpochRec) : State :=
  let r := s.bolt b
  let s := s.setBolt b { r with other := none, ops := r.ops.filter fun o => !isSwitch o }
  let s := (s.releaseEpoch b e).faultQueued b e.num
  (s.enterEmpty b).finishAll r.switchFins ssIntegrity [0, 0]

/-- A shard that this position uses is damaged (R249). -/
def EpochRec.damaged (e : EpochRec) : Bool := e.shards.any fun k => k.here e.position && decide (k.st = .damaged)

/-- The placement of a STAGED epoch after the old one was freed; it becomes current. -/
def State.placeStaged (s : State) (b : Nat) (e : EpochRec) : State :=
  let s := s.mirrorCheckAll e
  match (if e.damaged then none else (s.imageOf e).bind fun m => s.placeEpoch b e m false) with
  | some s =>
    let r := s.bolt b
    let s := s.setBolt b { r with other := none, ops := r.ops.filter fun o => !isSwitch o }
    (s.startEpoch b { e with placedDone := true }).finishAll r.switchFins ssOk (natBytes 2 e.num)
  | none => s.switchFails b e

def execPlacementDone (b : Nat) (s : State) : Out :=
  onBolt b s fun s =>
    let r := s.bolt b
    match r.other with
    | some e =>
      if e.place = [] ∨ e.placedDone = true ∨ s.placeIdle e = false ∨ s.thermal.stopAt.isSome then s
      else match r.load, r.pendingSwitch with
        | some _, _ => if e.allVerified && !r.ops.any isScrubLoad then s.placeLoad b e else s
        | none, some (n, _) => if n = e.num ∧ r.current.isNone then s.placeStaged b e else s
        | none, none => s
    | none => s

/-! ## EPOCH_COMMIT (R237–R239, R337, R425) -/

/-- SPAN_PEER entries for every other position of a chain, with the harness's copies (R337). -/
def State.writePeers (s : State) (b : Nat) (e : EpochRec) : State :=
  (e.chain.zipIdx.filter fun x => decide (x.2 ≠ e.position)).foldl (fun s x =>
    let v := withInv (setBits (wordVal (Tab.get rtReset s.span.peerCopy x.1.1)) (4 * x.1.2) 4 (8 + b))
    { s with span := { s.span with
      peer := Tab.put rtReset s.span.peer x.1.1 v, peerCopy := Tab.put rtReset s.span.peerCopy x.1.1 v } }) s

def clampTimeout (n : Nat) : Nat := if n = 0 then 50 else min n 1000

/-- The commit on this position: the first epoch of an EMPTY bolt becomes current, a later one STAGED or PLACED. -/
def State.commitHere (s : State) (b : Nat) : State :=
  match (s.bolt b).other with
  | some e =>
    let s := s.writePeers b e
    let r := s.bolt b
    if r.st = .loading then
      let s := s.setBolt b { r with other := none, pickTimeout := clampTimeout e.pickTimeout }
      ((s.startEpoch b e).setBoltSt b .serving)
    else s.setBolt b { r with other := some { e with st := if e.placedDone then .placed else .staged } }
  | none => s

/-- The end of a load that has succeeded on every position. -/
def State.loadDone (s : State) (b : Nat) : State :=
  match (s.bolt b).load, (s.bolt b).other with
  | some l, some e =>
    let s := (s.sayAll e msgEnd []).commitHere b
    let s := (s.modBolt b fun r => { r with load := none }).freeForwarded b l.epoch
    s.finishOf l.fin ssOk (loadResult e 0 0xFFFFFFFF)
  | _, _ => s

/-- COMMIT goes to a position, and its time is noted. -/
def State.sendCommit (s : State) (b : Nat) (e : EpochRec) (pos : Nat) : State :=
  let x := e.chain.getD pos (0, 0)
  (s.sayTo x.1 msgCommit x.2 (e.manifestHash.toNat % 2 ^ 32) []).modBolt b fun r => { r with
    load := r.load.map fun l => { l with sentAt := Tab.put 0 l.sentAt pos (s.time + 1) } }

def execEpochCommit (b : Nat) (s : State) : Out :=
  onBolt b s fun s => match (s.bolt b).load, (s.bolt b).other with
    | some l, some e =>
      if e.position = 0 ∧ l.committing = false ∧ allPositions e.chain.length l.ready = true then
        if e.chain.length ≤ 1 then s.loadDone b
        else
          let s := s.modBolt b fun r => { r with load := some { l with committing := true, acked := [0] } }
          ((List.range e.chain.length).drop 1).foldl (fun s p => s.sendCommit b e p) s
      else s
    | _, _ => s

/-- 500 ms without the acknowledgement of a position: the commit is sent again, and after three re-sends the load fails. -/
def execEpochCommitTimeout (b pos : Nat) (s : State) : Out :=
  onBolt b s fun s => match (s.bolt b).load, (s.bolt b).other with
    | some l, some e =>
      let t := Tab.get 0 l.sentAt pos
      if e.position = 0 ∧ l.committing = true ∧ l.acked.contains pos = false ∧ t ≠ 0 ∧ t - 1 + 500000000 ≤ s.time then
        let n := Tab.get 0 l.resends pos
        if 3 ≤ n then s.loadFail b ssTimeout pos 0xFFFFFFFF
        else (s.modBolt b fun r => { r with load := some { l with resends := Tab.put 0 l.resends pos (n + 1) } }).sendCommit b e pos
      else s
    | _, _ => s

/-! ## SCRUB_DONE (R41, R228, R234, R250) -/

/-- A FAULTED bolt's scrub before its load has ended: the load goes on. -/
def State.scrubLoadAdvance (s : State) (b : Nat) : State :=
  let r := s.bolt b
  if r.ops.any isScrubLoad && r.drained && s.scrubbed b then
    let s := r.sites.foldl (fun s c => s.modCore c fun k => { k with discard := false }) s
    ((s.setBolt b { r with drained := false, ops := r.ops.filter fun o => !isScrubLoad o }).requestShards b).loadAdvance b
  else s

/-- What waits for scrubs or for skeins to be turned on goes on. -/
def State.boltsAdvance (s : State) : State :=
  (List.range Config.nBolts).foldl (fun s b => ((s.createAdvance b).scrubAdvance b).scrubLoadAdvance b) s

def execScrubDone (c : Nat) (s : State) : Out :=
  onCore c s fun s =>
    if (s.core c).st = .scrubbing then (s.modCore c CoreRec.leaveScrub).boltsAdvance else s

/-! ## What a chain's messages do (R237, R238; log entry 41) -/

/-- The load of a bolt that a message is about. -/
def State.loadIs (s : State) (b id : Nat) : Bool :=
  match (s.bolt b).load, (s.bolt b).other with
  | some l, some e => decide (e.manifestHash.toNat % 2 ^ 32 = id) && decide (l.epoch = e.num)
  | some l, none => match (s.bolt b).current with
    | some e => decide (e.manifestHash.toNat % 2 ^ 32 = id) && decide (l.epoch = e.num)
    | none => false
  | none, _ => false

/-- A manifest that has come in whole opens the load on this position, or the head hears why not. -/
def State.incomingDone (s : State) (b : Nat) : State :=
  match (s.bolt b).incoming with
  | some c =>
    let m := c.pieces.flatMap fun p => p.2
    if c.chain = [] ∨ m.length < c.length then s
    else
      let s := s.modBolt b fun r => { r with incoming := none }
      let q := if (s.bolt b).spanAccept then s.openLoad b {} c.resident c.noPlace c.chain c.position (m.take c.length)
        else (s, ssInvalid)
      let head := c.chain.getD 0 (0, 0)
      let before := c.chain.getD (c.position - 1) (0, 0)
      if q.2 ≠ ssOk then q.1.sayTo head.1 msgFail head.2 c.id (leBytes 1 q.2 ++ leBytes 1 c.position ++ leBytes 4 0xFFFFFFFF)
      else (q.1.sayTo before.1 msgOpen before.2 c.id []).sayTo head.1 msgFit head.2 c.id (leBytes 1 c.position)
  | none => s

def State.incomingOf (s : State) (b id : Nat) : Incoming :=
  match (s.bolt b).incoming with
  | some c => if c.id = id then c else { id := id }
  | none => { id := id }

/-- The head has opened a load here; without arguments, the next position asks for the shards that are verified. -/
def State.hearOpen (s : State) (b id : Nat) (x : List Byte) : State :=
  if leAt x 0 1 = 0 then
    match (s.bolt b).other with
    | some e => if s.loadIs b id then (List.range e.shards.length).foldl (fun s i =>
        if (e.shard i).st = .verified then s.announce e i else s) s else s
    | none => s
  else
    let n := leAt x 1 1
    let c := { s.incomingOf b id with
      chain := tabulate n fun i => (leAt x (7 + 2 * i) 1, leAt x (8 + 2 * i) 1)
      position := leAt x 0 1, resident := bitAt (leAt x 2 1) 0, noPlace := bitAt (leAt x 2 1) 1, length := leAt x 3 4 }
    (s.modBolt b fun r => { r with incoming := some c }).incomingDone b

def State.hearManifest (s : State) (b id : Nat) (x : List Byte) : State :=
  let c := s.incomingOf b id
  let c := { c with pieces := Tab.put [] c.pieces (leAt x 0 4) ((x.drop 5).take (leAt x 4 1)) }
  (s.modBolt b fun r => { r with incoming := some c }).incomingDone b

/-- A commit that the head takes back: the epoch that became current is a load again. -/
def State.uncommit (s : State) (b : Nat) : State :=
  let r := s.bolt b
  match r.load, r.other with
  | some l, none => if (r.current.map fun e => e.num) = some l.epoch ∧ l.committing = true then
      (s.setBolt b { r with current := none, other := r.current }).setBoltSt b .loading else s
  | _, _ => s

/-- The position after asks for a shard that stands verified here: it goes there in pieces, store and forward (R237). -/
def State.forwardShard (s : State) (b i : Nat) : State :=
  match (s.bolt b).other with
  | some e =>
    let next := e.chain.getD (e.position + 1) (0, 0)
    let k := e.shard i
    if k.st = .verified ∧ k.onward e.position = true ∧ e.position + 1 < e.chain.length then
      let s := s.mirrorCheck e i 0 k.length
      match s.mirrorRead e i 0 k.length with
      | some bs => (piecesOf 200 (bs.length / 200 + 1) 0 bs).foldl (fun s p =>
          s.sayTo next.1 msgBytes next.2 (e.manifestHash.toNat % 2 ^ 32)
            (leBytes 4 i ++ leBytes 4 p.1 ++ leBytes 1 p.2.length ++ p.2)) s
      | none => s
    else s
  | none => s

/-- A piece of a shard comes in; the whole of it is a SHARD_ARRIVAL. -/
def State.hearBytes (s : State) (b : Nat) (x : List Byte) : State :=
  match (s.bolt b).load, (s.bolt b).other with
  | some l, some e =>
    let i := leAt x 0 4
    let l := { l with pieces := Tab.put [] l.pieces (i * 2 ^ 32 + leAt x 4 4) ((x.drop 9).take (leAt x 8 1)) }
    let bytes := (l.pieces.filter fun p => decide (p.1 / 2 ^ 32 = i)).flatMap fun p => p.2
    if bytes.length < (e.shard i).length then s.modBolt b fun r => { r with load := some l }
    else (s.modBolt b fun r => { r with load := some { l with
      pieces := l.pieces.filter fun p => decide (p.1 / 2 ^ 32 ≠ i) } }).shardHere b i bytes
  | _, _ => s

/-- A message about a load of a bolt. -/
def State.hearLoad (s : State) (what b id : Nat) (x : List Byte) : State :=
  if what = msgOpen then s.hearOpen b id x
  else if what = msgManifest then s.hearManifest b id x
  else if s.loadIs b id = false then s
  else
    let r := s.bolt b
    let l := r.load.getD {}
    if what = msgShard then
      (s.setBolt b { r with load := some { l with announced := insertSorted (leAt x 0 4) l.announced } }).requestShards b
    else if what = msgFit then
      ((s.setBolt b { r with load := some { l with fit := insertSorted (leAt x 0 1) l.fit } }).requestShards b).loadAdvance b
    else if what = msgWant then s.forwardShard b (leAt x 0 4)
    else if what = msgBytes then s.hearBytes b x
    else if what = msgReady then
      s.setBolt b { r with load := some { l with ready := insertSorted (leAt x 0 1) l.ready } }
    else if what = msgCommit then
      let s := if l.committing then s
        else (s.commitHere b).modBolt b fun r => { r with load := r.load.map fun l => { l with committing := true } }
      match (s.bolt b).epochOf l.epoch with
      | some e =>
        let head := e.chain.getD 0 (0, 0)
        s.sayTo head.1 msgAck head.2 id (leBytes 1 e.position)
      | none => s
    else if what = msgAck then
      let acked := insertSorted (leAt x 0 1) l.acked
      let s := s.setBolt b { r with load := some { l with acked := acked } }
      match r.other with
      | some e => if l.committing && allPositions e.chain.length acked then s.loadDone b else s
      | none => s
    else if what = msgFail then (s.uncommit b).loadFail b (leAt x 0 1) (leAt x 1 1) (leAt x 2 4)
    else if what = msgEnd then (s.modBolt b fun r => { r with load := none }).freeForwarded b l.epoch
    else s

/-! ## Virtual cores that other positions move (R135) -/

/-- A virtual core of another position has a new site: every word placed here that targets it is rewritten, with the bolt
paused. -/
def State.moveRemote (s : State) (b : Nat) (e : EpochRec) (pos region idx core : Nat) : State :=
  let e := { e with moved := Tab.insert e.moved (siteKey pos region idx) core }
  let s := s.modBolt b fun r => r.modEpoch e.num fun _ => e
  if e.placedDone then match s.imageOf e with
    | some m => (s.retarget b e m pos region idx).pauseBolt b .span
    | none => s.faultBolt b
  else s

def State.hearMoved (s : State) (b id : Nat) (x : List Byte) : State :=
  match ((s.bolt b).current.toList ++ (s.bolt b).other.toList).find? fun e =>
      decide (e.manifestHash.toNat % 2 ^ 32 = id) && decide (leAt x 0 1 ≠ e.position) with
  | some e => s.moveRemote b e (leAt x 0 1) (leAt x 1 1) (leAt x 2 4) (leAt x 6 4)
  | none => s

/-! ## LOAD_ADAPTER (R244) -/

/-- Bytes of an adapter's factors in an epoch's frames (R139). -/
def EpochRec.adapterBytes (e : EpochRec) : Nat :=
  e.adapterGeom.foldl (fun a g => a + (e.place.getD g.region []).length * g.frameBytes) 0

def AdapterRec.free (a : AdapterRec) : Bool := !a.loaded && a.fin.isNone && a.shards.isEmpty

def adapterFieldsOk (d : BitVec 1024) : Bool :=
  dZeroBut d [(0, 40)] && decide (dHandle d = 0) && decide (416 ≤ dfield d 24 4) && decide (dfield d 24 4 ≤ 4194592) &&
  decide (dfield d 28 4 = 0)

def State.loadAdapter (s : State) (a : Acc) (m : List Byte) : State :=
  match a.bolt with
  | some b =>
    match (s.bolt b).current with
    | some e =>
      let c := s.checkManifest m 1 b 0
      let shards := mfShards m
      if c.2 ≠ ssOk then c.1.finish a c.2 []
      else match (List.range 256).find? fun k => (s.adapter k).free with
        | some k =>
          if mfBase m = e.modelId ∧ shards.foldl (fun n x => n + x.length) 0 = e.adapterBytes then
            let s' := c.1.setAdapter k { bolt := b, baseId := mfBase m, modelId := mfModel m, shards := shards, fin := some a.fin }
            if s'.poolFits b then (s'.fitPool b).requestAdapter k else c.1.finish a ssRejMemory []
          else c.1.invalid a
        | none => c.1.invalid a
    | none => s.invalid a
  | none => s.invalid a

def execLoadAdapter (q : Nat) (d : BitVec 1024) (manifest : List Byte) (s : State) : Out :=
  if adapterFieldsOk d = false ∨ manifest.length = dfield d 24 4 then
    onDesc 0x11 q d s fun s a => if adapterFieldsOk d then s.loadAdapter a manifest else s.invalid a
  else onQp q s fun s => s

end Sys2Proof.Machine
end

