-- ==== Sys2Proof/Machine/Span.lean ====
section
/-! DEFINITION. Links that train, retrain and fail, who is at their far end, the routes through the span, and the loss of a
bundle (R328, R330–R339). -/

namespace Sys2Proof.Machine

open Sys2Proof

/-! ## LINK_DOWN (R330) -/

/-- Lanes of a link in a state, one bit each. -/
def LinkRec.lanesIn (r : LinkRec) (st : Nat) : Nat :=
  packFields 1 8 fun k => boolNat (decide ((Tab.get {} r.lanes k : LaneRec).state = st))

def State.linkDown (s : State) (l cause sev : Nat) : State :=
  let r := s.link l
  s.reportSev (srcLink l) 0x0F sev (l + (r.lanesIn 3 <<< 6) + (cause <<< 14) + (r.peerEngine <<< 18))

/-! ## Routes in force (R335, R336, R338) -/

/-- Flits sent to an engine over a bundle wait there, or for their acknowledgement. -/
def State.onOldBundle (s : State) (h e : Nat) : Bool :=
  decide ((s.bundle h).unacked ≠ 0) || s.net.any fun n => decide (n.loc = .bundle h) && decide (gaEngine n.flit.dst = e)

/-- The next hops of the 64 destinations. -/
def State.hops (s : State) : List (Option Nat) := tabulate 64 s.hopOf

/-- A destination whose next hop has changed while flits for it stand on the old bundle waits for them (R336). -/
def State.rerouted (s : State) (old : List (Option Nat)) : State :=
  (List.range 64).foldl (fun s e => match old.getD e none with
    | some h =>
      if s.hopOf e ≠ some h ∧ s.bundleUp h = true ∧ s.onOldBundle h e = true ∧
          (s.span.routeOld.any fun r => decide (r.1 = e)) = false then
        { s with span := { s.span with routeOld := Tab.insert s.span.routeOld e (BitVec.ofNat 64 (h + 64)) } }
      else s
    | none => s) s

/-- ROUTE_SWITCH: what was sent on the old bundle is acknowledged, or the bundle is gone. -/
def execRouteSwitch (e : Nat) (s : State) : Out :=
  onUnit (decide (e < 64)) s fun s =>
    match s.span.routeOld.find? fun r => decide (r.1 = e) with
    | some (_, w) =>
      let h := bits w.toNat 0 6
      if s.bundleUp h && s.onOldBundle h e then s
      else ({ s with span := { s.span with routeOld := Tab.erase s.span.routeOld e } } : State).egressAgain e
    | none => s

/-- Engines of a bolt's span groups, but for this one. -/
def BoltRec.groupEngines (b : BoltRec) (own : Nat) : List Nat :=
  ((b.current.toList ++ b.other.toList).flatMap fun e => (e.chain.map fun x => x.1).filter fun x => decide (x ≠ own)).eraseDups

/-- A bundle has lost its last link: what stood in its replay buffers is gone; what still waited for it goes another way, and
the span groups that used it replay, or go FAULTED where no route is left (R338). -/
def State.loseBundle (s : State) (l h : Nat) (old : List (Option Nat)) : State :=
  let s := (s.linkDown l 3 2).setBundle h {}
  let wait := s.net.filter fun n => decide (n.loc = .bundle h)
  let s : State := { s with
    net := s.net.filter fun n => !decide (n.loc = .bundle h)
    span := { s.span with routeOld := s.span.routeOld.filter fun r => decide (bits r.2.toNat 0 6 ≠ h) } }
  let s := wait.foldl (fun s n => s.egress (l / 9) n.flit) s
  let lost := (List.range 64).filter fun e => decide (old.getD e none = some h)
  (List.range Config.nBolts).foldl (fun s b =>
    let r := s.bolt b
    let mine := (r.groupEngines s.engineNo).filter fun e => lost.contains e
    if mine = [] then s
    else if mine.any fun e => (s.hopOf e).isNone then
      let s := (r.current.toList ++ r.other.toList).foldl (fun s e => s.sayAll e msgLost []) s
      s.faultBolt b
    else s.pauseBolt b .span) s

/-- A lane of a link works: control flits go on it; and it carries data for an engine. -/
def State.laneWorks (s : State) (l k : Nat) : Bool :=
  let r := s.link l
  decide ((s.lane l k).state = 1) && r.inUse k && decide (r.state ≠ 3) && !r.disable
def State.laneCarries (s : State) (l k h : Nat) : Bool := s.laneWorks l k && s.carries l h

def dataOnly (l : List (BitVec 2048)) : List (BitVec 2048) := l.filter fun w => decide (auKind w = 1) || decide (auKind w = 2)

/-- A change of a link: data flits of lanes that carry no longer go to the other lanes of the bundle, with the control flits
of lanes that work no longer; routes follow, and a bundle without a link is lost. -/
def State.linkChange (s0 : State) (l : Nat) (f : State → State) : State :=
  let h := (s0.link l).peerEngine
  let old := s0.hops
  let s := f s0
  let stop := (List.range 8).filter fun k => s0.laneCarries l k h && !s.laneCarries l k h
  let dead := (List.range 8).filter fun k => s0.laneWorks l k && !s.laneWorks l k
  let left := stop.flatMap fun k => dataOnly (s0.lane l k).replay
  let kept := (stop.filter fun k => !dead.contains k).flatMap fun k => dataOnly (s0.lane l k).replay
  let calls := dead.flatMap fun k => ((s0.lane l k).replay.filter fun w => decide (auKind w = 3)).map fun w => (auBytes w).drop 8
  let s := dead.foldl (fun s k => s.setLane l k { s.lane l k with replay := [] }) s
  let s := if s0.bundleUp h && !s.bundleUp h then s.loseBundle l h old
    else s.setBundle h { s.bundle h with
      again := (s.bundle h).again ++ left
      unacked := (s.bundle h).unacked + kept.length
      controls := (s.bundle h).controls ++ calls }
  ((s.rerouted old).pumpBundle h).noteConds

/-! ## The far end of a link (R334) -/

/-- Both ends have committed a configuration. -/
def State.bothSet (s : State) (r : LinkRec) : Bool := s.span.cfg.getLsbD 6 && r.peerCfg

/-- The peer reports the engine's own number, or one that another serial reports. -/
def State.numberClash (s : State) (l : Nat) : Bool :=
  let r := s.link l
  decide (r.peerEngine = s.engineNo) ||
  (List.range Config.nLinks).any fun j =>
    let k := s.link j
    decide (k.peerSerial ≠ 0) && decide (k.peerSerial ≠ r.peerSerial) && k.peerCfg && decide (k.peerEngine = r.peerEngine)

def spanId (w : Word) : Nat := bits w.toNat 16 32

/-- The held checks of a link, by what its peer's last IDENT said. -/
def State.review (s : State) (l : Nat) : State :=
  let r := s.link l
  let foreign := s.bothSet r && decide (r.peerSpan ≠ spanId s.span.cfg)
  let conflict := s.bothSet r && s.numberClash l
  let st := if r.state = 1 ∨ r.state = 2 then (if foreign || conflict then 2 else 1) else r.state
  let s := if r.foreign = foreign ∧ r.conflict = conflict ∧ r.state = st then s
    else s.linkChange l fun s => s.modLink l fun r => { r with foreign := foreign, conflict := conflict, state := st }
  let s := if foreign && !r.foreign then s.linkDown l 5 1 else s
  if conflict && !r.conflict then s.linkDown l 4 1 else s

/-- Every link whose peer is known is reviewed. -/
def State.reviewAll (s : State) : State :=
  (List.range Config.nLinks).foldl (fun s l => if (s.link l).peerSerial = 0 then s else s.review l) s

/-- IDENT: peer status, membership of the bundle, and the held checks. -/
def execIdent (l k : Nat) (raw : BitVec 2048) (s : State) : Out :=
  onControl l k 1 raw s fun s =>
    (s.linkChange l fun s => s.modLink l fun r => { r with
      peerSerial := auField raw 9 8, peerSpan := auField raw 17 4, peerEngine := auByte raw 21 % 64
      peerCfg := bitAt (auByte raw 22) 0, identAt := s.time }).reviewAll

/-- The body of the engine's own IDENT. -/
def State.identBody (s : State) (l : Nat) : List Byte :=
  leBytes 1 1 ++ leBytes 8 Config.moduleSerial.toNat ++ leBytes 4 (spanId s.span.cfg) ++ leBytes 1 s.engineNo ++
  leBytes 1 (boolNat (s.span.cfg.getLsbD 6)) ++ leBytes 1 (l / 9) ++ leBytes 1 (l % 9)

/-- A trained lane sends an IDENT. -/
def execIdentSend (l k : Nat) (s : State) : Out :=
  onUnit (decide (l < Config.nLinks) && decide (k < 8)) s fun s =>
    whenS (s.laneHears l k && (s.lane l k).room) s fun s =>
      (s.setLane l k ((s.lane l k).push 3 0 0 (s.identBody l) 0)).modLink l fun r => { r with identsSent := r.identsSent + 1 }

/-! ## Messages between harnesses (R237, R328, R338) -/

/-- A message for this engine: of a load, or of a group that has lost a route. -/
def State.hear (s : State) (what b id : Nat) (x : List Byte) : State :=
  if b ≥ Config.nBolts then s
  else if what = msgLost then
    if (s.bolt b).current.any fun e => decide (1 < e.chain.length) && decide (e.manifestHash.toNat % 2 ^ 32 = id) then s.faultBolt b
    else s
  else if what = msgMoved then s.hearMoved b id x
  else s.hearLoad what b id x

/-- HARNESS: a message for this engine is taken; one for another engine goes on by the routes. -/
def execHarness (l k : Nat) (raw : BitVec 2048) (s : State) : Out :=
  onControl l k 3 raw s fun s =>
    let x := (auBytes raw).drop 9
    let to_ := leAt x 1 1
    let s := s.modHarn (4 * (l / 9)) fun h => { h with messages := h.messages ++ [((s.link l).peerSerial, leNat (x.take 231))] }
    if to_ = s.engineNo then
      let t := s.hear (leAt x 0 1) (leAt x 3 1) (leAt x 4 4) (x.drop 8)
      (List.range 64).foldl (fun s e => if (s.bundle e).controls = [] then s else s.pumpBundle e) t
    else
      let s := s.goodRoute to_
      match s.hopOf to_ with
      | some h => (s.sendControl h 3 ((x.take 231))).pumpBundle h
      | none => s

/-- No IDENT from any peer of a group for 10 ms, and every route to it gone: the bolt goes FAULTED. -/
def execSpanPeerSilence (b : Nat) (s : State) : Out :=
  onBolt b s fun s =>
    let peers := (s.bolt b).groupEngines s.engineNo
    let silent := (List.range Config.nLinks).all fun l =>
      !peers.contains (s.link l).peerEngine || decide ((s.link l).identAt + 10000000 ≤ s.time)
    whenS (!peers.isEmpty && peers.all (fun e => (s.hopOf e).isNone) && silent) s fun s => s.faultBolt b

/-! ## Training and retraining (R330) -/

/-- Lanes 0–3 or 4–7 of a link are all in a state. -/
def LinkRec.groupIn (r : LinkRec) (g st : Nat) : Bool :=
  (List.range 4).all fun k => decide ((Tab.get {} r.lanes (4 * g + k) : LaneRec).state = st)

/-- A link whose lanes in use are all up carries again. -/
def LinkRec.rise (r : LinkRec) : LinkRec :=
  let ok := if r.mode4 then r.groupIn (boolNat r.group) 1 else r.groupIn 0 1 && r.groupIn 1 1
  if r.state = 0 && ok && !r.disable then { r with state := 1 } else r

/-- LINK_TRAINING_DONE: the lanes that have trained, and the mode of the link. -/
def execLinkTrainingDone (l lanes : Nat) (s : State) : Out :=
  onLink l s fun s =>
    whenS (decide ((s.link l).state = 0) && !(s.link l).disable && !(s.link l).retrainReq) s fun s =>
      let up (k : Nat) : Bool := bitAt lanes k
      let s := (List.range 8).foldl (fun s k => s.setLane l k { state := if up k then 1 else 3 }) s
      let r := s.link l
      let a := r.groupIn 0 1
      let b := r.groupIn 1 1
      let s := s.linkChange l fun s => s.setLink l { r with
        mode4 := !(a && b), group := !a && b, state := if a || b then 1 else 3 }
      if a && b then s else if a || b then s.linkDown l 1 1 else s.linkDown l 6 2

/-- A lane begins to retrain: its unacknowledged flits go to other lanes. -/
def State.startRetrain (s : State) (l k : Nat) : State :=
  let s := s.linkChange l fun s =>
    let r := s.lane l k
    (s.setLane l k { r with
      state := 2, retrainStart := s.time, attempts := 0, retryTimes := [], nak := false
      retrainTimes := s.time :: r.retrainTimes.filter fun t => decide (s.time < t + 60000000000) }).modLink l fun x =>
        { x with retrains := satAdd 16 x.retrains 1 }
  s.modTotals fun t => { t with laneRetrains := Tab.put 0 t.laneRetrains l (satAdd 32 (Tab.get 0 t.laneRetrains l) 1) }

def execLaneRetrain (l k : Nat) (s : State) : Out :=
  onUnit (decide (l < Config.nLinks) && decide (k < 8)) s fun s =>
    let r := s.lane l k
    let recent := r.retryTimes.filter fun t => decide (s.time < t + 1000000)
    whenS (decide (r.state = 1) && (decide (8 ≤ r.attempts) || decide (16 < recent.length))) s fun s => s.startRetrain l k

/-- The end of LN_CTRL.retrain, once no lane of the link retrains. -/
def LinkRec.endRequest (r : LinkRec) : LinkRec := if r.lanesIn 2 = 0 then { r with retrainReq := false } else r

/-- RETRAIN_DONE: the lane carries flits again, from lane_seq 0 (log entry 39). -/
def execRetrainDone (l k : Nat) (s : State) : Out :=
  onUnit (decide (l < Config.nLinks) && decide (k < 8)) s fun s =>
    let r := s.lane l k
    whenS (decide (r.state = 2)) s fun s => s.linkChange l fun s =>
      (s.setLane l k { state := 1, retrainTimes := r.retrainTimes }).modLink l fun x => (x.endRequest).rise

/-- A lane has failed (Table 13.5). -/
def State.laneFails (s : State) (l k : Nat) : State :=
  let r := s.link l
  let s := s.linkChange l fun s =>
    (s.setLane l k { s.lane l k with state := 3 }).modLink l fun x =>
      let x := x.endRequest
      if !x.mode4 then ({ x with mode4 := true, group := decide (k < 4) } : LinkRec).rise
      else if k / 4 = boolNat x.group then { x with state := 3 }
      else x.rise
  if !r.mode4 then s.linkDown l 1 1
  else if k / 4 = boolNat r.group then s.linkDown l 2 2
  else s

/-- A retrain that has not completed after 10 ms, or the fifth within 60 s. -/
def execRetrainTimeout (l k : Nat) (s : State) : Out :=
  onUnit (decide (l < Config.nLinks) && decide (k < 8)) s fun s =>
    let r := s.lane l k
    let recent := r.retrainTimes.filter fun t => decide (s.time < t + 60000000000)
    whenS (decide (r.state = 2) && (decide (r.retrainStart + 10000000 ≤ s.time) || decide (5 ≤ recent.length))) s fun s =>
      s.laneFails l k

/-- LN_CTRL.retrain: every lane of the link retrains, failed lanes included, and all eight are tried again. -/
def State.lnRetrain (s : State) (l : Nat) : State :=
  let s := s.linkChange l fun s => s.modLink l fun r => { r with
    retrainReq := true, mode4 := false, group := false, state := if r.state = 3 then 0 else r.state }
  (List.range 8).foldl (fun s k => s.startRetrain l k) (s.modLink l fun r =>
    { r with lanes := r.lanes.map fun x => (x.1, { x.2 with retrainTimes := [] }) })

def execLnRetrain (f l : Nat) (s : State) : Out :=
  onUnit (decide (f < Config.nFunctions) && decide (l < Config.nLinks)) s fun s =>
    asAdmin f s fun s => whenS (!(s.link l).disable) s fun s => s.lnRetrain l

/-- LN_CTRL.disable: the link is held down; released, it trains again. -/
def State.lnDisable (s : State) (l : Nat) (on : Bool) : State :=
  if (s.link l).disable = on then s
  else s.linkChange l fun s =>
    (if on then s else (List.range 8).foldl (fun s k => s.setLane l k {}) s).modLink l fun r => { r with
      disable := on, state := if on then 3 else 0, retrainReq := false }

/-! ## SPAN_COMMIT (R334, R335, R339) -/

/-- A route word that SPAN_COMMIT refuses for an engine number. -/
def routeRefused (own : Nat) (w : Word) : Bool :=
  let v := wordVal w
  wordBad w || (bitAt v 6 && decide (bits v 0 6 = own)) || (bitAt v 13 && decide (bits v 7 6 = own))

def State.spanOk (s : State) : Bool :=
  let c := s.span.cfgSh.toNat
  let own := bits c 0 6
  ((List.range 64).all fun e => decide (e = own) || !routeRefused own (Tab.get rtReset s.span.routeSh e)) &&
  (decide (own = s.engineNo ∧ spanId s.span.cfgSh = spanId s.span.cfg) ||
    (List.range Config.nBolts).all fun b => decide ((s.bolt b).st = .none))

def State.spanCommit (s : State) : State :=
  let old := s.hops
  let s : State := { s with span := { s.span with
    cfg := s.span.cfgSh, route := s.span.routeSh, routeCopy := s.span.routeSh } }
  let s := s.reviewAll.rerouted old
  let s := (List.range 64).foldl (fun s e => s.egressAgain e) s
  (List.range 64).foldl (fun s e => s.pumpBundle e) s

/-- The rejection of a commit of a BAR0 group: its offset, from the function or harness core that wrote it (R379). -/
def State.rejectCommit (s : State) (source off : Nat) : State := s.report source 0x1F off

def execSpanCommit (f : Nat) (s : State) : Out :=
  onFunc f s fun s => asAdmin f s fun s => if s.spanOk then s.spanCommit else s.rejectCommit (srcFunc f) 0x09C008

end Sys2Proof.Machine
end

