-- ==== Sys2Proof/Machine/Power.lean ====
section
/-! DEFINITION. Treadle's upstream frames, telemetry and the power clamp, shorts, the switching of skeins, droop, input
power and the power-fail sequence (R342–R359). -/

namespace Sys2Proof.Machine

open Sys2Proof

/-- A change of every skein. -/
def State.mapSkeins (s : State) (f : SkeinRec → SkeinRec) : State :=
  { s with skeins := (List.range Config.nSkeins).filterMap fun k =>
      let r := f (s.skein k)
      if r = {} then none else some (k, r) }

def State.setPower (s : State) (r : PowerRec) : State := { s with power := r }

/-! ## Upstream frames (R342, R344, R345) -/

def frameData (w : BitVec 72) : Nat := bits w.toNat 0 64
def frameGood (w : BitVec 72) : Bool := decide (crc8 (leBytes 8 (frameData w)) = bits w.toNat 64 8)
def upOp (w : BitVec 72) : Nat := bits w.toNat 0 4
def upSeq (w : BitVec 72) : Nat := bits w.toNat 4 4
def upDomain (w : BitVec 72) : Nat := bits w.toNat 8 7
def upCurrent (w : BitVec 72) : Nat := bits w.toNat 15 15
def upVoltage (w : BitVec 72) : Nat := bits w.toNat 30 14
def upStatus (w : BitVec 72) : Nat := bits w.toNat 44 8
def upReason (w : BitVec 72) : Nat := bits w.toNat 52 3

/-- The domains of a lane. -/
def laneDomains (f : Nat) : List Nat := List.range (if f = 0 then 103 else 97)

/-- A valid frame has come: the lane is up, or, where it was lost, every domain is read before it is (R345). -/
def State.heard (s : State) (f : Nat) : State :=
  let r := s.field f
  if r.laneState = 0 then s.setField f { r with laneState := 1, upAt := s.time }
  else if r.laneState = 2 ∧ r.recovering = [] then
    (s.setField f { r with
      upAt := s.time, recovering := laneDomains f
      cmdQueue := (laneDomains f).map (fun d => trdWord opReadStatus d 0) ++ r.cmdQueue }).trdNext f
  else s.setField f { r with upAt := s.time }

/-- A frame of a kind on a lane: one that fails its CRC is discarded and counted. -/
def onFrame (f op : Nat) (w : BitVec 72) (s : State) (g : State → State) : Out :=
  onField f s fun s =>
    if !frameGood w then s.modField f fun r => { r with crcErrors := satAdd 16 r.crcErrors 1 }
    else if upOp w = op then
      let s := (g (s.heard f)).noteConds
      if s.headBad f then s else s.trdPump f
    else s

/-! ## Telemetry and the power clamp (R344, R352) -/

/-- PD_STATUS.state by the stage's status byte, with the switches as they are. -/
def SkeinRec.stateBy (r : SkeinRec) (status : Nat) : Nat :=
  if r.dead then 5
  else if !bitAt status 0 then 0
  else if r.state = 3 ∨ r.state = 4 then r.state
  else if bitAt status 1 then 2 else 1

def SkeinRec.take (r : SkeinRec) (w : BitVec 72) : SkeinRec :=
  { r with current := min (upCurrent w) 4095, voltage := min (upVoltage w) 4095, status := upStatus w, sag := none,
           state := r.stateBy (upStatus w) }

/-- κ_p after a TELEM, by the current in 10 mA. -/
def kappaNext (kappa i : Nat) : Nat := if 1200 < i then max 64 (kappa - 32) else if i < 1100 then min 256 (kappa + 8) else kappa

/-- An OVERCURRENT of a domain. -/
def State.overcurrent (s : State) (f domain i : Nat) : State :=
  (s.setPower { s.power with overcurrent := satAdd 16 s.power.overcurrent 1 }).report (srcTreadle f) 0x13 (domain + (i <<< 13))

def State.telemVcore (s : State) (f k : Nat) (w : BitVec 72) : State :=
  let r := s.skein k
  let i := upCurrent w
  let kappa := if s.power.pfSeen then 0 else min (kappaNext r.kappaP i) (if (s.field f).laneState = 2 then 128 else 256)
  let tell := decide (1200 < i) && (decide (r.overAt = 0) || decide (r.overAt - 1 + 10000000 ≤ s.time))
  let s := s.setSkein k { r.take w with
    kappaP := kappa, telemAt := s.time, stale := false, overAt := if tell then s.time + 1 else r.overAt }
  (if tell then s.overcurrent f k i else s).noteHeld

/-! ## Shorts (R354–R356) -/

/-- All cores of a list are DEAD. -/
def State.killCores (s : State) (l : List Nat) : State :=
  l.foldl (fun s c => s.modCore c fun r => { r.discardFlight with st := .dead, wait := none }) s

/-- A skein's turn-on, its request and its caps on neighbours end. -/
def State.dropTurnOn (s : State) (k : Nat) : State :=
  let s := s.modSkein k fun r => { r with
    turnOnReq := none, turnOnAt := none, capsAt := none, heldSince := none, waited := false, heldCtrl := none }
  (neighbours k).foldl (fun s j => s.modSkein j fun r => { r with caps := r.caps.filter fun c => c.1 ≠ k }) s

/-- PD_CTRL with enable and logic cleared. -/
def SkeinRec.disabled (r : SkeinRec) : SkeinRec := r.setCtrl (setBits (setBits (wordVal r.ctrl) 9 1 0) 12 1 0)

/-- A domain short: the skein is dead; its routers are detoured and its bolt moves what stood there. -/
def State.shortSkein (s : State) (k reason : Nat) : State :=
  if (s.skein k).dead then s
  else
    let f := fieldOfSkein k
    let s := s.report (srcTreadle f) 0x14 (k + (reason <<< 13))
    let s := (s.trdSend f (trdWord opDisable (domainOf k) 0)).trdSend f (trdWord opFaultAck (domainOf k) 0)
    let s := (s.dropTurnOn k).modSkein k fun r => { r.disabled with dead := true, state := 5, gate := none }
    let b := s.boltAt (skeinCore k 0)
    let s := (s.killCores (skeinCores k)).loseRouters (LostBox.ofSkein k)
    let s := match b with
      | some b => s.upset b (.skein k)
      | none => s
    s.noteConds

/-- The skeins of a field. -/
def fieldSkeins (f : Nat) : List Nat := (List.range 96).map (skeinOfDomain f)

/-- A field loses its arrays. -/
def State.shortField (s : State) (f reason : Nat) (ack : Bool) : State :=
  if (s.field f).vaLost then s
  else
    let s := s.report (srcTreadle f) 0x14 (4608 + f + (reason <<< 13))
    let s := s.modField f fun r => { r with vaLost := true }
    let s := (fieldSkeins f).foldl (fun s k =>
      ((s.trdSend f (trdWord opDisable (domainOf k) 0)).dropTurnOn k).modSkein k fun r =>
        { r.disabled with state := if r.dead then 5 else 0, gate := none }) s
    let s := if ack then s.trdSend f (trdWord opFaultAck 96 0) else s
    let s := (fieldSkeins f).foldl (fun s k => s.killCores (skeinCores k)) s
    let s := (List.range Config.nBolts).foldl (fun s b =>
      if (s.bolt b).skeins.any fun k => decide (fieldOfSkein k = f) then s.faultNow b else s) s
    (s.loseRouters (LostBox.ofField f)).noteConds

/-- The reason bits of a short that no FAULT frame has reported: a free value. -/
def State.openReason (s : State) : Nat × State :=
  let q := s.takeFree
  ((Config.freeWord q.1).toNat % 8, q.2)

def State.telemVarr (s : State) (f : Nat) (w : BitVec 72) : State :=
  let r := s.field f
  let i := upCurrent w
  let tell := decide (10000 < i) && (decide (r.vaOverAt = 0) || decide (r.vaOverAt - 1 + 10000000 ≤ s.time))
  let s := s.setField f { r with
    vaCurrent := i, vaVoltage := upVoltage w, vaStatus := upStatus w, vaOverAt := if tell then s.time + 1 else r.vaOverAt }
  let s := if tell then s.overcurrent f (4608 + f) i else s
  if bitAt (upStatus w) 0 ∧ upVoltage w < 600 ∧ r.vaLost = false then
    let q := s.openReason
    q.2.shortField f q.1 false
  else s

/-- The latest telemetry of an auxiliary rail. -/
def State.telemAux (s : State) (d : Nat) (w : BitVec 72) : State :=
  s.setPower { s.power with aux := Tab.put (0, 0) s.power.aux d (upCurrent w, upVoltage w) }

def State.telem (s : State) (f : Nat) (w : BitVec 72) : State :=
  let d := upDomain w
  if d < 96 then s.telemVcore f (skeinOfDomain f d) w
  else if d = 96 then s.telemVarr f w
  else if f = 0 ∧ d ≤ 102 then s.telemAux d w
  else s

def execTelem (f : Nat) (w : BitVec 72) (s : State) : Out := onFrame f 1 w s fun s => s.telem f w

/-! ## ACK, NAK, STATUS (R343, R345) -/

/-- The outstanding command of a lane, where the frame echoes its number. -/
def FieldRec.echoed (r : FieldRec) (w : BitVec 72) : Option Word :=
  r.cmd.bind fun c => if bits c.1.toNat 4 4 = upSeq w then some c.1 else none

/-- What an acknowledged command has done at the stage. -/
def State.acked (s : State) (f : Nat) (c : Word) : State :=
  let d := trdDomain c
  let op := trdOp c
  if op = opFaultAck then
    s.modField f fun r => { r with alert := r.alert && r.cmdQueue.any fun p => decide (trdOp p = opFaultAck) }
  else if d < 96 then s.modSkein (skeinOfDomain f d) fun r =>
    if op = opEnable ∧ r.state = 0 ∧ r.dead = false then { r with state := 1 }
    else if op = opDisable ∧ r.dead = false then { r with state := 0 } else r
  else s

def execTreadleAck (f : Nat) (w : BitVec 72) (s : State) : Out :=
  onFrame f 2 w s fun s => match (s.field f).echoed w with
    | some c => ((s.modField f fun r => { r with cmd := none }).acked f c).trdNext f
    | none => s

def execTreadleNak (f : Nat) (w : BitVec 72) (s : State) : Out :=
  onFrame f 3 w s fun s =>
    let s := s.modField f fun r => { r with naks := satAdd 8 r.naks 1 }
    match (s.field f).echoed w with
    | some _ => (s.modField f fun r => { r with cmd := none }).trdNext f
    | none => s

/-- What a STATUS says of a domain. -/
def State.statusOf (s : State) (f : Nat) (w : BitVec 72) : State :=
  let d := upDomain w
  if d < 96 then s.modSkein (skeinOfDomain f d) fun r => r.take w
  else if d = 96 then s.modField f fun r => { r with
    vaCurrent := upCurrent w, vaVoltage := upVoltage w, vaStatus := upStatus w }
  else if f = 0 ∧ d ≤ 102 then s.telemAux d w
  else s

/-- A STATUS; the last one of a recovery lifts the restrictions of a lost lane. -/
def execTreadleStatus (f : Nat) (w : BitVec 72) (s : State) : Out :=
  onFrame f 5 w s fun s =>
    let s := (s.statusOf f w).modField f fun r =>
      let left := r.recovering.filter fun d => d ≠ upDomain w
      { r with recovering := left, laneState := if r.laneState = 2 ∧ r.recovering ≠ [] ∧ left = [] then 1 else r.laneState }
    match (s.field f).echoed w with
    | some c => if trdOp c = opReadStatus then (s.modField f fun r => { r with cmd := none }).trdNext f else s
    | none => s.trdNext f

/-! ## FAULT, TRD_ALERT (R354–R356) -/

def execTreadleFault (f : Nat) (w : BitVec 72) (s : State) : Out :=
  onFrame f 4 w s fun s =>
    let d := upDomain w
    if d < 96 then s.shortSkein (skeinOfDomain f d) (upReason w)
    else if d = 96 then s.shortField f (upReason w) true
    else if f = 0 ∧ d ≤ 102 then s.reportSev (srcTreadle 0) 0x14 3 (4656 + (d - 97) + (upReason w <<< 13))
    else s

def execTrdAlert (f : Nat) (s : State) : Out := onField f s fun s => s.modField f fun r => { r with alert := true }

/-! ## Lost lanes and stale domains (R345) -/

def State.loseLane (s : State) (f : Nat) : State :=
  let s := s.modField f fun r => { r with
    laneState := 2, recovering := [], cmd := none
    cmdQueue := (match r.cmd with
      | some c => [BitVec.ofNat 64 (setBits c.1.toNat 4 4 0)]
      | none => []) ++ r.cmdQueue }
  let s := s.reportSev (srcTreadle f) 0x1E 2 (1 + (f <<< 2))
  ((fieldSkeins f).foldl (fun s k => s.modSkein k fun r => { r with kappaP := min r.kappaP 128 }) s).noteConds

/-- 20 µs without an answer: the command is sent again, up to three times; then the lane is lost. -/
def execTreadleRetryTimeout (f : Nat) (s : State) : Out :=
  onField f s fun s =>
    let r := s.field f
    match r.cmd with
    | some (w, n, t) =>
      if s.time < t + 20000 then s
      else if n < 4 then s.setField f { r with cmd := some (w, n + 1, s.time), sent := r.sent ++ [w] }
      else s.loseLane f
    | none => s

/-- A VCORE domain without TELEM for 300 µs is stale; the other domains of a lane have no mark of it. -/
def execTelemStale (f d : Nat) (s : State) : Out :=
  onField f s fun s => whenS (decide (d < 96)) s fun s =>
    s.modSkein (skeinOfDomain f d) fun r => if r.telemAt + 300000 ≤ s.time then { r with stale := true } else r

def execTreadleLaneLoss (f : Nat) (s : State) : Out :=
  onField f s fun s =>
    let r := s.field f
    whenS (decide (r.laneState = 1) && decide (r.upAt + 1000000 ≤ s.time)) s fun s => s.loseLane f

/-! ## Switching a skein's logic (R348–R350) -/

/-- A turn-on starts. -/
def State.startTurnOn (s : State) (k : Nat) : State :=
  let s := s.modSkein k fun r =>
    { r.setCtrl (setBits (wordVal r.ctrl) 12 1 1) with state := 3, turnOnAt := some s.time, turnOnReq := none, heldSince := none }
  s.setPower { s.power with turnOns := satAdd 16 s.power.turnOns 1 }

/-- The neighbours' currents no longer hold the start: none is hot, or their caps were set 2 µs ago. -/
def State.neighboursAllow (s : State) (k : Nat) : Bool :=
  (s.hotNeighbours k).isEmpty || (match (s.skein k).capsAt with
    | some t => decide (t + 2000 ≤ s.time)
    | none => false)

def execSkeinTurnOnStart (k : Nat) (s : State) : Out :=
  onSkein k s fun s => whenS (s.turnOnReady k && s.neighboursAllow k) s fun s => s.startTurnOn k

/-- A turn-on held 1 ms by hot neighbours alone caps each of them. -/
def State.capNeighbours (s : State) (k : Nat) : State :=
  let hot := s.hotNeighbours k
  let s := hot.foldl (fun s j => s.modSkein j fun r =>
    let a := r.allowance.toNat
    { r with caps := r.caps ++ [(k, if a = 0 then 256 else min 256 (320 * 256 / a))] }) s
  (s.setPower { s.power with neighbourCaps := satAdd 16 s.power.neighbourCaps hot.length }).modSkein k fun r =>
    { r with capsAt := some s.time }

def execNeighbourCap (k : Nat) (s : State) : Out :=
  onSkein k s fun s =>
    let r := s.skein k
    let held := match r.heldSince with
      | some t => decide (t + 1000000 ≤ s.time)
      | none => false
    whenS (s.turnOnReady k && !(s.hotNeighbours k).isEmpty && held && r.capsAt.isNone) s fun s => s.capNeighbours k

/-- The bolt's pause for a coolant stop ends once every skein of it is on again (R372). -/
def State.coolantAdvance (s : State) : State :=
  if s.thermal.stopAt.isSome then s
  else (List.range Config.nBolts).foldl (fun s b =>
    let r := s.bolt b
    if r.pauses.contains .coolant && r.skeins.all s.skeinAwake then
      s.setBolt b { r with pauses := r.pauses.filter fun w => w ≠ .coolant, timersSuspended := false }
    else s) s

/-- Group 7 is IDLE: the skein has turned on, caps go, and what waited for it goes on. -/
def State.turnedOn (s : State) (k : Nat) : State :=
  let off := (skeinCores k).filter fun c => decide ((s.core c).st = .off)
  let s := off.foldl (fun s c => s.modCore c fun r => { r with st := .idle, missed := 0, beatSeen := false }) s
  let held := (s.skein k).heldCtrl
  let s := (s.dropTurnOn k).modSkein k fun r => { r with state := 4 }
  let s := match held with
    | some w => s.applyCtrl k (setBits (wordVal w) 12 1 1)
    | none => s
  let s := match s.boltAt (skeinCore k 0) with
    | some b => if (s.bolt b).scrubs && (s.bolt b).drained then s.scrubSites b off else s
    | none => s
  s.boltsAdvance.coolantAdvance

def execSkeinTurnOnDone (k : Nat) (s : State) : Out :=
  onSkein k s fun s => whenS (decide ((s.skein k).state = 3)) s fun s => s.turnedOn k

/-- The floor of the ramp limit in W (R375). -/
def State.powerFloor (s : State) : Nat :=
  match s.thermal.fall with
  | some (ref, t) => ref - 2 * (s.time - t) / 1000000
  | none => 0

/-- Every core is IDLE, FENCED or DEAD; the lane is there, and the ramp limit allows it. -/
def State.mayTurnOff (s : State) (k : Nat) : Bool :=
  decide ((s.skein k).state = 4) && decide ((s.field (fieldOfSkein k)).laneState ≠ 2) &&
  (skeinCores k).all (fun c => decide ((s.core c).st ∈ [.idle, .fenced, .dead])) &&
  (!s.thermal.warmEnable || decide (2 ≤ s.thermal.stopStep) || decide (s.powerFloor ≤ s.power.totalW))

/-- The header switches of a skein open. -/
def State.turnOff (s : State) (k : Nat) : State :=
  let s := (skeinCores k).foldl (fun s c => s.modCore c fun r => if r.st = .fenced ∨ r.st = .dead then r else { r with st := .off }) s
  s.modSkein k fun r => { r.setCtrl (setBits (wordVal r.ctrl) 12 1 0) with state := 2, turnOffAt := some s.time }

def execSkeinTurnOff (k : Nat) (s : State) : Out :=
  onSkein k s fun s => whenS (s.mayTurnOff k) s fun s => s.turnOff k

/-! ## Droop and undervoltage (R351) -/

/-- A monitor's sample of a droop: the lowest one is kept with its time, and the islands follow it (R36, R351). -/
def SkeinRec.sample (r : SkeinRec) (mv now : Nat) : SkeinRec :=
  { (if r.vmin = 0 ∨ mv < r.vmin then { r with vmin := min mv 1023, vminTime := now } else r) with sag := some mv }

/-- Depth of a sample below the code voltage, in mV. -/
def SkeinRec.depth (r : SkeinRec) (mv : Nat) : Nat := pdCode r.ctrl * 5 / 2 - mv

def State.noteDepth (s : State) (k depth : Nat) : State :=
  s.modTotals fun t => if t.deepestMv < depth then { t with deepestMv := depth, deepestSkein := k } else t

def State.droopReport (s : State) (k sev depth gate : Nat) : State :=
  ((s.modSkein k fun r => { r with droop := true }).noteDepth k depth).reportSev (srcSkein k) 0x12 sev
    (k + (min depth 1023 <<< 13) + (gate <<< 23))

def execDroop (k mv : Nat) (s : State) : Out :=
  onSkein k s fun s =>
    let s := s.modSkein k fun r => r.sample mv s.time
    let r := s.skein k
    let low := decide (0 < s.power.droopMv) && decide (2 * (mv + s.power.droopMv) < 5 * pdCode r.ctrl)
    whenS (low && (decide (r.droopAt = 0) || decide (r.droopAt - 1 + 1000000 ≤ s.time))) s fun s =>
      (s.modSkein k fun r => { r with droopAt := s.time + 1 }).droopReport k 1 (r.depth mv) 0

def execUndervoltageGate (k mv : Nat) (s : State) : Out :=
  onSkein k s fun s => whenS (decide (mv < 530) && (s.skein k).gate.isNone && !(s.skein k).dead) s fun s =>
    let s := s.modSkein k fun r => { r.sample mv s.time with gate := some s.time }
    s.droopReport k 2 ((s.skein k).depth mv) 1

def execUndervoltageRelease (k : Nat) (s : State) : Out := onSkein k s fun s => s.modSkein k fun r => { r with gate := none, sag := none }

def execUndervoltageTimeout (k : Nat) (s : State) : Out :=
  onSkein k s fun s => match (s.skein k).gate with
    | some t =>
      if t + 1000000 ≤ s.time then
        let q := s.openReason
        q.2.shortSkein k q.1
      else s
    | none => s

/-! ## Input power (R353) -/

/-- Sums in 10 µW: VCORE, VARR and the other rails. -/
def State.vcoreSum (s : State) : Nat := s.skeins.foldl (fun a e => a + e.2.current * e.2.voltage) 0
def State.varrSum (s : State) : Nat := s.fields.foldl (fun a e => a + e.2.vaCurrent * e.2.vaVoltage) 0
def State.auxSum (s : State) : Nat := s.power.aux.foldl (fun a e => a + 10 * e.2.1 * e.2.2) 0

def State.inputPowerSum (s : State) : State :=
  let total := s.vcoreSum + s.varrSum + s.auxSum
  let limit := Config.inputLimit s.configCode
  let above := decide (100000 * limit < total)
  let p := { s.power with
    totalW := min (total / 100000) (2 ^ 20 - 1), vcoreW := min (s.vcoreSum / 100000) (2 ^ 20 - 1)
    varrW := min (s.varrSum / 100000) 4095, otherW := min (s.auxSum / 100000) 4095
    overSums := if above then s.power.overSums + 1 else 0
    inputClamp := s.power.inputClamp && decide (95000 * limit ≤ total) }
  let s := s.setPower p
  if above && (p.inputClamp || decide (10 ≤ p.overSums)) then
    let s := s.mapSkeins fun r => { r with kappaP := r.kappaP * 100000 * limit / total }
    if p.inputClamp then s else (s.setPower { p with inputClamp := true }).report srcPower 0x06 (2 ^ 35)
  else s

def execInputPowerSum (s : State) : Out := .next s.inputPowerSum

/-! ## PW_COMMIT (R347) -/

/-- The source number of a commit's writer (R379). -/
def writerSource : Writer → Nat
  | .host f => srcFunc f
  | .harness h => srcHarness h

def writerUnit : Writer → Bool
  | .host f => decide (f < Config.nFunctions)
  | .harness h => decide (h < Config.nHarness)

/-- The harness may commit; host software only as the admin function in bench configuration. -/
def State.mayCommit (s : State) : Writer → Bool
  | .host f => adminFn f && decide (s.thermal.config = 3)
  | .harness _ => true

def pdRefused (w : Word) : Bool := wordBad w || (pdEnable w && !(decide (220 ≤ pdCode w) && decide (pdCode w ≤ 352)))

def State.pwCommit (s : State) (w : Writer) : State :=
  if s.skeins.any fun e => pdRefused e.2.ctrlSh then s.rejectCommit (writerSource w) 0x040030
  else (s.skeins.filter fun e => decide (e.2.ctrlSh ≠ e.2.ctrl)).foldl (fun s e => s.commitCtrl e.1 (wordVal e.2.ctrlSh)) s

def execPwCommit (w : Writer) (s : State) : Out :=
  onUnit (writerUnit w) s fun s => if s.mayCommit w then s.pwCommit w else s.refuseAccess

/-! ## Power-fail (R357, R413) -/

/-- A failure that ends the boot, while one runs (Table 17.12). -/
def State.bootFail (s : State) (n : Nat) : State :=
  if 1 ≤ s.boot.stage ∧ s.boot.stage ≤ 5 then
    { s with boot := { s.boot with stage := 7, step := 0, fail := n, shed := .f } } else s

def State.powerFail (s : State) : State :=
  let s := s.mapSkeins fun r => { r with kappaP := 0, turnOnReq := none }
  let s := (s.setPower { s.power with pfSeen := true }).reportSev srcPower 0x1E 3 0
  let s := s.modTotals fun t => { t with powerFails := satAdd 32 t.powerFails 1 }
  ((s.ledgerStore true true).bootFail 5).halt 4

def execPowerFail (s : State) : Out := .next (whenS (!s.power.pfSeen) s State.powerFail)

end Sys2Proof.Machine
end

