-- ==== Sys2Proof/Machine/Thermal.lean ====
section
/-! DEFINITION. Cooling: skein sensors and throttling, the tray's hub, the cooling clamp, the coolant stop, the trip, and
warm-keep with the ramp limit (R360–R376). Temperatures are codes of 0.25 °C above −64 °C, or hundredths of a degree where
the hub gives them. -/

namespace Sys2Proof.Machine

open Sys2Proof

def State.setThermal (s : State) (r : ThermalRec) : State := { s with thermal := r }

/-- The code of a whole temperature in °C (R363). -/
def tempCode (c : Nat) : Nat := (c + 64) * 4

/-- The code of a temperature in 0.01 °C, rounded down and held to 10 bits. -/
def centiCode (t : Int) : Nat := min 1023 ((t + 6400) / 25).toNat

/-! ## The used temperature (R363, R364) -/

/-- −20 to 130 °C. -/
def sampleValid (c : Nat) : Bool := decide (176 ≤ c) && decide (c ≤ 776)

/-- |A − B| ≤ 6 °C. -/
def agrees (x : Nat × Nat) : Bool := decide (x.1 ≤ x.2 + 24) && decide (x.2 ≤ x.1 + 24)

/-- Over three samples, newest first, one sensor rose and the other fell, each by at least 0.5 °C. -/
def opposite : List (Nat × Nat) → Bool
  | [n, _, o] => (decide (o.1 + 2 ≤ n.1) && decide (n.2 + 2 ≤ o.2)) || (decide (n.1 + 2 ≤ o.1) && decide (o.2 + 2 ≤ n.2))
  | _ => false

/-- Weight of a neighbour: 2 at an edge, 1 at a corner. -/
def neighbourWeight (k j : Nat) : Nat := if skeinX k = skeinX j ∨ skeinY k = skeinY j then 2 else 1

/-- E as a sum and its weights, over neighbours neither dead nor in estimate mode; with none left, the highest T_s of the
field's other skeins. -/
def State.estimateOf (s : State) (k : Nat) : Nat × Nat :=
  let l := (neighbours k).filter fun j => decide ((s.skein j).mode ≠ 2) && !(s.skein j).dead
  if l.isEmpty then (((fieldSkeins (fieldOfSkein k)).filter fun j => decide (j ≠ k)).foldl (fun a j => max a (s.skein j).used) 0, 1)
  else l.foldl (fun a j => (a.1 + neighbourWeight k j * (s.skein j).used, a.2 + neighbourWeight k j)) (0, 0)

/-- E + 5 °C. The rounding of a mean between two codes is open: a free bit chooses the code. -/
def State.estimate (s : State) (k : Nat) : Nat × State :=
  let e := s.estimateOf k
  let lo := e.1 / e.2
  if e.1 % e.2 = 0 then (min 1023 (lo + 20), s)
  else
    let q := s.takeFree
    (min 1023 (lo + boolNat (Config.freeBit q.1) + 20), q.2)

/-- The next mode of a skein and its record of samples (Table 15.3). -/
def SkeinRec.nextMode (r : SkeinRec) (a b : Nat) : SkeinRec :=
  let va := sampleValid a
  let vb := sampleValid b
  let r := { r with tempA := a % 1024, tempB := b % 1024 }
  if va && vb then
    let l := ((a, b) :: r.samples).take 3
    let run := if agrees (a, b) then r.agreeRun + 1 else 0
    let apart := decide (l.length = 3) && l.all fun x => !agrees x
    let r := { r with samples := l, agreeRun := run }
    if r.mode ≠ 0 ∧ 100 ≤ run then { r with mode := 0 }
    else if apart && opposite l then { r with mode := 2 }
    else if apart && decide (r.mode = 0) then
      { r with mode := 1, suspectA := r.suspectA || decide (a < b), suspectB := r.suspectB || decide (b < a) }
    else r
  else { r with samples := [], agreeRun := 0, mode := if va || vb then r.mode else 2 }

/-- SENSOR_DISAGREE, on entry into disagree or estimate mode. No sensor is marked for an estimate: its detail bit is a free
value there. -/
def State.disagreeReport (s : State) (k a b : Nat) (est : Bool) : State :=
  let q := s.takeFree
  let s := if est then q.2 else s
  let sus := if est then Config.freeBit q.1 else decide (b < a)
  (s.setThermal { s.thermal with disagree := satAdd 16 s.thermal.disagree 1 }).report (srcSkein k) 0x17
    (k + (boolNat sus <<< 13) + (boolNat est <<< 14) + ((a % 1024) <<< 15) + ((b % 1024) <<< 25))

/-- A sample of both sensors gives the skein its used temperature. -/
def State.sense (s : State) (k a b : Nat) : State :=
  let old := (s.skein k).mode
  let r := (s.skein k).nextMode a b
  let s := s.setSkein k r
  let s := if r.mode ≠ old ∧ r.mode ≠ 0 then s.disagreeReport k a b (decide (r.mode = 2)) else s
  if r.mode = 2 then
    let q := s.estimate k
    q.2.modSkein k fun r => { r with used := q.1 }
  else s.modSkein k fun r => { r with
    used := if sampleValid a && sampleValid b then max a b else if sampleValid a then a else b }

/-! ## Throttling inside a skein (R365) -/

/-- The q of the core with the greatest heavy charge of the last 100 µs. -/
def State.hottest (s : State) (k : Nat) : Nat :=
  (List.range 64).foldl (fun best q =>
    if (s.core (skeinCore k best)).heavy100 < (s.core (skeinCore k q)).heavy100 then q else best) 0

/-- The hot core's stretch set. -/
def State.stretchHot (s : State) (k n : Nat) : State :=
  (s.modCore (skeinCore k (s.skein k).hotQ) fun c => { c with stretch := n }).modSkein k fun r => { r with
    hotStretch := n, warnEp := decide (n ≠ 0), critEp := r.critEp && decide (n ≠ 0) }

def State.warnActions (s : State) (k : Nat) : State :=
  let r := s.skein k
  let t := r.used
  let now := (s.core (skeinCore k r.hotQ)).stretch
  if tempCode 95 ≤ t then
    if r.warnEp then s.stretchHot k (min 15 (now + 1))
    else
      let q := s.hottest k
      let s := (s.modSkein k fun r => { r with hotQ := q }).stretchHot k (min 15 ((s.core (skeinCore k q)).stretch + 1))
      (s.setThermal { s.thermal with warn := satAdd 16 s.thermal.warn 1 }).report (srcSkein k) 0x15 (k + (t <<< 13))
  else if t < tempCode 92 ∧ r.warnEp = true then s.stretchHot k (now - 1)
  else s

def kappaSNext (kappa t : Nat) : Nat :=
  if tempCode 105 ≤ t then 0
  else if tempCode 100 ≤ t then kappa - 16
  else if t < tempCode 97 then min 256 (kappa + 8) else kappa

def State.critActions (s : State) (k : Nat) : State :=
  let r := s.skein k
  let t := r.used
  let s := s.setSkein k { r with kappaS := kappaSNext r.kappaS t, critEp := r.critEp || decide (tempCode 105 ≤ t) }
  if tempCode 105 ≤ t ∧ r.critEp = false then
    (s.setThermal { s.thermal with crit := satAdd 16 s.thermal.crit 1 }).reportSev (srcSkein k) 0x16 2 (k + (t <<< 13))
  else s

/-- The ledger's maxima of T_s (Table 16.11). -/
def LedgerRec.noteTemp (r : LedgerRec) (k t : Nat) : LedgerRec :=
  let f := fieldOfSkein k
  { r with
    tMax := max r.tMax t, tMaxSkein := if r.tMax < t then k else r.tMaxSkein
    fieldMax := Tab.put 0 r.fieldMax f (max t (Tab.get 0 r.fieldMax f)) }

/-! ## Coolant stop (R370–R372) -/

/-- F in 0.1 L/min, or a in 1/1,000, as a report gives it. -/
def State.flowField (s : State) (f : Nat) : Nat :=
  if s.thermal.config = 1 then min 1023 (1000 * f / (4 * s.thermal.rpmNom)) else min 1023 (f / 10)

def validFans (r : ThermalRec) : List Nat := r.fans.zipIdx.map fun x => if bitAt r.valid (3 + x.2) then x.1 else 0

/-- The latest flow reading: 0.01 L/min, or the sum of the fans in RPM with invalid ones as 0; a lost hub stands for half of
nominal (R367, R368). -/
def State.flowNow (s : State) : Nat :=
  let r := s.thermal
  if r.config = 1 then (if r.hubLost then 2 * r.rpmNom else (validFans r).sum)
  else if r.hubLost then 5 * r.flowNom else r.flow

/-- Nominal in the same unit. -/
def State.flowNominal (s : State) : Nat := if s.thermal.config = 1 then 4 * s.thermal.rpmNom else 10 * s.thermal.flowNom

/-- COOLANT_FLOW_LOSS of a step. -/
def State.flowLossReport (s : State) (step : Nat) : State :=
  s.reportSev srcThermal 0x19 (if step = 3 then 3 else 2) (step + (s.flowField s.flowNow <<< 2))

/-- Step 1. -/
def State.stopStep1 (s : State) : State :=
  let r := s.thermal
  let s := s.setThermal { r with
    kappaC := 25, stopAt := some s.time, stopStep := 1, okRun := 0, flowLoss := satAdd 8 r.flowLoss 1 }
  ((s.modTotals fun t => { t with coolantStops := satAdd 16 t.coolantStops 1 }).flowLossReport 1).noteConds

/-- Step 3: a ledger record, the request for power-off, and no more ALIVE. -/
def State.stopStep3 (s : State) : State :=
  let s := (s.ledgerStore true true).flowLossReport 3
  let s := s.setThermal { s.thermal with stopStep := 3 }
  ({ s with boot := { s.boot with offReq := true } } : State).halt 6

/-- Step 3 falls due on a T_s above 95 °C while a stop is active. -/
def State.checkStep3 (s : State) (k : Nat) : State :=
  if s.thermal.stopAt.isSome ∧ s.thermal.stopStep < 3 ∧ tempCode 95 < (s.skein k).used then s.stopStep3 else s

/-- After step 2 of a stop that is over: with every T_s at most 80 °C the skeins are turned on again, and codes are set; the
bolts resume as their skeins come up (R372). -/
def State.coolantRecover (s : State) : State :=
  if s.thermal.stopStep = 2 ∧ s.thermal.stopAt.isNone ∧
      (s.skeins.all fun e => e.2.dead || decide (e.2.used ≤ tempCode 80)) = true then
    let s := s.setThermal { s.thermal with stopStep := 0 }
    let off := (List.range Config.nSkeins).filter fun k => decide ((s.skein k).state = 2)
    ((s.reCode off s.occupied).requestTurnOns off).coolantAdvance
  else s

/-! ## SKEIN_SENSOR_SAMPLE -/

def State.sensorSample (s : State) (k a b : Nat) : State :=
  let s := s.sense k a b
  let s := (s.warnActions k).critActions k
  let s := (skeinCores k).foldl (fun s c => s.modCore c fun r => { r with heavy100 := 0 }) s
  let s := s.modTotals fun t => t.noteTemp k (s.skein k).used
  ((s.checkStep3 k).coolantRecover).noteConds

def execSkeinSensorSample (k a b : Nat) (s : State) : Out :=
  onSkein k s fun s => whenS (!(s.skein k).dead) s fun s => s.sensorSample k a b

/-! ## HUB_READ (R366–R372) -/

def hubBytes (w : BitVec 128) : List Byte := leBytes 16 w.toNat

/-- The record is whole and every field that the configuration requires is valid. -/
def hubGood (config : Nat) (acked : Bool) (w : BitVec 128) : Bool :=
  let valid := bits w.toNat 112 8
  acked && decide (crc8 ((hubBytes w).take 15) = bits w.toNat 120 8) &&
  (if config = 0 then decide (valid % 8 = 7) else if config = 1 then bitAt valid 0 else true)

/-- The readings of a record whose CRC is right; a field marked invalid keeps its latest reading. -/
def ThermalRec.takeRecord (r : ThermalRec) (w : BitVec 128) : ThermalRec :=
  let v := bits w.toNat 112 8
  { r with
    valid := v
    inlet := if bitAt v 0 then sext 16 (bits w.toNat 0 16) else r.inlet
    outlet := if bitAt v 1 then sext 16 (bits w.toNat 16 16) else r.outlet
    flow := if bitAt v 2 then bits w.toNat 32 16 else r.flow
    fans := r.fans.zipIdx.map fun x => if bitAt v (3 + x.2) then bits w.toNat (48 + 16 * x.2) 16 else x.1 }

/-- The hub is lost: COOLANT_FLOW_LOW with cause 2. -/
def State.lowReport (s : State) (cause : Nat) : State :=
  let r := s.thermal
  let inlet := if r.hubLost && !bitAt r.valid 0 then (if r.config = 1 then 3500 else 4000) else r.inlet
  s.report srcThermal 0x18 (s.flowField s.flowNow + (centiCode inlet <<< 10) + (r.kappaC <<< 20) + (cause <<< 29))

def State.hubLose (s : State) : State :=
  (s.setThermal { s.thermal with hubLost := true, hubOk := false, goodReads := 0 }).lowReport 2

/-- A failed read. -/
def State.hubFail (s : State) : State :=
  let r := s.thermal
  let s := s.setThermal { r with failedReads := r.failedReads + 1, goodReads := 0 }
  if r.failedReads + 1 = 10 ∧ r.hubLost = false ∧ r.config ≠ 3 then s.hubLose else s

/-- The conditions of R370 on the samples, newest first. -/
def flowStopped (nominal : Nat) (l : List Nat) : Bool :=
  (decide (20 ≤ l.length) && (l.take 20).all fun f => decide (4 * f < nominal)) ||
  (match l[20]?, l.head? with
    | some old, some now => decide (10 * now + nominal < 10 * old)
    | _, _ => false)

/-- A stop is over. -/
def State.stopOver (s : State) : State :=
  (s.setThermal { s.thermal with
    stopAt := none, okRun := 0, stopStep := if s.thermal.stopStep = 1 then 0 else s.thermal.stopStep }).coolantRecover.noteConds

/-- A good read: the flow is judged. -/
def State.hubGoodRead (s : State) : State :=
  let r := s.thermal
  let back := r.hubLost && decide (9 ≤ r.goodReads)
  let lost := r.hubLost && !back
  let s := s.setThermal { r with failedReads := 0, goodReads := r.goodReads + 1, hubLost := lost, hubOk := !lost }
  if r.config = 3 then s
  else
    let f := s.flowNow
    let nominal := s.flowNominal
    let hist := if lost then [] else (f :: s.thermal.flowHist).take 21
    let run := if !lost && decide (3 * nominal ≤ 4 * f) then s.thermal.okRun + 1 else 0
    let s := s.setThermal { s.thermal with flowHist := hist, okRun := run }
    if s.thermal.stopAt.isSome then (if 20 ≤ run ∧ s.thermal.stopStep < 3 then s.stopOver else s)
    else if !lost && flowStopped nominal hist && decide (s.thermal.stopStep < 3) then s.stopStep1
    else s

def State.hubRead (s : State) (acked : Bool) (w : BitVec 128) : State :=
  let whole := acked && decide (crc8 ((hubBytes w).take 15) = bits w.toNat 120 8)
  let s := s.setThermal (if whole then s.thermal.takeRecord w else { s.thermal with valid := 0 })
  let s := s.modTotals fun t => if whole && bitAt s.thermal.valid 0 then { t with inletMax := max t.inletMax s.thermal.inlet } else t
  (if hubGood s.thermal.config acked w then s.hubGoodRead else s.hubFail).coolantRecover

def execHubRead (acked : Bool) (w : BitVec 128) (s : State) : Out := .next (s.hubRead acked w)

/-! ## COOLING_CLAMP (R361, R369) -/

/-- floor(256 × num ÷ (den × limit)), held to 0–256. -/
def clampTarget (num : Int) (den limit : Nat) : Nat := min 256 (256 * num / ((den * limit : Nat) : Int)).toNat

/-- The target in liquid configuration, and whether the ΔT check replaced the flow. Flow F in 0.01 L/min, power in W. -/
def liquidTarget (f power limit : Nat) (tIn tOut : Int) (outlet : Bool) : Nat × Bool :=
  let warm := outlet && decide (0 < f) && decide (12500 * (power : Int) < (tOut - tIn) * (66 * f : Nat))
  if warm then (clampTarget ((power : Int) * (5800 - tIn)) (tOut - tIn).toNat limit, true)
  else (clampTarget (66 * (f : Int) * (5800 - tIn)) 10000 limit, false)

/-- The target in air configuration: a = sum of the fans ÷ (4 × rpm_nom). -/
def airTarget (sum nominal limit : Nat) (tIn : Int) : Nat :=
  clampTarget (6000 * (min sum nominal : Nat) * (max 0 (min 1000 (4500 - tIn)))) (1000 * nominal) limit

def State.coolTarget (s : State) : Nat × Bool :=
  let r := s.thermal
  let limit := Config.inputLimit s.configCode
  let taken := r.hubLost && !bitAt r.valid 0
  if r.config = 0 then
    liquidTarget s.flowNow s.power.totalW limit (if taken then 4000 else r.inlet) r.outlet (bitAt r.valid 1)
  else if r.config = 1 then (airTarget s.flowNow s.flowNominal limit (if taken then 3500 else r.inlet), false)
  else (256, false)

/-- The clamp of a configuration mismatch: some share exceeds bench H (R361). -/
def State.mismatchClamp (s : State) : Nat :=
  let shares := (List.range Config.nBolts).map fun b => (s.bolt b).share
  if s.thermal.configBad && shares.any fun x => decide (Config.heavyBudget 3 < x) then
    min 256 (256 * Config.heavyBudget 3 / shares.sum) else 256

def State.coolingClamp (s : State) : State :=
  let q := s.coolTarget
  let target := min q.1 s.mismatchClamp
  let r := s.thermal
  let kappa := if target < r.kappaC then target else min target (r.kappaC + 8)
  let first := decide (q.1 < 256) && !r.lowEp
  let s := s.setThermal { r with
    kappaC := kappa, lowEp := (r.lowEp || decide (q.1 < 256)) && decide (kappa < 256)
    flowLow := if first then satAdd 8 r.flowLow 1 else r.flowLow }
  (if first then s.lowReport (if r.hubLost then 2 else boolNat q.2) else s).noteConds

def execCoolingClamp (s : State) : Out := .next (whenS s.thermal.stopAt.isNone s State.coolingClamp)

/-! ## COOLANT_STOP_STEP2 (R371) -/

def State.stopStep2 (s : State) : State :=
  let s := (List.range Config.nBolts).foldl (fun s b =>
    (s.pauseBolt b .coolant).modBolt b fun r => { r with timersSuspended := r.timersSuspended || decide (r.st = .paused) }) s
  let on := (List.range Config.nSkeins).filter fun k =>
    (decide ((s.skein k).state = 3) || decide ((s.skein k).state = 4)) && decide ((s.field (fieldOfSkein k)).laneState ≠ 2)
  let s := on.foldl (fun s k =>
    ((((skeinCores k).foldl (fun s c => s.coreHalt c) s).dropTurnOn k).turnOff k)) s
  (s.setThermal { s.thermal with stopStep := 2, warmOn := false, heatSkeins := [] }).flowLossReport 2

def execCoolantStopStep2 (s : State) : Out :=
  .next (whenS (decide (s.thermal.stopStep = 1) && (match s.thermal.stopAt with
    | some t => decide (t + 2000000000 ≤ s.time)
    | none => false)) s State.stopStep2)

/-! ## CONFIG_CHECK (R361) -/

def State.configCheck (s : State) : State :=
  if s.thermal.configInv = 3 - s.thermal.config ∨ s.thermal.configBad = true then s
  else
    let s := (s.setThermal { s.thermal with configBad := true }).report srcLoader 0x03 (6 <<< 28)
    s.setThermal { s.thermal with kappaC := min s.thermal.kappaC s.mismatchClamp }

def execConfigCheck (s : State) : Out := .next s.configCheck.noteConds

/-! ## THERMAL_TRIP (R373, R413) -/

/-- Every island clock stops and every header switch opens. -/
def State.openSwitches (s : State) : State :=
  let s := (List.range Config.nSkeins).foldl (fun s k =>
    let r := s.skein k
    if r.state = 3 ∨ r.state = 4 then (s.dropTurnOn k).modSkein k fun r => { r with state := 2, turnOffAt := some s.time } else s) s
  { s with cores := (List.range Config.nCores).filterMap fun c =>
      let r := s.core c
      let r := if r.st = .fenced ∨ r.st = .dead then r else { r.discardFlight with st := .off, wait := none }
      if r = {} then none else some (c, r) }

def State.thermalTrip (s : State) (k : Nat) : State :=
  let s := s.openSwitches
  let s := s.setThermal { s.thermal with trip := true }
  let s : State := { s with boot := { s.boot with thermTrip := true } }
  let s := s.reportSev (srcSkein k) 0x16 3 (k + ((s.skein k).used <<< 13))
  let s := s.modTotals fun t => { t with trips := satAdd 16 t.trips 1 }
  ((s.ledgerStore true true).bootFail 6).halt 5

def execThermalTrip (k : Nat) (s : State) : Out :=
  onSkein k s fun s => whenS (!s.thermal.trip && !(s.skein k).dead) s fun s => s.thermalTrip k

/-! ## WARM_KEEP_EVAL (R374, R375) -/

/-- The wafer mean of T_s over skeins not dead, as its sum and their number. -/
def State.meanTemp (s : State) : Nat × Nat :=
  let dead := (s.skeins.filter fun e => e.2.dead).length
  ((s.skeins.filter fun e => !e.2.dead).foldl (fun a e => a + e.2.used) 0, Config.nSkeins - dead)

/-- Below a floor of TH_WARM or of the ramp limit. -/
def State.warmNeeded (s : State) : Bool :=
  let m := s.meanTemp
  (decide (0 < s.thermal.floorC) && decide (m.1 < tempCode s.thermal.floorC * m.2)) ||
  decide (s.power.totalW < s.thermal.floorW) || decide (s.power.totalW < s.powerFloor)

def State.warmAllowed (s : State) : Bool :=
  s.thermal.warmEnable && !s.thermal.lowEp && s.thermal.stopAt.isNone && decide (s.thermal.stopStep = 0) &&
  !s.power.inputClamp && s.ready

/-- A skein that warm-keep work leaves alone. -/
def SkeinRec.throttled (r : SkeinRec) : Bool := decide (r.kappaS < 256) || decide (0 < r.hotStretch)

/-- A free slot of a SERVING bolt's current epoch for a synthetic pick. -/
def State.warmSlot (s : State) (b : Nat) : Option Nat :=
  let r := s.bolt b
  match r.current with
  | some e =>
    if r.st = .serving ∧ (r.skeins.any fun k => (s.skein k).throttled) = false then
      e.slotNos.find? fun k => decide (r.slotRec k = {}) && r.slotAtRest k
    else none
  | none => none

/-- A synthetic pick: one token at position 0, at the lowest rank. -/
def State.addSynthetic (s : State) (b slot : Nat) : State :=
  s.modBolt b fun r => r.modSlot slot fun _ =>
    { rank := Config.maxSlots, synthetic := true, waiting := [mkUnit slot .pick 0 1 true], progress := s.time }

/-- Allowance of a skein that runs heat loops. -/
def heatAllowance : Nat := 512

/-- A skein for a heat loop: no bolt's, on, not throttled, within the budget that the shares leave. -/
def State.heatSkein (s : State) : Option Nat :=
  let shares := ((List.range Config.nBolts).map fun b => (s.bolt b).share).sum
  if shares + heatAllowance * (s.thermal.heatSkeins.length + 1) ≤ Config.heavyBudget s.configCode then
    (List.range Config.nSkeins).find? fun k =>
      decide ((s.skein k).state = 4) && !(s.skein k).throttled && !s.thermal.heatSkeins.contains k && !s.skeinLost k &&
      (s.boltAt (skeinCore k 0)).isNone
  else none

/-- Heat loops end on a list of skeins. -/
def State.endHeat (s : State) (l : List Nat) : State :=
  let s := l.foldl (fun s k => s.setBudget k 0 0) s
  s.setThermal { s.thermal with heatSkeins := s.thermal.heatSkeins.filter fun k => !l.contains k }

/-- Heat loops leave skeins that a bolt has taken or that are throttled. -/
def State.pruneHeat (s : State) : State :=
  let s := s.setThermal { s.thermal with heatSkeins := s.thermal.heatSkeins.filter fun k => (s.boltAt (skeinCore k 0)).isNone }
  s.endHeat (s.thermal.heatSkeins.filter fun k => (s.skein k).throttled || decide ((s.skein k).state ≠ 4) || s.skeinLost k)

/-- Work is added: one synthetic pick in each bolt with a free slot, and one more skein of heat loops; the second part says
whether there was any to add. -/
def State.warmAdd (s : State) : State × Bool :=
  let q := (List.range Config.nBolts).foldl (fun (a : State × Bool) b =>
    match a.1.warmSlot b with
    | some k => (a.1.addSynthetic b k, true)
    | none => a) (s, false)
  match q.1.heatSkein with
  | some k =>
    let s := q.1.setBudget k heatAllowance 0
    (s.setThermal { s.thermal with heatSkeins := s.thermal.heatSkeins ++ [k] }, true)
  | none => q

/-- Work is removed: synthetic picks that have not entered the first region at once, the others as they leave the last one. -/
def State.warmDrop (s : State) : State :=
  let s := (List.range Config.nBolts).foldl (fun s b => s.modBolt b fun r =>
    r.dropSynthetic fun k => !(r.slotRec k).waiting.isEmpty) s
  s.endHeat s.thermal.heatSkeins

/-- The fall of the input that the ramp limit holds (R375). -/
def State.noteFall (s : State) : State :=
  let r := s.thermal
  let p := s.power.totalW
  let fall := if p < r.prevTotal then (match r.fall with
      | some x => some x
      | none => some (r.prevTotal, r.prevAt))
    else if s.powerFloor ≤ p ∧ r.prevTotal < p then none else r.fall
  s.setThermal { r with fall := fall, prevTotal := p, prevAt := s.time }

def State.warmKeep (s : State) : State :=
  let s := s.noteFall.pruneHeat
  let on := s.warmAllowed && s.warmNeeded
  let s := s.setThermal { s.thermal with warmOn := on }
  if on then
    let below := decide (s.power.totalW < s.powerFloor)
    let q := s.warmAdd
    if below && !q.2 then q.1.setThermal { q.1.thermal with rampMiss := satAdd 16 q.1.thermal.rampMiss 1 } else q.1
  else s.warmDrop

def execWarmKeepEval (s : State) : Out := .next s.warmKeep

end Sys2Proof.Machine
end

