-- ==== Sys2Proof/Machine/Boot.lean ====
section
/-! DEFINITION. Reset, boot, firmware images and their slots, the clock, the management port, JTAG, the ledger's cycle
tracker and the trust anchors (R233, R396, R397, R402–R418). -/

namespace Sys2Proof.Machine

open Sys2Proof

def State.setBoot (s : State) (r : BootRec) : State := { s with boot := r }

/-! ## RESET (R407, R430) -/

/-- What a reset leaves: the non-volatile ledger memory and the flash, without a slot whose write it cuts off; what stands
outside the engine; the test port, which TRST_N alone resets; and the commands that wait. -/
def State.afterReset (s : State) : State :=
  { State.reset with
    pending := s.pending
    free := s.free
    hostMem := s.hostMem
    msix := s.msix
    ledger := { slotA := s.ledger.slotA, slotB := s.ledger.slotB, badCores := s.ledger.badCores, anchors := s.ledger.anchors }
    boot := {
      flash0 := if s.boot.writing.isSome && decide (s.boot.slot = 1) then none else s.boot.flash0
      flash1 := if s.boot.writing.isSome && decide (s.boot.slot = 0) then none else s.boot.flash1
      jtag := s.boot.jtag, tdr := s.boot.tdr, boundary := s.boot.boundary } }

def execReset (s : State) : Out := .next s.afterReset

/-! ## Firmware images (R408, R409) -/

def fwHeader : Nat := 512
def fwBodyMax : Nat := 16772608

def allZero (bs : List Byte) (off n : Nat) : Bool := decide (leAt bs off n = 0)

/-- An image verifies (R409). -/
def fwOk (img : List Byte) : Bool :=
  let key := (img.drop 0x20).take 97
  let body := img.drop fwHeader
  decide (leAt img 0 4 = 0x5746574B) && decide (leAt img 4 2 = 1) && decide (leAt img 6 2 = 0x00B1) &&
  allZero img 0x0E 2 && allZero img 0x14 12 && allZero img 0x81 15 && allZero img 0xC0 224 &&
  decide (leAt img 0x10 4 = body.length) && decide (body.length ≤ fwBodyMax) && decide (fwHeader ≤ img.length) &&
  decide (hashOf key = Config.bootKeyHash) && decide (sha384 body = (img.drop 0x90).take 48) &&
  decide (Config.svnMin.toNat ≤ leAt img 0x0C 2) && signatureOk key ((img.drop 0x1A0).take 96) (img.take 0x1A0)

/-- The image runs: its version and svn show, and power-up follows. -/
def BootRec.run (r : BootRec) (img : List Byte) : BootRec :=
  { r with stage := 4, step := 3, svn := leAt img 0x0C 2, fwVersion := leAt img 8 4, shed := .quiet }

/-! ## BOOT (R403, R405, R411, R413) -/

def State.bootStart (s : State) (straps : Nat) : State :=
  let cfg := straps % 4
  let s := s.setBoot { s.boot with
    booted := true, strapConfig := cfg, bootSrc := bitAt straps 2, mgmtAddr := bitAt straps 3, t1 := s.time
    stage := 1, step := 1, shed := if bitAt straps 2 then .quiet else .b }
  let s := s.setThermal { s.thermal with config := cfg, configInv := 3 - cfg }
  if cfg = 2 then (s.bootFail 1).halt 6 else s

/-- Without SYSCLK the engine stays in stage 0 (R402). -/
def execBoot (straps : Nat) (s : State) : Out :=
  .next (whenS (!s.boot.booted && !s.boot.sysclkLost) s fun s => s.bootStart straps)

/-! ## BOOT_STEP_DONE (R408–R413) -/

/-- The newest valid ledger record is taken (R397). -/
def LedgerMem.load (m : LedgerMem) : LedgerMem :=
  match (if slotSeq m.slotB ≤ slotSeq m.slotA then m.slotA else m.slotB).held with
  | some (t, final) => { m with totals := { t with
      boots := satAdd 32 t.boots 1, unrecordedEnds := satAdd 32 t.unrecordedEnds (boolNat (!final)) } }
  | none => { m with totals := { boots := 1 }, noRecord := true }

/-- Step 1: the ROM checks itself and reads the ledger memory. -/
def State.bootStep1 (s : State) (r : BootFindings) : State :=
  if !r.romOk then s.setBoot { s.boot with stage := 7, step := 0, fail := 4, shed := .quiet }
  else if !r.headerOk then (s.bootFail 3).halt 1
  else
    let s : State := { s with ledger := ({ s.ledger with badCores := r.badSites }).load }
    let s : State := { s with security := { s.security with anchor := s.ledger.anchors, anchorSh := s.ledger.anchors } }
    s.setBoot { s.boot with stage := 2, step := 2 }

/-- What a flash slot holds, by its tag. -/
def slotImage (l : List (Bool × Nat × List Byte)) (k : Nat) : Option (Nat × List Byte) :=
  match l[k]? with
  | some (true, seq, img) => some (seq, img)
  | _ => none

/-- The slots in the order in which they are verified: the higher seq first. -/
def slotOrder (a b : Option (Nat × List Byte)) : List (Nat × List Byte) :=
  match a, b with
  | some x, some y => if x.1 < y.1 then [(1, y.2), (0, x.2)] else [(0, x.2), (1, y.2)]
  | some x, none => [(0, x.2)]
  | none, some y => [(1, y.2)]
  | none, none => []

/-- Step 2 from flash: the first slot in order that verifies boots. -/
def State.bootStep2 (s : State) (r : BootFindings) : State :=
  let f0 := slotImage r.slots 0
  let f1 := slotImage r.slots 1
  let s := s.setBoot { s.boot with flash0 := f0, flash1 := f1 }
  let order := slotOrder f0 f1
  match order.find? fun x => fwOk x.2 with
  | some (k, img) =>
    let first := (order.head?.map fun x => x.1) = some k
    s.setBoot { (s.boot.run img) with slot := k, fallback := decide ¬first }
  | none => ({ s with boot := { s.boot with stage := 3 } } : State).bootFail 2 |>.halt 7

/-- Commands of boot step 3 on a lane, each with its sequence number: READ_STATUS of every domain, then SET_V and ENABLE. -/
def State.laneUp (s : State) (f : Nat) : State :=
  let live := (List.range 96).filter fun d => !s.skeinLost (skeinOfDomain f d)
  let words := (List.range (if f = 0 then 103 else 97)).map (fun d => trdWord opReadStatus d 0) ++
    live.flatMap fun d => [trdSetV d 288, trdSlew opEnable d 2]
  s.modField f fun r => { r with
    laneState := 1, upAt := s.time
    sent := r.sent ++ words.zipIdx.map fun w => BitVec.ofNat 64 (setBits w.1.toNat 4 4 ((r.cmdSeq + w.2) % 16))
    cmdSeq := (r.cmdSeq + words.length) % 16 }

/-- A skein that boot has brought up: code 288, enabled, its header switches closed. -/
def SkeinRec.brought (r : SkeinRec) : SkeinRec :=
  { r.setCtrl (288 + (1 <<< 9) + (2 <<< 10) + (1 <<< 12)) with state := 4 }

/-- Domains that do not come up are dead, fields without arrays lost (R354, R355, R412). -/
def State.powerFindings (s : State) (r : BootFindings) : State :=
  let s := r.deadSkeins.foldl (fun s k => let q := s.openReason; q.2.shortSkein k q.1) s
  r.lostFields.foldl (fun s f => let q := s.openReason; q.2.shortField f q.1 false) s

/-- Step 3: power. -/
def State.bootStep3 (s : State) (r : BootFindings) : State :=
  let s := s.powerFindings r
  let s := (List.range Config.nFields).foldl (fun s f => s.laneUp f) s
  let up := ((List.range Config.nSkeins).filter fun k => !s.skeinLost k)
  let s := up.foldl (fun s k => s.modSkein k SkeinRec.brought) s
  let s := s.setPower { s.power with turnOns := satAdd 16 s.power.turnOns up.length }
  s.setBoot { s.boot with stage := 5, step := 4 }

/-- The channels of a port that failed training, one bit each. -/
def channelsFailed (r : BootFindings) (p : Nat) : Nat :=
  (r.creelFailed.foldl (fun a f => if f.1 = p then a ||| f.2 else a) 0) % 16

/-- A creel port after training: SYSTEM blocks zeroed, or disabled. -/
def PortRec.trained (r : PortRec) (failed : Nat) : PortRec :=
  if failed = 0 then
    { r with
      state := 1
      owners := (List.range Config.systemBlocks).foldl (fun t k => Tab.put .dirty t k .system) r.owners
      mem := clearRange r.mem 0 (Config.systemBlocks * Config.creelBlockBytes) }
  else { r with state := 2, trainFail := failed }

/-- A PCIe port that fails training: its functions are absent. The AER status bits are open. -/
def State.pcieFailed (s : State) (p : Nat) : State :=
  let q := s.takeFree
  let s := q.2.reportSev (srcFunc (8 * p)) 0x1C 2 (((Config.freeWord q.1).toNat % 2 ^ 29) <<< 1)
  let s := (List.range 8).foldl (fun s v => s.modFunc (8 * p + v) fun r => { r with enabled := false, writable := false }) s
  s.setBoot { s.boot with linkUp := s.boot.linkUp &&& ~~~(BitVec.ofNat 4 (2 ^ p)) }

/-- Step 4: self-test and training (R412). -/
def State.bootStep4 (s : State) (r : BootFindings) : State :=
  let s := s.killCores r.deadCores
  let s := s.powerFindings { r with lostFields := [] }
  let s := (List.range Config.nPorts).foldl (fun s p => s.modPort p fun x => x.trained (channelsFailed r p)) s
  let s := s.setBoot { s.boot with linkUp := 0xF, deadThisRun := r.deadCores }
  let failed := r.pcieFailed.filter fun p => !(s.boot.bootSrc && decide (p = 0))
  let s := failed.foldl (fun s p => s.pcieFailed p) s
  s.setBoot { s.boot with step := 5 }

/-- A field's spare skein: the fewest good cores, ties to the highest number (R132). -/
def State.chooseSpare (s : State) (f : Nat) : Nat :=
  (fieldSkeins f).foldl (fun (best : Option (Nat × Nat)) k =>
    let n := ((skeinCores k).filter s.siteUsable).length
    match best with
    | some (m, j) => if n < m ∨ (n = m ∧ j < k) then some (n, k) else some (m, j)
    | none => some (n, k)) none |>.elim 0 fun x => x.2

/-- Cores that virtual cores may take under the default reserve. -/
def State.allocatable (s : State) : Nat := (List.range Config.nSkeins).foldl (fun a k => a + (s.skeinSites k).length) 0

/-- Step 5: the engine is ready. -/
def State.bootStep5 (s : State) (r : BootFindings) : State :=
  let spares := (List.range Config.nFields).map fun f => (f, s.chooseSpare f)
  let s := s.setBoot { s.boot with spareSkein := spares }
  let s := s.setBoot { s.boot with
    stage := 6, step := 0, shed := .f, aliveOn := s.faults.halted.isNone, kickAt := s.time
    readyUs := (s.time - s.boot.t1) / 1000
    shortCores := decide (s.allocatable < 282000)
    deadCores := s.boot.deadThisRun.length
    deadSkeins := (s.skeins.filter fun e => e.2.dead).length }
  if r.hubAbsent ∧ s.thermal.config ≠ 3 then s.hubLose.coolingClamp else s

def State.bootStep (s : State) (r : BootFindings) : State :=
  if s.boot.step = 1 then s.bootStep1 r
  else if s.boot.step = 2 then (if s.boot.bootSrc then s else s.bootStep2 r)
  else if s.boot.step = 3 then s.bootStep3 r
  else if s.boot.step = 4 then s.bootStep4 r
  else if s.boot.step = 5 then s.bootStep5 r
  else s

/-- The findings name units of the engine. -/
def findingsKnown (r : BootFindings) : Bool :=
  r.deadCores.all (fun c => decide (c < Config.nCores)) && r.deadSkeins.all (fun k => decide (k < Config.nSkeins)) &&
  r.lostFields.all (fun f => decide (f < Config.nFields)) && r.creelFailed.all (fun p => decide (p.1 < Config.nPorts)) &&
  r.pcieFailed.all (fun p => decide (p < 4)) && r.badSites.all (fun c => decide (c < Config.nCores))

/-- The step that runs has ended with these findings; step 2 of a host boot ends with FW_ACTIVATE instead (R410). -/
def execBootStepDone (r : BootFindings) (s : State) : Out := onUnit (findingsKnown r) s fun s => (s.bootStep r).noteConds

/-! ## Firmware update (R414) -/

/-- The slot that did not boot is to be written with an image: phase B returns, and the beacon reads not ready. -/
def State.flashStart (s : State) (img : List Byte) (seq : Option Nat) : State :=
  s.setBoot { s.boot with
    stage := 8, shed := .b, writeWaits := seq, writing := some ((match (if s.boot.slot = 0 then s.boot.flash0 else s.boot.flash1) with
      | some x => x.1 + 1
      | none => 1) % 2 ^ 32, img) }

/-- Whether a flash write may start: the engine is ready, every bolt is NONE, and no write runs. -/
def State.flashIdle (s : State) : Bool :=
  decide (s.boot.stage = 6) && s.boot.writing.isNone && (List.range Config.nBolts).all fun b => decide ((s.bolt b).st = .none)

/-- PLDM completion codes that the model returns: 0 accepted, 1 device busy, 2 verification failed, 3 no flash (log entry 60). -/
def execPldmFwUpdate (image : List Byte) (s : State) : Out :=
  .next (whenS s.ready s fun s =>
    let code (n : Nat) (s : State) : State := s.setBoot { s.boot with pldm := n }
    if s.boot.bootSrc then code 3 s
    else if !s.flashIdle then code 1 s
    else if !fwOk image then code 2 s
    else code 0 (s.flashStart image none))

/-! ## Clock (R402) -/

def execSysclkLoss (s : State) : Out := .next (s.setBoot { s.boot with sysclkLost := true }).noteConds
def execSysclkRestore (s : State) : Out := .next (s.setBoot { s.boot with sysclkLost := false }).noteConds

/-! ## Management port (R415) -/

/-- The skein with the highest T_s, and that T_s; ties go to the lowest skein. -/
def State.hotSkein (s : State) : Nat × Nat :=
  s.skeins.foldl (fun a e => if e.2.dead = false ∧ a.2 < e.2.used then (e.1, e.2.used) else a) (0, 0)

/-- TH_STATUS.coolant (Table 15.8). -/
def State.coolantCode (s : State) : Nat :=
  if s.thermal.stopStep = 3 then 4
  else if s.thermal.stopStep = 2 then 3
  else if s.thermal.stopAt.isSome then 2
  else if s.thermal.hubLost then 5
  else if s.thermal.lowEp then 1 else 0

/-- The monitoring sensors, in the order in which R415 lists them. -/
def State.pldmSensor (s : State) (n : Nat) : Nat :=
  if !s.ready then s.boot.stage
  else if n = 0 then s.beaconState
  else if n = 1 then s.beaconCat
  else if n = 2 then s.power.totalW
  else if n = 3 then s.hotSkein.2
  else if n = 4 then s.thermal.kappaC
  else s.coolantCode

def execPldmSensorRead (sensor : Nat) (s : State) : Out :=
  .next <| whenS (decide (sensor < 6) && s.boot.booted && decide (s.boot.t1 + 1000000000 ≤ s.time)) s fun s =>
      s.setBoot { s.boot with pldm := s.pldmSensor sensor }

/-! ## JTAG (R417) -/

/-- IDCODE: version, part number, manufacturer, 1. -/
def idcodeWord : BitVec 32 := BitVec.ofNat 32 ((1 <<< 28) + (0x4B48 <<< 12) + (Config.jep106.toNat <<< 1) + 1)

/-- BYPASS puts one bit, 0, between TDI and TDO. -/
def BootRec.bypass (r : BootRec) : BootRec := { r with jtag := .bypass, tdr := 0 }

/-- An instruction other than BYPASS and IDCODE: BYPASS while RESET_N is high. -/
def State.jtagGuard (s : State) (f : BootRec → BootRec) : State :=
  s.setBoot (if s.boot.booted then s.boot.bypass else f s.boot)

def execBypass (s : State) : Out := .next (s.setBoot s.boot.bypass)
def execIdcode (s : State) : Out := .next (s.setBoot { s.boot with jtag := .idcode, tdr := idcodeWord })
def execSamplePreload (shift : List Bool) (s : State) : Out :=
  .next (s.jtagGuard fun r => { r with jtag := .sample, boundary := shift })
def execExtest (s : State) : Out := .next (s.jtagGuard fun r => { r with jtag := .extest })
def execClamp (s : State) : Out := .next (s.jtagGuard fun r => { r.bypass with jtag := .clamp })
def execHighz (s : State) : Out := .next (s.jtagGuard fun r => { r.bypass with jtag := .highz })

/-! ## CYCLE_TRACK (R396) -/

/-- The bin of a swing in codes (Table 16.11). -/
def cycleBin (d : Nat) : Nat :=
  if d < 40 then 0 else if d < 80 then 1 else if d < 120 then 2 else if d < 160 then 3
  else if d < 200 then 4 else if d < 240 then 5 else if d < 320 then 6 else 7

/-- One sample of the tracker, in codes; 5 °C is 20 codes. -/
def LedgerRec.track (r : LedgerRec) (t : Nat) : LedgerRec :=
  if !r.falling then
    let hi := max r.tcHi t
    if t + 20 ≤ hi then { r with tcHi := hi, falling := true, tcLo := t } else { r with tcHi := hi }
  else
    let lo := min r.tcLo t
    if lo + 20 ≤ t then
      let k := cycleBin (r.tcHi - lo)
      { r with cycles := Tab.put 0 r.cycles k (satAdd 32 (Tab.get 0 r.cycles k) 1), falling := false, tcHi := t, tcLo := lo }
    else { r with tcLo := lo }

/-- The wafer mean T_s as a code, rounded down. -/
def State.meanCode (s : State) : Nat := s.meanTemp.1 / s.meanTemp.2

def execCycleTrack (s : State) : Out := .next (whenS s.ready s fun s => s.modTotals fun t => t.track s.meanCode)

/-! ## Trust anchors (R233, R426) -/

/-- The slots that a commit rewrites lose their mismatch bits. -/
def State.anchorCommit (s : State) (f : Nat) : State :=
  let r := s.security
  if r.lock || r.anchorSh.any fun e => anchorBad e.2 then s.rejectCommit (srcFunc f) 0x0C0000
  else { s with
    security := { r with anchor := r.anchorSh, mismatch := 0 }
    ledger := { s.ledger with anchors := r.anchorSh } }

def execAnchorCommit (f : Nat) (s : State) : Out := onFunc f s fun s => asAdmin f s fun s => s.anchorCommit f

def State.anchorLock (s : State) : State := { s with security := { s.security with lock := true } }

def execAnchorLock (f : Nat) (s : State) : Out := onFunc f s fun s => asAdmin f s State.anchorLock

end Sys2Proof.Machine
end

