-- ==== Sys2Proof/Machine/Epochs.lean ====
section
/-! DEFINITION. Switching and unloading epochs, and the free of an epoch (R239–R243). -/

namespace Sys2Proof.Machine

open Sys2Proof

/-- The fields of SWITCH_EPOCH and UNLOAD_MODEL: an epoch and one flag (Table 10.7). -/
def epochFieldsOk (d : BitVec 1024) : Bool :=
  dZeroBut d [(0, 19)] && decide (dHandle d = 0) && decide (dfield d 18 1 < 2) && decide (1 ≤ dfield d 16 2)

def epochArg (d : BitVec 1024) : Nat := dfield d 16 2
def epochFlag (d : BitVec 1024) : Bool := bitAt (dfield d 18 1) 0

/-- The state of an epoch that the bolt holds. -/
def BoltRec.epochSt (b : BoltRec) (n : Nat) : EpochSt := ((b.epochOf n).map fun e => e.st).getD .none

/-- The epoch that a PLACED switch has already named counts as the current one: it becomes so at the next admission
decision (R241). -/
def BoltRec.currentNo (b : BoltRec) : Option Nat :=
  match b.pendingSwitch with
  | some (n, _) => if b.epochSt n = .placed then some n else b.current.map fun e => e.num
  | none => b.current.map fun e => e.num

/-! ## A switch to a STAGED epoch (R241) -/

/-- With no current epoch left, the named STAGED epoch takes a shape of the bolt's whole grid; the placement follows once its
cores are IDLE. -/
def State.startStaged (s : State) (b : Nat) : State :=
  let r := s.bolt b
  match r.pendingSwitch, r.other with
  | some (n, _), some e =>
    if e.num = n ∧ e.st = .staged ∧ e.place = [] ∧ r.current.isNone = true then
      let pick := (s.imageOf e).bind fun m => (chooseShape m (s.gridBut b [])).map fun q => (m, q)
      match pick with
      | some (m, k, pl) =>
        let e' := { settled e m e.tokenShard k pl (s.gridBut b []) r.homeSide with slotNos := s.pickSlots e.slots }
        if r.shareOk e' then s.setBolt b { r with other := some e' } else s.switchFails b e
      | none => s.switchFails b e
    else s
  | _, _ => s

/-! ## The free of an epoch (R242, R243) -/

def BoltOp.unloadOf : BoltOp → Option (Nat × FinOf)
  | .unload n _ f => some (n, f)
  | _ => none

/-- Unloads whose epoch the bolt no longer holds are complete. -/
def State.endUnloads (s : State) (b : Nat) : State :=
  let r := s.bolt b
  let done (o : BoltOp) : Bool := match o.unloadOf with
    | some (n, _) => (r.epochOf n).isNone
    | none => false
  let fins := (r.ops.filter done).filterMap fun o => o.unloadOf
  fins.foldl (fun s f => s.finishOf f.2 ssOk []) (s.setBolt b { r with ops := r.ops.filter fun o => !done o })

/-- The bolt lists the epoch no longer. -/
def BoltRec.dropEpoch (b : BoltRec) (n : Nat) : BoltRec :=
  let keep (o : Option EpochRec) : Option EpochRec := o.filter fun e => decide (e.num ≠ n)
  let gone := b.current.any fun e => decide (e.num = n)
  { b with current := keep b.current, other := keep b.other, unloading := b.unloading && !gone }

/-- An epoch is freed: its cores are scrubbed, its mirror and slots released, its PARKED and ABSENT requests rebound, and what
waited for it goes on. A bolt that holds no epoch is EMPTY. -/
def State.freeEpoch (s : State) (b : Nat) (e : EpochRec) : State :=
  let was := (s.bolt b).current.any fun c => decide (c.num = e.num)
  let s := s.modBolt b fun r => { r.dropEpoch e.num with slots := r.slots.filter fun k => !e.slotNos.contains k.1 }
  let s := if was then s.evictAll b else s
  let s := (s.releaseEpoch b e).rebind b e.num
  let r := s.bolt b
  let s := if r.current.isNone ∧ r.other.isNone then
      (s.setBolt b { r with pauses := [], drained := false, repairs := false, timersSuspended := false }).enterEmpty b
    else s
  (s.endUnloads b).startStaged b

/-- The epoch is to be freed when its last holder goes: it is DRAINING, or is the current epoch under an unload or under a
switch to a STAGED epoch. -/
def BoltRec.drains (b : BoltRec) : Option EpochRec :=
  match b.other, b.current with
  | some o, c =>
    if o.st = .draining then some o
    else match b.pendingSwitch with
      | some (n, _) => if o.num = n ∧ o.st = .staged then c else if b.unloading then c else none
      | none => if b.unloading then c else none
  | none, c => if b.unloading then c else none

/-- EPOCH_FREE: an epoch that drains has no holder. -/
def execEpochFree (b : Nat) (s : State) : Out :=
  onBolt b s fun s => match (s.bolt b).drains with
    | some e => if s.holders b e.num = [] then s.freeEpoch b e else s
    | none => s

/-! ## SWITCH_EPOCH -/

/-- SWITCH_EPOCH by the table of R241; the current epoch is named by its number, also while a switch waits. -/
def State.switchEpoch (s : State) (a : Acc) (n : Nat) (noWait : Bool) : State :=
  match a.bolt with
  | some b =>
    let r := s.bolt b
    if r.currentNo = some n ∨ r.current.map (fun e => e.num) = some n then s.finish a ssOk (natBytes 2 n)
    else if r.epochSt n = EpochSt.placed then
      (s.setBolt b { r with ops := r.ops ++ [.switchTo n a.fin], unloading := false }).finish a ssOk (natBytes 2 n)
    else if r.epochSt n = EpochSt.staged ∧ noWait = false then
      (s.setBolt b { r with ops := r.ops ++ [.switchTo n a.fin], unloading := false }).startStaged b
    else s.invalid a
  | none => s.invalid a

def execSwitchEpoch (q : Nat) (d : BitVec 1024) (s : State) : Out :=
  onDesc 0x13 q d s fun s a => if epochFieldsOk d then s.switchEpoch a (epochArg d) (epochFlag d) else s.invalid a

/-! ## UNLOAD_MODEL -/

/-- The unload of an epoch that runs: with drain = 0 its holders complete CANCELLED and it is freed at once. -/
def State.unloadRunning (s : State) (b : Nat) (e : EpochRec) (drain : Bool) (f : FinOf) : State :=
  let s := s.modBolt b fun r => { r with ops := r.ops ++ [.unload e.num drain f] }
  if drain then s
  else ((s.holders b e.num).foldl (fun s i => s.endReq i rqCancelled ssCancelled) s).freeEpoch b e

/-- The unload of the epoch that a switch names: a switch that still waits has no epoch to go to and completes INVALID; the
requests bound to the epoch complete CANCELLED, and it is freed at once (log entry 52). -/
def State.unloadNamed (s : State) (a : Acc) (b : Nat) (e : EpochRec) : State :=
  let r := s.bolt b
  let s := s.setBolt b { r with ops := r.ops.filter fun o => !isSwitch o }
  let s := if e.st = .staged then s.finishAll r.switchFins ssInvalid (natBytes 2 ((r.current.map fun c => c.num).getD 0)) else s
  (((s.holders b e.num).foldl (fun s i => s.endReq i rqCancelled ssCancelled) s).freeEpoch b e).finish a ssOk []

/-- The unload of an epoch, by its state. Under a switch that waits for the current epoch to drain, its unload stops
admission too. -/
def State.unloadEpoch (s : State) (a : Acc) (b : Nat) (e : EpochRec) (drain : Bool) : State :=
  let r := s.bolt b
  match r.pendingSwitch with
  | some (n, _) =>
    if e.num = n then s.unloadNamed a b e
    else
      let s := if r.epochSt n = .staged then s.setBolt b { r with unloading := true }
        else if drain then s else s.switchPlaced b
      s.unloadRunning b e drain a.fin
  | none => match e.st with
    | .loading => (s.loadFail b ssCancelled e.position 0xFFFFFFFF).finish a ssOk []
    | .staged => (s.freeEpoch b e).finish a ssOk []
    | .placed => (s.freeEpoch b e).finish a ssOk []
    | .draining => s.unloadRunning b e drain a.fin
    | .current => (s.setBolt b { r with unloading := true }).unloadRunning b e drain a.fin
    | .none => s.invalid a

def execUnloadModel (q : Nat) (d : BitVec 1024) (s : State) : Out :=
  onDesc 0x14 q d s fun s a =>
    match (if epochFieldsOk d then a.bolt else none) with
    | some b => match (s.bolt b).epochOf (epochArg d) with
      | some e => s.unloadEpoch a b e (epochFlag d)
      | none => s.invalid a
    | none => s.invalid a

end Sys2Proof.Machine
end

