-- ==== Sys2Proof/Machine/Mailbox.lean ====
section
/-! DEFINITION. The exchange-RAM mailbox: commands of the host, and the harness's answers (R278–R280, R394, R410, R414). -/

namespace Sys2Proof.Machine

open Sys2Proof

/-- A sequence word: seq with its complement. -/
def seqWord (n : Nat) : Nat := n % 2 ^ 32 + (compl 32 n <<< 32)

/-- Host software writes the payload, the command word and H2E (R280). -/
def State.mailIn (s : State) (seq code : Nat) (payload : List Byte) : State :=
  let m := writeBytes s.xram 0x40 payload
  let m := writeLE m 0x08 8 (code + (payload.length <<< 16))
  { s with xram := writeLE m 0x00 8 (seqWord seq) }

/-- The harness writes the response: payload, response word, then E2H. -/
def State.mailOut (s : State) (seq status : Nat) (payload : List Byte) : State :=
  let m := writeBytes s.xram 0x10040 payload
  let m := writeLE m 0x10008 8 (status + (payload.length <<< 16))
  { s with xram := writeLE m 0x10000 8 (seqWord seq) }

/-- The boot ROM serves its three commands while a host boot waits for its image; firmware serves all five from ready on. -/
def State.romServes (s : State) : Bool := s.boot.bootSrc && decide (s.boot.step = 2)

/-- A command that stands in the exchange RAM: served by firmware, or by the ROM where it knows it. -/
def State.mailHear (s : State) (seq : Nat) (rom : Bool) (serve : State → State) : State :=
  if s.ready then serve s
  else if s.romServes then (if rom then serve s else s.mailOut seq 3 [])
  else s

/-- A command with a sequence number other than the last one. -/
def State.mail (s : State) (seq code : Nat) (payload : List Byte) (rom : Bool) (serve : State → State) : State :=
  if readLE s.xram 0 8 = seqWord seq then s else (s.mailIn seq code payload).mailHear seq rom serve

/-! ## READ_LEDGER, READ_FAULTS (R394) -/

/-- The record that the next write would store. -/
def State.ledgerNow (s : State) : List Byte :=
  let t := s.ledger.totals.takeFatal s.powerOnS s.ledger.pendingFatal
  LedgerRec.bytes { t with seq := t.seq + 1 } s.powerOnS false

def State.serveLedger (seq : Nat) (s : State) : State := s.mailOut seq 0 s.ledgerNow

def execReadLedger (seq : Nat) (s : State) : Out := .next (s.mail seq 1 [] false (State.serveLedger seq))

/-- The 32 bytes of a log record (Table 16.5). -/
def LogRec.bytes (r : LogRec) : List Byte :=
  leBytes 8 (msgWord r.msg) ++ leBytes 8 r.first ++ leBytes 4 r.seq ++ leBytes 2 r.arrivals ++
  leBytes 1 (boolNat r.msg.forced + 2 * boolNat (decide (r.arrivals = 65535))) ++ leBytes 1 r.field ++ leBytes 8 r.latest

/-- Records in log order from a sequence number on, the log given newest first. A number older than the oldest held returns
from the oldest; one that no record has reached returns none. -/
def recordsFrom (first last : Nat) (log : List LogRec) : List LogRec :=
  let l := log.reverse
  match l.findIdx? fun r => decide (r.seq = first) with
  | some k => l.drop k
  | none => if 2 ^ 31 ≤ (first + 2 ^ 32 - last) % 2 ^ 32 then l else []

def faultsPayload (first : Nat) (last : Nat) (log : List LogRec) (n : Nat) : List Byte :=
  let l := (recordsFrom first last log).take n
  leBytes 4 (match l.head? with
    | some r => r.seq
    | none => first) ++
  leBytes 4 (match log.getLast? with
    | some r => r.seq
    | none => 0) ++ leBytes 2 l.length ++ leBytes 6 0 ++ l.flatMap LogRec.bytes

def State.serveFaults (seq first maxCount : Nat) (s : State) : State :=
  if 1 ≤ maxCount ∧ maxCount ≤ 2045 then
    s.mailOut seq 0 (faultsPayload (first % 2 ^ 32) s.faults.lastSeq s.faults.log maxCount)
  else s.mailOut seq 2 []

def execReadFaults (seq first maxCount : Nat) (s : State) : Out :=
  .next (s.mail seq 2 (leBytes 4 first ++ leBytes 2 maxCount) false (State.serveFaults seq first maxCount))

/-! ## READ_CORE_MAP (R410) -/

/-- Good in the factory map, and in the in-service map if it is not dead in this run. -/
def State.mapBit (s : State) (which c : Nat) : Bool :=
  s.siteGood c && (decide (which = 0) || decide ((s.core c).st ≠ .dead))

def State.coreMap (s : State) (which : Nat) : List Byte :=
  (List.range (Config.nCores / 8)).map fun i => BitVec.ofNat 8 (packFields 1 8 fun k => boolNat (s.mapBit which (8 * i + k)))

def State.serveCoreMap (seq which : Nat) (s : State) : State :=
  if which < 2 then s.mailOut seq 0 (s.coreMap which) else s.mailOut seq 2 []

def execReadCoreMap (seq which : Nat) (s : State) : Out :=
  .next (s.mail seq 3 (leBytes 1 which) true (State.serveCoreMap seq which))

/-! ## FW_STAGE, FW_ACTIVATE, FLASH_WRITE_DONE (R410, R414) -/

/-- Offset and length as Table 17.9 takes them, within an image. -/
def stageOk (off len : Nat) : Bool :=
  decide (off % 64 = 0) && decide (64 ≤ len) && decide (len ≤ 131072) && decide (len % 64 = 0) &&
  decide (off + len ≤ fwHeader + fwBodyMax)

def State.serveStage (seq off len : Nat) (s : State) : State :=
  if stageOk off len then
    (s.setBoot { s.boot with staged := writeBytes s.boot.staged off (readBytes s.xram 0x20000 len) }).mailOut seq 0 []
  else s.mailOut seq 2 []

def execFwStage (seq off len : Nat) (s : State) : Out :=
  .next (s.mail seq 4 (leBytes 4 off ++ leBytes 4 len) true (State.serveStage seq off len))

/-- Action 0: the image that the ROM waits for boots. -/
def State.activateBoot (s : State) (seq : Nat) (img : List Byte) : State :=
  if fwOk img then (s.setBoot (s.boot.run img)).mailOut seq 0 [] else s.mailOut seq 4 []

/-- Action 1: the tray flash is written; the response follows the write. -/
def State.activateFlash (s : State) (seq : Nat) (img : List Byte) : State :=
  if s.boot.bootSrc then s.mailOut seq 1 []
  else if !s.flashIdle then s.mailOut seq 3 []
  else if fwOk img then s.flashStart img (some seq) else s.mailOut seq 4 []

def State.serveActivate (seq len action : Nat) (s : State) : State :=
  if len < fwHeader ∨ fwHeader + fwBodyMax < len then s.mailOut seq 2 []
  else
    let img := readBytes s.boot.staged 0 len
    if action = 0 ∧ s.romServes = true then s.activateBoot seq img
    else if action = 1 ∧ s.ready = true then s.activateFlash seq img
    else s.mailOut seq 1 []

def execFwActivate (seq len action : Nat) (s : State) : Out :=
  .next (s.mail seq 5 (leBytes 4 len ++ leBytes 1 action) true (State.serveActivate seq len action))

/-! ## Host writes of the exchange RAM (R278, R280) -/

/-- The payload length of each command. -/
def mailLength : Nat → Option Nat
  | 1 => some 0
  | 2 => some 6
  | 3 => some 1
  | 4 => some 8
  | 5 => some 5
  | _ => none

def State.mailService (code seq : Nat) (p : List Byte) (s : State) : State :=
  let w (off n : Nat) : Nat := leNat ((p.drop off).take n)
  match code with
  | 1 => s.serveLedger seq
  | 2 => s.serveFaults seq (w 0 4) (w 4 2)
  | 3 => s.serveCoreMap seq (w 0 1)
  | 4 => s.serveStage seq (w 0 4) (w 4 4)
  | _ => s.serveActivate seq (w 0 4) (w 4 1)

/-- The command that stands in the exchange RAM: an unknown code and a payload of another length have statuses of their own. -/
def State.mailTake (s : State) (seq : Nat) : State :=
  let c := readLE s.xram 8 8
  let code := bits c 0 8
  match mailLength code with
  | none => s.mailHear seq true fun s => s.mailOut seq 1 []
  | some n =>
    if bits c 16 24 = n then s.mailHear seq (decide (3 ≤ code)) (State.mailService code seq (readBytes s.xram 0x40 n))
    else s.mailHear seq (decide (3 ≤ code)) fun s => s.mailOut seq 2 []

/-- Bytes that host software writes into the exchange RAM. A new H2E word whose complement holds, and whose number is not that
of the latest answer, is taken; one whose complement fails is ignored. -/
def State.xramWrite (s : State) (off : Nat) (b : List Byte) : State :=
  let old := readLE s.xram 0 8
  let s : State := { s with xram := writeBytes s.xram off b }
  let h := readLE s.xram 0 8
  let seq := h % 2 ^ 32
  if h = seqWord seq ∧ h ≠ old ∧ readLE s.xram 0x10000 8 ≠ h ∧ s.boot.writeWaits ≠ some seq then s.mailTake seq else s

/-- The write ends: with a good read-back the tag names the image, and phase F resumes. -/
def State.flashEnd (s : State) (w : Nat × List Byte) (ok : Bool) : State :=
  let held := if ok then some w else none
  let b := s.boot
  let s := s.setBoot { b with
    stage := 6, shed := .f, writing := none, writeWaits := none
    flash0 := if b.slot = 0 then b.flash0 else held
    flash1 := if b.slot = 0 then held else b.flash1
    pldm := if b.writeWaits.isSome then b.pldm else if ok then 0 else 2 }
  match b.writeWaits with
  | some seq => s.mailOut seq (if ok then 0 else 4) []
  | none => s

def execFlashWriteDone (readBackOk : Bool) (s : State) : Out :=
  .next (match s.boot.writing with
    | some w => s.flashEnd w readBackOk
    | none => s)

end Sys2Proof.Machine
end

