-- ==== Sys2Proof/Machine/Token.lean ====
section
/-! DEFINITION. The token unit: a token is drawn from the logits, accepted, logged and written to the stream buffer
(R23, R24, R276, R277, R291, R295, R301–R307). -/

namespace Sys2Proof.Machine

open Sys2Proof

/-! ## TOKEN_DRAW (R306, R307) -/

/-- The IDs of a draw with their logits: those listed, and the IDs that matter among the unlisted, whose logit is −∞: each
one of the penalty window, and the lowest of the rest (log entry 2). -/
def drawIds (vocab : Nat) (window : List Nat) (logits : List (Nat × F32)) : List (Nat × Nat) :=
  let listed := logits.map fun x => (x.1, x.2.toNat)
  let has (i : Nat) : Bool := logits.any fun x => decide (x.1 = i)
  let win := window.eraseDups.filter fun i => !has i
  let other := (List.range vocab).find? fun i => !has i && !win.contains i
  listed ++ (win ++ other.toList).map fun i => (i, negInf)

/-- The token drawn for a request from its logits, at position `pos`. -/
def drawToken (vocab : Nat) (r : ReqRec) (logits : List (Nat × F32)) (pos : Nat) : Nat × Bool :=
  let seq := r.log ++ r.prompt
  let window := seq.drop (seq.length - smWindow r.sampling)
  let adj := (drawIds vocab window logits).map fun x =>
    (adjusted r.sampling (maskAllows r.mask x.1) (window.count x.1) x.2, x.1)
  choose r.sampling r.seed (ranked (smTopK r.sampling) adj) pos

/-- No other stream's token stands in the token-unit lane of a side: a lane holds one pick at a time. -/
def State.laneFree (s : State) (side : Nat) : Bool :=
  s.bolts.all fun b => decide (b.2.homeSide ≠ side) || b.2.slots.all fun k => k.2.drawn.isNone

/-- The picks that wait for the lane of a side: the oldest pick of the tree of each running epoch, by bolt and slot (R20). -/
def State.atLane (s : State) (side : Nat) : List (Nat × Nat) :=
  s.bolts.flatMap fun b => if b.2.homeSide = side ∧ b.2.st = .serving then
      (b.2.current.toList ++ b.2.other.toList).filterMap fun e =>
        (b.2.tops.find? fun k => e.slotNos.contains k).map fun k => (b.1, k)
    else []

/-- R21 at a lane: no waiting pick has a lower rank, or an equal one in a lower slot. -/
def State.laneTurn (s : State) (side b slot : Nat) : Bool :=
  let rank (x : Nat × Nat) : Nat := ((s.bolt x.1).slotRec x.2).rank
  let l := s.atLane side
  l.contains (b, slot) && l.all fun x =>
    decide (rank (b, slot) < rank x) || (decide (rank (b, slot) = rank x) && decide (slot ≤ x.2))

/-- A stream's last unit has passed every region, and the sampler draws its token. -/
def execTokenDraw (b slot : Nat) (logits : List (Nat × F32)) (s : State) : Out :=
  onUnit (decide (b < Config.nBolts) && decide (slot < Config.maxSlots)) s fun s =>
    let k := (s.bolt b).slotRec slot
    match k.tail, k.req with
    | u :: rest, some i =>
      if (s.bolt b).st = .serving ∧ k.drawn = none ∧ s.laneFree (s.bolt b).homeSide = true ∧
          s.laneTurn (s.bolt b).homeSide b slot = true then
        s.useReq i fun s =>
          let r := s.req i
          let v := (s.reqEpoch r).serve.vocab
          if logits.all (fun x => decide (x.1 < v)) && decide (logits.map fun x => x.1).Nodup then
            let t := drawToken v r logits r.seqLen
            let warn := t.2 || (u.toks.getLastD freshTok).warn
            s.modBolt b fun x => ({ x with tops := x.tops.erase slot } : BoltRec).modSlot slot fun k =>
              { k with drawn := some (t.1, warn), tail := rest }
          else s
      else s
    | _, _ => s

/-! ## TOKEN_ACCEPT -/

/-- TTFT and TBT of the turn (R295), with the violations to be counted: of TTFT and of TBT. -/
def ReqRec.timed (r : ReqRec) (now : Nat) : ReqRec × Bool × Bool :=
  if r.turnTokens = 0 then
    let v := decide (r.ttftTarget ≠ 0) && decide (1000 * r.ttftTarget < now - r.tAccept)
    ({ r with ttftUs := min ((now - r.tAccept) / 1000) (2 ^ 32 - 1), ttftViol := v, tLast := now }, v, false)
  else
    let x := now - r.tLast
    let v := decide (r.tbtTarget ≠ 0) && decide (r.tbtTarget < x)
    ({ r with
        tbtAvg := if r.intervals = 0 then (x : Int) else r.tbtAvg + ((x : Int) - r.tbtAvg) / 16
        intervals := r.intervals + 1
        tbtMax := max r.tbtMax x
        tbtViol := if v then satAdd 16 r.tbtViol 1 else r.tbtViol
        tLast := now }, false, v)

/-- The word of a token record (R276). -/
def tokenRecord (id : Nat) (warn stop cut : Bool) (bytes : Nat) : Nat :=
  id % 2 ^ 18 + (boolNat warn <<< 18) + (boolNat stop <<< 19) + (boolNat cut <<< 20) + (min bytes 255 <<< 24)

/-- A record with its text and then the counts: written, or kept while the function's writes are blocked (R277, R283). -/
def State.putToken (s : State) (i rec_ : Nat) (text : List Byte) : State :=
  let r := s.req i
  if (s.func r.func).writable && r.undelivered.isEmpty then
    let s := s.toHost (r.outAddr + 64 + 4 * (r.turnTokens - 1)) (leBytes 4 rec_)
    let s := s.toHost (r.outAddr + tokenEnd r.maxTokens + r.textBytes) text
    let s := s.modReq i fun r => { r with textBytes := r.textBytes + text.length }
    s.toHost r.outAddr ((s.req i).header false)
  else s.setReq i { r with
    textBytes := r.textBytes + text.length, undelivered := r.undelivered ++ [(rec_ + 1, text)] }

/-- The reservation grows with the pages, within the budget (R291). -/
def State.growReserve (i want : Nat) : Nat → State → State
  | 0, s => s
  | n + 1, s =>
    let r := s.req i
    if r.reservedPages < want ∧ s.committed r.bolt < s.pageBudget r.bolt then
      State.growReserve i want n (s.setReq i { r with reservedPages := r.reservedPages + 1 })
    else s

/-- The end of a turn that a token brings, the first that applies (R302); 0 for none. -/
def endOf (ends stops : List Nat) (id : Nat) (stop cut : Bool) (ctxLen turnTokens maxTokens : Nat) : Nat :=
  if id ∈ ends ∨ id ∈ stops then 2
  else if stop then 1
  else if cut then 4
  else if Config.maxContext ≤ ctxLen then 7
  else if maxTokens ≤ turnTokens then 3
  else 0

/-- The automaton after an accepted token, with the mask for the next pick (R304). -/
def ReqRec.stepGrammar (r : ReqRec) (ends : List Nat) (id : Nat) : ReqRec :=
  match r.mask with
  | some m =>
    let q := grStep r.grammar m r.gstate r.gstack id
    { r with gstate := q.1, gstack := q.2, mask := some (grMask r.grammar ends q.1 q.2) }
  | none => r

/-- What a token releases: text to be written, bytes withheld, stop string complete, text cut, end reason. -/
structure Release where
  text : List Byte
  withheld : List Byte
  stop : Bool
  cut : Bool
  reason : Nat

/-- The text rules for a token that has been logged (R277, R301, R302). -/
def ReqRec.release (r : ReqRec) (e : EpochRec) (id : Nat) : Release :=
  let f := feedText (smStops r.sampling) r.withheld (tuString e.tokenShard id)
  let reason (cut : Bool) : Nat :=
    endOf e.serve.endIds (smStopIds r.sampling) id f.2.2 cut r.ctxLen r.turnTokens r.maxTokens
  let text := if r.idsOnly then [] else f.1 ++ (if reason false = 0 then [] else flushText f.2.1)
  let room := r.outLen - tokenEnd r.maxTokens - r.textBytes
  let cut := decide (room < text.length)
  ⟨text.take room, if reason cut = 0 then f.2.1 else [], f.2.2, cut, reason cut⟩

/-- What an accepted token leaves behind: its pages, reservation, the next mask, its adapter's use. -/
def State.afterToken (s : State) (i id : Nat) : State :=
  let r := s.req i
  let e := s.reqEpoch r
  let s := s.pagesFor i r.ctxLen
  let want := ceilDiv r.ctxLen 64 + overheadPages (s.bolt r.bolt).consts r.ctxLen r.maxTokens
  let s := State.growReserve i want (want - r.reservedPages) s
  let s := s.modReq i fun r => r.stepGrammar e.serve.endIds id
  let s := match r.adapterNo with
    | some k => s.modAdapter k fun a => { a with used := s.time }
    | none => s
  s.modBolt r.bolt fun b => b.modSlot r.slot fun k => { k with timedOut := false, progress := s.time }

/-- A token logged, counted and written; then the turn ends or the next pick waits at the first region. -/
def State.acceptLogged (s : State) (i id : Nat) (warn : Bool) : State :=
  let r := s.req i
  let f := r.release (s.reqEpoch r) id
  let s := s.setReq i { r with withheld := f.withheld }
  let s := s.putToken i (tokenRecord id warn f.stop f.cut f.text.length) f.text
  let s := s.afterToken i id
  if f.reason ≠ 0 then s.endTurn i f.reason 0 0
  else if (s.req i).mask = some [] then s.endTurn i 6 0 0
  else if 64 < (s.req i).undelivered.length then s.endTurn i 5 1 0
  else s.queueUnits i

/-- The input of the turn and the token enter the token log (R301). -/
def ReqRec.logToken (r : ReqRec) (id : Nat) : ReqRec :=
  let n := r.seqLen
  { r.logPrompt with log := r.log ++ r.prompt ++ [id], ctxLen := n + 1, kvLen := n, turnTokens := r.turnTokens + 1 }

/-- The drawn token of a stream is accepted; where its log needs a creel block that R223 cannot free without the stream's
own pages, the stream is paused instead, and draws the token again when it resumes. -/
def State.tokenAccept (s : State) (i id : Nat) (warn : Bool) : State :=
  s.useReq i fun s =>
    let r := s.req i
    if r.st = rqPrefill ∨ r.st = rqDecode then
      let q := State.withRoom r.bolt i (fun s => s.modReq i fun r => r.logToken id) (s.reclaimFuel r.bolt) s
      if q.2 then
        let t := r.timed s.time
        let s := q.1.modReq i fun r => { r.setSt rqDecode with
          ttftUs := t.1.ttftUs, ttftViol := t.1.ttftViol, tLast := t.1.tLast, tbtAvg := t.1.tbtAvg
          intervals := t.1.intervals, tbtMax := t.1.tbtMax, tbtViol := t.1.tbtViol
          warned := r.warned + boolNat warn, noMask := false }
        let s := s.modServeOf r.bolt fun v => { v with
          ttftViol := satAdd 32 v.ttftViol (boolNat t.2.1), tbtViol := satAdd 32 v.tbtViol (boolNat t.2.2) }
        s.acceptLogged i id warn
      else q.1
    else s

def execTokenAccept (b slot : Nat) (s : State) : Out :=
  onUnit (decide (b < Config.nBolts) && decide (slot < Config.maxSlots)) s fun s =>
    let k := (s.bolt b).slotRec slot
    match k.drawn, k.req with
    | some (id, warn), some i =>
      if (s.bolt b).st = .serving then
        (s.modBolt b fun x => x.modSlot slot fun k => { k with drawn := none }).tokenAccept i id warn
      else s
    | _, _ => s

end Sys2Proof.Machine
end

