-- ==== Sys2Proof/Machine/QpCtl.lean ====
section
/-! DEFINITION. Queue pairs committed, disabled and reset; PCIe ports down and up; errors of host reads and blocked writes
(R259–R263, R282, R283, R399). -/

namespace Sys2Proof.Machine

open Sys2Proof

/-! ## Disable (R263) -/

/-- The final of a request's descriptor stands ready in the queue pair, not yet written. -/
def QpRec.holdsFinal (r : QpRec) (handle : Nat) : Bool :=
  r.held.any fun c => c.entry && decide (c.kind = 0) && decide (c.handle = handle) && c.frees.isNone

/-- The request's latest descriptor came from the queue pair and its final is not written: still to come, or held. -/
def State.owedTo (s : State) (q i : Nat) : Bool :=
  let r := s.req i
  match r.intake with
  | some k => decide (k.fin.q = q)
  | none => decide (r.qp = q) && r.live && decide (r.st ≤ 7) &&
      (r.auto || (s.qp q).holdsFinal (r.handle i) ||
        !(decide (r.st = rqHeld) || decide (r.st = rqParked) || decide (r.st = rqAbsent)))

/-- One such request is cancelled. -/
def State.cancelOf (s : State) (i : Nat) : State :=
  if (s.req i).st = rqFree then s.dropIntake i ssCancelled else s.useReq i fun s => s.endReq i rqCancelled ssCancelled

/-- Loads in progress from the queue pair fail, with nothing activated. -/
def State.failLoads (s : State) (q : Nat) : State :=
  let s := (List.range Config.nBolts).foldl (fun s b => match (s.bolt b).load, (s.bolt b).other with
    | some l, some e => if l.fin.q = q ∧ e.position = 0 then s.loadFail b ssCancelled 0 0xFFFFFFFF else s
    | _, _ => s) s
  ((s.adapters.filter fun e => match e.2.fin with
    | some f => decide (f.q = q)
    | none => false).map fun e => e.1).foldl (fun s k => s.adapterEnd k ssCancelled) s

/-- Held completions of a queue pair that writes none any more. -/
def State.dropHeld (s : State) (q : Nat) : State :=
  let l := (s.qp q).held
  l.foldl (fun s c => s.finalDone c) (s.modQp q fun r => { r with held := [] })

/-- A final that no queue pair writes: queue pair `nQueuePairs` does not exist and is never enabled. -/
def FinOf.orphan (q : Nat) (f : FinOf) : FinOf := if f.q = q then { f with q := Config.nQueuePairs } else f

def BoltOp.orphan (q : Nat) : BoltOp → BoltOp
  | .switchTo e f => .switchTo e (f.orphan q)
  | .unload e d f => .unload e d (f.orphan q)
  | .create f => .create (f.orphan q)
  | .scrub f w d => .scrub (f.orphan q) w d
  | .scrubLoad f => .scrubLoad (f.orphan q)
  | .freeScrub c => .freeScrub c

/-- The operations of the queue pair that run on to their ends write no completion, also where it is enabled again meanwhile. -/
def State.orphanOps (s : State) (q : Nat) : State :=
  let s := (List.range Config.nBolts).foldl (fun s b => s.modBolt b fun r => { r with
    ops := r.ops.map (BoltOp.orphan q), tune := r.tune.map fun t => { t with fin := t.fin.orphan q } }) s
  (s.adapters.map fun e => e.1).foldl (fun s k => s.modAdapter k fun a => { a with evict := a.evict.map (FinOf.orphan q) }) s

/-- A queue pair goes from enabled to disabled with a new record: fetching stops, and what it opened ends without completions. -/
def State.disableQp (s : State) (q : Nat) (r : QpRec) : State :=
  let owed := (s.reqs.map fun e => e.1).filter fun i => s.owedTo q i
  let s := s.setQp q { r with quiesced := false, disabledAt := s.time, pend := 0 }
  let s := s.dropHeld q
  let s := owed.foldl (fun s i => s.cancelOf i) s
  (s.failLoads q).orphanOps q

/-! ## QP_COMMIT (R262, R263) -/

/-- Why a commit of a record is rejected. -/
def State.qpBad (s : State) (q : Nat) : Bool :=
  let r := s.qp q
  let g := r.cfgSh
  let f := cfgFunc g
  decide (10 < bits r.sqSh.toNat 0 4) || decide (10 < bits r.cqSh.toNat 0 4) ||
  (cfgIrqEn g && decide (cfgVector g = 0)) || (decide (1 < cfgAggCount g) && decide (cfgAggTime g = 0)) ||
  (decide (f % 8 ≠ 0) && !(s.func f).enabled) || (decide (q = 0) && decide (f ≠ 0)) ||
  (cfgEnable r.cfg && cfgEnable g && (decide (f ≠ cfgFunc r.cfg) || decide (r.sqSh ≠ r.sq) || decide (r.cqSh ≠ r.cq)))

/-- The committed values taken from the shadows. -/
def QpRec.taken (r : QpRec) : QpRec := { r with sq := r.sqSh, cq := r.cqSh, cfg := r.cfgSh }

/-- A record that becomes enabled starts over. -/
def QpRec.started (r : QpRec) : QpRec :=
  { r with
    quiesced := false, error := false, errCause := 0, sqHead := 0, sqTail := 0, cqTail := 0, cqHead := 0, cqPhase := true
    unread := 0, held := [], pend := 0, openDescs := [], barrierOk := false }

def State.qpCommit (s : State) (f q : Nat) : State :=
  let r := s.qp q
  if s.qpBad q then s.rejectCommit (srcFunc f) (0x010038 + 0x40 * q)
  else if cfgEnable r.cfg && !cfgEnable r.cfgSh then s.disableQp q r.taken
  else if !cfgEnable r.cfg && cfgEnable r.cfgSh then s.setQp q r.taken.started
  else s.setQp q r.taken

/-- Function 0 and the owning function see a record (R424). -/
def State.qpSeen (s : State) (f q : Nat) : Bool := adminFn f || decide ((s.qp q).func = f)

def execQpCommit (f q : Nat) (s : State) : Out :=
  onUnit (decide (f < Config.nFunctions) && decide (q < Config.nQueuePairs)) s fun s =>
    if s.qpSeen f q then s.qpCommit f q else s.refuseAccess

/-! ## FLR, link-down and link-up (R282, R399, R430) -/

/-- A record disabled with zero bases, in both its copies; the function stays. -/
def QpRec.zeroed (r : QpRec) : QpRec :=
  let base (w : Word) : Word := BitVec.ofNat 64 (bits w.toNat 0 12)
  let off (w : Word) : Word := BitVec.ofNat 64 (setBits w.toNat 36 1 0)
  { r with sq := base r.sq, cq := base r.cq, sqSh := base r.sqSh, cqSh := base r.cqSh, cfg := off r.cfg, cfgSh := off r.cfgSh }

def State.resetQp (s : State) (q : Nat) : State :=
  let r := s.qp q
  if r.enabled then s.disableQp q r.zeroed else s.setQp q r.zeroed

/-- Every queue pair of a function. -/
def State.resetFunc (s : State) (f : Nat) : State :=
  ((s.qps.filter fun e => decide (e.2.func = f)).map fun e => e.1).foldl (fun s q => s.resetQp q) s

/-- A PF's reset takes its VFs with it. -/
def flrOf (f : Nat) : List Nat := if f % 8 = 0 then (List.range 8).map fun v => f + v else [f]

def execFlr (f : Nat) (s : State) : Out := onFunc f s fun s => (flrOf f).foldl (fun s g => s.resetFunc g) s

/-- Writes to a function cannot be issued from now on (R283). -/
def State.stopWrites (s : State) (f : Nat) : State := s.modFunc f fun r => { r with writable := false }

/-- Writes to the functions of a port that is down cannot be issued. -/
def State.portDown (s : State) (p : Nat) : State :=
  let s := (flrOf (8 * p)).foldl (fun s g => s.stopWrites g) s
  let s := (flrOf (8 * p)).foldl (fun s g => s.resetFunc g) s
  { s with boot := { s.boot with linkUp := s.boot.linkUp &&& ~~~(BitVec.ofNat 4 (2 ^ p)) } }

def execPcieLinkDown (p : Nat) (s : State) : Out := onUnit (decide (p < 4)) s fun s => s.portDown p

/-! ## Host errors and blocked writes (R283) -/

/-- PCIE_AER, severity 2, with the uncorrectable status bits. -/
def State.aer (s : State) (f status : Nat) : State := s.reportSev (srcFunc f) 0x1C 2 ((status % 2 ^ 29) <<< 1)

/-- A shard's read has failed: a failed attempt, timed out. -/
def State.shardReadFails (s : State) (b shard status : Nat) : State :=
  let fn (f : FinOf) : Nat := (s.qp f.q).func
  match adapterShard shard with
  | some (k, i) =>
    let a := s.adapter k
    match a.fin with
    | some f => whenS (decide (a.bolt = b) && decide ((a.shards.getD i {}).st = .inFlight)) s fun s =>
        (s.aer (fn f) status).adapterFailed k i ssTimeout
    | none => s
  | none => match (s.bolt b).load, (s.bolt b).other with
    | some l, some e => whenS (decide ((e.shard shard).st = .inFlight)) s fun s =>
        (s.aer (fn l.fin) status).shardFailed b shard ssTimeout
    | _, _ => s

def DmaRead.known : DmaRead → Bool
  | .submission q => decide (q < Config.nQueuePairs)
  | .shard b _ => decide (b < Config.nBolts)
  | .request i => decide (i < Config.nRequests)
  | .block q _ => decide (q < Config.nQueuePairs)

/-- The opcodes whose descriptors point to blocks that are read as they are accepted: a manifest with its chain and shard
tables, or a tuning job. -/
def blockOpcodes : List Nat := [0x10, 0x11, 0x30]

/-- Such a block could not be read: the descriptor at the head of the ring is accepted and completes INVALID. -/
def State.blockReadFails (s : State) (q : Nat) (d : BitVec 1024) (status : Nat) : State :=
  if dOpcode d ∈ blockOpcodes then match s.accept q d with
    | some (s, a) => if headerOk q d then (s.aer (s.qp q).func status).invalid a else s.invalid a
    | none => s
  else s

def execDmaReadError (r : DmaRead) (status : Nat) (s : State) : Out :=
  onUnit (DmaRead.known r) s fun s => match r with
    | .submission q => whenS (s.canFetch q) s fun s => (s.aer (s.qp q).func status).qpError q 3
    | .shard b i => s.shardReadFails b i status
    | .request i => match (s.req i).intake with
      | some k => if k.read then s else (s.aer (s.qp k.fin.q).func status).dropIntake i ssInvalid
      | none => s
    | .block q d => s.blockReadFails q d status

/-- One undelivered record, or the text of a turn's end, written: the record's index and the text's offset. -/
def State.putHeld (outAddr maxTokens : Nat) : List (Nat × List Byte) → Nat → Nat → State → State
  | [], _, _, s => s
  | (w, text) :: rest, n, off, s =>
    let s := if w = 0 then s else s.toHost (outAddr + 64 + 4 * n) (leBytes 4 (w - 1))
    State.putHeld outAddr maxTokens rest (if w = 0 then n else n + 1) (off + text.length)
      (s.toHost (outAddr + tokenEnd maxTokens + off) text)

/-- The undelivered tokens of a request go to its stream buffer, then the header's counts. -/
def State.deliver (s : State) (i : Nat) : State :=
  let r := s.req i
  let l := r.undelivered
  if l = [] ∧ r.headDue = false ∧ r.doneDue = false then s
  else
    let recs := (l.filter fun x => decide (x.1 ≠ 0)).length
    let text := l.foldl (fun a x => a + x.2.length) 0
    let s := State.putHeld r.outAddr r.maxTokens l (r.turnTokens - recs) (r.textBytes - text) s
    (s.toHost r.outAddr (r.header r.doneDue)).modReq i fun r => { r with
      undelivered := [], headDue := false, doneDue := false }

/-- Writes to a function can be issued again: held MSI-X messages that no mask holds, undelivered tokens and held completions. -/
def State.resume (s : State) (f : Nat) : State :=
  let s := s.modFunc f fun r => { r with writable := true }
  let r := s.func f
  let due := (List.range 64).filter fun v => r.pendingMsix.getLsbD v && !r.masked.getLsbD v
  let s := due.foldl (fun s v => s.sendMsix f v) (s.setFunc f { r with pendingMsix := r.pendingMsix &&& r.masked })
  let s := ((s.reqs.filter fun e => decide (e.2.func = f)).map fun e => e.1).foldl (fun s i => s.deliver i) s
  ((s.qps.filter fun e => decide (e.2.func = f)).map fun e => e.1).foldl (fun s q => s.drainCq q) s

/-- The function's port is up. -/
def State.portIsUp (s : State) (f : Nat) : Bool := s.boot.linkUp.getLsbD (f / 8)

def execWritesResume (f : Nat) (s : State) : Out :=
  onFunc f s fun s => whenS (!(s.func f).writable) s fun s => s.resume f

/-- The Bus Master Enable bit of a function is written: writes to it stop, or go on where its port is up. -/
def State.setBusMaster (s : State) (f : Nat) (on : Bool) : State :=
  let s := s.modFunc f fun r => { r with busMaster := on }
  if on then whenS (!(s.func f).writable && s.portIsUp f) s fun s => s.resume f else s.stopWrites f

/-- A port has trained at x8 or wider: the functions whose Bus Master Enable is 1 can be written to again. -/
def State.portUp (s : State) (p : Nat) : State :=
  let s : State := { s with boot := { s.boot with linkUp := s.boot.linkUp ||| BitVec.ofNat 4 (2 ^ p) } }
  let s := (flrOf (8 * p)).foldl (fun s f => s.modFunc f fun r => { r with enabled := true }) s
  ((flrOf (8 * p)).filter fun f => (s.func f).busMaster).foldl (fun s f => s.resume f) s

/-- A port trains again; a link narrower than x8 stays down and is reported (Table 10.1). -/
def execPcieLinkUp (link : PortTraining) (s : State) : Out :=
  onUnit (decide (link.port < 4)) s fun s => whenS s.boot.booted s fun s =>
    if 8 ≤ link.lanes then s.portUp link.port else s.pcieFailed link.port

end Sys2Proof.Machine
end

