-- ==== Sys2Proof/Machine/RegMap.lean ====
section
/-! DEFINITION. The setup space: its registers by BAR0 offset, what each function sees of it, and what each register
reads (R420–R428 and the register tables that they name). -/

namespace Sys2Proof.Machine

open Sys2Proof

/-- A register of the setup space, with its instance and its offset in the instance's page. -/
inductive Reg where
  | engine (o : Nat)
  | qp (q o : Nat)
  | bolt (b o : Nat)
  | power (o : Nat)
  | vaStatus (f : Nat)
  | vaPad (f : Nat)
  | trdLane (f : Nat)
  | pdCtrl (k : Nat)
  | pdStatus (k : Nat)
  | droopTime (k : Nat)
  | thermal (o : Nat)
  | thSkein (k : Nat)
  | fault (o : Nat)
  | ftKind (k : Nat)
  | ftField (f : Nat)
  | lgStatus
  | logWord (slot w : Nat)
  | ctSel
  | ctVal (i : Nat)
  | ct (b o : Nat)
  | link (l o : Nat)
  | span (o : Nat)
  | spanRoute (e : Nat)
  | spanPeer (f : Nat)
  | creel (p o : Nat)
  | serve (o : Nat)
  | serveBolt (b o : Nat)
  | kv (b o : Nat)
  | watch (b o : Nat)
  | watchRegion (b r : Nat)
  | anchorCommit
  | anchorLock
  | secStatus
  | anchor (i w : Nat)
  deriving DecidableEq, Repr

/-- A record of `size` bytes, `n` of them from `base` on: the instance and the offset in it. -/
def instAt (base size n off : Nat) : Option (Nat × Nat) :=
  if base ≤ off ∧ off < base + size * n then some ((off - base) / size, (off - base) % size) else none

/-- An instance's register, where its page has one at the offset. -/
def pick2 (base size n off : Nat) (has : List Nat) (mk : Nat → Nat → Reg) : Option Reg :=
  match instAt base size n off with
  | some (i, o) => if o ∈ has then some (mk i o) else none
  | none => none

/-- One word for each instance. -/
def pick1 (base n off : Nat) (mk : Nat → Reg) : Option Reg :=
  match instAt base 8 n off with
  | some (i, _) => some (mk i)
  | none => none

/-- A single register at each of some offsets from a base. -/
def pick0 (base off : Nat) (has : List Nat) (mk : Nat → Reg) : Option Reg :=
  if base ≤ off ∧ off - base ∈ has then some (mk (off - base)) else none

/-- POWER and THERMAL (Tables 14.7, 15.7). -/
def regPower (off : Nat) : Option Reg :=
  (pick0 0x40000 off [0x00, 0x08, 0x10, 0x20, 0x30] .power) <|>
  (pick2 0x41000 16 48 off [0, 8] fun f o => if o = 0 then .vaStatus f else .vaPad f) <|>
  (pick1 0x41800 48 off .trdLane) <|>
  (pick2 0x42000 16 4608 off [0, 8] fun k o => if o = 0 then .pdCtrl k else .pdStatus k) <|>
  (pick1 0x54000 4608 off .droopTime) <|>
  (pick0 0x60000 off [0x00, 0x08, 0x10, 0x18, 0x20, 0x28] .thermal) <|>
  (pick1 0x61000 4608 off .thSkein)

/-- FAULT, COUNTERS, LINKS and CREEL (Tables 16.9, 16.10a, 13.9, 13.10, 12.7). -/
def regUnits (off : Nat) : Option Reg :=
  (pick0 0x70000 off [0x00, 0x08, 0x10, 0x18, 0x20] .fault) <|>
  (pick1 0x70400 64 off .ftKind) <|>
  (pick1 0x70800 49 off .ftField) <|>
  (pick0 0x70F00 off [0] fun _ => .lgStatus) <|>
  (pick2 0x71000 32 256 off [0, 8, 16, 24] fun k o => .logWord k (o / 8)) <|>
  (pick0 0x80000 off [0] fun _ => .ctSel) <|>
  (pick1 0x80008 4 off .ctVal) <|>
  (pick2 0x81000 0x1000 8 off
    [0x00, 0x10, 0x18, 0x20, 0x28, 0x30, 0x40, 0x48, 0x50, 0x58, 0x60, 0x68, 0x70, 0x78] .ct) <|>
  (pick2 0x90000 0x400 36 off [0x00, 0x08, 0x10, 0x18] .link) <|>
  (pick0 0x9C000 off [0x00, 0x08, 0x10] .span) <|>
  (pick1 0x9C400 64 off .spanRoute) <|>
  (pick1 0x9C800 64 off .spanPeer) <|>
  (pick2 0xA0000 0x400 32 off [0x00, 0x08, 0x10, 0x18] .creel)

/-- SERVE and SECURITY (Tables 11.8, 8.7, 7.4, 9.5, 18.7). -/
def regServe (off : Nat) : Option Reg :=
  (pick0 0xB0000 off [0x00, 0x08] .serve) <|>
  (pick2 0xB2000 0x100 8 off [0x00, 0x08, 0x10, 0x18, 0x20, 0x28] .serveBolt) <|>
  (pick2 0xB4000 0x100 8 off [0x00, 0x08, 0x10, 0x18, 0x20, 0x28] .kv) <|>
  (match instAt 0xB8000 0x1000 8 off with
    | some (b, o) =>
      if o ∈ [0x00, 0x08, 0x10] then some (.watch b o)
      else if 0x800 ≤ o then some (.watchRegion b ((o - 0x800) / 8)) else none
    | none => none) <|>
  (pick0 0xC0000 off [0] fun _ => .anchorCommit) <|>
  (pick0 0xC0000 off [8] fun _ => .anchorLock) <|>
  (pick0 0xC0000 off [0x10] fun _ => .secStatus) <|>
  (match instAt 0xC0100 0x80 8 off with
    | some (i, o) => if o / 8 ≤ 12 then some (.anchor i (o / 8)) else none
    | none => none)

/-- The register at an 8-byte aligned BAR0 offset (Tables 18.3, 18.4); none where the range is reserved. -/
def regAt (off : Nat) : Option Reg :=
  (pick0 0 off [0x00, 0x08, 0x10, 0x18, 0x20, 0x30, 0x100, 0x108, 0x110] .engine) <|>
  (pick2 0x10000 0x40 1024 off [0x00, 0x08, 0x10, 0x18, 0x20, 0x38] .qp) <|>
  (pick2 0x30000 0x1000 8 off [0x00, 0x08, 0x10, 0x18, 0x20, 0x28, 0x30] .bolt) <|>
  (if off < 0x70000 then regPower off else if off < 0xB0000 then regUnits off else regServe off)

/-- The engine waits in boot for an image from host software: function 0 sees the ENGINE block alone (R410, R418). -/
def State.bootView (s : State) : Bool := s.boot.bootSrc && decide (1 ≤ s.boot.stage) && decide (s.boot.stage ≤ 5)

/-- A register stands in a function's view of BAR0 (Table 18.8). -/
def State.regSeen (s : State) (f : Nat) : Reg → Bool
  | .engine o => if s.bootView then adminFn f else adminFn f || decide (o ≠ 0x100)
  | .qp q _ => !s.bootView && s.qpSeen f q
  | .bolt b _ => !s.bootView && (adminFn f || decide (s.boltOfFunc f = some b))
  | .ct b _ => !s.bootView && (adminFn f || (decide (s.boltOfFunc f = some b) && (s.ctPage b).bcfg.getLsbD 29))
  | _ => !s.bootView && adminFn f

/-! ## What registers read -/

def countTab {α : Type} (t : Tab α) (p : α → Bool) : Nat := (t.filter fun e => p e.2).length

/-- Fields put side by side, lowest first: (width, value); a value too great for its field reads its low bits. -/
def regFields : List (Nat × Nat) → Nat
  | [] => 0
  | (w, v) :: r => v % 2 ^ w + 2 ^ w * regFields r

/-- ENGINE (Tables 18.5, 10.13, 17.13). -/
def State.engineReg (s : State) (f o : Nat) : Nat :=
  let b := s.boot
  if o = 0x00 then regFields [(16, Config.vendorId.toNat), (16, 0x4B48), (8, 0xB1), (8, 1)]
  else if o = 0x08 then 0x0000312D3834574B
  else if o = 0x10 then Config.moduleSerial.toNat
  else if o = 0x18 then
    regFields [(2, s.beaconState), (4, s.beaconCat), (6, s.engineNo),
      (8, packFields 1 8 fun i => boolNat (decide ((s.bolt i).st ≠ .none))), (1, boolNat s.ready), (11, 0), (16, s.badAccess)]
  else if o = 0x20 then s.time
  else if o = 0x30 then
    regFields [(5, f), (3, (s.boltOfFunc f).getD 0), (1, boolNat (s.boltOfFunc f).isSome), (1, boolNat (adminFn f))]
  else if o = 0x100 then regFields [(1, boolNat s.xramColl), (2, 0), (15, s.xramWord)]
  else if o = 0x108 then
    regFields [(4, b.stage), (2, b.strapConfig), (1, boolNat b.bootSrc), (1, boolNat b.mgmtAddr), (1, b.slot),
      (1, boolNat b.fallback), (1, boolNat b.sysclkLost), (1, boolNat b.shortCores), (4, b.fail), (16, b.svn), (32, b.fwVersion)]
  else regFields [(32, b.readyUs), (19, b.deadCores), (13, b.deadSkeins)]

/-- A queue-pair record (Table 10.3). -/
def QpRec.reg (r : QpRec) (o : Nat) : Nat :=
  if o = 0x00 then r.sq.toNat
  else if o = 0x08 then r.cq.toNat
  else if o = 0x10 then r.cfg.toNat
  else if o = 0x18 then
    regFields [(1, boolNat r.enabled), (1, boolNat r.quiesced), (1, boolNat r.error), (4, r.errCause), (16, r.sqHead), (16, r.cqTail),
      (1, boolNat r.cqPhase), (1, boolNat r.cqFull)]
  else if o = 0x20 then regFields [(16, r.badDoorbells), (16, min 65535 r.held.length), (32, r.accepted)]
  else 0

/-- The codes of Table 9.9's other_state. -/
def EpochSt.code : EpochSt → Nat
  | .none => 0 | .loading => 1 | .staged => 2 | .placed => 3 | .draining => 4 | .current => 0

/-- Charge of the current and placed epochs together, in heavy units, rounded up. -/
def BoltRec.chargeUnits (r : BoltRec) : Nat :=
  ceilDiv ((r.current.toList ++ r.other.toList).foldl (fun a e => a + if e.place = [] then 0 else e.charge) 0) (64 * 192)

/-- Spare sites that the bolt can still take: each skein's own spare, and the sites of its fields' spare skeins (R132, R135). -/
def State.sparesLeft (s : State) (b : Nat) : Nat :=
  let r := s.bolt b
  let own := r.skeins.filter fun k => !s.isSpareSkein k && !s.skeinLost k && (s.spareOf k).any fun c => !r.taken.contains c
  (List.range Config.nFields).foldl (fun a f => a + (s.spareSites b ((fieldSkeins f).headD 0)).length) own.length

def State.epochReg (s : State) (b : Nat) : Nat :=
  let r := s.bolt b
  let o := r.other.getD {}
  let drains := decide (o.st = .draining)
  regFields [(16, (r.current.getD {}).num), (16, o.num), (3, EpochSt.code o.st), (1, boolNat (r.pendingSwitch.any fun q => decide ((r.epochOf q.1).map (fun e => e.st) = some .staged))),
    (15, if drains then (s.holders b o.num).length else 0)]

/-- A bolt page (Tables 9.9, 18.6). -/
def State.boltReg (s : State) (b o : Nat) : Nat :=
  let r := s.bolt b
  if o = 0x00 then
    regFields [(8, BoltSt.code r.st), (6, r.sx0), (7, r.sy0), (6, r.w - 1), (7, r.h - 1), (1, boolNat r.spanAccept), (1, boolNat r.retained)]
  else if o = 0x08 then s.epochReg b
  else if o = 0x10 then
    regFields [(16, r.coresMoved), (8, r.skeinsMoved), (8, 0), (16, r.lastStallUs), (13, if r.st = .none then 0 else s.sparesLeft b)]
  else if o = 0x18 then regFields [(32, r.funcMask.toNat), (2, r.homeSide), (2, r.spanSide)]
  else if o = 0x20 then regFields [(21, r.share), (21, r.chargeUnits), (10, (r.current.getD {}).slots)]
  else if o = 0x28 then
    regFields [(10, r.quotaGb), (18, 32 * r.resvPerPort),
      (18, (List.range Config.nPorts).foldl (fun a p => a + ((s.port p).boltBlocks b).length) 0)]
  else r.pickTimeout

/-- PW_STATUS, PW_INPUT, PW_CFG, PW_EVENTS and PW_COMMIT (Table 14.8). -/
def State.powerReg (s : State) (o : Nat) : Nat :=
  let p := s.power
  if o = 0x00 then
    regFields [(2, s.thermal.config), (1, boolNat p.pfSeen), (1, boolNat p.inputClamp),
      (6, countTab s.fields fun r => decide (r.laneState = 2)), (6, 0), (13, countTab s.skeins fun r => r.dead),
      (6, countTab s.fields fun r => r.vaLost)]
  else if o = 0x08 then regFields [(20, p.totalW), (20, p.vcoreW), (12, p.varrW), (12, p.otherW)]
  else if o = 0x10 then regFields [(9, p.vminCode), (7, 0), (8, p.droopMv)]
  else if o = 0x20 then regFields [(16, p.overcurrent), (16, p.turnOns), (16, p.neighbourWaits), (16, p.neighbourCaps)]
  else 0

def FieldRec.vaReg (r : FieldRec) : Nat :=
  regFields [(15, r.vaCurrent), (14, r.vaVoltage), (8, r.vaStatus), (1, boolNat r.vaLost)]

def FieldRec.trdReg (r : FieldRec) : Nat :=
  regFields [(2, r.laneState), (16, r.crcErrors), (8, r.naks), (1, boolNat r.alert)]

/-- PD_STATUS (Table 14.10). -/
def SkeinRec.pdReg (r : SkeinRec) : Nat :=
  regFields [(12, r.current), (12, r.voltage), (10, r.vmin), (8, r.status), (3, if r.dead then 5 else if r.stale then 6 else r.state),
    (1, boolNat r.droop), (9, r.caps.foldl (fun a c => min a c.2) r.kappaP)]

/-- TH_STATUS to TH_EVENTS (Table 15.8). -/
def State.thermalReg (s : State) (o : Nat) : Nat :=
  let t := s.thermal
  let h := s.hotSkein
  if o = 0x00 then
    regFields [(2, t.config), (2, t.configInv), (3, s.coolantCode), (9, t.kappaC), (10, h.2), (10, s.meanCode), (13, h.1), (1, boolNat t.trip)]
  else if o = 0x08 then
    regFields [(10, centiCode t.inlet), (10, centiCode t.outlet), (10, t.flow / 10), (3, t.valid), (1, boolNat t.hubOk)]
  else if o = 0x10 then packFields 16 4 fun i => t.fans.getD i 0
  else if o = 0x18 then regFields [(10, t.flowNom), (16, t.rpmNom)]
  else if o = 0x20 then
    let slots := s.bolts.foldl (fun a e => a + countTab e.2.slots fun x => x.synthetic) 0
    regFields [(8, t.floorC), (14, t.floorW), (1, boolNat t.warmEnable), (9, 0), (10, slots), (6, 0), (16, t.rampMiss)]
  else regFields [(16, t.warn), (16, t.crit), (16, t.disagree), (8, t.flowLow), (8, t.flowLoss)]

def SkeinRec.thReg (r : SkeinRec) : Nat :=
  regFields [(10, r.tempA), (10, r.tempB), (10, r.used), (2, r.mode), (1, boolNat r.suspectA), (1, boolNat r.suspectB), (9, r.kappaS),
    (6, r.hotQ), (4, r.hotStretch)]

/-- The FAULT block (Table 16.10a). -/
def State.faultReg (s : State) (o : Nat) : Nat :=
  let f := s.faults
  if o = 0x00 then
    regFields [(32, f.lastSeq), (2, s.beaconState), (4, s.beaconCat), (1, boolNat f.wrapped), (1, boolNat f.kickLapsed)]
  else if o = 0x08 then regFields [(3, f.irqSev), (6, f.vector), (1, boolNat f.forceEn)]
  else if o = 0x10 then
    let lat := match f.latched with
      | some (c, _, _) => c
      | none => 0
    regFields [(4, lat), (16, packFields 1 16 fun i => boolNat (decide (i ∈ s.activeCats)))]
  else if o = 0x18 then f.force.toNat
  else regFields [(1, boolNat f.forceGo), (1, boolNat f.forceErr)]

/-- A word of the recent window: the latest record whose seq has the slot (R393). -/
def State.logWord (s : State) (slot w : Nat) : Nat :=
  match (s.faults.log.take 256).find? fun r => decide (r.seq % 256 = slot) with
  | some r => leAt r.bytes (8 * w) 8
  | none => 0

/-- A bolt's counter page (Table 16.9). -/
def CtPage.reg (g : CtPage) (o : Nat) : Nat :=
  if o = 0x00 then g.bcfg.toNat
  else if o = 0x10 then g.snap.toNat
  else if o = 0x18 then regFields [(2, g.snapMode), (1, 0), (1, boolNat g.snapDone), (1, boolNat g.snapShort), (27, 0), (32, g.snapLen)]
  else if o = 0x20 then g.sampleCfg.toNat
  else if o = 0x28 then g.ring.toNat
  else if o = 0x30 then regFields [(4, g.sizeCode), (6, g.vector), (16, g.head), (16, g.tail), (16, g.dropped)]
  else (Tab.get 0 g.portCfg ((o - 0x40) / 8)).toNat

/-- A link page (Table 13.9). -/
def LinkRec.reg (r : LinkRec) (o : Nat) : Nat :=
  if o = 0x00 then
    regFields [(2, r.state), (1, boolNat r.mode4), (1, boolNat r.group),
      (8, packFields 1 8 fun k => boolNat (decide ((Tab.get {} r.lanes k : LaneRec).state = 1))), (6, r.peerEngine),
      (1, boolNat r.peerCfg), (1, boolNat r.foreign), (1, boolNat r.conflict)]
  else if o = 0x08 then r.peerSerial
  else if o = 0x10 then regFields [(32, r.retries), (16, r.retrains), (16, r.fecUncorr)]
  else regFields [(1, boolNat r.retrainReq), (1, boolNat r.disable)]

/-- A creel port's page (Table 12.7). A port that has not trained has no owner map yet. -/
def State.creelReg (s : State) (p o : Nat) : Nat :=
  let r := s.port p
  if o = 0x00 then regFields [(2, r.state), (4, r.trainFail)]
  else if o = 0x08 then regFields [(16, r.corrected), (8, r.uncorrected), (35, r.last), (1, boolNat r.valid)]
  else if o = 0x10 then
    if r.state = 0 ∨ r.state = 2 then 0
    else
      let clean := countTab r.owners fun x => decide (x = .clean)
      let sys := countTab r.owners fun x => decide (x = .system)
      let held := countTab r.owners fun x => match x with
        | .bolt _ => true
        | _ => false
      regFields [(13, clean), (13, Config.creelBlocks - clean - sys - held),
        (13, s.bolts.foldl (fun a e => a + e.2.resvPerPort) 0), (13, sys)]
  else regFields [(3, r.worstMr4), (1, boolNat (decide (mr4Base < r.worstMr4))), (28, 0), (32, r.refreshWaits)]

/-- A bolt's serving registers (Table 11.8). -/
def State.serveReg (s : State) (b o : Nat) : Nat :=
  let r := s.serveOf b
  let reqs (p : ReqRec → Bool) : Nat := ((s.boltReqs b).filter fun i => p (s.req i)).length
  if o = 0x00 then regFields [(32, r.ttlDefault), (21, r.growth)]
  else if o = 0x08 then regFields [(32, if (s.bolt b).current.isSome then s.pageBudget b else 0), (32, s.committed b)]
  else if o = 0x10 then regFields [(16, r.admitted), (16, r.deferred), (16, r.rejMemory), (16, r.rejTime)]
  else if o = 0x18 then regFields [(32, r.ttftViol), (32, r.tbtViol)]
  else if o = 0x20 then
    regFields [(10, countTab (s.bolt b).slots fun x => x.req.isSome), (15, reqs fun x => decide (x.st = rqQueued)),
      (15, reqs fun x => decide (x.st = rqHeld) || decide (x.st = rqParked)), (15, reqs fun x => decide (x.st = rqAbsent))]
  else regFields [(32, (s.bolt b).consts.chunkNs), (32, (s.bolt b).consts.pickBaseNs)]

/-- A bolt's KV registers (Table 8.7) and norm-watch registers (Table 7.4). -/
def ServeRec.kvReg (r : ServeRec) (o : Nat) : Nat :=
  if o = 0x00 then r.kvRet.toNat
  else if o = 0x08 then regFields [(32, r.demand), (32, r.stallUs)]
  else if o = 0x10 then regFields [(32, r.prefetchIssued), (32, r.prefetchUsed)]
  else if o = 0x18 then regFields [(32, r.dropPages), (16, r.dropRequests), (16, r.recomputes)]
  else if o = 0x20 then regFields [(32, r.emptyRows)]
  else regFields [(32, r.flushes), (16, r.mapMismatch)]

def ServeRec.watchReg (r : ServeRec) (o : Nat) : Nat :=
  if o = 0x00 then regFields [(32, r.reruns), (32, r.escalations)]
  else if o = 0x08 then regFields [(32, r.warned), (16, r.lost)]
  else regFields [(32, r.gradReplays), (32, r.gradDiscards)]

/-- A word of a trust anchor as committed (Table 9.5). -/
def anchorWord (a : BitVec 384 × BitVec 384 × Bool) (w : Nat) : Nat :=
  if w < 6 then bits a.1.toNat (64 * w) 64 else if w < 12 then bits a.2.1.toNat (64 * (w - 6)) 64 else boolNat a.2.2

def State.anchorOf (s : State) (i : Nat) : BitVec 384 × BitVec 384 × Bool := Tab.get (0, 0, false) s.security.anchor i

/-- The whole register as a function reads it: CMT fields as committed, WO and W1S actions as 0 (Table 0.8). -/
def State.regValue (s : State) (f : Nat) : Reg → Nat
  | .engine o => s.engineReg f o
  | .qp q o => (s.qp q).reg o
  | .bolt b o => s.boltReg b o
  | .power o => s.powerReg o
  | .vaStatus k => (s.field k).vaReg
  | .vaPad _ => 0
  | .trdLane k => (s.field k).trdReg
  | .pdCtrl k => (s.skein k).ctrl.toNat
  | .pdStatus k => (s.skein k).pdReg
  | .droopTime k => (s.skein k).droopTime
  | .thermal o => s.thermalReg o
  | .thSkein k => (s.skein k).thReg
  | .fault o => s.faultReg o
  | .ftKind k => regFields [(32, Tab.get 0 s.faults.kindArrivals k), (32, Tab.get 0 s.faults.kindDropped k)]
  | .ftField k => regFields [(32, (s.collector k).dropped), (8, min 255 (s.collector k).high)]
  | .lgStatus => regFields [(32, s.ledger.totals.seq), (1, boolNat s.ledger.noRecord), (1, boolNat s.ledger.writeFail)]
  | .logWord k w => s.logWord k w
  | .ctSel => s.ctSel
  | .ctVal i => Tab.get 0 s.ctVal i
  | .ct b o => (s.ctPage b).reg o
  | .link l o => (s.link l).reg o
  | .span o => if o = 0x00 then s.span.cfg.toNat else if o = 0x10 then Config.moduleSerial.toNat else 0
  | .spanRoute e => (Tab.get rtReset s.span.route e).toNat
  | .spanPeer e => (Tab.get rtReset s.span.peer e).toNat
  | .creel p o => s.creelReg p o
  | .serve o => if o = 0x00 then regFields [(15, s.freeEntries), (1, 0), (15, s.lowFree)] else s.keyMismatch
  | .serveBolt b o => s.serveReg b o
  | .kv b o => (s.serveOf b).kvReg o
  | .watch b o => (s.serveOf b).watchReg o
  | .watchRegion b r => regFields [(24, Tab.get 0 (s.serveOf b).triggers r), (8, 0), (32, Tab.get 0 (s.serveOf b).lastRatio r)]
  | .anchorCommit => 0
  | .anchorLock => boolNat s.security.lock
  | .secStatus =>
    regFields [(8, packFields 1 8 fun i => boolNat (s.anchorOf i).2.2), (8, s.security.mismatch.toNat), (16, Config.svnMin.toNat),
      (1, boolNat s.security.lock)]
  | .anchor i w => anchorWord (s.anchorOf i) w

end Sys2Proof.Machine
end

