-- ==== Sys2Proof/Machine/Regs.lean ====
section
/-! DEFINITION. Host accesses to the setup space: what a read clears or reloads, what a write does, and the access sizes of
Table 18.2 (R14, R15, R420–R429). -/

namespace Sys2Proof.Machine

open Sys2Proof

/-! ## What a whole read clears or reloads -/

/-- vmin is handed over: its time stays for PD_DROOP_TIME, and the sample that stands now, which no rule gives, takes its
place as a free value. -/
def State.takeVmin (s : State) (k : Nat) : State :=
  let q := s.takeFree
  q.2.modSkein k fun r => { r with
    droopTime := r.vminTime, vminTime := s.time, vmin := (Config.freeWord q.1).toNat % 1024 }

def ServeRec.kvClear (r : ServeRec) (o : Nat) : ServeRec :=
  if o = 0x08 then { r with demand := 0, stallUs := 0 }
  else if o = 0x10 then { r with prefetchIssued := 0, prefetchUsed := 0 }
  else if o = 0x18 then { r with dropPages := 0, dropRequests := 0, recomputes := 0 }
  else if o = 0x20 then { r with emptyRows := 0 }
  else if o = 0x28 then { r with flushes := 0, mapMismatch := 0 }
  else r

def ServeRec.watchClear (r : ServeRec) (o : Nat) : ServeRec :=
  if o = 0x00 then { r with reruns := 0, escalations := 0 }
  else if o = 0x08 then { r with warned := 0, lost := 0 }
  else { r with gradReplays := 0, gradDiscards := 0 }

def ServeRec.serveClear (r : ServeRec) (o : Nat) : ServeRec :=
  if o = 0x10 then { r with admitted := 0, deferred := 0, rejMemory := 0, rejTime := 0 }
  else if o = 0x18 then { r with ttftViol := 0, tbtViol := 0 }
  else r

/-- The RC fields of a register after a whole read. -/
def State.regClear (s : State) : Reg → State
  | .engine o => if o = 0x18 then { s with badAccess := 0 } else s
  | .qp q o => if o = 0x20 then s.modQp q fun r => { r with badDoorbells := 0, accepted := 0 } else s
  | .bolt b o => if o = 0x10 then s.modBolt b fun r => { r with coresMoved := 0, skeinsMoved := 0 } else s
  | .power o =>
    if o = 0x20 then s.setPower { s.power with overcurrent := 0, turnOns := 0, neighbourWaits := 0, neighbourCaps := 0 } else s
  | .trdLane k => s.modField k fun r => { r with crcErrors := 0, naks := 0 }
  | .pdStatus k => s.takeVmin k
  | .thermal o =>
    if o = 0x20 then s.setThermal { s.thermal with rampMiss := 0 }
    else if o = 0x28 then s.setThermal { s.thermal with warn := 0, crit := 0, disagree := 0, flowLow := 0, flowLoss := 0 }
    else s
  | .ftKind k => { s with faults := { s.faults with
      kindArrivals := Tab.put 0 s.faults.kindArrivals k 0, kindDropped := Tab.put 0 s.faults.kindDropped k 0 } }
  | .ftField k => s.setCollector k { s.collector k with dropped := 0, high := (s.collector k).queue.length }
  | .ct b o => if o = 0x30 then s.modCtPage b fun g => { g with dropped := 0 } else s
  | .link l o => if o = 0x10 then s.modLink l fun r => { r with retries := 0, retrains := 0, fecUncorr := 0 } else s
  | .creel p o =>
    if o = 0x08 then s.modPort p fun r => { r with corrected := 0, uncorrected := 0 }
    else if o = 0x18 then s.modPort p fun r => { r with refreshWaits := 0 }
    else s
  | .serve o => if o = 0x00 then { s with lowFree := s.freeEntries } else { s with keyMismatch := 0 }
  | .serveBolt b o => s.modServeOf b fun r => r.serveClear o
  | .kv b o => s.modServeOf b fun r => r.kvClear o
  | .watch b o => s.modServeOf b fun r => r.watchClear o
  | .watchRegion b r => s.modServeOf b fun v => { v with triggers := Tab.put 0 v.triggers r 0 }
  | _ => s

/-! ## What a write does -/

/-- A queue-pair record's shadows; only function 0 writes QP_CFG.function (R262). -/
def State.qpWrite (s : State) (f q o v : Nat) : State :=
  let ring := BitVec.ofNat 64 (setBits (bits v 0 64) 4 8 0)
  if o = 0x00 then s.modQp q fun r => { r with sqSh := ring }
  else if o = 0x08 then s.modQp q fun r => { r with cqSh := ring }
  else if o = 0x10 then s.modQp q fun r =>
    let w := bits v 0 37
    { r with cfgSh := BitVec.ofNat 64 (if adminFn f then w else setBits w 0 5 (cfgFunc r.cfgSh)) }
  else if o = 0x38 ∧ bitAt v 0 = true then s.qpCommit f q
  else s

/-- PW_CFG, which re-evaluates the codes of the domains that are enabled (R346), and PW_COMMIT. -/
def State.powerWrite (s : State) (f o v : Nat) : State :=
  if o = 0x10 then
    let s := s.setPower { s.power with vminCode := max 220 (min 352 (bits v 0 9)), droopMv := bits v 16 8 }
    s.reCode ((s.skeins.filter fun e => pdEnable e.2.ctrl).map fun e => e.1) s.occupied
  else if o = 0x30 ∧ bitAt v 0 = true then
    if s.mayCommit (.host f) then s.pwCommit (.host f) else s.refuseAccess
  else s

/-- PD_CTRL's shadow, from host software in bench configuration only (R347). -/
def State.pdWrite (s : State) (k v : Nat) : State :=
  if s.thermal.config = 3 then
    s.modSkein k fun r => { r with ctrlSh := BitVec.ofNat 64 (bits v 0 13 + (bits v 32 32 <<< 32)) }
  else s

/-- TH_CFG and TH_WARM (Table 15.8). -/
def State.thermalWrite (s : State) (o v : Nat) : State :=
  if o = 0x18 then s.setThermal { s.thermal with
    flowNom := max 300 (min 600 (bits v 0 10)), rpmNom := max 1 (bits v 10 16) }
  else if o = 0x20 then s.setThermal { s.thermal with
    floorC := bits v 0 8, floorW := bits v 8 14, warmEnable := bitAt v 22 }
  else s

/-- The FAULT block (Table 16.10a). -/
def State.faultWrite (s : State) (o v : Nat) : State :=
  if o = 0x08 then { s with faults := { s.faults with irqSev := bits v 0 3, vector := bits v 3 6, forceEn := bitAt v 9 } }
  else if o = 0x10 then if bitAt v 20 then s.beaconAck else s
  else if o = 0x18 then { s with faults := { s.faults with force := BitVec.ofNat 64 v } }
  else if o = 0x20 then
    let s := { s with faults := { s.faults with forceErr := s.faults.forceErr && !bitAt v 1 } }
    if bitAt v 0 then s.forceGo else s
  else s

/-- The snapshot and sample registers of a counter page, which a tenant writes too: of CT_SAMPLE_CTRL a tenant writes head
alone (Table 18.8). -/
def State.ctTenantWrite (s : State) (f b o v : Nat) : State :=
  if o = 0x10 then s.modCtPage b fun g => { g with snap := BitVec.ofNat 64 v }
  else if o = 0x18 then
    let s := s.modCtPage b fun g => { g with snapMode := bits v 0 2, snapLen := bits v 32 32 }
    if bitAt v 2 then s.ctSnap b else s
  else if o = 0x20 then
    let s := s.modCtPage b fun g => { g with sampleCfg := BitVec.ofNat 64 (bits v 0 10 + (bits v 32 32 <<< 32)) }
    s.ctCores b ((s.boltCores b).map fun x => x.2.2) [3]
  else if o = 0x28 then s.modCtPage b fun g => { g with ring := BitVec.ofNat 64 v }
  else if o = 0x30 then s.modCtPage b fun g =>
    if adminFn f then { g with sizeCode := bits v 0 4, vector := bits v 4 6, head := bits v 10 16 }
    else { g with head := bits v 10 16 }
  else s

def State.ctWrite (s : State) (f b o v : Nat) : State :=
  if adminFn f && decide (o = 0x00) then
    let s := s.modCtPage b fun g => { g with bcfg := BitVec.ofNat 64 (bits v 0 30) }
    s.ctCores b ((s.boltCores b).map fun x => x.2.2) [0, 1, 2]
  else if adminFn f && decide (0x40 ≤ o) then
    (s.modCtPage b fun g => { g with
      portCfg := Tab.put 0 g.portCfg ((o - 0x40) / 8) (BitVec.ofNat 64 (bits v 0 20)) }).ctPorts b
  else s.ctTenantWrite f b o v

/-- LN_CTRL (Table 13.9). -/
def State.linkWrite (s : State) (l o v : Nat) : State :=
  if o = 0x18 then
    let s := s.lnDisable l (bitAt v 1)
    if bitAt v 0 && !bitAt v 1 then s.lnRetrain l else s
  else s

/-- SPAN_CFG's shadow and SPAN_COMMIT (Table 13.10). -/
def State.spanWrite (s : State) (f o v : Nat) : State :=
  if o = 0x00 then { s with span := { s.span with cfgSh := BitVec.ofNat 64 (bits v 0 7 + (bits v 16 32 <<< 16)) } }
  else if o = 0x08 ∧ bitAt v 0 = true then
    if s.spanOk then s.spanCommit else s.rejectCommit (srcFunc f) 0x09C008
  else s

/-- A word of an anchor's shadow; none is written while the lock is set (R233). -/
def anchorSet (a : BitVec 384 × BitVec 384 × Bool) (w v : Nat) : BitVec 384 × BitVec 384 × Bool :=
  if w < 6 then (BitVec.ofNat 384 (setBits a.1.toNat (64 * w) 64 v), a.2.1, a.2.2)
  else if w < 12 then (a.1, BitVec.ofNat 384 (setBits a.2.1.toNat (64 * (w - 6)) 64 v), a.2.2)
  else (a.1, a.2.1, bitAt v 0)

def State.anchorWrite (s : State) (i w v : Nat) : State :=
  if s.security.lock then s
  else { s with security := { s.security with
    anchorSh := Tab.put (0, 0, false) s.security.anchorSh i (anchorSet (Tab.get (0, 0, false) s.security.anchorSh i) w v) } }

/-- A write of a whole register that stands in the function's view: each field by its access code; what is reserved or RO is
left as it is. -/
def State.regWrite (s : State) (f v : Nat) : Reg → State
  | .engine o => if o = 0x100 ∧ bitAt v 0 = true then { s with xramColl := false } else s
  | .qp q o => s.qpWrite f q o v
  | .bolt b o =>
    if o = 0x30 ∧ adminFn f = true ∧ (s.bolt b).st ≠ .none then
      s.modBolt b fun r => { r with pickTimeout := max 1 (min 1000 (bits v 0 10)) }
    else s
  | .power o => s.powerWrite f o v
  | .pdCtrl k => s.pdWrite k v
  | .pdStatus k => if bitAt v 45 then s.modSkein k fun r => { r with droop := false } else s
  | .thermal o => s.thermalWrite o v
  | .fault o => s.faultWrite o v
  | .ctSel => s.ctLatch (bits v 0 19)
  | .ct b o => s.ctWrite f b o v
  | .link l o => s.linkWrite l o v
  | .span o => s.spanWrite f o v
  | .spanRoute e => { s with span := { s.span with
      routeSh := Tab.put rtReset s.span.routeSh e (BitVec.ofNat 64 (bits v 0 14 + (bits v 32 32 <<< 32))) } }
  | .creel p o => if o = 0x08 ∧ bitAt v 59 = true then s.modPort p fun r => { r with valid := false } else s
  | .serveBolt b o =>
    if o = 0x00 then s.modServeOf b fun r => { r with ttlDefault := bits v 0 32, growth := bits v 32 21 } else s
  | .kv b o => if o = 0x00 then s.modServeOf b fun r => { r with kvRet := BitVec.ofNat 64 (bits v 0 50) } else s
  | .anchorCommit => if bitAt v 0 then s.anchorCommit f else s
  | .anchorLock => if bitAt v 0 then s.anchorLock else s
  | .anchor i w => s.anchorWrite i w v
  | _ => s

/-! ## Accesses (Table 18.2) -/

/-- A refused read: it returns 0 and is counted. -/
def State.readZero (s : State) : State := { s.refuseAccess with lastRead := 0 }

/-- A read of a function: 8 B whole with the RC fields cleared, 4 B the half that the offset names with nothing cleared. -/
def State.regRead (s : State) (f off size : Nat) : State :=
  if (size = 8 ∧ off % 8 = 0) ∨ (size = 4 ∧ off % 4 = 0) then
    match regAt (off - off % 8) with
    | some r =>
      if s.regSeen f r then
        let v := s.regValue f r
        if size = 8 then { s.regClear r with lastRead := BitVec.ofNat 64 v }
        else { s with lastRead := BitVec.ofNat 64 (bits v (8 * (off % 8)) 32) }
      else s.readZero
    | none => s.readZero
  else s.readZero

/-- One 8-byte write of a function. -/
def State.regStore (s : State) (f off v : Nat) : State :=
  match regAt off with
  | some r => if s.regSeen f r then s.regWrite f v r else s.refuseAccess
  | none => s.refuseAccess

/-- A write: 8 B, or 16 to 64 B as 8 B writes in ascending order; every other size is discarded. -/
def State.regWriteAll (s : State) (f off size : Nat) (v : BitVec 512) : State :=
  if off % 8 = 0 ∧ size % 8 = 0 ∧ 8 ≤ size ∧ size ≤ 64 then
    (List.range (size / 8)).foldl (fun s i => s.regStore f (off + 8 * i) (bits v.toNat (64 * i) 64)) s
  else s.refuseAccess

/-! ## The other spaces of a function (R259, R260, R264, R278; places of configuration space: log entry 78) -/

/-- A doubleword of configuration space that the manual names: IDs, command, class code, device control, SR-IOV. -/
def State.cfgReg (s : State) (f off : Nat) : Option Nat :=
  let r := s.func f
  if off = 0x00 then some (regFields [(16, Config.vendorId.toNat), (16, if f % 8 = 0 then 0x4B48 else 0x4B49)])
  else if off = 0x04 then some (regFields [(2, 2), (1, boolNat r.busMaster)])
  else if off = 0x08 then some (0x120000 <<< 8)
  else if off = 0x48 then some (regFields [(5, 0), (3, r.maxPayload), (4, 0), (3, r.maxRead)])
  else if off = 0x108 ∧ f % 8 = 0 then some (boolNat r.vfEnable)
  else if off = 0x110 ∧ f % 8 = 0 then some r.numVfs
  else none

/-- The VFs of a PF after a write to its SR-IOV capability; one that is no longer enabled is reset. -/
def State.setVfs (s : State) (f : Nat) (on : Bool) (n : Nat) : State :=
  let s := s.modFunc f fun r => { r with vfEnable := on, numVfs := n }
  (List.range 8).foldl (fun s v =>
    let now := on && decide (v ≤ n)
    if v = 0 ∨ (s.func (f + v)).enabled = now then s
    else (if now then s else s.resetFunc (f + v)).modFunc (f + v) fun r => { r with enabled := now }) s

/-- A write of a doubleword of configuration space: `v` is what the whole doubleword becomes. -/
def State.cfgStore (s : State) (f off v : Nat) : State :=
  if off = 0x04 then
    let on := bitAt v 2
    if (s.func f).busMaster = on then s else s.setBusMaster f on
  else if off = 0x48 then s.modFunc f fun r => { r with maxPayload := bits v 5 3, maxRead := bits v 12 3 }
  else if off = 0x108 ∧ f % 8 = 0 then s.setVfs f (bitAt v 0) (s.func f).numVfs
  else if off = 0x110 ∧ f % 8 = 0 then s.setVfs f (s.func f).vfEnable (min 7 (bits v 0 16))
  else s

/-- Accesses of 1, 2 or 4 bytes within a doubleword. -/
def cfgAccess (off size : Nat) : Bool :=
  decide (size = 1 ∨ size = 2 ∨ size = 4) && decide (off % 4 + size ≤ 4) && decide (off < 4096)

/-- What the manual does not name of configuration space reads as a free value. -/
def State.cfgRead (s : State) (f off size : Nat) : State :=
  let q := s.takeFree
  match s.cfgReg f (off - off % 4) with
  | some v => { s with lastRead := BitVec.ofNat 64 (bits v (8 * (off % 4)) (8 * size)) }
  | none => { q.2 with lastRead := BitVec.ofNat 64 (bits (Config.freeWord q.1).toNat 0 (8 * size)) }

def State.cfgWrite (s : State) (f off size v : Nat) : State :=
  match s.cfgReg f (off - off % 4) with
  | some w => s.cfgStore f (off - off % 4) (setBits w (8 * (off % 4)) (8 * size) v)
  | none => s

/-- Bytes of the exchange RAM that one access reaches, from function 0 alone. -/
def xramAccess (f off size m : Nat) : Bool :=
  adminFn f && decide (1 ≤ size) && decide (size ≤ m) && decide (off + size ≤ 0x40000)

def State.spaceWrite (s : State) (f : Nat) (sp : Space) (off size : Nat) (v : BitVec 512) : State :=
  match sp with
  | .bar0 => s.regWriteAll f off size v
  | .bar2 => s.doorbellWrite f off size (v.toNat % 2 ^ (8 * size))
  | .bar4 => if xramAccess f off size 64 then s.xramWrite off (leBytes size v.toNat) else s
  | .config => if cfgAccess off size then s.cfgWrite f off size v.toNat else s

def State.spaceRead (s : State) (f : Nat) (sp : Space) (off size : Nat) : State :=
  match sp with
  | .bar0 => s.regRead f off size
  | .bar2 => { s with lastRead := 0 }
  | .bar4 => { s with lastRead := if xramAccess f off size 8 then BitVec.ofNat 64 (leNat (readBytes s.xram off size)) else 0 }
  | .config => if cfgAccess off size then s.cfgRead f off size else { s with lastRead := 0 }

def execRegisterWrite (f : Nat) (a : FuncAddr) (size : Nat) (v : BitVec 512) (s : State) : Out :=
  onFunc f s fun s => s.spaceWrite f a.space a.off size v

def execRcRegisterRead (f : Nat) (a : FuncAddr) (size : Nat) (s : State) : Out :=
  onFunc f s fun s => s.spaceRead f a.space a.off size

end Sys2Proof.Machine
end

