-- ==== Sys2Proof/Machine/Dispatch.lean ====
section
/-! DEFINITION. What each command does: one arm per constructor of `Instr`, each a call of its meaning. -/

namespace Sys2Proof.Machine

open Sys2Proof

def exec (i : Instr) (s : State) : Host.Outcome State Fault Refusal :=
  match i with
  | .coreCtrlGo c start => Sys2Proof.Machine.execCoreCtrlGo c start s
  | .coreCtrlHalt c start => Sys2Proof.Machine.execCoreCtrlHalt c start s
  | .coreCtrlScrub c start => Sys2Proof.Machine.execCoreCtrlScrub c start s
  | .scrubDone c => Sys2Proof.Machine.execScrubDone c s
  | .coreCommit c => Sys2Proof.Machine.execCoreCommit c s
  | .chanStatusClear c ch => Sys2Proof.Machine.execChanStatusClear c ch s
  | .chanStatusResume c ch => Sys2Proof.Machine.execChanStatusResume c ch s
  | .heartbeat c => Sys2Proof.Machine.execHeartbeat c s
  | .heartbeatWindowExpiry c => Sys2Proof.Machine.execHeartbeatWindowExpiry c s
  | .arbitrationYield c store => Sys2Proof.Machine.execArbitrationYield c store s
  | .patrolScrubRead c row => Sys2Proof.Machine.execPatrolScrubRead c row s
  | .scrubWriteBack c row => Sys2Proof.Machine.execScrubWriteBack c row s
  | .budgetClamp c => Sys2Proof.Machine.execBudgetClamp c s
  | .nopa c => Sys2Proof.Machine.execNopa c s
  | .tmac c => Sys2Proof.Machine.execTmac c s
  | .tscl c => Sys2Proof.Machine.execTscl c s
  | .tdrn c => Sys2Proof.Machine.execTdrn c s
  | .rot256 c => Sys2Proof.Machine.execRot256 c s
  | .qnt c => Sys2Proof.Machine.execQnt c s
  | .vadd c => Sys2Proof.Machine.execVadd c s
  | .vsub c => Sys2Proof.Machine.execVsub c s
  | .vmul c => Sys2Proof.Machine.execVmul c s
  | .vfma c => Sys2Proof.Machine.execVfma c s
  | .vmax c => Sys2Proof.Machine.execVmax c s
  | .vmin c => Sys2Proof.Machine.execVmin c s
  | .vscl c => Sys2Proof.Machine.execVscl c s
  | .vcvt c => Sys2Proof.Machine.execVcvt c s
  | .vhsum c => Sys2Proof.Machine.execVhsum c s
  | .vhmax c => Sys2Proof.Machine.execVhmax c s
  | .vbcl c => Sys2Proof.Machine.execVbcl c s
  | .vmask c => Sys2Proof.Machine.execVmask c s
  | .vexp2 c => Sys2Proof.Machine.execVexp2 c s
  | .vlog2 c => Sys2Proof.Machine.execVlog2 c s
  | .vrcp c => Sys2Proof.Machine.execVrcp c s
  | .vrsq c => Sys2Proof.Machine.execVrsq c s
  | .nopb c => Sys2Proof.Machine.execNopb c s
  | .shut c => Sys2Proof.Machine.execShut c s
  | .ldv c => Sys2Proof.Machine.execLdv c s
  | .stv c => Sys2Proof.Machine.execStv c s
  | .vldw c => Sys2Proof.Machine.execVldw c s
  | .ldb c => Sys2Proof.Machine.execLdb c s
  | .lds c => Sys2Proof.Machine.execLds c s
  | .sts c => Sys2Proof.Machine.execSts c s
  | .add c => Sys2Proof.Machine.execAdd c s
  | .sub c => Sys2Proof.Machine.execSub c s
  | .and c => Sys2Proof.Machine.execAnd c s
  | .or c => Sys2Proof.Machine.execOr c s
  | .xor c => Sys2Proof.Machine.execXor c s
  | .shl c => Sys2Proof.Machine.execShl c s
  | .shr c => Sys2Proof.Machine.execShr c s
  | .sar c => Sys2Proof.Machine.execSar c s
  | .slt c => Sys2Proof.Machine.execSlt c s
  | .sltu c => Sys2Proof.Machine.execSltu c s
  | .seq c => Sys2Proof.Machine.execSeq c s
  | .mul c => Sys2Proof.Machine.execMul c s
  | .addi c => Sys2Proof.Machine.execAddi c s
  | .lih c => Sys2Proof.Machine.execLih c s
  | .movv c => Sys2Proof.Machine.execMovv c s
  | .movgf c => Sys2Proof.Machine.execMovgf c s
  | .br c => Sys2Proof.Machine.execBr c s
  | .bz c => Sys2Proof.Machine.execBz c s
  | .bnz c => Sys2Proof.Machine.execBnz c s
  | .blt c => Sys2Proof.Machine.execBlt c s
  | .loop c => Sys2Proof.Machine.execLoop c s
  | .waitf c => Sys2Proof.Machine.execWaitf c s
  | .waitc c => Sys2Proof.Machine.execWaitc c s
  | .waitq c => Sys2Proof.Machine.execWaitq c s
  | .waitEnd c cycles => Sys2Proof.Machine.execWaitEnd c cycles s
  | .shuttleQueueFree c cycles => Sys2Proof.Machine.execShuttleQueueFree c cycles s
  | .pick c => Sys2Proof.Machine.execPick c s
  | .tdecl c => Sys2Proof.Machine.execTdecl c s
  | .rstep c => Sys2Proof.Machine.execRstep c s
  | .halt c => Sys2Proof.Machine.execHalt c s
  | .reductionStep c ch => Sys2Proof.Machine.execReductionStep c ch s
  | .copy c ch => Sys2Proof.Machine.execCopy c ch s
  | .gather c ch => Sys2Proof.Machine.execGather c ch s
  | .scatter c ch => Sys2Proof.Machine.execScatter c ch s
  | .pagewalk c ch => Sys2Proof.Machine.execPagewalk c ch s
  | .fill c ch => Sys2Proof.Machine.execFill c ch s
  | .grant c ch => Sys2Proof.Machine.execGrant c ch s
  | .grantRecordFree c ch => Sys2Proof.Machine.execGrantRecordFree c ch s
  | .creditedLineSend c ch => Sys2Proof.Machine.execCreditedLineSend c ch s
  | .routeFlit f vx vy port err => Sys2Proof.Machine.execRouteFlit f vx vy port err s
  | .write f => Sys2Proof.Machine.execWrite f s
  | .writeWord f => Sys2Proof.Machine.execWriteWord f s
  | .read f => Sys2Proof.Machine.execRead f s
  | .readData f => Sys2Proof.Machine.execReadData f s
  | .ack f => Sys2Proof.Machine.execAck f s
  | .nack f => Sys2Proof.Machine.execNack f s
  | .grantFlit f => Sys2Proof.Machine.execGrantFlit f s
  | .ctrl f => Sys2Proof.Machine.execCtrl f s
  | .ctrlResp f => Sys2Proof.Machine.execCtrlResp f s
  | .beat f => Sys2Proof.Machine.execBeat f s
  | .ackTimerExpiry c src ch => Sys2Proof.Machine.execAckTimerExpiry c src ch s
  | .rtCommit c => Sys2Proof.Machine.execRtCommit c s
  | .harnessRewrite t => Sys2Proof.Machine.execHarnessRewrite t s
  | .probeTimeout c => Sys2Proof.Machine.execProbeTimeout c s
  | .drainComplete b => Sys2Proof.Machine.execDrainComplete b s
  | .boltResume b => Sys2Proof.Machine.execBoltResume b s
  | .watchdogCheck => Sys2Proof.Machine.execWatchdogCheck s
  | .requestWord h => Sys2Proof.Machine.execRequestWord h s
  | .fetchRequest h => Sys2Proof.Machine.execFetchRequest h s
  | .chainReport h => Sys2Proof.Machine.execChainReport h s
  | .regionTakeUnit b region inp => Sys2Proof.Machine.execRegionTakeUnit b region inp s
  | .unitHandOut b region => Sys2Proof.Machine.execUnitHandOut b region s
  | .layerVerdict b region m => Sys2Proof.Machine.execLayerVerdict b region m s
  | .bobbinFlush b region slot => Sys2Proof.Machine.execBobbinFlush b region slot s
  | .watchRingPoll h => Sys2Proof.Machine.execWatchRingPoll h s
  | .tokenDraw b slot logits => Sys2Proof.Machine.execTokenDraw b slot logits s
  | .tokenAccept b slot => Sys2Proof.Machine.execTokenAccept b slot s
  | .turnWritten idx => Sys2Proof.Machine.execTurnWritten idx s
  | .boltCreate q d => Sys2Proof.Machine.execBoltCreate q d s
  | .boltDestroy q d => Sys2Proof.Machine.execBoltDestroy q d s
  | .scrub q d => Sys2Proof.Machine.execScrub q d s
  | .loadModel q d manifest chain => Sys2Proof.Machine.execLoadModel q d manifest chain s
  | .shardArrival b shard bytes => Sys2Proof.Machine.execShardArrival b shard bytes s
  | .shardAttemptTimeout b shard => Sys2Proof.Machine.execShardAttemptTimeout b shard s
  | .placementDone b => Sys2Proof.Machine.execPlacementDone b s
  | .epochCommit b => Sys2Proof.Machine.execEpochCommit b s
  | .epochCommitTimeout b pos => Sys2Proof.Machine.execEpochCommitTimeout b pos s
  | .unloadModel q d => Sys2Proof.Machine.execUnloadModel q d s
  | .switchEpoch q d => Sys2Proof.Machine.execSwitchEpoch q d s
  | .epochFree b => Sys2Proof.Machine.execEpochFree b s
  | .loadAdapter q d manifest => Sys2Proof.Machine.execLoadAdapter q d manifest s
  | .evictAdapter q d => Sys2Proof.Machine.execEvictAdapter q d s
  | .evictAdapterDone slot => Sys2Proof.Machine.execEvictAdapterDone slot s
  | .tuneAdapter q d job => Sys2Proof.Machine.execTuneAdapter q d job s
  | .tuneStep b inp => Sys2Proof.Machine.execTuneStep b inp s
  | .mirrorPatrol b => Sys2Proof.Machine.execMirrorPatrol b s
  | .generate q d => Sys2Proof.Machine.execGenerate q d s
  | .cont q d => Sys2Proof.Machine.execCont q d s
  | .pause q d => Sys2Proof.Machine.execPause q d s
  | .cancel q d => Sys2Proof.Machine.execCancel q d s
  | .queryReq q d => Sys2Proof.Machine.execQueryReq q d s
  | .nop q d => Sys2Proof.Machine.execNop q d s
  | .inputsRead idx prompt sampling grammar => Sys2Proof.Machine.execInputsRead idx prompt sampling grammar s
  | .admissionDecision b => Sys2Proof.Machine.execAdmissionDecision b s
  | .slotRanking b => Sys2Proof.Machine.execSlotRanking b s
  | .ttlCheck => Sys2Proof.Machine.execTtlCheck s
  | .parkComplete idx => Sys2Proof.Machine.execParkComplete idx s
  | .sqTail f q t => Sys2Proof.Machine.execSqTail f q t s
  | .cqHead f q h => Sys2Proof.Machine.execCqHead f q h s
  | .barrierRelease q => Sys2Proof.Machine.execBarrierRelease q s
  | .qpCommit f q => Sys2Proof.Machine.execQpCommit f q s
  | .qpQuiesced q => Sys2Proof.Machine.execQpQuiesced q s
  | .irqModerationTick => Sys2Proof.Machine.execIrqModerationTick s
  | .flr f => Sys2Proof.Machine.execFlr f s
  | .pcieLinkDown port => Sys2Proof.Machine.execPcieLinkDown port s
  | .dmaReadError r status => Sys2Proof.Machine.execDmaReadError r status s
  | .writesResume f => Sys2Proof.Machine.execWritesResume f s
  | .readLedger seq => Sys2Proof.Machine.execReadLedger seq s
  | .readFaults seq first maxCount => Sys2Proof.Machine.execReadFaults seq first maxCount s
  | .readCoreMap seq which => Sys2Proof.Machine.execReadCoreMap seq which s
  | .fwStage seq offset len => Sys2Proof.Machine.execFwStage seq offset len s
  | .fwActivate seq len action => Sys2Proof.Machine.execFwActivate seq len action s
  | .flashWriteDone readBackOk => Sys2Proof.Machine.execFlashWriteDone readBackOk s
  | .creelRefresh p ch bank => Sys2Proof.Machine.execCreelRefresh p ch bank s
  | .mr4Read p ch code => Sys2Proof.Machine.execMr4Read p ch code s
  | .creelPatrol p block => Sys2Proof.Machine.execCreelPatrol p block s
  | .creelLineRewrite p line => Sys2Proof.Machine.execCreelLineRewrite p line s
  | .creelPortRetire p => Sys2Proof.Machine.execCreelPortRetire p s
  | .blockZeroDone p block => Sys2Proof.Machine.execBlockZeroDone p block s
  | .idleFlit l lane raw fecOk => Sys2Proof.Machine.execIdleFlit l lane raw fecOk s
  | .slotFlit l lane raw fecOk => Sys2Proof.Machine.execSlotFlit l lane raw fecOk s
  | .runFlit l lane raw fecOk => Sys2Proof.Machine.execRunFlit l lane raw fecOk s
  | .ident l lane raw => Sys2Proof.Machine.execIdent l lane raw s
  | .identSend l lane => Sys2Proof.Machine.execIdentSend l lane s
  | .credit l lane raw => Sys2Proof.Machine.execCredit l lane raw s
  | .harness l lane raw => Sys2Proof.Machine.execHarness l lane raw s
  | .laneRetrain l lane => Sys2Proof.Machine.execLaneRetrain l lane s
  | .retrainDone l lane => Sys2Proof.Machine.execRetrainDone l lane s
  | .retrainTimeout l lane => Sys2Proof.Machine.execRetrainTimeout l lane s
  | .lnRetrain f l => Sys2Proof.Machine.execLnRetrain f l s
  | .spanCommit f => Sys2Proof.Machine.execSpanCommit f s
  | .routeSwitch e => Sys2Proof.Machine.execRouteSwitch e s
  | .spanPeerSilence b => Sys2Proof.Machine.execSpanPeerSilence b s
  | .telem f frame => Sys2Proof.Machine.execTelem f frame s
  | .treadleAck f frame => Sys2Proof.Machine.execTreadleAck f frame s
  | .treadleNak f frame => Sys2Proof.Machine.execTreadleNak f frame s
  | .treadleStatus f frame => Sys2Proof.Machine.execTreadleStatus f frame s
  | .treadleFault f frame => Sys2Proof.Machine.execTreadleFault f frame s
  | .trdAlert f => Sys2Proof.Machine.execTrdAlert f s
  | .treadleRetryTimeout f => Sys2Proof.Machine.execTreadleRetryTimeout f s
  | .telemStale f d => Sys2Proof.Machine.execTelemStale f d s
  | .treadleLaneLoss f => Sys2Proof.Machine.execTreadleLaneLoss f s
  | .skeinTurnOnStart vs => Sys2Proof.Machine.execSkeinTurnOnStart vs s
  | .neighbourCap vs => Sys2Proof.Machine.execNeighbourCap vs s
  | .skeinTurnOnDone vs => Sys2Proof.Machine.execSkeinTurnOnDone vs s
  | .skeinTurnOff vs => Sys2Proof.Machine.execSkeinTurnOff vs s
  | .droop vs mv => Sys2Proof.Machine.execDroop vs mv s
  | .undervoltageGate vs mv => Sys2Proof.Machine.execUndervoltageGate vs mv s
  | .undervoltageRelease vs => Sys2Proof.Machine.execUndervoltageRelease vs s
  | .undervoltageTimeout vs => Sys2Proof.Machine.execUndervoltageTimeout vs s
  | .inputPowerSum => Sys2Proof.Machine.execInputPowerSum s
  | .pwCommit w => Sys2Proof.Machine.execPwCommit w s
  | .powerFail => Sys2Proof.Machine.execPowerFail s
  | .skeinSensorSample vs a b => Sys2Proof.Machine.execSkeinSensorSample vs a b s
  | .hubRead acked rec => Sys2Proof.Machine.execHubRead acked rec s
  | .coolingClamp => Sys2Proof.Machine.execCoolingClamp s
  | .coolantStopStep2 => Sys2Proof.Machine.execCoolantStopStep2 s
  | .configCheck => Sys2Proof.Machine.execConfigCheck s
  | .thermalTrip vs => Sys2Proof.Machine.execThermalTrip vs s
  | .warmKeepEval => Sys2Proof.Machine.execWarmKeepEval s
  | .fault m => Sys2Proof.Machine.execFault m s
  | .collectorTake => Sys2Proof.Machine.execCollectorTake s
  | .forceGo f => Sys2Proof.Machine.execForceGo f s
  | .forceSend source => Sys2Proof.Machine.execForceSend source s
  | .beaconAck f => Sys2Proof.Machine.execBeaconAck f s
  | .aliveKick => Sys2Proof.Machine.execAliveKick s
  | .aliveKickLapse => Sys2Proof.Machine.execAliveKickLapse s
  | .counterWrap c k => Sys2Proof.Machine.execCounterWrap c k s
  | .portCounterWindow vs k => Sys2Proof.Machine.execPortCounterWindow vs k s
  | .ctCoreSel f core => Sys2Proof.Machine.execCtCoreSel f core s
  | .ctSnapGo f b => Sys2Proof.Machine.execCtSnapGo f b s
  | .ledgerWrite final readBackOk => Sys2Proof.Machine.execLedgerWrite final readBackOk s
  | .cycleTrack => Sys2Proof.Machine.execCycleTrack s
  | .anchorCommit f => Sys2Proof.Machine.execAnchorCommit f s
  | .anchorLock f => Sys2Proof.Machine.execAnchorLock f s
  | .reset => Sys2Proof.Machine.execReset s
  | .boot straps => Sys2Proof.Machine.execBoot straps s
  | .bootStepDone r => Sys2Proof.Machine.execBootStepDone r s
  | .sysclkLoss => Sys2Proof.Machine.execSysclkLoss s
  | .sysclkRestore => Sys2Proof.Machine.execSysclkRestore s
  | .pldmFwUpdate image => Sys2Proof.Machine.execPldmFwUpdate image s
  | .pldmSensorRead sensor => Sys2Proof.Machine.execPldmSensorRead sensor s
  | .bypass => Sys2Proof.Machine.execBypass s
  | .idcode => Sys2Proof.Machine.execIdcode s
  | .samplePreload shift => Sys2Proof.Machine.execSamplePreload shift s
  | .extest => Sys2Proof.Machine.execExtest s
  | .clamp => Sys2Proof.Machine.execClamp s
  | .highz => Sys2Proof.Machine.execHighz s
  | .registerWrite f addr size v => Sys2Proof.Machine.execRegisterWrite f addr size v s
  | .rcRegisterRead f addr size => Sys2Proof.Machine.execRcRegisterRead f addr size s
  | .xramCollision word hostIsRead hostLater => Sys2Proof.Machine.execXramCollision word hostIsRead hostLater s
  | .reservedOpcode c => Sys2Proof.Machine.execReservedOpcode c s
  | .aliveToggle => Sys2Proof.Machine.execAliveToggle s
  | .pcieLinkUp link => Sys2Proof.Machine.execPcieLinkUp link s
  | .msixUnmask f v => Sys2Proof.Machine.execMsixUnmask f v s
  | .linkTrainingDone l lanes => Sys2Proof.Machine.execLinkTrainingDone l lanes s
  | .adapterPlaced slot => Sys2Proof.Machine.execAdapterPlaced slot s

end Sys2Proof.Machine
end

