-- ==== Sys2Proof/Machine/Step.lean ====
section
/-! DEFINITION. One step of the engine: the command at the front of the queue takes effect. -/

namespace Sys2Proof.Machine

open Sys2Proof

/-- The command at the front of `pending` acts on the state with the queue's rest; on an empty queue the wafer time
advances by 1 ns (R13; log entry 17). -/
def step (s : State) : Host.Outcome State Fault Refusal :=
  match s.pending with
  | [] => .next (State.idle s)
  | c :: rest => exec c { s with pending := rest }

/-- `s` with the command that the word spells put at the front of its queue; no word spells one (log entry 18). -/
def State.withFetchWord (s : State) (nbits w : Nat) : State :=
  match decodeTableWord nbits w with
  | some c => { s with pending := c :: s.pending }
  | none => s

end Sys2Proof.Machine
end

