-- ==== Sys2Proof/Safety.lean ====
section
/-! DEFINITION. The terms in which claims are stated: a safe step, a core that can issue, and what a cycle may change. -/

namespace Sys2Proof

open Sys2Proof.Machine

/-- A step of the state answers a next state. -/
def Safe (s : State) : Prop := ∃ t, step s = .next t

/-- Every step of a run of `n` commands answers a next state. -/
def SafeRun : Nat → State → Prop
  | 0, _ => True
  | n + 1, s => ∃ t, step s = .next t ∧ SafeRun n t

/-! ## A core that issues (R39, R95, R96) -/

/-- The governor balance of a core after this cycle's refill (R128). -/
def refilled (s : State) (c : Nat) : Int :=
  min (64 * ((s.coreEnv c).burst : Int)) ((s.core c).balance + ((s.coreEnv c).eff : Int))

/-- The core runs, the bundle of slots `wa`, `wb` stands at its program counter, nothing is in flight, no store unit holds
an error, its counters are off, no store's port goes to the shuttle in this cycle (R56), and the issue that follows lies in the instruction store. -/
structure CanIssue (s : State) (c wa wb : Nat) : Prop where
  site : c < Config.nCores
  governor : budgetBad (s.skein (skeinOf c)) = false
  running : (s.core c).st = .run
  notWaiting : (s.core c).wait = none
  bundle : (s.core c).stores.read 3 (16 * (s.core c).pc) 16 = wa + wb * 2 ^ 64
  lowSlot : wa < 2 ^ 64
  highSlot : wb < 2 ^ 64
  noErrors : (s.core c).stores.ecc = []
  countersOff : (s.core c).perf = []
  nothingPending : (s.core c).dp.pend = []
  portsFree : (s.core c).dp.ports = []
  noWrites : (s.core c).dp.writes = []
  noInt3 : (s.core c).dp.int3 = none
  storesOurs : (s.coreEnv c).taken = []
  inside : (loopEnd (s.core c).pc (s.core c).dp.loops).2 < 1024

/-- The governor lets a heavy bundle issue (R128). -/
def Paid (s : State) (c : Nat) : Prop := 0 < refilled s c

/-- What a cycle in which `r` issues may change beside what an operation says: the program counter and the loops, the
governor's balance and stall count, the sample spacing, the denied counts, and the pipe's own records. -/
def Cycled (r r' : CoreRec) : Prop :=
  r' = { r with
    pc := r'.pc, balance := r'.balance, stallRun := 0, sinceSample := r'.sinceSample, denied := r'.denied
    dp := { r.dp with
      pt := r'.dp.pt, pend := r'.dp.pend, ports := r'.dp.ports, writes := r'.dp.writes, lastSf := r'.dp.lastSf,
      lastRot := r'.dp.lastRot, loops := r'.dp.loops } }

/-- A slot-A word, and a slot-B word, of an operation: its reserved bits are 0 (R98). -/
def WordA (op wa : Nat) : Prop := opOf wa = op ∧ wa &&& reservedA op = 0
def WordB (op wb : Nat) : Prop := opOf wb = op ∧ wb &&& reservedB op = 0

/-- The core that has issued goes on at the next bundle, or at the first bundle of a loop that iterates (R39, R115). -/
def GoesOn (r r' : CoreRec) : Prop :=
  r'.pc = (loopEnd r.pc r.dp.loops).2 ∧ r'.dp.loops = (loopEnd r.pc r.dp.loops).1 ∧ r'.dp.pt = r.dp.pt + 1

/-- The state differs only in core `c`. -/
def OnlyCore (c : Nat) (s t : State) : Prop := t = s.setCore c (t.core c)

end Sys2Proof
end

