-- ==== Sys2Proof/WellFormed.lean ====
section
/-! DEFINITION. Which commands name only units that the engine has and only values that their fields hold
(R4, R5, R10, R147). -/

namespace Sys2Proof

/-- The fields of a flit fit Table 6.1, with its data line (R147). -/
def Flit.wellFormed (f : Flit) : Bool :=
  decide (f.dst < 2 ^ 47) && decide (f.srcY < 2 ^ 10) && decide (f.srcX < 2 ^ 9) && decide (f.srcEngine < 2 ^ 6) &&
  decide (f.vc < 3) && decide (f.bolt < 8) && decide (f.creditId < 2 ^ 8) && decide (f.ch < 16) &&
  decide (f.arg < 2 ^ 11) &&
  match f.wp with
  | none => true
  | some (x, y) => decide (x < 2 ^ 9) && decide (y < 2 ^ 10)

/-- The fields of a fault message fit Table 16.1 (R377). -/
def FaultMsg.wellFormed (m : FaultMsg) : Bool :=
  decide (m.source < 2 ^ 20) && decide (m.kind < 64) && decide (m.severity < 4) && decide (m.detail < 2 ^ 36)

def RewriteTarget.wellFormed : RewriteTarget → Bool
  | .allowance k => decide (k < Config.nSkeins)
  | .router c idx => decide (c < Config.nCores) && decide (idx < 10)
  | .spanRoute e => decide (e < 64)
  | .spanPeer f => decide (f < 64)
  | .voltage k => decide (k < Config.nSkeins)

def DmaRead.wellFormed : DmaRead → Bool
  | .submission q => decide (q < Config.nQueuePairs)
  | .shard b _ => decide (b < Config.nBolts)
  | .request idx => decide (idx < Config.nRequests)
  | .block q _ => decide (q < Config.nQueuePairs)

/-- Bytes of a function's spaces (Table 10.2; PCIe's configuration space). -/
def Space.bytes : Space → Nat
  | .bar0 => 2 ^ 24
  | .bar2 => 2 ^ 22
  | .bar4 => 2 ^ 18
  | .config => 4096

def Writer.wellFormed : Writer → Bool
  | .host f => decide (f < Config.nFunctions)
  | .harness h => decide (h < Config.nHarness)

/-- Every unit that the command names exists, and every value fits its field. -/
def Instr.wellFormed : Instr → Bool
  | .coreCtrlGo c st | .coreCtrlHalt c st | .coreCtrlScrub c st => decide (c < Config.nCores) && decide (st < 1024)
  | .scrubDone c | .coreCommit c | .heartbeat c | .heartbeatWindowExpiry c | .budgetClamp c | .rtCommit c
  | .probeTimeout c | .reservedOpcode c => decide (c < Config.nCores)
  | .nopa c | .tmac c | .tscl c | .tdrn c | .rot256 c | .qnt c | .vadd c | .vsub c | .vmul c | .vfma c | .vmax c
  | .vmin c | .vscl c | .vcvt c | .vhsum c | .vhmax c | .vbcl c | .vmask c | .vexp2 c | .vlog2 c | .vrcp c
  | .vrsq c => decide (c < Config.nCores)
  | .nopb c | .shut c | .ldv c | .stv c | .vldw c | .ldb c | .lds c | .sts c | .add c | .sub c | .and c | .or c
  | .xor c | .shl c | .shr c | .sar c | .slt c | .sltu c | .seq c | .mul c | .addi c | .lih c | .movv c | .movgf c
  | .br c | .bz c | .bnz c | .blt c | .loop c | .waitf c | .waitc c | .waitq c | .pick c | .tdecl c | .rstep c
  | .halt c => decide (c < Config.nCores)
  | .waitEnd c _ | .shuttleQueueFree c _ => decide (c < Config.nCores)
  | .chanStatusClear c ch | .chanStatusResume c ch | .reductionStep c ch | .copy c ch | .gather c ch | .scatter c ch
  | .pagewalk c ch | .fill c ch | .grant c ch | .grantRecordFree c ch | .creditedLineSend c ch =>
    decide (c < Config.nCores) && decide (ch < 16)
  | .arbitrationYield c st => decide (c < Config.nCores) && decide (st < 3)
  | .patrolScrubRead c row | .scrubWriteBack c row => decide (c < Config.nCores) && decide (row < 1536)
  | .routeFlit f x y port _ =>
    f.wellFormed && decide (x < Config.columns) && decide (y < Config.rows) && decide (port < 9)
  | .write f | .writeWord f | .read f | .readData f | .ack f | .nack f | .grantFlit f | .ctrl f | .ctrlResp f
  | .beat f => f.wellFormed
  | .ackTimerExpiry c src ch => decide (c < Config.nCores) && decide (src < 2 ^ 25) && decide (ch < 16)
  | .harnessRewrite t => t.wellFormed
  | .drainComplete b | .boltResume b | .placementDone b | .epochCommit b | .epochFree b | .mirrorPatrol b
  | .admissionDecision b | .slotRanking b | .spanPeerSilence b => decide (b < Config.nBolts)
  | .watchdogCheck | .ttlCheck | .irqModerationTick | .inputPowerSum | .powerFail | .coolingClamp | .coolantStopStep2
  | .configCheck | .warmKeepEval | .collectorTake | .aliveKick | .aliveKickLapse | .cycleTrack | .reset
  | .sysclkLoss | .sysclkRestore | .bypass | .idcode | .extest | .clamp | .highz | .aliveToggle => true
  | .requestWord h | .fetchRequest h | .chainReport h | .watchRingPoll h => decide (h < Config.nHarness)
  | .regionTakeUnit b _ _ | .unitHandOut b _ | .layerVerdict b _ _ => decide (b < Config.nBolts)
  | .bobbinFlush b _ slot | .tokenDraw b slot _ | .tokenAccept b slot =>
    decide (b < Config.nBolts) && decide (slot < Config.maxSlots)
  | .turnWritten idx | .inputsRead idx _ _ _ | .parkComplete idx => decide (idx < Config.nRequests)
  | .boltCreate q _ | .boltDestroy q _ | .scrub q _ | .unloadModel q _ | .switchEpoch q _ | .evictAdapter q _
  | .generate q _ | .cont q _ | .pause q _ | .cancel q _ | .queryReq q _ | .nop q _ => decide (q < Config.nQueuePairs)
  | .loadModel q _ _ _ | .loadAdapter q _ _ | .tuneAdapter q _ _ => decide (q < Config.nQueuePairs)
  | .shardArrival b _ _ => decide (b < Config.nBolts)
  | .shardAttemptTimeout b _ | .epochCommitTimeout b _ | .tuneStep b _ => decide (b < Config.nBolts)
  | .evictAdapterDone slot | .adapterPlaced slot => decide (slot < 256)
  | .sqTail f q _ | .cqHead f q _ | .qpCommit f q =>
    decide (f < Config.nFunctions) && decide (q < Config.nQueuePairs)
  | .barrierRelease q | .qpQuiesced q => decide (q < Config.nQueuePairs)
  | .flr f | .writesResume f | .forceGo f | .beaconAck f | .anchorCommit f | .anchorLock f | .spanCommit f =>
    decide (f < Config.nFunctions)
  | .pcieLinkDown p | .pcieLinkUp ⟨p, _⟩ => decide (p < 4)
  | .dmaReadError r _ => r.wellFormed
  | .readLedger sq => decide (sq < 2 ^ 32)
  | .readFaults sq first n => decide (sq < 2 ^ 32) && decide (first < 2 ^ 32) && decide (n < 2 ^ 32)
  | .readCoreMap sq which => decide (sq < 2 ^ 32) && decide (which < 2 ^ 32)
  | .fwStage sq off len => decide (sq < 2 ^ 32) && decide (off < 2 ^ 32) && decide (len < 2 ^ 32)
  | .fwActivate sq len act => decide (sq < 2 ^ 32) && decide (len < 2 ^ 32) && decide (act < 2 ^ 32)
  | .flashWriteDone _ => true
  | .creelRefresh p ch bank => decide (p < Config.nPorts) && decide (ch < 4) && decide (bank < 16)
  | .mr4Read p ch code => decide (p < Config.nPorts) && decide (ch < 4) && decide (code < 8)
  | .creelPatrol p block | .blockZeroDone p block =>
    decide (p < Config.nPorts) && decide (block < Config.creelBlocks)
  | .creelLineRewrite p _ | .creelPortRetire p => decide (p < Config.nPorts)
  | .idleFlit l lane _ _ | .slotFlit l lane _ _ | .runFlit l lane _ _ =>
    decide (l < Config.nLinks) && decide (lane < 8)
  | .ident l lane _ | .credit l lane _ | .harness l lane _ => decide (l < Config.nLinks) && decide (lane < 8)
  | .identSend l lane | .laneRetrain l lane | .retrainDone l lane | .retrainTimeout l lane =>
    decide (l < Config.nLinks) && decide (lane < 8)
  | .lnRetrain f l => decide (f < Config.nFunctions) && decide (l < Config.nLinks)
  | .routeSwitch e => decide (e < 64)
  | .telem f _ | .treadleAck f _ | .treadleNak f _ | .treadleStatus f _ | .treadleFault f _ =>
    decide (f < Config.nFields)
  | .trdAlert f | .treadleRetryTimeout f | .treadleLaneLoss f => decide (f < Config.nFields)
  | .telemStale f d => decide (f < Config.nFields) && decide (d < 128)
  | .skeinTurnOnStart k | .neighbourCap k | .skeinTurnOnDone k | .skeinTurnOff k | .undervoltageRelease k
  | .undervoltageTimeout k | .thermalTrip k => decide (k < Config.nSkeins)
  | .droop k mv | .undervoltageGate k mv => decide (k < Config.nSkeins) && decide (mv < 2 ^ 10)
  | .pwCommit w => w.wellFormed
  | .skeinSensorSample k a b => decide (k < Config.nSkeins) && decide (a < 256) && decide (b < 256)
  | .hubRead _ _ => true
  | .fault m => m.wellFormed
  | .forceSend source => decide (source < 2 ^ 20)
  | .counterWrap c k => decide (c < Config.nCores) && decide (k < 4)
  | .portCounterWindow k i => decide (k < Config.nSkeins) && decide (i < 8)
  | .ctCoreSel f core => decide (f < Config.nFunctions) && decide (core < 2 ^ 19)
  | .ctSnapGo f b => decide (f < Config.nFunctions) && decide (b < Config.nBolts)
  | .ledgerWrite _ _ => true
  | .boot straps => decide (straps < 16)
  | .bootStepDone r =>
    r.deadCores.all (fun c => decide (c < Config.nCores)) && r.deadSkeins.all (fun k => decide (k < Config.nSkeins)) &&
    r.lostFields.all (fun f => decide (f < Config.nFields)) && r.creelFailed.all (fun p => decide (p.1 < Config.nPorts)) &&
    r.pcieFailed.all (fun p => decide (p < 4)) && r.badSites.all (fun c => decide (c < Config.nCores))
  | .pldmFwUpdate _ => true
  | .pldmSensorRead _ => true
  | .samplePreload _ => true
  | .registerWrite f a size _ | .rcRegisterRead f a size =>
    decide (f < Config.nFunctions) && decide (a.off < a.space.bytes) && decide (size ≤ 64)
  | .xramCollision w _ _ => decide (w < 32768)
  | .msixUnmask f v => decide (f < Config.nFunctions) && decide (v < 64)
  | .linkTrainingDone l lanes => decide (l < Config.nLinks) && decide (lanes < 256)

/-- The core that a command acts on, where it names one. -/
def Instr.coreOf : Instr → Option Nat
  | .coreCtrlGo c _ | .coreCtrlHalt c _ | .coreCtrlScrub c _ | .scrubDone c | .coreCommit c
  | .chanStatusClear c _ | .chanStatusResume c _ | .heartbeat c | .heartbeatWindowExpiry c
  | .arbitrationYield c _ | .patrolScrubRead c _ | .scrubWriteBack c _ | .budgetClamp c | .nopa c | .tmac c
  | .tscl c | .tdrn c | .rot256 c | .qnt c | .vadd c | .vsub c | .vmul c | .vfma c | .vmax c | .vmin c
  | .vscl c | .vcvt c | .vhsum c | .vhmax c | .vbcl c | .vmask c | .vexp2 c | .vlog2 c | .vrcp c | .vrsq c
  | .nopb c | .shut c | .ldv c | .stv c | .vldw c | .ldb c | .lds c | .sts c | .add c | .sub c | .and c
  | .or c | .xor c | .shl c | .shr c | .sar c | .slt c | .sltu c | .seq c | .mul c | .addi c | .lih c
  | .movv c | .movgf c | .br c | .bz c | .bnz c | .blt c | .loop c | .waitf c | .waitc c | .waitq c
  | .waitEnd c _ | .shuttleQueueFree c _ | .pick c | .tdecl c | .rstep c | .halt c | .reductionStep c _
  | .copy c _ | .gather c _ | .scatter c _ | .pagewalk c _ | .fill c _ | .grant c _ | .grantRecordFree c _
  | .creditedLineSend c _ | .ackTimerExpiry c _ _ | .rtCommit c | .probeTimeout c | .counterWrap c _
  | .reservedOpcode c => some c
  | .routeFlit _ _ _ _ _ | .write _ | .writeWord _ | .read _ | .readData _ | .ack _ | .nack _ | .grantFlit _
  | .ctrl _ | .ctrlResp _ | .beat _ | .harnessRewrite _ | .drainComplete _ | .boltResume _ | .watchdogCheck
  | .requestWord _ | .fetchRequest _ | .chainReport _ | .regionTakeUnit _ _ _ | .unitHandOut _ _
  | .layerVerdict _ _ _ | .bobbinFlush _ _ _ | .watchRingPoll _ | .tokenDraw _ _ _ | .tokenAccept _ _
  | .turnWritten _ | .boltCreate _ _ | .boltDestroy _ _ | .scrub _ _ | .loadModel _ _ _ _
  | .shardArrival _ _ _ | .shardAttemptTimeout _ _ | .placementDone _ | .epochCommit _
  | .epochCommitTimeout _ _ | .unloadModel _ _ | .switchEpoch _ _ | .epochFree _ | .loadAdapter _ _ _
  | .evictAdapter _ _ | .evictAdapterDone _ | .tuneAdapter _ _ _ | .tuneStep _ _ | .mirrorPatrol _
  | .generate _ _ | .cont _ _ | .pause _ _ | .cancel _ _ | .queryReq _ _ | .nop _ _ | .inputsRead _ _ _ _
  | .admissionDecision _ | .slotRanking _ | .ttlCheck | .parkComplete _ | .sqTail _ _ _ | .cqHead _ _ _
  | .barrierRelease _ | .qpCommit _ _ | .qpQuiesced _ | .irqModerationTick | .flr _ | .pcieLinkDown _
  | .dmaReadError _ _ | .writesResume _ | .readLedger _ | .readFaults _ _ _ | .readCoreMap _ _
  | .fwStage _ _ _ | .fwActivate _ _ _ | .flashWriteDone _ | .creelRefresh _ _ _ | .mr4Read _ _ _
  | .creelPatrol _ _ | .creelLineRewrite _ _ | .creelPortRetire _ | .blockZeroDone _ _ | .idleFlit _ _ _ _
  | .slotFlit _ _ _ _ | .runFlit _ _ _ _ | .ident _ _ _ | .identSend _ _ | .credit _ _ _ | .harness _ _ _
  | .laneRetrain _ _ | .retrainDone _ _ | .retrainTimeout _ _ | .lnRetrain _ _ | .spanCommit _
  | .routeSwitch _ | .spanPeerSilence _ | .telem _ _ | .treadleAck _ _ | .treadleNak _ _ | .treadleStatus _ _
  | .treadleFault _ _ | .trdAlert _ | .treadleRetryTimeout _ | .telemStale _ _ | .treadleLaneLoss _
  | .skeinTurnOnStart _ | .neighbourCap _ | .skeinTurnOnDone _ | .skeinTurnOff _ | .droop _ _
  | .undervoltageGate _ _ | .undervoltageRelease _ | .undervoltageTimeout _ | .inputPowerSum | .pwCommit _
  | .powerFail | .skeinSensorSample _ _ _ | .hubRead _ _ | .coolingClamp | .coolantStopStep2 | .configCheck
  | .thermalTrip _ | .warmKeepEval | .fault _ | .collectorTake | .forceGo _ | .forceSend _ | .beaconAck _
  | .aliveKick | .aliveKickLapse | .portCounterWindow _ _ | .ctCoreSel _ _ | .ctSnapGo _ _ | .ledgerWrite _ _
  | .cycleTrack | .anchorCommit _ | .anchorLock _ | .reset | .boot _ | .bootStepDone _ | .sysclkLoss
  | .sysclkRestore | .pldmFwUpdate _ | .pldmSensorRead _ | .bypass | .idcode | .samplePreload _ | .extest
  | .clamp | .highz | .registerWrite _ _ _ _ | .rcRegisterRead _ _ _ | .xramCollision _ _ _ | .aliveToggle
  | .pcieLinkUp _ | .msixUnmask _ _ | .linkTrainingDone _ _ | .adapterPlaced _ => none

end Sys2Proof
end

