-- ==== Sys2Proof/Certificates/Slice0/Obligations.lean ====
section
/-! DEFINITION. The statements for the provers. -/

open Sys2Proof Sys2Proof.Machine

namespace Sys2Proof

/-- The command issues a slot-A word of the operation beside an empty slot B: one vector register is written, `lat` cycles
after issue, and lane `i` of the result is `f r wa i` of the core record `r` before. -/
def LaneOp (cmd : Nat → Instr) (op lat : Nat) (legal : CoreRec → Nat → Prop) (f : State → Nat → Nat → Nat → Nat) : Prop :=
  ∀ (s : State) (c wa : Nat), CanIssue s c wa 0 → WordA op wa → legal (s.core c) wa →
    ∃ t v, exec (cmd c) s = .next t ∧ OnlyCore c s t ∧ Cycled (s.core c) (t.core c) ∧ GoesOn (s.core c) (t.core c) ∧
      (t.core c).dp.pend = [⟨(s.core c).dp.pt + lat, .vlanes (fld wa 10 6) 0 32 v⟩] ∧
      ∀ i, i < 32 → vlane v i = f s c wa i % 2 ^ 32

/-- The command issues its bundle: the core goes on, is `r'` but for what every cycle may change, and has these results in
flight. -/
def Issues (cmd : Instr) (s : State) (c : Nat) (r' : CoreRec) (pend : List Pend) : Prop :=
  ∃ t, exec cmd s = .next t ∧ OnlyCore c s t ∧ Cycled r' (t.core c) ∧ GoesOn (s.core c) (t.core c) ∧
    (t.core c).dp.pend = pend

/-- A scalar register as a 64-bit word; s0 reads 0 (R97). -/
def sword (r : CoreRec) (k : Nat) : Word := if k = 0 then 0 else Tab.get 0 r.dp.s k

/-- A scalar result in flight; a write to s0 is discarded (R97). -/
def scalarDue (r : CoreRec) (k lat : Nat) (v : Word) : List Pend := if k = 0 then [] else [⟨r.dp.pt + lat, .sreg k v⟩]

/-- The post-increment of a base register (R111): none for an increment of 0. -/
def postDue (r : CoreRec) (wb step : Nat) : List Pend :=
  if step = 0 then [] else scalarDue r (fld wb 15 11) 1 (sword r (fld wb 15 11) + BitVec.ofNat 64 step)

/-- The command issues a slot-B word beside an empty slot A: one scalar register is written, `lat` cycles after issue. -/
def ScalarOp (cmd : Nat → Instr) (op lat : Nat) (f : CoreRec → Nat → Word) : Prop :=
  ∀ (s : State) (c wb : Nat), CanIssue s c 0 wb → WordB op wb →
    Issues (cmd c) s c (s.core c) (scalarDue (s.core c) (fld wb 10 6) lat (f (s.core c) wb))

def sa (r : CoreRec) (wb : Nat) : Word := sword r (fld wb 15 11)
def sb (r : CoreRec) (wb : Nat) : Word := sword r (fld wb 20 16)
def truth (b : Bool) : Word := if b then 1 else 0

/-- The offset of a base-plus-offset access (R111). -/
def memOff (r : CoreRec) (wb : Nat) : Nat := baseOff r (fld wb 15 11) (fld wb 37 19)

/-- A branch that is taken: the next bundle is its target, one more cycle passes, and loops without it end (R114). -/
def Branches (cmd : Instr) (s : State) (c target : Nat) : Prop :=
  ∃ t, exec cmd s = .next t ∧ OnlyCore c s t ∧ Cycled (s.core c) (t.core c) ∧ (t.core c).pc = target ∧
    (t.core c).dp.pend = [] ∧ (t.core c).dp.pt = (s.core c).dp.pt + 2 ∧
    (t.core c).dp.loops = loopsAfterBranch target (s.core c).dp.loops

/-- A core in WAIT whose bundle and engine are as `CanIssue` asks of a running one. -/
def CanResume (s : State) (c wa wb : Nat) (w : WaitCond) : Prop :=
  (s.core c).st = .wait ∧ (s.core c).wait = some w ∧
    CanIssue (s.setCore c { s.core c with st := .run, wait := none }) c wa wb

/-- The bundle holds the core in WAIT on a condition; nothing of it has taken effect (R116). -/
def Waits (cmd : Instr) (s : State) (c : Nat) (w : WaitCond) : Prop :=
  ∃ t, exec cmd s = .next t ∧ OnlyCore c s t ∧ Cycled { s.core c with st := .wait, wait := some w } (t.core c) ∧
    (t.core c).pc = (s.core c).pc ∧ (t.core c).dp = (s.core c).dp

/-- The core of a wait that has ended. -/
def resumed (r : CoreRec) : CoreRec := { r with st := .run, wait := none, clampReported := false }

/-- Lane `i` of operand a, and of operand b: a register, or the low half of a scalar (R109). -/
def laneA (s : State) (c wa i : Nat) : Nat := vlane ((s.core c).vreg (fld wa 15 11)) i
def laneB (s : State) (c wa i : Nat) : Nat :=
  if flag wa 26 then (s.core c).sreg (fld wa 20 16) % 2 ^ 32 else vlane ((s.core c).vreg (fld wa 20 16)) i

/-- No special function issued in the three cycles before (R110). -/
def sfFree (r : CoreRec) (_ : Nat) : Prop := ∀ t, r.dp.lastSf = some t → t + 4 ≤ r.dp.pt

def always (_ : CoreRec) (_ : Nat) : Prop := True

end Sys2Proof

/-- Table 4.10: the lane-wise operations of two or three operands. -/
def Obligations.VectorLaneResults : Prop :=
  LaneOp .vadd 0x08 4 always (fun s c wa i => f32Add (laneA s c wa i) (laneB s c wa i)) ∧
  LaneOp .vsub 0x09 4 always (fun s c wa i => f32Sub (laneA s c wa i) (laneB s c wa i)) ∧
  LaneOp .vmul 0x0A 4 always (fun s c wa i => f32Mul (laneA s c wa i) (laneB s c wa i)) ∧
  LaneOp .vfma 0x0B 4 always (fun s c wa i => f32Fma (laneA s c wa i) (laneB s c wa i)
    (vlane ((s.core c).vreg (fld wa 25 21)) i)) ∧
  LaneOp .vmax 0x0C 4 always (fun s c wa i => f32Max (laneA s c wa i) (laneB s c wa i)) ∧
  LaneOp .vmin 0x0D 4 always (fun s c wa i => f32Min (laneA s c wa i) (laneB s c wa i)) ∧
  LaneOp .vscl 0x0E 4 always (fun s c wa i => f32Scl (laneA s c wa i) (sext 16 ((s.core c).sreg (fld wa 20 16))))

/-- Tables 4.10 and 4.11: conversion, lane sums and maxima, broadcast and mask. -/
def Obligations.VectorShapeResults : Prop :=
  LaneOp .vcvt 0x0F 4 (fun _ wa => flag wa 28 = false) (fun s c wa i => cvtLane (if flag wa 27 then 9 else 10) none (laneA s c wa i)) ∧
  LaneOp .vcvt 0x0F 4 (fun _ wa => flag wa 28 = true ∧ fld wa 20 16 ≠ 31) (fun s c wa i =>
    cvtLane (if flag wa 27 then 9 else 10)
      (some (stochDraw ((s.core c).sreg (fld wa 20 16)) ((s.core c).sreg (fld wa 20 16 + 1)) (s.virtCore c) i)) (laneA s c wa i)) ∧
  LaneOp .vhsum 0x10 10 always (fun s c wa _ =>
    treeFold f32Add (tabulate 32 (laneA s c wa))) ∧
  LaneOp .vhmax 0x11 6 always (fun s c wa _ => treeFold f32Max (tabulate 32 (laneA s c wa))) ∧
  LaneOp .vbcl 0x12 2 always (fun s c wa _ => laneA s c wa (fld wa 20 16)) ∧
  LaneOp .vmask 0x13 2 always (fun s c wa i =>
    if sext 64 ((s.core c).sreg (fld wa 20 16)) + (i : Int) ≤ sext 64 ((s.core c).sreg (fld wa 25 21)) then laneA s c wa i
    else 0xFF800000)

/-- Table 4.11: the special functions, at least four cycles after the one before. -/
def Obligations.SpecialFunctionResults : Prop :=
  LaneOp .vexp2 0x18 12 sfFree (fun s c wa i => f32Exp2 (laneA s c wa i)) ∧
  LaneOp .vlog2 0x19 12 sfFree (fun s c wa i => f32Log2 (laneA s c wa i)) ∧
  LaneOp .vrcp 0x1A 10 sfFree (fun s c wa i => f32Rcp (laneA s c wa i)) ∧
  LaneOp .vrsq 0x1B 10 sfFree (fun s c wa i => f32Rsq (laneA s c wa i))

/-- R113 and Table 4.12: every scalar operation, modulo 2^64. -/
def Obligations.ScalarResults : Prop :=
  ScalarOp .add 0x08 1 (fun r w => sa r w + sb r w) ∧
  ScalarOp .sub 0x09 1 (fun r w => sa r w - sb r w) ∧
  ScalarOp .and 0x0A 1 (fun r w => sa r w &&& sb r w) ∧
  ScalarOp .or 0x0B 1 (fun r w => sa r w ||| sb r w) ∧
  ScalarOp .xor 0x0C 1 (fun r w => sa r w ^^^ sb r w) ∧
  ScalarOp .shl 0x0D 1 (fun r w => sa r w <<< ((sb r w).toNat % 64)) ∧
  ScalarOp .shr 0x0E 1 (fun r w => sa r w >>> ((sb r w).toNat % 64)) ∧
  ScalarOp .sar 0x0F 1 (fun r w => (sa r w).sshiftRight ((sb r w).toNat % 64)) ∧
  ScalarOp .slt 0x10 1 (fun r w => truth ((sa r w).slt (sb r w))) ∧
  ScalarOp .sltu 0x11 1 (fun r w => truth ((sa r w).ult (sb r w))) ∧
  ScalarOp .seq 0x12 1 (fun r w => truth (sa r w == sb r w)) ∧
  ScalarOp .mul 0x13 3 (fun r w => sa r w * sb r w) ∧
  ScalarOp .addi 0x14 1 (fun r w => sa r w + (BitVec.ofNat 32 (fld w 47 16)).signExtend 64) ∧
  ScalarOp .lih 0x15 1 (fun r w => BitVec.ofNat 32 (fld w 47 16) ++ (sword r (fld w 10 6)).truncate 32) ∧
  ScalarOp .movv 0x16 2 (fun r w => BitVec.ofNat 64 (vlane (r.vreg (fld w 15 11)) (fld w 20 16))) ∧
  ScalarOp .movgf 0x17 1 (fun r _ => r.dp.gf.setWidth 64)

/-- R111: what the loads bring into flight and the stores write, aligned and inside their window. -/
def Obligations.LoadStoreEffects : Prop :=
  ∀ (s : State) (c w : Nat), CanIssue s c 0 w →
    let r := s.core c
    let ss := fld w 18 16
    let off := memOff r w
    (WordB 0x02 w → accessOk [1, 2] ss off 128 (if ss = 2 then 64 else 32) = true →
      let n := beatLanes ss
      Issues (.ldv c) s c r
        ([⟨r.dp.pt + 2, .vlanes (fld w 10 6) 0 n (BitVec.ofNat 1024 (r.stores.read ss off (4 * n)))⟩] ++
          (tabulate (32 / n - 1) fun j =>
            ⟨r.dp.pt + (j + 1), .ldBeat (fld w 10 6) ((j + 1) * n) n ss (off + 4 * n * (j + 1))⟩) ++
          postDue r w (32 * fld w 45 38))) ∧
    (WordB 0x03 w → fld w 47 46 ≠ 3 →
      let n := 4 * beatLanes ss
      let len := if fld w 47 46 = 0 then 128 else 64
      let v := r.vreg (fld w 10 6)
      let data := if fld w 47 46 = 0 then v.toNat
        else packFields 16 32 fun i => (roundHalf (if fld w 47 46 = 1 then 10 else 9) none (vlane v i)).1
      accessOk [1, 2] ss off len (if ss = 2 then 64 else 32) = true →
      Issues (.stv c) s c { r with stores := r.stores.write ss off n (bits data 0 (8 * n)) }
        ((tabulate (len / n - 1) fun j =>
            ⟨r.dp.pt + (j + 1), .store ss (off + n * (j + 1)) n (bits data (8 * n * (j + 1)) (8 * n))⟩) ++
          postDue r w (32 * fld w 45 38))) ∧
    (WordB 0x04 w → fld w 51 48 ∈ [1, 2, 4, 5, 6, 7, 8, 9, 10] →
      let fmt := fld w 51 48
      let first := r.stores.read 1 off 32
      (sbLines fmt = 2 → accessOk [1] 1 off 64 32 = true →
        Issues (.vldw c) s c r ([⟨r.dp.pt + 1, .vldw2 (fld w 10 6) fmt off r.pc first⟩] ++ postDue r w (32 * fld w 45 38))) ∧
      (sbLines fmt ≠ 2 → accessOk [1] 1 off 32 32 = true →
        let sw := first >>> (8 * sbElemBytes fmt)
        (tagScaled fmt = true → bits sw 8 4 = fmt) →
        Issues (.vldw c) s c r
          ([⟨r.dp.pt + 3, .vlanes (fld w 10 6) 0 32 (vpack (tabulate 32 fun i =>
              widen fmt (bits sw 0 8) (bits first (tagWidth fmt * i) (tagWidth fmt))))⟩] ++ postDue r w (32 * fld w 45 38)))) ∧
    (WordB 0x05 w → baseOff r (fld w 15 11) (fld w 26 16) ≤ 1535 →
      Issues (.ldb c) s c r
        ([⟨r.dp.pt + 3, .vlanes (fld w 10 6) 0 32 (BitVec.ofNat 1024
            (r.stores.read 0 (256 * baseOff r (fld w 15 11) (fld w 26 16) + 128 * boolNat (flag w 27)) 128))⟩] ++
          postDue r w (fld w 30 28))) ∧
    (WordB 0x06 w → accessOk [1, 2, 5, 6] ss off 8 8 = true →
      Issues (.lds c) s c r
        (scalarDue r (fld w 10 6) 2 (BitVec.ofNat 64 (r.stores.read (realSs ss) off 8)) ++ postDue r w (8 * fld w 45 38))) ∧
    (WordB 0x07 w → accessOk [1, 2, 5, 6] ss off 8 8 = true →
      let v := sword r (fld w 10 6)
      let old := BitVec.ofNat 64 (r.stores.read 1 off 8)
      Issues (.sts c) s c
        { r with stores :=
            if ss = 5 then r.stores.write 1 off 8 (old ||| v).toNat
            else if ss = 6 then r.stores.write 1 off 8 (old &&& ~~~v).toNat
            else r.stores.write ss off 8 v.toNat }
        (postDue r w (8 * fld w 45 38)))

/-- R114, R115: branches and hardware loops. -/
def Obligations.BranchAndLoopEffects : Prop :=
  ∀ (s : State) (c w : Nat), CanIssue s c 0 w →
    let r := s.core c
    (WordB 0x18 w → Branches (.br c) s c (fld w 25 16)) ∧
    (WordB 0x19 w →
      (sword r (fld w 10 6) = 0 → Branches (.bz c) s c (fld w 25 16)) ∧
      (sword r (fld w 10 6) ≠ 0 → Issues (.bz c) s c r [])) ∧
    (WordB 0x1A w →
      (sword r (fld w 10 6) ≠ 0 → Branches (.bnz c) s c (fld w 25 16)) ∧
      (sword r (fld w 10 6) = 0 → Issues (.bnz c) s c r [])) ∧
    (WordB 0x1B w →
      ((sword r (fld w 10 6)).slt (sa r w) = true → Branches (.blt c) s c (fld w 25 16)) ∧
      ((sword r (fld w 10 6)).slt (sa r w) = false → Issues (.blt c) s c r [])) ∧
    (WordB 0x1C w → r.pc < fld w 36 27 → r.dp.loops.length < 4 →
      (∀ l ∈ r.dp.loops.head?, fld w 36 27 ≤ l.last) → r.pc + 1 < 1024 →
      let count := sword r (fld w 10 6) + BitVec.ofNat 64 (fld w 26 11)
      (count ≠ 0 → count.toNat ≤ 65535 →
        ∃ t, exec (.loop c) s = .next t ∧ OnlyCore c s t ∧ Cycled r (t.core c) ∧ (t.core c).pc = r.pc + 1 ∧
          (t.core c).dp.loops = ⟨r.pc + 1, fld w 36 27, count.toNat, 0⟩ :: r.dp.loops) ∧
      (count = 0 → fld w 36 27 < 1023 → Branches (.loop c) s c (fld w 36 27 + 1)))

/-- R116: the wait forms issue at once where their condition holds, hold the core in WAIT where it does not, and issue when
it comes to hold. -/
def Obligations.WaitFormEffects : Prop :=
  (∀ (s : State) (c w : Nat), CanIssue s c 0 w →
    let r := s.core c
    let off := memOff r w
    let m := sword r (fld w 10 6)
    let f := BitVec.ofNat 64 (r.stores.read 1 off 8)
    (WordB 0x1D w → accessOk [1] 1 off 8 8 = true →
      let holds := if flag w 38 then decide (f &&& m ≠ 0) else decide (f &&& m = m)
      (holds = true → Issues (.waitf c) s c
        { r with stores := if flag w 39 then r.stores.write 1 off 8 (f &&& ~~~m).toNat else r.stores } []) ∧
      (holds = false → Waits (.waitf c) s c (.flag off m (flag w 38) (flag w 39)))) ∧
    (WordB 0x1E w →
      let need := (sword r (fld w 18 14) + BitVec.ofNat 64 (fld w 34 19)).toNat
      (need ≤ Tab.get 0 r.credits (fld w 13 6) → Issues (.waitc c) s c r []) ∧
      (Tab.get 0 r.credits (fld w 13 6) < need → Waits (.waitc c) s c (.credit (fld w 13 6) need))) ∧
    (WordB 0x1F w →
      ((r.chan (fld w 9 6)).free = true → Issues (.waitq c) s c r []) ∧
      ((r.chan (fld w 9 6)).free = false → Waits (.waitq c) s c (.queue (fld w 9 6))))) ∧
  (∀ (s : State) (c w n k : Nat), WordB 0x1F w → fld w 9 6 = k → CanResume s c 0 w (.queue k) →
    ((s.core c).chan k).free = true → Issues (.waitEnd c n) s c (resumed (s.core c)) []) ∧
  (∀ (s : State) (c w n k off : Nat), WordB 0x01 w → fld w 9 6 = k → CanResume s c 0 w (.shutFull k off) →
    accessOk [1] 1 (baseOff (s.core c) (fld w 15 11) (fld w 34 16)) 64 64 = true →
    ((s.core c).chan k).state ≠ .error → ((s.core c).chan k).held < 4 →
    Issues (.shuttleQueueFree c n) s c
      ((resumed (s.core c)).setChan k { ((s.core c).chan k) with
        queue := ((s.core c).chan k).queue ++ [QEntry.desc (baseOff (s.core c) (fld w 15 11) (fld w 34 16))] }) [])

/-- R60, R45, R117, R118, R119, R98: the slot-B words that queue, mark and declare, and the empty slots. -/
def Obligations.QueueMarkerTreeEffects : Prop :=
  ∀ (s : State) (c w : Nat), CanIssue s c 0 w →
    let r := s.core c
    (WordB 0x00 w → Issues (.nopa c) s c r [] ∧ Issues (.nopb c) s c r []) ∧
    (WordB 0x01 w → accessOk [1] 1 (baseOff r (fld w 15 11) (fld w 34 16)) 64 64 = true →
      (r.chan (fld w 9 6)).state ≠ .error → (r.chan (fld w 9 6)).held < 4 →
      Issues (.shut c) s c (r.setChan (fld w 9 6) { (r.chan (fld w 9 6)) with
        queue := (r.chan (fld w 9 6)).queue ++ [QEntry.desc (baseOff r (fld w 15 11) (fld w 34 16))] }) []) ∧
    (WordB 0x20 w → Issues (.pick c) s c { r with sliceRot := (r.sliceRot + 1) % 8, dp := { r.dp with tally := 0 } }
      (scalarDue r (fld w 10 6) 1 (BitVec.ofNat 64 r.dp.tally))) ∧
    (WordB 0x21 w → accessOk [1] 1 (memOff r w) 64 64 = true →
      Issues (.tdecl c) s c r [⟨r.dp.pt + 1, .tdecl2 (fld w 8 6) (memOff r w) (r.stores.read 1 (memOff r w) 32)⟩]) ∧
    (WordB 0x22 w →
      let q := (Tab.get 0 r.dp.tree (fld w 8 6)).toNat
      let ch := fld w 12 9
      let st := r.stores.write 1 (bits q 320 19) 8 (r.stores.read 1 (bits q 320 19) 8 &&& compl 64 (bits q 384 64))
      bits q 339 3 = 1 → accessOk [1] 1 (bits q 320 19) 8 8 = true →
      flagHolds (r.stores.read 1 (bits q 320 19) 8) (bits q 384 64) false = true →
      (r.chan ch).state ≠ .error → (r.chan ch).held < 4 →
      Issues (.rstep c) s c
        ({ r with stores := st }.setChan ch
          { (r.chan ch) with queue := (r.chan ch).queue ++ [QEntry.rstep (fld w 8 6) (Tab.get 0 r.dp.tree (fld w 8 6))] }) []) ∧
    (WordB 0x23 w → ∃ t, exec (.halt c) s = .next t ∧ OnlyCore c s t ∧
      Cycled { r with st := .idle } (t.core c) ∧ (t.core c).pc = r.pc + 1 ∧ (t.core c).dp.pend = [])

/-- R100–R108: the tensor core's operations, the rotate and the quantize. -/
def Obligations.TensorResults : Prop :=
  ∀ (s : State) (c w : Nat), CanIssue s c w 0 →
    let r := s.core c
    let f := tmacF r w
    let row := baseOff r (fld w 31 27) (fld w 42 32)
    let e := Tab.get {} r.dp.op (fld w 16 14)
    let post (rb step : Nat) : List Pend :=
      if step = 0 then [] else scalarDue r rb 1 (sword r rb + BitVec.ofNat 64 step)
    (WordA 0x01 w → Paid s c → f.pair ≤ 0x10 → (pairing f.pair).w ≠ 3 → f.lsel < lselLegal f.pair → f.k = 0 →
      flag w 11 = false → (f.imode = true → (pairing f.pair).int32 = true) →
      (f.init = false → (r.accOf f.g).imode = f.imode) → e.tag.toNat = (pairing f.pair).a → row ≤ 1535 →
      let v := tmacAdd f.pair f.lsel f.imode (r.stores.read 0 (256 * row) 256)
        (r.stores.read 0 (0x60000 + 16 * row) 16) none e (accInit f.init f.imode (r.accOf f.g))
      Issues (.tmac c) s c
        { r with heavy100 := r.heavy100 + 1, dp := { r.dp with acc := Tab.put {} r.dp.acc f.g v, seq := r.dp.seq + 1 } }
        ([⟨r.dp.pt + pairLatency f.pair, .acc f.g (tmacMask f.pair f.lsel f.init) v (r.dp.seq + 1)⟩] ++
          post (fld w 31 27) (fld w 45 43))) ∧
    (WordA 0x02 w → row ≤ 1535 → Issues (.tscl c) s c
      { r with dp := { r.dp with latch := some (row, BitVec.ofNat 2048 (r.stores.read 0 (256 * row) 256)) } } []) ∧
    (WordA 0x03 w →
      let a : AccGroup := Tab.get {} r.dp.accVis (fld w 9 6)
      let off := baseOff r (fld w 21 17) (fld w 40 22)
      (flag w 10 = false → Issues (.tdrn c) s c r
        [⟨r.dp.pt + 2, .vlanes (fld w 15 11) (16 * boolNat (flag w 16)) 16 (BitVec.ofNat 1024
            ((packFields 32 16 fun i => if a.imode then f32OfInt (sext 32 (accLane a i)) else accLane a i) <<<
              (512 * boolNat (flag w 16))))⟩,
          ⟨r.dp.pt + 2, .gf (fld w 9 6) a.sticky⟩]) ∧
      (flag w 10 = true → accessOk [2] 2 off 64 64 = true → Issues (.tdrn c) s c
        { r with stores := r.stores.write 2 off 64 a.lanes.toNat }
        ([⟨r.dp.pt + 2, .gf (fld w 9 6) a.sticky⟩] ++ post (fld w 21 17) (64 * fld w 48 41)))) ∧
    (WordA 0x04 w → Paid s c → (∀ t, r.dp.lastRot = some t → t + 8 ≤ r.dp.pt) →
      let m := fld w 7 6
      let y := rot256 (r.sreg (fld w 13 9)) (flag w 8) ((List.range 8).flatMap fun i => vlanes (r.vreg (8 * m + i)))
      Issues (.rot256 c) s c { r with heavy100 := r.heavy100 + 1 }
        (tabulate 8 fun i => ⟨r.dp.pt + 24, .vlanes (8 * m + i) 0 32 (vpack ((y.drop (32 * i)).take 32))⟩)) ∧
    (WordA 0x05 w → qntFmtOk (fld w 17 14) = true → fld w 29 25 % 2 = 0 → flag w 30 = false →
      let t := fld w 17 14
      let sk := fld w 29 25
      let q := qntBlock t (if flag w 18 then some (r.sreg (fld w 24 20) % 256) else none)
        (if flag w 19 then some (stochDraw (r.sreg sk) (r.sreg (sk + 1)) (s.virtCore c)) else none)
        (vlanes (r.vreg (fld w 10 6)))
      Issues (.qnt c) s c r
        [⟨r.dp.pt + 6, .opent (fld w 13 11) ⟨BitVec.ofNat 4 t, BitVec.ofNat 8 q.scale,
            BitVec.ofNat 512 (packFields 16 32 fun i => q.codes.getD i 0)⟩⟩,
          ⟨r.dp.pt + 6, .tally q.sat⟩])

/-- A scalar result in flight lands in its pipe cycle, with the bundle that issues in it (R96). -/
def Obligations.DueResultsLand : Prop :=
  ∀ (s : State) (c k : Nat) (v : Word), k ≠ 0 → k < 32 →
    CanIssue (s.setCore c { s.core c with dp := { (s.core c).dp with pend := [] } }) c 0 0 →
    (s.core c).dp.pend = [⟨(s.core c).dp.pt, .sreg k v⟩] →
    Issues (.nopb c) s c { s.core c with dp := (s.core c).dp.setS k v } []

/-- R98, Table 4.15: a bundle with a reserved opcode freezes its core with freeze cause 2, reports ILLEGAL_BUNDLE with its
address and the least cause met, and has no other effect. -/
def Obligations.IllegalBundleFreezes : Prop :=
  ∀ (s : State) (c wa wb k : Nat), CanIssue s c wa wb → (opOf wa = 1 ∨ opOf wa = 4 → Paid s c) →
    (validA (opOf wa) = false ∨ validB (opOf wb) = false) →
    let x := { s.core c with balance := refilled s c, stallRun := 0 }
    leastCause (illegalCauses x.dp wa wb
      (if validA (opOf wa) then planA (s.coreEnv c).virt x x.pc wa else {})
      (if validB (opOf wb) then planB x x.pc wb else {})) = some k → k < 16 →
    ∃ t, exec (.reservedOpcode c) s = .next t ∧ t.core c = { x with st := .frozen, freezeCause := 2 } ∧
      t = { s.setCore c (t.core c) with faults := { s.faults with
        inFlight := s.faults.inFlight ++ [⟨c, 0x09, 2, x.pc % 1024 + (k <<< 10), false⟩] } }

/-! ## Core control and the core's own events -/

namespace Sys2Proof

/-- The core's record changes, and one message with the core as source goes out (R378). -/
def told (s : State) (c : Nat) (r : CoreRec) (kind sev detail : Nat) : State :=
  { s.setCore c r with faults := { s.faults with inFlight := s.faults.inFlight ++ [⟨c, kind, sev, detail, false⟩] } }

/-- The command answers a state in which the core is `r` and everything else is as before. -/
def MakesCore (cmd : Instr) (s : State) (c : Nat) (r : CoreRec) : Prop :=
  ∃ t, exec cmd s = .next t ∧ t.core c = r ∧ (∀ k, k ≠ c → t.core k = s.core k) ∧ t = { s with cores := t.cores }

/-- No bolt waits for a scrub or for skeins. -/
def NoBoltWaits (s : State) : Prop := ∀ b, b < Config.nBolts → (s.bolt b).ops = []

end Sys2Proof

/-- R40, R41, R44, R69, R128: GO, HALT and SCRUB of CORE_CTRL, the end of a scrub, and the commit of the core control
block. A command to a core in another state leaves it but for `start_bundle`. -/
def Obligations.CoreControlEffects : Prop :=
  ∀ (s : State) (c b : Nat), c < Config.nCores → b < 1024 →
    let r := s.core c
    (r.st = .idle → MakesCore (.coreCtrlGo c b) s c { r with
      st := .run, pc := b, startBundle := b, balance := 64 * (s.coreEnv c).burst, sliceRot := 0, stallRun := 0,
      clampReported := false, freezeCause := 0, wait := none,
      dp := { r.dp with loops := [], pend := [], ports := [], writes := [], int3 := none, lastSf := none, lastRot := none } }) ∧
    (r.st ≠ .idle → MakesCore (.coreCtrlGo c b) s c { r with startBundle := b }) ∧
    (r.st = .run ∨ r.st = .wait → r.dp.pend = [] → ∃ balance pt, MakesCore (.coreCtrlHalt c b) s c { r with
      st := .idle, startBundle := b, wait := none, balance := balance, dp := { r.dp with pt := pt } }) ∧
    (r.st = .frozen → MakesCore (.coreCtrlHalt c b) s c { r with
      st := .idle, startBundle := b, freezeCause := 0, wait := none,
      dp := { r.dp with pend := [], ports := [], writes := [], int3 := none } }) ∧
    (r.st = .idle ∨ r.st = .frozen → ∃ st, (∀ ss a, ss < 4 → readByte (st.mem ss) a =
        if ss = 0 ∧ r.kept (rowOf a) = true then readByte r.stores.beam a else 0) ∧
      MakesCore (.coreCtrlScrub c b) s c { r with
        st := .scrubbing, startBundle := b, freezeCause := 0, wait := none, perf := [], pcOvf := 0, pcSample := 0,
        pcSampleDst := 0, sinceSample := 4096, stores := st,
        dp := { r.dp with pend := [], ports := [], writes := [], int3 := none } }) ∧
    (r.st = .scrubbing → NoBoltWaits s → exec (.scrubDone c) s = .next (s.setCore c { r with
      st := .idle, chans := [], credits := [], grants := [], exhausted := [], rx := [], sliceRot := 0, denied := [],
      dp := { r.dp with acc := [], accVis := [], accSeq := [], latch := none, int3 := none, tree := [], tally := 0,
                        loops := [], pend := [], ports := [], writes := [] } })) ∧
    (coreCommitBad r.frameMapSh.toNat r.frameGeomSh.toNat = false → exec (.coreCommit c) s = .next (s.setCore c
      { r with arb := r.arbSh, frameMap := r.frameMapSh, frameGeom := r.frameGeomSh })) ∧
    (coreCommitBad r.frameMapSh.toNat r.frameGeomSh.toNat = true →
      exec (.coreCommit c) s = .next (told s c r 0x1F 1 0xFF8))

/-- R38, R56, R57, R59, R64, R66, R129, R388: the events of a core that no bundle causes. -/
def Obligations.CoreEventEffects : Prop :=
  ∀ (s : State) (c : Nat), c < Config.nCores →
    let r := s.core c
    (∀ ch, ch < 16 → (r.chan ch).state = .error ∨ (r.chan ch).state = .miss →
      exec (.chanStatusClear c ch) s = .next (s.setCore c
        (r.setChan ch { r.chan ch with state := .idle, queue := [], active := none }))) ∧
    (beating r.st = true → s.clocked (skeinOf c) = true → r.perf = [] → exec (.heartbeat c) s = .next
      { s.setCore c { r with heartbeats := r.heartbeats + 1 } with
        net := s.net ++ [⟨blankFlit .beat 0 (s.monitorAddr (skeinOf c)), .router (coreX c) (coreY c) 0⟩] }) ∧
    (beating r.st = true → s.clocked (skeinOf c) = true → r.beatSeen = true →
      exec (.heartbeatWindowExpiry c) s = .next (s.setCore c { r with beatSeen := false, missed := 0 })) ∧
    (beating r.st = true → s.clocked (skeinOf c) = true → r.beatSeen = false → r.missed < 3 →
      exec (.heartbeatWindowExpiry c) s = .next (s.setCore c { r with missed := r.missed + 1 })) ∧
    (∀ store ch, store < 3 → r.wanting (s.shEnv c) store = some ch → r.st = .run → r.yieldCycles ≠ 0 →
      r.yieldCycles ≤ Tab.get 0 r.denied store → r.perf = [] →
      exec (.arbitrationYield c store) s = .next (s.setCore c
        { r.setChan ch { r.chan ch with yields := satAdd 8 (r.chan ch).yields 1 } with
          denied := Tab.put 0 r.denied store 0
          balance := min (64 * (s.coreEnv c).burst) (r.balance + (s.coreEnv c).eff)
          sinceSample := min 4096 (r.sinceSample + 1) })) ∧
    (∀ row, row < 1536 → beating r.st = true → r.st ≠ .scrubbing → s.clocked (skeinOf c) = true → r.perf = [] →
      (r.stores.ecc = [] →
        exec (.patrolScrubRead c row) s = .next (s.setCore c { r with patrolRow := (row + 1) % 1536 })) ∧
      (∀ u, u < 16 → r.stores.ecc = [(16 * row + u, 1)] →
        exec (.patrolScrubRead c row) s = .next (told s c { r with
          patrolRow := (row + 1) % 1536
          eccCorr := Tab.put 0 r.eccCorr 0 (satAdd 16 (Tab.get 0 r.eccCorr 0) 1)
          stores := { r.stores with writeBack := insertSorted row r.stores.writeBack } } 1 1 (256 * row + 16 * u)))) ∧
    (∀ row u, row < 1536 → u < 16 → row ∈ r.stores.writeBack → r.stores.ecc = [(16 * row + u, 1)] →
      exec (.scrubWriteBack c row) s = .next (s.setCore c { r with stores := { r.stores with
        ecc := [], writeBack := r.stores.writeBack.filter fun x => x ≠ row } })) ∧
    (4096 < r.stallRun → r.clampReported = false →
      exec (.budgetClamp c) s = .next (told s c { r with clampReported := true } 0x06 1 0)) ∧
    (∀ k, k < 4 → (perfCtr r k).cnt = 2 ^ 48 - 1 → (perfCtr r k).cfg.getLsbD 10 = true →
      (perfCtr r k).cfg.getLsbD 11 = false → r.st ≠ .off → (k % 2 = 0 → (perfCtr r (k + 1)).cfg.getLsbD 9 = false) →
      exec (.counterWrap c k) s = .next (s.setCore c
        { setPerfCtr r k { perfCtr r k with cnt := 0 } with pcOvf := r.pcOvf ||| BitVec.ofNat 4 (2 ^ k) }))

/-! ## Shuttle channels -/

namespace Sys2Proof

/-- A channel of a core whose shuttle works, whose stores hold no error and whose counters are off. -/
structure ShuttleAt (s : State) (c ch : Nat) : Prop where
  site : c < Config.nCores
  chan : ch < 16
  works : shuttleOn (s.core c) = true
  noErrors : (s.core c).stores.ecc = []
  countersOff : (s.core c).perf = []

/-- The idle channel has the well-formed descriptor `a` of operation `op` at the front of its queue, before `rest`. -/
structure CanStart (s : State) (c ch op : Nat) (a : Active) (rest : List QEntry) : Prop extends ShuttleAt s c ch where
  idle : ((s.core c).chan ch).state = .idle
  nothing : ((s.core c).chan ch).active = none
  front : ((s.core c).chan ch).queue = .desc a.addr :: rest
  inside : localOk (s.core c) false 1 a.addr 64 = true
  read : a = newActive (BitVec.ofNat 512 ((s.core c).stores.read 1 a.addr 64)) a.addr false 0
  formed : a.malformed = false
  operation : a.op = op

/-- A write of a line by its global address. -/
def putLine (st : Stores) (dst v : Nat) : Stores := st.write (gaSs dst) (gaOff dst) 32 v

/-- A line, or `n` bytes, read by the shuttle at a local address. -/
def getAt (st : Stores) (ss off n : Nat) : Nat := st.read (realSs ss) off n
def getLine (st : Stores) (src : Nat) : Nat := getAt st (gaSs src) (gaOff src) 32

/-- The address lies in this core, in a store that a shuttle may write a whole line of, and in no alias window. -/
def mineToWrite (s : State) (c dst : Nat) : Prop :=
  isMine (s.shEnv c) dst = true ∧ gaSs dst ≠ 5 ∧ gaSs dst ≠ 6 ∧ localOk (s.core c) true (gaSs dst) (gaOff dst) 32 = true
def mineToRead (s : State) (c src : Nat) : Prop :=
  isMine (s.shEnv c) src = true ∧ localOk (s.core c) false (gaSs src) (gaOff src) 32 = true

/-- The notify of a descriptor goes to an aligned word of this core (R65). -/
def notifiesHere (s : State) (c : Nat) (a : Active) : Prop :=
  a.notify = true → isMine (s.shEnv c) a.notifyAddr = true ∧ aliasAddr a.notifyAddr = true ∧ gaOff a.notifyAddr % 8 = 0

/-- The stores after the notify: its mask set, or cleared, in its word (R58, R65). -/
def notified (a : Active) (st : Stores) : Stores :=
  if a.notify then
    let off := gaOff a.notifyAddr
    let w := st.read 1 off 8
    st.write 1 off 8 (if gaSs a.notifyAddr = 5 then w ||| a.notifyMask else w &&& compl 64 a.notifyMask)
  else st

/-- The command leaves the stores as `st` and the channel as `k`; the core's general flags may be `gf`, and nothing else
changes. -/
def Moves (cmd : Instr) (s : State) (c ch : Nat) (st : Stores) (k : Chan) (gf : BitVec 24) : Prop :=
  ∃ t, exec cmd s = .next t ∧ OnlyCore c s t ∧
    t.core c =
      { s.core c with
        stores := st, chans := (t.core c).chans, dp := { (s.core c).dp with gf := gf } } ∧
    (t.core c).chan ch = k ∧ ∀ j, j ≠ ch → (t.core c).chan j = (s.core c).chan j

/-- The channel after a descriptor has ended (R61, R65): a chained one stands next. -/
def ended (k : Chan) (a : Active) (rest : List QEntry) : Chan :=
  { k with state := .idle, active := none, queue := if a.chain then .desc (a.addr + 64) :: rest else rest }

def startedChan (r : CoreRec) (ch : Nat) : Chan := { r.chan ch with entry := 0, mismatch := false }

/-- Destination and source of line `i` (R62). -/
def dstOf (a : Active) (i : Nat) : Nat := gaStep a.dstA ((i : Int) * a.dstride)
def srcOf (a : Active) (i : Nat) : Nat := gaStep a.src ((i : Int) * a.sstride)

/-- Entry `i` of a list of `n`-byte entries lies whole and aligned in a store, and what it holds. -/
def entryOk (s : State) (c base i n : Nat) : Prop :=
  (bits base 0 19 + n * i) % n = 0 ∧ localOk (s.core c) false (bits base 19 3) (bits base 0 19 + n * i) n = true
def entryAt (st : Stores) (base i n : Nat) : Nat := getAt st (bits base 19 3) (bits base 0 19 + n * i) n

/-- The first `n` lines, one after the other, each from the stores as the lines before have left them. -/
def lines (f : Stores → Nat → Stores) (n : Nat) (st : Stores) : Stores := (List.range n).foldl f st

/-- The page that entry `j` of a PAGEWALK names, by the frame map of the core (R64, R69). -/
def frameWord (r : CoreRec) (a : Active) (st : Stores) (j : Nat) : Nat :=
  entryAt st (bits r.frameMap.toNat 0 22) (entryAt st (bits a.src 0 22) j 4) 8
def pageBase (r : CoreRec) (a : Active) (st : Stores) (j : Nat) : Nat :=
  bits r.frameGeom.toNat 0 19 + bits (frameWord r a st j) 0 20 * bits r.frameGeom.toNat 19 19 + a.frameOff

/-- Entry `j` names a page that is on the wafer, in a map that its checks pass. -/
def pageHere (s : State) (c : Nat) (a : Active) (st : Stores) (j : Nat) : Prop :=
  let r := s.core c
  let p := entryAt st (bits a.src 0 22) j 4
  let f := frameWord r a st j
  entryOk s c (bits a.src 0 22) j 4 ∧ p < bits r.frameMap.toNat 22 24 ∧
    localOk r false (bits (bits r.frameMap.toNat 0 22 + 8 * p) 19 3) (bits (bits r.frameMap.toNat 0 22 + 8 * p) 0 19) 8 = true ∧
    bits (bits r.frameMap.toNat 0 22 + 8 * p) 19 3 = bits (bits r.frameMap.toNat 0 22) 19 3 ∧
    bits (bits r.frameMap.toNat 0 22 + 8 * p) 0 19 = bits (bits r.frameMap.toNat 0 22) 0 19 + 8 * p ∧
    f >>> 32 = compl 32 (f % 2 ^ 32) ∧ bits f 20 2 = 0 ∧ bits f 0 20 < bits r.frameGeom.toNat 38 20

/-- Line `i` of a PAGEWALK, with the page base in hand. -/
def pageLine (r : CoreRec) (a : Active) (q : Stores × Nat) (i : Nat) : Stores × Nat :=
  let base := if i % a.sub = 0 then pageBase r a q.1 (i / a.sub) else q.2
  (putLine q.1 (dstOf a i) (getAt q.1 0 (base + 32 * (i % a.sub)) 32), base)

/-- The lines from `i` on, `n` of them. -/
def pageLines (r : CoreRec) (a : Active) (i n : Nat) (q : Stores × Nat) : Stores × Nat :=
  (List.range' i n).foldl (pageLine r a) q

/-- Line `i` of a reduction step (R119): own and children's lines combined in declared order, and whether a sum saturated. -/
def stepLine (a : Active) (st : Stores) (i : Nat) : Nat × Bool :=
  let own := getAt st (bits (bits (a.w 1) 0 22 + 32 * i) 19 3) (bits (bits (a.w 1) 0 22 + 32 * i) 0 19) 32
  (List.range a.nchild).foldl (fun q k =>
    let o := bits (a.w 1) 22 22 + 32 * a.lines * k + 32 * i
    let d := combineLines a.kind q.1 (getAt st (bits o 19 3) (bits o 0 19) 32)
    (d.1, q.2 || d.2)) (own, false)

/-- The grant flit and record of a GRANT (R166). -/
def grantRec (a : Active) : GrantRec :=
  { engine := gaEngine a.dstA, y := gaY a.dstA, x := gaX a.dstA, creditId := bits (a.w 0) 8 8, store := bits a.src 19 3,
    base := bits a.src 0 19, limit := a.count, used := 0 }
def grantFlitOf (a : Active) (ch : Nat) : Flit :=
  { blankFlit .grant 0 a.dstA with creditId := bits (a.w 0) 8 8, ch := ch, arg := a.count }
def sameGrant (a : Active) (g : GrantRec) : Bool :=
  decide (g.engine = gaEngine a.dstA) && decide (g.y = gaY a.dstA) && decide (g.x = gaX a.dstA) &&
    decide (g.creditId = bits (a.w 0) 8 8)

/-- The command opens a grant record, sends its flit and leaves the channel as `k`. -/
def Grants (cmd : Instr) (s : State) (c ch : Nat) (a : Active) (k : Chan) : Prop :=
  ∃ t, exec cmd s = .next t ∧
    t = { s.setCore c (t.core c) with net := s.net ++ [⟨grantFlitOf a ch, .router (coreX c) (coreY c) 0⟩] } ∧
    t.core c =
      { s.core c with
        stores := notified a (s.core c).stores, chans := (t.core c).chans, grants := (s.core c).grants ++ [grantRec a],
        exhausted := (s.core c).exhausted.filter fun e => !sameGrant a e } ∧
    (t.core c).chan ch = k ∧ ∀ j, j ≠ ch → (t.core c).chan j = (s.core c).chan j

end Sys2Proof

/-- R61–R63, R65: COPY, GATHER, SCATTER and FILL between stores of one core move their lines in order, notify and end; the
next descriptor of a chain stands at the front of the queue. -/
def Obligations.LocalTransferEffects : Prop :=
  ∀ (s : State) (c ch : Nat) (a : Active) (rest : List QEntry), notifiesHere s c a →
    let r := s.core c
    let k := ended (startedChan r ch) a rest
    (CanStart s c ch 1 a rest → (∀ i, i < a.count → mineToRead s c (srcOf a i) ∧ mineToWrite s c (dstOf a i)) →
      Moves (.copy c ch) s c ch
        (notified a (lines (fun st i => putLine st (dstOf a i) (getLine st (srcOf a i))) a.count r.stores)) k r.dp.gf) ∧
    (CanStart s c ch 2 a rest →
      let f := fun st i => putLine st (dstOf a i) (getLine st (entryAt st (bits a.src 0 22) i 8))
      (∀ i, i < a.count → entryOk s c (bits a.src 0 22) i 8 ∧ entryAt (lines f i r.stores) (bits a.src 0 22) i 8 < 2 ^ 47 ∧
        mineToRead s c (entryAt (lines f i r.stores) (bits a.src 0 22) i 8) ∧ mineToWrite s c (dstOf a i)) →
      Moves (.gather c ch) s c ch (notified a (lines f a.count r.stores)) k r.dp.gf) ∧
    (CanStart s c ch 3 a rest →
      let f := fun st i => putLine st (entryAt st (bits a.dstA 0 22) i 8) (getLine st (srcOf a i))
      (∀ i, i < a.count → entryOk s c (bits a.dstA 0 22) i 8 ∧ entryAt (lines f i r.stores) (bits a.dstA 0 22) i 8 < 2 ^ 47 ∧
        mineToRead s c (srcOf a i) ∧ mineToWrite s c (entryAt (lines f i r.stores) (bits a.dstA 0 22) i 8)) →
      Moves (.scatter c ch) s c ch (notified a (lines f a.count r.stores)) k r.dp.gf) ∧
    (CanStart s c ch 5 a rest → (∀ i, i < a.count → mineToWrite s c (dstOf a i)) →
      Moves (.fill c ch) s c ch (notified a (lines (fun st i => putLine st (dstOf a i) 0) a.count r.stores)) k r.dp.gf)

/-- R64, R69: PAGEWALK copies its pages through the frame map, and a channel in MISS does so from the recorded entry on
when it is resumed. -/
def Obligations.PageWalkEffects : Prop :=
  (∀ (s : State) (c ch : Nat) (a : Active) (rest : List QEntry), notifiesHere s c a → CanStart s c ch 4 a rest →
    let r := s.core c
    (∀ i, i < a.total → mineToWrite s c (dstOf a i) ∧
      let q := pageLine r a (pageLines r a 0 i (r.stores, 0)) i
      localOk r false 0 (q.2 + 32 * (i % a.sub)) 32 = true ∧
        (i % a.sub = 0 → pageHere s c a (pageLines r a 0 i (r.stores, 0)).1 (i / a.sub))) →
    Moves (.pagewalk c ch) s c ch (notified a (pageLines r a 0 a.total (r.stores, 0)).1)
      (ended (startedChan r ch) a rest) r.dp.gf) ∧
  (∀ (s : State) (c ch : Nat) (a : Active), notifiesHere s c a → ShuttleAt s c ch →
    let r := s.core c
    let n := a.total - a.next
    (r.chan ch).state = .miss → (r.chan ch).active = some a → a.op = 4 → a.isRstep = false → a.notifying = false →
    a.page = none → a.sent = a.acked → a.next % a.sub = 0 → a.next < a.total →
    (∀ i, i < n → mineToWrite s c (dstOf a (a.next + i)) ∧
      let q := pageLine r a (pageLines r a a.next i (r.stores, 0)) (a.next + i)
      localOk r false 0 (q.2 + 32 * ((a.next + i) % a.sub)) 32 = true ∧
        ((a.next + i) % a.sub = 0 → pageHere s c a (pageLines r a a.next i (r.stores, 0)).1 ((a.next + i) / a.sub))) →
    Moves (.chanStatusResume c ch) s c ch (notified a (pageLines r a a.next n (r.stores, 0)).1)
      (ended { r.chan ch with mismatch := false } a (r.chan ch).queue) r.dp.gf)

/-- R118, R119: a reduction step writes the combined lines and notifies; a saturated sum sets the tree's flag. -/
def Obligations.ReductionStepEffects : Prop :=
  ∀ (s : State) (c ch tree : Nat) (w : BitVec 512) (rest : List QEntry), ShuttleAt s c ch →
    let r := s.core c
    let a := newActive w 0 true tree
    (r.chan ch).state = .idle → (r.chan ch).active = none → (r.chan ch).queue = .rstep tree w :: rest →
    a.badTree = false → notifiesHere s c a → isMine (s.shEnv c) a.dstA = true →
    (∀ i, i < a.lines → mineToWrite s c (gaStep a.dstA (32 * i)) ∧
      localOk r false (bits (bits (a.w 1) 0 22 + 32 * i) 19 3) (bits (bits (a.w 1) 0 22 + 32 * i) 0 19) 32 = true ∧
      ∀ k, k < a.nchild → let o := bits (a.w 1) 22 22 + 32 * a.lines * k + 32 * i
        localOk r false (bits o 19 3) (bits o 0 19) 32 = true) →
    let f := fun st (i : Nat) => putLine st (gaStep a.dstA (32 * i)) (stepLine a st i).1
    Moves (.reductionStep c ch) s c ch (notified a (lines f a.lines r.stores)) (ended (startedChan r ch) a rest)
      (if (List.range a.lines).any fun i => (stepLine a (lines f i r.stores) i).2 then gfSet r.dp.gf (16 + tree) true
        else r.dp.gf)

/-- R63, R166, R167: lines to another core leave as WRITE flits in order, a credited line draws on its credit, and a GRANT
opens its record and sends its flit, at once or when a record becomes free. -/
def Obligations.RemoteTransferEffects : Prop :=
  (∀ (s : State) (c ch : Nat) (a : Active) (rest : List QEntry), CanStart s c ch 1 a rest → a.credited = false →
    let r := s.core c
    (∀ i, i < a.count → mineToRead s c (srcOf a i) ∧ isMine (s.shEnv c) (dstOf a i) = false) →
    ∃ t, exec (.copy c ch) s = .next t ∧
      t = { s.setCore c (t.core c) with
        net := s.net ++ (List.range a.count).map fun i =>
          ⟨writeFlit ch (dstOf a i) 32 (getLine r.stores (srcOf a i)) (decide (i + 1 = a.count)) false 0,
            .router (coreX c) (coreY c) 0⟩ } ∧
      t.core c = { r with chans := (t.core c).chans } ∧
      (t.core c).chan ch =
        { startedChan r ch with
          state := .active, queue := rest, active := some { a with next := a.count, sent := a.count } } ∧
      ∀ j, j ≠ ch → (t.core c).chan j = r.chan j) ∧
  (∀ (s : State) (c ch : Nat) (a : Active), ShuttleAt s c ch →
    let r := s.core c
    (r.chan ch).state = .active → (r.chan ch).active = some a → a.isRstep = false → a.op = 1 → a.credited = true →
    a.notifying = false → a.next < a.total → a.acked ≤ a.sent → 0 < Tab.get 0 r.credits a.creditId →
    (∀ i, i < a.total → mineToRead s c (srcOf a i) ∧ isMine (s.shEnv c) (dstOf a i) = false) →
    ∃ t, exec (.creditedLineSend c ch) s = .next t ∧
      t = { s.setCore c (t.core c) with
        net := s.net ++ [⟨writeFlit ch (dstOf a a.next) 32 (getLine r.stores (srcOf a a.next))
          (decide (a.next + 1 = a.total)) true a.creditId, .router (coreX c) (coreY c) 0⟩] } ∧
      t.core c =
        { r with
          chans := (t.core c).chans, credits := Tab.put 0 r.credits a.creditId (Tab.get 0 r.credits a.creditId - 1) } ∧
      (t.core c).chan ch = { r.chan ch with active := some { a with next := a.next + 1, sent := a.sent + 1 } } ∧
      ∀ j, j ≠ ch → (t.core c).chan j = r.chan j) ∧
  (∀ (s : State) (c ch : Nat) (a : Active) (rest : List QEntry), CanStart s c ch 6 a rest → notifiesHere s c a →
    bits a.src 19 3 = 1 ∨ bits a.src 19 3 = 2 → a.count ≤ 1536 →
    localOk (s.core c) false (bits a.src 19 3) (bits a.src 0 19) (32 * a.count) = true →
    (s.core c).grants.any (sameGrant a) = false → (s.core c).grants.length < 64 →
    Grants (.grant c ch) s c ch a (ended (startedChan (s.core c) ch) a rest)) ∧
  (∀ (s : State) (c ch : Nat) (a : Active), ShuttleAt s c ch → notifiesHere s c a →
    ((s.core c).chan ch).active = some a → a.waitsRecord = true →
    (s.core c).grants.any (sameGrant a) = false → (s.core c).grants.length < 64 →
    Grants (.grantRecordFree c ch) s c ch a (ended ((s.core c).chan ch) a ((s.core c).chan ch).queue))

/-! ## The machine -/

namespace Sys2Proof

/-- The anchor set is locked, and the ledger memory holds the committed set. -/
def AnchorsLocked (s : State) : Prop := s.security.lock = true ∧ s.security.anchor = s.ledger.anchors

end Sys2Proof

/-- A step takes the command at the front of the queue; with none, wafer time goes on by 1 ns (model's choice, log entry
17). -/
def Obligations.StepRunsFrontCommand : Prop :=
  (∀ (s : State) (c : Instr) (rest : List Instr), s.pending = c :: rest → step s = exec c { s with pending := rest }) ∧
  (∀ s : State, s.pending = [] → step s = .next { s with time := (s.time + 1) % 2 ^ 64 })

/-- The state that reset leaves: nothing queued, in flight or booted; every core IDLE or held, no bolt, no request, no
queue pair, no fault waiting. -/
def Obligations.ResetLeavesNothing : Prop :=
  let s := State.reset
  s.pending = [] ∧ s.net = [] ∧ s.time = 0 ∧ s.boot.stage = 0 ∧ s.boot.booted = false ∧ s.faults.inFlight = [] ∧ s.hostMem = [] ∧
    s.xram = [] ∧ s.lowFree = 16384 ∧ s.lastRead = 0 ∧ s.security.lock = false ∧
    (∀ b, (s.bolt b).st = .none) ∧ (∀ i, (s.req i).key = 0) ∧ (∀ p k, (s.port p).owner k = .dirty) ∧
    (∀ c, (s.core c).pc = 0 ∧ (s.core c).perf = [] ∧ (s.core c).heartbeats = 0) ∧
    (∀ k, (s.skein k).allowance = 0) ∧ (∀ l, (s.link l).state = 0)

/-- R4, R5, R10: a command that names only units of the engine takes its effect, and one that names a core that there is
none of stops with `noSuchUnit`. -/
def Obligations.KnownUnitsRun : Prop :=
  (∀ (i : Instr) (s : State), i.wellFormed = true → ∃ t, exec i s = .next t) ∧
  (∀ (i : Instr) (s : State) (r : Refusal), exec i s ≠ .refused r) ∧
  (∀ (s : State) (c : Nat), Config.nCores ≤ c →
    ∀ cmd ∈ [Instr.scrubDone, .coreCommit, .heartbeat, .heartbeatWindowExpiry, .budgetClamp, .rtCommit, .nopa, .tmac, .vadd, .nopb,
      .lds, .sts, .br, .halt], exec (cmd c) s = .fault .noSuchUnit)

/-- No command looks at the queue or changes it, whatever it does. -/
def Obligations.CommandsKeepQueue : Prop :=
  ∀ (s t : State) (c : Instr) (rest : List Instr), s.pending = c :: rest → step s = .next t → t.pending = rest

/-- R233: nothing but a reset unlocks a locked anchor set or changes it, in the registers or in the ledger memory. -/
def Obligations.AnchorsStayLocked : Prop :=
  ∀ s t : State, AnchorsLocked s → s.pending.head? ≠ some .reset → step s = .next t →
    AnchorsLocked t ∧ t.security.anchor = s.security.anchor

/-- R233: from reset the set is not locked; ANCHOR_LOCK after a commit that was taken, or after boot, locks it. -/
def Obligations.AnchorLockLocks : Prop :=
  State.reset.security.lock = false ∧ State.reset.security.anchor = State.reset.ledger.anchors ∧
  (∀ s : State, s.security.anchor = s.ledger.anchors →
    ∃ t, exec (.anchorLock 0) s = .next t ∧ t = { s with security := { s.security with lock := true } } ∧ AnchorsLocked t) ∧
  (∀ s : State, s.security.lock = false →
    (∀ e ∈ s.security.anchorSh, anchorBad e.2 = false) →
    exec (.anchorCommit 0) s = .next { s with
      security := { s.security with anchor := s.security.anchorSh, mismatch := 0 }
      ledger := { s.ledger with anchors := s.security.anchorSh } })

/-- A byte memory of any store: what a write leaves, and that it keeps the canonical form. -/
def Obligations.MemoryReadAfterWrite : Prop :=
  ∀ (m : List Host.Cell) (a n v : Nat),
    (v < 256 ^ n → readLE (writeLE m a n v) a n = v) ∧
    (∀ b k, b + k ≤ a ∨ a + n ≤ b → readLE (writeLE m a n v) b k = readLE m b k) ∧
    (Memory.wf m = true → Memory.wf (writeLE m a n v) = true ∧ Memory.wf (clearRange m a n) = true) ∧
    (∀ j, readByte (clearRange m a n) j = if a ≤ j ∧ j < a + n then 0 else readByte m j)

/-- R98, Tables 4.1 and 4.2: the opcodes of each slot, and a bundle with any other. -/
def Obligations.ReservedOpcodesAreIllegal : Prop :=
  (∀ op, op < 64 → (validA op = true ↔ op ∈ [0x00, 0x01, 0x02, 0x03, 0x04, 0x05, 0x08, 0x09, 0x0A, 0x0B, 0x0C, 0x0D, 0x0E, 0x0F,
    0x10, 0x11, 0x12, 0x13, 0x18, 0x19, 0x1A, 0x1B])) ∧
  (∀ op, op < 64 → (validB op = true ↔ op ≤ 0x23)) ∧
  (∀ (s : State) (c wa wb : Nat), CanIssue s c wa wb → (opOf wa = 1 ∨ opOf wa = 4 → Paid s c) →
    (validA (opOf wa) = false ∨ validB (opOf wb) = false) →
    ∃ t detail, exec (.reservedOpcode c) s = .next t ∧ (t.core c).st = .frozen ∧ (t.core c).freezeCause = 2 ∧
      (t.core c).pc = (s.core c).pc ∧ (t.core c).stores = (s.core c).stores ∧ (t.core c).dp = (s.core c).dp ∧
      t.faults.inFlight = s.faults.inFlight ++ [⟨c, 0x09, 2, detail, false⟩])

/-! ## The fabric -/

namespace Sys2Proof

/-- The flit stands at the front of what is in flight, at a place where it arrives on this engine; `rest` is behind it. -/
structure AtDoor (s : State) (f : Flit) (rest : List NetFlit) : Prop where
  here : gaEngine f.dst = s.engineNo
  stands : ∃ l, s.net = ⟨f, l⟩ :: rest ∧ arrivedAt f l = true

/-- The core that a flit is addressed to. -/
def coreAt (f : Flit) : Nat := coreNum (gaX f.dst) (gaY f.dst)

/-- The flit stands at the core it is addressed to, which is on, with sound stores and its counters off. -/
structure AtCore (s : State) (f : Flit) (rest : List NetFlit) : Prop extends AtDoor s f rest where
  core : gaY f.dst < 576
  alive : (s.core (coreAt f)).st ≠ .dead ∧ (s.core (coreAt f)).st ≠ .off
  countersOff : (s.core (coreAt f)).perf = []
  noErrors : (s.core (coreAt f)).stores.ecc = []

/-- The flit is gone, the core at its address is `r`, and these flits stand at its router. -/
def Received (cmd : Instr) (s : State) (f : Flit) (rest : List NetFlit) (r : CoreRec) (out : List Flit) : Prop :=
  exec cmd s = .next { s.setCore (coreAt f) r with
    net := rest ++ out.map fun g => ⟨g, .router (coreX (coreAt f)) (coreY (coreAt f)) 0⟩ }

/-- As `Received`, for a command that acts on the core's control block. -/
def ReceivedCtl (cmd : Instr) (s : State) (f : Flit) (rest : List NetFlit) (r : CoreRec) (out : List Flit) : Prop :=
  ∃ t, exec cmd s = .next t ∧ t.core (coreAt f) = r ∧ (∀ k, k ≠ coreAt f → t.core k = s.core k) ∧
    t = { s with cores := t.cores, net := rest ++ out.map fun g => ⟨g, .router (coreX (coreAt f)) (coreY (coreAt f)) 0⟩ }

/-- As `Received`, with the channel named by the flit as `k` and every other channel as before. -/
def ReceivedAt (cmd : Instr) (s : State) (f : Flit) (rest : List NetFlit) (r : CoreRec) (k : Chan) (out : List Flit) : Prop :=
  ∃ t, exec cmd s = .next t ∧
    t = { s.setCore (coreAt f) (t.core (coreAt f)) with
      net := rest ++ out.map fun g => ⟨g, .router (coreX (coreAt f)) (coreY (coreAt f)) 0⟩ } ∧
    t.core (coreAt f) = { r with chans := (t.core (coreAt f)).chans } ∧ (t.core (coreAt f)).chan f.ch = k ∧
    ∀ j, j ≠ f.ch → (t.core (coreAt f)).chan j = (s.core (coreAt f)).chan j

/-- A flit back to the source of `f` on VC2, naming its channel. -/
def answer (ty : FlitType) (f : Flit) (arg line : Nat) : Flit :=
  { blankFlit ty 2 (gaMake f.srcEngine f.srcY f.srcX 0) with ch := f.ch, arg := arg, line := BitVec.ofNat 256 line }

/-- The only count that a receiver holds after a first line, and the ACK of a last one (R164). -/
def firstCount (f : Flit) (now : Nat) : List RxCount := if f.last then [] else [⟨f.srcEngine, f.srcY, f.srcX, f.ch, 1, now⟩]
def firstAck (f : Flit) : List Flit := if f.last then [answer .ack f 1 0] else []

/-- The channel in ERROR, its queue discarded (R66). -/
def failed (k : Chan) (e : Nat) : Chan :=
  { k with state := .error, queue := [], active := none, entry := e % 2 ^ 24, mismatch := false }

/-- A line whose grant record is `g` (R166): the records after it. -/
def grantUsed (g : GrantRec) : List GrantRec := if g.used + 1 < g.limit then [{ g with used := g.used + 1 }] else []
def grantSpent (g : GrantRec) : List GrantRec := if g.used + 1 < g.limit then [] else [{ g with used := g.used + 1 }]

/-- The neighbour toward which dimension order takes a flit, weft first, by express where one leads 8 or more on from a
multiple of 8 (R144, R153). -/
def hop (x y tx ty : Nat) : Loc :=
  if x < tx then (if x % 8 = 0 ∧ x + 8 ≤ tx then .router (x + 8) y 8 else .router (x + 1) y 4)
  else if tx < x then (if x % 8 = 0 ∧ tx + 8 ≤ x then .router (x - 8) y 6 else .router (x - 1) y 2)
  else if y < ty then (if y % 8 = 0 ∧ y + 8 ≤ ty then .router x (y + 8) 5 else .router x (y + 1) 1)
  else if ty < y then (if y % 8 = 0 ∧ ty + 8 ≤ y then .router x (y - 8) 7 else .router x (y - 1) 3)
  else .core x y

/-- A core whose core port is blocked is FENCED, issuing stopped, and one whose port is opened again is IDLE with a fresh
monitor (R38, R40); an OFF or DEAD core stays as it is. -/
def fencedAs (r : CoreRec) (blocked : Bool) : CoreRec :=
  if blocked = true ∧ r.st ≠ .off ∧ r.st ≠ .fenced ∧ r.st ≠ .dead then
    { r with st := .fenced, freezeCause := 0, wait := none, dp := { r.dp with pend := [], ports := [], writes := [], int3 := none } }
  else if blocked = false ∧ r.st = .fenced then { r with st := .idle, missed := 0, beatSeen := false } else r

/-- A sound, open router of a powered skein whose port counters are off. -/
structure OpenRouter (s : State) (x y : Nat) : Prop where
  column : x < 512
  row : y < 576
  open_ : ∀ i, (s.router (coreNum x y)).word i = withInv (if i = 0 then (s.router (coreNum x y)).val 0 % 16 else 0)
  notLost : (s.router (coreNum x y)).lost = false
  powered : 1 ≤ (s.skein (skeinOf (coreNum x y))).state ∧ (s.skein (skeinOf (coreNum x y))).state ≤ 4
  countersOff : (s.skein (skeinOf (coreNum x y))).portCfg = []

/-- A flit alone in flight at such a router, to a core of this engine. -/
structure Alone (s : State) (f : Flit) (x y port : Nat) : Prop extends OpenRouter s x y where
  entry : port < 9
  only : s.net = [⟨f, .router x y port⟩]
  here : gaEngine f.dst = s.engineNo
  toCore : gaY f.dst < 576
  direct : f.wp = none

end Sys2Proof

/-- R147, R149, R153, R160: a flit alone at a router goes on toward its core; the router stamps what its own core injects,
drops a flit with an uncorrectable error, and lets no data flit of a core without a bolt out. -/
def Obligations.RoutingEffects : Prop :=
  (∀ (s : State) (f : Flit) (x y port : Nat), Alone s f x y port →
    let c := coreNum x y
    let v := (s.router c).val 0
    let own : Flit := { f with srcY := y, srcX := x, srcEngine := s.engineNo, ext := false, bolt := bits v 0 3 }
    (port ≠ 0 → ∃ t, exec (.routeFlit f x y port .none) s = .next t ∧
      t = { s with net := [⟨f, hop x y (gaX f.dst) (gaY f.dst)⟩], routers := t.routers } ∧
      (t.router c).reg = (s.router c).reg ∧ ∀ k, k ≠ c → t.router k = s.router k) ∧
    (port = 0 → f.vc = 0 ∨ bitAt v 3 = true → ∃ t, exec (.routeFlit f x y 0 .none) s = .next t ∧
      t = { s with net := [⟨own, hop x y (gaX f.dst) (gaY f.dst)⟩], routers := t.routers } ∧
      (t.router c).reg = (s.router c).reg ∧ ∀ k, k ≠ c → t.router k = s.router k) ∧
    (port = 0 → f.vc ≠ 0 → bitAt v 3 = false → f.type = .write → exec (.routeFlit f x y 0 .none) s = .next
      { s with
        net := [⟨{ answer .nack own (1 + 96) 0 with
            srcY := y, srcX := x, srcEngine := s.engineNo, bolt := bits v 0 3 }, .core x y⟩]
        faults := { s.faults with inFlight := s.faults.inFlight ++ [⟨c, 0x0D, 2, bits f.dst 19 28, false⟩] } }) ∧
    (exec (.routeFlit f x y port .double) s = .next { s with
      net := [], faults := { s.faults with inFlight := s.faults.inFlight ++ [⟨c, 0x02, 2, port + 2 ^ 35, false⟩] } })) ∧
  (∀ (s : State) (m : FaultMsg) (c : Nat), c < Config.nCores → OpenRouter s (coreX c) (coreY c) → s.engineNo < 64 →
    faultRouter m.source = some c → s.net = [] → s.faults.inFlight = [m] →
    let v := (s.router c).val 0
    let k := collectorCore (fieldOf c)
    let f : Flit := { blankFlit .fault 0 (gaMake s.engineNo (coreY k) (coreX k) 0) with line := faultLine m }
    ∃ t, exec (.routeFlit f (coreX c) (coreY c) 0 .none) s = .next t ∧
      t = { s with
        net := [⟨{ f with srcY := coreY c, srcX := coreX c, srcEngine := s.engineNo, bolt := bits v 0 3 },
          hop (coreX c) (coreY c) (coreX k) (coreY k)⟩]
        routers := t.routers, faults := { s.faults with inFlight := [] } } ∧
      (t.router c).reg = (s.router c).reg ∧ ∀ j, j ≠ c → t.router j = s.router j)

/-- R58, R162, R164–R166: WRITE, WRITE_WORD and READ at a core. -/
def Obligations.StoreRequestEffects : Prop :=
  ∀ (s : State) (f : Flit) (rest : List NetFlit), AtCore s f rest →
    let r := s.core (coreAt f)
    let ss := gaSs f.dst
    let off := gaOff f.dst
    r.st ≠ .scrubbing → r.discard = false → r.rx = [] →
    (f.type = .write → f.credited = false → ss = 0 ∨ ((ss = 1 ∨ ss = 2) ∧ f.fromHarness = true) →
      localOk r true ss off 32 = true → Received (.write f) s f rest
        { r with stores := r.stores.write ss off 32 f.line.toNat, rx := firstCount f s.time } (firstAck f)) ∧
    (∀ g, f.type = .write → f.credited = true → ss = 1 ∨ ss = 2 → r.grants = [g] → grantKey f g = true → g.store = ss →
      g.base ≤ off → off + 32 ≤ g.base + 32 * g.limit → g.used < g.limit → localOk r true ss off 32 = true →
      r.exhausted = [] → Received (.write f) s f rest
        { r with
          stores := r.stores.write ss off 32 f.line.toNat, rx := firstCount f s.time
          grants := grantUsed g, exhausted := grantSpent g } (firstAck f)) ∧
    (f.type = .write → f.credited = false → ss = 1 ∨ ss = 2 → f.fromHarness = false → f.fromToken = false →
      exec (.write f) s = .next { s.setCore (coreAt f) r with
        net := rest ++ [⟨answer .nack f (1 + 32) 0, .router (coreX (coreAt f)) (coreY (coreAt f)) 0⟩]
        faults := { s.faults with inFlight := s.faults.inFlight ++
          [⟨coreAt f, 0x04, 2, creditDetail f 3 % 2 ^ 36, false⟩] } }) ∧
    (f.type = .writeWord → f.credited = false → ss = 5 ∨ ss = 6 → off % 8 = 0 → off < 0xC000 →
      let w := r.stores.read 1 off 8
      let m := bits f.line.toNat 0 64
      Received (.writeWord f) s f rest
        { r with
          stores := r.stores.write 1 off 8 (if ss = 5 then w ||| m else w &&& compl 64 m), rx := firstCount f s.time }
        (firstAck f)) ∧
    (f.type = .write → ss = 4 → f.fromHarness = true → off = 0x018 →
      let v := bits f.line.toNat 0 64
      ReceivedCtl (.write f) s f rest
        { r with freqTarget := max 64 (min 232 (bits v 0 8)), stretch := bits v 8 4, rx := firstCount f s.time } (firstAck f)) ∧
    (f.type = .read → ss = 4 → f.fromHarness = true → off = 0x008 → f.arg % 16 = 0 → ReceivedCtl (.read f) s f rest r
      [answer .readData f 0 (r.st.code + (r.freezeCause <<< 8) + ((r.pc % 1024) <<< 16))]) ∧
    (f.type = .read → (∀ i, i < f.arg % 16 + 1 → localOk r false ss (off + 32 * i) 32 = true) → ss ≠ 4 →
      Received (.read f) s f rest r ((List.range (f.arg % 16 + 1)).map fun i =>
        answer .readData f 0 (r.stores.read (realSs ss) (off + 32 * i) 32)))

/-- R65, R66, R162, R164, R167: the responses at the channel that asked, and GRANT at the writer. -/
def Obligations.ResponseEffects : Prop :=
  ∀ (s : State) (f : Flit) (rest : List NetFlit) (a : Active), AtCore s f rest →
    let r := s.core (coreAt f)
    let k := r.chan f.ch
    (f.type = .grant → Received (.grantFlit f) s f rest
      { r with credits := Tab.put 0 r.credits f.creditId (min (Tab.get 0 r.credits f.creditId + f.arg) 65535) } []) ∧
    (k.state = .active → k.active = some a →
      (f.type = .nack → ReceivedAt (.nack f) s f rest r (failed k a.acked) []) ∧
      (f.type = .ack → a.notifying = true → ReceivedAt (.ack f) s f rest r (ended k a k.queue) []) ∧
      (f.type = .ack → a.notifying = false → a.next = a.total → a.acked + f.arg % 32 = a.sent → a.notify = false →
        ReceivedAt (.ack f) s f rest r (ended k a k.queue) []) ∧
      (f.type = .ack → a.notifying = false → a.next = a.total → a.acked + f.arg % 32 < a.sent →
        ReceivedAt (.ack f) s f rest r { k with active := some { a with acked := a.acked + f.arg % 32 } } []) ∧
      (f.type = .readData → a.outstanding ≠ 0 → bits f.arg 5 4 ≠ 0 →
        ReceivedAt (.readData f) s f rest r (failed k a.next) []) ∧
      (f.type = .readData → 1 < a.outstanding → bits f.arg 5 4 = 0 → ReceivedAt (.readData f) s f rest r
        { k with active := some { a with staged := a.staged ++ [f.line], outstanding := a.outstanding - 1 } } []) ∧
      (f.type = .readData → a.outstanding = 1 → bits f.arg 5 4 = 0 → a.isRstep = false → a.op = 1 → a.staged = [] →
        a.notifying = false → a.next + 1 = a.total → a.sent = a.acked → a.notify = false →
        isMine (s.shEnv (coreAt f)) (srcOf a a.next) = false → mineToWrite s (coreAt f) (dstOf a a.next) →
        ReceivedAt (.readData f) s f rest { r with stores := putLine r.stores (dstOf a a.next) f.line.toNat }
          (ended k a k.queue) []))

/-- R38, R158, R159, R164, R172: control flits, heartbeats, the router's commit, the ACK timer and the harness's rewrites. -/
def Obligations.FabricControlEffects : Prop :=
  (∀ (s : State) (f : Flit) (rest : List NetFlit), AtDoor s f rest →
    let c := coreAt f
    let i := gaOff f.dst / 8
    let v := bits f.line.toNat 0 64
    let back (w : Nat) : Flit :=
      { blankFlit .ctrlResp 0 (gaMake f.srcEngine f.srcY f.srcX 0) with ch := f.ch, line := BitVec.ofNat 256 w }
    (f.type = .ctrl → gaY f.dst < 576 → f.fromHarness = true → f.arg = 1 → i < 10 →
      exec (.ctrl f) s = .next { s with
        net := rest ++ [⟨back ((s.router c).word i).toNat, .router (coreX c) (coreY c) 0⟩] }) ∧
    (f.type = .ctrl → gaY f.dst < 576 → f.fromHarness = true → f.arg = 0 → i < 10 →
      exec (.ctrl f) s = .next { s.setRouter c { s.router c with
        sh := Tab.put (withInv 0) (s.router c).sh i (BitVec.ofNat 64
          ((v % 2 ^ 32 &&& (if i = 0 then 0x3FFF else if i = 1 then 0x1FF else 0xFFFFF)) + (bits v 32 32 <<< 32))) } with
        net := rest }) ∧
    (f.type = .ctrl → gaY f.dst < 576 → f.fromHarness = true → f.arg = 2 → gaOff f.dst = 0x018 →
      exec (.ctrl f) s = .next { s.setCore c { s.core c with
        freqTarget := max 64 (min 232 (bits v 0 8)), stretch := bits v 8 4 } with net := rest }) ∧
    (f.type = .ctrl → gaY f.dst < 576 → f.fromHarness = true → f.arg = 3 → gaOff f.dst = 0x008 →
      exec (.ctrl f) s = .next { s.setCore c (s.core c) with net := rest ++
        [⟨back ((s.core c).st.code + ((s.core c).freezeCause <<< 8) + (((s.core c).pc % 1024) <<< 16)),
          .router (coreX c) (coreY c) 0⟩] }) ∧
    (f.type = .ctrl → gaY f.dst < 576 → f.fromHarness = true → f.arg = 2 ∨ f.arg = 3 →
      0x1000 ≤ gaOff f.dst ∨ gaOff f.dst % 8 ≠ 0 → exec (.ctrl f) s = .next { s with
        net := rest
        faults := { s.faults with inFlight := s.faults.inFlight ++ [⟨c, 0x05, 2, gaLow f.dst, false⟩] } }) ∧
    (f.type = .ctrl → gaY f.dst < 576 → f.fromHarness = false →
      exec (.ctrl f) s = .next { s with
        net := rest
        faults := { s.faults with inFlight := s.faults.inFlight ++ [⟨c, 0x05, 2, gaLow f.dst, false⟩] } }) ∧
    (f.type = .ctrlResp → 960 ≤ gaY f.dst → f.srcY < 576 → exec (.ctrlResp f) s = .next { s with
      net := rest, ctrlData := f.line.truncate 64, probes := Tab.erase s.probes (coreNum f.srcX f.srcY) }) ∧
    (f.type = .beat → f.srcY < 576 → f.dst = s.monitorAddr (skeinOf (coreNum f.srcX f.srcY)) →
      exec (.beat f) s = .next { s.setCore (coreNum f.srcX f.srcY)
        { s.core (coreNum f.srcX f.srcY) with beatSeen := true, missed := 0 } with net := rest })) ∧
  (∀ (s : State) (c : Nat), c < Config.nCores →
    let r := s.router c
    (r.commitBad (coreX c) (coreY c) = false → exec (.rtCommit c) s = .next
      ((s.setRouter c { r with reg := r.sh, copy := r.sh }).setCore c
        (fencedAs (s.core c) (bitAt (wordVal (Tab.get (withInv 0) r.sh 1)) 8)))) ∧
    (r.commitBad (coreX c) (coreY c) = true → exec (.rtCommit c) s = .next { s with faults := { s.faults with
        inFlight := s.faults.inFlight ++ [⟨c, 0x1F, 1, 0x78, false⟩] } }) ∧
    (∀ q, (s.core c).rx = [q] → q.since + 64 ≤ s.time → (s.core c).perf = [] →
      exec (.ackTimerExpiry c ((q.engine <<< 19) + q.y * 512 + q.x) q.ch) s = .next { s.setCore c { s.core c with rx := [] } with
        net := s.net ++ [⟨{ blankFlit .ack 2 (gaMake q.engine q.y q.x 0) with ch := q.ch, arg := q.count },
          .router (coreX c) (coreY c) 0⟩] })) ∧
  (∀ (s : State) (k c i e : Nat),
    (k < Config.nSkeins → budgetBad (s.skein k) = true → exec (.harnessRewrite (.allowance k)) s = .next (s.setSkein k
      { s.skein k with
        allowance := BitVec.ofNat 10 (s.skein k).allowCopy, allowanceInv := ~~~BitVec.ofNat 10 (s.skein k).allowCopy
        burst := BitVec.ofNat 10 (s.skein k).burstCopy, burstInv := ~~~BitVec.ofNat 10 (s.skein k).burstCopy
        mismatchReported := false })) ∧
    (c < Config.nCores → i < 10 → (s.router c).bad i = true → s.span.held = [] →
      let w := Tab.get (withInv 0) (s.router c).copy i
      exec (.harnessRewrite (.router c i)) s = .next ((s.setRouter c { s.router c with
        reg := Tab.put (withInv 0) (s.router c).reg i w, sh := Tab.put (withInv 0) (s.router c).sh i w }).setCore c
          (fencedAs (s.core c) (bitAt (wordVal (if i = 1 then w else (s.router c).word 1)) 8)))) ∧
    (k < Config.nSkeins → wordBad (s.skein k).ctrl = true → exec (.harnessRewrite (.voltage k)) s = .next (s.setSkein k
      { s.skein k with ctrl := (s.skein k).ctrlCopy, ctrlSh := (s.skein k).ctrlCopy })) ∧
    (e < 64 → wordBad (s.routeWord e) = true → s.net = [] → exec (.harnessRewrite (.spanRoute e)) s = .next
      { s with span := { s.span with
        route := Tab.put (withInv 0) s.span.route e (Tab.get (withInv 0) s.span.routeCopy e) } }) ∧
    (e < 64 → wordBad (Tab.get (withInv 0) s.span.peer e) = true → s.span.held = [] →
      exec (.harnessRewrite (.spanPeer e)) s = .next { s with span := { s.span with
        peer := Tab.put (withInv 0) s.span.peer e (Tab.get (withInv 0) s.span.peerCopy e) } }))

/-! ## The host interface -/

namespace Sys2Proof

/-- The command answers a state in which queue pair `q` is `r`, every other one is as before, and all else is as in `s1`. -/
def MakesQp (cmd : Instr) (s s1 : State) (q : Nat) (r : QpRec) : Prop :=
  ∃ t, exec cmd s = .next t ∧ t.qp q = r ∧ (∀ k, k ≠ q → t.qp k = s.qp k) ∧ t = { s1 with qps := t.qps }

/-- As `MakesQp` for the functions: function `f` is `r f` where `on f` holds. -/
def MakesFuncs (cmd : Instr) (s s1 : State) (on : Nat → Bool) (r : Nat → FuncRec) : Prop :=
  ∃ t, exec cmd s = .next t ∧ (∀ f, t.func f = if on f then r f else s.func f) ∧ t = { s1 with funcs := t.funcs }

/-- As `MakesQp` for a pair that is disabled: the operations of bolts that came from it write no completion. -/
def DisablesQp (cmd : Instr) (s : State) (q : Nat) (r : QpRec) : Prop :=
  ∃ t, exec cmd s = .next t ∧ t.qp q = r ∧ (∀ k, k ≠ q → t.qp k = s.qp k) ∧
    (∀ b, t.bolt b = if b < 8 then { s.bolt b with
        ops := (s.bolt b).ops.map (BoltOp.orphan q), tune := (s.bolt b).tune.map fun u => { u with fin := u.fin.orphan q } }
      else s.bolt b) ∧ t = { s with qps := t.qps, bolts := t.bolts }

/-- No request, load or adapter load is under way. -/
def NothingOwed (s : State) : Prop := s.reqs = [] ∧ s.adapters = [] ∧ ∀ b, b < 8 → (s.bolt b).load = none

/-- The records of a function's reset: bases and enable 0, sizes and function kept. -/
def clearedQp (r : QpRec) : QpRec :=
  { r with
    sq := BitVec.ofNat 64 (bits r.sq.toNat 0 12), cq := BitVec.ofNat 64 (bits r.cq.toNat 0 12)
    sqSh := BitVec.ofNat 64 (bits r.sqSh.toNat 0 12), cqSh := BitVec.ofNat 64 (bits r.cqSh.toNat 0 12)
    cfg := BitVec.ofNat 64 (setBits r.cfg.toNat 36 1 0), cfgSh := BitVec.ofNat 64 (setBits r.cfgSh.toNat 36 1 0) }

/-- A queue pair whose next entry is `d`, with nothing open before it, room for its completion, no interrupt and a well-formed
header. -/
structure Ready (s : State) (q : Nat) (d : BitVec 1024) : Prop where
  pair : q < Config.nQueuePairs
  fetch : s.canFetch q = true
  noneOpen : (s.qp q).openDescs = []
  noneHeld : (s.qp q).held = []
  room : (s.qp q).unread < (s.qp q).cqSize
  writable : (s.func (s.qp q).func).writable = true
  quiet : cfgIrqEn (s.qp q).cfg = false
  header : headerOk q d = true

/-- The queue pair after the entry has been accepted, and after its completion has been written (R264, R266, R271). -/
def acceptedQp (r : QpRec) : QpRec :=
  { r with
    sqHead := (r.sqHead + 1) % r.sqSize, accepted := (r.accepted + 1) % 2 ^ 32, descNum := r.descNum + 1, barrierOk := false
    openDescs := [r.descNum] }
def answeredQp (r : QpRec) (now : Nat) : QpRec :=
  { acceptedQp r with
    openDescs := []
    cqTail := if r.cqTail + 1 = r.cqSize then 0 else r.cqTail + 1
    cqPhase := if r.cqTail + 1 = r.cqSize then !r.cqPhase else r.cqPhase
    unread := r.unread + 1, t0 := if r.pend = 0 then now else r.t0, pend := r.pend + 1 }

/-- The completion entry of a descriptor (Table 10.8). -/
def entryOf (r : QpRec) (q : Nat) (d : BitVec 1024) (handle status : Nat) (result : List Nat) : List Byte :=
  cqeBytes { tag := dTag d, handle := handle, status := status, kind := 0, opcode := dOpcode d, endReason := 0, result := result,
             numericWarn := false, frees := none, finOf := none } ((r.sqHead + 1) % r.sqSize) q r.cqPhase

/-- The command accepts its descriptor and writes one completion with this status and result; all else is as in `s1`. -/
def Answers (cmd : Instr) (s s1 : State) (q : Nat) (d : BitVec 1024) (status : Nat) (result : List Nat) : Prop :=
  MakesQp cmd s
    { s1 with
      hostMem := writeBytes s.hostMem (ringBase (s.qp q).cq + 64 * (s.qp q).cqTail)
        (entryOf (s.qp q) q d (dHandle d) status result) } q (answeredQp (s.qp q) s.time)

/-- The command accepts its descriptor, which stays open; all else is as in `s1`. -/
def Opens (cmd : Instr) (s s1 : State) (q : Nat) : Prop := MakesQp cmd s s1 q (acceptedQp (s.qp q))

end Sys2Proof

/-- R264: the doorbells. -/
def Obligations.DoorbellEffects : Prop :=
  ∀ (s : State) (f q : Nat) (v : BitVec 32), f < Config.nFunctions → q < Config.nQueuePairs →
    let r := s.qp q
    let x := v.toNat % 65536
    let k := (x + r.cqSize - r.cqHead) % r.cqSize
    let stop (cause : Nat) : State :=
      { s.setQp q { r with error := true, errCause := cause } with msix := (f, 0) :: s.msix }
    (r.enabled = false ∨ r.func ≠ f → ∀ cmd ∈ [Instr.sqTail, .cqHead],
      exec (cmd f q v) s = .next (s.setQp q { r with badDoorbells := min (r.badDoorbells + 1) 65535 })) ∧
    (r.enabled = true → r.func = f →
      (x < r.sqSize → exec (.sqTail f q v) s = .next (s.setQp q { r with sqTail := x })) ∧
      (r.sqSize ≤ x → (s.func f).masked.getLsbD 0 = false → (s.func f).writable = true →
        exec (.sqTail f q v) s = .next (stop 1)) ∧
      (x < r.cqSize → k ≤ r.unread → r.held = [] →
        exec (.cqHead f q v) s = .next (s.setQp q { r with cqHead := x, unread := r.unread - k })) ∧
      (r.cqSize ≤ x ∨ r.unread < k → (s.func f).masked.getLsbD 0 = false → (s.func f).writable = true →
        exec (.cqHead f q v) s = .next (stop 2))) ∧
    (∀ (off size : Nat) (w : BitVec 512), off < 0x1000 → size ≠ 4 ∨ (off ≠ 0 ∧ off ≠ 4) →
      exec (.registerWrite f ⟨.bar2, 0x1000 * q + off⟩ size w) s =
        .next (s.setQp q { r with badDoorbells := min (r.badDoorbells + 1) 65535 })) ∧
    exec (.registerWrite f ⟨.bar2, 0x1000 * q⟩ 4 (v.setWidth 512)) s = exec (.sqTail f q v) s ∧
    exec (.registerWrite f ⟨.bar2, 0x1000 * q + 4⟩ 4 (v.setWidth 512)) s = exec (.cqHead f q v) s

/-- R16, R262, R263, R266, R275: the queue-pair record, its barrier and its interrupts. -/
def Obligations.QueuePairEffects : Prop :=
  (∀ (s : State) (q : Nat), q < Config.nQueuePairs →
    let r := s.qp q
    (r.openDescs = [] → exec (.barrierRelease q) s = .next (s.setQp q { r with barrierOk := true })) ∧
    (r.enabled = false → exec (.qpQuiesced q) s = .next (s.setQp q { r with quiesced := true })) ∧
    (∀ f, f < Config.nFunctions → f = 0 ∨ r.func = f →
      let took := { r with sq := r.sqSh, cq := r.cqSh, cfg := r.cfgSh }
      (s.qpBad q = true → exec (.qpCommit f q) s = .next { s with faults := { s.faults with
        inFlight := s.faults.inFlight ++ [⟨0x80200 + f, 0x1F, 1, 0x010038 + 0x40 * q, false⟩] } }) ∧
      (s.qpBad q = false → r.enabled = false → cfgEnable r.cfgSh = true → MakesQp (.qpCommit f q) s s q
        { took with
          quiesced := false, error := false, errCause := 0, sqHead := 0, sqTail := 0, cqTail := 0, cqHead := 0, cqPhase := true
          unread := 0, held := [], pend := 0, openDescs := [], barrierOk := false }) ∧
      (s.qpBad q = false → r.enabled = cfgEnable r.cfgSh → MakesQp (.qpCommit f q) s s q took) ∧
      (s.qpBad q = false → r.enabled = true → cfgEnable r.cfgSh = false → r.held = [] → NothingOwed s →
        DisablesQp (.qpCommit f q) s q { took with quiesced := false, disabledAt := s.time, pend := 0 }))) ∧
  (∀ (s : State) (q : Nat) (r : QpRec), s.qps = [(q, r)] → s.time % 1000 = 0 → cfgIrqEn r.cfg = true → 0 < r.pend →
    0 < cfgAggTime r.cfg → r.t0 + 1000 * cfgAggTime r.cfg ≤ s.time →
    (s.func r.func).masked.getLsbD (cfgVector r.cfg) = false → (s.func r.func).writable = true →
    MakesQp .irqModerationTick s { s with msix := (r.func, cfgVector r.cfg) :: s.msix } q { r with pend := 0 }) ∧
  (∀ (s : State) (f v : Nat), f < Config.nFunctions → v < 64 →
    let r := s.func f
    let open_ := { r with masked := r.masked &&& ~~~BitVec.ofNat 64 (2 ^ v) }
    (r.pendingMsix.getLsbD v = true → r.writable = true → exec (.msixUnmask f v) s = .next
      { s.setFunc f { open_ with pendingMsix := r.pendingMsix &&& ~~~BitVec.ofNat 64 (2 ^ v) } with
        msix := (f, v) :: s.msix }) ∧
    (r.pendingMsix.getLsbD v = false → exec (.msixUnmask f v) s = .next (s.setFunc f open_)))

/-- R282, R283, R399, R430: the resets of functions and ports, and host errors. -/
def Obligations.PcieEffects : Prop :=
  (∀ (s : State) (f q : Nat) (r : QpRec), f < Config.nFunctions → s.qps = [(q, r)] → r.func = f → r.held = [] → NothingOwed s →
    (r.enabled = true → DisablesQp (.flr f) s q { clearedQp r with quiesced := false, disabledAt := s.time, pend := 0 }) ∧
    (r.enabled = false → MakesQp (.flr f) s s q (clearedQp r))) ∧
  (∀ (s : State) (p : Nat), p < 4 → s.qps = [] → s.reqs = [] →
    let mine (f : Nat) : Bool := decide (f / 8 = p)
    MakesFuncs (.pcieLinkDown p) s
      { s with boot := { s.boot with linkUp := s.boot.linkUp &&& ~~~BitVec.ofNat 4 (2 ^ p) } } mine
      (fun f => { s.func f with writable := false }) ∧
    (∀ lanes, s.boot.booted = true →
      (8 ≤ lanes → (∀ f, (s.func f).pendingMsix = 0) → MakesFuncs (.pcieLinkUp ⟨p, lanes⟩) s
        { s with boot := { s.boot with linkUp := s.boot.linkUp ||| BitVec.ofNat 4 (2 ^ p) } } mine
        (fun f => { s.func f with enabled := true, writable := (s.func f).writable || (s.func f).busMaster })) ∧
      (lanes < 8 → ∃ detail, MakesFuncs (.pcieLinkUp ⟨p, lanes⟩) s
        { s with
          free := s.free + 1, boot := { s.boot with linkUp := s.boot.linkUp &&& ~~~BitVec.ofNat 4 (2 ^ p) }
          faults := { s.faults with inFlight := s.faults.inFlight ++ [⟨0x80200 + 8 * p, 0x1C, 2, detail, false⟩] } } mine
        (fun f => { s.func f with enabled := false, writable := false })))) ∧
  (∀ (s : State) (f : Nat), f < Config.nFunctions → s.qps = [] → s.reqs = [] → (s.func f).writable = false →
    let r := s.func f
    MakesFuncs (.writesResume f) s
      { s with msix := (((List.range 64).filter fun v => r.pendingMsix.getLsbD v && !r.masked.getLsbD v).reverse.map
          fun v => (f, v)) ++ s.msix } (fun k => decide (k = f))
      (fun _ => { r with writable := true, pendingMsix := r.pendingMsix &&& r.masked })) ∧
  (∀ (s : State) (q status : Nat), q < Config.nQueuePairs → s.canFetch q = true → status < 2 ^ 29 →
    (s.func (s.qp q).func).masked.getLsbD 0 = false → (s.func (s.qp q).func).writable = true →
    MakesQp (.dmaReadError (.submission q) status) s
      { s with
        msix := ((s.qp q).func, 0) :: s.msix
        faults := { s.faults with inFlight := s.faults.inFlight ++
          [⟨0x80200 + (s.qp q).func, 0x1C, 2, 2 * status, false⟩] } } q { s.qp q with error := true, errCause := 3 })

/-- R268, R271, R272, R283: NOP completes OK; an entry of no known opcode, and one whose block could not be read, INVALID. -/
def Obligations.DescriptorEffects : Prop :=
  ∀ (s : State) (q : Nat) (d : BitVec 1024), Ready s q d →
    (dOpcode d = 0x3F → dZeroBut d [(0, 16)] = true → dHandle d = 0 → Answers (.nop q d) s s q d 0 []) ∧
    (dOpcode d ∉ [0x01, 0x02, 0x03, 0x04, 0x05, 0x10, 0x11, 0x12, 0x13, 0x14, 0x20, 0x21, 0x22, 0x30, 0x3F] →
      Answers (.nop q d) s s q d 7 []) ∧
    (∀ status, dOpcode d = 0x10 ∨ dOpcode d = 0x11 ∨ dOpcode d = 0x30 → status < 2 ^ 29 →
      Answers (.dmaReadError (.block q d) status) s { s with faults := { s.faults with inFlight := s.faults.inFlight ++
          [⟨0x80200 + (s.qp q).func, 0x1C, 2, 2 * status, false⟩] } } q d 7
        (if dOpcode d = 0x10 then [0, 0, 0, 0, 255, 255, 255, 255] else []))

/-! ## Fault messages, the log, the beacon, counters and the ledger -/

namespace Sys2Proof

/-- A message sent, and the onset times of the beacon as `t` has them. -/
def sentMsg (s : State) (source kind sev detail : Nat) : State :=
  { s with faults := { s.faults with inFlight := s.faults.inFlight ++ [⟨source, kind, sev, detail, false⟩] } }

/-- A message of a source on the array has come as its FAULT flit to its collector's core; one of the selvedge is on its way.
`s'` is the state without it. -/
def FaultHere (s : State) (m : FaultMsg) (s' : State) : Prop :=
  (faultRouter m.source = none ∧ s.faults.inFlight = [m] ∧ s' = { s with faults := { s.faults with inFlight := [] } }) ∨
  (∃ c f, faultRouter m.source = some c ∧ s.net = [⟨f, collectorLoc c⟩] ∧ f.type = .fault ∧ f.line = faultLine m ∧
    s' = { s with net := [] })

/-- The message is taken and leaves the fault record as `f`, but for the onset times of the conditions shown. -/
def TakesFault (s s' : State) (m : FaultMsg) (f : FaultRec) : Prop :=
  ∃ t, exec (.fault m) s = .next t ∧ t = { s' with faults := { f with onset := t.faults.onset } }

/-- The beacon's latch after a message (R385). -/
def latchedAfter (f : FaultRec) (m : FaultMsg) (now : Nat) : Option (Nat × Nat × Nat) :=
  if m.severity < 2 then f.latched
  else match f.latched with
    | some (c, sev, t) => if sev ≤ m.severity then some (kindCategory m.kind, m.severity, now) else some (c, sev, t)
    | none => some (kindCategory m.kind, m.severity, now)

/-- The record with one queue changed, and the beacon's latch. -/
def withQueue (s : State) (k : Nat) (m : FaultMsg) (r : CollectorRec) : FaultRec :=
  { s.faults with
    collectors := Tab.put {} s.faults.collectors k r, latched := latchedAfter s.faults m s.time }

end Sys2Proof

/-- R377, R380, R381, R385: a message arrives at its collector's queue; while its FAULT flit has not come it does not. -/
def Obligations.FaultArrivalEffects : Prop :=
  (∀ (s s' : State) (m : FaultMsg) (k : Nat), collectorOf m.source = some k → FaultHere s m s' →
    let r := s.collector k
    let new (slot3 : Bool) : QueueEntry := ⟨slot3, m, s.time, s.time, 1⟩
    r.heldFatal = [] →
    (r.queue.find? (sameKey m) = none → generalUsed r.queue < 240 → m.severity < 3 → TakesFault s s' m
      (withQueue s' k m { r with queue := r.queue ++ [new false], high := max r.high (r.queue.length + 1) })) ∧
    (r.queue.find? (sameKey m) = none → reservedUsed r.queue < 16 → m.severity = 3 → TakesFault s s' m
      (withQueue s' k m { r with queue := r.queue ++ [new true], high := max r.high (r.queue.length + 1) })) ∧
    (∀ e, r.queue = [e] → sameKey m e = true → e.count < 65535 → TakesFault s s' m
      (withQueue s' k m { r with queue := [{ e with
        count := e.count + 1, latest := s.time, msg := { e.msg with severity := max e.msg.severity m.severity } }] })) ∧
    (r.queue.find? (sameKey m) = none → generalUsed r.queue = 240 → m.severity < 3 → r.overflow = false → r.latch = none →
      TakesFault s s' m { withQueue s' k m { r with
          dropped := min (r.dropped + 1) (2 ^ 32 - 1), overflow := true
          latch := some ⟨false, ⟨0x80600 + k, 0x1D, 2, (if k = 48 then 63 else k) + (m.kind <<< 6), false⟩, s.time, s.time, 1⟩ } with
        kindDropped := Tab.put 0 s.faults.kindDropped m.kind (min (Tab.get 0 s.faults.kindDropped m.kind + 1) (2 ^ 32 - 1)) })) ∧
  (∀ (s : State) (m : FaultMsg) (c : Nat), faultRouter m.source = some c → m ∈ s.faults.inFlight →
    (∀ e ∈ s.net, e.loc ≠ collectorLoc c) → exec (.fault m) s = .next s)

/-- R382, R384, R385, R386: the wafer collector's take, forced messages, the acknowledge of the beacon and ALIVE. -/
def Obligations.LogAndBeaconEffects : Prop :=
  (∀ (s : State) (k : Nat) (e : QueueEntry) (r : CollectorRec), k < 48 → s.faults.collectors = [(k, r)] → r.queue = [e] →
    r.heldFatal = [] → r.latch = none → e.msg.severity < 3 → s.faults.irqSev = 4 → s.faults.log.length < 65536 →
    ∃ t, exec .collectorTake s = .next t ∧ t = { s with
      faults := { s.faults with
        collectors := Tab.put {} s.faults.collectors k { r with queue := [], overflow := false }
        turn := (k + 1) % 49
        log := { msg := e.msg, first := e.first, seq := nextSeq s.faults.lastSeq, arrivals := e.count, field := k,
                 latest := e.latest } :: s.faults.log
        lastSeq := nextSeq s.faults.lastSeq
        kindArrivals := Tab.put 0 s.faults.kindArrivals e.msg.kind
          (min (Tab.get 0 s.faults.kindArrivals e.msg.kind + e.count) (2 ^ 32 - 1))
        onset := t.faults.onset }
      ledger := { s.ledger with totals := s.ledger.totals.note e.msg e.count } }) ∧
  (∀ s : State,
    let m := forceMsgOf s.faults.force.toNat
    (s.faults.forceEn = true → 0 < m.kind → m.kind ≤ 0x20 → m.source < Config.nCores → exec (.forceGo 0) s = .next
      { s.setCore m.source { s.core m.source with forceMsg := s.faults.force, forceGo := true } with
        faults := { s.faults with forceGo := true } }) ∧
    (s.faults.forceEn = false → exec (.forceGo 0) s = .next { s with faults := { s.faults with
      forceGo := false, forceErr := true } }) ∧
    (∀ f, 0 < f → f < Config.nFunctions → ∀ cmd ∈ [Instr.forceGo, .beaconAck, .anchorCommit, .anchorLock],
      exec (cmd f) s = .next { s with badAccess := min (s.badAccess + 1) 65535 }) ∧
    (∀ c, c < Config.nCores → (s.core c).forceGo = true → exec (.forceSend c) s = .next
      { s.setCore c { s.core c with forceGo := false } with faults := { s.faults with
        forceGo := false
        inFlight := s.faults.inFlight ++ [{ forceMsgOf (s.core c).forceMsg.toNat with source := c }] } }) ∧
    exec (.beaconAck 0) s = .next { s with faults := { s.faults with latched := none } } ∧
    (s.ready = true → exec .aliveKick s = .next { s with boot := { s.boot with kickAt := s.time } }) ∧
    (s.ready = true → s.boot.kickAt + 3000000 ≤ s.time → s.faults.halted = none → exec .aliveKickLapse s = .next
      { s with
        boot := { s.boot with aliveOn := false }, faults := { s.faults with kickLapsed := true, halted := some 15 } }) ∧
    (s.ready = true → s.boot.aliveOn = true → s.faults.halted = none → s.time % 500000 = 0 → exec .aliveToggle s = .next
      { s with boot := { s.boot with aliveLevel := !s.boot.aliveLevel } }))

/-- R390–R392, R396, R397: port counters, the host's view of the counters, the ledger record and the cycle tracker. -/
def Obligations.CounterAndLedgerEffects : Prop :=
  (∀ (s : State) (k i : Nat), k < Config.nSkeins → i < 8 →
    let r := s.skein k
    let g := Tab.get 0 r.portCfg i
    bitAt g 19 = true → 10 ≤ bits g 14 5 → bits g 14 5 ≤ 30 → s.time % 2 ^ bits g 14 5 = 0 →
    exec (.portCounterWindow k i) s = .next (s.setSkein k { r with
      portWin := Tab.put 0 r.portWin i (Tab.get 0 r.portCnt i), portCnt := Tab.put 0 r.portCnt i 0, portWinAt := s.time })) ∧
  (∀ (s : State) (c : Nat), c < Config.nCores → ∃ t, exec (.ctCoreSel 0 c) s = .next t ∧
    t = { s with ctSel := c + 2 ^ 19, ctVal := t.ctVal } ∧
    ∀ i, i < 4 → Tab.get 0 t.ctVal i = if s.siteHeld c then (perfCtr (s.core c) i).cnt else 0) ∧
  (∀ (s : State) (n : Nat), Config.nCores ≤ n → n < 2 ^ 19 → ∃ t, exec (.ctCoreSel 0 n) s = .next t ∧
    t = { s with ctSel := n + 2 ^ 19, ctVal := t.ctVal, free := s.free + 4 }) ∧
  (∀ (s : State) (b : Nat), b < Config.nBolts →
    let g := s.ctPage b
    let rows := (s.boltCores b).flatMap fun v => leBytes 4 v.1 ++ leBytes 4 v.2.1 ++
      leBytes 8 (perfCtr (s.core v.2.2) 0).cnt ++ leBytes 8 (perfCtr (s.core v.2.2) 1).cnt ++
      leBytes 8 (perfCtr (s.core v.2.2) 2).cnt
    g.snapMode = 0 → 32 * (s.boltCores b).length ≤ g.snapLen →
    exec (.ctSnapGo 0 b) s = .next
      { s.setCtPage b { g with snapDone := true, snapShort := false } with
        hostMem := writeBytes s.hostMem g.snap.toNat rows }) ∧
  (∀ (s : State) (final : Bool), s.ledger.pendingFatal = [] →
    let m := s.ledger
    let t := { m.totals with seq := m.totals.seq + 1 }
    let stored : LedgerSlot := ⟨some ({ t with powerOnS := s.powerOnS }, final)⟩
    (slotSeq m.slotB < slotSeq m.slotA → exec (.ledgerWrite final true) s = .next
      { s with ledger := { m with totals := t, writeFail := false, slotB := stored } }) ∧
    (slotSeq m.slotA ≤ slotSeq m.slotB → exec (.ledgerWrite final true) s = .next
      { s with ledger := { m with totals := t, writeFail := false, slotA := stored } }) ∧
    (slotSeq m.slotA ≤ slotSeq m.slotB → exec (.ledgerWrite final false) s = .next
      { s with ledger := { m with totals := t, writeFail := true, slotA := ⟨none⟩ } })) ∧
  (∀ s : State, s.ready = true →
    let t := s.ledger.totals
    let x := s.meanCode
    let put (t : LedgerRec) : State := { s with ledger := { s.ledger with totals := t } }
    (t.falling = false → t.tcHi < x + 20 → exec .cycleTrack s = .next (put { t with tcHi := max t.tcHi x })) ∧
    (t.falling = false → x + 20 ≤ t.tcHi → exec .cycleTrack s = .next (put { t with falling := true, tcLo := x })) ∧
    (t.falling = true → x < t.tcLo + 20 → exec .cycleTrack s = .next (put { t with tcLo := min t.tcLo x })) ∧
    (t.falling = true → t.tcLo + 20 ≤ x → exec .cycleTrack s = .next (put { t with
      cycles := Tab.put 0 t.cycles (cycleBin (t.tcHi - t.tcLo))
        (min (Tab.get 0 t.cycles (cycleBin (t.tcHi - t.tcLo)) + 1) (2 ^ 32 - 1))
      falling := false, tcHi := x, tcLo := x })))

/-! ## Rules stated whole -/

/-- R50: a special function occupies its unit for 4 cycles: a second one within them makes its bundle illegal, whatever it is,
and one at least 4 cycles after the last issues and is the last then. -/
def Obligations.SpecialFunctionInterval : Prop :=
  ∀ (s : State) (c wa last : Nat), CanIssue s c wa 0 → (s.core c).dp.lastSf = some last → last ≤ (s.core c).dp.pt →
    ∀ p ∈ [(Instr.vexp2, 0x18), (.vlog2, 0x19), (.vrcp, 0x1A), (.vrsq, 0x1B)], WordA p.2 wa →
      ((s.core c).dp.pt < last + 4 → ∃ t detail, exec (p.1 c) s = .next t ∧
        t = { s.setCore c (t.core c) with faults := { s.faults with
          inFlight := s.faults.inFlight ++ [⟨c, 0x09, 2, detail, false⟩] } } ∧
        t.core c = { s.core c with st := .frozen, freezeCause := 2, balance := (t.core c).balance, stallRun := 0 }) ∧
      (last + 4 ≤ (s.core c).dp.pt → ∃ t, exec (p.1 c) s = .next t ∧ OnlyCore c s t ∧ Cycled (s.core c) (t.core c) ∧
        GoesOn (s.core c) (t.core c) ∧ (t.core c).dp.lastSf = some (s.core c).dp.pt)

/-- R172: the harness sources, and what a CTRL flit or an access to store select 100 from any other source comes to: the flit
is dropped and ADDRESS_RANGE reported, a request that has an answer is answered with reason 2, and nothing is read or
written. -/
def Obligations.OnlyHarnessControls : Prop :=
  (∀ f : Flit, f.fromHarness = true ↔ ∃ side, side < 4 ∧ f.srcY = 960 + 16 * side ∧ f.srcX ≤ 3) ∧
  (∀ (s : State) (f : Flit) (rest : List NetFlit), AtCore s f rest → f.fromHarness = false →
    let told (t : State) : Prop := ∃ detail,
      t.faults = { s.faults with inFlight := s.faults.inFlight ++ [⟨coreAt f, 0x05, 2, detail, false⟩] }
    (f.type = .ctrl → ∃ t, exec (.ctrl f) s = .next t ∧ t = { s with net := rest, faults := t.faults } ∧ told t) ∧
    (gaSs f.dst = 4 → (s.core (coreAt f)).st ≠ .scrubbing → (s.core (coreAt f)).discard = false →
      let answered (ty : FlitType) : List NetFlit :=
        [⟨answer ty f (if ty = .nack then 1 + 64 else 64) 0, .router (coreX (coreAt f)) (coreY (coreAt f)) 0⟩]
      (f.type = .write → f.credited = false → ∃ t, exec (.write f) s = .next t ∧
        t = { s.setCore (coreAt f) (s.core (coreAt f)) with net := rest ++ answered .nack, faults := t.faults } ∧ told t) ∧
      (f.type = .writeWord → f.credited = false → ∃ t, exec (.writeWord f) s = .next t ∧
        t = { s.setCore (coreAt f) (s.core (coreAt f)) with net := rest ++ answered .nack, faults := t.faults } ∧ told t) ∧
      (f.type = .read → f.arg % 16 = 0 → ∃ t, exec (.read f) s = .next t ∧
        t = { s.setCore (coreAt f) (s.core (coreAt f)) with net := rest ++ answered .readData, faults := t.faults } ∧ told t)))

/-! ## Power and cooling -/

namespace Sys2Proof

/-- The lane of field `f` is up with nothing waiting, and `cmd` is its outstanding command. -/
structure LaneUp (s : State) (f : Nat) (cmd : Option (Word × Nat × Nat)) : Prop where
  field : f < Config.nFields
  up : (s.field f).laneState = 1
  outstanding : (s.field f).cmd = cmd
  nothingWaits : (s.field f).cmdQueue = []

/-- The command leaves all as in `s1` but lane `f` as `r` (and the onset times of conditions). -/
def MakesField (cmd : Instr) (s s1 : State) (f : Nat) (r : FieldRec) : Prop :=
  ∃ t, exec cmd s = .next t ∧ t.field f = r ∧ (∀ g, g ≠ f → t.field g = s.field g) ∧
    t = { s1 with fields := t.fields, faults := { s1.faults with onset := t.faults.onset } }

/-- As `MakesField`, with skein `k` as `x` besides. -/
def MakesLane (cmd : Instr) (s s1 : State) (f : Nat) (r : FieldRec) (k : Nat) (x : SkeinRec) : Prop :=
  ∃ t, exec cmd s = .next t ∧ t.field f = r ∧ (∀ g, g ≠ f → t.field g = s.field g) ∧
    t.skein k = x ∧ (∀ j, j ≠ k → t.skein j = s.skein j) ∧
    t = { s1 with fields := t.fields, skeins := t.skeins, faults := { s1.faults with onset := t.faults.onset } }

/-- The command leaves all as in `s1` but each skein `j` as `x j`. -/
def MakesSkeins (cmd : Instr) (s s1 : State) (x : Nat → SkeinRec) : Prop :=
  ∃ t, exec cmd s = .next t ∧ (∀ j, j < Config.nSkeins → t.skein j = x j) ∧
    t = { s1 with skeins := t.skeins, faults := { s1.faults with onset := t.faults.onset } }

/-- The lane is lost (R345): its outstanding command goes back to the queue without its number, every skein of the field is
held to half. -/
def LosesLane (cmd : Instr) (s : State) (f : Nat) : Prop :=
  ∃ t, exec cmd s = .next t ∧
    t.field f = { s.field f with
      laneState := 2, recovering := [], cmd := none
      cmdQueue := (match (s.field f).cmd with
        | some c => [BitVec.ofNat 64 (setBits c.1.toNat 4 4 0)]
        | none => []) ++ (s.field f).cmdQueue } ∧
    (∀ g, g ≠ f → t.field g = s.field g) ∧
    (∀ k, t.skein k = if fieldOfSkein k = f then { s.skein k with kappaP := min (s.skein k).kappaP 128 } else s.skein k) ∧
    t = { s with
      fields := t.fields, skeins := t.skeins
      faults := { s.faults with
        inFlight := s.faults.inFlight ++ [⟨0x80500 + f, 0x1E, 2, 1 + (f <<< 2), false⟩], onset := t.faults.onset } }

/-- The skein's domain is short (R354): it is dead, with its cores, and reported; no host memory changes. -/
def Shorts (cmd : Instr) (s : State) (k : Nat) (reason : Nat → Prop) : Prop :=
  ∃ t n m, exec cmd s = .next t ∧ (t.skein k).dead = true ∧ (t.skein k).state = 5 ∧ pdEnable (t.skein k).ctrl = false ∧
    (∀ c ∈ skeinCores k, (t.core c).st = .dead) ∧ (∀ c ∈ skeinCores k, (t.router c).lost = true) ∧ reason n ∧
    t.faults.inFlight = s.faults.inFlight ++ ⟨0x80500 + fieldOfSkein k, 0x14, 2, k + (n <<< 13), false⟩ :: m ∧
    t.hostMem = s.hostMem ∧ t.xram = s.xram ∧ t.ledger = s.ledger

/-- The header switches of a skein as they open: PD_CTRL.logic 0, and the time noted (R350). -/
def opened (r : SkeinRec) (now : Nat) : SkeinRec :=
  { r.setCtrl (setBits (wordVal r.ctrl) 12 1 0) with state := 2, turnOffAt := some now }

end Sys2Proof

/-- R342–R345, R352, R354, R356: frames from the trays, alerts and lost lanes. -/
def Obligations.TreadleEffects : Prop :=
  (∀ (s : State) (f : Nat) (w : BitVec 72), f < Config.nFields → frameGood w = false →
    ∀ cmd ∈ [Instr.telem, .treadleAck, .treadleNak, .treadleFault, .treadleStatus],
      exec (cmd f w) s = .next (s.setField f { s.field f with crcErrors := min ((s.field f).crcErrors + 1) 65535 })) ∧
  (∀ (s : State) (f : Nat) (w : BitVec 72) (c : Option (Word × Nat × Nat)), LaneUp s f c → frameGood w = true →
    let heard := { s.field f with upAt := s.time }
    let d := upDomain w
    let i := upCurrent w
    let k := skeinOfDomain f d
    let x := s.skein k
    (upOp w = 1 → d < 96 → (∀ e ∈ s.skeins, e.2.turnOnReq = none) → x.dead = false → x.state = 3 ∨ x.state = 4 →
      bitAt (upStatus w) 0 = true → s.power.pfSeen = false →
      let took (kappa : Nat) : SkeinRec := { x with
        current := min i 4095, voltage := min (upVoltage w) 4095, status := upStatus w, telemAt := s.time, stale := false
        kappaP := min kappa 256, sag := none }
      (i < 1100 → MakesLane (.telem f w) s s f heard k (took (x.kappaP + 8))) ∧
      (1100 ≤ i → i ≤ 1200 → MakesLane (.telem f w) s s f heard k (took x.kappaP)) ∧
      (1200 < i → x.overAt = 0 → MakesLane (.telem f w) s
        { s with
          power := { s.power with overcurrent := min (s.power.overcurrent + 1) 65535 }
          faults := { s.faults with inFlight := s.faults.inFlight ++ [⟨0x80500 + f, 0x13, 1, k + (i <<< 13), false⟩] } }
        f heard k { took (max 64 (x.kappaP - 32)) with overAt := s.time + 1 })) ∧
    (upOp w = 1 → d = 96 → i ≤ 10000 → 600 ≤ upVoltage w → MakesField (.telem f w) s s f
      { heard with vaCurrent := i, vaVoltage := upVoltage w, vaStatus := upStatus w }) ∧
    (upOp w = 1 → f = 0 → 97 ≤ d → d ≤ 102 → MakesField (.telem f w) s
      { s with power := { s.power with aux := Tab.put (0, 0) s.power.aux d (i, upVoltage w) } } f heard) ∧
    (∀ word n t0, c = some (word, n, t0) → bits word.toNat 4 4 = upSeq w →
      (upOp w = 2 → trdOp word = 2 → trdDomain word < 96 →
        let j := skeinOfDomain f (trdDomain word)
        (s.skein j).state = 0 → (s.skein j).dead = false →
        MakesLane (.treadleAck f w) s s f { heard with cmd := none } j { s.skein j with state := 1 }) ∧
      (upOp w = 2 → trdOp word = 8 → MakesField (.treadleAck f w) s s f { heard with cmd := none, alert := false }) ∧
      (upOp w = 3 → MakesField (.treadleNak f w) s s f
        { heard with cmd := none, naks := min ((s.field f).naks + 1) 255 }) ∧
      (upOp w = 5 → trdOp word = 5 → d = 96 → (s.field f).recovering = [] → MakesField (.treadleStatus f w) s s f
        { heard with cmd := none, vaCurrent := i, vaVoltage := upVoltage w, vaStatus := upStatus w })) ∧
    (upOp w = 4 → f = 0 → 97 ≤ d → d ≤ 102 → MakesField (.treadleFault f w) s
      { s with faults := { s.faults with
          inFlight := s.faults.inFlight ++ [⟨0x80500, 0x14, 3, 4656 + (d - 97) + (upReason w <<< 13), false⟩] } } f heard) ∧
    (upOp w = 4 → d < 96 → x.dead = false → s.bolts = [] → Shorts (.treadleFault f w) s k fun n => n = upReason w)) ∧
  (∀ (s : State) (f d : Nat), f < Config.nFields →
    let r := s.field f
    exec (.trdAlert f) s = .next (s.setField f { r with alert := true }) ∧
    (d < 96 → (s.skein (skeinOfDomain f d)).telemAt + 300000 ≤ s.time → exec (.telemStale f d) s = .next
      (s.setSkein (skeinOfDomain f d) { s.skein (skeinOfDomain f d) with stale := true })) ∧
    (96 ≤ d → exec (.telemStale f d) s = .next s) ∧
    (r.laneState = 1 → r.upAt + 1000000 ≤ s.time → LosesLane (.treadleLaneLoss f) s f) ∧
    (∀ word n t0, r.cmd = some (word, n, t0) → t0 + 20000 ≤ s.time →
      (n < 4 → exec (.treadleRetryTimeout f) s = .next (s.setField f { r with
        cmd := some (word, n + 1, s.time), sent := r.sent ++ [word] })) ∧
      (4 ≤ n → LosesLane (.treadleRetryTimeout f) s f)))

/-- R348–R351: header switches, neighbours, droop and the undervoltage gate. -/
def Obligations.SkeinSwitchEffects : Prop :=
  ∀ (s : State) (k : Nat), k < Config.nSkeins →
    let x := s.skein k
    (s.turnOnReady k = true →
      ((∀ j ∈ neighbours k, (s.skein j).current ≤ 1020) → exec (.skeinTurnOnStart k) s = .next
        { s.setSkein k { x.setCtrl (setBits (wordVal x.ctrl) 12 1 1) with
            state := 3, turnOnAt := some s.time, turnOnReq := none, heldSince := none } with
          power := { s.power with turnOns := min (s.power.turnOns + 1) 65535 } }) ∧
      (∀ t0, x.heldSince = some t0 → t0 + 1000000 ≤ s.time → x.capsAt = none →
        let hot (j : Nat) : Bool := decide (j ∈ neighbours k) && decide (1020 < (s.skein j).current)
        (∃ j, hot j = true) → MakesSkeins (.neighbourCap k) s
          { s with power := { s.power with
            neighbourCaps := min (s.power.neighbourCaps + ((neighbours k).filter hot).length) 65535 } }
          fun j =>
            let a := (s.skein j).allowance.toNat
            if j = k then { x with capsAt := some s.time }
            else if hot j then { s.skein j with
              caps := (s.skein j).caps ++ [(k, if a = 0 then 256 else min 256 (320 * 256 / a))] }
            else s.skein j)) ∧
    (x.state = 3 → x.heldCtrl = none → s.bolts = [] → ∃ t, exec (.skeinTurnOnDone k) s = .next t ∧
      t.skein k = { x with
        state := 4, turnOnReq := none, turnOnAt := none, capsAt := none, heldSince := none, waited := false } ∧
      (∀ j, j ≠ k → t.skein j =
        if j ∈ neighbours k then { s.skein j with caps := (s.skein j).caps.filter fun c => c.1 ≠ k } else s.skein j) ∧
      (∀ c, t.core c = if c ∈ skeinCores k ∧ (s.core c).st = .off then
        { s.core c with st := .idle, missed := 0, beatSeen := false } else s.core c) ∧
      t = { s with skeins := t.skeins, cores := t.cores }) ∧
    (x.state = 4 → (s.field (fieldOfSkein k)).laneState ≠ 2 → s.thermal.warmEnable = false →
      (∀ c ∈ skeinCores k, (s.core c).st ∈ [.idle, .fenced, .dead]) → ∃ t, exec (.skeinTurnOff k) s = .next t ∧
      (∀ c, t.core c = if c ∈ skeinCores k ∧ (s.core c).st = .idle then { s.core c with st := .off } else s.core c) ∧
      t = { s.setSkein k (opened x s.time) with cores := t.cores }) ∧
    (∀ mv, mv < 1024 →
      let low := { (if x.vmin = 0 ∨ mv < x.vmin then { x with vmin := mv, vminTime := s.time } else x) with sag := some mv }
      let depth := pdCode x.ctrl * 5 / 2 - mv
      let dropped (sev bit : Nat) : State := { s with
        faults := { s.faults with
          inFlight := s.faults.inFlight ++ [⟨0x48000 + k, 0x12, sev, k + (depth <<< 13) + (bit <<< 23), false⟩] }
        ledger := { s.ledger with totals :=
          if s.ledger.totals.deepestMv < depth then { s.ledger.totals with deepestMv := depth, deepestSkein := k }
          else s.ledger.totals } }
      (5 * pdCode x.ctrl ≤ 2 * (mv + s.power.droopMv) → exec (.droop k mv) s = .next (s.setSkein k low)) ∧
      (2 * (mv + s.power.droopMv) < 5 * pdCode x.ctrl → 0 < s.power.droopMv → x.droopAt = 0 → depth < 1024 →
        ∃ t, exec (.droop k mv) s = .next t ∧ t.skein k = { low with droopAt := s.time + 1, droop := true } ∧
          (∀ j, j ≠ k → t.skein j = s.skein j) ∧ t = { dropped 1 0 with skeins := t.skeins }) ∧
      (mv < 530 → x.gate = none → x.dead = false → depth < 1024 → ∃ t, exec (.undervoltageGate k mv) s = .next t ∧
        t.skein k = { low with gate := some s.time, droop := true } ∧ (∀ j, j ≠ k → t.skein j = s.skein j) ∧
        t = { dropped 2 1 with skeins := t.skeins })) ∧
    exec (.undervoltageRelease k) s = .next (s.setSkein k { x with gate := none, sag := none }) ∧
    (∀ t0, x.gate = some t0 →
      (s.time < t0 + 1000000 → exec (.undervoltageTimeout k) s = .next s) ∧
      (t0 + 1000000 ≤ s.time → x.dead = false → s.bolts = [] → Shorts (.undervoltageTimeout k) s k fun n => n < 8))

/-- R347, R353, R357: the input sum and its clamp, PW_COMMIT, and power-fail. -/
def Obligations.PowerEffects : Prop :=
  (∀ s : State,
    let vcore := (s.skeins.map fun e => e.2.current * e.2.voltage).sum
    let varr := (s.fields.map fun e => e.2.vaCurrent * e.2.vaVoltage).sum
    let aux := (s.power.aux.map fun e => 10 * e.2.1 * e.2.2).sum
    let total := vcore + varr + aux
    let limit := Config.inputLimit s.configCode
    let p := { s.power with
      totalW := min (total / 100000) (2 ^ 20 - 1), vcoreW := min (vcore / 100000) (2 ^ 20 - 1)
      varrW := min (varr / 100000) 4095, otherW := min (aux / 100000) 4095 }
    (total ≤ 100000 * limit → exec .inputPowerSum s = .next { s with power := { p with
      overSums := 0, inputClamp := s.power.inputClamp && decide (95000 * limit ≤ total) } }) ∧
    (100000 * limit < total → s.power.inputClamp = false → s.power.overSums < 9 → exec .inputPowerSum s = .next
      { s with power := { p with overSums := s.power.overSums + 1 } }) ∧
    (100000 * limit < total → s.power.inputClamp = false → s.power.overSums = 9 →
      ∃ t, exec .inputPowerSum s = .next t ∧
        (∀ k, k < Config.nSkeins → t.skein k = { s.skein k with kappaP := (s.skein k).kappaP * 100000 * limit / total }) ∧
        t = { s with
          skeins := t.skeins, power := { p with overSums := 10, inputClamp := true }
          faults := { s.faults with inFlight := s.faults.inFlight ++ [⟨0x80702, 0x06, 1, 2 ^ 35, false⟩] } })) ∧
  (∀ (s : State) (k h : Nat) (x : SkeinRec), h < Config.nHarness → k < Config.nSkeins → s.skeins = [(k, x)] →
    let v := wordVal x.ctrlSh
    let f := fieldOfSkein k
    let q := s.field f
    (wordBad x.ctrlSh = true → exec (.pwCommit (.harness h)) s = .next { s with faults := { s.faults with
      inFlight := s.faults.inFlight ++ [⟨0x80300 + h, 0x1F, 1, 0x040030, false⟩] } }) ∧
    (wordBad x.ctrlSh = false → x.turnOnAt = none → x.dead = false → x.turnOnReq = none → pdEnable x.ctrlSh = true →
      pdEnable x.ctrl = true → pdSlew x.ctrlSh = pdSlew x.ctrl → 220 ≤ pdCode x.ctrlSh → pdCode x.ctrlSh ≤ 352 →
      (pdCode x.ctrlSh = pdCode x.ctrl → pdLogic x.ctrl = false → pdLogic x.ctrlSh = true →
        exec (.pwCommit (.harness h)) s = .next (s.setSkein k
          { x.setCtrl v with heldCtrl := none, turnOnReq := some s.time })) ∧
      (pdCode x.ctrlSh ≠ pdCode x.ctrl → pdLogic x.ctrl = pdLogic x.ctrlSh → q.cmd = none → q.cmdQueue = [] →
        q.laneState = 1 →
        let word := BitVec.ofNat 64 (1 + ((q.cmdSeq % 16) <<< 4) + (domainOf k <<< 8) + (pdCode x.ctrlSh <<< 16) +
          ((511 - pdCode x.ctrlSh) <<< 32))
        ∃ t, exec (.pwCommit (.harness h)) s = .next t ∧
          t.field f = { q with cmd := some (word, 1, s.time), cmdSeq := (q.cmdSeq + 1) % 16, sent := q.sent ++ [word] } ∧
          (∀ g, g ≠ f → t.field g = s.field g) ∧
          t = { s.setSkein k { x.setCtrl v with heldCtrl := none } with fields := t.fields }))) ∧
  (∀ (s : State) (g : Nat), 0 < g → g < Config.nFunctions →
    exec (.pwCommit (.host g)) s = .next { s with badAccess := min (s.badAccess + 1) 65535 }) ∧
  (∀ s : State, s.power.pfSeen = false → s.ready = true → s.faults.halted = none → s.ledger.pendingFatal = [] →
    let m := s.ledger
    let tot := { m.totals with powerFails := min (m.totals.powerFails + 1) (2 ^ 32 - 1), seq := m.totals.seq + 1 }
    let stored : LedgerSlot := ⟨some ({ tot with powerOnS := s.powerOnS }, true)⟩
    let onA := decide (slotSeq m.slotA ≤ slotSeq m.slotB)
    ∃ t, exec .powerFail s = .next t ∧
      (∀ k, k < Config.nSkeins → t.skein k = { s.skein k with kappaP := 0, turnOnReq := none }) ∧
      t = { s with
        skeins := t.skeins, power := { s.power with pfSeen := true }, boot := { s.boot with aliveOn := false }
        ledger := { m with
          totals := tot, writeFail := false, slotA := if onA then stored else m.slotA, slotB := if onA then m.slotB else stored }
        faults := { s.faults with
          halted := some 4, inFlight := s.faults.inFlight ++ [⟨0x80702, 0x1E, 3, 0, false⟩] } })

/-- R361, R363–R366, R369–R375: sensors, the tray's hub, the cooling clamp, the coolant stop, the trip and warm-keep. -/
def Obligations.CoolingEffects : Prop :=
  (∀ (s : State) (k a b : Nat), k < Config.nSkeins → 176 ≤ a → a ≤ 776 → 176 ≤ b → b ≤ 776 → a ≤ b + 24 → b ≤ a + 24 →
    let x := s.skein k
    let used := max a b
    let f := fieldOfSkein k
    let m := s.ledger.totals
    x.dead = false → x.mode = 0 → x.warnEp = false → x.critEp = false → s.thermal.stopAt = none → s.thermal.stopStep = 0 →
    used < 636 → ∃ t, exec (.skeinSensorSample k a b) s = .next t ∧
      t.skein k = { x with
        tempA := a, tempB := b, samples := ((a, b) :: x.samples).take 3, agreeRun := x.agreeRun + 1, used := used
        kappaS := if used < 644 then min 256 (x.kappaS + 8) else x.kappaS } ∧
      (∀ j, j ≠ k → t.skein j = s.skein j) ∧
      (∀ c, t.core c = if c ∈ skeinCores k then { s.core c with heavy100 := 0 } else s.core c) ∧
      t = { s with
        skeins := t.skeins, cores := t.cores, faults := { s.faults with onset := t.faults.onset }
        ledger := { s.ledger with totals := { m with
          tMax := max m.tMax used, tMaxSkein := if m.tMax < used then k else m.tMaxSkein
          fieldMax := Tab.put 0 m.fieldMax f (max used (Tab.get 0 m.fieldMax f)) } } }) ∧
  (∀ (s : State) (w : BitVec 128),
    let r := s.thermal
    let v := w.toNat
    let inlet := sext 16 (bits v 0 16)
    let flow := bits v 32 16
    r.config = 0 → r.hubLost = false → r.stopAt = none → r.stopStep = 0 →
    (r.flowHist = [] → crc8 (leBytes 15 v) = bits v 120 8 → bits v 112 8 = 7 → exec (.hubRead true w) s = .next { s with
      thermal := { r with
        valid := 7, inlet := inlet, outlet := sext 16 (bits v 16 16), flow := flow
        failedReads := 0, goodReads := r.goodReads + 1, hubOk := true, flowHist := [flow]
        okRun := if 30 * r.flowNom ≤ 4 * flow then r.okRun + 1 else 0 }
      ledger := { s.ledger with totals := { s.ledger.totals with inletMax := max s.ledger.totals.inletMax inlet } } }) ∧
    (r.failedReads ≠ 9 → exec (.hubRead false w) s = .next { s with
      thermal := { r with valid := 0, failedReads := r.failedReads + 1, goodReads := 0 } })) ∧
  (∀ s : State,
    let r := s.thermal
    let target := min 256 (256 * (66 * (r.flow : Int) * (5800 - r.inlet)) / ((10000 * 32000 : Nat) : Int)).toNat
    let next := if target < r.kappaC then target else min target (r.kappaC + 8)
    r.stopAt = none → r.config = 0 → r.configInv = 3 → r.configBad = false → r.hubLost = false → bitAt r.valid 1 = false →
    (target = 256 → ∃ t, exec .coolingClamp s = .next t ∧ t = { s with
      thermal := { r with kappaC := next, lowEp := r.lowEp && decide (next < 256) }
      faults := { s.faults with onset := t.faults.onset } }) ∧
    (target < 256 → r.lowEp = true → ∃ t, exec .coolingClamp s = .next t ∧ t = { s with
      thermal := { r with kappaC := next, lowEp := decide (next < 256) }
      faults := { s.faults with onset := t.faults.onset } })) ∧
  (∀ (s : State) (t0 : Nat), s.thermal.stopStep = 1 → s.thermal.stopAt = some t0 → t0 + 2000000000 ≤ s.time → s.bolts = [] →
    (s.skeins = [] → exec .coolantStopStep2 s = .next { s with
      thermal := { s.thermal with stopStep := 2, warmOn := false, heatSkeins := [] }
      faults := { s.faults with
        inFlight := s.faults.inFlight ++ [⟨0x80701, 0x19, 2, 2 + (s.flowField s.flowNow <<< 2), false⟩] } }) ∧
    (∀ k x, k < Config.nSkeins → s.skeins = [(k, x)] → x.state = 4 → (s.field (fieldOfSkein k)).laneState ≠ 2 →
      ∃ t, exec .coolantStopStep2 s = .next t ∧ (t.skein k).state = 2 ∧ (t.skein k).turnOffAt = some s.time ∧
        t.thermal = { s.thermal with stopStep := 2, warmOn := false, heatSkeins := [] } ∧
        ∀ c ∈ skeinCores k, (t.core c).st ∈ [.off, .fenced, .dead])) ∧
  (∀ s : State,
    (s.thermal.config ≤ 3 → s.thermal.configInv = 3 - s.thermal.config → ∃ t, exec .configCheck s = .next t ∧
      t = { s with faults := { s.faults with onset := t.faults.onset } }) ∧
    (s.thermal.configInv ≠ 3 - s.thermal.config → s.thermal.configBad = false → s.thermal.kappaC ≤ 256 →
      (∀ b, b < Config.nBolts → (s.bolt b).share ≤ 102400) → ∃ t, exec .configCheck s = .next t ∧ t = { s with
        thermal := { s.thermal with configBad := true }
        faults := { s.faults with
          onset := t.faults.onset, inFlight := s.faults.inFlight ++ [⟨0x80703, 0x03, 2, 6 <<< 28, false⟩] } })) ∧
  (∀ (s : State) (k : Nat), k < Config.nSkeins → s.thermal.trip = false → (s.skein k).dead = false → s.ready = true →
    s.faults.halted = none → s.ledger.pendingFatal = [] → ∃ t, exec (.thermalTrip k) s = .next t ∧
      (∀ c, c < Config.nCores → (t.core c).st ∈ [.off, .fenced, .dead]) ∧
      (∀ j, j < Config.nSkeins → (t.skein j).state ≠ 3 ∧ (t.skein j).state ≠ 4) ∧
      t.ledger.totals.trips = min (s.ledger.totals.trips + 1) 65535 ∧
      t = { s with
        cores := t.cores, skeins := t.skeins, ledger := t.ledger, thermal := { s.thermal with trip := true }
        boot := { s.boot with thermTrip := true, aliveOn := false }
        faults := { s.faults with
          halted := some 5
          inFlight := s.faults.inFlight ++ [⟨0x48000 + k, 0x16, 3, (k + ((s.skein k).used <<< 13)) % 2 ^ 36, false⟩] } }) ∧
  (∀ s : State, s.bolts = [] → s.thermal.heatSkeins = [] → s.thermal.fall = none → s.power.totalW = s.thermal.prevTotal →
    (s.ready = false → exec .warmKeepEval s = .next { s with
      thermal := { s.thermal with prevAt := s.time, warmOn := false } }) ∧
    (∀ k x, s.ready = true → s.thermal.warmEnable = true → s.thermal.lowEp = false → s.thermal.stopAt = none →
      s.thermal.stopStep = 0 → s.power.inputClamp = false → s.power.totalW < s.thermal.floorW → k < Config.nSkeins →
      s.skeins = [(k, x)] → x.state = 4 → x.dead = false → x.kappaS = 256 → x.hotStretch = 0 → s.skeinLost k = false →
      exec .warmKeepEval s = .next { s.setSkein k { x with
          allowance := 512, allowanceInv := 511, burst := 0, burstInv := 1023, allowCopy := 512, burstCopy := 0
          mismatchReported := false } with
        thermal := { s.thermal with prevAt := s.time, warmOn := true, heatSkeins := [k] } }))

/-! ## Reset, boot, the management and test ports, the mailbox and the registers -/

namespace Sys2Proof

/-- As in `s1` but for the onset times of conditions. -/
def MakesTo (cmd : Instr) (s s1 : State) : Prop :=
  ∃ t, exec cmd s = .next t ∧ t = { s1 with faults := { s1.faults with onset := t.faults.onset } }

/-- The boot record with one part changed. -/
def withBoot (s : State) (b : BootRec) : State := { s with boot := b }

/-- A boot that has failed at stage 7, its beacon shown (Table 17.12). -/
def bootFailed (s : State) (fail cat : Nat) : State :=
  { s with
    boot := { s.boot with stage := 7, step := 0, fail := fail, shed := .f, aliveOn := false }
    faults := { s.faults with halted := some cat } }

/-- A sequence word: the number with its complement above it (Table 10.10). -/
def mailSeq (n : Nat) : Nat := n % 2 ^ 32 + ((2 ^ 32 - 1 - n % 2 ^ 32) <<< 32)

/-- The exchange RAM after a command of host software: payload at 0x40, command word at 8, sequence at 0 (R280). -/
def asked (m : List Host.Cell) (seq code : Nat) (payload : List Byte) : List Host.Cell :=
  writeLE (writeLE (writeBytes m 0x40 payload) 0x08 8 (code + (payload.length <<< 16))) 0x00 8 (mailSeq seq)

/-- The exchange RAM after the harness's response. -/
def replied (m : List Host.Cell) (seq status : Nat) (payload : List Byte) : List Host.Cell :=
  writeLE (writeLE (writeBytes m 0x10040 payload) 0x10008 8 (status + (payload.length <<< 16))) 0x10000 8 (mailSeq seq)

/-- The command is answered with this status and payload; all else is as in `s1`. -/
def Mailed (cmd : Instr) (s s1 : State) (seq code : Nat) (payload : List Byte) (status : Nat) (response : List Byte) : Prop :=
  exec cmd s = .next { s1 with xram := replied (asked s.xram seq code payload) seq status response }

/-- A piece of the image buffer written. -/
def stagedAt (b : BootRec) (off : Nat) (bs : List Byte) : BootRec := { b with staged := writeBytes b.staged off bs }

/-- The boot ROM waits for an image from host software (R410). -/
def RomWaits (s : State) : Prop := s.boot.bootSrc = true ∧ s.boot.step = 2 ∧ s.ready = false

/-- Findings of a boot step in which nothing failed. -/
def noFindings : BootFindings :=
  { romOk := true, headerOk := true, badSites := [], deadCores := [], deadSkeins := [], lostFields := [], creelFailed := [],
    pcieFailed := [], hubAbsent := false, slots := [] }

/-- A skein after boot step 3: code 288, enabled, slew 2, its switches closed. -/
def poweredUp (r : SkeinRec) : SkeinRec :=
  { r with ctrl := withInv 0x1B20, ctrlSh := withInv 0x1B20, ctrlCopy := withInv 0x1B20, state := 4 }

end Sys2Proof

/-- R402, R403, R405, R407, R411, R413: RESET, the straps, the steps of boot and the clock. -/
def Obligations.BootEffects : Prop :=
  (∀ s : State, s.boot.writing = none → exec .reset s = .next { State.reset with
    pending := s.pending, free := s.free, hostMem := s.hostMem, msix := s.msix
    ledger := { State.reset.ledger with
      slotA := s.ledger.slotA, slotB := s.ledger.slotB, badCores := s.ledger.badCores, anchors := s.ledger.anchors }
    boot := { State.reset.boot with
      flash0 := s.boot.flash0, flash1 := s.boot.flash1, jtag := s.boot.jtag, tdr := s.boot.tdr, boundary := s.boot.boundary } }) ∧
  (∀ (s : State) (straps : Nat), s.boot.booted = false → s.boot.sysclkLost = false →
    let started : State := { s with
      boot := { s.boot with
        booted := true, strapConfig := straps % 4, bootSrc := bitAt straps 2, mgmtAddr := bitAt straps 3, t1 := s.time
        stage := 1, step := 1, shed := if bitAt straps 2 then .quiet else .b }
      thermal := { s.thermal with config := straps % 4, configInv := 3 - straps % 4 } }
    (straps % 4 ≠ 2 → exec (.boot straps) s = .next started) ∧
    (straps % 4 = 2 → s.faults.halted = none → exec (.boot straps) s = .next (bootFailed started 1 6))) ∧
  (∀ (s : State) (r : BootFindings), s.boot.step = 1 → r.badSites = [] →
    let firstBoot : LedgerMem := { s.ledger with badCores := [], totals := { boots := 1 }, noRecord := true }
    (r.romOk = false → r.deadCores = [] → r.deadSkeins = [] → r.lostFields = [] → r.creelFailed = [] → r.pcieFailed = [] →
      MakesTo (.bootStepDone r) s (withBoot s { s.boot with stage := 7, step := 0, fail := 4, shed := .quiet })) ∧
    (r = noFindings → s.ledger.slotA = ⟨none⟩ → s.ledger.slotB = ⟨none⟩ → MakesTo (.bootStepDone r) s
      { withBoot s { s.boot with stage := 2, step := 2 } with
        ledger := firstBoot, security := { s.security with anchor := s.ledger.anchors, anchorSh := s.ledger.anchors } }) ∧
    (∀ t0 final, r = noFindings → s.ledger.slotA = ⟨some (t0, final)⟩ → s.ledger.slotB = ⟨none⟩ → t0.boots < 2 ^ 32 - 1 →
      t0.unrecordedEnds < 2 ^ 32 - 1 → MakesTo (.bootStepDone r) s
      { withBoot s { s.boot with stage := 2, step := 2 } with
        ledger := { s.ledger with
          badCores := []
          totals := { t0 with boots := t0.boots + 1, unrecordedEnds := t0.unrecordedEnds + if final then 0 else 1 } }
        security := { s.security with anchor := s.ledger.anchors, anchorSh := s.ledger.anchors } })) ∧
  (∀ s : State, s.boot.bootSrc = false → s.boot.step = 2 → s.faults.halted = none →
    MakesTo (.bootStepDone noFindings) s (bootFailed (withBoot s { s.boot with flash0 := none, flash1 := none }) 2 7) ∧
    ∀ seq img, MakesTo (.bootStepDone { noFindings with slots := [(true, seq, img)] }) s
      (let b := { s.boot with flash0 := some (seq, img), flash1 := none }
       if fwOk img then withBoot s { b with
         stage := 4, step := 3, svn := leAt img 0x0C 2, fwVersion := leAt img 8 4, shed := .quiet, slot := 0, fallback := false }
       else bootFailed (withBoot s b) 2 7)) ∧
  (∀ s : State, s.boot.step = 3 → (∀ k, k < Config.nSkeins → s.skeinLost k = false) → s.power.turnOns = 0 →
    ∃ t, exec (.bootStepDone noFindings) s = .next t ∧
      (∀ k, k < Config.nSkeins → t.skein k = poweredUp (s.skein k)) ∧
      (∀ f, f < Config.nFields → (t.field f).laneState = 1 ∧ (t.field f).upAt = s.time ∧
        (t.field f).sent.length = (s.field f).sent.length + (if f = 0 then 103 else 97) + 192) ∧
      t = { withBoot s { s.boot with stage := 5, step := 4 } with
        skeins := t.skeins, fields := t.fields, power := { s.power with turnOns := 4608 }
        faults := { s.faults with onset := t.faults.onset } }) ∧
  (∀ s : State, s.boot.step = 4 → ∃ t, exec (.bootStepDone noFindings) s = .next t ∧
    (∀ p, p < Config.nPorts → (t.port p).state = 1 ∧ ∀ k, k < Config.systemBlocks → (t.port p).owner k = .system) ∧
    t = { withBoot s { s.boot with linkUp := 0xF, deadThisRun := [], step := 5 } with
      creel := t.creel, faults := { s.faults with onset := t.faults.onset } }) ∧
  (∀ s : State, s.boot.step = 5 → ∃ t, exec (.bootStepDone noFindings) s = .next t ∧
    t.boot = { s.boot with
      stage := 6, step := 0, shed := .f, aliveOn := s.faults.halted.isNone, kickAt := s.time
      readyUs := (s.time - s.boot.t1) / 1000, deadCores := s.boot.deadThisRun.length
      deadSkeins := (s.skeins.filter fun e => e.2.dead).length
      spareSkein := t.boot.spareSkein, shortCores := t.boot.shortCores } ∧
    (t.boot.spareSkein.map fun e => e.1) = List.range 48 ∧
    t = { s with boot := t.boot, faults := { s.faults with onset := t.faults.onset } }) ∧
  (∀ s : State,
    MakesTo .sysclkLoss s (withBoot s { s.boot with sysclkLost := true }) ∧
    MakesTo .sysclkRestore s (withBoot s { s.boot with sysclkLost := false }))

/-- R414, R415, R417: firmware update and sensors over the management port, and the test port. -/
def Obligations.ManagementAndTestPortEffects : Prop :=
  (∀ (s : State) (image : List Byte), s.ready = true →
    let told (n : Nat) : State := withBoot s { s.boot with pldm := n }
    (s.boot.bootSrc = true → exec (.pldmFwUpdate image) s = .next (told 3)) ∧
    (s.boot.bootSrc = false → s.boot.stage = 8 ∨ s.boot.writing.isSome → exec (.pldmFwUpdate image) s = .next (told 1)) ∧
    (s.boot.bootSrc = false → s.boot.stage = 6 → s.boot.writing = none → s.bolts = [] →
      exec (.pldmFwUpdate image) s = .next
        (if fwOk image then withBoot s { s.boot with
          pldm := 0, stage := 8, shed := .b, writeWaits := none
          writing := some ((match (if s.boot.slot = 0 then s.boot.flash1 else s.boot.flash0) with
            | some x => x.1 + 1
            | none => 1) % 2 ^ 32, image) }
        else told 2))) ∧
  (∀ (s : State) (n : Nat), n < 6 →
    let told (v : Nat) : State := withBoot s { s.boot with pldm := v }
    (s.boot.booted = false ∨ s.time < s.boot.t1 + 1000000000 → exec (.pldmSensorRead n) s = .next s) ∧
    (s.boot.booted = true → s.boot.t1 + 1000000000 ≤ s.time →
      (s.ready = false → exec (.pldmSensorRead n) s = .next (told s.boot.stage)) ∧
      (s.ready = true → exec (.pldmSensorRead n) s = .next (told
        (match n with
          | 0 => s.beaconState
          | 1 => s.beaconCat
          | 2 => s.power.totalW
          | 3 => s.hotSkein.2
          | 4 => s.thermal.kappaC
          | _ => s.coolantCode))))) ∧
  (∀ (s : State) (shift : List Bool),
    let bypassed : BootRec := { s.boot with jtag := .bypass, tdr := 0 }
    exec .bypass s = .next (withBoot s bypassed) ∧
    (∃ w : BitVec 32, exec .idcode s = .next (withBoot s { s.boot with jtag := .idcode, tdr := w }) ∧
      bits w.toNat 0 1 = 1 ∧ bits w.toNat 1 11 = Config.jep106.toNat ∧ bits w.toNat 12 16 = 0x4B48 ∧ bits w.toNat 28 4 = 1) ∧
    (s.boot.booted = true → ∀ cmd ∈ [Instr.samplePreload shift, .extest, .clamp, .highz],
      exec cmd s = .next (withBoot s bypassed)) ∧
    (s.boot.booted = false →
      exec (.samplePreload shift) s = .next (withBoot s { s.boot with jtag := .sample, boundary := shift }) ∧
      exec .extest s = .next (withBoot s { s.boot with jtag := .extest }) ∧
      exec .clamp s = .next (withBoot s { s.boot with jtag := .clamp, tdr := 0 }) ∧
      exec .highz s = .next (withBoot s { s.boot with jtag := .highz, tdr := 0 })))

/-- R279, R280, R394, R410, R414: the exchange RAM's mailbox. -/
def Obligations.MailboxEffects : Prop :=
  (∀ (s : State) (seq a b n : Nat), readLE s.xram 0 8 = mailSeq seq →
    ∀ cmd ∈ [Instr.readLedger seq, .readFaults seq a n, .readCoreMap seq n, .fwStage seq a b, .fwActivate seq b n],
      exec cmd s = .next s) ∧
  (∀ (s : State) (seq a b n : Nat), readLE s.xram 0 8 ≠ mailSeq seq →
    (RomWaits s → Mailed (.readLedger seq) s s seq 1 [] 3 [] ∧
      Mailed (.readFaults seq a n) s s seq 2 (leBytes 4 a ++ leBytes 2 n) 3 []) ∧
    (s.ready = true →
      Mailed (.readLedger seq) s s seq 1 [] 0 s.ledgerNow ∧
      (n = 0 ∨ 2045 < n → Mailed (.readFaults seq a n) s s seq 2 (leBytes 4 a ++ leBytes 2 n) 2 []) ∧
      (∀ r : LogRec, 1 ≤ n → n ≤ 2045 → a < 2 ^ 32 → s.faults.log = [r] → r.seq = a →
        Mailed (.readFaults seq a n) s s seq 2 (leBytes 4 a ++ leBytes 2 n) 0
          (leBytes 4 a ++ leBytes 4 a ++ leBytes 2 1 ++ leBytes 6 0 ++ r.bytes))) ∧
    (s.ready = true ∨ RomWaits s →
      (∀ w, w < 2 → Mailed (.readCoreMap seq w) s s seq 3 (leBytes 1 w) 0 (s.coreMap w)) ∧
      (2 ≤ n → Mailed (.readCoreMap seq n) s s seq 3 (leBytes 1 n) 2 []) ∧
      (a % 64 = 0 → 64 ≤ b → b ≤ 131072 → b % 64 = 0 → a + b ≤ 16773120 → Mailed (.fwStage seq a b) s
        (withBoot s (stagedAt s.boot a (readBytes (asked s.xram seq 4 (leBytes 4 a ++ leBytes 4 b)) 0x20000 b)))
        seq 4 (leBytes 4 a ++ leBytes 4 b) 0 []) ∧
      (a % 64 ≠ 0 ∨ b < 64 ∨ 131072 < b ∨ b % 64 ≠ 0 ∨ 16773120 < a + b →
        Mailed (.fwStage seq a b) s s seq 4 (leBytes 4 a ++ leBytes 4 b) 2 []) ∧
      (b < 512 ∨ 16773120 < b → Mailed (.fwActivate seq b n) s s seq 5 (leBytes 4 b ++ leBytes 1 n) 2 []) ∧
      (512 ≤ b → b ≤ 16773120 → 2 ≤ n → Mailed (.fwActivate seq b n) s s seq 5 (leBytes 4 b ++ leBytes 1 n) 1 [])) ∧
    (512 ≤ b → b ≤ 16773120 →
      let img := readBytes s.boot.staged 0 b
      (RomWaits s → Mailed (.fwActivate seq b 0) s
        (if fwOk img then withBoot s { s.boot with
          stage := 4, step := 3, svn := leAt img 0x0C 2, fwVersion := leAt img 8 4, shed := .quiet } else s)
        seq 5 (leBytes 4 b ++ leBytes 1 0) (if fwOk img then 0 else 4) []) ∧
      (s.ready = true → s.boot.bootSrc = true → Mailed (.fwActivate seq b 1) s s seq 5 (leBytes 4 b ++ leBytes 1 1) 1 []))) ∧
  (∀ (s : State) (w : Nat × List Byte) (ok : Bool), s.boot.writing = some w →
    let held := if ok then some w else none
    let ended : BootRec := { s.boot with
      stage := 6, shed := .f, writing := none, writeWaits := none
      flash0 := if s.boot.slot = 0 then s.boot.flash0 else held
      flash1 := if s.boot.slot = 0 then held else s.boot.flash1 }
    (s.boot.writeWaits = none → exec (.flashWriteDone ok) s = .next
      (withBoot s { ended with pldm := if ok then 0 else 2 })) ∧
    (∀ seq, s.boot.writeWaits = some seq → exec (.flashWriteDone ok) s = .next
      { withBoot s ended with xram := replied s.xram seq (if ok then 0 else 4) [] })) ∧
  (∀ (s : State) (w : Nat), w < 32768 →
    exec (.xramCollision w false false) s = .next s ∧
    exec (.xramCollision w false true) s = .next { s with xramColl := true, xramWord := w } ∧
    (∃ v, exec (.xramCollision w true false) s = .next { s with lastRead := v, free := s.free + 1 }) ∧
    (∃ v, exec (.xramCollision w true true) s = .next
      { s with lastRead := v, free := s.free + 1, xramColl := true, xramWord := w }))

/-- R15, R420, R421, R428: access sizes, a read that clears, half reads, and writes of 8 to 64 bytes. -/
def Obligations.RegisterEffects : Prop :=
  (∀ (s : State) (f off size : Nat) (v : BitVec 512), f < Config.nFunctions →
    let refused : State := { s with badAccess := min (s.badAccess + 1) 65535 }
    (off % 8 ≠ 0 ∨ size % 8 ≠ 0 ∨ size = 0 ∨ 64 < size → exec (.registerWrite f ⟨.bar0, off⟩ size v) s = .next refused) ∧
    (¬(size = 8 ∧ off % 8 = 0) → ¬(size = 4 ∧ off % 4 = 0) →
      exec (.rcRegisterRead f ⟨.bar0, off⟩ size) s = .next { refused with lastRead := 0 }) ∧
    (f ≠ 0 → exec (.registerWrite f ⟨.bar0, 0x60018⟩ 8 v) s = .next refused ∧
      exec (.rcRegisterRead f ⟨.bar0, 0x60018⟩ 8) s = .next { refused with lastRead := 0 })) ∧
  (∀ (s : State) (v : BitVec 512), s.boot.bootSrc = false →
    let n := v.toNat
    let warm (floorC floorW : Nat) (on : Bool) : ThermalRec :=
      { s.thermal with floorC := floorC, floorW := floorW, warmEnable := on }
    exec (.registerWrite 0 ⟨.bar0, 0x60020⟩ 8 v) s = .next { s with
      thermal := warm (bits n 0 8) (bits n 8 14) (bitAt n 22) } ∧
    exec (.registerWrite 0 ⟨.bar0, 0x60018⟩ 16 v) s = .next { s with
      thermal := { warm (bits n 64 8) (bits n 72 14) (bitAt n 86) with
        flowNom := max 300 (min 600 (bits n 0 10)), rpmNom := max 1 (bits n 10 16) } }) ∧
  (∀ s : State, s.boot.bootSrc = false → s.power.overcurrent < 65536 → s.power.turnOns < 65536 →
    s.power.neighbourWaits < 65536 → s.power.neighbourCaps < 65536 →
    let p := s.power
    let v := p.overcurrent + (p.turnOns <<< 16) + (p.neighbourWaits <<< 32) + (p.neighbourCaps <<< 48)
    exec (.rcRegisterRead 0 ⟨.bar0, 0x40020⟩ 8) s = .next { s with
      lastRead := BitVec.ofNat 64 v
      power := { p with overcurrent := 0, turnOns := 0, neighbourWaits := 0, neighbourCaps := 0 } } ∧
    exec (.rcRegisterRead 0 ⟨.bar0, 0x40020⟩ 4) s = .next { s with lastRead := BitVec.ofNat 64 (v % 2 ^ 32) } ∧
    exec (.rcRegisterRead 0 ⟨.bar0, 0x40024⟩ 4) s = .next { s with lastRead := BitVec.ofNat 64 (v / 2 ^ 32) }) ∧
  (∀ (s : State) (f : Nat), f < Config.nFunctions →
    exec (.rcRegisterRead f ⟨.config, 0⟩ 4) s = .next { s with
      lastRead := BitVec.ofNat 64 (Config.vendorId.toNat + ((if f % 8 = 0 then 0x4B48 else 0x4B49) <<< 16)) } ∧
    exec (.rcRegisterRead f ⟨.config, 8⟩ 4) s = .next { s with lastRead := 0x12000000 } ∧
    (∀ v : BitVec 512, v.getLsbD 2 = false → (s.func f).busMaster = true → MakesFuncs (.registerWrite f ⟨.config, 4⟩ 2 v) s s
      (fun k => decide (k = f)) (fun _ => { s.func f with busMaster := false, writable := false })) ∧
    (∀ off size, exec (.rcRegisterRead f ⟨.bar2, off⟩ size) s = .next { s with lastRead := 0 }) ∧
    (∀ (off size : Nat) (v : BitVec 512), f ≠ 0 → exec (.registerWrite f ⟨.bar4, off⟩ size v) s = .next s)) ∧
  (∀ (s : State) (off size : Nat) (v : BitVec 512), 1 ≤ size → size ≤ 64 → off + size ≤ 0x40000 →
    let m := writeBytes s.xram off (leBytes size v.toNat)
    8 ≤ off ∨ (off = 0 ∧ size = 8 ∧ v.toNat % 2 ^ 64 ≠ mailSeq v.toNat) →
      exec (.registerWrite 0 ⟨.bar4, off⟩ size v) s = .next { s with xram := m }) ∧
  (∀ (s : State) (n : Nat), s.ready = true → n < 2 ^ 32 → readLE s.xram 0 8 ≠ mailSeq n → readLE s.xram 0x10000 8 ≠ mailSeq n →
    s.boot.writeWaits ≠ some n →
    let m := writeBytes s.xram 0 (leBytes 8 (mailSeq n))
    let c := readLE s.xram 8 8
    let ring (r : List Host.Cell) : Prop :=
      exec (.registerWrite 0 ⟨.bar4, 0⟩ 8 (BitVec.ofNat 512 (mailSeq n))) s = .next { s with xram := r }
    (bits c 0 8 = 0 ∨ 5 < bits c 0 8 → ring (replied m n 1 [])) ∧
    (bits c 0 8 = 1 → bits c 16 24 ≠ 0 → ring (replied m n 2 [])) ∧
    (bits c 0 8 = 1 → bits c 16 24 = 0 → ring (replied m n 0 s.ledgerNow)))

/-! ## Creel, lanes and links -/

namespace Sys2Proof

/-- Lane `k` of link `l` receives, and nothing waits for the bundle of the link. -/
structure LaneHears (s : State) (l k : Nat) : Prop where
  link : l < Config.nLinks
  lane : k < 8
  laneUp : (s.lane l k).state = 1
  inUse : (s.link l).inUse k = true
  linkOn : (s.link l).state ≠ 3 ∧ (s.link l).disable = false
  nothingInFlight : s.net = []
  nothingWaits : (s.bundle (s.link l).peerEngine).controls = [] ∧ (s.bundle (s.link l).peerEngine).again = []

/-- No bundle holds anything, no bolt stands, no SPAN_CFG is committed and no IDENT check has failed. -/
structure SpanQuiet (s : State) : Prop where
  nothingInFlight : s.net = []
  noBundles : s.span.bundles = []
  noOldRoutes : s.span.routeOld = []
  noBolts : s.bolts = []
  notSet : s.span.cfg.getLsbD 6 = false
  noneHeld : ∀ l, (s.link l).foreign = false ∧ (s.link l).conflict = false ∧ (s.link l).state ≠ 2

/-- The command leaves lane `k` as `r`, its link as `x` but for its lanes, the bundle of the link as `b`, and all else as in
`s1` (and the onset times of conditions). -/
def MakesAumen (cmd : Instr) (s s1 : State) (l k : Nat) (r : LaneRec) (x : LinkRec) (b : BundleRec) : Prop :=
  ∃ t, exec cmd s = .next t ∧ t.lane l k = r ∧ (∀ j, j ≠ k → t.lane l j = s.lane l j) ∧
    t.link l = { x with lanes := (t.link l).lanes } ∧ (∀ m, m ≠ l → t.link m = s.link m) ∧
    t.bundle (s.link l).peerEngine = b ∧ (∀ e, e ≠ (s.link l).peerEngine → t.bundle e = s.bundle e) ∧
    t = { s1 with
      links := t.links, span := { s1.span with bundles := t.span.bundles }
      faults := { s1.faults with onset := t.faults.onset } }

/-- The command leaves the lanes of link `l` as `r` says, the link as `x` but for them, and all else as in `s1`. -/
def MakesLink (cmd : Instr) (s s1 : State) (l : Nat) (r : Nat → LaneRec) (x : LinkRec) : Prop :=
  ∃ t, exec cmd s = .next t ∧ (∀ j, j < 8 → t.lane l j = r j) ∧
    t.link l = { x with lanes := (t.link l).lanes } ∧ (∀ m, m ≠ l → t.link m = s.link m) ∧
    t = { s1 with links := t.links, faults := { s1.faults with onset := t.faults.onset } }

/-- A message added to those in flight. -/
def alsoSent (s : State) (source kind sev detail : Nat) : State :=
  { s with faults := { s.faults with inFlight := s.faults.inFlight ++ [⟨source, kind, sev, detail, false⟩] } }

/-- The lane's next flit and its latest one in order (R329). -/
def nextSeqOf (r : LaneRec) : Nat := (r.latest + 1) % 256

/-- A lane that has taken a flit in order. -/
def heardFlit (r : LaneRec) : LaneRec := { r with rxSeq := nextSeqOf r, rxAny := true, nak := false, attempts := 0 }

/-- A lane that begins to retrain (R330). -/
def retraining (r : LaneRec) (now : Nat) : LaneRec :=
  { r with
    state := 2, retrainStart := now, attempts := 0, retryTimes := [], nak := false, replay := []
    retrainTimes := now :: r.retrainTimes.filter fun t => decide (now < t + 60000000000) }

/-- The ledger's count of a link's lane retrains. -/
def retrainsNoted (s : State) (l n : Nat) : LedgerMem :=
  { s.ledger with totals := { s.ledger.totals with
    laneRetrains := Tab.put 0 s.ledger.totals.laneRetrains l (min (Tab.get 0 s.ledger.totals.laneRetrains l + n) (2 ^ 32 - 1)) } }

end Sys2Proof

/-- R311, R314, R317, R319, R321, R322: refresh, temperature, patrol, rewrite, zero-fill and retirement of a creel port. -/
def Obligations.CreelEffects : Prop :=
  (∀ (s : State) (p ch bank : Nat), p < Config.nPorts → ch < 4 → bank < 16 →
    let r := s.port p
    let k := ch * 16 + bank
    let owed := Tab.get 0 r.postponed k
    let issued := { r with
      refreshing := Tab.put 0 r.refreshing ch (bank + 1), refreshUntil := Tab.put 0 r.refreshUntil ch (s.time + 190) }
    let new := (s.bankQueue p ch bank).filter fun f => !r.waited.contains f
    (s.creelWaiting p ch bank = false → exec (.creelRefresh p ch bank) s = .next (s.setPort p { issued with
      postponed := Tab.put 0 r.postponed k 0 })) ∧
    (s.creelWaiting p ch bank = true → owed < 8 → exec (.creelRefresh p ch bank) s = .next (s.setPort p { r with
      postponed := Tab.put 0 r.postponed k (owed + 1) })) ∧
    (s.creelWaiting p ch bank = true → 8 ≤ owed → exec (.creelRefresh p ch bank) s = .next (s.setPort p { issued with
      waited := r.waited ++ new, refreshWaits := min (r.refreshWaits + new.length) (2 ^ 32 - 1) })) ∧
    (∀ (f : Flit), isCreel f.dst = true → creelPortOf f.dst = p → creelChannel (creelOffset f.dst) = ch →
      creelBank (creelOffset f.dst) = bank → (s.setPort p issued).bankHeld f = true)) ∧
  (∀ (s : State) (p ch code : Nat), p < Config.nPorts → ch < 4 → code < 8 →
    let r := s.port p
    let read := { r with mr4 := Tab.put 0 r.mr4 ch code }
    (∀ j, j < 4 → j ≠ ch → Tab.get 0 r.mr4 j < 7) →
    (code < 7 → exec (.mr4Read p ch code) s = .next (s.setPort p { read with topReported := false })) ∧
    (code = 7 → r.topReported = true → exec (.mr4Read p ch code) s = .next (s.setPort p read)) ∧
    (code = 7 → r.topReported = false → exec (.mr4Read p ch code) s = .next
      (alsoSent (s.setPort p { read with topReported := true }) (0x80000 + p) 0x15 1 p))) ∧
  (∀ (s : State) (p block line : Nat), p < Config.nPorts → block < Config.creelBlocks → line / 65536 = block →
    let r := s.port p
    r.state = 1 → r.owner block = .system →
    (r.ecc = [] → exec (.creelPatrol p block) s = .next s) ∧
    (r.ecc = [(line, 1)] → r.rewrite = [] → exec (.creelPatrol p block) s = .next
      (alsoSent (s.setPort p { r with corrected := min (r.corrected + 1) 65535, rewrite := [line] })
        (0x80000 + p) 0x10 1 (p + (line <<< 5)))) ∧
    (r.ecc = [(line, 2)] → exec (.creelPatrol p block) s = .next
      (alsoSent (s.setPort p { r with
          uncorrected := min (r.uncorrected + 1) 255, last := line, valid := true
          uncorrTimes := s.time :: r.uncorrTimes.filter fun t => decide (s.time < t + 3600000000000) })
        (0x80000 + p) 0x11 2 (p + (line <<< 5))))) ∧
  (∀ (s : State) (p n : Nat), p < Config.nPorts →
    let r := s.port p
    (n ∈ r.rewrite → exec (.creelLineRewrite p n) s = .next (s.setPort p { r with
      ecc := Tab.erase r.ecc n, rewrite := r.rewrite.filter fun l => l ≠ n })) ∧
    (n < Config.creelBlocks → r.owner n = .dirty → exec (.blockZeroDone p n) s = .next (s.setPort p { r with
      owners := Tab.put .dirty r.owners n .clean, mem := clearRange r.mem (n * 4194304) 4194304
      ecc := r.ecc.filter fun e => decide (e.1 / 65536 ≠ n), rewrite := r.rewrite.filter fun l => decide (l / 65536 ≠ n)
      lost := r.lost.filter fun l => decide (l / 65536 ≠ n) })) ∧
    (r.state = 1 → 64 < (r.uncorrTimes.filter fun t => decide (s.time ≤ t + 3600000000000)).length → r.owners = [] →
      MakesTo (.creelPortRetire p) s (s.setPort p { r with state := 3 })))

/-- R328, R329, R332, R333: flits that arrive on a lane, in and out of order, and the IDENT that a lane sends. -/
def Obligations.LaneFlitEffects : Prop :=
  ∀ (s : State) (l k : Nat) (raw : BitVec 2048), LaneHears s l k →
    let r := s.lane l k
    let x := s.link l
    let b := s.bundle x.peerEngine
    let acks := decide (auByte raw 3 % 2 = 1)
    let lost := { r with
      nak := true, attempts := r.attempts + 1
      retryTimes := s.time :: r.retryTimes.filter fun t => decide (s.time < t + 1000000) }
    (∀ cmd ∈ [Instr.idleFlit, .slotFlit, .runFlit], MakesAumen (cmd l k raw false) s
      (alsoSent s (0x80100 + l) 0x0E 1 (l + (k <<< 6) + (nextSeqOf r <<< 9))) l k lost
      { x with retries := min (x.retries + 1) (2 ^ 32 - 1), fecUncorr := min (x.fecUncorr + 1) 65535 } b) ∧
    (auGood raw = true → auKind raw = 0 → auSeq raw = r.latest →
      (acks = false → MakesAumen (.idleFlit l k raw true) s s l k { r with nak := false, attempts := 0 } x b) ∧
      (acks = true →
        let left := (r.txSeq + 255 - auByte raw 2) % 256
        let done := r.replay.take (r.replay.length - left)
        left < r.replay.length → MakesAumen (.idleFlit l k raw true) s s l k
          { r with nak := false, attempts := 0, replay := r.replay.drop (r.replay.length - left) } x
          { b with unacked := b.unacked - (done.filter fun w => decide (auKind w = 1) || decide (auKind w = 2)).length })) ∧
    (auGood raw = true → acks = false → auSeq raw = nextSeqOf r →
      (∀ p ∈ [(Instr.slotFlit, 1), (.runFlit, 2)], auKind raw = p.2 →
        s.carries l x.peerEngine = true → b.reorder = [] →
        let ahead := (auBundle raw + 2 ^ 24 - b.rxSeq) % 2 ^ 24
        (0 < ahead → ahead < 2 ^ 23 → MakesAumen (p.1 l k raw true) s s l k (heardFlit r) x
          { b with reorder := [(auBundle raw, auByte raw 7, auFlits raw)] }) ∧
        (2 ^ 23 ≤ ahead → MakesAumen (p.1 l k raw true) s s l k (heardFlit r) x b) ∧
        (∀ f, auBundle raw = b.rxSeq → b.rxSeq < 2 ^ 24 → auFlits raw = [f] → gaEngine f.dst = s.engineNo → gaY f.dst < 576 →
          f.vc = 0 → f.type = .beat → ∃ t, exec (p.1 l k raw true) s = .next t ∧
            t.net = [⟨{ f with ext := true }, edgeEntry (l / 9) f.dst⟩] ∧
            (t.bundle x.peerEngine).rxSeq = (b.rxSeq + 1) % 2 ^ 24 ∧
            t = { s with
              net := t.net, links := t.links, span := { s.span with bundles := t.span.bundles }
              faults := { s.faults with onset := t.faults.onset } })) ∧
      (auKind raw = 3 → auByte raw 8 = 2 → ∃ t, MakesAumen (.credit l k raw) s s l k (heardFlit r) x
          { b with space := t } ∧
        ∀ v, v < 3 → Tab.get 256 t v = min 256 (Tab.get 256 b.space v + auField raw (9 + 2 * v) 2)) ∧
      (auKind raw = 3 → auByte raw 8 = 3 → s.span.bundles = [] → leAt ((auBytes raw).drop 9) 1 1 = s.engineNo →
        Config.nBolts ≤ leAt ((auBytes raw).drop 9) 3 1 →
        let h := 4 * (l / 9)
        ∃ t, exec (.harness l k raw) s = .next t ∧ t.lane l k = heardFlit r ∧
          t.harn h = { s.harn h with messages := (s.harn h).messages ++ [(x.peerSerial, auField raw 9 231)] } ∧
          (∀ j, j ≠ h → t.harn j = s.harn j) ∧
          t = { s with links := t.links, harness := t.harness, faults := { s.faults with onset := t.faults.onset } })) ∧
    (r.replay.length < 64 → MakesAumen (.identSend l k) s s l k (r.push 3 0 0 (s.identBody l) 0)
      { x with identsSent := x.identsSent + 1 } b)

/-- R330, R331, R334–R336, R338: lanes that retrain, links that train, IDENT, SPAN_COMMIT, routes and a silent peer. -/
def Obligations.LinkEffects : Prop :=
  (∀ (s : State) (l k : Nat), SpanQuiet s → l < Config.nLinks → k < 8 → (∀ j, (s.lane l j).replay = []) →
    (s.link l).state = 1 → (s.link l).disable = false →
    let r := s.lane l k
    let x := s.link l
    let others (v : LaneRec) (j : Nat) : LaneRec := if j = k then v else s.lane l j
    (r.state = 1 → 8 ≤ r.attempts → MakesLink (.laneRetrain l k) s { s with ledger := retrainsNoted s l 1 } l
      (others (retraining r s.time)) { x with retrains := min (x.retrains + 1) 65535 }) ∧
    (r.state = 2 → x.retrainReq = false → MakesLink (.retrainDone l k) s s l
      (others { state := 1, retrainTimes := r.retrainTimes }) x) ∧
    (r.state = 2 → x.retrainReq = false → r.retrainStart + 10000000 ≤ s.time → x.mode4 = false →
      ∃ d, MakesLink (.retrainTimeout l k) s (alsoSent s (0x80100 + l) 0x0F 1 (l + (d <<< 6) + (1 <<< 14) + (x.peerEngine <<< 18)))
        l (others { r with state := 3 }) { x with mode4 := true, group := decide (k < 4) }) ∧
    (∀ f, 0 < f → f < Config.nFunctions →
      exec (.lnRetrain f l) s = .next { s with badAccess := min (s.badAccess + 1) 65535 }) ∧
    (x.retrains = 0 → Tab.get 0 s.ledger.totals.laneRetrains l = 0 → ∃ t, exec (.lnRetrain 0 l) s = .next t ∧
      (∀ j, j < 8 → (t.lane l j).state = 2 ∧ (t.lane l j).retrainStart = s.time ∧ (t.lane l j).retrainTimes = [s.time] ∧
        (t.lane l j).replay = []) ∧
      t.link l = { x with retrainReq := true, mode4 := false, group := false, retrains := 8, lanes := (t.link l).lanes } ∧
      (∀ m, m ≠ l → t.link m = s.link m) ∧ Tab.get 0 t.ledger.totals.laneRetrains l = 8 ∧
      t = { s with
        links := t.links, ledger := t.ledger, faults := { s.faults with onset := t.faults.onset } })) ∧
  (∀ (s : State) (l : Nat), SpanQuiet s → l < Config.nLinks → (s.link l).state = 0 → (s.link l).disable = false →
    (s.link l).retrainReq = false →
    let x := s.link l
    let up (lanes j : Nat) : LaneRec := { state := if bitAt lanes j then 1 else 3 }
    MakesLink (.linkTrainingDone l 255) s s l (up 255) { x with mode4 := false, group := false, state := 1 } ∧
    MakesLink (.linkTrainingDone l 0xF0) s
      (alsoSent s (0x80100 + l) 0x0F 1 (l + (15 <<< 6) + (1 <<< 14) + (x.peerEngine <<< 18))) l
      (up 0xF0) { x with mode4 := true, group := true, state := 1 } ∧
    MakesLink (.linkTrainingDone l 0) s
      (alsoSent s (0x80100 + l) 0x0F 2 (l + (255 <<< 6) + (6 <<< 14) + (x.peerEngine <<< 18))) l
      (up 0) { x with mode4 := true, group := false, state := 3 }) ∧
  (∀ (s : State) (l k : Nat) (raw : BitVec 2048), SpanQuiet s → LaneHears s l k → auGood raw = true → auKind raw = 3 →
    auByte raw 8 = 1 → auByte raw 3 % 2 = 0 → auSeq raw = nextSeqOf (s.lane l k) →
    MakesLink (.ident l k raw) s s l (fun j => if j = k then heardFlit (s.lane l k) else s.lane l j)
      { s.link l with
        peerSerial := auField raw 9 8, peerSpan := auField raw 17 4, peerEngine := auByte raw 21 % 64
        peerCfg := bitAt (auByte raw 22) 0, identAt := s.time }) ∧
  (∀ (s : State) (f : Nat), f < Config.nFunctions →
    (f ≠ 0 → exec (.spanCommit f) s = .next { s with badAccess := min (s.badAccess + 1) 65535 }) ∧
    (f = 0 → s.spanOk = false → exec (.spanCommit f) s = .next (alsoSent s 0x80200 0x1F 1 0x09C008)) ∧
    (f = 0 → s.spanOk = true → SpanQuiet s → (∀ l, l < Config.nLinks → (s.link l).peerSerial = 0) →
      MakesTo (.spanCommit f) s { s with span := { s.span with
        cfg := s.span.cfgSh, route := s.span.routeSh, routeCopy := s.span.routeSh } })) ∧
  (∀ (s : State) (e : Nat) (w : Word), e < 64 → s.span.routeOld = [(e, w)] → s.net = [] →
    (s.bundle (bits w.toNat 0 6)).unacked = 0 →
    exec (.routeSwitch e) s = .next { s with span := { s.span with routeOld := [] } }) ∧
  (∀ (s : State) (b : Nat) (r : BoltRec) (e : EpochRec) (peer : Nat), b < Config.nBolts → s.bolts = [(b, r)] →
    r.current = some e → r.other = none → e.chain = [(s.engineNo, b), (peer, b)] → peer ≠ s.engineNo → s.hopOf peer = none →
    (∀ l, l < Config.nLinks → (s.link l).identAt + 10000000 ≤ s.time) → r.st = .serving → s.reqs = [] → s.adapters = [] →
    ∃ t, exec (.spanPeerSilence b) s = .next t ∧ (t.bolt b).st = .faulted ∧ (t.bolt b).current = none ∧
      (t.bolt b).mirrors = r.mirrors ++ [e] ∧ t.hostMem = s.hostMem ∧ t.links = s.links ∧ t.span = s.span)

/-! ## Bolts -/

namespace Sys2Proof

/-- What a final needs to know of a descriptor that waits. -/
def finOfDesc (s : State) (q : Nat) (d : BitVec 1024) : FinOf := ⟨q, (s.qp q).descNum, dTag d, dHandle d, dOpcode d⟩

/-- The core stands in one of a bolt's skeins, w × h of them from (sx0, sy0). -/
abbrev inRect (r : BoltRec) (c : Nat) : Prop :=
  c < Config.nCores ∧ 8 * r.sx0 ≤ coreX c ∧ coreX c < 8 * (r.sx0 + r.w) ∧ 8 * r.sy0 ≤ coreY c ∧ coreY c < 8 * (r.sy0 + r.h)

/-- The rectangle lies on the array. -/
abbrev onArray (r : BoltRec) : Prop := r.sx0 + r.w ≤ 64 ∧ r.sy0 + r.h ≤ 72

/-- The skein is one of a bolt's. -/
abbrev hasSkein (r : BoltRec) (k : Nat) : Prop :=
  r.sx0 ≤ k % 64 ∧ k % 64 < r.sx0 + r.w ∧ r.sy0 ≤ k / 64 ∧ k / 64 < r.sy0 + r.h

/-- The logic of a bolt's skeins is on, and no skein waits to be turned on. -/
def SkeinsOn (s : State) (r : BoltRec) : Prop :=
  (∀ k, hasSkein r k → (s.skein k).state = 4) ∧ ∀ e ∈ s.skeins, e.2.turnOnReq = none

/-- Every function can be told by vector 0. -/
def FuncsHear (s : State) : Prop := ∀ f, (s.func f).masked.getLsbD 0 = false ∧ (s.func f).writable = true

/-- Vector 0 of each function of a mask, the highest function last. -/
def toldAll (s : State) (mask : BitVec 32) : List (Nat × Nat) :=
  (((List.range 32).filter fun f => mask.getLsbD f).reverse.map fun f => (f, 0)) ++ s.msix

/-- What Table 9.1 refuses of a BOLT_CREATE, or R228 for a bolt that stands or whose rectangle or functions meet its. -/
def createBad (s : State) (d : BitVec 1024) : Prop :=
  dfield d 18 1 = 0 ∨ 64 < dfield d 16 1 + dfield d 18 1 ∨ dfield d 19 1 = 0 ∨ 72 < dfield d 17 1 + dfield d 19 1 ∨
  dfield d 20 4 = 0 ∨ Config.heavyBudget s.configCode < dfield d 24 4 ∨ (s.bolt (dfield d 2 1)).st ≠ .none ∨
  ∃ x, x < 8 ∧ x ≠ dfield d 2 1 ∧ (s.bolt x).st ≠ .none ∧
    ((∃ f, f < 32 ∧ (s.bolt x).funcMask.getLsbD f = true ∧ bitAt (dfield d 20 4) f = true) ∨
      (dfield d 16 1 < (s.bolt x).sx0 + (s.bolt x).w ∧ (s.bolt x).sx0 < dfield d 16 1 + dfield d 18 1 ∧
        dfield d 17 1 < (s.bolt x).sy0 + (s.bolt x).h ∧ (s.bolt x).sy0 < dfield d 17 1 + dfield d 19 1))

/-- A BOLT_CREATE in range on an engine without bolts. -/
structure CreateOk (s : State) (d : BitVec 1024) : Prop where
  header : dOpcode d = 0x20 ∧ dHandle d = 0 ∧ dZeroBut d [(0, 31)] = true ∧ dfield d 30 1 < 8
  wide : 1 ≤ dfield d 18 1 ∧ dfield d 16 1 + dfield d 18 1 ≤ 64
  tall : 1 ≤ dfield d 19 1 ∧ dfield d 17 1 + dfield d 19 1 ≤ 72
  funcs : dfield d 20 4 ≠ 0
  share : dfield d 24 4 ≤ Config.heavyBudget s.configCode
  quota : dfield d 28 2 ≤ 726
  noBolts : s.bolts = []
  noBlocks : ∀ p, (s.port p).owners = []

/-- The bolt that it makes (Table 9.1). -/
def createdBolt (d : BitVec 1024) : BoltRec :=
  { sx0 := dfield d 16 1, sy0 := dfield d 17 1, w := dfield d 18 1, h := dfield d 19 1, funcMask := BitVec.ofNat 32 (dfield d 20 4)
    homeSide := (((List.range 32).find? fun i => bitAt (dfield d 20 4) i).getD 0) / 8
    spanSide := dfield d 30 1 % 4, spanAccept := bitAt (dfield d 30 1) 2, share := dfield d 24 4, quotaGb := dfield d 28 2
    resvPerPort := (dfield d 28 2 * 1000000000 + 32 * 4194304 - 1) / (32 * 4194304), nextEpoch := 1 }

/-- A bolt's cores alone change: each of its rectangle becomes what `g` makes of it. -/
def coresAre (s t : State) (r : BoltRec) (g : CoreRec → CoreRec) : Prop :=
  (∀ c, inRect r c → t.core c = g (s.core c)) ∧ ∀ c, ¬ inRect r c → t.core c = s.core c

/-- The bolt alone changes, and becomes `v`. -/
def boltIs (s t : State) (b : Nat) (v : BoltRec) : Prop := t.bolt b = v ∧ ∀ k, k ≠ b → t.bolt k = s.bolt k

/-- The channels of a core that is made to discard: idle, with empty queues (R66, R168). -/
def halted (r : CoreRec) : CoreRec :=
  { r with
    discard := true
    chans := r.chans.map fun e => (e.1, { e.2 with state := .idle, queue := [], active := none, mismatch := false }) }

/-- No line that a foreground read found lost waits to be acted on. -/
def NoneLost (s : State) : Prop := ∀ p, p < Config.nPorts → (s.port p).lost = []

/-- Nothing of a bolt is under way: no request, adapter, load, job or operation. -/
structure BoltQuiet (s : State) (b : Nat) : Prop where
  noRequests : s.reqs = []
  noAdapters : s.adapters = []
  noLoad : (s.bolt b).load = none
  noJob : (s.bolt b).tune = none
  noOps : (s.bolt b).ops = []
  onWafer : onArray (s.bolt b)
  tell : FuncsHear s

end Sys2Proof

/-- R227–R229, R250: BOLT_CREATE, SCRUB and BOLT_DESTROY, as they are accepted and as they are refused. -/
def Obligations.BoltDescEffects : Prop :=
  ∀ (s : State) (q : Nat) (d : BitVec 1024), Ready s q d →
    let b := dfield d 2 1
    let r := s.bolt b
    (∀ p ∈ [(Instr.boltCreate, 0x20), (.boltDestroy, 0x21), (.scrub, 0x22)], q ≠ 0 → dOpcode d = p.2 →
      Answers (p.1 q d) s s q d 7 [match s.boltOfFunc (s.qp q).func with
        | some x => (s.bolt x).st.code
        | none => 0]) ∧
    (q = 0 → dOpcode d = 0x20 → createBad s d → Answers (.boltCreate q d) s s q d 7 [r.st.code]) ∧
    (q = 0 → CreateOk s d →
      let v := createdBolt d
      ((∃ c, inRect v c ∧ (s.core c).st = .scrubbing) →
        ∃ t, exec (.boltCreate q d) s = .next t ∧ boltIs s t b { v with ops := [.create (finOfDesc s q d)] } ∧
          t.serveOf b = {} ∧ (∀ k, k ≠ b → t.serveOf k = s.serveOf k) ∧ t.ctPage b = {} ∧ (∀ k, k ≠ b → t.ctPage k = s.ctPage k) ∧
          t.qp q = acceptedQp (s.qp q) ∧ (∀ k, k ≠ q → t.qp k = s.qp k) ∧
          t = { s with bolts := t.bolts, serve := t.serve, ctPages := t.ctPages, qps := t.qps }) ∧
      ((∀ c, (s.core c).st ≠ .scrubbing) → SkeinsOn s v → FuncsHear s →
        ∃ t, exec (.boltCreate q d) s = .next t ∧ boltIs s t b { v with st := .empty } ∧ t.serveOf b = {} ∧
          (∀ c, inRect v c →
            (t.core c).discard = false ∧ bits ((t.router c).val 0) 0 3 = b ∧ bits ((t.router c).val 0) 3 1 = 1 ∧
            bits ((t.router c).val 0) 12 2 = v.spanSide ∧ ∀ p, 1 ≤ p → p ≤ 4 →
              ((t.router c).fenced p = true ↔ match leave (coreX c) (coreY c) p with
                | .at_ (.router x y _) => ¬ inRect v (coreNum x y)
                | _ => True)) ∧
          (∀ c, ¬ inRect v c → t.core c = s.core c ∧ t.router c = s.router c) ∧
          (∀ k, (hasSkein v k → t.skein k = { s.skein k with
              allowance := 0, allowanceInv := 0x3FF, burst := 0, burstInv := 0x3FF, allowCopy := 0, burstCopy := 0
              mismatchReported := false }) ∧ (¬ hasSkein v k → t.skein k = s.skein k)) ∧
          t.msix = toldAll s v.funcMask ∧ t.qp q = answeredQp (s.qp q) s.time ∧
          t.hostMem = writeBytes s.hostMem (ringBase (s.qp q).cq + 64 * (s.qp q).cqTail) (entryOf (s.qp q) q d 0 0 [1]) ∧
          t = { s with
            bolts := t.bolts, serve := t.serve, ctPages := t.ctPages, qps := t.qps, cores := t.cores, routers := t.routers
            skeins := t.skeins, msix := t.msix, hostMem := t.hostMem, span := { s.span with peer := t.span.peer, peerCopy := t.span.peerCopy } })) ∧
    (q = 0 → ∀ p ∈ [(Instr.boltDestroy, 0x21, true), (.scrub, 0x22, false)], dOpcode d = p.2.1 →
      (r.st = .none ∨ r.st = .scrubbing ∨ 2 ≤ dfield d 16 1 ∨ (r.st = .faulted ∧ p.2.2 = false) → Answers (p.1 q d) s s q d 7 [r.st.code]) ∧
      (r.st ≠ .none → r.st ≠ .scrubbing → r.st ≠ .faulted ∨ p.2.2 = true → BoltQuiet s b → (∀ c, inRect r c → (s.core c).st = .idle) →
        dZeroBut d [(0, 17)] = true → dHandle d = 0 → dfield d 16 1 < 2 →
        ∃ t, exec (p.1 q d) s = .next t ∧
          boltIs s t b { r with
            st := .scrubbing, current := none, other := none, pauses := [], drained := false, repairs := false
            timersSuspended := false, regions := [], slots := [], tops := [], incoming := none, unloading := false
            mirrors := r.mirrors ++ r.current.toList ++ r.other.toList
            ops := [.scrub (finOfDesc s q d) (bitAt (dfield d 16 1) 0) p.2.2] } ∧
          coresAre s t r halted ∧ t.msix = toldAll s r.funcMask ∧ t.qp q = acceptedQp (s.qp q) ∧ (∀ k, k ≠ q → t.qp k = s.qp k) ∧
          t = { s with
            bolts := t.bolts, cores := t.cores, qps := t.qps, msix := t.msix
            faults := { s.faults with onset := t.faults.onset } }))

/-- R38, R125, R126, R157, R168, R250, R253, R254: drained bolts, resumes, watchdogs, and a router that does not answer. -/
def Obligations.BoltRunEffects : Prop :=
  (∀ (s : State) (b : Nat), b < Config.nBolts → s.net = [] → onArray (s.bolt b) → (s.bolt b).drained = false →
    let r := s.bolt b
    let cleared (k : CoreRec) : CoreRec := { k with grants := [], exhausted := [], credits := [], rx := [] }
    (∀ w, r.st = .paused → r.ops = [] → r.pauses = [w] → w = .watchdog ∨ w = .router ∨ w = .coolant → r.current = none → r.other = none →
      ∃ t, exec (.drainComplete b) s = .next t ∧
        boltIs s t b { r with drained := true, pauses := if w = .coolant then [w] else [] } ∧ coresAre s t r cleared ∧
        t = { s with bolts := t.bolts, cores := t.cores }) ∧
    (∀ f w d, r.st = .scrubbing → r.ops = [.scrub f w d] → r.mirrors = [] → (∀ c, inRect r c → (s.core c).st = .idle) →
      (∃ c, inRect r c) → SkeinsOn s r →
      ∃ t, exec (.drainComplete b) s = .next t ∧ boltIs s t b { r with drained := true } ∧
        coresAre s t r (fun k => CoreRec.enterScrub { cleared k with scrubKeep := [] }) ∧ (∀ k, t.skein k = s.skein k) ∧
        t = { s with bolts := t.bolts, cores := t.cores, skeins := t.skeins })) ∧
  (∀ (s : State) (b c : Nat) (e : EpochRec), b < Config.nBolts → FuncsHear s → s.reqs = [] → onArray (s.bolt b) →
    let r := s.bolt b
    r.st = .paused → r.drained = true → r.pauses = [] → r.other = none → r.current = some e → e.place = [[c]] → inRect r c →
    (s.core c).st = .idle →
    ∃ t, exec (.boltResume b) s = .next t ∧
      boltIs s t b { r with
        st := .serving, drained := false, repairs := false
        lastStallUs := if r.repairs then min ((s.time - r.pausedAt) / 1000) 65535 else r.lastStallUs
        slots := r.slots.map fun k => (k.1, { k.2 with progress := s.time }) } ∧
      t.core c = { (s.core c).enterRun (s.coreEnv c).burst with discard := false } ∧
      (∀ k, inRect r k → k ≠ c → t.core k = { s.core k with discard := false }) ∧
      (∀ k, ¬ inRect r k → t.core k = s.core k) ∧ t.msix = toldAll s r.funcMask ∧
      t = { s with bolts := t.bolts, cores := t.cores, msix := t.msix }) ∧
  (∀ (s : State), NoneLost s → (∀ b, b < 8 → (s.bolt b).st = .serving →
      (∀ k ∈ (s.bolt b).slots, s.time < k.2.progress + 1000000 * (s.bolt b).pickTimeout) ∧
      ∀ c ∈ (s.bolt b).runningCores, (s.core c).st ≠ .frozen) → exec .watchdogCheck s = .next s) ∧
  (∀ (s : State), s.bolts = [] → (∀ p n b, (s.port p).owner n ≠ .bolt b) → ∃ t, exec .watchdogCheck s = .next t ∧
    (∀ p, p < Config.nPorts → t.port p = { s.port p with lost := [] }) ∧ t = { s with creel := t.creel }) ∧
  (∀ (s : State) (b k i : Nat) (r : BoltRec) (x : SlotRec), NoneLost s → b < Config.nBolts → s.bolts = [(b, r)] → r.st = .serving → FuncsHear s →
    r.timersSuspended = false → r.slots = [(k, x)] → k < 512 → x.req = some i → x.synthetic = false → r.regions = [] →
    x.tail = [] → x.drawn = none → x.kv = [] → r.current = none → r.other = none → onArray r →
    s.reqs = [(i, s.req i)] → (s.req i).st = rqDecode → (s.req i).bolt = b → (s.req i).slot = k →
    x.progress + 1000000 * r.pickTimeout ≤ s.time → (∀ c, inRect r c → (s.core c).st = .idle) →
    (x.timedOut = true → r.pool = [] → r.ops = [] → r.load = none → r.tune = none → (s.qp (s.req i).qp).enabled = false →
      (s.req i).openTurn = false → (s.req i).intake = none → ∃ t, exec .watchdogCheck s = .next t ∧ (t.bolt b).st = .faulted ∧
        t.req i = { gen := (s.req i).gen } ∧ (∀ c, t.core c = s.core c) ∧ t.hostMem = s.hostMem) ∧
    (x.timedOut = false → ∃ t, exec .watchdogCheck s = .next t ∧
      (t.bolt b).st = .paused ∧ (t.bolt b).pauses = (if PauseWhy.watchdog ∈ r.pauses then r.pauses else r.pauses ++ [.watchdog]) ∧
      (t.bolt b).pausedAt = s.time ∧ (t.bolt b).drained = false ∧ (t.bolt b).slotRec k = { x with timedOut := true, waiting := [] } ∧
      t.faults.inFlight = s.faults.inFlight ++ [⟨0x80800 + b, 7, 2, k + (b <<< 9) + (1 <<< 20), false⟩] ∧
      t.ledger.totals.watchdogReplays = min (s.ledger.totals.watchdogReplays + 1) (2 ^ 32 - 1) ∧
      coresAre s t r halted ∧ t.reqs = s.reqs ∧ t.qps = s.qps ∧ t.hostMem = s.hostMem ∧ t.msix = toldAll s r.funcMask)) ∧
  (∀ (s : State) (c : Nat), c < Config.nCores → s.net = [] → s.bolts = [] →
    let at_ := Tab.get 0 s.probes c
    let near (n p : Nat) : Prop := p ∈ [1, 2, 3, 4, 5, 6, 7, 8] ∧ n < Config.nCores ∧ n ≠ c ∧ (s.router n).lost = false ∧
      hasPort (coreX n) (coreY n) p = true ∧ ∃ j, leave (coreX n) (coreY n) p = .at_ (.router (coreX c) (coreY c) j)
    (at_ = 0 ∨ s.time < at_ - 1 + 1000 → exec (.probeTimeout c) s = .next s) ∧
    (at_ ≠ 0 → at_ - 1 + 1000 ≤ s.time → ∃ t, exec (.probeTimeout c) s = .next t ∧ t.router c = { s.router c with lost := true } ∧
      (∀ n p, near n p → (t.router n).blocked p = true) ∧
      (∀ n, n ≠ c → (∀ p, ¬ near n p) → t.router n = s.router n) ∧
      t = { s with routers := t.routers, probes := Tab.erase s.probes c }))

/-! ## Loads -/

namespace Sys2Proof

/-- The bolt that a descriptor is for: on the admin queue the one it names, else its function's. -/
def boltOfDesc (s : State) (q : Nat) (d : BitVec 1024) : Option Nat :=
  if q = 0 then some (dfield d 2 1) else s.boltOfFunc (s.qp q).func

/-- A manifest of this kind that passes R232: well formed, its key enrolled, its signature right, its shard kinds allowed, and no
anchor against its complement. -/
structure Signed (s : State) (m : List Byte) (kind : Nat) : Prop where
  form : manifestFormOk m kind = true
  kinds : ∀ k ∈ mfShards m, if kind = 0 then 1 ≤ k.kind ∧ k.kind ≤ 3 else k.kind = 4
  enrolled : ∃ i, i < 8 ∧ (s.anchorSlot i).2.2 = true ∧ (s.anchorSlot i).1 = hashOf (mfKey m)
  anchors : ∀ i, i < 8 → (s.anchorSlot i).2.2 = true → (s.anchorSlot i).2.1 = ~~~(s.anchorSlot i).1
  signature : signatureOk (mfKey m) (m.drop (mfSigAt m)) (m.take (mfSigAt m)) = true

/-- A LOAD_MODEL in range for one engine (Table 10.7). -/
structure LoadDesc (d : BitVec 1024) (m : List Byte) : Prop where
  header : dOpcode d = 0x10 ∧ dHandle d = 0 ∧ dZeroBut d [(0, 30), (32, 16)] = true
  manifest : dfield d 24 4 = m.length ∧ 416 ≤ m.length ∧ m.length ≤ 4194592
  flags : dfield d 28 1 < 4
  alone : dfield d 29 1 = 1 ∧ dfield d 40 8 = 0

/-- Nothing else is loaded, and the load of bolt `b` has this record and epoch. -/
structure OneLoad (s : State) (b : Nat) (l : LoadRec) (e : EpochRec) : Prop where
  bolt : b < Config.nBolts
  only : s.bolts = [(b, s.bolt b)]
  load : (s.bolt b).load = some l
  epoch : (s.bolt b).other = some e
  noOps : (s.bolt b).ops = []
  noAdapters : s.adapters = []

/-- A queue that can take a completion now. -/
structure CanTell (s : State) (q : Nat) : Prop where
  enabled : (s.qp q).enabled = true
  noError : (s.qp q).error = false
  noneHeld : (s.qp q).held = []
  room : (s.qp q).unread < (s.qp q).cqSize
  writable : (s.func (s.qp q).func).writable = true
  quiet : cfgIrqEn (s.qp q).cfg = false

/-- The final of an operation that waited, on the queue of its descriptor: the entry and the queue pair; no other queue pair
changes. -/
def Told (s t : State) (f : FinOf) (status : Nat) (result : List Nat) : Prop :=
  let r := s.qp f.q
  let wrap := decide (r.cqTail + 1 = r.cqSize)
  t.hostMem = writeBytes s.hostMem (ringBase r.cq + 64 * r.cqTail)
    (cqeBytes { tag := f.tag, handle := f.handle, status := status, kind := 0, opcode := f.opcode, result := result } r.sqHead f.q
      r.cqPhase) ∧
  t.qp f.q = { r with
    openDescs := r.openDescs.filter fun n => n ≠ f.n
    cqTail := if wrap then 0 else r.cqTail + 1
    cqPhase := if wrap then !r.cqPhase else r.cqPhase
    unread := r.unread + 1, t0 := if r.pend = 0 then s.time else r.t0, pend := r.pend + 1 } ∧
  ∀ k, k ≠ f.q → t.qp k = s.qp k

/-- A harness message to an engine waits on the bundle that goes there (log entry 41); no other bundle changes. -/
def Asked (s t : State) (h peer what b id : Nat) (args : List Byte) : Prop :=
  t.bundle h = { s.bundle h with controls := (s.bundle h).controls ++
    [([3, what, peer, s.engineNo, b].map (BitVec.ofNat 8)) ++ leBytes 4 id ++ args] } ∧
  ∀ k, k ≠ h → t.bundle k = s.bundle k

/-- The first block of a port that is FREE_CLEAN. -/
def firstClean (r : PortRec) (j : Nat) : Prop := j < Config.creelBlocks ∧ r.owner j = .clean ∧ ∀ i, i < j → r.owner i ≠ .clean

end Sys2Proof

/-- R232, R234, R235, R239, R320: LOAD_MODEL of a package of one shard, and shards that arrive, fail or come too late. -/
def Obligations.LoadEffects : Prop :=
  (∀ (s : State) (q b : Nat) (d : BitVec 1024) (m : List Byte), Ready s q d → LoadDesc d m → boltOfDesc s q d = some b →
    b < Config.nBolts →
    let r := s.bolt b
    let no : List Nat := [0, 0, 0, 0, 255, 255, 255, 255]
    (r.st ∉ [.empty, .serving, .faulted] ∨ r.other.isSome = true ∨ r.load.isSome = true →
      Answers (.loadModel q d m []) s s q d 7 no) ∧
    (r.st = .empty → r.other = none → r.load = none → manifestFormOk m 0 = true →
      (∃ i, i < 8 ∧ (s.anchorSlot i).2.2 = true ∧ (s.anchorSlot i).1 = hashOf (mfKey m)) →
      (∀ i, i < 8 → (s.anchorSlot i).2.2 = true → (s.anchorSlot i).2.1 = ~~~(s.anchorSlot i).1) →
      signatureOk (mfKey m) (m.drop (mfSigAt m)) (m.take (mfSigAt m)) = false →
      Answers (.loadModel q d m []) s (alsoSent s 0x80703 0x1B 2 (1 + 2 * b)) q d 8 no) ∧
    (∀ k j, Signed s m 0 → mfPositions m = 1 → mfShards m = [k] → k.kind = 1 → bitAt k.uses 0 = true → k.length ≤ 4194304 →
      s.bolts = [(b, r)] → s.adapters = [] → r.st = .empty → r.current = none → r.other = none → r.load = none → r.mirrors = [] →
      r.retained = false → r.ops = [] → 1 ≤ r.resvPerPort → (s.port 0).state = 1 → (s.port 0).boltBlocks b = [] →
      firstClean (s.port 0) j → FuncsHear s →
      ∃ t, exec (.loadModel q d m []) s = .next t ∧ t.qp q = acceptedQp (s.qp q) ∧ (∀ x, x ≠ q → t.qp x = s.qp x) ∧
        boltIs s t b { r with
          st := .loading, drained := false, nextEpoch := if 65535 ≤ r.nextEpoch then 1 else r.nextEpoch + 1
          load := some { fin := finOfDesc s q d, epoch := r.nextEpoch, since := s.time, fit := [0] }
          other := some {
            num := r.nextEpoch, st := .loading, manifestHash := hashOf m, modelId := mfModel m, chain := [(s.engineNo, b)]
            resident := bitAt (dfield d 28 1) 0, noPlace := bitAt (dfield d 28 1) 1, mirror := [(0, j)]
            shards := [{ k with st := .inFlight, since := s.time }] } } ∧
        t.port 0 = { s.port 0 with owners := (t.port 0).owners } ∧
        (∀ x, (t.port 0).owner x = if x = j then .bolt b else (s.port 0).owner x) ∧ (∀ p, p ≠ 0 → t.port p = s.port p) ∧
        t.msix = toldAll s r.funcMask ∧
        t = { s with
          qps := t.qps, bolts := t.bolts, creel := t.creel, msix := t.msix, faults := { s.faults with onset := t.faults.onset } })) ∧
  (∀ (s : State) (b i : Nat) (l : LoadRec) (e : EpochRec), OneLoad s b l e → i < 65536 → i < e.shards.length → e.position = 0 →
    let r := s.bolt b
    let k := e.shard i
    let again : ShardRec := { k with attempts := k.attempts + 1, since := s.time }
    (∀ bytes : List Byte, k.st = .inFlight → bytes.length = k.length → (∀ x ∈ e.shards, x.st ≠ .waiting) →
      e.chain.length ≤ 1 → e.imageOk = false → (∃ x, x ≠ i ∧ x < e.shards.length ∧ (e.shard x).kind = 1 ∧
        bitAt (e.shard x).uses 0 = true ∧ (e.shard x).st = .inFlight) → k.fwd = false →
      ∀ blk rest, (e.mirror.filter fun x => x.1 = k.port).map (fun x => x.2) = blk :: rest → k.off + k.length ≤ 4194304 →
      let at_ := blk * 4194304 + k.off
      let wrote (t : State) : Prop := (∀ a, readByte (t.port k.port).mem a =
          if at_ ≤ a ∧ a < at_ + k.length then bytes.getD (a - at_) 0 else readByte (s.port k.port).mem a) ∧
        t.port k.port = { s.port k.port with
          mem := (t.port k.port).mem, ecc := (t.port k.port).ecc, rewrite := (t.port k.port).rewrite } ∧
        ∀ p, p ≠ k.port → t.port p = s.port p
      (hashOf bytes = k.hash → ∃ t, exec (.shardArrival b i bytes) s = .next t ∧ wrote t ∧
        boltIs s t b { r with other := some { e with shards := e.shards.set i { k with st := .verified } } } ∧
        t = { s with bolts := t.bolts, creel := t.creel }) ∧
      (hashOf bytes ≠ k.hash → k.attempts < 3 → ∃ t, exec (.shardArrival b i bytes) s = .next t ∧ wrote t ∧
        boltIs s t b { r with other := some { e with shards := e.shards.set i again } } ∧
        t = { alsoSent s 0x80703 0x1A 1 (i + (k.attempts <<< 22) + (b <<< 24)) with bolts := t.bolts, creel := t.creel })) ∧
    (k.st ≠ .inFlight ∨ s.time < k.since + 500000000 → exec (.shardAttemptTimeout b i) s = .next s) ∧
    (k.st = .inFlight → k.since + 500000000 ≤ s.time → k.attempts < 3 →
      exec (.shardAttemptTimeout b i) s = .next (s.setBolt b { r with other := some { e with shards := e.shards.set i again } })) ∧
    (k.st = .inFlight → k.since + 500000000 ≤ s.time → 3 ≤ k.attempts → r.st = .loading → CanTell s l.fin.q → FuncsHear s →
      e.chain.length ≤ 1 → e.placedDone = false → e.place = [] →
      ∃ t, exec (.shardAttemptTimeout b i) s = .next t ∧ (t.bolt b).st = .empty ∧ (t.bolt b).load = none ∧ (t.bolt b).other = none ∧
        Told s t l.fin 9 (natBytes 2 e.num ++ [0, 0] ++ natBytes 4 i) ∧ t.msix = toldAll s r.funcMask))

/-- R136, R137, R236, R238, R239: a placement, the commit of an epoch on one engine and along a chain, and a commit that no one
acknowledges. -/
def Obligations.CommitEffects : Prop :=
  ∀ (s : State) (b : Nat) (l : LoadRec) (e : EpochRec), OneLoad s b l e → e.position = 0 →
    let r := s.bolt b
    let id := e.manifestHash.toNat % 2 ^ 32
    (∀ c m, e.place = [[c]] → c < Config.nCores → e.placedDone = false → (s.core c).st = .idle → s.thermal.stopAt = none →
      (∀ k ∈ e.shards, k.st = .verified) → s.imageOf e = some m → imPlaces m e.shape = [] → imRelocs m e.shape = [] → e.kvGeom = [] →
      e.extents = [] → l.ready = [] → r.retained = false → (∀ p, p < Config.nPorts → (s.port p).ecc = []) →
      let x := imCore m e.shape 0 0
      let arb := BitVec.ofNat 16 (x.arb + (x.yield_ <<< 8))
      ∃ t, exec (.placementDone b) s = .next t ∧
        t.core c = { s.core c with
          stores := segsInto m x {}, freqTarget := x.freq, arbSh := arb, arb := arb, startBundle := x.start, scrubKeep := []
          frameMapSh := 0, frameMap := 0, frameGeomSh := 0, frameGeom := 0 } ∧
        (∀ k, k ≠ c → t.core k = s.core k) ∧
        (t.skein (skeinOf c)).allowance = BitVec.ofNat 10 ((imShape m e.shape).getD 0 (0, 0, 0)).2.1 ∧
        (t.skein (skeinOf c)).burst = BitVec.ofNat 10 ((imShape m e.shape).getD 0 (0, 0, 0)).2.2 ∧
        (∀ k, k ≠ skeinOf c → t.skein k = s.skein k) ∧
        boltIs s t b { r with
          mirrors := [], other := some { e with placedDone := true }, load := some { l with ready := [0] } } ∧
        t = { s with bolts := t.bolts, cores := t.cores, skeins := t.skeins, fields := t.fields }) ∧
    (∀ c, l.committing = false → l.ready = [0] → e.chain = [(s.engineNo, b)] → r.st = .loading → e.place = [[c]] →
      (s.core c).st = .idle → e.fwd = [] → l.epoch = e.num → CanTell s l.fin.q → FuncsHear s →
      ∃ t, exec (.epochCommit b) s = .next t ∧ Told s t l.fin 0 (natBytes 2 e.num ++ [0, 0, 255, 255, 255, 255]) ∧
        (t.bolt b).st = .serving ∧ (t.bolt b).current = some { e with st := .current } ∧ (t.bolt b).other = none ∧
        (t.bolt b).load = none ∧ (t.bolt b).pickTimeout = (if e.pickTimeout = 0 then 50 else min e.pickTimeout 1000) ∧
        (∀ k, k ≠ b → t.bolt k = s.bolt k) ∧ (t.core c).st = .run ∧ (t.core c).pc = (s.core c).startBundle ∧
        (t.core c).discard = false ∧ (t.core c).stores = (s.core c).stores ∧ (∀ k, k ≠ c → t.core k = s.core k) ∧
        t.msix = toldAll s r.funcMask ∧
        t = { s with
          bolts := t.bolts, cores := t.cores, skeins := t.skeins, qps := t.qps, hostMem := t.hostMem, msix := t.msix }) ∧
    (∀ peer x h, e.chain = [(s.engineNo, b), (peer, x)] → peer < 64 → peer ≠ s.engineNo → x < 8 → s.hopOf peer = some h →
      (l.committing = false → l.ready = [0, 1] →
        ∃ t, exec (.epochCommit b) s = .next t ∧ Asked s t h peer 4 x id [] ∧
          boltIs s t b { r with load := some { l with
            committing := true, acked := [0], sentAt := Tab.put 0 l.sentAt 1 (s.time + 1) } } ∧
          t = { s with bolts := t.bolts, span := { s.span with bundles := t.span.bundles } }) ∧
      (l.committing = true → l.acked = [0] → Tab.get 0 l.sentAt 1 ≠ 0 →
        let at_ := Tab.get 0 l.sentAt 1 - 1
        (s.time < at_ + 500000000 → exec (.epochCommitTimeout b 1) s = .next s) ∧
        (at_ + 500000000 ≤ s.time → Tab.get 0 l.resends 1 < 3 →
          ∃ t, exec (.epochCommitTimeout b 1) s = .next t ∧ Asked s t h peer 4 x id [] ∧
            boltIs s t b { r with load := some { l with
              resends := Tab.put 0 l.resends 1 (Tab.get 0 l.resends 1 + 1), sentAt := Tab.put 0 l.sentAt 1 (s.time + 1) } } ∧
            t = { s with bolts := t.bolts, span := { s.span with bundles := t.span.bundles } }) ∧
        (at_ + 500000000 ≤ s.time → 3 ≤ Tab.get 0 l.resends 1 → r.st = .loading → e.place = [] → CanTell s l.fin.q →
          ∃ t, exec (.epochCommitTimeout b 1) s = .next t ∧ (t.bolt b).st = .empty ∧ (t.bolt b).load = none ∧
            (t.bolt b).other = none ∧ Told s t l.fin 9 (natBytes 2 e.num ++ [1, 0, 255, 255, 255, 255]) ∧
            Asked s t h peer 6 x id ([9, 1, 255, 255, 255, 255].map (BitVec.ofNat 8)))))

/-! ## Epochs -/

namespace Sys2Proof

/-- A descriptor about an epoch: its number in bytes 16–17, a flag in byte 18 (Table 10.7). -/
structure EpochDesc (d : BitVec 1024) (op n : Nat) (flag : Bool) : Prop where
  header : dOpcode d = op ∧ dHandle d = 0 ∧ dZeroBut d [(0, 19)] = true
  number : dfield d 16 2 = n ∧ 1 ≤ n
  flag : dfield d 18 1 = if flag then 1 else 0

/-- Nothing waits for bolt `b`: no request, adapter, load or operation. -/
structure NoWork (s : State) (b : Nat) : Prop where
  bolt : b < Config.nBolts
  noRequests : s.reqs = []
  noAdapters : s.adapters = []
  noLoad : (s.bolt b).load = none
  noMirrors : (s.bolt b).mirrors = []
  array : onArray (s.bolt b)

/-- An epoch on one core with one creel block, which no other epoch of the bolt shares. -/
structure OnSite (e : EpochRec) (c p j : Nat) : Prop where
  place : e.place = [[c]] ∧ e.placedDone = true
  core : c < Config.nCores
  block : e.mirror = [(p, j)] ∧ p < Config.nPorts
  noMore : e.fwd = [] ∧ e.extents = []

/-- What the free of that epoch leaves: its core scrubbed, its skein without allowance, its block FREE_DIRTY (R242, R250). -/
def Freed (s t : State) (c p j : Nat) : Prop :=
  t.core c = CoreRec.enterScrub { s.core c with scrubKeep := [] } ∧ (∀ k, k ≠ c → t.core k = s.core k) ∧
  t.skein (skeinOf c) = { s.skein (skeinOf c) with
    allowance := 0, allowanceInv := 0x3FF, burst := 0, burstInv := 0x3FF, allowCopy := 0, burstCopy := 0, mismatchReported := false } ∧
  (∀ k, k ≠ skeinOf c → t.skein k = s.skein k) ∧
  t.port p = { s.port p with owners := (t.port p).owners } ∧
  (∀ x, (t.port p).owner x = if x = j then .dirty else (s.port p).owner x) ∧ (∀ k, k ≠ p → t.port k = s.port k)

/-- The bolt without what epoch `n` had: its regions' state and its slots. -/
def without (r : BoltRec) (e : EpochRec) : BoltRec :=
  { r with
    regions := r.regions.filter fun g => decide (g.1 / 256 ≠ e.num), slots := r.slots.filter fun k => !e.slotNos.contains k.1 }

end Sys2Proof

/-- R239–R243: SWITCH_EPOCH, UNLOAD_MODEL and the free of an epoch that drains. -/
def Obligations.EpochEffects : Prop :=
  (∀ (s : State) (q b n : Nat) (d : BitVec 1024) (flag : Bool), Ready s q d → boltOfDesc s q d = some b → b < Config.nBolts →
    let r := s.bolt b
    let f := finOfDesc s q d
    let cur : List Nat := match r.current with
      | some e => [e.num % 256, e.num / 256]
      | none => []
    r.ops = [] →
    (EpochDesc d 0x13 n flag →
      (r.current.map (fun e => e.num) = some n → Answers (.switchEpoch q d) s s q d 0 (natBytes 2 n)) ∧
      (r.current.map (fun e => e.num) ≠ some n → ∀ o, r.other = some o → o.num = n →
        (o.st = .placed → Answers (.switchEpoch q d) s (s.setBolt b { r with ops := [.switchTo n f], unloading := false }) q d 0
          (natBytes 2 n)) ∧
        (o.st = .staged → flag = false → r.current.isSome = true →
          Opens (.switchEpoch q d) s (s.setBolt b { r with ops := [.switchTo n f], unloading := false }) q) ∧
        (o.st = .staged ∧ flag = true ∨ o.st = .loading ∨ o.st = .draining → Answers (.switchEpoch q d) s s q d 7 cur)) ∧
      (r.current.map (fun e => e.num) ≠ some n → r.other.map (fun e => e.num) ≠ some n →
        Answers (.switchEpoch q d) s s q d 7 cur)) ∧
    (EpochDesc d 0x14 n flag →
      (r.epochOf n = none → Answers (.unloadModel q d) s s q d 7 []) ∧
      (∀ e, r.current = some e → e.num = n → flag = true →
        ∃ t, exec (.unloadModel q d) s = .next t ∧ t.qp q = acceptedQp (s.qp q) ∧ (∀ k, k ≠ q → t.qp k = s.qp k) ∧
          boltIs s t b { r with unloading := true, ops := [.unload n true f] } ∧ t = { s with bolts := t.bolts, qps := t.qps }) ∧
      (∀ e p j, NoWork s b → FuncsHear s → r.current = some e → r.other = none → e.num = n → flag = false → e.place = [] →
        e.placedDone = false → e.mirror = [(p, j)] → p < Config.nPorts → e.fwd = [] → e.extents = [] → r.st = .serving →
        ∃ t, exec (.unloadModel q d) s = .next t ∧ t.qp q = answeredQp (s.qp q) s.time ∧ (∀ k, k ≠ q → t.qp k = s.qp k) ∧
          t.hostMem = writeBytes s.hostMem (ringBase (s.qp q).cq + 64 * (s.qp q).cqTail) (entryOf (s.qp q) q d 0 0 []) ∧
          boltIs s t b { without r e with
            st := .empty, current := none, unloading := false, pauses := [], drained := false, repairs := false
            timersSuspended := false } ∧
          coresAre s t r (fun k => { k with discard := false }) ∧ t.port p = { s.port p with owners := (t.port p).owners } ∧
          (∀ x, (t.port p).owner x = if x = j then .dirty else (s.port p).owner x) ∧ (∀ k, k ≠ p → t.port k = s.port k) ∧
          t.msix = toldAll s r.funcMask ∧
          t = { s with
            bolts := t.bolts, cores := t.cores, qps := t.qps, hostMem := t.hostMem, creel := t.creel, msix := t.msix
            span := { s.span with peer := t.span.peer, peerCopy := t.span.peerCopy } }) ∧
      (∀ e o c p j, NoWork s b → r.current = some e → e.num ≠ n → e.mirror = [] → e.fwd = [] → r.other = some o → o.num = n →
        o.st = .placed → OnSite o c p j → (s.core c).st = .idle →
        ∃ t, exec (.unloadModel q d) s = .next t ∧ t.qp q = answeredQp (s.qp q) s.time ∧ (∀ k, k ≠ q → t.qp k = s.qp k) ∧
          t.hostMem = writeBytes s.hostMem (ringBase (s.qp q).cq + 64 * (s.qp q).cqTail) (entryOf (s.qp q) q d 0 0 []) ∧
          boltIs s t b { without r o with other := none } ∧ Freed s t c p j ∧
          t = { s with
            bolts := t.bolts, cores := t.cores, qps := t.qps, hostMem := t.hostMem, creel := t.creel, skeins := t.skeins }))) ∧
  (∀ (s : State) (q b n m : Nat) (d : BitVec 1024) (flag : Bool) (e o : EpochRec) (g : FinOf), Ready s q d →
    boltOfDesc s q d = some b → b < Config.nBolts → (s.bolt b).current = some e → (s.bolt b).other = some o → e.num = n → o.num = m →
    n ≠ m → (s.bolt b).ops = [.switchTo m g] →
    (EpochDesc d 0x13 n flag → Answers (.switchEpoch q d) s s q d 0 (natBytes 2 n)) ∧
    (EpochDesc d 0x13 m flag → o.st = .placed → Answers (.switchEpoch q d) s s q d 0 (natBytes 2 m)) ∧
    (EpochDesc d 0x13 m flag → o.st = .staged → flag = true → Answers (.switchEpoch q d) s s q d 7 (natBytes 2 n)) ∧
    (EpochDesc d 0x13 m flag → o.st = .staged → flag = false → Opens (.switchEpoch q d) s (s.setBolt b { s.bolt b with
      ops := [.switchTo m g, .switchTo m (finOfDesc s q d)], unloading := false }) q) ∧
    (EpochDesc d 0x14 n flag → o.st = .staged → flag = true →
      ∃ t, exec (.unloadModel q d) s = .next t ∧ t.qp q = acceptedQp (s.qp q) ∧ (∀ k, k ≠ q → t.qp k = s.qp k) ∧
        boltIs s t b { s.bolt b with unloading := true, ops := [.switchTo m g, .unload n true (finOfDesc s q d)] } ∧
        t = { s with bolts := t.bolts, qps := t.qps })) ∧
  (∀ (s : State) (b : Nat) (e o : EpochRec), b < Config.nBolts → (s.bolt b).current = some e → (s.bolt b).other = some o →
    o.st = .draining →
    let r := s.bolt b
    (∀ i q, s.reqs = [(i, q)] → q.bolt = b → q.epoch = o.num → q.st ∈ [rqQueued, rqPrefill, rqDecode, rqHeld, rqDraining] →
      exec (.epochFree b) s = .next s) ∧
    (∀ c p j f, NoWork s b → e.num ≠ o.num → e.mirror = [] → e.fwd = [] → OnSite o c p j → (s.core c).st = .idle →
      r.ops = [.unload o.num true f] → CanTell s f.q →
      ∃ t, exec (.epochFree b) s = .next t ∧ Told s t f 0 [] ∧ boltIs s t b { without r o with other := none, ops := [] } ∧
        Freed s t c p j ∧
        t = { s with
          bolts := t.bolts, cores := t.cores, qps := t.qps, hostMem := t.hostMem, creel := t.creel, skeins := t.skeins }))

/-! ## Adapters and tuning -/

namespace Sys2Proof

/-- Bolt `b` alone holds anything, serves epoch `e` alone, and its pooled uses have no block. -/
structure Serves (s : State) (b : Nat) (e : EpochRec) : Prop where
  bolt : b < Config.nBolts
  only : s.bolts = [(b, s.bolt b)]
  epoch : (s.bolt b).current = some e ∧ (s.bolt b).other = none
  noLoad : (s.bolt b).load = none
  st : (s.bolt b).st = .serving

/-- A LOAD_ADAPTER in range (Table 10.7). -/
structure AdapterDesc (d : BitVec 1024) (m : List Byte) : Prop where
  header : dOpcode d = 0x11 ∧ dHandle d = 0 ∧ dZeroBut d [(0, 40)] = true ∧ dfield d 28 4 = 0
  manifest : dfield d 24 4 = m.length ∧ 416 ≤ m.length ∧ m.length ≤ 4194592

/-- Slot `k` holds the one adapter, with nothing under way. -/
structure OneAdapter (s : State) (b k : Nat) (a : AdapterRec) : Prop where
  slot : k < 256 ∧ s.adapters = [(k, a)]
  bolt : a.bolt = b
  loaded : a.loaded = true ∧ a.closed = false ∧ a.fin = none ∧ a.evict = none

/-- One block of a port goes from a bolt's pool to FREE_DIRTY. -/
def poolFreed (s t : State) (p j : Nat) : Prop :=
  t.port p = { s.port p with owners := (t.port p).owners } ∧
  (∀ x, (t.port p).owner x = if x = j then .dirty else (s.port p).owner x) ∧ ∀ k, k ≠ p → t.port k = s.port k

/-- A job block in range (Table 11.6): bytes 12–15 and 16–17, and its five FP32 fields. -/
def jobInRange (j : BitVec 512) : Prop :=
  1 ≤ bits j.toNat 96 32 ∧ 1 ≤ bits j.toNat 128 16 ∧ bits j.toNat 128 16 ≤ 256 ∧
  f32Lt 0 (bits j.toNat 160 32) = true ∧ (∀ o ∈ [192, 224], f32Le 0 (bits j.toNat o 32) = true ∧ f32Lt (bits j.toNat o 32) 0x3F800000 = true) ∧
  f32Lt 0 (bits j.toNat 256 32) = true ∧ f32Le 0 (bits j.toNat 288 32) = true ∧ bits j.toNat 320 192 = 0

/-- A tuning step after its passes, in the stream slot that it holds: the examples that it uses, what the forward pass saves, the
loss gradients and the row gradients (R225, R309). -/
def passed (u : TuneRec) (inp : TuneInput) (slot : Nat) : TuneRec :=
  { u with
    held := some slot
    batch := (List.range (bits u.job.toNat 128 16)).map fun i => (u.step * bits u.job.toNat 128 16 + i) % u.examples.length
    saved := inp.layers.map fun m => m.rows.map rowSaved
    lossGrads := (inp.logits.zip u.targets).map fun x => lossGradient u.targets.length x.2 x.1
    rowGrads := inp.layers.zipIdx.map fun m => m.1.rows.map fun r => rowBackward r (u.given m.2 m.1.tensors.length) }

/-- No layer's gradient triggers the watch (R192). -/
def Calm (e : EpochRec) (u : TuneRec) (inp : TuneInput) : Prop :=
  ∀ l, l < u.avgs.length →
    let m := inp.layers.getD l ⟨[], .leaf 0, [], []⟩
    normTrig (Config.jumpRatio e.manifestHash ((e.ofKind 0).getD l 0)).toNat (watchNorm (layerQ m)) (u.avgs.getD l 0).toNat = false ∧
      100 * u.satOf l m ≤ gradElements m

/-- FP32 values of BF16 ones. -/
def bf16Values (l : List Byte) : List F32 := (words2 l).map fun w => BitVec.ofNat 32 (w * 65536)

end Sys2Proof

/-- R232, R244–R246, R320: LOAD_ADAPTER, its shard, EVICT_ADAPTER and its end, and the placement of an adapter. -/
def Obligations.AdapterEffects : Prop :=
  (∀ (s : State) (q b : Nat) (d : BitVec 1024) (m : List Byte), Ready s q d → AdapterDesc d m → boltOfDesc s q d = some b →
    b < Config.nBolts →
    ((s.bolt b).current = none → Answers (.loadAdapter q d m) s s q d 7 []) ∧
    (∀ e, (s.bolt b).current = some e → Signed s m 1 → mfBase m ≠ e.modelId → Answers (.loadAdapter q d m) s s q d 7 []) ∧
    (∀ e x j, Serves s b e → Signed s m 1 → mfBase m = e.modelId → mfShards m = [x] → x.length = e.adapterBytes →
      1 ≤ x.length → x.length ≤ 4194304 → s.adapters = [] → s.reqs = [] → (s.bolt b).pool = [] → (s.bolt b).tune = none →
      1 ≤ (s.bolt b).resvPerPort → (s.port 0).state = 1 → (s.port 0).boltBlocks b = [] → firstClean (s.port 0) j →
      ∃ t, exec (.loadAdapter q d m) s = .next t ∧ t.qp q = acceptedQp (s.qp q) ∧ (∀ k, k ≠ q → t.qp k = s.qp k) ∧
        boltIs s t b { s.bolt b with pool := [(0, j)] } ∧
        t.adapter 0 = { bolt := b, baseId := mfBase m, modelId := mfModel m, fin := some (finOfDesc s q d)
                        shards := [{ x with st := .inFlight, since := s.time }] } ∧
        (∀ k, k ≠ 0 → t.adapter k = s.adapter k) ∧
        t.port 0 = { s.port 0 with owners := (t.port 0).owners } ∧
        (∀ x, (t.port 0).owner x = if x = j then .bolt b else (s.port 0).owner x) ∧ (∀ p, p ≠ 0 → t.port p = s.port p) ∧
        t = { s with qps := t.qps, bolts := t.bolts, adapters := t.adapters, creel := t.creel })) ∧
  (∀ (s : State) (b k : Nat) (a : AdapterRec) (x : ShardRec) (f : FinOf) (bytes : List Byte), b < Config.nBolts → k < 256 →
    s.adapters = [(k, a)] → a.bolt = b → a.fin = some f → a.shards = [x] → x.st = .inFlight → bytes.length = x.length →
    a.parts = [] → CanTell s f.q → (∀ n, (s.bolt n).load = none) → hashOf bytes = x.hash →
    ∃ t, exec (.shardArrival b (65536 * (k + 1)) bytes) s = .next t ∧ Told s t f 0 (natBytes 2 k) ∧
      t.adapter k = { a with fin := none, loaded := true, bytes := bytes, shards := [{ x with st := .verified }] } ∧
      (∀ n, n ≠ k → t.adapter n = s.adapter n) ∧
      t = { s with qps := t.qps, hostMem := t.hostMem, adapters := t.adapters }) ∧
  (∀ (s : State) (q b : Nat) (d : BitVec 1024), Ready s q d → dOpcode d = 0x12 → dHandle d = 0 → dZeroBut d [(0, 18)] = true →
    boltOfDesc s q d = some b →
    let k := dfield d 16 2
    let a := s.adapter k
    (k < 256 → a.loaded = true → a.closed = false → a.bolt = b →
      Opens (.evictAdapter q d) s (s.setAdapter k { a with closed := true, evict := some (finOfDesc s q d) }) q) ∧
    (256 ≤ k ∨ a.loaded = false ∨ a.closed = true ∨ a.bolt ≠ b → Answers (.evictAdapter q d) s s q d 7 [])) ∧
  (∀ (s : State) (b k p j : Nat) (a : AdapterRec) (f : FinOf), k < 256 → s.adapters = [(k, a)] → a.evict = some f → a.bolt = b →
    (∀ i r, s.reqs = [(i, r)] → r.bolt = b → r.adapterNo = some k → r.st ∈ [rqQueued, rqPrefill, rqDecode, rqHeld, rqDraining] →
      exec (.evictAdapterDone k) s = .next s) ∧
    (s.reqs = [] → (s.bolt b).tune = none → (s.bolt b).pool = [(p, j)] → p < Config.nPorts → CanTell s f.q →
      ∃ t, exec (.evictAdapterDone k) s = .next t ∧ Told s t f 0 [] ∧ boltIs s t b { s.bolt b with pool := [] } ∧
        t.adapter k = {} ∧ (∀ n, n ≠ k → t.adapter n = s.adapter n) ∧ poolFreed s t p j ∧
        t = { s with qps := t.qps, hostMem := t.hostMem, adapters := t.adapters, bolts := t.bolts, creel := t.creel })) ∧
  (∀ (s : State) (b k c i : Nat) (e : EpochRec) (g : AdapterGeom) (a : AdapterRec) (r : ReqRec), Serves s b e → OneAdapter s b k a →
    (s.reqs = [] → exec (.adapterPlaced k) s = .next s) ∧
    (s.reqs = [(i, r)] → r.st = rqQueued → r.bolt = b → r.adapterNo = some k → a.resident = false → a.damaged = false →
      e.placedDone = true → e.modelId = a.baseId → e.adapterGeom = [g] → 0 < g.frames → e.place.getD g.region [] = [c] →
      ∃ t, exec (.adapterPlaced k) s = .next t ∧ t.adapter k = { a with resident := true, frame := 0, used := s.time } ∧
        (∀ n, n ≠ k → t.adapter n = s.adapter n) ∧
        t.core c = { s.core c with
          stores := (s.core c).stores.write 0 g.frameBase g.frameBytes (leNat (a.bytes.take g.frameBytes)) } ∧
        (∀ n, n ≠ c → t.core n = s.core n) ∧ t = { s with adapters := t.adapters, cores := t.cores }))

/-- R192, R225, R249, R308, R309: TUNE_ADAPTER, the steps of a job, and the patrol of a bolt's mirrors. -/
def Obligations.TuneEffects : Prop :=
  (∀ (s : State) (q b : Nat) (d : BitVec 1024) (job : BitVec 512) (ex : List Byte), Ready s q d → dOpcode d = 0x30 → dHandle d = 0 →
    dZeroBut d [(0, 18), (20, 16)] = true → dfield d 32 4 = 64 → boltOfDesc s q d = some b →
    let k := dfield d 16 2
    (q = 0 → Answers (.tuneAdapter q d ⟨job, ex⟩) s s q d 7 []) ∧
    (q ≠ 0 → (s.adapter k).bolt ≠ b ∨ (s.adapter k).loaded = false ∨ (s.bolt b).tune.isSome = true ∨ dfield d 20 4 = 0 ∨
      bits job.toNat 320 192 ≠ 0 ∨ ex.length ≠ bits job.toNat 64 32 ∨ ex.length % 4 ≠ 0 ∨ (s.bolt b).current = none →
      Answers (.tuneAdapter q d ⟨job, ex⟩) s s q d 7 []) ∧
    (∀ e a x j l, q ≠ 0 → Serves s b e → OneAdapter s b k a → s.reqs = [] → (s.bolt b).tune = none → jobInRange job →
      jobExamples job ex = some l → 1 ≤ dfield d 20 4 → (s.port (k % 32)).state = 1 → (s.bolt b).pool = [(k % 32, j)] →
      a.shards = [x] → 0 < x.length → x.length + 12 * (words2 a.bytes).length ≤ 4194304 →
      ∃ t, exec (.tuneAdapter q d ⟨job, ex⟩) s = .next t ∧ t.qp q = acceptedQp (s.qp q) ∧ (∀ n, n ≠ q → t.qp n = s.qp n) ∧
        boltIs s t b { s.bolt b with tune := some {
          fin := finOfDesc s q d, slot := k, nsteps := dfield d 20 4, job := job, theta := bf16Values a.bytes, examples := l
          mo := List.replicate (words2 a.bytes).length 0, vv := List.replicate (words2 a.bytes).length 0
          avgs := List.replicate (e.ofKind 0).length 0xBF800000 } } ∧
        t = { s with qps := t.qps, bolts := t.bolts })) ∧
  (∀ (s : State) (b n : Nat) (e : EpochRec) (u : TuneRec) (inp : TuneInput) (a : AdapterRec), Serves s b e → OneAdapter s b u.slot a →
    (s.bolt b).tune = some u → e.slotNos = [n] → (s.bolt b).slots = [] → (s.bolt b).regions = [] →
    inp.layers.length = u.avgs.length → inp.logits.length = u.targets.length → inp.grads.length = u.theta.length →
    u.held = none ∨ u.held = some n →
    let r := { s.bolt b with slots := [(n, { tuning := true, rank := 512 })] }
    let v := s.serveOf b
    let u1 := passed u inp n
    (∀ x, u.avgs = [x] →
      let m := inp.layers.getD 0 ⟨[], .leaf 0, [], []⟩
      gradElements m < 100 * u.satOf 0 m →
      (u.replaying = false → exec (.tuneStep b inp) s = .next ((s.setBolt b { r with tune := some { u1 with replaying := true } }).setServeOf b
        { v with gradReplays := min (v.gradReplays + 1) (2 ^ 32 - 1) })) ∧
      (u.replaying = true → u.step + 1 < u.nsteps → ∃ t msg, exec (.tuneStep b inp) s = .next t ∧ msg.kind = 0x0C ∧ msg.severity = 2 ∧
        t.faults = { s.faults with inFlight := s.faults.inFlight ++ [msg] } ∧
        boltIs s t b { r with tune := some { u1 with
          discarded := u.discarded + 1, codes := some (nextCodes inp), step := u.step + 1, replaying := false } } ∧
        t.serveOf b = { v with gradDiscards := min (v.gradDiscards + 1) (2 ^ 32 - 1) } ∧
        t = { s with bolts := t.bolts, serve := t.serve, faults := t.faults })) ∧
    (Calm e u inp → a.resident = false →
      let new := (u.theta.zip (u.mo.zip (u.vv.zip inp.grads))).map fun x =>
        tuneParam u.job u.step x.1.toNat x.2.1.toNat x.2.2.1.toNat x.2.2.2.toNat
      let theta : List F32 := new.map fun x => BitVec.ofNat 32 x.1
      let values := roundFactors e (Config.freeWord s.free).toNat u.step theta
      (u.step + 1 < u.nsteps → ∃ t, exec (.tuneStep b inp) s = .next t ∧ t.adapter u.slot = { a with bytes := values } ∧
        boltIs s t b { r with tune := some { u1 with
          theta := theta, mo := new.map fun x => BitVec.ofNat 32 x.2.1, vv := new.map fun x => BitVec.ofNat 32 x.2.2
          avgs := (u.avgs.zip inp.layers).map fun x => BitVec.ofNat 32 (avgUpdate (watchNorm (layerQ x.2)) x.1.toNat)
          codes := some (nextCodes inp), applied := u.applied + 1, step := u.step + 1, replaying := false } } ∧
        t = { s with bolts := t.bolts, adapters := t.adapters, free := s.free + 1 }) ∧
      (u.step + 1 = u.nsteps → CanTell s u.fin.q → s.reqs = [] → a.shards = [] → (s.bolt b).pool = [] →
        ∃ t, exec (.tuneStep b inp) s = .next t ∧ Told s t u.fin 0 (natBytes 4 (u.applied + 1) ++ natBytes 4 u.discarded) ∧
          t.adapter u.slot = { a with bytes := values } ∧ boltIs s t b { s.bolt b with tune := none } ∧
          t = { s with
            bolts := t.bolts, adapters := t.adapters, qps := t.qps, hostMem := t.hostMem, free := s.free + 1 }))) ∧
  (∀ (s : State) (b p n blk : Nat) (e : EpochRec) (k : ShardRec), b < Config.nBolts → p < Config.nPorts →
    (s.bolt b).current = some e → e.shards = [k] → k.st = .verified → k.port = p → bitAt k.uses e.position = true → k.fwd = false →
    e.mirror = [(p, blk)] → k.off = 0 → 64 * n < k.length → k.length ≤ 4194304 → (∀ x, x ≠ p → (s.port x).ecc = []) →
    (s.port p).state = 1 → (s.port p).rewrite = [] →
    let r := s.port p
    let line := 65536 * blk + n
    (r.ecc = [] → exec (.mirrorPatrol b) s = .next s) ∧
    (r.ecc = [(line, 1)] → exec (.mirrorPatrol b) s = .next
      (alsoSent (s.setPort p { r with corrected := min (r.corrected + 1) 65535, rewrite := [line] })
        (0x80000 + p) 0x10 1 (p + (line <<< 5)))) ∧
    (r.ecc = [(line, 2)] → r.owner blk = .bolt b → k.kind = 1 → k.lost = [] → (s.bolt b).other = none → (s.bolt b).mirrors = [] →
      64 * n + 64 ≤ k.length → ∃ t, exec (.mirrorPatrol b) s = .next t ∧
        boltIs s t b { s.bolt b with current := some { e with
          shards := [{ k with st := .damaged, lost := [(64 * n, 32), (64 * n + 32, 32)] }] } } ∧
        t = { alsoSent (s.setPort p { r with
            uncorrected := min (r.uncorrected + 1) 255, last := line, valid := true
            uncorrTimes := s.time :: r.uncorrTimes.filter fun t => decide (s.time < t + 3600000000000) })
          (0x80000 + p) 0x11 2 (p + (line <<< 5)) with bolts := t.bolts }))

/-! ## Requests -/

namespace Sys2Proof

/-- The descriptor's handle names entry `i`, a request of the same function with a good key word and no open CONTINUE. -/
structure Names (s : State) (q : Nat) (d : BitVec 1024) (i : Nat) : Prop where
  pair : q ≠ 0
  bolt : (boltOfDesc s q d).isSome = true
  index : i < Config.nRequests
  gen : (s.req i).gen < 65536
  handle : dHandle d = i + 65536 * (s.req i).gen
  taken : (s.req i).st ≠ rqFree
  func : (s.req i).func = (s.qp q).func
  key : (s.req i).keyOk = true
  noIntake : (s.req i).intake = none

/-- The handle names no request of the queue pair's function, and meets no bad key word and no open CONTINUE (R267). -/
def Unnamed (s : State) (q : Nat) (d : BitVec 1024) : Prop :=
  let r := s.req (dHandle d % 16384)
  r.keyOk = true ∧ r.intake = none ∧
  (q = 0 ∨ boltOfDesc s q d = none ∨ dHandle d / 16384 % 4 ≠ 0 ∨ r.st = rqFree ∨ r.gen ≠ dHandle d / 65536 ∨
    r.func ≠ (s.qp q).func)

/-- The command ends entry `i`, which is FREE with its generation kept; no other entry changes. -/
def FreesEntry (s t : State) (i : Nat) : Prop :=
  t.req i = { ({} : ReqRec) with gen := (s.req i).gen } ∧ ∀ k, k ≠ i → t.req k = s.req k

/-- One completion entry written on a queue pair, and its descriptor, if it ends one, no longer open. -/
def Wrote (s t : State) (q : Nat) (c : Cqe) : Prop :=
  let r := s.qp q
  t.hostMem = writeBytes s.hostMem (ringBase r.cq + 64 * r.cqTail) (cqeBytes c r.sqHead q r.cqPhase) ∧
  (t.qp q).unread = r.unread + 1 ∧
  (t.qp q).openDescs = (match c.finOf with
    | some x => r.openDescs.filter fun n => n ≠ x.2
    | none => r.openDescs) ∧
  ∀ k, k ≠ q → t.qp k = s.qp k

/-- The inputs of a descriptor are in range (R269, R290, R300, R303, R305): `l` are the prompt's tokens. -/
def InputsOk (e : EpochRec) (r : ReqRec) (k : Intake) (l : List Nat) (sampling grammar : List Byte) : Prop :=
  (k.inFmt ≠ 0 → ∀ w ∈ l, w < 2 ^ 18 ∧ w < e.serve.vocab) ∧ l.length + k.maxTokens ≤ 1048576 ∧
  (r.st = rqFree ∨ r.ctxLen + l.length < 1048576) ∧ samplingOk sampling = true ∧
  (grammar = [] ∧ k.grammarAddr = 0 ∨ grammarOk grammar e.serve.vocab e.serve.endIds = true)

/-- Request `i` is the only one of bolt `b`, every key word is good, and no operation waits on the bolt. -/
structure OneRequest (s : State) (b i : Nat) : Prop where
  bolt : b < Config.nBolts
  index : i < Config.nRequests
  only : s.boltReqs b = [i]
  own : (s.req i).bolt = b
  live : (s.req i).live = true
  keys : ∀ e ∈ s.reqs, e.2.keyOk = true
  noOps : (s.bolt b).ops = []

/-- Page `j` of a request in a region. -/
def pageAt (s : State) (i region j : Nat) : Option KvPage := (Tab.get {} (s.reqKv (s.req i)) region).pages[j]?

/-- The final completion of a turn as it is written (Table 10.8, Table 10.10). -/
def turnFinal (r : ReqRec) (i : Nat) : Cqe :=
  { tag := r.tag, handle := i + 65536 * r.gen, opcode := r.opcode, endReason := r.endReason, result := r.result
    status := if r.rebound then 0x0A else if 0 < r.warned then 0x0B else 0
    numericWarn := decide (0 < r.warned), finOf := r.finN.map fun n => (r.qp, n) }

end Sys2Proof

/-- R266–R272, R285–R288: GENERATE, CONTINUE, PAUSE, CANCEL and QUERY_REQ as descriptors. -/
def Obligations.RequestDescEffects : Prop :=
  (∀ (s : State) (q : Nat) (d : BitVec 1024), Ready s q d → dOpcode d = 1 →
    (∀ b e i, q ≠ 0 → boltOfDesc s q d = some b → s.bindEpoch b = some e → s.freeEntry = some i → generateOk d = true →
      s.adapterOk b e.modelId (if dfield d 68 2 < 256 then some (dfield d 68 2) else none) = true →
      let key : Word := BitVec.ofNat 64 (16 * b + 0xFFC00)
      Opens (.generate q d) s (s.setReq i { ({} : ReqRec) with
        key := key, keyInv := ~~~key, gen := (s.req i).gen
        intake := some (intakeOf ⟨q, (s.qp q).descNum, d, some b⟩ (s.qp q).func e.num s.time) }) q) ∧
    (q = 0 ∨ boltOfDesc s q d = none ∨ (∀ b, boltOfDesc s q d = some b → s.bindEpoch b = none) ∨ s.freeEntry = none ∨
      generateOk d = false → Answers (.generate q d) s s q d 7 [])) ∧
  (∀ (s : State) (q : Nat) (d : BitVec 1024), Ready s q d → Unnamed s q d →
    (dOpcode d = 2 → Answers (.cont q d) s s q d 7 []) ∧ (dOpcode d = 3 → Answers (.pause q d) s s q d 7 []) ∧
    (dOpcode d = 4 → Answers (.cancel q d) s s q d 7 []) ∧ (dOpcode d = 5 → Answers (.queryReq q d) s s q d 7 [])) ∧
  (∀ (s : State) (q : Nat) (d : BitVec 1024), q < Config.nQueuePairs →
    (s.req (dHandle d % 16384)).intake.isSome = true → (s.req (dHandle d % 16384)).st ≠ rqFree →
    exec (.cont q d) s = .next s) ∧
  ∀ (s : State) (q : Nat) (d : BitVec 1024) (i : Nat), Ready s q d → Names s q d i →
    let r := s.req i
    let ttl := dfield d 20 4
    let dead := { ({} : ReqRec) with gen := r.gen }
    (dOpcode d = 2 →
      let open_ := continueOk d = true ∧ (r.st = rqHeld ∨ r.st = rqParked ∨ r.st = rqAbsent) ∧ r.auto = false ∧
        s.adapterClosed r = false
      (open_ → Opens (.cont q d) s (s.setReq i { r with
        intake := some (intakeOf ⟨q, (s.qp q).descNum, d, boltOfDesc s q d⟩ r.func r.epoch s.time) }) q) ∧
      (¬ open_ → Answers (.cont q d) s s q d 7 [])) ∧
    (dOpcode d = 3 → dZeroBut d [(0, 17), (20, 4)] = true → dfield d 16 1 < 2 →
      (r.st = rqHeld → dfield d 16 1 = 0 → Answers (.pause q d) s s q d 0 []) ∧
      (r.st = rqHeld → dfield d 16 1 = 1 → Answers (.pause q d) s (s.setReq i { r.setSt rqParked with
        parking := true, expiry := if ttl ≠ 0 ∧ r.auto = false then r.pausedAt + 1000000 * ttl else r.expiry }) q d 0 []) ∧
      (r.st = rqPrefill ∨ r.st = rqDecode → ∃ t, exec (.pause q d) s = .next t ∧ (t.req i).st = rqDraining ∧
        (t.req i).endReason = 5 ∧ (t.req i).pauseTtl = ttl ∧
        ((t.req i).pausePark = dfield d 16 1 + 1 ∨ (t.req i).pausePark = 3)) ∧
      (¬ (r.st = rqHeld ∨ r.st = rqPrefill ∨ r.st = rqDecode) → Answers (.pause q d) s s q d 7 [])) ∧
    (dOpcode d = 4 → dZeroBut d [(0, 12)] = true →
      (r.st < 8 → CanTell s r.qp ∨ (s.qp r.qp).enabled = false → ∃ t, exec (.cancel q d) s = .next t ∧ t.req i = dead ∧
        (∀ k, k ≠ i → t.req k = s.req k) ∧ (r.qp ≠ q → t.qp q = answeredQp (s.qp q) s.time)) ∧
      (8 ≤ r.st → ∃ t, exec (.cancel q d) s = .next t ∧ t.req i = r.setSt rqCancelled ∧ (∀ k, k ≠ i → t.req k = s.req k) ∧
        ∀ c ∈ (t.qp r.qp).held, c.frees = some i → c.status = 4)) ∧
    (dOpcode d = 5 → dZeroBut d [(0, 12)] = true → Answers (.queryReq q d) s s q d 0
      ([r.st, r.bolt, r.prio, if r.keep then 1 else 0] ++ r.result ++
        natBytes 4 (if (r.st = rqHeld ∨ r.st = rqParked) ∧ r.expiry ≠ 0 then
          min ((r.expiry - s.time + 999999) / 1000000) 0xFFFFFFFF else 0xFFFFFFFF)))

/-- R223, R269, R277, R287–R297: inputs read, admission, slots and ranks, pause TTLs, the end of a turn, and parking. -/
def Obligations.ServingEffects : Prop :=
  (∀ (s : State) (i : Nat) (k : Intake) (prompt sampling grammar : List Byte), i < Config.nRequests → (s.req i).keyOk = true →
    (s.req i).intake = some k → k.read = false → prompt.length = k.inLen →
    sampling.length = (if k.sampleAddr = 0 then 0 else 256) → grammar.length = (if k.grammarAddr = 0 then 0 else k.grammarLen) →
    let r := s.req i
    let e := ((s.bolt r.bolt).epochOf k.epoch).getD {}
    let l := if k.inFmt = 0 then tokenize e.tokenShard prompt else words4 prompt
    (InputsOk e r k l sampling grammar → exec (.inputsRead i prompt sampling grammar) s = .next (s.setReq i { r with
      intake := some { k with read := true, prompt := l, sampling := sampling, grammar := grammar } })) ∧
    (¬ InputsOk e r k l sampling grammar → CanTell s k.fin.q → ∃ t, exec (.inputsRead i prompt sampling grammar) s = .next t ∧
      t.req i = (if r.st = rqFree then { ({} : ReqRec) with gen := r.gen } else { r with intake := none }) ∧
      (∀ j, j ≠ i → t.req j = s.req j) ∧ Told s t k.fin 7 [] ∧
      t = { s with reqs := t.reqs, qps := t.qps, hostMem := t.hostMem })) ∧
  (∀ (s : State) (b : Nat), b < Config.nBolts → s.power.pfSeen = true → exec (.admissionDecision b) s = .next s) ∧
  (∀ (s : State) (b i : Nat) (k : Intake) (e : EpochRec), OneRequest s b i → s.power.pfSeen = false → (s.req i).st = rqFree →
    (s.req i).intake = some k → k.read = true → s.bindEpoch b = some e → s.adapterOk b e.modelId k.adapter = true →
    (∀ t ∈ k.prompt, t < e.serve.vocab) → CanTell s k.fin.q →
    let r := s.req i
    let c := s.candOfIntake i k e
    let gen := r.gen % 65535 + 1
    let ok := s.memOk c && s.timeOk c
    let notice (status : Nat) : Cqe :=
      { tag := k.fin.tag, handle := i + 65536 * gen, status := status, kind := 1, opcode := k.fin.opcode, entry := true }
    (ok = true ∨ k.defer = true → ∃ t, exec (.admissionDecision b) s = .next t ∧ (t.req i).st = rqQueued ∧
      (t.req i).admitted = ok ∧ (t.req i).gen = gen ∧ (t.req i).intake = none ∧ (t.req i).func = k.func ∧
      (t.req i).prompt = k.prompt ∧ (t.req i).tag = k.fin.tag ∧ (t.req i).maxTokens = k.maxTokens ∧
      (t.req i).outAddr = k.outAddr ∧ (∀ j, j ≠ i → t.req j = s.req j) ∧ Wrote s t k.fin.q (notice (if ok then 0 else 3)) ∧
      t.serveOf b = (if ok then { s.serveOf b with admitted := min ((s.serveOf b).admitted + 1) 65535 }
        else { s.serveOf b with deferred := min ((s.serveOf b).deferred + 1) 65535 })) ∧
    (ok = false → k.defer = false → ∃ t, exec (.admissionDecision b) s = .next t ∧ FreesEntry s t i ∧
      Told s t k.fin (if s.memOk c then 2 else 1) [] ∧
      t.serveOf b = (if s.memOk c then { s.serveOf b with rejTime := min ((s.serveOf b).rejTime + 1) 65535 }
        else { s.serveOf b with rejMemory := min ((s.serveOf b).rejMemory + 1) 65535 }))) ∧
  (∀ (s : State) (b i : Nat), OneRequest s b i → s.power.pfSeen = false → (s.req i).slot = noSlot → (s.req i).intake = none →
    let r := s.req i
    (r.auto = true → r.st = rqHeld ∨ r.st = rqParked ∨ r.st = rqAbsent → r.rebound = false → s.adapterClosed r = false →
      s.memOk (s.candOfReq i) = true → s.timeOk (s.candOfReq i) = true → ∃ t, exec (.admissionDecision b) s = .next t ∧
        (t.req i).st = rqQueued ∧ (t.req i).auto = false ∧ (t.req i).admitted = true ∧ (t.req i).expiry = 0 ∧
        (t.req i).log = r.log ∧ (∀ j, j ≠ i → t.req j = s.req j) ∧
        t.serveOf b = { s.serveOf b with admitted := min ((s.serveOf b).admitted + 1) 65535 }) ∧
    (r.st = rqQueued → r.admitted = false → r.deadline ≠ 0 → r.deadline ≤ s.time → CanTell s r.qp → r.auto = false →
      ∃ t, exec (.admissionDecision b) s = .next t ∧ FreesEntry s t i ∧
        t.serveOf b = { s.serveOf b with rejTime := min ((s.serveOf b).rejTime + 1) 65535 })) ∧
  (∀ (s : State) (b i k : Nat), OneRequest s b i → (s.reqs.map fun e => e.1).Pairwise (· < ·) → (s.req i).st = rqQueued →
    (s.req i).admitted = true → (s.bolt b).st = .serving → s.adapterReady (s.req i) = true → k < noSlot →
    s.freeSlot b (s.reqEpoch (s.req i)) = some k → (s.reqEpoch (s.req i)).st = .current ∨ (s.reqEpoch (s.req i)).st = .draining →
    let r := s.req i
    ∃ t, exec (.slotRanking b) s = .next t ∧ (t.req i).st = rqPrefill ∧ (t.req i).slot = k ∧ (t.req i).save = none ∧
      ((t.bolt b).slotRec k).req = some i ∧ ((t.bolt b).slotRec k).rank = 0 ∧ ((t.bolt b).slotRec k).progress = s.time ∧
      ((t.bolt b).slotRec k).waiting = unitsFor k (s.reqEpoch r).chunk r.kvLen (r.log.length + r.prompt.length)) ∧
  (∀ (s : State) (b i j : Nat), b < Config.nBolts → (∀ e ∈ s.reqs, e.2.keyOk = true) → s.boltReqs b = [i, j] →
    (s.req i).waits = false → (s.req j).waits = false → (s.req i).slot ≠ noSlot → (s.req j).slot ≠ noSlot →
    (s.req i).slot ≠ (s.req j).slot →
    let behind := (s.req j).rankKey.lt (s.req i).rankKey
    ∃ t, exec (.slotRanking b) s = .next t ∧ t = { s with bolts := t.bolts } ∧
      (t.bolt b).slotRec (s.req i).slot = { (s.bolt b).slotRec (s.req i).slot with rank := if behind then 1 else 0 } ∧
      (t.bolt b).slotRec (s.req j).slot = { (s.bolt b).slotRec (s.req j).slot with rank := if behind then 0 else 1 } ∧
      ∀ n, n ≠ (s.req i).slot → n ≠ (s.req j).slot → (t.bolt b).slotRec n = (s.bolt b).slotRec n) ∧
  (∀ (s : State), (∀ e ∈ s.reqs, e.2.keyOk = true) →
    ((∀ e ∈ s.reqs, e.2.expired s.time = false) → exec .ttlCheck s = .next s) ∧
    ∀ i, (s.reqs.filter fun e => e.2.expired s.time) = [(i, s.req i)] → (s.req i).slot = noSlot → CanTell s (s.req i).qp →
      let r := s.req i
      ∃ t, exec .ttlCheck s = .next t ∧ t.req i = { r.setSt rqAbsent with
          pageList := [], save := none, kvLen := 0, reservedPages := 0, expiry := 0, parking := false } ∧
        (∀ j, j ≠ i → t.req j = s.req j) ∧
        Wrote s t r.qp { handle := i + (r.gen <<< 16), status := 5, kind := 2, opcode := r.opcode, entry := true } ∧
        t.serveOf r.bolt = { s.serveOf r.bolt with dropRequests := min ((s.serveOf r.bolt).dropRequests + 1) 65535 }) ∧
  (∀ (s : State) (i : Nat), i < Config.nRequests → (s.req i).keyOk = true → (s.req i).st = rqDraining → (s.req i).slot = noSlot →
    let r := s.req i
    let ms := if r.pauseTtl ≠ 0 then r.pauseTtl else if r.ttl ≠ 0 then r.ttl else (s.serveOf r.bolt).ttlDefault
    let s1 : State := { s with hostMem :=
      if r.openTurn && !r.fresh then writeBytes s.hostMem r.outAddr (r.header true) else s.hostMem }
    ((s.func r.func).writable = false ∨ r.undelivered ≠ [] → exec (.turnWritten i) s = .next s) ∧
    ((s.func r.func).writable = true → r.undelivered = [] → CanTell s r.qp →
      ∃ t, exec (.turnWritten i) s = .next t ∧ Wrote s1 t r.qp (turnFinal r i) ∧ (∀ j, j ≠ i → t.req j = s.req j) ∧
        (r.pausePark = 0 → t.req i = { ({} : ReqRec) with gen := r.gen }) ∧
        (r.pausePark = 1 ∨ r.pausePark = 2 → (t.req i).st = (if r.pausePark = 2 then rqParked else rqHeld) ∧
          (t.req i).openTurn = false ∧ (t.req i).pausedAt = s.time ∧ (t.req i).log = r.log ∧ (t.req i).save = r.save ∧
          (t.req i).expiry = if r.auto then 0 else s.time + 1000000 * ms) ∧
        (r.pausePark = 3 → (t.req i).st = rqAbsent ∧ (t.req i).openTurn = false ∧ (t.req i).reservedPages = 0 ∧
          (t.req i).expiry = 0 ∧ (t.req i).log = r.log))) ∧
  ∀ (s : State) (i : Nat), i < Config.nRequests → (s.req i).keyOk = true → (s.req i).st = rqParked → (s.req i).slot = noSlot →
    let r := s.req i
    (r.parking = false → exec (.parkComplete i) s = .next s) ∧
    (r.parking = true → (∀ c ch, ((s.core c).chan ch).state ≠ .miss) → (s.parkPages i).poolFits r.bolt = true →
      ∃ t, exec (.parkComplete i) s = .next t ∧ (t.req i).st = rqParked ∧ (t.req i).parking = false ∧
        (∀ j, j ≠ i → t.req j = s.req j) ∧
        (∀ region j, (pageAt t i region j).map (fun p => p.home) =
          (pageAt s i region j).map fun p => if p.home = .frame ∨ p.home = .both then .creel else p.home) ∧
        t = { s with reqs := t.reqs, bolts := t.bolts, creel := t.creel, cores := t.cores })

/-! ## The pipeline, the token unit and the harness's rings -/

namespace Sys2Proof

/-- Bolt `b` serves, and the region that `key` names is one of its running epoch `e`. -/
structure Works (s : State) (b key : Nat) (e : EpochRec) : Prop where
  boltNo : b < Config.nBolts
  serving : (s.bolt b).st = .serving
  running : (s.bolt b).running key = some e

/-- The command changes region `key` of bolt `b` to `g`, and no other region but those that `also` names. -/
def RegionIs (s t : State) (b key : Nat) (g : RegionRec) (also : Nat → Bool := fun _ => false) : Prop :=
  (t.bolt b).region key = g ∧ ∀ k, k ≠ key → also k = false → (t.bolt b).region k = (s.bolt b).region k

/-- A unit as it enters a region (R125, R186, R188). -/
def enteredUnit (e : EpochRec) (region : Nat) (u : Machine.PUnit) : Machine.PUnit :=
  { u with
    cur := 0, verdict := decide (e.kindOf region ≠ 0), out := [], inp := none, sat := 0, kept := [], waitFrom := none, gates := []
    owed := 0, pass := if e.kindOf region = 0 ∧ (e.kv? region).isSome then some 0 else none
    toks := u.toks.map fun t => { t with rerun := false } }

/-- The unit's stream will pick: its first mask admits a token (R304), and it is no synthetic pick. -/
def Picks (s : State) (b slot : Nat) : Prop :=
  ((s.bolt b).slotRec slot).synthetic = false ∧
  ∀ i, ((s.bolt b).slotRec slot).req = some i → (s.req i).noMask = false

/-- A finished unit stands in the region. -/
def HandsOut (s : State) (b key : Nat) (u : Machine.PUnit) : Prop :=
  ((s.bolt b).region key).job = none ∧ ((s.bolt b).region key).unit = some u ∧ u.verdict = true ∧ u.pass = none ∧ u.inp = none

/-- The region that a unit has left: empty, with the number of the chunk it handed out (R25). -/
def leftRegion (g : RegionRec) (u : Machine.PUnit) : RegionRec :=
  { g with unit := none, chunkOut := match u.kind with
    | .chunk k => Tab.put 0 g.chunkOut u.slot (k + 1)
    | .pick => g.chunkOut }

/-- What a slot's stream has in a region. -/
def kvAt (s : State) (b slot region : Nat) : KvRec := Tab.get {} ((s.bolt b).slotRec slot).kv region

/-- Request `i` runs in slot `slot` of bolt `b`, with a good key word. -/
structure RunsIn (s : State) (b slot i : Nat) : Prop where
  boltNo : b < Config.nBolts
  slotNo : slot < Config.maxSlots
  serving : (s.bolt b).st = .serving
  holder : ((s.bolt b).slotRec slot).req = some i
  key : (s.req i).keyOk = true
  inBolt : (s.req i).bolt = b
  inSlot : (s.req i).slot = slot

/-- A word of a harness core's request ring names page `j` of request `i` in a region of bolt `b` (R218, R219). -/
structure WordNames (s : State) (w : Word) (c b : Nat) (e : EpochRec) (g : KvGeom) (i : Nat) : Prop where
  owner : s.ownerOf c (bits w.toNat 4 8) = some (b, e)
  geometry : e.kv? (bits w.toNat 4 8) = some g
  stream : ((s.bolt b).slotRec (bits w.toNat 12 9)).req = some i

end Sys2Proof

/-- R20, R21, R25, R183–R190, R194, R197, R202, R301–R307: regions, units, verdicts, flushes, draws and acceptances. -/
def Obligations.PipelineEffects : Prop :=
  (∀ (s : State) (b key : Nat) (e : EpochRec), Works s b key e →
    let x := s.bolt b
    let g := x.region key
    (e.kindOf (key % 256) = 3 → ∀ inp,
      (∀ j rest, g.job = none → g.jobs = j :: rest → exec (.regionTakeUnit b key inp) s =
        .next (s.setBolt b (x.setRegion key { g with job := some j, jobs := rest }))) ∧
      (g.job.isSome = true ∨ g.jobs = [] → exec (.regionTakeUnit b key inp) s = .next s)) ∧
    (e.kindOf (key % 256) ≠ 3 → g.unit = none → ∀ u,
      (g.inbox = some u → e.stages.head? ≠ some (key % 256) →
        ∃ t, exec (.regionTakeUnit b key []) s = .next t ∧ t = { s with bolts := t.bolts } ∧
          RegionIs s t b key { g with inbox := none, unit := some (enteredUnit e (key % 256) u) } ∧
          (t.bolt b).slotRec u.slot = { x.slotRec u.slot with progress := s.time }) ∧
      (∀ rest, g.inbox = none → e.stages.head? = some (key % 256) → e.kv? (key % 256) = none → s.firstSlot b e = some u.slot →
        (x.slotRec u.slot).waiting = u :: rest →
        ∃ t, exec (.regionTakeUnit b key []) s = .next t ∧ t = { s with bolts := t.bolts } ∧
          RegionIs s t b key { g with unit := some (enteredUnit e (key % 256) u) } ∧
          (t.bolt b).slotRec u.slot = { x.slotRec u.slot with
            waiting := rest, chunksTaken := (x.slotRec u.slot).chunksTaken + 1, progress := s.time }))) ∧
  (∀ (s : State) (b key : Nat) (e : EpochRec) (u : Machine.PUnit), Works s b key e →
    let x := s.bolt b
    let g := x.region key
    (∀ j v, g.job = some j → j.home ≠ key → (x.region j.home).unit = some v → v.slot = j.slot →
      ∃ t, exec (.unitHandOut b key) s = .next t ∧ t = { s with bolts := t.bolts } ∧
        RegionIs s t b key { g with job := none } (fun k => decide (k = j.home)) ∧
        (t.bolt b).region j.home = { x.region j.home with unit := some { v with owed := v.owed - 1 } }) ∧
    (HandsOut s b key u → Picks s b u.slot →
      (∀ n, e.next (key % 256) u = some n →
        let h := x.region (e.num * 256 + n)
        (h.unit = none → h.inbox = none → ∃ t, exec (.unitHandOut b key) s = .next t ∧
          RegionIs s t b key (leftRegion g u) (fun k => decide (k = e.num * 256 + n)) ∧
          (t.bolt b).region (e.num * 256 + n) = { h with inbox := some u } ∧
          t = { s with bolts := t.bolts, cores := t.cores, reqs := t.reqs, serve := t.serve }) ∧
        (h.unit.isSome = true ∨ h.inbox.isSome = true → exec (.unitHandOut b key) s = .next s)) ∧
      (e.next (key % 256) u = none → u.lastOfInput = true →
        let here := (x.tops.filter fun k => e.slotNos.contains k).length
        (here < e.treeDepth → ∃ t, exec (.unitHandOut b key) s = .next t ∧ RegionIs s t b key (leftRegion g u) ∧
          (t.bolt b).tops = x.tops ++ [u.slot] ∧ ((t.bolt b).slotRec u.slot).tail = (x.slotRec u.slot).tail ++ [u] ∧
          ((t.bolt b).slotRec u.slot).chunksOut = (x.slotRec u.slot).chunksOut + 1) ∧
        (e.treeDepth ≤ here → exec (.unitHandOut b key) s = .next s)))) ∧
  (∀ (s : State) (b key : Nat) (e : EpochRec) (u : Machine.PUnit) (m : WatchSample), Works s b key e →
    ((s.bolt b).region key).unit = some u → e.kindOf (key % 256) = 0 → u.verdict = false → u.pass = none → u.inp = none →
    u.owed = 0 → u.cur < u.len →
    let r := key % 256
    let k := kvAt s b u.slot r
    let tok := u.toks.getD u.cur freshTok
    let even := (u.pos + u.cur) % 2 = 0
    let avg := (if even then k.avg1 else k.avg0).toNat
    let gate := match u.gates.getD u.cur none with
      | some x => x.2
      | none => (0, 0)
    let n := watchNorm (watchQ m (tok.e4m3 || tok.rerun) gate)
    let norm := normTrig (Config.jumpRatio e.manifestHash r).toNat n avg
    let sat := satTrig (decide (u.kind = .pick)) (Config.layerElements e.manifestHash r) (watchS m + u.sat)
    let h := e.harnessOf r
    let g := (s.bolt b).region key
    let word := watchWord g.watchSeq u.slot norm sat (tok.triggers + 1) (!decide (u.kind = .pick)) false (watchRatio n avg)
    (norm = false → sat = false → ∃ t, exec (.layerVerdict b key m) s = .next t ∧ t = { s with bolts := t.bolts } ∧
      RegionIs s t b key { g with unit := some { u with
        toks := u.toks.set u.cur { tok with rerun := false }, cur := u.cur + 1, verdict := decide (u.cur + 1 = u.len) } } ∧
      kvAt t b u.slot r = { k with
        avg0 := if even then BitVec.ofNat 32 (avgUpdate n avg) else k.avg0
        avg1 := if even then k.avg1 else BitVec.ofNat 32 (avgUpdate n avg)
        flushDue := if u.cur + 1 = u.len ∧ u.pos / 64 < (u.pos + u.len) / 64 then some k.pages.length else k.flushDue }) ∧
    (norm = true ∨ sat = true → tok.triggers < 2 → tok.rerun = false → tok.e4m3 = false →
      ((s.bolt b).slotRec u.slot).synthetic = false → ∃ t, exec (.layerVerdict b key m) s = .next t ∧
        t = { s with bolts := t.bolts, harness := t.harness } ∧
        RegionIs s t b key { g with
          watchSeq := (g.watchSeq + 1) % 65536
          unit := some { u with
            toks := u.toks.set u.cur { tok with triggers := tok.triggers + 1, e4m3 := decide (tok.triggers = 1), rerun := true }
            pass := if (e.kv? r).isSome then some u.cur else none, kept := [] } } ∧
        t.harn h = { s.harn h with mailbox := writeLE (s.harn h).mailbox (0x8000 + 64 * r + 8 * (g.watchSeq % 8)) 8 word } ∧
        ∀ k, k ≠ h → t.harn k = s.harn k)) ∧
  (∀ (s : State) (b key slot i f : Nat) (rest : List Nat) (e : EpochRec) (g : KvGeom), Works s b key e → RunsIn s b slot i →
    e.kv? (key % 256) = some g →
    let k := kvAt s b slot (key % 256)
    let full := k.bobbin.map fun h => h.take 64
    let num := (s.req i).pageList.getD k.pages.length 0
    (k.flushDue = none → exec (.bobbinFlush b key slot) s = .next s) ∧
    (k.flushDue.isSome = true → (∃ h ∈ k.bobbin, 64 ≤ h.length) → k.reserved = f :: rest →
      ∃ t, exec (.bobbinFlush b key slot) s = .next t ∧ kvAt t b slot (key % 256) = { k with
          reserved := rest, lastBf := full, bobbin := k.bobbin.map fun h => h.drop 64
          pages := k.pages ++ [(⟨.frame, num, f, full.map pageOf, s.time, false, none, 0⟩ : KvPage).sealed]
          flushDue := if (∃ h ∈ k.bobbin, 128 ≤ h.length) then some (k.pages.length + 1) else none } ∧
        t.serveOf b = { s.serveOf b with flushes := ((s.serveOf b).flushes + 1) % 2 ^ 32 } ∧
        t = { s with bolts := t.bolts, cores := t.cores, serve := t.serve })) ∧
  (∀ (s : State) (b slot i : Nat) (u : Machine.PUnit) (rest : List Machine.PUnit) (logits : List (Nat × F32)), RunsIn s b slot i →
    ((s.bolt b).slotRec slot).tail = u :: rest → ((s.bolt b).slotRec slot).drawn = none →
    let x := s.bolt b
    let v := (s.reqEpoch (s.req i)).serve.vocab
    let free := s.laneFree x.homeSide && s.laneTurn x.homeSide b slot
    let d := drawToken v (s.req i) logits ((s.req i).log.length + (s.req i).prompt.length)
    (free = true → (∀ y ∈ logits, y.1 < v) → (logits.map fun y => y.1).Nodup → exec (.tokenDraw b slot logits) s =
      .next (s.setBolt b (({ x with tops := x.tops.erase slot } : BoltRec).modSlot slot fun k =>
        { k with drawn := some (d.1, d.2 || (u.toks.getLastD freshTok).warn), tail := rest }))) ∧
    (free = false → exec (.tokenDraw b slot logits) s = .next s)) ∧
  ∀ (s : State) (b slot i id : Nat) (warn : Bool), RunsIn s b slot i → ((s.bolt b).slotRec slot).drawn = some (id, warn) →
    let r := s.req i
    let n := r.log.length + r.prompt.length
    let logged := r.logToken id
    let f := logged.release (s.reqEpoch r) id
    r.st = rqPrefill ∨ r.st = rqDecode → (s.setReq i logged).poolFits b = true →
    (f.reason = 0 → r.mask = none → r.undelivered = [] → (s.func r.func).writable = true →
      ∃ t, exec (.tokenAccept b slot) s = .next t ∧ (t.req i).st = rqDecode ∧ (t.req i).log = r.log ++ r.prompt ++ [id] ∧
        (t.req i).prompt = [] ∧ (t.req i).ctxLen = n + 1 ∧ (t.req i).kvLen = n ∧ (t.req i).turnTokens = r.turnTokens + 1 ∧
        (t.req i).withheld = f.withheld ∧ (t.req i).tLast = s.time ∧ ((t.bolt b).slotRec slot).drawn = none ∧
        ((t.bolt b).slotRec slot).waiting = [mkUnit slot .pick n 1 true] ∧ (∀ j, j ≠ i → t.req j = s.req j) ∧ t.qps = s.qps) ∧
    (f.reason ≠ 0 → ∃ t, exec (.tokenAccept b slot) s = .next t ∧ (t.req i).st = rqDraining ∧ (t.req i).endReason = f.reason ∧
      (t.req i).log = r.log ++ r.prompt ++ [id] ∧ t.qps = s.qps)

/-- R174, R190, R191, R211, R218, R219: the request ring, fetches, chain reports and watch rings of a harness core. -/
def Obligations.RingEffects : Prop :=
  (∀ (s : State) (h : Nat), h < Config.nHarness →
    let r := s.harn h
    (r.ring = [] → exec (.requestWord h) s = .next (s.setHarn h r)) ∧
    (r.fetches = [] → exec (.fetchRequest h) s = .next s) ∧ (r.reports = [] → exec (.chainReport h) s = .next s) ∧
    (∀ (w : Word) (c : Nat) (rest : List (Word × Nat)),
      (r.ring = (w, c) :: rest → exec (.requestWord h) s = .next (s.setHarn h
        (if w.toNat % 16 = 1 then { r with ring := rest, fetches := r.fetches ++ [(w, c)] }
        else if w.toNat % 16 = 2 then { r with ring := rest, reports := r.reports ++ [(w, c)] }
        else { r with ring := rest, badWords := r.badWords + 1 }))) ∧
      (s.ownerOf c (bits w.toNat 4 8) = none →
        (r.fetches = (w, c) :: rest → exec (.fetchRequest h) s = .next (s.setHarn h { r with fetches := rest })) ∧
        (r.reports = (w, c) :: rest → exec (.chainReport h) s = .next (s.setHarn h { r with reports := rest }))))) ∧
  (∀ (s : State) (h b c i : Nat) (w : Word) (rest : List (Word × Nat)) (e : EpochRec) (g : KvGeom) (p : KvPage),
    h < Config.nHarness → WordNames s w c b e g i →
    let r := s.harn h
    let j := bits w.toNat 21 24
    (r.fetches = (w, c) :: rest → pageAt s i g.region j = some p →
      (p.home = .frame ∨ p.home = .both → exec (.fetchRequest h) s = .next (s.setHarn h { r with fetches := rest })) ∧
      (∀ f, p.home = .creel → p.arrive = none → s.freeFrame b e g p.num = some f →
        ∃ t, exec (.fetchRequest h) s = .next t ∧
          (pageAt t i g.region j).map (fun x => (x.home, x.frame, x.arrive)) = some (.creel, f, some g.heads) ∧
          t.serveOf b = { s.serveOf b with demand := ((s.serveOf b).demand + 1) % 2 ^ 32 } ∧
          t.harn h = { r with fetches := rest } ∧ (∀ k, k ≠ h → t.harn k = s.harn k) ∧
          (t.core c).stores.read 1 0xB008 8 = 1 ∧ (t.core c).stores.read 1 0xB010 8 = 0xB040 ∧
          (t.core c).stores.read 1 0xB000 8 % 2 = 1)) ∧
    (∀ j n, r.reports = (w, c) :: rest → pageAt s i g.region j = some p → p.arrive = some (n + 1) →
      c ∈ e.pageCores g p.num →
      (∀ k x, k < j → pageAt s i g.region k = some x → x.arrive = none ∨ c ∉ e.pageCores g x.num) →
      (∀ k, (s.port k).ecc = []) → ((s.bolt b).region (e.num * 256 + g.region)).unit = none →
      ∃ t, exec (.chainReport h) s = .next t ∧
        (pageAt t i g.region j).map (fun x => (x.home, x.arrive)) =
          some (if n = 0 then (.both, none) else (p.home, some n)) ∧
        t.harn h = { r with reports := rest } ∧ (∀ k, k ≠ h → t.harn k = s.harn k) ∧
        t = { s with bolts := t.bolts, cores := t.cores, reqs := t.reqs, harness := t.harness })) ∧
  ∀ (s : State) (h b wc : Nat) (x : BoltRec) (e : EpochRec) (q : Nat × Nat), h < Config.nHarness → b < Config.nBolts →
    s.bolts = [(b, x)] → x.current = some e → x.other = none → e.regions = [q] → e.watch = [(wc, h)] →
    let r := s.harn h
    let g := x.region (e.num * 256)
    let seen := Tab.get 0 r.watchSeq (e.num * 256)
    let w := readLE r.mailbox (0x8000 + 8 * (seen % 8)) 8
    let count := bits w 27 2
    let v := s.serveOf b
    let rows := readLE r.mailbox 0xC000 8
    let grown := (rows + 2 ^ 64 - Tab.get 0 r.emptyRows 0) % 2 ^ 64
    seen < 65536 →
    (g.watchSeq = (seen + 1) % 65536 → grown = 0 → seen ∉ g.quiet → count < 3 →
      ∃ t, exec (.watchRingPoll h) s = .next t ∧ t.serveOf b = { v with
          triggers := Tab.put 0 v.triggers 0 (min (Tab.get 0 v.triggers 0 + 1) (2 ^ 24 - 1))
          lastRatio := Tab.put 0 v.lastRatio 0 (bits w 32 32)
          reruns := if count = 1 then (v.reruns + 1) % 2 ^ 32 else v.reruns
          escalations := if count = 2 then (v.escalations + 1) % 2 ^ 32 else v.escalations
          lost := min v.lost 65535 } ∧
        t = { alsoSent s wc 0x0B 1 (bits w 16 9 + (bits w 25 1 <<< 17) + (bits w 26 1 <<< 18) + (count <<< 19) +
          (bits w 29 1 <<< 21)) with bolts := t.bolts, serve := t.serve, harness := t.harness } ∧
        Tab.get 0 (t.harn h).watchSeq (e.num * 256) = g.watchSeq) ∧
    (g.watchSeq = seen → 0 < grown → grown < 2 ^ 28 →
      ∃ t, exec (.watchRingPoll h) s = .next t ∧
        t.serveOf b = { v with lost := min v.lost 65535, emptyRows := min (v.emptyRows + grown) (2 ^ 32 - 1) } ∧
        t = { alsoSent s wc 0x20 0 (grown <<< 8) with bolts := t.bolts, serve := t.serve, harness := t.harness } ∧
        Tab.get 0 (t.harn h).emptyRows 0 = rows)
end

