-- ==== Sys2Proof/Laws/Bits.lean ====
section
/-! SUPPORT. Packed fields read back: lanes of vector registers and accumulator groups. -/

namespace Sys2Proof.Machine

open Sys2Proof

theorem packFields_zero (w : Nat) (f : Nat → Nat) : packFields w 0 f = 0 := rfl

theorem packFields_succ (w n : Nat) (f : Nat → Nat) :
    packFields w (n + 1) f = packFields w n f + ((f n % 2 ^ w) <<< (w * n)) := by
  simp [packFields, List.range_succ, List.foldl_append]

/-- Packed fields fit their width. -/
theorem packFields_lt (w n : Nat) (f : Nat → Nat) : packFields w n f < 2 ^ (w * n) := by
  induction n with
  | zero => simp [packFields_zero]
  | succ n ih =>
    rw [packFields_succ, Nat.shiftLeft_eq, Nat.mul_succ, Nat.pow_add]
    have h : f n % 2 ^ w + 1 ≤ 2 ^ w := Nat.mod_lt _ (Nat.two_pow_pos w)
    calc packFields w n f + f n % 2 ^ w * 2 ^ (w * n) < 2 ^ (w * n) + f n % 2 ^ w * 2 ^ (w * n) := by omega
      _ = (f n % 2 ^ w + 1) * 2 ^ (w * n) := by ring
      _ ≤ 2 ^ w * 2 ^ (w * n) := Nat.mul_le_mul_right _ h
      _ = 2 ^ (w * n) * 2 ^ w := Nat.mul_comm _ _

/-- A packed field reads back. -/
theorem bits_packFields (w n : Nat) (f : Nat → Nat) (i : Nat) (h : i < n) :
    bits (packFields w n f) (w * i) w = f i % 2 ^ w := by
  induction n with
  | zero => omega
  | succ n ih =>
    rw [packFields_succ, Nat.shiftLeft_eq]
    simp only [bits, Nat.shiftRight_eq_div_pow] at ih ⊢
    rcases Nat.lt_or_ge i n with hi | hi
    · obtain ⟨k, hk⟩ : ∃ k, w * n = w * i + w + k := ⟨w * (n - i - 1), by
        have : n = i + 1 + (n - i - 1) := by omega
        conv_lhs => rw [this]
        ring⟩
      have e : f n % 2 ^ w * 2 ^ (w * n) = (f n % 2 ^ w * 2 ^ k * 2 ^ w) * 2 ^ (w * i) := by
        rw [hk, Nat.pow_add, Nat.pow_add]; ring
      rw [e, Nat.add_mul_div_right _ _ (Nat.two_pow_pos _), Nat.add_mul_mod_self_right, ih hi]
    · have hin : i = n := by omega
      subst hin
      rw [Nat.add_mul_div_right _ _ (Nat.two_pow_pos _), Nat.div_eq_of_lt (packFields_lt w i f), Nat.zero_add, Nat.mod_mod]

theorem tabulate_length {α : Type} (n : Nat) (f : Nat → α) : (tabulate n f).length = n := by simp [tabulate]

theorem tabulate_getD {α : Type} (n : Nat) (f : Nat → α) (d : α) (i : Nat) (h : i < n) : (tabulate n f).getD i d = f i := by
  simp [tabulate, List.getD, h]

/-- A lane of packed lanes. -/
theorem vlane_vpack (l : List Nat) (i : Nat) (h : i < l.length) (h32 : l.length ≤ 32) :
    vlane (vpack l) i = l.getD i 0 % 2 ^ 32 := by
  have hb : packFields 32 l.length (fun i => l.getD i 0) < 2 ^ 1024 :=
    lt_of_lt_of_le (packFields_lt _ _ _) (Nat.pow_le_pow_right (by decide) (by omega))
  rw [vlane, vpack, BitVec.toNat_ofNat, Nat.mod_eq_of_lt hb, bits_packFields 32 _ _ i h]

theorem tabulate_get? {α : Type} (n : Nat) (f : Nat → α) (i : Nat) (h : i < n) : (tabulate n f)[i]? = some (f i) := by
  rw [List.getElem?_eq_getElem (by rw [tabulate_length]; exact h)]
  simp [tabulate]

/-- A lane of packed lanes that are given by their numbers. -/
theorem vlane_of_get? (l : List Nat) (i v : Nat) (hl : l.length = 32) (h : l[i]? = some v) : vlane (vpack l) i = v % 2 ^ 32 := by
  have hi : i < l.length := by
    by_contra hc
    rw [List.getElem?_eq_none (by omega)] at h
    cases h
  rw [vlane_vpack l i hi (by omega), List.getD_eq_getElem?_getD, h]
  rfl

theorem vlanes_length (v : VReg) : (vlanes v).length = 32 := tabulate_length _ _

theorem vlanes_getD (v : VReg) (i : Nat) (h : i < 32) : (vlanes v).getD i 0 = vlane v i := tabulate_getD _ _ _ _ h

theorem vlanes_get? (v : VReg) (i : Nat) (h : i < 32) : (vlanes v)[i]? = some (vlane v i) := tabulate_get? _ _ _ h

end Sys2Proof.Machine
end

