-- ==== Sys2Proof/Laws/Tab.lean ====
section
/-! SUPPORT. Sparse tables and memories: reading after writing, the canonical form that every operation keeps, and what
an effect on a unit answers. -/

namespace Sys2Proof.Machine

open Sys2Proof

section tables

variable {α : Type}

/-- Reading the key that was placed. -/
theorem Tab.get_insert_self (d : α) (t : List (Nat × α)) (k : Nat) (v : α) : Tab.get d (Tab.insert t k v) k = v := by
  induction t with
  | nil => simp [Tab.insert, Tab.get]
  | cons e r ih =>
    obtain ⟨k', w⟩ := e
    simp only [Tab.insert]
    split
    · simp [Tab.get]
    · split
      · simp [Tab.get]
      · rename_i h1 h2
        simp [Tab.get, Ne.symm h2, ih]

/-- Reading another key than the one that was placed. -/
theorem Tab.get_insert_ne (d : α) (t : List (Nat × α)) (k j : Nat) (v : α) (h : j ≠ k) :
    Tab.get d (Tab.insert t k v) j = Tab.get d t j := by
  induction t with
  | nil => simp [Tab.insert, Tab.get, Ne.symm h]
  | cons e r ih =>
    obtain ⟨k', w⟩ := e
    simp only [Tab.insert]
    split
    · simp [Tab.get, Ne.symm h]
    · split
      · rename_i h1 h2
        subst h2
        simp [Tab.get, Ne.symm h]
      · simp only [Tab.get, ih]

theorem Tab.get_erase_self (d : α) (t : List (Nat × α)) (k : Nat) : Tab.get d (Tab.erase t k) k = d := by
  induction t with
  | nil => rfl
  | cons e r ih =>
    by_cases h : e.1 = k
    · simpa [Tab.erase, h] using ih
    · simpa [Tab.erase, Tab.get, h] using ih

theorem Tab.get_erase_ne (d : α) (t : List (Nat × α)) (k j : Nat) (h : j ≠ k) :
    Tab.get d (Tab.erase t k) j = Tab.get d t j := by
  induction t with
  | nil => rfl
  | cons e r ih =>
    obtain ⟨k', w⟩ := e
    by_cases hk : k' = k
    · subst hk
      have : Tab.erase ((k', w) :: r) k' = Tab.erase r k' := by simp [Tab.erase]
      rw [this, ih]; simp [Tab.get, Ne.symm h]
    · have : Tab.erase ((k', w) :: r) k = (k', w) :: Tab.erase r k := by simp [Tab.erase, hk]
      rw [this]; simp only [Tab.get, ih]

/-- A table after a write, read at the key written. -/
@[simp] theorem Tab.get_put_self [DecidableEq α] (d : α) (t : List (Nat × α)) (k : Nat) (v : α) : Tab.get d (Tab.put d t k v) k = v := by
  unfold Tab.put
  split
  · rename_i h; rw [Tab.get_erase_self, h]
  · exact Tab.get_insert_self d t k v

/-- A table after a write, read at any other key. -/
theorem Tab.get_put_ne [DecidableEq α] (d : α) (t : List (Nat × α)) (k j : Nat) (v : α) (h : j ≠ k) :
    Tab.get d (Tab.put d t k v) j = Tab.get d t j := by
  unfold Tab.put
  split
  · exact Tab.get_erase_ne d t k j h
  · exact Tab.get_insert_ne d t k j v h

theorem Tab.get_put [DecidableEq α] (d : α) (t : List (Nat × α)) (k j : Nat) (v : α) :
    Tab.get d (Tab.put d t k v) j = if j = k then v else Tab.get d t j := by
  split
  · rename_i h; subst h; simp
  · rename_i h; exact Tab.get_put_ne d t k j v h

/-! ## The canonical form -/

/-- Keys rise strictly, as a chain. -/
theorem Tab.sorted_iff (t : List (Nat × α)) : Tab.sorted t = true ↔ t.Pairwise (fun a b => a.1 < b.1) := by
  induction t with
  | nil => simp [Tab.sorted]
  | cons e r ih =>
    cases r with
    | nil => simp [Tab.sorted]
    | cons e' r' =>
      obtain ⟨k, v⟩ := e
      obtain ⟨k', v'⟩ := e'
      simp only [Tab.sorted, Bool.and_eq_true, decide_eq_true_eq, ih, List.pairwise_cons]
      constructor
      · rintro ⟨h, h1, h2⟩
        refine ⟨?_, h1, h2⟩
        intro a ha
        rcases List.mem_cons.1 ha with rfl | ha
        · exact h
        · exact lt_trans h (h1 a ha)
      · rintro ⟨h, h1, h2⟩
        exact ⟨h _ (List.mem_cons_self ..), h1, h2⟩

theorem Tab.mem_insert (t : List (Nat × α)) (k : Nat) (v : α) (e : Nat × α) (h : e ∈ Tab.insert t k v) :
    e = (k, v) ∨ e ∈ t := by
  induction t with
  | nil => simp [Tab.insert] at h; exact .inl h
  | cons a r ih =>
    obtain ⟨k', w⟩ := a
    simp only [Tab.insert] at h
    split at h
    · rcases List.mem_cons.1 h with h | h
      · exact .inl h
      · exact .inr h
    · split at h
      · rcases List.mem_cons.1 h with h | h
        · exact .inl h
        · exact .inr (List.mem_cons_of_mem _ h)
      · rcases List.mem_cons.1 h with h | h
        · exact .inr (h ▸ List.mem_cons_self ..)
        · rcases ih h with h | h
          · exact .inl h
          · exact .inr (List.mem_cons_of_mem _ h)

theorem Tab.insert_pairwise (t : List (Nat × α)) (k : Nat) (v : α) (h : t.Pairwise (fun a b => a.1 < b.1)) :
    (Tab.insert t k v).Pairwise (fun a b => a.1 < b.1) := by
  induction t with
  | nil => simp [Tab.insert]
  | cons a r ih =>
    obtain ⟨k', w⟩ := a
    rw [List.pairwise_cons] at h
    simp only [Tab.insert]
    split
    · rename_i hk
      rw [List.pairwise_cons]
      refine ⟨?_, List.pairwise_cons.2 h⟩
      intro e he
      rcases List.mem_cons.1 he with rfl | he
      · exact hk
      · exact lt_trans hk (h.1 e he)
    · split
      · rename_i hk; subst hk
        exact List.pairwise_cons.2 ⟨fun e he => h.1 e he, h.2⟩
      · rename_i h1 h2
        refine List.pairwise_cons.2 ⟨?_, ih h.2⟩
        intro e he
        rcases Tab.mem_insert r k v e he with rfl | he
        · show k' < k
          omega
        · exact h.1 e he

/-- A write keeps the canonical form. -/
theorem Tab.put_wf [DecidableEq α] (d : α) (t : List (Nat × α)) (k : Nat) (v : α) (h : Tab.wf d t = true) : Tab.wf d (Tab.put d t k v) = true := by
  simp only [Tab.wf, Bool.and_eq_true, List.all_eq_true, decide_eq_true_eq, Tab.sorted_iff] at h ⊢
  unfold Tab.put
  split
  · exact ⟨h.1.filter _, fun e he => h.2 e (List.mem_filter.1 he).1⟩
  · rename_i hv
    refine ⟨Tab.insert_pairwise t k v h.1, ?_⟩
    intro e he
    rcases Tab.mem_insert t k v e he with rfl | he
    · exact hv
    · exact h.2 e he

/-- Leaving entries out keeps the canonical form. -/
theorem Tab.filter_wf [DecidableEq α] (d : α) (t : List (Nat × α)) (p : Nat × α → Bool) (h : Tab.wf d t = true) : Tab.wf d (t.filter p) = true := by
  simp only [Tab.wf, Bool.and_eq_true, List.all_eq_true, decide_eq_true_eq, Tab.sorted_iff] at h ⊢
  exact ⟨h.1.filter _, fun e he => h.2 e (List.mem_filter.1 he).1⟩

end tables

/-! ## Memories -/

/-- Every memory operation keeps the canonical form. -/
theorem writeByte_wf (m : List Host.Cell) (a : Nat) (b : Byte) (h : Memory.wf m = true) : Memory.wf (writeByte m a b) = true :=
  Tab.put_wf 0 m a b h

theorem writeBytes_wf (l : List Byte) : ∀ (m : List Host.Cell) (a : Nat), Memory.wf m = true → Memory.wf (writeBytes m a l) = true := by
  induction l with
  | nil => intro m a h; exact h
  | cons b r ih => intro m a h; exact ih _ _ (writeByte_wf m a b h)

theorem writeLE_wf (m : List Host.Cell) (a n v : Nat) (h : Memory.wf m = true) : Memory.wf (writeLE m a n v) = true :=
  writeBytes_wf _ m a h

theorem clearRange_wf (m : List Host.Cell) (a n : Nat) (h : Memory.wf m = true) : Memory.wf (clearRange m a n) = true :=
  Tab.filter_wf 0 m _ h

/-- A byte after a byte was written. -/
theorem readByte_writeByte (m : List Host.Cell) (a j : Nat) (b : Byte) :
    readByte (writeByte m a b) j = if j = a then b else readByte m j := Tab.get_put 0 m a j b

/-- A byte outside the bytes written reads as before. -/
theorem readByte_writeBytes_out (l : List Byte) : ∀ (m : List Host.Cell) (a j : Nat), (j < a ∨ a + l.length ≤ j) →
    readByte (writeBytes m a l) j = readByte m j := by
  induction l with
  | nil => intro m a j _; rfl
  | cons b r ih =>
    intro m a j h
    simp only [List.length_cons] at h
    rw [writeBytes, ih _ _ _ (by omega), readByte_writeByte, if_neg (by omega)]

theorem leBytes_length : ∀ n v : Nat, (leBytes n v).length = n
  | 0, _ => rfl
  | n + 1, v => by simp [leBytes, leBytes_length n]

theorem readBytes_length (m : List Host.Cell) : ∀ (n a : Nat), (readBytes m a n).length = n
  | 0, _ => rfl
  | n + 1, a => by simp [readBytes, readBytes_length m n]

/-- The bytes written read back. -/
theorem readBytes_writeBytes (l : List Byte) : ∀ (m : List Host.Cell) (a : Nat),
    readBytes (writeBytes m a l) a l.length = l := by
  induction l with
  | nil => intro m a; rfl
  | cons b r ih =>
    intro m a
    simp only [List.length_cons, readBytes, writeBytes]
    rw [ih, readByte_writeBytes_out r _ (a + 1) a (by omega), readByte_writeByte, if_pos rfl]

theorem leNat_lt (l : List Byte) : leNat l < 2 ^ (8 * l.length) := by
  induction l with
  | nil => exact Nat.one_pos
  | cons b r ih =>
    have h2 := b.isLt
    have e : 2 ^ (8 * (b :: r).length) = 256 * 2 ^ (8 * r.length) := by
      rw [List.length_cons, Nat.mul_succ, Nat.pow_add, Nat.mul_comm]
    rw [leNat, e]
    omega

/-- A number read from `n` bytes fits them. -/
theorem readLE_lt (m : List Host.Cell) (a n : Nat) : readLE m a n < 2 ^ (8 * n) := by
  have := leNat_lt (readBytes m a n)
  rwa [readBytes_length] at this

/-! ## Outcomes -/

/-- An effect on a unit that the engine has answers a next state. -/
theorem onUnit_next (ok : Bool) (s : State) (f : State → State) (h : ok = true) : onUnit ok s f = .next (f s) := by
  simp [onUnit, h]

/-- An effect on a unit answers a next state exactly where the engine has the unit. -/
theorem onUnit_eq_next_iff (ok : Bool) (s t : State) (f : State → State) :
    onUnit ok s f = .next t ↔ ok = true ∧ t = f s := by
  cases ok <;> simp [onUnit, eq_comm]

end Sys2Proof.Machine
end

