-- ==== Sys2Proof/Laws/State.lean ====
section
/-! SUPPORT. What each replacement of a unit's record leaves: the record itself, every other unit of its kind, and every
other field of the state. -/

namespace Sys2Proof.Machine

open Sys2Proof

/-! ## `State.setCore` -/

@[simp] theorem State.setCore_core_self (s : State) (k : Nat) (r : CoreRec) : (s.setCore k r).core k = r := Tab.get_put_self _ _ _ _
theorem State.setCore_core_ne (s : State) (k j : Nat) (r : CoreRec) (h : j ≠ k) : (s.setCore k r).core j = s.core j :=
  Tab.get_put_ne _ _ _ _ _ h
theorem State.setCore_core (s : State) (k j : Nat) (r : CoreRec) : (s.setCore k r).core j = if j = k then r else s.core j :=
  Tab.get_put _ _ _ _ _
@[simp] theorem State.setCore_pending (s : State) (k : Nat) (r : CoreRec) : (s.setCore k r).pending = s.pending := rfl
@[simp] theorem State.setCore_time (s : State) (k : Nat) (r : CoreRec) : (s.setCore k r).time = s.time := rfl
@[simp] theorem State.setCore_free (s : State) (k : Nat) (r : CoreRec) : (s.setCore k r).free = s.free := rfl
@[simp] theorem State.setCore_routers (s : State) (k : Nat) (r : CoreRec) : (s.setCore k r).routers = s.routers := rfl
@[simp] theorem State.setCore_net (s : State) (k : Nat) (r : CoreRec) : (s.setCore k r).net = s.net := rfl
@[simp] theorem State.setCore_harness (s : State) (k : Nat) (r : CoreRec) : (s.setCore k r).harness = s.harness := rfl
@[simp] theorem State.setCore_tokenIn (s : State) (k : Nat) (r : CoreRec) : (s.setCore k r).tokenIn = s.tokenIn := rfl
@[simp] theorem State.setCore_aperture (s : State) (k : Nat) (r : CoreRec) : (s.setCore k r).aperture = s.aperture := rfl
@[simp] theorem State.setCore_selvRx (s : State) (k : Nat) (r : CoreRec) : (s.setCore k r).selvRx = s.selvRx := rfl
@[simp] theorem State.setCore_ctrlData (s : State) (k : Nat) (r : CoreRec) : (s.setCore k r).ctrlData = s.ctrlData := rfl
@[simp] theorem State.setCore_probes (s : State) (k : Nat) (r : CoreRec) : (s.setCore k r).probes = s.probes := rfl
@[simp] theorem State.setCore_bolts (s : State) (k : Nat) (r : CoreRec) : (s.setCore k r).bolts = s.bolts := rfl
@[simp] theorem State.setCore_adapters (s : State) (k : Nat) (r : CoreRec) : (s.setCore k r).adapters = s.adapters := rfl
@[simp] theorem State.setCore_serve (s : State) (k : Nat) (r : CoreRec) : (s.setCore k r).serve = s.serve := rfl
@[simp] theorem State.setCore_reqs (s : State) (k : Nat) (r : CoreRec) : (s.setCore k r).reqs = s.reqs := rfl
@[simp] theorem State.setCore_lowFree (s : State) (k : Nat) (r : CoreRec) : (s.setCore k r).lowFree = s.lowFree := rfl
@[simp] theorem State.setCore_keyMismatch (s : State) (k : Nat) (r : CoreRec) : (s.setCore k r).keyMismatch = s.keyMismatch := rfl
@[simp] theorem State.setCore_qps (s : State) (k : Nat) (r : CoreRec) : (s.setCore k r).qps = s.qps := rfl
@[simp] theorem State.setCore_funcs (s : State) (k : Nat) (r : CoreRec) : (s.setCore k r).funcs = s.funcs := rfl
@[simp] theorem State.setCore_hostMem (s : State) (k : Nat) (r : CoreRec) : (s.setCore k r).hostMem = s.hostMem := rfl
@[simp] theorem State.setCore_msix (s : State) (k : Nat) (r : CoreRec) : (s.setCore k r).msix = s.msix := rfl
@[simp] theorem State.setCore_lastRead (s : State) (k : Nat) (r : CoreRec) : (s.setCore k r).lastRead = s.lastRead := rfl
@[simp] theorem State.setCore_xram (s : State) (k : Nat) (r : CoreRec) : (s.setCore k r).xram = s.xram := rfl
@[simp] theorem State.setCore_xramColl (s : State) (k : Nat) (r : CoreRec) : (s.setCore k r).xramColl = s.xramColl := rfl
@[simp] theorem State.setCore_xramWord (s : State) (k : Nat) (r : CoreRec) : (s.setCore k r).xramWord = s.xramWord := rfl
@[simp] theorem State.setCore_badAccess (s : State) (k : Nat) (r : CoreRec) : (s.setCore k r).badAccess = s.badAccess := rfl
@[simp] theorem State.setCore_creel (s : State) (k : Nat) (r : CoreRec) : (s.setCore k r).creel = s.creel := rfl
@[simp] theorem State.setCore_links (s : State) (k : Nat) (r : CoreRec) : (s.setCore k r).links = s.links := rfl
@[simp] theorem State.setCore_span (s : State) (k : Nat) (r : CoreRec) : (s.setCore k r).span = s.span := rfl
@[simp] theorem State.setCore_skeins (s : State) (k : Nat) (r : CoreRec) : (s.setCore k r).skeins = s.skeins := rfl
@[simp] theorem State.setCore_fields (s : State) (k : Nat) (r : CoreRec) : (s.setCore k r).fields = s.fields := rfl
@[simp] theorem State.setCore_power (s : State) (k : Nat) (r : CoreRec) : (s.setCore k r).power = s.power := rfl
@[simp] theorem State.setCore_thermal (s : State) (k : Nat) (r : CoreRec) : (s.setCore k r).thermal = s.thermal := rfl
@[simp] theorem State.setCore_faults (s : State) (k : Nat) (r : CoreRec) : (s.setCore k r).faults = s.faults := rfl
@[simp] theorem State.setCore_ctSel (s : State) (k : Nat) (r : CoreRec) : (s.setCore k r).ctSel = s.ctSel := rfl
@[simp] theorem State.setCore_ctVal (s : State) (k : Nat) (r : CoreRec) : (s.setCore k r).ctVal = s.ctVal := rfl
@[simp] theorem State.setCore_ctPages (s : State) (k : Nat) (r : CoreRec) : (s.setCore k r).ctPages = s.ctPages := rfl
@[simp] theorem State.setCore_ledger (s : State) (k : Nat) (r : CoreRec) : (s.setCore k r).ledger = s.ledger := rfl
@[simp] theorem State.setCore_security (s : State) (k : Nat) (r : CoreRec) : (s.setCore k r).security = s.security := rfl
@[simp] theorem State.setCore_boot (s : State) (k : Nat) (r : CoreRec) : (s.setCore k r).boot = s.boot := rfl
@[simp] theorem State.setCore_unit_router (s : State) (k j : Nat) (r : CoreRec) : (s.setCore k r).router j = s.router j := rfl
@[simp] theorem State.setCore_unit_harn (s : State) (k j : Nat) (r : CoreRec) : (s.setCore k r).harn j = s.harn j := rfl
@[simp] theorem State.setCore_unit_bolt (s : State) (k j : Nat) (r : CoreRec) : (s.setCore k r).bolt j = s.bolt j := rfl
@[simp] theorem State.setCore_unit_adapter (s : State) (k j : Nat) (r : CoreRec) : (s.setCore k r).adapter j = s.adapter j := rfl
@[simp] theorem State.setCore_unit_serveOf (s : State) (k j : Nat) (r : CoreRec) : (s.setCore k r).serveOf j = s.serveOf j := rfl
@[simp] theorem State.setCore_unit_req (s : State) (k j : Nat) (r : CoreRec) : (s.setCore k r).req j = s.req j := rfl
@[simp] theorem State.setCore_unit_qp (s : State) (k j : Nat) (r : CoreRec) : (s.setCore k r).qp j = s.qp j := rfl
@[simp] theorem State.setCore_unit_func (s : State) (k j : Nat) (r : CoreRec) : (s.setCore k r).func j = s.func j := rfl
@[simp] theorem State.setCore_unit_port (s : State) (k j : Nat) (r : CoreRec) : (s.setCore k r).port j = s.port j := rfl
@[simp] theorem State.setCore_unit_link (s : State) (k j : Nat) (r : CoreRec) : (s.setCore k r).link j = s.link j := rfl
@[simp] theorem State.setCore_unit_skein (s : State) (k j : Nat) (r : CoreRec) : (s.setCore k r).skein j = s.skein j := rfl
@[simp] theorem State.setCore_unit_field (s : State) (k j : Nat) (r : CoreRec) : (s.setCore k r).field j = s.field j := rfl
@[simp] theorem State.setCore_unit_ctPage (s : State) (k j : Nat) (r : CoreRec) : (s.setCore k r).ctPage j = s.ctPage j := rfl
@[simp] theorem State.modCore_core_self (s : State) (k : Nat) (g : CoreRec → CoreRec) : (s.modCore k g).core k = g (s.core k) :=
  Tab.get_put_self _ _ _ _
theorem State.modCore_core_ne (s : State) (k j : Nat) (g : CoreRec → CoreRec) (h : j ≠ k) : (s.modCore k g).core j = s.core j :=
  Tab.get_put_ne _ _ _ _ _ h
@[simp] theorem State.modCore_pending (s : State) (k : Nat) (w : CoreRec → CoreRec) : (s.modCore k w).pending = s.pending := rfl
@[simp] theorem State.modCore_time (s : State) (k : Nat) (w : CoreRec → CoreRec) : (s.modCore k w).time = s.time := rfl
@[simp] theorem State.modCore_free (s : State) (k : Nat) (w : CoreRec → CoreRec) : (s.modCore k w).free = s.free := rfl
@[simp] theorem State.modCore_routers (s : State) (k : Nat) (w : CoreRec → CoreRec) : (s.modCore k w).routers = s.routers := rfl
@[simp] theorem State.modCore_net (s : State) (k : Nat) (w : CoreRec → CoreRec) : (s.modCore k w).net = s.net := rfl
@[simp] theorem State.modCore_harness (s : State) (k : Nat) (w : CoreRec → CoreRec) : (s.modCore k w).harness = s.harness := rfl
@[simp] theorem State.modCore_tokenIn (s : State) (k : Nat) (w : CoreRec → CoreRec) : (s.modCore k w).tokenIn = s.tokenIn := rfl
@[simp] theorem State.modCore_aperture (s : State) (k : Nat) (w : CoreRec → CoreRec) : (s.modCore k w).aperture = s.aperture := rfl
@[simp] theorem State.modCore_selvRx (s : State) (k : Nat) (w : CoreRec → CoreRec) : (s.modCore k w).selvRx = s.selvRx := rfl
@[simp] theorem State.modCore_ctrlData (s : State) (k : Nat) (w : CoreRec → CoreRec) : (s.modCore k w).ctrlData = s.ctrlData := rfl
@[simp] theorem State.modCore_probes (s : State) (k : Nat) (w : CoreRec → CoreRec) : (s.modCore k w).probes = s.probes := rfl
@[simp] theorem State.modCore_bolts (s : State) (k : Nat) (w : CoreRec → CoreRec) : (s.modCore k w).bolts = s.bolts := rfl
@[simp] theorem State.modCore_adapters (s : State) (k : Nat) (w : CoreRec → CoreRec) : (s.modCore k w).adapters = s.adapters := rfl
@[simp] theorem State.modCore_serve (s : State) (k : Nat) (w : CoreRec → CoreRec) : (s.modCore k w).serve = s.serve := rfl
@[simp] theorem State.modCore_reqs (s : State) (k : Nat) (w : CoreRec → CoreRec) : (s.modCore k w).reqs = s.reqs := rfl
@[simp] theorem State.modCore_lowFree (s : State) (k : Nat) (w : CoreRec → CoreRec) : (s.modCore k w).lowFree = s.lowFree := rfl
@[simp] theorem State.modCore_keyMismatch (s : State) (k : Nat) (w : CoreRec → CoreRec) : (s.modCore k w).keyMismatch = s.keyMismatch := rfl
@[simp] theorem State.modCore_qps (s : State) (k : Nat) (w : CoreRec → CoreRec) : (s.modCore k w).qps = s.qps := rfl
@[simp] theorem State.modCore_funcs (s : State) (k : Nat) (w : CoreRec → CoreRec) : (s.modCore k w).funcs = s.funcs := rfl
@[simp] theorem State.modCore_hostMem (s : State) (k : Nat) (w : CoreRec → CoreRec) : (s.modCore k w).hostMem = s.hostMem := rfl
@[simp] theorem State.modCore_msix (s : State) (k : Nat) (w : CoreRec → CoreRec) : (s.modCore k w).msix = s.msix := rfl
@[simp] theorem State.modCore_lastRead (s : State) (k : Nat) (w : CoreRec → CoreRec) : (s.modCore k w).lastRead = s.lastRead := rfl
@[simp] theorem State.modCore_xram (s : State) (k : Nat) (w : CoreRec → CoreRec) : (s.modCore k w).xram = s.xram := rfl
@[simp] theorem State.modCore_xramColl (s : State) (k : Nat) (w : CoreRec → CoreRec) : (s.modCore k w).xramColl = s.xramColl := rfl
@[simp] theorem State.modCore_xramWord (s : State) (k : Nat) (w : CoreRec → CoreRec) : (s.modCore k w).xramWord = s.xramWord := rfl
@[simp] theorem State.modCore_badAccess (s : State) (k : Nat) (w : CoreRec → CoreRec) : (s.modCore k w).badAccess = s.badAccess := rfl
@[simp] theorem State.modCore_creel (s : State) (k : Nat) (w : CoreRec → CoreRec) : (s.modCore k w).creel = s.creel := rfl
@[simp] theorem State.modCore_links (s : State) (k : Nat) (w : CoreRec → CoreRec) : (s.modCore k w).links = s.links := rfl
@[simp] theorem State.modCore_span (s : State) (k : Nat) (w : CoreRec → CoreRec) : (s.modCore k w).span = s.span := rfl
@[simp] theorem State.modCore_skeins (s : State) (k : Nat) (w : CoreRec → CoreRec) : (s.modCore k w).skeins = s.skeins := rfl
@[simp] theorem State.modCore_fields (s : State) (k : Nat) (w : CoreRec → CoreRec) : (s.modCore k w).fields = s.fields := rfl
@[simp] theorem State.modCore_power (s : State) (k : Nat) (w : CoreRec → CoreRec) : (s.modCore k w).power = s.power := rfl
@[simp] theorem State.modCore_thermal (s : State) (k : Nat) (w : CoreRec → CoreRec) : (s.modCore k w).thermal = s.thermal := rfl
@[simp] theorem State.modCore_faults (s : State) (k : Nat) (w : CoreRec → CoreRec) : (s.modCore k w).faults = s.faults := rfl
@[simp] theorem State.modCore_ctSel (s : State) (k : Nat) (w : CoreRec → CoreRec) : (s.modCore k w).ctSel = s.ctSel := rfl
@[simp] theorem State.modCore_ctVal (s : State) (k : Nat) (w : CoreRec → CoreRec) : (s.modCore k w).ctVal = s.ctVal := rfl
@[simp] theorem State.modCore_ctPages (s : State) (k : Nat) (w : CoreRec → CoreRec) : (s.modCore k w).ctPages = s.ctPages := rfl
@[simp] theorem State.modCore_ledger (s : State) (k : Nat) (w : CoreRec → CoreRec) : (s.modCore k w).ledger = s.ledger := rfl
@[simp] theorem State.modCore_security (s : State) (k : Nat) (w : CoreRec → CoreRec) : (s.modCore k w).security = s.security := rfl
@[simp] theorem State.modCore_boot (s : State) (k : Nat) (w : CoreRec → CoreRec) : (s.modCore k w).boot = s.boot := rfl
@[simp] theorem State.modCore_unit_router (s : State) (k j : Nat) (w : CoreRec → CoreRec) : (s.modCore k w).router j = s.router j := rfl
@[simp] theorem State.modCore_unit_harn (s : State) (k j : Nat) (w : CoreRec → CoreRec) : (s.modCore k w).harn j = s.harn j := rfl
@[simp] theorem State.modCore_unit_bolt (s : State) (k j : Nat) (w : CoreRec → CoreRec) : (s.modCore k w).bolt j = s.bolt j := rfl
@[simp] theorem State.modCore_unit_adapter (s : State) (k j : Nat) (w : CoreRec → CoreRec) : (s.modCore k w).adapter j = s.adapter j := rfl
@[simp] theorem State.modCore_unit_serveOf (s : State) (k j : Nat) (w : CoreRec → CoreRec) : (s.modCore k w).serveOf j = s.serveOf j := rfl
@[simp] theorem State.modCore_unit_req (s : State) (k j : Nat) (w : CoreRec → CoreRec) : (s.modCore k w).req j = s.req j := rfl
@[simp] theorem State.modCore_unit_qp (s : State) (k j : Nat) (w : CoreRec → CoreRec) : (s.modCore k w).qp j = s.qp j := rfl
@[simp] theorem State.modCore_unit_func (s : State) (k j : Nat) (w : CoreRec → CoreRec) : (s.modCore k w).func j = s.func j := rfl
@[simp] theorem State.modCore_unit_port (s : State) (k j : Nat) (w : CoreRec → CoreRec) : (s.modCore k w).port j = s.port j := rfl
@[simp] theorem State.modCore_unit_link (s : State) (k j : Nat) (w : CoreRec → CoreRec) : (s.modCore k w).link j = s.link j := rfl
@[simp] theorem State.modCore_unit_skein (s : State) (k j : Nat) (w : CoreRec → CoreRec) : (s.modCore k w).skein j = s.skein j := rfl
@[simp] theorem State.modCore_unit_field (s : State) (k j : Nat) (w : CoreRec → CoreRec) : (s.modCore k w).field j = s.field j := rfl
@[simp] theorem State.modCore_unit_ctPage (s : State) (k j : Nat) (w : CoreRec → CoreRec) : (s.modCore k w).ctPage j = s.ctPage j := rfl

/-! ## `State.setRouter` -/

@[simp] theorem State.setRouter_router_self (s : State) (k : Nat) (r : RouterRec) : (s.setRouter k r).router k = r := Tab.get_put_self _ _ _ _
theorem State.setRouter_router_ne (s : State) (k j : Nat) (r : RouterRec) (h : j ≠ k) : (s.setRouter k r).router j = s.router j :=
  Tab.get_put_ne _ _ _ _ _ h
theorem State.setRouter_router (s : State) (k j : Nat) (r : RouterRec) : (s.setRouter k r).router j = if j = k then r else s.router j :=
  Tab.get_put _ _ _ _ _
@[simp] theorem State.setRouter_pending (s : State) (k : Nat) (r : RouterRec) : (s.setRouter k r).pending = s.pending := rfl
@[simp] theorem State.setRouter_time (s : State) (k : Nat) (r : RouterRec) : (s.setRouter k r).time = s.time := rfl
@[simp] theorem State.setRouter_free (s : State) (k : Nat) (r : RouterRec) : (s.setRouter k r).free = s.free := rfl
@[simp] theorem State.setRouter_cores (s : State) (k : Nat) (r : RouterRec) : (s.setRouter k r).cores = s.cores := rfl
@[simp] theorem State.setRouter_net (s : State) (k : Nat) (r : RouterRec) : (s.setRouter k r).net = s.net := rfl
@[simp] theorem State.setRouter_harness (s : State) (k : Nat) (r : RouterRec) : (s.setRouter k r).harness = s.harness := rfl
@[simp] theorem State.setRouter_tokenIn (s : State) (k : Nat) (r : RouterRec) : (s.setRouter k r).tokenIn = s.tokenIn := rfl
@[simp] theorem State.setRouter_aperture (s : State) (k : Nat) (r : RouterRec) : (s.setRouter k r).aperture = s.aperture := rfl
@[simp] theorem State.setRouter_selvRx (s : State) (k : Nat) (r : RouterRec) : (s.setRouter k r).selvRx = s.selvRx := rfl
@[simp] theorem State.setRouter_ctrlData (s : State) (k : Nat) (r : RouterRec) : (s.setRouter k r).ctrlData = s.ctrlData := rfl
@[simp] theorem State.setRouter_probes (s : State) (k : Nat) (r : RouterRec) : (s.setRouter k r).probes = s.probes := rfl
@[simp] theorem State.setRouter_bolts (s : State) (k : Nat) (r : RouterRec) : (s.setRouter k r).bolts = s.bolts := rfl
@[simp] theorem State.setRouter_adapters (s : State) (k : Nat) (r : RouterRec) : (s.setRouter k r).adapters = s.adapters := rfl
@[simp] theorem State.setRouter_serve (s : State) (k : Nat) (r : RouterRec) : (s.setRouter k r).serve = s.serve := rfl
@[simp] theorem State.setRouter_reqs (s : State) (k : Nat) (r : RouterRec) : (s.setRouter k r).reqs = s.reqs := rfl
@[simp] theorem State.setRouter_lowFree (s : State) (k : Nat) (r : RouterRec) : (s.setRouter k r).lowFree = s.lowFree := rfl
@[simp] theorem State.setRouter_keyMismatch (s : State) (k : Nat) (r : RouterRec) : (s.setRouter k r).keyMismatch = s.keyMismatch := rfl
@[simp] theorem State.setRouter_qps (s : State) (k : Nat) (r : RouterRec) : (s.setRouter k r).qps = s.qps := rfl
@[simp] theorem State.setRouter_funcs (s : State) (k : Nat) (r : RouterRec) : (s.setRouter k r).funcs = s.funcs := rfl
@[simp] theorem State.setRouter_hostMem (s : State) (k : Nat) (r : RouterRec) : (s.setRouter k r).hostMem = s.hostMem := rfl
@[simp] theorem State.setRouter_msix (s : State) (k : Nat) (r : RouterRec) : (s.setRouter k r).msix = s.msix := rfl
@[simp] theorem State.setRouter_lastRead (s : State) (k : Nat) (r : RouterRec) : (s.setRouter k r).lastRead = s.lastRead := rfl
@[simp] theorem State.setRouter_xram (s : State) (k : Nat) (r : RouterRec) : (s.setRouter k r).xram = s.xram := rfl
@[simp] theorem State.setRouter_xramColl (s : State) (k : Nat) (r : RouterRec) : (s.setRouter k r).xramColl = s.xramColl := rfl
@[simp] theorem State.setRouter_xramWord (s : State) (k : Nat) (r : RouterRec) : (s.setRouter k r).xramWord = s.xramWord := rfl
@[simp] theorem State.setRouter_badAccess (s : State) (k : Nat) (r : RouterRec) : (s.setRouter k r).badAccess = s.badAccess := rfl
@[simp] theorem State.setRouter_creel (s : State) (k : Nat) (r : RouterRec) : (s.setRouter k r).creel = s.creel := rfl
@[simp] theorem State.setRouter_links (s : State) (k : Nat) (r : RouterRec) : (s.setRouter k r).links = s.links := rfl
@[simp] theorem State.setRouter_span (s : State) (k : Nat) (r : RouterRec) : (s.setRouter k r).span = s.span := rfl
@[simp] theorem State.setRouter_skeins (s : State) (k : Nat) (r : RouterRec) : (s.setRouter k r).skeins = s.skeins := rfl
@[simp] theorem State.setRouter_fields (s : State) (k : Nat) (r : RouterRec) : (s.setRouter k r).fields = s.fields := rfl
@[simp] theorem State.setRouter_power (s : State) (k : Nat) (r : RouterRec) : (s.setRouter k r).power = s.power := rfl
@[simp] theorem State.setRouter_thermal (s : State) (k : Nat) (r : RouterRec) : (s.setRouter k r).thermal = s.thermal := rfl
@[simp] theorem State.setRouter_faults (s : State) (k : Nat) (r : RouterRec) : (s.setRouter k r).faults = s.faults := rfl
@[simp] theorem State.setRouter_ctSel (s : State) (k : Nat) (r : RouterRec) : (s.setRouter k r).ctSel = s.ctSel := rfl
@[simp] theorem State.setRouter_ctVal (s : State) (k : Nat) (r : RouterRec) : (s.setRouter k r).ctVal = s.ctVal := rfl
@[simp] theorem State.setRouter_ctPages (s : State) (k : Nat) (r : RouterRec) : (s.setRouter k r).ctPages = s.ctPages := rfl
@[simp] theorem State.setRouter_ledger (s : State) (k : Nat) (r : RouterRec) : (s.setRouter k r).ledger = s.ledger := rfl
@[simp] theorem State.setRouter_security (s : State) (k : Nat) (r : RouterRec) : (s.setRouter k r).security = s.security := rfl
@[simp] theorem State.setRouter_boot (s : State) (k : Nat) (r : RouterRec) : (s.setRouter k r).boot = s.boot := rfl
@[simp] theorem State.setRouter_unit_core (s : State) (k j : Nat) (r : RouterRec) : (s.setRouter k r).core j = s.core j := rfl
@[simp] theorem State.setRouter_unit_harn (s : State) (k j : Nat) (r : RouterRec) : (s.setRouter k r).harn j = s.harn j := rfl
@[simp] theorem State.setRouter_unit_bolt (s : State) (k j : Nat) (r : RouterRec) : (s.setRouter k r).bolt j = s.bolt j := rfl
@[simp] theorem State.setRouter_unit_adapter (s : State) (k j : Nat) (r : RouterRec) : (s.setRouter k r).adapter j = s.adapter j := rfl
@[simp] theorem State.setRouter_unit_serveOf (s : State) (k j : Nat) (r : RouterRec) : (s.setRouter k r).serveOf j = s.serveOf j := rfl
@[simp] theorem State.setRouter_unit_req (s : State) (k j : Nat) (r : RouterRec) : (s.setRouter k r).req j = s.req j := rfl
@[simp] theorem State.setRouter_unit_qp (s : State) (k j : Nat) (r : RouterRec) : (s.setRouter k r).qp j = s.qp j := rfl
@[simp] theorem State.setRouter_unit_func (s : State) (k j : Nat) (r : RouterRec) : (s.setRouter k r).func j = s.func j := rfl
@[simp] theorem State.setRouter_unit_port (s : State) (k j : Nat) (r : RouterRec) : (s.setRouter k r).port j = s.port j := rfl
@[simp] theorem State.setRouter_unit_link (s : State) (k j : Nat) (r : RouterRec) : (s.setRouter k r).link j = s.link j := rfl
@[simp] theorem State.setRouter_unit_skein (s : State) (k j : Nat) (r : RouterRec) : (s.setRouter k r).skein j = s.skein j := rfl
@[simp] theorem State.setRouter_unit_field (s : State) (k j : Nat) (r : RouterRec) : (s.setRouter k r).field j = s.field j := rfl
@[simp] theorem State.setRouter_unit_ctPage (s : State) (k j : Nat) (r : RouterRec) : (s.setRouter k r).ctPage j = s.ctPage j := rfl
@[simp] theorem State.modRouter_router_self (s : State) (k : Nat) (g : RouterRec → RouterRec) : (s.modRouter k g).router k = g (s.router k) :=
  Tab.get_put_self _ _ _ _
theorem State.modRouter_router_ne (s : State) (k j : Nat) (g : RouterRec → RouterRec) (h : j ≠ k) : (s.modRouter k g).router j = s.router j :=
  Tab.get_put_ne _ _ _ _ _ h
@[simp] theorem State.modRouter_pending (s : State) (k : Nat) (w : RouterRec → RouterRec) : (s.modRouter k w).pending = s.pending := rfl
@[simp] theorem State.modRouter_time (s : State) (k : Nat) (w : RouterRec → RouterRec) : (s.modRouter k w).time = s.time := rfl
@[simp] theorem State.modRouter_free (s : State) (k : Nat) (w : RouterRec → RouterRec) : (s.modRouter k w).free = s.free := rfl
@[simp] theorem State.modRouter_cores (s : State) (k : Nat) (w : RouterRec → RouterRec) : (s.modRouter k w).cores = s.cores := rfl
@[simp] theorem State.modRouter_net (s : State) (k : Nat) (w : RouterRec → RouterRec) : (s.modRouter k w).net = s.net := rfl
@[simp] theorem State.modRouter_harness (s : State) (k : Nat) (w : RouterRec → RouterRec) : (s.modRouter k w).harness = s.harness := rfl
@[simp] theorem State.modRouter_tokenIn (s : State) (k : Nat) (w : RouterRec → RouterRec) : (s.modRouter k w).tokenIn = s.tokenIn := rfl
@[simp] theorem State.modRouter_aperture (s : State) (k : Nat) (w : RouterRec → RouterRec) : (s.modRouter k w).aperture = s.aperture := rfl
@[simp] theorem State.modRouter_selvRx (s : State) (k : Nat) (w : RouterRec → RouterRec) : (s.modRouter k w).selvRx = s.selvRx := rfl
@[simp] theorem State.modRouter_ctrlData (s : State) (k : Nat) (w : RouterRec → RouterRec) : (s.modRouter k w).ctrlData = s.ctrlData := rfl
@[simp] theorem State.modRouter_probes (s : State) (k : Nat) (w : RouterRec → RouterRec) : (s.modRouter k w).probes = s.probes := rfl
@[simp] theorem State.modRouter_bolts (s : State) (k : Nat) (w : RouterRec → RouterRec) : (s.modRouter k w).bolts = s.bolts := rfl
@[simp] theorem State.modRouter_adapters (s : State) (k : Nat) (w : RouterRec → RouterRec) : (s.modRouter k w).adapters = s.adapters := rfl
@[simp] theorem State.modRouter_serve (s : State) (k : Nat) (w : RouterRec → RouterRec) : (s.modRouter k w).serve = s.serve := rfl
@[simp] theorem State.modRouter_reqs (s : State) (k : Nat) (w : RouterRec → RouterRec) : (s.modRouter k w).reqs = s.reqs := rfl
@[simp] theorem State.modRouter_lowFree (s : State) (k : Nat) (w : RouterRec → RouterRec) : (s.modRouter k w).lowFree = s.lowFree := rfl
@[simp] theorem State.modRouter_keyMismatch (s : State) (k : Nat) (w : RouterRec → RouterRec) : (s.modRouter k w).keyMismatch = s.keyMismatch := rfl
@[simp] theorem State.modRouter_qps (s : State) (k : Nat) (w : RouterRec → RouterRec) : (s.modRouter k w).qps = s.qps := rfl
@[simp] theorem State.modRouter_funcs (s : State) (k : Nat) (w : RouterRec → RouterRec) : (s.modRouter k w).funcs = s.funcs := rfl
@[simp] theorem State.modRouter_hostMem (s : State) (k : Nat) (w : RouterRec → RouterRec) : (s.modRouter k w).hostMem = s.hostMem := rfl
@[simp] theorem State.modRouter_msix (s : State) (k : Nat) (w : RouterRec → RouterRec) : (s.modRouter k w).msix = s.msix := rfl
@[simp] theorem State.modRouter_lastRead (s : State) (k : Nat) (w : RouterRec → RouterRec) : (s.modRouter k w).lastRead = s.lastRead := rfl
@[simp] theorem State.modRouter_xram (s : State) (k : Nat) (w : RouterRec → RouterRec) : (s.modRouter k w).xram = s.xram := rfl
@[simp] theorem State.modRouter_xramColl (s : State) (k : Nat) (w : RouterRec → RouterRec) : (s.modRouter k w).xramColl = s.xramColl := rfl
@[simp] theorem State.modRouter_xramWord (s : State) (k : Nat) (w : RouterRec → RouterRec) : (s.modRouter k w).xramWord = s.xramWord := rfl
@[simp] theorem State.modRouter_badAccess (s : State) (k : Nat) (w : RouterRec → RouterRec) : (s.modRouter k w).badAccess = s.badAccess := rfl
@[simp] theorem State.modRouter_creel (s : State) (k : Nat) (w : RouterRec → RouterRec) : (s.modRouter k w).creel = s.creel := rfl
@[simp] theorem State.modRouter_links (s : State) (k : Nat) (w : RouterRec → RouterRec) : (s.modRouter k w).links = s.links := rfl
@[simp] theorem State.modRouter_span (s : State) (k : Nat) (w : RouterRec → RouterRec) : (s.modRouter k w).span = s.span := rfl
@[simp] theorem State.modRouter_skeins (s : State) (k : Nat) (w : RouterRec → RouterRec) : (s.modRouter k w).skeins = s.skeins := rfl
@[simp] theorem State.modRouter_fields (s : State) (k : Nat) (w : RouterRec → RouterRec) : (s.modRouter k w).fields = s.fields := rfl
@[simp] theorem State.modRouter_power (s : State) (k : Nat) (w : RouterRec → RouterRec) : (s.modRouter k w).power = s.power := rfl
@[simp] theorem State.modRouter_thermal (s : State) (k : Nat) (w : RouterRec → RouterRec) : (s.modRouter k w).thermal = s.thermal := rfl
@[simp] theorem State.modRouter_faults (s : State) (k : Nat) (w : RouterRec → RouterRec) : (s.modRouter k w).faults = s.faults := rfl
@[simp] theorem State.modRouter_ctSel (s : State) (k : Nat) (w : RouterRec → RouterRec) : (s.modRouter k w).ctSel = s.ctSel := rfl
@[simp] theorem State.modRouter_ctVal (s : State) (k : Nat) (w : RouterRec → RouterRec) : (s.modRouter k w).ctVal = s.ctVal := rfl
@[simp] theorem State.modRouter_ctPages (s : State) (k : Nat) (w : RouterRec → RouterRec) : (s.modRouter k w).ctPages = s.ctPages := rfl
@[simp] theorem State.modRouter_ledger (s : State) (k : Nat) (w : RouterRec → RouterRec) : (s.modRouter k w).ledger = s.ledger := rfl
@[simp] theorem State.modRouter_security (s : State) (k : Nat) (w : RouterRec → RouterRec) : (s.modRouter k w).security = s.security := rfl
@[simp] theorem State.modRouter_boot (s : State) (k : Nat) (w : RouterRec → RouterRec) : (s.modRouter k w).boot = s.boot := rfl
@[simp] theorem State.modRouter_unit_core (s : State) (k j : Nat) (w : RouterRec → RouterRec) : (s.modRouter k w).core j = s.core j := rfl
@[simp] theorem State.modRouter_unit_harn (s : State) (k j : Nat) (w : RouterRec → RouterRec) : (s.modRouter k w).harn j = s.harn j := rfl
@[simp] theorem State.modRouter_unit_bolt (s : State) (k j : Nat) (w : RouterRec → RouterRec) : (s.modRouter k w).bolt j = s.bolt j := rfl
@[simp] theorem State.modRouter_unit_adapter (s : State) (k j : Nat) (w : RouterRec → RouterRec) : (s.modRouter k w).adapter j = s.adapter j := rfl
@[simp] theorem State.modRouter_unit_serveOf (s : State) (k j : Nat) (w : RouterRec → RouterRec) : (s.modRouter k w).serveOf j = s.serveOf j := rfl
@[simp] theorem State.modRouter_unit_req (s : State) (k j : Nat) (w : RouterRec → RouterRec) : (s.modRouter k w).req j = s.req j := rfl
@[simp] theorem State.modRouter_unit_qp (s : State) (k j : Nat) (w : RouterRec → RouterRec) : (s.modRouter k w).qp j = s.qp j := rfl
@[simp] theorem State.modRouter_unit_func (s : State) (k j : Nat) (w : RouterRec → RouterRec) : (s.modRouter k w).func j = s.func j := rfl
@[simp] theorem State.modRouter_unit_port (s : State) (k j : Nat) (w : RouterRec → RouterRec) : (s.modRouter k w).port j = s.port j := rfl
@[simp] theorem State.modRouter_unit_link (s : State) (k j : Nat) (w : RouterRec → RouterRec) : (s.modRouter k w).link j = s.link j := rfl
@[simp] theorem State.modRouter_unit_skein (s : State) (k j : Nat) (w : RouterRec → RouterRec) : (s.modRouter k w).skein j = s.skein j := rfl
@[simp] theorem State.modRouter_unit_field (s : State) (k j : Nat) (w : RouterRec → RouterRec) : (s.modRouter k w).field j = s.field j := rfl
@[simp] theorem State.modRouter_unit_ctPage (s : State) (k j : Nat) (w : RouterRec → RouterRec) : (s.modRouter k w).ctPage j = s.ctPage j := rfl

/-! ## `State.setHarn` -/

@[simp] theorem State.setHarn_harn_self (s : State) (k : Nat) (r : HarnessRec) : (s.setHarn k r).harn k = r := Tab.get_put_self _ _ _ _
theorem State.setHarn_harn_ne (s : State) (k j : Nat) (r : HarnessRec) (h : j ≠ k) : (s.setHarn k r).harn j = s.harn j :=
  Tab.get_put_ne _ _ _ _ _ h
theorem State.setHarn_harn (s : State) (k j : Nat) (r : HarnessRec) : (s.setHarn k r).harn j = if j = k then r else s.harn j :=
  Tab.get_put _ _ _ _ _
@[simp] theorem State.setHarn_pending (s : State) (k : Nat) (r : HarnessRec) : (s.setHarn k r).pending = s.pending := rfl
@[simp] theorem State.setHarn_time (s : State) (k : Nat) (r : HarnessRec) : (s.setHarn k r).time = s.time := rfl
@[simp] theorem State.setHarn_free (s : State) (k : Nat) (r : HarnessRec) : (s.setHarn k r).free = s.free := rfl
@[simp] theorem State.setHarn_cores (s : State) (k : Nat) (r : HarnessRec) : (s.setHarn k r).cores = s.cores := rfl
@[simp] theorem State.setHarn_routers (s : State) (k : Nat) (r : HarnessRec) : (s.setHarn k r).routers = s.routers := rfl
@[simp] theorem State.setHarn_net (s : State) (k : Nat) (r : HarnessRec) : (s.setHarn k r).net = s.net := rfl
@[simp] theorem State.setHarn_tokenIn (s : State) (k : Nat) (r : HarnessRec) : (s.setHarn k r).tokenIn = s.tokenIn := rfl
@[simp] theorem State.setHarn_aperture (s : State) (k : Nat) (r : HarnessRec) : (s.setHarn k r).aperture = s.aperture := rfl
@[simp] theorem State.setHarn_selvRx (s : State) (k : Nat) (r : HarnessRec) : (s.setHarn k r).selvRx = s.selvRx := rfl
@[simp] theorem State.setHarn_ctrlData (s : State) (k : Nat) (r : HarnessRec) : (s.setHarn k r).ctrlData = s.ctrlData := rfl
@[simp] theorem State.setHarn_probes (s : State) (k : Nat) (r : HarnessRec) : (s.setHarn k r).probes = s.probes := rfl
@[simp] theorem State.setHarn_bolts (s : State) (k : Nat) (r : HarnessRec) : (s.setHarn k r).bolts = s.bolts := rfl
@[simp] theorem State.setHarn_adapters (s : State) (k : Nat) (r : HarnessRec) : (s.setHarn k r).adapters = s.adapters := rfl
@[simp] theorem State.setHarn_serve (s : State) (k : Nat) (r : HarnessRec) : (s.setHarn k r).serve = s.serve := rfl
@[simp] theorem State.setHarn_reqs (s : State) (k : Nat) (r : HarnessRec) : (s.setHarn k r).reqs = s.reqs := rfl
@[simp] theorem State.setHarn_lowFree (s : State) (k : Nat) (r : HarnessRec) : (s.setHarn k r).lowFree = s.lowFree := rfl
@[simp] theorem State.setHarn_keyMismatch (s : State) (k : Nat) (r : HarnessRec) : (s.setHarn k r).keyMismatch = s.keyMismatch := rfl
@[simp] theorem State.setHarn_qps (s : State) (k : Nat) (r : HarnessRec) : (s.setHarn k r).qps = s.qps := rfl
@[simp] theorem State.setHarn_funcs (s : State) (k : Nat) (r : HarnessRec) : (s.setHarn k r).funcs = s.funcs := rfl
@[simp] theorem State.setHarn_hostMem (s : State) (k : Nat) (r : HarnessRec) : (s.setHarn k r).hostMem = s.hostMem := rfl
@[simp] theorem State.setHarn_msix (s : State) (k : Nat) (r : HarnessRec) : (s.setHarn k r).msix = s.msix := rfl
@[simp] theorem State.setHarn_lastRead (s : State) (k : Nat) (r : HarnessRec) : (s.setHarn k r).lastRead = s.lastRead := rfl
@[simp] theorem State.setHarn_xram (s : State) (k : Nat) (r : HarnessRec) : (s.setHarn k r).xram = s.xram := rfl
@[simp] theorem State.setHarn_xramColl (s : State) (k : Nat) (r : HarnessRec) : (s.setHarn k r).xramColl = s.xramColl := rfl
@[simp] theorem State.setHarn_xramWord (s : State) (k : Nat) (r : HarnessRec) : (s.setHarn k r).xramWord = s.xramWord := rfl
@[simp] theorem State.setHarn_badAccess (s : State) (k : Nat) (r : HarnessRec) : (s.setHarn k r).badAccess = s.badAccess := rfl
@[simp] theorem State.setHarn_creel (s : State) (k : Nat) (r : HarnessRec) : (s.setHarn k r).creel = s.creel := rfl
@[simp] theorem State.setHarn_links (s : State) (k : Nat) (r : HarnessRec) : (s.setHarn k r).links = s.links := rfl
@[simp] theorem State.setHarn_span (s : State) (k : Nat) (r : HarnessRec) : (s.setHarn k r).span = s.span := rfl
@[simp] theorem State.setHarn_skeins (s : State) (k : Nat) (r : HarnessRec) : (s.setHarn k r).skeins = s.skeins := rfl
@[simp] theorem State.setHarn_fields (s : State) (k : Nat) (r : HarnessRec) : (s.setHarn k r).fields = s.fields := rfl
@[simp] theorem State.setHarn_power (s : State) (k : Nat) (r : HarnessRec) : (s.setHarn k r).power = s.power := rfl
@[simp] theorem State.setHarn_thermal (s : State) (k : Nat) (r : HarnessRec) : (s.setHarn k r).thermal = s.thermal := rfl
@[simp] theorem State.setHarn_faults (s : State) (k : Nat) (r : HarnessRec) : (s.setHarn k r).faults = s.faults := rfl
@[simp] theorem State.setHarn_ctSel (s : State) (k : Nat) (r : HarnessRec) : (s.setHarn k r).ctSel = s.ctSel := rfl
@[simp] theorem State.setHarn_ctVal (s : State) (k : Nat) (r : HarnessRec) : (s.setHarn k r).ctVal = s.ctVal := rfl
@[simp] theorem State.setHarn_ctPages (s : State) (k : Nat) (r : HarnessRec) : (s.setHarn k r).ctPages = s.ctPages := rfl
@[simp] theorem State.setHarn_ledger (s : State) (k : Nat) (r : HarnessRec) : (s.setHarn k r).ledger = s.ledger := rfl
@[simp] theorem State.setHarn_security (s : State) (k : Nat) (r : HarnessRec) : (s.setHarn k r).security = s.security := rfl
@[simp] theorem State.setHarn_boot (s : State) (k : Nat) (r : HarnessRec) : (s.setHarn k r).boot = s.boot := rfl
@[simp] theorem State.setHarn_unit_core (s : State) (k j : Nat) (r : HarnessRec) : (s.setHarn k r).core j = s.core j := rfl
@[simp] theorem State.setHarn_unit_router (s : State) (k j : Nat) (r : HarnessRec) : (s.setHarn k r).router j = s.router j := rfl
@[simp] theorem State.setHarn_unit_bolt (s : State) (k j : Nat) (r : HarnessRec) : (s.setHarn k r).bolt j = s.bolt j := rfl
@[simp] theorem State.setHarn_unit_adapter (s : State) (k j : Nat) (r : HarnessRec) : (s.setHarn k r).adapter j = s.adapter j := rfl
@[simp] theorem State.setHarn_unit_serveOf (s : State) (k j : Nat) (r : HarnessRec) : (s.setHarn k r).serveOf j = s.serveOf j := rfl
@[simp] theorem State.setHarn_unit_req (s : State) (k j : Nat) (r : HarnessRec) : (s.setHarn k r).req j = s.req j := rfl
@[simp] theorem State.setHarn_unit_qp (s : State) (k j : Nat) (r : HarnessRec) : (s.setHarn k r).qp j = s.qp j := rfl
@[simp] theorem State.setHarn_unit_func (s : State) (k j : Nat) (r : HarnessRec) : (s.setHarn k r).func j = s.func j := rfl
@[simp] theorem State.setHarn_unit_port (s : State) (k j : Nat) (r : HarnessRec) : (s.setHarn k r).port j = s.port j := rfl
@[simp] theorem State.setHarn_unit_link (s : State) (k j : Nat) (r : HarnessRec) : (s.setHarn k r).link j = s.link j := rfl
@[simp] theorem State.setHarn_unit_skein (s : State) (k j : Nat) (r : HarnessRec) : (s.setHarn k r).skein j = s.skein j := rfl
@[simp] theorem State.setHarn_unit_field (s : State) (k j : Nat) (r : HarnessRec) : (s.setHarn k r).field j = s.field j := rfl
@[simp] theorem State.setHarn_unit_ctPage (s : State) (k j : Nat) (r : HarnessRec) : (s.setHarn k r).ctPage j = s.ctPage j := rfl
@[simp] theorem State.modHarn_harn_self (s : State) (k : Nat) (g : HarnessRec → HarnessRec) : (s.modHarn k g).harn k = g (s.harn k) :=
  Tab.get_put_self _ _ _ _
theorem State.modHarn_harn_ne (s : State) (k j : Nat) (g : HarnessRec → HarnessRec) (h : j ≠ k) : (s.modHarn k g).harn j = s.harn j :=
  Tab.get_put_ne _ _ _ _ _ h
@[simp] theorem State.modHarn_pending (s : State) (k : Nat) (w : HarnessRec → HarnessRec) : (s.modHarn k w).pending = s.pending := rfl
@[simp] theorem State.modHarn_time (s : State) (k : Nat) (w : HarnessRec → HarnessRec) : (s.modHarn k w).time = s.time := rfl
@[simp] theorem State.modHarn_free (s : State) (k : Nat) (w : HarnessRec → HarnessRec) : (s.modHarn k w).free = s.free := rfl
@[simp] theorem State.modHarn_cores (s : State) (k : Nat) (w : HarnessRec → HarnessRec) : (s.modHarn k w).cores = s.cores := rfl
@[simp] theorem State.modHarn_routers (s : State) (k : Nat) (w : HarnessRec → HarnessRec) : (s.modHarn k w).routers = s.routers := rfl
@[simp] theorem State.modHarn_net (s : State) (k : Nat) (w : HarnessRec → HarnessRec) : (s.modHarn k w).net = s.net := rfl
@[simp] theorem State.modHarn_tokenIn (s : State) (k : Nat) (w : HarnessRec → HarnessRec) : (s.modHarn k w).tokenIn = s.tokenIn := rfl
@[simp] theorem State.modHarn_aperture (s : State) (k : Nat) (w : HarnessRec → HarnessRec) : (s.modHarn k w).aperture = s.aperture := rfl
@[simp] theorem State.modHarn_selvRx (s : State) (k : Nat) (w : HarnessRec → HarnessRec) : (s.modHarn k w).selvRx = s.selvRx := rfl
@[simp] theorem State.modHarn_ctrlData (s : State) (k : Nat) (w : HarnessRec → HarnessRec) : (s.modHarn k w).ctrlData = s.ctrlData := rfl
@[simp] theorem State.modHarn_probes (s : State) (k : Nat) (w : HarnessRec → HarnessRec) : (s.modHarn k w).probes = s.probes := rfl
@[simp] theorem State.modHarn_bolts (s : State) (k : Nat) (w : HarnessRec → HarnessRec) : (s.modHarn k w).bolts = s.bolts := rfl
@[simp] theorem State.modHarn_adapters (s : State) (k : Nat) (w : HarnessRec → HarnessRec) : (s.modHarn k w).adapters = s.adapters := rfl
@[simp] theorem State.modHarn_serve (s : State) (k : Nat) (w : HarnessRec → HarnessRec) : (s.modHarn k w).serve = s.serve := rfl
@[simp] theorem State.modHarn_reqs (s : State) (k : Nat) (w : HarnessRec → HarnessRec) : (s.modHarn k w).reqs = s.reqs := rfl
@[simp] theorem State.modHarn_lowFree (s : State) (k : Nat) (w : HarnessRec → HarnessRec) : (s.modHarn k w).lowFree = s.lowFree := rfl
@[simp] theorem State.modHarn_keyMismatch (s : State) (k : Nat) (w : HarnessRec → HarnessRec) : (s.modHarn k w).keyMismatch = s.keyMismatch := rfl
@[simp] theorem State.modHarn_qps (s : State) (k : Nat) (w : HarnessRec → HarnessRec) : (s.modHarn k w).qps = s.qps := rfl
@[simp] theorem State.modHarn_funcs (s : State) (k : Nat) (w : HarnessRec → HarnessRec) : (s.modHarn k w).funcs = s.funcs := rfl
@[simp] theorem State.modHarn_hostMem (s : State) (k : Nat) (w : HarnessRec → HarnessRec) : (s.modHarn k w).hostMem = s.hostMem := rfl
@[simp] theorem State.modHarn_msix (s : State) (k : Nat) (w : HarnessRec → HarnessRec) : (s.modHarn k w).msix = s.msix := rfl
@[simp] theorem State.modHarn_lastRead (s : State) (k : Nat) (w : HarnessRec → HarnessRec) : (s.modHarn k w).lastRead = s.lastRead := rfl
@[simp] theorem State.modHarn_xram (s : State) (k : Nat) (w : HarnessRec → HarnessRec) : (s.modHarn k w).xram = s.xram := rfl
@[simp] theorem State.modHarn_xramColl (s : State) (k : Nat) (w : HarnessRec → HarnessRec) : (s.modHarn k w).xramColl = s.xramColl := rfl
@[simp] theorem State.modHarn_xramWord (s : State) (k : Nat) (w : HarnessRec → HarnessRec) : (s.modHarn k w).xramWord = s.xramWord := rfl
@[simp] theorem State.modHarn_badAccess (s : State) (k : Nat) (w : HarnessRec → HarnessRec) : (s.modHarn k w).badAccess = s.badAccess := rfl
@[simp] theorem State.modHarn_creel (s : State) (k : Nat) (w : HarnessRec → HarnessRec) : (s.modHarn k w).creel = s.creel := rfl
@[simp] theorem State.modHarn_links (s : State) (k : Nat) (w : HarnessRec → HarnessRec) : (s.modHarn k w).links = s.links := rfl
@[simp] theorem State.modHarn_span (s : State) (k : Nat) (w : HarnessRec → HarnessRec) : (s.modHarn k w).span = s.span := rfl
@[simp] theorem State.modHarn_skeins (s : State) (k : Nat) (w : HarnessRec → HarnessRec) : (s.modHarn k w).skeins = s.skeins := rfl
@[simp] theorem State.modHarn_fields (s : State) (k : Nat) (w : HarnessRec → HarnessRec) : (s.modHarn k w).fields = s.fields := rfl
@[simp] theorem State.modHarn_power (s : State) (k : Nat) (w : HarnessRec → HarnessRec) : (s.modHarn k w).power = s.power := rfl
@[simp] theorem State.modHarn_thermal (s : State) (k : Nat) (w : HarnessRec → HarnessRec) : (s.modHarn k w).thermal = s.thermal := rfl
@[simp] theorem State.modHarn_faults (s : State) (k : Nat) (w : HarnessRec → HarnessRec) : (s.modHarn k w).faults = s.faults := rfl
@[simp] theorem State.modHarn_ctSel (s : State) (k : Nat) (w : HarnessRec → HarnessRec) : (s.modHarn k w).ctSel = s.ctSel := rfl
@[simp] theorem State.modHarn_ctVal (s : State) (k : Nat) (w : HarnessRec → HarnessRec) : (s.modHarn k w).ctVal = s.ctVal := rfl
@[simp] theorem State.modHarn_ctPages (s : State) (k : Nat) (w : HarnessRec → HarnessRec) : (s.modHarn k w).ctPages = s.ctPages := rfl
@[simp] theorem State.modHarn_ledger (s : State) (k : Nat) (w : HarnessRec → HarnessRec) : (s.modHarn k w).ledger = s.ledger := rfl
@[simp] theorem State.modHarn_security (s : State) (k : Nat) (w : HarnessRec → HarnessRec) : (s.modHarn k w).security = s.security := rfl
@[simp] theorem State.modHarn_boot (s : State) (k : Nat) (w : HarnessRec → HarnessRec) : (s.modHarn k w).boot = s.boot := rfl
@[simp] theorem State.modHarn_unit_core (s : State) (k j : Nat) (w : HarnessRec → HarnessRec) : (s.modHarn k w).core j = s.core j := rfl
@[simp] theorem State.modHarn_unit_router (s : State) (k j : Nat) (w : HarnessRec → HarnessRec) : (s.modHarn k w).router j = s.router j := rfl
@[simp] theorem State.modHarn_unit_bolt (s : State) (k j : Nat) (w : HarnessRec → HarnessRec) : (s.modHarn k w).bolt j = s.bolt j := rfl
@[simp] theorem State.modHarn_unit_adapter (s : State) (k j : Nat) (w : HarnessRec → HarnessRec) : (s.modHarn k w).adapter j = s.adapter j := rfl
@[simp] theorem State.modHarn_unit_serveOf (s : State) (k j : Nat) (w : HarnessRec → HarnessRec) : (s.modHarn k w).serveOf j = s.serveOf j := rfl
@[simp] theorem State.modHarn_unit_req (s : State) (k j : Nat) (w : HarnessRec → HarnessRec) : (s.modHarn k w).req j = s.req j := rfl
@[simp] theorem State.modHarn_unit_qp (s : State) (k j : Nat) (w : HarnessRec → HarnessRec) : (s.modHarn k w).qp j = s.qp j := rfl
@[simp] theorem State.modHarn_unit_func (s : State) (k j : Nat) (w : HarnessRec → HarnessRec) : (s.modHarn k w).func j = s.func j := rfl
@[simp] theorem State.modHarn_unit_port (s : State) (k j : Nat) (w : HarnessRec → HarnessRec) : (s.modHarn k w).port j = s.port j := rfl
@[simp] theorem State.modHarn_unit_link (s : State) (k j : Nat) (w : HarnessRec → HarnessRec) : (s.modHarn k w).link j = s.link j := rfl
@[simp] theorem State.modHarn_unit_skein (s : State) (k j : Nat) (w : HarnessRec → HarnessRec) : (s.modHarn k w).skein j = s.skein j := rfl
@[simp] theorem State.modHarn_unit_field (s : State) (k j : Nat) (w : HarnessRec → HarnessRec) : (s.modHarn k w).field j = s.field j := rfl
@[simp] theorem State.modHarn_unit_ctPage (s : State) (k j : Nat) (w : HarnessRec → HarnessRec) : (s.modHarn k w).ctPage j = s.ctPage j := rfl

/-! ## `State.setBolt` -/

@[simp] theorem State.setBolt_bolt_self (s : State) (k : Nat) (r : BoltRec) : (s.setBolt k r).bolt k = r := Tab.get_put_self _ _ _ _
theorem State.setBolt_bolt_ne (s : State) (k j : Nat) (r : BoltRec) (h : j ≠ k) : (s.setBolt k r).bolt j = s.bolt j :=
  Tab.get_put_ne _ _ _ _ _ h
theorem State.setBolt_bolt (s : State) (k j : Nat) (r : BoltRec) : (s.setBolt k r).bolt j = if j = k then r else s.bolt j :=
  Tab.get_put _ _ _ _ _
@[simp] theorem State.setBolt_pending (s : State) (k : Nat) (r : BoltRec) : (s.setBolt k r).pending = s.pending := rfl
@[simp] theorem State.setBolt_time (s : State) (k : Nat) (r : BoltRec) : (s.setBolt k r).time = s.time := rfl
@[simp] theorem State.setBolt_free (s : State) (k : Nat) (r : BoltRec) : (s.setBolt k r).free = s.free := rfl
@[simp] theorem State.setBolt_cores (s : State) (k : Nat) (r : BoltRec) : (s.setBolt k r).cores = s.cores := rfl
@[simp] theorem State.setBolt_routers (s : State) (k : Nat) (r : BoltRec) : (s.setBolt k r).routers = s.routers := rfl
@[simp] theorem State.setBolt_net (s : State) (k : Nat) (r : BoltRec) : (s.setBolt k r).net = s.net := rfl
@[simp] theorem State.setBolt_harness (s : State) (k : Nat) (r : BoltRec) : (s.setBolt k r).harness = s.harness := rfl
@[simp] theorem State.setBolt_tokenIn (s : State) (k : Nat) (r : BoltRec) : (s.setBolt k r).tokenIn = s.tokenIn := rfl
@[simp] theorem State.setBolt_aperture (s : State) (k : Nat) (r : BoltRec) : (s.setBolt k r).aperture = s.aperture := rfl
@[simp] theorem State.setBolt_selvRx (s : State) (k : Nat) (r : BoltRec) : (s.setBolt k r).selvRx = s.selvRx := rfl
@[simp] theorem State.setBolt_ctrlData (s : State) (k : Nat) (r : BoltRec) : (s.setBolt k r).ctrlData = s.ctrlData := rfl
@[simp] theorem State.setBolt_probes (s : State) (k : Nat) (r : BoltRec) : (s.setBolt k r).probes = s.probes := rfl
@[simp] theorem State.setBolt_adapters (s : State) (k : Nat) (r : BoltRec) : (s.setBolt k r).adapters = s.adapters := rfl
@[simp] theorem State.setBolt_serve (s : State) (k : Nat) (r : BoltRec) : (s.setBolt k r).serve = s.serve := rfl
@[simp] theorem State.setBolt_reqs (s : State) (k : Nat) (r : BoltRec) : (s.setBolt k r).reqs = s.reqs := rfl
@[simp] theorem State.setBolt_lowFree (s : State) (k : Nat) (r : BoltRec) : (s.setBolt k r).lowFree = s.lowFree := rfl
@[simp] theorem State.setBolt_keyMismatch (s : State) (k : Nat) (r : BoltRec) : (s.setBolt k r).keyMismatch = s.keyMismatch := rfl
@[simp] theorem State.setBolt_qps (s : State) (k : Nat) (r : BoltRec) : (s.setBolt k r).qps = s.qps := rfl
@[simp] theorem State.setBolt_funcs (s : State) (k : Nat) (r : BoltRec) : (s.setBolt k r).funcs = s.funcs := rfl
@[simp] theorem State.setBolt_hostMem (s : State) (k : Nat) (r : BoltRec) : (s.setBolt k r).hostMem = s.hostMem := rfl
@[simp] theorem State.setBolt_msix (s : State) (k : Nat) (r : BoltRec) : (s.setBolt k r).msix = s.msix := rfl
@[simp] theorem State.setBolt_lastRead (s : State) (k : Nat) (r : BoltRec) : (s.setBolt k r).lastRead = s.lastRead := rfl
@[simp] theorem State.setBolt_xram (s : State) (k : Nat) (r : BoltRec) : (s.setBolt k r).xram = s.xram := rfl
@[simp] theorem State.setBolt_xramColl (s : State) (k : Nat) (r : BoltRec) : (s.setBolt k r).xramColl = s.xramColl := rfl
@[simp] theorem State.setBolt_xramWord (s : State) (k : Nat) (r : BoltRec) : (s.setBolt k r).xramWord = s.xramWord := rfl
@[simp] theorem State.setBolt_badAccess (s : State) (k : Nat) (r : BoltRec) : (s.setBolt k r).badAccess = s.badAccess := rfl
@[simp] theorem State.setBolt_creel (s : State) (k : Nat) (r : BoltRec) : (s.setBolt k r).creel = s.creel := rfl
@[simp] theorem State.setBolt_links (s : State) (k : Nat) (r : BoltRec) : (s.setBolt k r).links = s.links := rfl
@[simp] theorem State.setBolt_span (s : State) (k : Nat) (r : BoltRec) : (s.setBolt k r).span = s.span := rfl
@[simp] theorem State.setBolt_skeins (s : State) (k : Nat) (r : BoltRec) : (s.setBolt k r).skeins = s.skeins := rfl
@[simp] theorem State.setBolt_fields (s : State) (k : Nat) (r : BoltRec) : (s.setBolt k r).fields = s.fields := rfl
@[simp] theorem State.setBolt_power (s : State) (k : Nat) (r : BoltRec) : (s.setBolt k r).power = s.power := rfl
@[simp] theorem State.setBolt_thermal (s : State) (k : Nat) (r : BoltRec) : (s.setBolt k r).thermal = s.thermal := rfl
@[simp] theorem State.setBolt_faults (s : State) (k : Nat) (r : BoltRec) : (s.setBolt k r).faults = s.faults := rfl
@[simp] theorem State.setBolt_ctSel (s : State) (k : Nat) (r : BoltRec) : (s.setBolt k r).ctSel = s.ctSel := rfl
@[simp] theorem State.setBolt_ctVal (s : State) (k : Nat) (r : BoltRec) : (s.setBolt k r).ctVal = s.ctVal := rfl
@[simp] theorem State.setBolt_ctPages (s : State) (k : Nat) (r : BoltRec) : (s.setBolt k r).ctPages = s.ctPages := rfl
@[simp] theorem State.setBolt_ledger (s : State) (k : Nat) (r : BoltRec) : (s.setBolt k r).ledger = s.ledger := rfl
@[simp] theorem State.setBolt_security (s : State) (k : Nat) (r : BoltRec) : (s.setBolt k r).security = s.security := rfl
@[simp] theorem State.setBolt_boot (s : State) (k : Nat) (r : BoltRec) : (s.setBolt k r).boot = s.boot := rfl
@[simp] theorem State.setBolt_unit_core (s : State) (k j : Nat) (r : BoltRec) : (s.setBolt k r).core j = s.core j := rfl
@[simp] theorem State.setBolt_unit_router (s : State) (k j : Nat) (r : BoltRec) : (s.setBolt k r).router j = s.router j := rfl
@[simp] theorem State.setBolt_unit_harn (s : State) (k j : Nat) (r : BoltRec) : (s.setBolt k r).harn j = s.harn j := rfl
@[simp] theorem State.setBolt_unit_adapter (s : State) (k j : Nat) (r : BoltRec) : (s.setBolt k r).adapter j = s.adapter j := rfl
@[simp] theorem State.setBolt_unit_serveOf (s : State) (k j : Nat) (r : BoltRec) : (s.setBolt k r).serveOf j = s.serveOf j := rfl
@[simp] theorem State.setBolt_unit_req (s : State) (k j : Nat) (r : BoltRec) : (s.setBolt k r).req j = s.req j := rfl
@[simp] theorem State.setBolt_unit_qp (s : State) (k j : Nat) (r : BoltRec) : (s.setBolt k r).qp j = s.qp j := rfl
@[simp] theorem State.setBolt_unit_func (s : State) (k j : Nat) (r : BoltRec) : (s.setBolt k r).func j = s.func j := rfl
@[simp] theorem State.setBolt_unit_port (s : State) (k j : Nat) (r : BoltRec) : (s.setBolt k r).port j = s.port j := rfl
@[simp] theorem State.setBolt_unit_link (s : State) (k j : Nat) (r : BoltRec) : (s.setBolt k r).link j = s.link j := rfl
@[simp] theorem State.setBolt_unit_skein (s : State) (k j : Nat) (r : BoltRec) : (s.setBolt k r).skein j = s.skein j := rfl
@[simp] theorem State.setBolt_unit_field (s : State) (k j : Nat) (r : BoltRec) : (s.setBolt k r).field j = s.field j := rfl
@[simp] theorem State.setBolt_unit_ctPage (s : State) (k j : Nat) (r : BoltRec) : (s.setBolt k r).ctPage j = s.ctPage j := rfl
@[simp] theorem State.modBolt_bolt_self (s : State) (k : Nat) (g : BoltRec → BoltRec) : (s.modBolt k g).bolt k = g (s.bolt k) :=
  Tab.get_put_self _ _ _ _
theorem State.modBolt_bolt_ne (s : State) (k j : Nat) (g : BoltRec → BoltRec) (h : j ≠ k) : (s.modBolt k g).bolt j = s.bolt j :=
  Tab.get_put_ne _ _ _ _ _ h
@[simp] theorem State.modBolt_pending (s : State) (k : Nat) (w : BoltRec → BoltRec) : (s.modBolt k w).pending = s.pending := rfl
@[simp] theorem State.modBolt_time (s : State) (k : Nat) (w : BoltRec → BoltRec) : (s.modBolt k w).time = s.time := rfl
@[simp] theorem State.modBolt_free (s : State) (k : Nat) (w : BoltRec → BoltRec) : (s.modBolt k w).free = s.free := rfl
@[simp] theorem State.modBolt_cores (s : State) (k : Nat) (w : BoltRec → BoltRec) : (s.modBolt k w).cores = s.cores := rfl
@[simp] theorem State.modBolt_routers (s : State) (k : Nat) (w : BoltRec → BoltRec) : (s.modBolt k w).routers = s.routers := rfl
@[simp] theorem State.modBolt_net (s : State) (k : Nat) (w : BoltRec → BoltRec) : (s.modBolt k w).net = s.net := rfl
@[simp] theorem State.modBolt_harness (s : State) (k : Nat) (w : BoltRec → BoltRec) : (s.modBolt k w).harness = s.harness := rfl
@[simp] theorem State.modBolt_tokenIn (s : State) (k : Nat) (w : BoltRec → BoltRec) : (s.modBolt k w).tokenIn = s.tokenIn := rfl
@[simp] theorem State.modBolt_aperture (s : State) (k : Nat) (w : BoltRec → BoltRec) : (s.modBolt k w).aperture = s.aperture := rfl
@[simp] theorem State.modBolt_selvRx (s : State) (k : Nat) (w : BoltRec → BoltRec) : (s.modBolt k w).selvRx = s.selvRx := rfl
@[simp] theorem State.modBolt_ctrlData (s : State) (k : Nat) (w : BoltRec → BoltRec) : (s.modBolt k w).ctrlData = s.ctrlData := rfl
@[simp] theorem State.modBolt_probes (s : State) (k : Nat) (w : BoltRec → BoltRec) : (s.modBolt k w).probes = s.probes := rfl
@[simp] theorem State.modBolt_adapters (s : State) (k : Nat) (w : BoltRec → BoltRec) : (s.modBolt k w).adapters = s.adapters := rfl
@[simp] theorem State.modBolt_serve (s : State) (k : Nat) (w : BoltRec → BoltRec) : (s.modBolt k w).serve = s.serve := rfl
@[simp] theorem State.modBolt_reqs (s : State) (k : Nat) (w : BoltRec → BoltRec) : (s.modBolt k w).reqs = s.reqs := rfl
@[simp] theorem State.modBolt_lowFree (s : State) (k : Nat) (w : BoltRec → BoltRec) : (s.modBolt k w).lowFree = s.lowFree := rfl
@[simp] theorem State.modBolt_keyMismatch (s : State) (k : Nat) (w : BoltRec → BoltRec) : (s.modBolt k w).keyMismatch = s.keyMismatch := rfl
@[simp] theorem State.modBolt_qps (s : State) (k : Nat) (w : BoltRec → BoltRec) : (s.modBolt k w).qps = s.qps := rfl
@[simp] theorem State.modBolt_funcs (s : State) (k : Nat) (w : BoltRec → BoltRec) : (s.modBolt k w).funcs = s.funcs := rfl
@[simp] theorem State.modBolt_hostMem (s : State) (k : Nat) (w : BoltRec → BoltRec) : (s.modBolt k w).hostMem = s.hostMem := rfl
@[simp] theorem State.modBolt_msix (s : State) (k : Nat) (w : BoltRec → BoltRec) : (s.modBolt k w).msix = s.msix := rfl
@[simp] theorem State.modBolt_lastRead (s : State) (k : Nat) (w : BoltRec → BoltRec) : (s.modBolt k w).lastRead = s.lastRead := rfl
@[simp] theorem State.modBolt_xram (s : State) (k : Nat) (w : BoltRec → BoltRec) : (s.modBolt k w).xram = s.xram := rfl
@[simp] theorem State.modBolt_xramColl (s : State) (k : Nat) (w : BoltRec → BoltRec) : (s.modBolt k w).xramColl = s.xramColl := rfl
@[simp] theorem State.modBolt_xramWord (s : State) (k : Nat) (w : BoltRec → BoltRec) : (s.modBolt k w).xramWord = s.xramWord := rfl
@[simp] theorem State.modBolt_badAccess (s : State) (k : Nat) (w : BoltRec → BoltRec) : (s.modBolt k w).badAccess = s.badAccess := rfl
@[simp] theorem State.modBolt_creel (s : State) (k : Nat) (w : BoltRec → BoltRec) : (s.modBolt k w).creel = s.creel := rfl
@[simp] theorem State.modBolt_links (s : State) (k : Nat) (w : BoltRec → BoltRec) : (s.modBolt k w).links = s.links := rfl
@[simp] theorem State.modBolt_span (s : State) (k : Nat) (w : BoltRec → BoltRec) : (s.modBolt k w).span = s.span := rfl
@[simp] theorem State.modBolt_skeins (s : State) (k : Nat) (w : BoltRec → BoltRec) : (s.modBolt k w).skeins = s.skeins := rfl
@[simp] theorem State.modBolt_fields (s : State) (k : Nat) (w : BoltRec → BoltRec) : (s.modBolt k w).fields = s.fields := rfl
@[simp] theorem State.modBolt_power (s : State) (k : Nat) (w : BoltRec → BoltRec) : (s.modBolt k w).power = s.power := rfl
@[simp] theorem State.modBolt_thermal (s : State) (k : Nat) (w : BoltRec → BoltRec) : (s.modBolt k w).thermal = s.thermal := rfl
@[simp] theorem State.modBolt_faults (s : State) (k : Nat) (w : BoltRec → BoltRec) : (s.modBolt k w).faults = s.faults := rfl
@[simp] theorem State.modBolt_ctSel (s : State) (k : Nat) (w : BoltRec → BoltRec) : (s.modBolt k w).ctSel = s.ctSel := rfl
@[simp] theorem State.modBolt_ctVal (s : State) (k : Nat) (w : BoltRec → BoltRec) : (s.modBolt k w).ctVal = s.ctVal := rfl
@[simp] theorem State.modBolt_ctPages (s : State) (k : Nat) (w : BoltRec → BoltRec) : (s.modBolt k w).ctPages = s.ctPages := rfl
@[simp] theorem State.modBolt_ledger (s : State) (k : Nat) (w : BoltRec → BoltRec) : (s.modBolt k w).ledger = s.ledger := rfl
@[simp] theorem State.modBolt_security (s : State) (k : Nat) (w : BoltRec → BoltRec) : (s.modBolt k w).security = s.security := rfl
@[simp] theorem State.modBolt_boot (s : State) (k : Nat) (w : BoltRec → BoltRec) : (s.modBolt k w).boot = s.boot := rfl
@[simp] theorem State.modBolt_unit_core (s : State) (k j : Nat) (w : BoltRec → BoltRec) : (s.modBolt k w).core j = s.core j := rfl
@[simp] theorem State.modBolt_unit_router (s : State) (k j : Nat) (w : BoltRec → BoltRec) : (s.modBolt k w).router j = s.router j := rfl
@[simp] theorem State.modBolt_unit_harn (s : State) (k j : Nat) (w : BoltRec → BoltRec) : (s.modBolt k w).harn j = s.harn j := rfl
@[simp] theorem State.modBolt_unit_adapter (s : State) (k j : Nat) (w : BoltRec → BoltRec) : (s.modBolt k w).adapter j = s.adapter j := rfl
@[simp] theorem State.modBolt_unit_serveOf (s : State) (k j : Nat) (w : BoltRec → BoltRec) : (s.modBolt k w).serveOf j = s.serveOf j := rfl
@[simp] theorem State.modBolt_unit_req (s : State) (k j : Nat) (w : BoltRec → BoltRec) : (s.modBolt k w).req j = s.req j := rfl
@[simp] theorem State.modBolt_unit_qp (s : State) (k j : Nat) (w : BoltRec → BoltRec) : (s.modBolt k w).qp j = s.qp j := rfl
@[simp] theorem State.modBolt_unit_func (s : State) (k j : Nat) (w : BoltRec → BoltRec) : (s.modBolt k w).func j = s.func j := rfl
@[simp] theorem State.modBolt_unit_port (s : State) (k j : Nat) (w : BoltRec → BoltRec) : (s.modBolt k w).port j = s.port j := rfl
@[simp] theorem State.modBolt_unit_link (s : State) (k j : Nat) (w : BoltRec → BoltRec) : (s.modBolt k w).link j = s.link j := rfl
@[simp] theorem State.modBolt_unit_skein (s : State) (k j : Nat) (w : BoltRec → BoltRec) : (s.modBolt k w).skein j = s.skein j := rfl
@[simp] theorem State.modBolt_unit_field (s : State) (k j : Nat) (w : BoltRec → BoltRec) : (s.modBolt k w).field j = s.field j := rfl
@[simp] theorem State.modBolt_unit_ctPage (s : State) (k j : Nat) (w : BoltRec → BoltRec) : (s.modBolt k w).ctPage j = s.ctPage j := rfl

/-! ## `State.setAdapter` -/

@[simp] theorem State.setAdapter_adapter_self (s : State) (k : Nat) (r : AdapterRec) : (s.setAdapter k r).adapter k = r := Tab.get_put_self _ _ _ _
theorem State.setAdapter_adapter_ne (s : State) (k j : Nat) (r : AdapterRec) (h : j ≠ k) : (s.setAdapter k r).adapter j = s.adapter j :=
  Tab.get_put_ne _ _ _ _ _ h
theorem State.setAdapter_adapter (s : State) (k j : Nat) (r : AdapterRec) : (s.setAdapter k r).adapter j = if j = k then r else s.adapter j :=
  Tab.get_put _ _ _ _ _
@[simp] theorem State.setAdapter_pending (s : State) (k : Nat) (r : AdapterRec) : (s.setAdapter k r).pending = s.pending := rfl
@[simp] theorem State.setAdapter_time (s : State) (k : Nat) (r : AdapterRec) : (s.setAdapter k r).time = s.time := rfl
@[simp] theorem State.setAdapter_free (s : State) (k : Nat) (r : AdapterRec) : (s.setAdapter k r).free = s.free := rfl
@[simp] theorem State.setAdapter_cores (s : State) (k : Nat) (r : AdapterRec) : (s.setAdapter k r).cores = s.cores := rfl
@[simp] theorem State.setAdapter_routers (s : State) (k : Nat) (r : AdapterRec) : (s.setAdapter k r).routers = s.routers := rfl
@[simp] theorem State.setAdapter_net (s : State) (k : Nat) (r : AdapterRec) : (s.setAdapter k r).net = s.net := rfl
@[simp] theorem State.setAdapter_harness (s : State) (k : Nat) (r : AdapterRec) : (s.setAdapter k r).harness = s.harness := rfl
@[simp] theorem State.setAdapter_tokenIn (s : State) (k : Nat) (r : AdapterRec) : (s.setAdapter k r).tokenIn = s.tokenIn := rfl
@[simp] theorem State.setAdapter_aperture (s : State) (k : Nat) (r : AdapterRec) : (s.setAdapter k r).aperture = s.aperture := rfl
@[simp] theorem State.setAdapter_selvRx (s : State) (k : Nat) (r : AdapterRec) : (s.setAdapter k r).selvRx = s.selvRx := rfl
@[simp] theorem State.setAdapter_ctrlData (s : State) (k : Nat) (r : AdapterRec) : (s.setAdapter k r).ctrlData = s.ctrlData := rfl
@[simp] theorem State.setAdapter_probes (s : State) (k : Nat) (r : AdapterRec) : (s.setAdapter k r).probes = s.probes := rfl
@[simp] theorem State.setAdapter_bolts (s : State) (k : Nat) (r : AdapterRec) : (s.setAdapter k r).bolts = s.bolts := rfl
@[simp] theorem State.setAdapter_serve (s : State) (k : Nat) (r : AdapterRec) : (s.setAdapter k r).serve = s.serve := rfl
@[simp] theorem State.setAdapter_reqs (s : State) (k : Nat) (r : AdapterRec) : (s.setAdapter k r).reqs = s.reqs := rfl
@[simp] theorem State.setAdapter_lowFree (s : State) (k : Nat) (r : AdapterRec) : (s.setAdapter k r).lowFree = s.lowFree := rfl
@[simp] theorem State.setAdapter_keyMismatch (s : State) (k : Nat) (r : AdapterRec) : (s.setAdapter k r).keyMismatch = s.keyMismatch := rfl
@[simp] theorem State.setAdapter_qps (s : State) (k : Nat) (r : AdapterRec) : (s.setAdapter k r).qps = s.qps := rfl
@[simp] theorem State.setAdapter_funcs (s : State) (k : Nat) (r : AdapterRec) : (s.setAdapter k r).funcs = s.funcs := rfl
@[simp] theorem State.setAdapter_hostMem (s : State) (k : Nat) (r : AdapterRec) : (s.setAdapter k r).hostMem = s.hostMem := rfl
@[simp] theorem State.setAdapter_msix (s : State) (k : Nat) (r : AdapterRec) : (s.setAdapter k r).msix = s.msix := rfl
@[simp] theorem State.setAdapter_lastRead (s : State) (k : Nat) (r : AdapterRec) : (s.setAdapter k r).lastRead = s.lastRead := rfl
@[simp] theorem State.setAdapter_xram (s : State) (k : Nat) (r : AdapterRec) : (s.setAdapter k r).xram = s.xram := rfl
@[simp] theorem State.setAdapter_xramColl (s : State) (k : Nat) (r : AdapterRec) : (s.setAdapter k r).xramColl = s.xramColl := rfl
@[simp] theorem State.setAdapter_xramWord (s : State) (k : Nat) (r : AdapterRec) : (s.setAdapter k r).xramWord = s.xramWord := rfl
@[simp] theorem State.setAdapter_badAccess (s : State) (k : Nat) (r : AdapterRec) : (s.setAdapter k r).badAccess = s.badAccess := rfl
@[simp] theorem State.setAdapter_creel (s : State) (k : Nat) (r : AdapterRec) : (s.setAdapter k r).creel = s.creel := rfl
@[simp] theorem State.setAdapter_links (s : State) (k : Nat) (r : AdapterRec) : (s.setAdapter k r).links = s.links := rfl
@[simp] theorem State.setAdapter_span (s : State) (k : Nat) (r : AdapterRec) : (s.setAdapter k r).span = s.span := rfl
@[simp] theorem State.setAdapter_skeins (s : State) (k : Nat) (r : AdapterRec) : (s.setAdapter k r).skeins = s.skeins := rfl
@[simp] theorem State.setAdapter_fields (s : State) (k : Nat) (r : AdapterRec) : (s.setAdapter k r).fields = s.fields := rfl
@[simp] theorem State.setAdapter_power (s : State) (k : Nat) (r : AdapterRec) : (s.setAdapter k r).power = s.power := rfl
@[simp] theorem State.setAdapter_thermal (s : State) (k : Nat) (r : AdapterRec) : (s.setAdapter k r).thermal = s.thermal := rfl
@[simp] theorem State.setAdapter_faults (s : State) (k : Nat) (r : AdapterRec) : (s.setAdapter k r).faults = s.faults := rfl
@[simp] theorem State.setAdapter_ctSel (s : State) (k : Nat) (r : AdapterRec) : (s.setAdapter k r).ctSel = s.ctSel := rfl
@[simp] theorem State.setAdapter_ctVal (s : State) (k : Nat) (r : AdapterRec) : (s.setAdapter k r).ctVal = s.ctVal := rfl
@[simp] theorem State.setAdapter_ctPages (s : State) (k : Nat) (r : AdapterRec) : (s.setAdapter k r).ctPages = s.ctPages := rfl
@[simp] theorem State.setAdapter_ledger (s : State) (k : Nat) (r : AdapterRec) : (s.setAdapter k r).ledger = s.ledger := rfl
@[simp] theorem State.setAdapter_security (s : State) (k : Nat) (r : AdapterRec) : (s.setAdapter k r).security = s.security := rfl
@[simp] theorem State.setAdapter_boot (s : State) (k : Nat) (r : AdapterRec) : (s.setAdapter k r).boot = s.boot := rfl
@[simp] theorem State.setAdapter_unit_core (s : State) (k j : Nat) (r : AdapterRec) : (s.setAdapter k r).core j = s.core j := rfl
@[simp] theorem State.setAdapter_unit_router (s : State) (k j : Nat) (r : AdapterRec) : (s.setAdapter k r).router j = s.router j := rfl
@[simp] theorem State.setAdapter_unit_harn (s : State) (k j : Nat) (r : AdapterRec) : (s.setAdapter k r).harn j = s.harn j := rfl
@[simp] theorem State.setAdapter_unit_bolt (s : State) (k j : Nat) (r : AdapterRec) : (s.setAdapter k r).bolt j = s.bolt j := rfl
@[simp] theorem State.setAdapter_unit_serveOf (s : State) (k j : Nat) (r : AdapterRec) : (s.setAdapter k r).serveOf j = s.serveOf j := rfl
@[simp] theorem State.setAdapter_unit_req (s : State) (k j : Nat) (r : AdapterRec) : (s.setAdapter k r).req j = s.req j := rfl
@[simp] theorem State.setAdapter_unit_qp (s : State) (k j : Nat) (r : AdapterRec) : (s.setAdapter k r).qp j = s.qp j := rfl
@[simp] theorem State.setAdapter_unit_func (s : State) (k j : Nat) (r : AdapterRec) : (s.setAdapter k r).func j = s.func j := rfl
@[simp] theorem State.setAdapter_unit_port (s : State) (k j : Nat) (r : AdapterRec) : (s.setAdapter k r).port j = s.port j := rfl
@[simp] theorem State.setAdapter_unit_link (s : State) (k j : Nat) (r : AdapterRec) : (s.setAdapter k r).link j = s.link j := rfl
@[simp] theorem State.setAdapter_unit_skein (s : State) (k j : Nat) (r : AdapterRec) : (s.setAdapter k r).skein j = s.skein j := rfl
@[simp] theorem State.setAdapter_unit_field (s : State) (k j : Nat) (r : AdapterRec) : (s.setAdapter k r).field j = s.field j := rfl
@[simp] theorem State.setAdapter_unit_ctPage (s : State) (k j : Nat) (r : AdapterRec) : (s.setAdapter k r).ctPage j = s.ctPage j := rfl
@[simp] theorem State.modAdapter_adapter_self (s : State) (k : Nat) (g : AdapterRec → AdapterRec) : (s.modAdapter k g).adapter k = g (s.adapter k) :=
  Tab.get_put_self _ _ _ _
theorem State.modAdapter_adapter_ne (s : State) (k j : Nat) (g : AdapterRec → AdapterRec) (h : j ≠ k) : (s.modAdapter k g).adapter j = s.adapter j :=
  Tab.get_put_ne _ _ _ _ _ h
@[simp] theorem State.modAdapter_pending (s : State) (k : Nat) (w : AdapterRec → AdapterRec) : (s.modAdapter k w).pending = s.pending := rfl
@[simp] theorem State.modAdapter_time (s : State) (k : Nat) (w : AdapterRec → AdapterRec) : (s.modAdapter k w).time = s.time := rfl
@[simp] theorem State.modAdapter_free (s : State) (k : Nat) (w : AdapterRec → AdapterRec) : (s.modAdapter k w).free = s.free := rfl
@[simp] theorem State.modAdapter_cores (s : State) (k : Nat) (w : AdapterRec → AdapterRec) : (s.modAdapter k w).cores = s.cores := rfl
@[simp] theorem State.modAdapter_routers (s : State) (k : Nat) (w : AdapterRec → AdapterRec) : (s.modAdapter k w).routers = s.routers := rfl
@[simp] theorem State.modAdapter_net (s : State) (k : Nat) (w : AdapterRec → AdapterRec) : (s.modAdapter k w).net = s.net := rfl
@[simp] theorem State.modAdapter_harness (s : State) (k : Nat) (w : AdapterRec → AdapterRec) : (s.modAdapter k w).harness = s.harness := rfl
@[simp] theorem State.modAdapter_tokenIn (s : State) (k : Nat) (w : AdapterRec → AdapterRec) : (s.modAdapter k w).tokenIn = s.tokenIn := rfl
@[simp] theorem State.modAdapter_aperture (s : State) (k : Nat) (w : AdapterRec → AdapterRec) : (s.modAdapter k w).aperture = s.aperture := rfl
@[simp] theorem State.modAdapter_selvRx (s : State) (k : Nat) (w : AdapterRec → AdapterRec) : (s.modAdapter k w).selvRx = s.selvRx := rfl
@[simp] theorem State.modAdapter_ctrlData (s : State) (k : Nat) (w : AdapterRec → AdapterRec) : (s.modAdapter k w).ctrlData = s.ctrlData := rfl
@[simp] theorem State.modAdapter_probes (s : State) (k : Nat) (w : AdapterRec → AdapterRec) : (s.modAdapter k w).probes = s.probes := rfl
@[simp] theorem State.modAdapter_bolts (s : State) (k : Nat) (w : AdapterRec → AdapterRec) : (s.modAdapter k w).bolts = s.bolts := rfl
@[simp] theorem State.modAdapter_serve (s : State) (k : Nat) (w : AdapterRec → AdapterRec) : (s.modAdapter k w).serve = s.serve := rfl
@[simp] theorem State.modAdapter_reqs (s : State) (k : Nat) (w : AdapterRec → AdapterRec) : (s.modAdapter k w).reqs = s.reqs := rfl
@[simp] theorem State.modAdapter_lowFree (s : State) (k : Nat) (w : AdapterRec → AdapterRec) : (s.modAdapter k w).lowFree = s.lowFree := rfl
@[simp] theorem State.modAdapter_keyMismatch (s : State) (k : Nat) (w : AdapterRec → AdapterRec) : (s.modAdapter k w).keyMismatch = s.keyMismatch := rfl
@[simp] theorem State.modAdapter_qps (s : State) (k : Nat) (w : AdapterRec → AdapterRec) : (s.modAdapter k w).qps = s.qps := rfl
@[simp] theorem State.modAdapter_funcs (s : State) (k : Nat) (w : AdapterRec → AdapterRec) : (s.modAdapter k w).funcs = s.funcs := rfl
@[simp] theorem State.modAdapter_hostMem (s : State) (k : Nat) (w : AdapterRec → AdapterRec) : (s.modAdapter k w).hostMem = s.hostMem := rfl
@[simp] theorem State.modAdapter_msix (s : State) (k : Nat) (w : AdapterRec → AdapterRec) : (s.modAdapter k w).msix = s.msix := rfl
@[simp] theorem State.modAdapter_lastRead (s : State) (k : Nat) (w : AdapterRec → AdapterRec) : (s.modAdapter k w).lastRead = s.lastRead := rfl
@[simp] theorem State.modAdapter_xram (s : State) (k : Nat) (w : AdapterRec → AdapterRec) : (s.modAdapter k w).xram = s.xram := rfl
@[simp] theorem State.modAdapter_xramColl (s : State) (k : Nat) (w : AdapterRec → AdapterRec) : (s.modAdapter k w).xramColl = s.xramColl := rfl
@[simp] theorem State.modAdapter_xramWord (s : State) (k : Nat) (w : AdapterRec → AdapterRec) : (s.modAdapter k w).xramWord = s.xramWord := rfl
@[simp] theorem State.modAdapter_badAccess (s : State) (k : Nat) (w : AdapterRec → AdapterRec) : (s.modAdapter k w).badAccess = s.badAccess := rfl
@[simp] theorem State.modAdapter_creel (s : State) (k : Nat) (w : AdapterRec → AdapterRec) : (s.modAdapter k w).creel = s.creel := rfl
@[simp] theorem State.modAdapter_links (s : State) (k : Nat) (w : AdapterRec → AdapterRec) : (s.modAdapter k w).links = s.links := rfl
@[simp] theorem State.modAdapter_span (s : State) (k : Nat) (w : AdapterRec → AdapterRec) : (s.modAdapter k w).span = s.span := rfl
@[simp] theorem State.modAdapter_skeins (s : State) (k : Nat) (w : AdapterRec → AdapterRec) : (s.modAdapter k w).skeins = s.skeins := rfl
@[simp] theorem State.modAdapter_fields (s : State) (k : Nat) (w : AdapterRec → AdapterRec) : (s.modAdapter k w).fields = s.fields := rfl
@[simp] theorem State.modAdapter_power (s : State) (k : Nat) (w : AdapterRec → AdapterRec) : (s.modAdapter k w).power = s.power := rfl
@[simp] theorem State.modAdapter_thermal (s : State) (k : Nat) (w : AdapterRec → AdapterRec) : (s.modAdapter k w).thermal = s.thermal := rfl
@[simp] theorem State.modAdapter_faults (s : State) (k : Nat) (w : AdapterRec → AdapterRec) : (s.modAdapter k w).faults = s.faults := rfl
@[simp] theorem State.modAdapter_ctSel (s : State) (k : Nat) (w : AdapterRec → AdapterRec) : (s.modAdapter k w).ctSel = s.ctSel := rfl
@[simp] theorem State.modAdapter_ctVal (s : State) (k : Nat) (w : AdapterRec → AdapterRec) : (s.modAdapter k w).ctVal = s.ctVal := rfl
@[simp] theorem State.modAdapter_ctPages (s : State) (k : Nat) (w : AdapterRec → AdapterRec) : (s.modAdapter k w).ctPages = s.ctPages := rfl
@[simp] theorem State.modAdapter_ledger (s : State) (k : Nat) (w : AdapterRec → AdapterRec) : (s.modAdapter k w).ledger = s.ledger := rfl
@[simp] theorem State.modAdapter_security (s : State) (k : Nat) (w : AdapterRec → AdapterRec) : (s.modAdapter k w).security = s.security := rfl
@[simp] theorem State.modAdapter_boot (s : State) (k : Nat) (w : AdapterRec → AdapterRec) : (s.modAdapter k w).boot = s.boot := rfl
@[simp] theorem State.modAdapter_unit_core (s : State) (k j : Nat) (w : AdapterRec → AdapterRec) : (s.modAdapter k w).core j = s.core j := rfl
@[simp] theorem State.modAdapter_unit_router (s : State) (k j : Nat) (w : AdapterRec → AdapterRec) : (s.modAdapter k w).router j = s.router j := rfl
@[simp] theorem State.modAdapter_unit_harn (s : State) (k j : Nat) (w : AdapterRec → AdapterRec) : (s.modAdapter k w).harn j = s.harn j := rfl
@[simp] theorem State.modAdapter_unit_bolt (s : State) (k j : Nat) (w : AdapterRec → AdapterRec) : (s.modAdapter k w).bolt j = s.bolt j := rfl
@[simp] theorem State.modAdapter_unit_serveOf (s : State) (k j : Nat) (w : AdapterRec → AdapterRec) : (s.modAdapter k w).serveOf j = s.serveOf j := rfl
@[simp] theorem State.modAdapter_unit_req (s : State) (k j : Nat) (w : AdapterRec → AdapterRec) : (s.modAdapter k w).req j = s.req j := rfl
@[simp] theorem State.modAdapter_unit_qp (s : State) (k j : Nat) (w : AdapterRec → AdapterRec) : (s.modAdapter k w).qp j = s.qp j := rfl
@[simp] theorem State.modAdapter_unit_func (s : State) (k j : Nat) (w : AdapterRec → AdapterRec) : (s.modAdapter k w).func j = s.func j := rfl
@[simp] theorem State.modAdapter_unit_port (s : State) (k j : Nat) (w : AdapterRec → AdapterRec) : (s.modAdapter k w).port j = s.port j := rfl
@[simp] theorem State.modAdapter_unit_link (s : State) (k j : Nat) (w : AdapterRec → AdapterRec) : (s.modAdapter k w).link j = s.link j := rfl
@[simp] theorem State.modAdapter_unit_skein (s : State) (k j : Nat) (w : AdapterRec → AdapterRec) : (s.modAdapter k w).skein j = s.skein j := rfl
@[simp] theorem State.modAdapter_unit_field (s : State) (k j : Nat) (w : AdapterRec → AdapterRec) : (s.modAdapter k w).field j = s.field j := rfl
@[simp] theorem State.modAdapter_unit_ctPage (s : State) (k j : Nat) (w : AdapterRec → AdapterRec) : (s.modAdapter k w).ctPage j = s.ctPage j := rfl

/-! ## `State.setServeOf` -/

@[simp] theorem State.setServeOf_serveOf_self (s : State) (k : Nat) (r : ServeRec) : (s.setServeOf k r).serveOf k = r := Tab.get_put_self _ _ _ _
theorem State.setServeOf_serveOf_ne (s : State) (k j : Nat) (r : ServeRec) (h : j ≠ k) : (s.setServeOf k r).serveOf j = s.serveOf j :=
  Tab.get_put_ne _ _ _ _ _ h
theorem State.setServeOf_serveOf (s : State) (k j : Nat) (r : ServeRec) : (s.setServeOf k r).serveOf j = if j = k then r else s.serveOf j :=
  Tab.get_put _ _ _ _ _
@[simp] theorem State.setServeOf_pending (s : State) (k : Nat) (r : ServeRec) : (s.setServeOf k r).pending = s.pending := rfl
@[simp] theorem State.setServeOf_time (s : State) (k : Nat) (r : ServeRec) : (s.setServeOf k r).time = s.time := rfl
@[simp] theorem State.setServeOf_free (s : State) (k : Nat) (r : ServeRec) : (s.setServeOf k r).free = s.free := rfl
@[simp] theorem State.setServeOf_cores (s : State) (k : Nat) (r : ServeRec) : (s.setServeOf k r).cores = s.cores := rfl
@[simp] theorem State.setServeOf_routers (s : State) (k : Nat) (r : ServeRec) : (s.setServeOf k r).routers = s.routers := rfl
@[simp] theorem State.setServeOf_net (s : State) (k : Nat) (r : ServeRec) : (s.setServeOf k r).net = s.net := rfl
@[simp] theorem State.setServeOf_harness (s : State) (k : Nat) (r : ServeRec) : (s.setServeOf k r).harness = s.harness := rfl
@[simp] theorem State.setServeOf_tokenIn (s : State) (k : Nat) (r : ServeRec) : (s.setServeOf k r).tokenIn = s.tokenIn := rfl
@[simp] theorem State.setServeOf_aperture (s : State) (k : Nat) (r : ServeRec) : (s.setServeOf k r).aperture = s.aperture := rfl
@[simp] theorem State.setServeOf_selvRx (s : State) (k : Nat) (r : ServeRec) : (s.setServeOf k r).selvRx = s.selvRx := rfl
@[simp] theorem State.setServeOf_ctrlData (s : State) (k : Nat) (r : ServeRec) : (s.setServeOf k r).ctrlData = s.ctrlData := rfl
@[simp] theorem State.setServeOf_probes (s : State) (k : Nat) (r : ServeRec) : (s.setServeOf k r).probes = s.probes := rfl
@[simp] theorem State.setServeOf_bolts (s : State) (k : Nat) (r : ServeRec) : (s.setServeOf k r).bolts = s.bolts := rfl
@[simp] theorem State.setServeOf_adapters (s : State) (k : Nat) (r : ServeRec) : (s.setServeOf k r).adapters = s.adapters := rfl
@[simp] theorem State.setServeOf_reqs (s : State) (k : Nat) (r : ServeRec) : (s.setServeOf k r).reqs = s.reqs := rfl
@[simp] theorem State.setServeOf_lowFree (s : State) (k : Nat) (r : ServeRec) : (s.setServeOf k r).lowFree = s.lowFree := rfl
@[simp] theorem State.setServeOf_keyMismatch (s : State) (k : Nat) (r : ServeRec) : (s.setServeOf k r).keyMismatch = s.keyMismatch := rfl
@[simp] theorem State.setServeOf_qps (s : State) (k : Nat) (r : ServeRec) : (s.setServeOf k r).qps = s.qps := rfl
@[simp] theorem State.setServeOf_funcs (s : State) (k : Nat) (r : ServeRec) : (s.setServeOf k r).funcs = s.funcs := rfl
@[simp] theorem State.setServeOf_hostMem (s : State) (k : Nat) (r : ServeRec) : (s.setServeOf k r).hostMem = s.hostMem := rfl
@[simp] theorem State.setServeOf_msix (s : State) (k : Nat) (r : ServeRec) : (s.setServeOf k r).msix = s.msix := rfl
@[simp] theorem State.setServeOf_lastRead (s : State) (k : Nat) (r : ServeRec) : (s.setServeOf k r).lastRead = s.lastRead := rfl
@[simp] theorem State.setServeOf_xram (s : State) (k : Nat) (r : ServeRec) : (s.setServeOf k r).xram = s.xram := rfl
@[simp] theorem State.setServeOf_xramColl (s : State) (k : Nat) (r : ServeRec) : (s.setServeOf k r).xramColl = s.xramColl := rfl
@[simp] theorem State.setServeOf_xramWord (s : State) (k : Nat) (r : ServeRec) : (s.setServeOf k r).xramWord = s.xramWord := rfl
@[simp] theorem State.setServeOf_badAccess (s : State) (k : Nat) (r : ServeRec) : (s.setServeOf k r).badAccess = s.badAccess := rfl
@[simp] theorem State.setServeOf_creel (s : State) (k : Nat) (r : ServeRec) : (s.setServeOf k r).creel = s.creel := rfl
@[simp] theorem State.setServeOf_links (s : State) (k : Nat) (r : ServeRec) : (s.setServeOf k r).links = s.links := rfl
@[simp] theorem State.setServeOf_span (s : State) (k : Nat) (r : ServeRec) : (s.setServeOf k r).span = s.span := rfl
@[simp] theorem State.setServeOf_skeins (s : State) (k : Nat) (r : ServeRec) : (s.setServeOf k r).skeins = s.skeins := rfl
@[simp] theorem State.setServeOf_fields (s : State) (k : Nat) (r : ServeRec) : (s.setServeOf k r).fields = s.fields := rfl
@[simp] theorem State.setServeOf_power (s : State) (k : Nat) (r : ServeRec) : (s.setServeOf k r).power = s.power := rfl
@[simp] theorem State.setServeOf_thermal (s : State) (k : Nat) (r : ServeRec) : (s.setServeOf k r).thermal = s.thermal := rfl
@[simp] theorem State.setServeOf_faults (s : State) (k : Nat) (r : ServeRec) : (s.setServeOf k r).faults = s.faults := rfl
@[simp] theorem State.setServeOf_ctSel (s : State) (k : Nat) (r : ServeRec) : (s.setServeOf k r).ctSel = s.ctSel := rfl
@[simp] theorem State.setServeOf_ctVal (s : State) (k : Nat) (r : ServeRec) : (s.setServeOf k r).ctVal = s.ctVal := rfl
@[simp] theorem State.setServeOf_ctPages (s : State) (k : Nat) (r : ServeRec) : (s.setServeOf k r).ctPages = s.ctPages := rfl
@[simp] theorem State.setServeOf_ledger (s : State) (k : Nat) (r : ServeRec) : (s.setServeOf k r).ledger = s.ledger := rfl
@[simp] theorem State.setServeOf_security (s : State) (k : Nat) (r : ServeRec) : (s.setServeOf k r).security = s.security := rfl
@[simp] theorem State.setServeOf_boot (s : State) (k : Nat) (r : ServeRec) : (s.setServeOf k r).boot = s.boot := rfl
@[simp] theorem State.setServeOf_unit_core (s : State) (k j : Nat) (r : ServeRec) : (s.setServeOf k r).core j = s.core j := rfl
@[simp] theorem State.setServeOf_unit_router (s : State) (k j : Nat) (r : ServeRec) : (s.setServeOf k r).router j = s.router j := rfl
@[simp] theorem State.setServeOf_unit_harn (s : State) (k j : Nat) (r : ServeRec) : (s.setServeOf k r).harn j = s.harn j := rfl
@[simp] theorem State.setServeOf_unit_bolt (s : State) (k j : Nat) (r : ServeRec) : (s.setServeOf k r).bolt j = s.bolt j := rfl
@[simp] theorem State.setServeOf_unit_adapter (s : State) (k j : Nat) (r : ServeRec) : (s.setServeOf k r).adapter j = s.adapter j := rfl
@[simp] theorem State.setServeOf_unit_req (s : State) (k j : Nat) (r : ServeRec) : (s.setServeOf k r).req j = s.req j := rfl
@[simp] theorem State.setServeOf_unit_qp (s : State) (k j : Nat) (r : ServeRec) : (s.setServeOf k r).qp j = s.qp j := rfl
@[simp] theorem State.setServeOf_unit_func (s : State) (k j : Nat) (r : ServeRec) : (s.setServeOf k r).func j = s.func j := rfl
@[simp] theorem State.setServeOf_unit_port (s : State) (k j : Nat) (r : ServeRec) : (s.setServeOf k r).port j = s.port j := rfl
@[simp] theorem State.setServeOf_unit_link (s : State) (k j : Nat) (r : ServeRec) : (s.setServeOf k r).link j = s.link j := rfl
@[simp] theorem State.setServeOf_unit_skein (s : State) (k j : Nat) (r : ServeRec) : (s.setServeOf k r).skein j = s.skein j := rfl
@[simp] theorem State.setServeOf_unit_field (s : State) (k j : Nat) (r : ServeRec) : (s.setServeOf k r).field j = s.field j := rfl
@[simp] theorem State.setServeOf_unit_ctPage (s : State) (k j : Nat) (r : ServeRec) : (s.setServeOf k r).ctPage j = s.ctPage j := rfl
@[simp] theorem State.modServeOf_serveOf_self (s : State) (k : Nat) (g : ServeRec → ServeRec) : (s.modServeOf k g).serveOf k = g (s.serveOf k) :=
  Tab.get_put_self _ _ _ _
theorem State.modServeOf_serveOf_ne (s : State) (k j : Nat) (g : ServeRec → ServeRec) (h : j ≠ k) : (s.modServeOf k g).serveOf j = s.serveOf j :=
  Tab.get_put_ne _ _ _ _ _ h
@[simp] theorem State.modServeOf_pending (s : State) (k : Nat) (w : ServeRec → ServeRec) : (s.modServeOf k w).pending = s.pending := rfl
@[simp] theorem State.modServeOf_time (s : State) (k : Nat) (w : ServeRec → ServeRec) : (s.modServeOf k w).time = s.time := rfl
@[simp] theorem State.modServeOf_free (s : State) (k : Nat) (w : ServeRec → ServeRec) : (s.modServeOf k w).free = s.free := rfl
@[simp] theorem State.modServeOf_cores (s : State) (k : Nat) (w : ServeRec → ServeRec) : (s.modServeOf k w).cores = s.cores := rfl
@[simp] theorem State.modServeOf_routers (s : State) (k : Nat) (w : ServeRec → ServeRec) : (s.modServeOf k w).routers = s.routers := rfl
@[simp] theorem State.modServeOf_net (s : State) (k : Nat) (w : ServeRec → ServeRec) : (s.modServeOf k w).net = s.net := rfl
@[simp] theorem State.modServeOf_harness (s : State) (k : Nat) (w : ServeRec → ServeRec) : (s.modServeOf k w).harness = s.harness := rfl
@[simp] theorem State.modServeOf_tokenIn (s : State) (k : Nat) (w : ServeRec → ServeRec) : (s.modServeOf k w).tokenIn = s.tokenIn := rfl
@[simp] theorem State.modServeOf_aperture (s : State) (k : Nat) (w : ServeRec → ServeRec) : (s.modServeOf k w).aperture = s.aperture := rfl
@[simp] theorem State.modServeOf_selvRx (s : State) (k : Nat) (w : ServeRec → ServeRec) : (s.modServeOf k w).selvRx = s.selvRx := rfl
@[simp] theorem State.modServeOf_ctrlData (s : State) (k : Nat) (w : ServeRec → ServeRec) : (s.modServeOf k w).ctrlData = s.ctrlData := rfl
@[simp] theorem State.modServeOf_probes (s : State) (k : Nat) (w : ServeRec → ServeRec) : (s.modServeOf k w).probes = s.probes := rfl
@[simp] theorem State.modServeOf_bolts (s : State) (k : Nat) (w : ServeRec → ServeRec) : (s.modServeOf k w).bolts = s.bolts := rfl
@[simp] theorem State.modServeOf_adapters (s : State) (k : Nat) (w : ServeRec → ServeRec) : (s.modServeOf k w).adapters = s.adapters := rfl
@[simp] theorem State.modServeOf_reqs (s : State) (k : Nat) (w : ServeRec → ServeRec) : (s.modServeOf k w).reqs = s.reqs := rfl
@[simp] theorem State.modServeOf_lowFree (s : State) (k : Nat) (w : ServeRec → ServeRec) : (s.modServeOf k w).lowFree = s.lowFree := rfl
@[simp] theorem State.modServeOf_keyMismatch (s : State) (k : Nat) (w : ServeRec → ServeRec) : (s.modServeOf k w).keyMismatch = s.keyMismatch := rfl
@[simp] theorem State.modServeOf_qps (s : State) (k : Nat) (w : ServeRec → ServeRec) : (s.modServeOf k w).qps = s.qps := rfl
@[simp] theorem State.modServeOf_funcs (s : State) (k : Nat) (w : ServeRec → ServeRec) : (s.modServeOf k w).funcs = s.funcs := rfl
@[simp] theorem State.modServeOf_hostMem (s : State) (k : Nat) (w : ServeRec → ServeRec) : (s.modServeOf k w).hostMem = s.hostMem := rfl
@[simp] theorem State.modServeOf_msix (s : State) (k : Nat) (w : ServeRec → ServeRec) : (s.modServeOf k w).msix = s.msix := rfl
@[simp] theorem State.modServeOf_lastRead (s : State) (k : Nat) (w : ServeRec → ServeRec) : (s.modServeOf k w).lastRead = s.lastRead := rfl
@[simp] theorem State.modServeOf_xram (s : State) (k : Nat) (w : ServeRec → ServeRec) : (s.modServeOf k w).xram = s.xram := rfl
@[simp] theorem State.modServeOf_xramColl (s : State) (k : Nat) (w : ServeRec → ServeRec) : (s.modServeOf k w).xramColl = s.xramColl := rfl
@[simp] theorem State.modServeOf_xramWord (s : State) (k : Nat) (w : ServeRec → ServeRec) : (s.modServeOf k w).xramWord = s.xramWord := rfl
@[simp] theorem State.modServeOf_badAccess (s : State) (k : Nat) (w : ServeRec → ServeRec) : (s.modServeOf k w).badAccess = s.badAccess := rfl
@[simp] theorem State.modServeOf_creel (s : State) (k : Nat) (w : ServeRec → ServeRec) : (s.modServeOf k w).creel = s.creel := rfl
@[simp] theorem State.modServeOf_links (s : State) (k : Nat) (w : ServeRec → ServeRec) : (s.modServeOf k w).links = s.links := rfl
@[simp] theorem State.modServeOf_span (s : State) (k : Nat) (w : ServeRec → ServeRec) : (s.modServeOf k w).span = s.span := rfl
@[simp] theorem State.modServeOf_skeins (s : State) (k : Nat) (w : ServeRec → ServeRec) : (s.modServeOf k w).skeins = s.skeins := rfl
@[simp] theorem State.modServeOf_fields (s : State) (k : Nat) (w : ServeRec → ServeRec) : (s.modServeOf k w).fields = s.fields := rfl
@[simp] theorem State.modServeOf_power (s : State) (k : Nat) (w : ServeRec → ServeRec) : (s.modServeOf k w).power = s.power := rfl
@[simp] theorem State.modServeOf_thermal (s : State) (k : Nat) (w : ServeRec → ServeRec) : (s.modServeOf k w).thermal = s.thermal := rfl
@[simp] theorem State.modServeOf_faults (s : State) (k : Nat) (w : ServeRec → ServeRec) : (s.modServeOf k w).faults = s.faults := rfl
@[simp] theorem State.modServeOf_ctSel (s : State) (k : Nat) (w : ServeRec → ServeRec) : (s.modServeOf k w).ctSel = s.ctSel := rfl
@[simp] theorem State.modServeOf_ctVal (s : State) (k : Nat) (w : ServeRec → ServeRec) : (s.modServeOf k w).ctVal = s.ctVal := rfl
@[simp] theorem State.modServeOf_ctPages (s : State) (k : Nat) (w : ServeRec → ServeRec) : (s.modServeOf k w).ctPages = s.ctPages := rfl
@[simp] theorem State.modServeOf_ledger (s : State) (k : Nat) (w : ServeRec → ServeRec) : (s.modServeOf k w).ledger = s.ledger := rfl
@[simp] theorem State.modServeOf_security (s : State) (k : Nat) (w : ServeRec → ServeRec) : (s.modServeOf k w).security = s.security := rfl
@[simp] theorem State.modServeOf_boot (s : State) (k : Nat) (w : ServeRec → ServeRec) : (s.modServeOf k w).boot = s.boot := rfl
@[simp] theorem State.modServeOf_unit_core (s : State) (k j : Nat) (w : ServeRec → ServeRec) : (s.modServeOf k w).core j = s.core j := rfl
@[simp] theorem State.modServeOf_unit_router (s : State) (k j : Nat) (w : ServeRec → ServeRec) : (s.modServeOf k w).router j = s.router j := rfl
@[simp] theorem State.modServeOf_unit_harn (s : State) (k j : Nat) (w : ServeRec → ServeRec) : (s.modServeOf k w).harn j = s.harn j := rfl
@[simp] theorem State.modServeOf_unit_bolt (s : State) (k j : Nat) (w : ServeRec → ServeRec) : (s.modServeOf k w).bolt j = s.bolt j := rfl
@[simp] theorem State.modServeOf_unit_adapter (s : State) (k j : Nat) (w : ServeRec → ServeRec) : (s.modServeOf k w).adapter j = s.adapter j := rfl
@[simp] theorem State.modServeOf_unit_req (s : State) (k j : Nat) (w : ServeRec → ServeRec) : (s.modServeOf k w).req j = s.req j := rfl
@[simp] theorem State.modServeOf_unit_qp (s : State) (k j : Nat) (w : ServeRec → ServeRec) : (s.modServeOf k w).qp j = s.qp j := rfl
@[simp] theorem State.modServeOf_unit_func (s : State) (k j : Nat) (w : ServeRec → ServeRec) : (s.modServeOf k w).func j = s.func j := rfl
@[simp] theorem State.modServeOf_unit_port (s : State) (k j : Nat) (w : ServeRec → ServeRec) : (s.modServeOf k w).port j = s.port j := rfl
@[simp] theorem State.modServeOf_unit_link (s : State) (k j : Nat) (w : ServeRec → ServeRec) : (s.modServeOf k w).link j = s.link j := rfl
@[simp] theorem State.modServeOf_unit_skein (s : State) (k j : Nat) (w : ServeRec → ServeRec) : (s.modServeOf k w).skein j = s.skein j := rfl
@[simp] theorem State.modServeOf_unit_field (s : State) (k j : Nat) (w : ServeRec → ServeRec) : (s.modServeOf k w).field j = s.field j := rfl
@[simp] theorem State.modServeOf_unit_ctPage (s : State) (k j : Nat) (w : ServeRec → ServeRec) : (s.modServeOf k w).ctPage j = s.ctPage j := rfl

/-! ## `State.setReq` -/

@[simp] theorem State.setReq_req_self (s : State) (k : Nat) (r : ReqRec) : (s.setReq k r).req k = r := Tab.get_put_self _ _ _ _
theorem State.setReq_req_ne (s : State) (k j : Nat) (r : ReqRec) (h : j ≠ k) : (s.setReq k r).req j = s.req j :=
  Tab.get_put_ne _ _ _ _ _ h
theorem State.setReq_req (s : State) (k j : Nat) (r : ReqRec) : (s.setReq k r).req j = if j = k then r else s.req j :=
  Tab.get_put _ _ _ _ _
@[simp] theorem State.setReq_pending (s : State) (k : Nat) (r : ReqRec) : (s.setReq k r).pending = s.pending := rfl
@[simp] theorem State.setReq_time (s : State) (k : Nat) (r : ReqRec) : (s.setReq k r).time = s.time := rfl
@[simp] theorem State.setReq_free (s : State) (k : Nat) (r : ReqRec) : (s.setReq k r).free = s.free := rfl
@[simp] theorem State.setReq_cores (s : State) (k : Nat) (r : ReqRec) : (s.setReq k r).cores = s.cores := rfl
@[simp] theorem State.setReq_routers (s : State) (k : Nat) (r : ReqRec) : (s.setReq k r).routers = s.routers := rfl
@[simp] theorem State.setReq_net (s : State) (k : Nat) (r : ReqRec) : (s.setReq k r).net = s.net := rfl
@[simp] theorem State.setReq_harness (s : State) (k : Nat) (r : ReqRec) : (s.setReq k r).harness = s.harness := rfl
@[simp] theorem State.setReq_tokenIn (s : State) (k : Nat) (r : ReqRec) : (s.setReq k r).tokenIn = s.tokenIn := rfl
@[simp] theorem State.setReq_aperture (s : State) (k : Nat) (r : ReqRec) : (s.setReq k r).aperture = s.aperture := rfl
@[simp] theorem State.setReq_selvRx (s : State) (k : Nat) (r : ReqRec) : (s.setReq k r).selvRx = s.selvRx := rfl
@[simp] theorem State.setReq_ctrlData (s : State) (k : Nat) (r : ReqRec) : (s.setReq k r).ctrlData = s.ctrlData := rfl
@[simp] theorem State.setReq_probes (s : State) (k : Nat) (r : ReqRec) : (s.setReq k r).probes = s.probes := rfl
@[simp] theorem State.setReq_bolts (s : State) (k : Nat) (r : ReqRec) : (s.setReq k r).bolts = s.bolts := rfl
@[simp] theorem State.setReq_adapters (s : State) (k : Nat) (r : ReqRec) : (s.setReq k r).adapters = s.adapters := rfl
@[simp] theorem State.setReq_serve (s : State) (k : Nat) (r : ReqRec) : (s.setReq k r).serve = s.serve := rfl
@[simp] theorem State.setReq_lowFree (s : State) (k : Nat) (r : ReqRec) : (s.setReq k r).lowFree = s.lowFree := rfl
@[simp] theorem State.setReq_keyMismatch (s : State) (k : Nat) (r : ReqRec) : (s.setReq k r).keyMismatch = s.keyMismatch := rfl
@[simp] theorem State.setReq_qps (s : State) (k : Nat) (r : ReqRec) : (s.setReq k r).qps = s.qps := rfl
@[simp] theorem State.setReq_funcs (s : State) (k : Nat) (r : ReqRec) : (s.setReq k r).funcs = s.funcs := rfl
@[simp] theorem State.setReq_hostMem (s : State) (k : Nat) (r : ReqRec) : (s.setReq k r).hostMem = s.hostMem := rfl
@[simp] theorem State.setReq_msix (s : State) (k : Nat) (r : ReqRec) : (s.setReq k r).msix = s.msix := rfl
@[simp] theorem State.setReq_lastRead (s : State) (k : Nat) (r : ReqRec) : (s.setReq k r).lastRead = s.lastRead := rfl
@[simp] theorem State.setReq_xram (s : State) (k : Nat) (r : ReqRec) : (s.setReq k r).xram = s.xram := rfl
@[simp] theorem State.setReq_xramColl (s : State) (k : Nat) (r : ReqRec) : (s.setReq k r).xramColl = s.xramColl := rfl
@[simp] theorem State.setReq_xramWord (s : State) (k : Nat) (r : ReqRec) : (s.setReq k r).xramWord = s.xramWord := rfl
@[simp] theorem State.setReq_badAccess (s : State) (k : Nat) (r : ReqRec) : (s.setReq k r).badAccess = s.badAccess := rfl
@[simp] theorem State.setReq_creel (s : State) (k : Nat) (r : ReqRec) : (s.setReq k r).creel = s.creel := rfl
@[simp] theorem State.setReq_links (s : State) (k : Nat) (r : ReqRec) : (s.setReq k r).links = s.links := rfl
@[simp] theorem State.setReq_span (s : State) (k : Nat) (r : ReqRec) : (s.setReq k r).span = s.span := rfl
@[simp] theorem State.setReq_skeins (s : State) (k : Nat) (r : ReqRec) : (s.setReq k r).skeins = s.skeins := rfl
@[simp] theorem State.setReq_fields (s : State) (k : Nat) (r : ReqRec) : (s.setReq k r).fields = s.fields := rfl
@[simp] theorem State.setReq_power (s : State) (k : Nat) (r : ReqRec) : (s.setReq k r).power = s.power := rfl
@[simp] theorem State.setReq_thermal (s : State) (k : Nat) (r : ReqRec) : (s.setReq k r).thermal = s.thermal := rfl
@[simp] theorem State.setReq_faults (s : State) (k : Nat) (r : ReqRec) : (s.setReq k r).faults = s.faults := rfl
@[simp] theorem State.setReq_ctSel (s : State) (k : Nat) (r : ReqRec) : (s.setReq k r).ctSel = s.ctSel := rfl
@[simp] theorem State.setReq_ctVal (s : State) (k : Nat) (r : ReqRec) : (s.setReq k r).ctVal = s.ctVal := rfl
@[simp] theorem State.setReq_ctPages (s : State) (k : Nat) (r : ReqRec) : (s.setReq k r).ctPages = s.ctPages := rfl
@[simp] theorem State.setReq_ledger (s : State) (k : Nat) (r : ReqRec) : (s.setReq k r).ledger = s.ledger := rfl
@[simp] theorem State.setReq_security (s : State) (k : Nat) (r : ReqRec) : (s.setReq k r).security = s.security := rfl
@[simp] theorem State.setReq_boot (s : State) (k : Nat) (r : ReqRec) : (s.setReq k r).boot = s.boot := rfl
@[simp] theorem State.setReq_unit_core (s : State) (k j : Nat) (r : ReqRec) : (s.setReq k r).core j = s.core j := rfl
@[simp] theorem State.setReq_unit_router (s : State) (k j : Nat) (r : ReqRec) : (s.setReq k r).router j = s.router j := rfl
@[simp] theorem State.setReq_unit_harn (s : State) (k j : Nat) (r : ReqRec) : (s.setReq k r).harn j = s.harn j := rfl
@[simp] theorem State.setReq_unit_bolt (s : State) (k j : Nat) (r : ReqRec) : (s.setReq k r).bolt j = s.bolt j := rfl
@[simp] theorem State.setReq_unit_adapter (s : State) (k j : Nat) (r : ReqRec) : (s.setReq k r).adapter j = s.adapter j := rfl
@[simp] theorem State.setReq_unit_serveOf (s : State) (k j : Nat) (r : ReqRec) : (s.setReq k r).serveOf j = s.serveOf j := rfl
@[simp] theorem State.setReq_unit_qp (s : State) (k j : Nat) (r : ReqRec) : (s.setReq k r).qp j = s.qp j := rfl
@[simp] theorem State.setReq_unit_func (s : State) (k j : Nat) (r : ReqRec) : (s.setReq k r).func j = s.func j := rfl
@[simp] theorem State.setReq_unit_port (s : State) (k j : Nat) (r : ReqRec) : (s.setReq k r).port j = s.port j := rfl
@[simp] theorem State.setReq_unit_link (s : State) (k j : Nat) (r : ReqRec) : (s.setReq k r).link j = s.link j := rfl
@[simp] theorem State.setReq_unit_skein (s : State) (k j : Nat) (r : ReqRec) : (s.setReq k r).skein j = s.skein j := rfl
@[simp] theorem State.setReq_unit_field (s : State) (k j : Nat) (r : ReqRec) : (s.setReq k r).field j = s.field j := rfl
@[simp] theorem State.setReq_unit_ctPage (s : State) (k j : Nat) (r : ReqRec) : (s.setReq k r).ctPage j = s.ctPage j := rfl
@[simp] theorem State.modReq_req_self (s : State) (k : Nat) (g : ReqRec → ReqRec) : (s.modReq k g).req k = g (s.req k) :=
  Tab.get_put_self _ _ _ _
theorem State.modReq_req_ne (s : State) (k j : Nat) (g : ReqRec → ReqRec) (h : j ≠ k) : (s.modReq k g).req j = s.req j :=
  Tab.get_put_ne _ _ _ _ _ h
@[simp] theorem State.modReq_pending (s : State) (k : Nat) (w : ReqRec → ReqRec) : (s.modReq k w).pending = s.pending := rfl
@[simp] theorem State.modReq_time (s : State) (k : Nat) (w : ReqRec → ReqRec) : (s.modReq k w).time = s.time := rfl
@[simp] theorem State.modReq_free (s : State) (k : Nat) (w : ReqRec → ReqRec) : (s.modReq k w).free = s.free := rfl
@[simp] theorem State.modReq_cores (s : State) (k : Nat) (w : ReqRec → ReqRec) : (s.modReq k w).cores = s.cores := rfl
@[simp] theorem State.modReq_routers (s : State) (k : Nat) (w : ReqRec → ReqRec) : (s.modReq k w).routers = s.routers := rfl
@[simp] theorem State.modReq_net (s : State) (k : Nat) (w : ReqRec → ReqRec) : (s.modReq k w).net = s.net := rfl
@[simp] theorem State.modReq_harness (s : State) (k : Nat) (w : ReqRec → ReqRec) : (s.modReq k w).harness = s.harness := rfl
@[simp] theorem State.modReq_tokenIn (s : State) (k : Nat) (w : ReqRec → ReqRec) : (s.modReq k w).tokenIn = s.tokenIn := rfl
@[simp] theorem State.modReq_aperture (s : State) (k : Nat) (w : ReqRec → ReqRec) : (s.modReq k w).aperture = s.aperture := rfl
@[simp] theorem State.modReq_selvRx (s : State) (k : Nat) (w : ReqRec → ReqRec) : (s.modReq k w).selvRx = s.selvRx := rfl
@[simp] theorem State.modReq_ctrlData (s : State) (k : Nat) (w : ReqRec → ReqRec) : (s.modReq k w).ctrlData = s.ctrlData := rfl
@[simp] theorem State.modReq_probes (s : State) (k : Nat) (w : ReqRec → ReqRec) : (s.modReq k w).probes = s.probes := rfl
@[simp] theorem State.modReq_bolts (s : State) (k : Nat) (w : ReqRec → ReqRec) : (s.modReq k w).bolts = s.bolts := rfl
@[simp] theorem State.modReq_adapters (s : State) (k : Nat) (w : ReqRec → ReqRec) : (s.modReq k w).adapters = s.adapters := rfl
@[simp] theorem State.modReq_serve (s : State) (k : Nat) (w : ReqRec → ReqRec) : (s.modReq k w).serve = s.serve := rfl
@[simp] theorem State.modReq_lowFree (s : State) (k : Nat) (w : ReqRec → ReqRec) : (s.modReq k w).lowFree = s.lowFree := rfl
@[simp] theorem State.modReq_keyMismatch (s : State) (k : Nat) (w : ReqRec → ReqRec) : (s.modReq k w).keyMismatch = s.keyMismatch := rfl
@[simp] theorem State.modReq_qps (s : State) (k : Nat) (w : ReqRec → ReqRec) : (s.modReq k w).qps = s.qps := rfl
@[simp] theorem State.modReq_funcs (s : State) (k : Nat) (w : ReqRec → ReqRec) : (s.modReq k w).funcs = s.funcs := rfl
@[simp] theorem State.modReq_hostMem (s : State) (k : Nat) (w : ReqRec → ReqRec) : (s.modReq k w).hostMem = s.hostMem := rfl
@[simp] theorem State.modReq_msix (s : State) (k : Nat) (w : ReqRec → ReqRec) : (s.modReq k w).msix = s.msix := rfl
@[simp] theorem State.modReq_lastRead (s : State) (k : Nat) (w : ReqRec → ReqRec) : (s.modReq k w).lastRead = s.lastRead := rfl
@[simp] theorem State.modReq_xram (s : State) (k : Nat) (w : ReqRec → ReqRec) : (s.modReq k w).xram = s.xram := rfl
@[simp] theorem State.modReq_xramColl (s : State) (k : Nat) (w : ReqRec → ReqRec) : (s.modReq k w).xramColl = s.xramColl := rfl
@[simp] theorem State.modReq_xramWord (s : State) (k : Nat) (w : ReqRec → ReqRec) : (s.modReq k w).xramWord = s.xramWord := rfl
@[simp] theorem State.modReq_badAccess (s : State) (k : Nat) (w : ReqRec → ReqRec) : (s.modReq k w).badAccess = s.badAccess := rfl
@[simp] theorem State.modReq_creel (s : State) (k : Nat) (w : ReqRec → ReqRec) : (s.modReq k w).creel = s.creel := rfl
@[simp] theorem State.modReq_links (s : State) (k : Nat) (w : ReqRec → ReqRec) : (s.modReq k w).links = s.links := rfl
@[simp] theorem State.modReq_span (s : State) (k : Nat) (w : ReqRec → ReqRec) : (s.modReq k w).span = s.span := rfl
@[simp] theorem State.modReq_skeins (s : State) (k : Nat) (w : ReqRec → ReqRec) : (s.modReq k w).skeins = s.skeins := rfl
@[simp] theorem State.modReq_fields (s : State) (k : Nat) (w : ReqRec → ReqRec) : (s.modReq k w).fields = s.fields := rfl
@[simp] theorem State.modReq_power (s : State) (k : Nat) (w : ReqRec → ReqRec) : (s.modReq k w).power = s.power := rfl
@[simp] theorem State.modReq_thermal (s : State) (k : Nat) (w : ReqRec → ReqRec) : (s.modReq k w).thermal = s.thermal := rfl
@[simp] theorem State.modReq_faults (s : State) (k : Nat) (w : ReqRec → ReqRec) : (s.modReq k w).faults = s.faults := rfl
@[simp] theorem State.modReq_ctSel (s : State) (k : Nat) (w : ReqRec → ReqRec) : (s.modReq k w).ctSel = s.ctSel := rfl
@[simp] theorem State.modReq_ctVal (s : State) (k : Nat) (w : ReqRec → ReqRec) : (s.modReq k w).ctVal = s.ctVal := rfl
@[simp] theorem State.modReq_ctPages (s : State) (k : Nat) (w : ReqRec → ReqRec) : (s.modReq k w).ctPages = s.ctPages := rfl
@[simp] theorem State.modReq_ledger (s : State) (k : Nat) (w : ReqRec → ReqRec) : (s.modReq k w).ledger = s.ledger := rfl
@[simp] theorem State.modReq_security (s : State) (k : Nat) (w : ReqRec → ReqRec) : (s.modReq k w).security = s.security := rfl
@[simp] theorem State.modReq_boot (s : State) (k : Nat) (w : ReqRec → ReqRec) : (s.modReq k w).boot = s.boot := rfl
@[simp] theorem State.modReq_unit_core (s : State) (k j : Nat) (w : ReqRec → ReqRec) : (s.modReq k w).core j = s.core j := rfl
@[simp] theorem State.modReq_unit_router (s : State) (k j : Nat) (w : ReqRec → ReqRec) : (s.modReq k w).router j = s.router j := rfl
@[simp] theorem State.modReq_unit_harn (s : State) (k j : Nat) (w : ReqRec → ReqRec) : (s.modReq k w).harn j = s.harn j := rfl
@[simp] theorem State.modReq_unit_bolt (s : State) (k j : Nat) (w : ReqRec → ReqRec) : (s.modReq k w).bolt j = s.bolt j := rfl
@[simp] theorem State.modReq_unit_adapter (s : State) (k j : Nat) (w : ReqRec → ReqRec) : (s.modReq k w).adapter j = s.adapter j := rfl
@[simp] theorem State.modReq_unit_serveOf (s : State) (k j : Nat) (w : ReqRec → ReqRec) : (s.modReq k w).serveOf j = s.serveOf j := rfl
@[simp] theorem State.modReq_unit_qp (s : State) (k j : Nat) (w : ReqRec → ReqRec) : (s.modReq k w).qp j = s.qp j := rfl
@[simp] theorem State.modReq_unit_func (s : State) (k j : Nat) (w : ReqRec → ReqRec) : (s.modReq k w).func j = s.func j := rfl
@[simp] theorem State.modReq_unit_port (s : State) (k j : Nat) (w : ReqRec → ReqRec) : (s.modReq k w).port j = s.port j := rfl
@[simp] theorem State.modReq_unit_link (s : State) (k j : Nat) (w : ReqRec → ReqRec) : (s.modReq k w).link j = s.link j := rfl
@[simp] theorem State.modReq_unit_skein (s : State) (k j : Nat) (w : ReqRec → ReqRec) : (s.modReq k w).skein j = s.skein j := rfl
@[simp] theorem State.modReq_unit_field (s : State) (k j : Nat) (w : ReqRec → ReqRec) : (s.modReq k w).field j = s.field j := rfl
@[simp] theorem State.modReq_unit_ctPage (s : State) (k j : Nat) (w : ReqRec → ReqRec) : (s.modReq k w).ctPage j = s.ctPage j := rfl

/-! ## `State.setQp` -/

@[simp] theorem State.setQp_qp_self (s : State) (k : Nat) (r : QpRec) : (s.setQp k r).qp k = r := Tab.get_put_self _ _ _ _
theorem State.setQp_qp_ne (s : State) (k j : Nat) (r : QpRec) (h : j ≠ k) : (s.setQp k r).qp j = s.qp j :=
  Tab.get_put_ne _ _ _ _ _ h
theorem State.setQp_qp (s : State) (k j : Nat) (r : QpRec) : (s.setQp k r).qp j = if j = k then r else s.qp j :=
  Tab.get_put _ _ _ _ _
@[simp] theorem State.setQp_pending (s : State) (k : Nat) (r : QpRec) : (s.setQp k r).pending = s.pending := rfl
@[simp] theorem State.setQp_time (s : State) (k : Nat) (r : QpRec) : (s.setQp k r).time = s.time := rfl
@[simp] theorem State.setQp_free (s : State) (k : Nat) (r : QpRec) : (s.setQp k r).free = s.free := rfl
@[simp] theorem State.setQp_cores (s : State) (k : Nat) (r : QpRec) : (s.setQp k r).cores = s.cores := rfl
@[simp] theorem State.setQp_routers (s : State) (k : Nat) (r : QpRec) : (s.setQp k r).routers = s.routers := rfl
@[simp] theorem State.setQp_net (s : State) (k : Nat) (r : QpRec) : (s.setQp k r).net = s.net := rfl
@[simp] theorem State.setQp_harness (s : State) (k : Nat) (r : QpRec) : (s.setQp k r).harness = s.harness := rfl
@[simp] theorem State.setQp_tokenIn (s : State) (k : Nat) (r : QpRec) : (s.setQp k r).tokenIn = s.tokenIn := rfl
@[simp] theorem State.setQp_aperture (s : State) (k : Nat) (r : QpRec) : (s.setQp k r).aperture = s.aperture := rfl
@[simp] theorem State.setQp_selvRx (s : State) (k : Nat) (r : QpRec) : (s.setQp k r).selvRx = s.selvRx := rfl
@[simp] theorem State.setQp_ctrlData (s : State) (k : Nat) (r : QpRec) : (s.setQp k r).ctrlData = s.ctrlData := rfl
@[simp] theorem State.setQp_probes (s : State) (k : Nat) (r : QpRec) : (s.setQp k r).probes = s.probes := rfl
@[simp] theorem State.setQp_bolts (s : State) (k : Nat) (r : QpRec) : (s.setQp k r).bolts = s.bolts := rfl
@[simp] theorem State.setQp_adapters (s : State) (k : Nat) (r : QpRec) : (s.setQp k r).adapters = s.adapters := rfl
@[simp] theorem State.setQp_serve (s : State) (k : Nat) (r : QpRec) : (s.setQp k r).serve = s.serve := rfl
@[simp] theorem State.setQp_reqs (s : State) (k : Nat) (r : QpRec) : (s.setQp k r).reqs = s.reqs := rfl
@[simp] theorem State.setQp_lowFree (s : State) (k : Nat) (r : QpRec) : (s.setQp k r).lowFree = s.lowFree := rfl
@[simp] theorem State.setQp_keyMismatch (s : State) (k : Nat) (r : QpRec) : (s.setQp k r).keyMismatch = s.keyMismatch := rfl
@[simp] theorem State.setQp_funcs (s : State) (k : Nat) (r : QpRec) : (s.setQp k r).funcs = s.funcs := rfl
@[simp] theorem State.setQp_hostMem (s : State) (k : Nat) (r : QpRec) : (s.setQp k r).hostMem = s.hostMem := rfl
@[simp] theorem State.setQp_msix (s : State) (k : Nat) (r : QpRec) : (s.setQp k r).msix = s.msix := rfl
@[simp] theorem State.setQp_lastRead (s : State) (k : Nat) (r : QpRec) : (s.setQp k r).lastRead = s.lastRead := rfl
@[simp] theorem State.setQp_xram (s : State) (k : Nat) (r : QpRec) : (s.setQp k r).xram = s.xram := rfl
@[simp] theorem State.setQp_xramColl (s : State) (k : Nat) (r : QpRec) : (s.setQp k r).xramColl = s.xramColl := rfl
@[simp] theorem State.setQp_xramWord (s : State) (k : Nat) (r : QpRec) : (s.setQp k r).xramWord = s.xramWord := rfl
@[simp] theorem State.setQp_badAccess (s : State) (k : Nat) (r : QpRec) : (s.setQp k r).badAccess = s.badAccess := rfl
@[simp] theorem State.setQp_creel (s : State) (k : Nat) (r : QpRec) : (s.setQp k r).creel = s.creel := rfl
@[simp] theorem State.setQp_links (s : State) (k : Nat) (r : QpRec) : (s.setQp k r).links = s.links := rfl
@[simp] theorem State.setQp_span (s : State) (k : Nat) (r : QpRec) : (s.setQp k r).span = s.span := rfl
@[simp] theorem State.setQp_skeins (s : State) (k : Nat) (r : QpRec) : (s.setQp k r).skeins = s.skeins := rfl
@[simp] theorem State.setQp_fields (s : State) (k : Nat) (r : QpRec) : (s.setQp k r).fields = s.fields := rfl
@[simp] theorem State.setQp_power (s : State) (k : Nat) (r : QpRec) : (s.setQp k r).power = s.power := rfl
@[simp] theorem State.setQp_thermal (s : State) (k : Nat) (r : QpRec) : (s.setQp k r).thermal = s.thermal := rfl
@[simp] theorem State.setQp_faults (s : State) (k : Nat) (r : QpRec) : (s.setQp k r).faults = s.faults := rfl
@[simp] theorem State.setQp_ctSel (s : State) (k : Nat) (r : QpRec) : (s.setQp k r).ctSel = s.ctSel := rfl
@[simp] theorem State.setQp_ctVal (s : State) (k : Nat) (r : QpRec) : (s.setQp k r).ctVal = s.ctVal := rfl
@[simp] theorem State.setQp_ctPages (s : State) (k : Nat) (r : QpRec) : (s.setQp k r).ctPages = s.ctPages := rfl
@[simp] theorem State.setQp_ledger (s : State) (k : Nat) (r : QpRec) : (s.setQp k r).ledger = s.ledger := rfl
@[simp] theorem State.setQp_security (s : State) (k : Nat) (r : QpRec) : (s.setQp k r).security = s.security := rfl
@[simp] theorem State.setQp_boot (s : State) (k : Nat) (r : QpRec) : (s.setQp k r).boot = s.boot := rfl
@[simp] theorem State.setQp_unit_core (s : State) (k j : Nat) (r : QpRec) : (s.setQp k r).core j = s.core j := rfl
@[simp] theorem State.setQp_unit_router (s : State) (k j : Nat) (r : QpRec) : (s.setQp k r).router j = s.router j := rfl
@[simp] theorem State.setQp_unit_harn (s : State) (k j : Nat) (r : QpRec) : (s.setQp k r).harn j = s.harn j := rfl
@[simp] theorem State.setQp_unit_bolt (s : State) (k j : Nat) (r : QpRec) : (s.setQp k r).bolt j = s.bolt j := rfl
@[simp] theorem State.setQp_unit_adapter (s : State) (k j : Nat) (r : QpRec) : (s.setQp k r).adapter j = s.adapter j := rfl
@[simp] theorem State.setQp_unit_serveOf (s : State) (k j : Nat) (r : QpRec) : (s.setQp k r).serveOf j = s.serveOf j := rfl
@[simp] theorem State.setQp_unit_req (s : State) (k j : Nat) (r : QpRec) : (s.setQp k r).req j = s.req j := rfl
@[simp] theorem State.setQp_unit_func (s : State) (k j : Nat) (r : QpRec) : (s.setQp k r).func j = s.func j := rfl
@[simp] theorem State.setQp_unit_port (s : State) (k j : Nat) (r : QpRec) : (s.setQp k r).port j = s.port j := rfl
@[simp] theorem State.setQp_unit_link (s : State) (k j : Nat) (r : QpRec) : (s.setQp k r).link j = s.link j := rfl
@[simp] theorem State.setQp_unit_skein (s : State) (k j : Nat) (r : QpRec) : (s.setQp k r).skein j = s.skein j := rfl
@[simp] theorem State.setQp_unit_field (s : State) (k j : Nat) (r : QpRec) : (s.setQp k r).field j = s.field j := rfl
@[simp] theorem State.setQp_unit_ctPage (s : State) (k j : Nat) (r : QpRec) : (s.setQp k r).ctPage j = s.ctPage j := rfl
@[simp] theorem State.modQp_qp_self (s : State) (k : Nat) (g : QpRec → QpRec) : (s.modQp k g).qp k = g (s.qp k) :=
  Tab.get_put_self _ _ _ _
theorem State.modQp_qp_ne (s : State) (k j : Nat) (g : QpRec → QpRec) (h : j ≠ k) : (s.modQp k g).qp j = s.qp j :=
  Tab.get_put_ne _ _ _ _ _ h
@[simp] theorem State.modQp_pending (s : State) (k : Nat) (w : QpRec → QpRec) : (s.modQp k w).pending = s.pending := rfl
@[simp] theorem State.modQp_time (s : State) (k : Nat) (w : QpRec → QpRec) : (s.modQp k w).time = s.time := rfl
@[simp] theorem State.modQp_free (s : State) (k : Nat) (w : QpRec → QpRec) : (s.modQp k w).free = s.free := rfl
@[simp] theorem State.modQp_cores (s : State) (k : Nat) (w : QpRec → QpRec) : (s.modQp k w).cores = s.cores := rfl
@[simp] theorem State.modQp_routers (s : State) (k : Nat) (w : QpRec → QpRec) : (s.modQp k w).routers = s.routers := rfl
@[simp] theorem State.modQp_net (s : State) (k : Nat) (w : QpRec → QpRec) : (s.modQp k w).net = s.net := rfl
@[simp] theorem State.modQp_harness (s : State) (k : Nat) (w : QpRec → QpRec) : (s.modQp k w).harness = s.harness := rfl
@[simp] theorem State.modQp_tokenIn (s : State) (k : Nat) (w : QpRec → QpRec) : (s.modQp k w).tokenIn = s.tokenIn := rfl
@[simp] theorem State.modQp_aperture (s : State) (k : Nat) (w : QpRec → QpRec) : (s.modQp k w).aperture = s.aperture := rfl
@[simp] theorem State.modQp_selvRx (s : State) (k : Nat) (w : QpRec → QpRec) : (s.modQp k w).selvRx = s.selvRx := rfl
@[simp] theorem State.modQp_ctrlData (s : State) (k : Nat) (w : QpRec → QpRec) : (s.modQp k w).ctrlData = s.ctrlData := rfl
@[simp] theorem State.modQp_probes (s : State) (k : Nat) (w : QpRec → QpRec) : (s.modQp k w).probes = s.probes := rfl
@[simp] theorem State.modQp_bolts (s : State) (k : Nat) (w : QpRec → QpRec) : (s.modQp k w).bolts = s.bolts := rfl
@[simp] theorem State.modQp_adapters (s : State) (k : Nat) (w : QpRec → QpRec) : (s.modQp k w).adapters = s.adapters := rfl
@[simp] theorem State.modQp_serve (s : State) (k : Nat) (w : QpRec → QpRec) : (s.modQp k w).serve = s.serve := rfl
@[simp] theorem State.modQp_reqs (s : State) (k : Nat) (w : QpRec → QpRec) : (s.modQp k w).reqs = s.reqs := rfl
@[simp] theorem State.modQp_lowFree (s : State) (k : Nat) (w : QpRec → QpRec) : (s.modQp k w).lowFree = s.lowFree := rfl
@[simp] theorem State.modQp_keyMismatch (s : State) (k : Nat) (w : QpRec → QpRec) : (s.modQp k w).keyMismatch = s.keyMismatch := rfl
@[simp] theorem State.modQp_funcs (s : State) (k : Nat) (w : QpRec → QpRec) : (s.modQp k w).funcs = s.funcs := rfl
@[simp] theorem State.modQp_hostMem (s : State) (k : Nat) (w : QpRec → QpRec) : (s.modQp k w).hostMem = s.hostMem := rfl
@[simp] theorem State.modQp_msix (s : State) (k : Nat) (w : QpRec → QpRec) : (s.modQp k w).msix = s.msix := rfl
@[simp] theorem State.modQp_lastRead (s : State) (k : Nat) (w : QpRec → QpRec) : (s.modQp k w).lastRead = s.lastRead := rfl
@[simp] theorem State.modQp_xram (s : State) (k : Nat) (w : QpRec → QpRec) : (s.modQp k w).xram = s.xram := rfl
@[simp] theorem State.modQp_xramColl (s : State) (k : Nat) (w : QpRec → QpRec) : (s.modQp k w).xramColl = s.xramColl := rfl
@[simp] theorem State.modQp_xramWord (s : State) (k : Nat) (w : QpRec → QpRec) : (s.modQp k w).xramWord = s.xramWord := rfl
@[simp] theorem State.modQp_badAccess (s : State) (k : Nat) (w : QpRec → QpRec) : (s.modQp k w).badAccess = s.badAccess := rfl
@[simp] theorem State.modQp_creel (s : State) (k : Nat) (w : QpRec → QpRec) : (s.modQp k w).creel = s.creel := rfl
@[simp] theorem State.modQp_links (s : State) (k : Nat) (w : QpRec → QpRec) : (s.modQp k w).links = s.links := rfl
@[simp] theorem State.modQp_span (s : State) (k : Nat) (w : QpRec → QpRec) : (s.modQp k w).span = s.span := rfl
@[simp] theorem State.modQp_skeins (s : State) (k : Nat) (w : QpRec → QpRec) : (s.modQp k w).skeins = s.skeins := rfl
@[simp] theorem State.modQp_fields (s : State) (k : Nat) (w : QpRec → QpRec) : (s.modQp k w).fields = s.fields := rfl
@[simp] theorem State.modQp_power (s : State) (k : Nat) (w : QpRec → QpRec) : (s.modQp k w).power = s.power := rfl
@[simp] theorem State.modQp_thermal (s : State) (k : Nat) (w : QpRec → QpRec) : (s.modQp k w).thermal = s.thermal := rfl
@[simp] theorem State.modQp_faults (s : State) (k : Nat) (w : QpRec → QpRec) : (s.modQp k w).faults = s.faults := rfl
@[simp] theorem State.modQp_ctSel (s : State) (k : Nat) (w : QpRec → QpRec) : (s.modQp k w).ctSel = s.ctSel := rfl
@[simp] theorem State.modQp_ctVal (s : State) (k : Nat) (w : QpRec → QpRec) : (s.modQp k w).ctVal = s.ctVal := rfl
@[simp] theorem State.modQp_ctPages (s : State) (k : Nat) (w : QpRec → QpRec) : (s.modQp k w).ctPages = s.ctPages := rfl
@[simp] theorem State.modQp_ledger (s : State) (k : Nat) (w : QpRec → QpRec) : (s.modQp k w).ledger = s.ledger := rfl
@[simp] theorem State.modQp_security (s : State) (k : Nat) (w : QpRec → QpRec) : (s.modQp k w).security = s.security := rfl
@[simp] theorem State.modQp_boot (s : State) (k : Nat) (w : QpRec → QpRec) : (s.modQp k w).boot = s.boot := rfl
@[simp] theorem State.modQp_unit_core (s : State) (k j : Nat) (w : QpRec → QpRec) : (s.modQp k w).core j = s.core j := rfl
@[simp] theorem State.modQp_unit_router (s : State) (k j : Nat) (w : QpRec → QpRec) : (s.modQp k w).router j = s.router j := rfl
@[simp] theorem State.modQp_unit_harn (s : State) (k j : Nat) (w : QpRec → QpRec) : (s.modQp k w).harn j = s.harn j := rfl
@[simp] theorem State.modQp_unit_bolt (s : State) (k j : Nat) (w : QpRec → QpRec) : (s.modQp k w).bolt j = s.bolt j := rfl
@[simp] theorem State.modQp_unit_adapter (s : State) (k j : Nat) (w : QpRec → QpRec) : (s.modQp k w).adapter j = s.adapter j := rfl
@[simp] theorem State.modQp_unit_serveOf (s : State) (k j : Nat) (w : QpRec → QpRec) : (s.modQp k w).serveOf j = s.serveOf j := rfl
@[simp] theorem State.modQp_unit_req (s : State) (k j : Nat) (w : QpRec → QpRec) : (s.modQp k w).req j = s.req j := rfl
@[simp] theorem State.modQp_unit_func (s : State) (k j : Nat) (w : QpRec → QpRec) : (s.modQp k w).func j = s.func j := rfl
@[simp] theorem State.modQp_unit_port (s : State) (k j : Nat) (w : QpRec → QpRec) : (s.modQp k w).port j = s.port j := rfl
@[simp] theorem State.modQp_unit_link (s : State) (k j : Nat) (w : QpRec → QpRec) : (s.modQp k w).link j = s.link j := rfl
@[simp] theorem State.modQp_unit_skein (s : State) (k j : Nat) (w : QpRec → QpRec) : (s.modQp k w).skein j = s.skein j := rfl
@[simp] theorem State.modQp_unit_field (s : State) (k j : Nat) (w : QpRec → QpRec) : (s.modQp k w).field j = s.field j := rfl
@[simp] theorem State.modQp_unit_ctPage (s : State) (k j : Nat) (w : QpRec → QpRec) : (s.modQp k w).ctPage j = s.ctPage j := rfl

/-! ## `State.setFunc` -/

@[simp] theorem State.setFunc_func_self (s : State) (k : Nat) (r : FuncRec) : (s.setFunc k r).func k = r := Tab.get_put_self _ _ _ _
theorem State.setFunc_func_ne (s : State) (k j : Nat) (r : FuncRec) (h : j ≠ k) : (s.setFunc k r).func j = s.func j :=
  Tab.get_put_ne _ _ _ _ _ h
theorem State.setFunc_func (s : State) (k j : Nat) (r : FuncRec) : (s.setFunc k r).func j = if j = k then r else s.func j :=
  Tab.get_put _ _ _ _ _
@[simp] theorem State.setFunc_pending (s : State) (k : Nat) (r : FuncRec) : (s.setFunc k r).pending = s.pending := rfl
@[simp] theorem State.setFunc_time (s : State) (k : Nat) (r : FuncRec) : (s.setFunc k r).time = s.time := rfl
@[simp] theorem State.setFunc_free (s : State) (k : Nat) (r : FuncRec) : (s.setFunc k r).free = s.free := rfl
@[simp] theorem State.setFunc_cores (s : State) (k : Nat) (r : FuncRec) : (s.setFunc k r).cores = s.cores := rfl
@[simp] theorem State.setFunc_routers (s : State) (k : Nat) (r : FuncRec) : (s.setFunc k r).routers = s.routers := rfl
@[simp] theorem State.setFunc_net (s : State) (k : Nat) (r : FuncRec) : (s.setFunc k r).net = s.net := rfl
@[simp] theorem State.setFunc_harness (s : State) (k : Nat) (r : FuncRec) : (s.setFunc k r).harness = s.harness := rfl
@[simp] theorem State.setFunc_tokenIn (s : State) (k : Nat) (r : FuncRec) : (s.setFunc k r).tokenIn = s.tokenIn := rfl
@[simp] theorem State.setFunc_aperture (s : State) (k : Nat) (r : FuncRec) : (s.setFunc k r).aperture = s.aperture := rfl
@[simp] theorem State.setFunc_selvRx (s : State) (k : Nat) (r : FuncRec) : (s.setFunc k r).selvRx = s.selvRx := rfl
@[simp] theorem State.setFunc_ctrlData (s : State) (k : Nat) (r : FuncRec) : (s.setFunc k r).ctrlData = s.ctrlData := rfl
@[simp] theorem State.setFunc_probes (s : State) (k : Nat) (r : FuncRec) : (s.setFunc k r).probes = s.probes := rfl
@[simp] theorem State.setFunc_bolts (s : State) (k : Nat) (r : FuncRec) : (s.setFunc k r).bolts = s.bolts := rfl
@[simp] theorem State.setFunc_adapters (s : State) (k : Nat) (r : FuncRec) : (s.setFunc k r).adapters = s.adapters := rfl
@[simp] theorem State.setFunc_serve (s : State) (k : Nat) (r : FuncRec) : (s.setFunc k r).serve = s.serve := rfl
@[simp] theorem State.setFunc_reqs (s : State) (k : Nat) (r : FuncRec) : (s.setFunc k r).reqs = s.reqs := rfl
@[simp] theorem State.setFunc_lowFree (s : State) (k : Nat) (r : FuncRec) : (s.setFunc k r).lowFree = s.lowFree := rfl
@[simp] theorem State.setFunc_keyMismatch (s : State) (k : Nat) (r : FuncRec) : (s.setFunc k r).keyMismatch = s.keyMismatch := rfl
@[simp] theorem State.setFunc_qps (s : State) (k : Nat) (r : FuncRec) : (s.setFunc k r).qps = s.qps := rfl
@[simp] theorem State.setFunc_hostMem (s : State) (k : Nat) (r : FuncRec) : (s.setFunc k r).hostMem = s.hostMem := rfl
@[simp] theorem State.setFunc_msix (s : State) (k : Nat) (r : FuncRec) : (s.setFunc k r).msix = s.msix := rfl
@[simp] theorem State.setFunc_lastRead (s : State) (k : Nat) (r : FuncRec) : (s.setFunc k r).lastRead = s.lastRead := rfl
@[simp] theorem State.setFunc_xram (s : State) (k : Nat) (r : FuncRec) : (s.setFunc k r).xram = s.xram := rfl
@[simp] theorem State.setFunc_xramColl (s : State) (k : Nat) (r : FuncRec) : (s.setFunc k r).xramColl = s.xramColl := rfl
@[simp] theorem State.setFunc_xramWord (s : State) (k : Nat) (r : FuncRec) : (s.setFunc k r).xramWord = s.xramWord := rfl
@[simp] theorem State.setFunc_badAccess (s : State) (k : Nat) (r : FuncRec) : (s.setFunc k r).badAccess = s.badAccess := rfl
@[simp] theorem State.setFunc_creel (s : State) (k : Nat) (r : FuncRec) : (s.setFunc k r).creel = s.creel := rfl
@[simp] theorem State.setFunc_links (s : State) (k : Nat) (r : FuncRec) : (s.setFunc k r).links = s.links := rfl
@[simp] theorem State.setFunc_span (s : State) (k : Nat) (r : FuncRec) : (s.setFunc k r).span = s.span := rfl
@[simp] theorem State.setFunc_skeins (s : State) (k : Nat) (r : FuncRec) : (s.setFunc k r).skeins = s.skeins := rfl
@[simp] theorem State.setFunc_fields (s : State) (k : Nat) (r : FuncRec) : (s.setFunc k r).fields = s.fields := rfl
@[simp] theorem State.setFunc_power (s : State) (k : Nat) (r : FuncRec) : (s.setFunc k r).power = s.power := rfl
@[simp] theorem State.setFunc_thermal (s : State) (k : Nat) (r : FuncRec) : (s.setFunc k r).thermal = s.thermal := rfl
@[simp] theorem State.setFunc_faults (s : State) (k : Nat) (r : FuncRec) : (s.setFunc k r).faults = s.faults := rfl
@[simp] theorem State.setFunc_ctSel (s : State) (k : Nat) (r : FuncRec) : (s.setFunc k r).ctSel = s.ctSel := rfl
@[simp] theorem State.setFunc_ctVal (s : State) (k : Nat) (r : FuncRec) : (s.setFunc k r).ctVal = s.ctVal := rfl
@[simp] theorem State.setFunc_ctPages (s : State) (k : Nat) (r : FuncRec) : (s.setFunc k r).ctPages = s.ctPages := rfl
@[simp] theorem State.setFunc_ledger (s : State) (k : Nat) (r : FuncRec) : (s.setFunc k r).ledger = s.ledger := rfl
@[simp] theorem State.setFunc_security (s : State) (k : Nat) (r : FuncRec) : (s.setFunc k r).security = s.security := rfl
@[simp] theorem State.setFunc_boot (s : State) (k : Nat) (r : FuncRec) : (s.setFunc k r).boot = s.boot := rfl
@[simp] theorem State.setFunc_unit_core (s : State) (k j : Nat) (r : FuncRec) : (s.setFunc k r).core j = s.core j := rfl
@[simp] theorem State.setFunc_unit_router (s : State) (k j : Nat) (r : FuncRec) : (s.setFunc k r).router j = s.router j := rfl
@[simp] theorem State.setFunc_unit_harn (s : State) (k j : Nat) (r : FuncRec) : (s.setFunc k r).harn j = s.harn j := rfl
@[simp] theorem State.setFunc_unit_bolt (s : State) (k j : Nat) (r : FuncRec) : (s.setFunc k r).bolt j = s.bolt j := rfl
@[simp] theorem State.setFunc_unit_adapter (s : State) (k j : Nat) (r : FuncRec) : (s.setFunc k r).adapter j = s.adapter j := rfl
@[simp] theorem State.setFunc_unit_serveOf (s : State) (k j : Nat) (r : FuncRec) : (s.setFunc k r).serveOf j = s.serveOf j := rfl
@[simp] theorem State.setFunc_unit_req (s : State) (k j : Nat) (r : FuncRec) : (s.setFunc k r).req j = s.req j := rfl
@[simp] theorem State.setFunc_unit_qp (s : State) (k j : Nat) (r : FuncRec) : (s.setFunc k r).qp j = s.qp j := rfl
@[simp] theorem State.setFunc_unit_port (s : State) (k j : Nat) (r : FuncRec) : (s.setFunc k r).port j = s.port j := rfl
@[simp] theorem State.setFunc_unit_link (s : State) (k j : Nat) (r : FuncRec) : (s.setFunc k r).link j = s.link j := rfl
@[simp] theorem State.setFunc_unit_skein (s : State) (k j : Nat) (r : FuncRec) : (s.setFunc k r).skein j = s.skein j := rfl
@[simp] theorem State.setFunc_unit_field (s : State) (k j : Nat) (r : FuncRec) : (s.setFunc k r).field j = s.field j := rfl
@[simp] theorem State.setFunc_unit_ctPage (s : State) (k j : Nat) (r : FuncRec) : (s.setFunc k r).ctPage j = s.ctPage j := rfl
@[simp] theorem State.modFunc_func_self (s : State) (k : Nat) (g : FuncRec → FuncRec) : (s.modFunc k g).func k = g (s.func k) :=
  Tab.get_put_self _ _ _ _
theorem State.modFunc_func_ne (s : State) (k j : Nat) (g : FuncRec → FuncRec) (h : j ≠ k) : (s.modFunc k g).func j = s.func j :=
  Tab.get_put_ne _ _ _ _ _ h
@[simp] theorem State.modFunc_pending (s : State) (k : Nat) (w : FuncRec → FuncRec) : (s.modFunc k w).pending = s.pending := rfl
@[simp] theorem State.modFunc_time (s : State) (k : Nat) (w : FuncRec → FuncRec) : (s.modFunc k w).time = s.time := rfl
@[simp] theorem State.modFunc_free (s : State) (k : Nat) (w : FuncRec → FuncRec) : (s.modFunc k w).free = s.free := rfl
@[simp] theorem State.modFunc_cores (s : State) (k : Nat) (w : FuncRec → FuncRec) : (s.modFunc k w).cores = s.cores := rfl
@[simp] theorem State.modFunc_routers (s : State) (k : Nat) (w : FuncRec → FuncRec) : (s.modFunc k w).routers = s.routers := rfl
@[simp] theorem State.modFunc_net (s : State) (k : Nat) (w : FuncRec → FuncRec) : (s.modFunc k w).net = s.net := rfl
@[simp] theorem State.modFunc_harness (s : State) (k : Nat) (w : FuncRec → FuncRec) : (s.modFunc k w).harness = s.harness := rfl
@[simp] theorem State.modFunc_tokenIn (s : State) (k : Nat) (w : FuncRec → FuncRec) : (s.modFunc k w).tokenIn = s.tokenIn := rfl
@[simp] theorem State.modFunc_aperture (s : State) (k : Nat) (w : FuncRec → FuncRec) : (s.modFunc k w).aperture = s.aperture := rfl
@[simp] theorem State.modFunc_selvRx (s : State) (k : Nat) (w : FuncRec → FuncRec) : (s.modFunc k w).selvRx = s.selvRx := rfl
@[simp] theorem State.modFunc_ctrlData (s : State) (k : Nat) (w : FuncRec → FuncRec) : (s.modFunc k w).ctrlData = s.ctrlData := rfl
@[simp] theorem State.modFunc_probes (s : State) (k : Nat) (w : FuncRec → FuncRec) : (s.modFunc k w).probes = s.probes := rfl
@[simp] theorem State.modFunc_bolts (s : State) (k : Nat) (w : FuncRec → FuncRec) : (s.modFunc k w).bolts = s.bolts := rfl
@[simp] theorem State.modFunc_adapters (s : State) (k : Nat) (w : FuncRec → FuncRec) : (s.modFunc k w).adapters = s.adapters := rfl
@[simp] theorem State.modFunc_serve (s : State) (k : Nat) (w : FuncRec → FuncRec) : (s.modFunc k w).serve = s.serve := rfl
@[simp] theorem State.modFunc_reqs (s : State) (k : Nat) (w : FuncRec → FuncRec) : (s.modFunc k w).reqs = s.reqs := rfl
@[simp] theorem State.modFunc_lowFree (s : State) (k : Nat) (w : FuncRec → FuncRec) : (s.modFunc k w).lowFree = s.lowFree := rfl
@[simp] theorem State.modFunc_keyMismatch (s : State) (k : Nat) (w : FuncRec → FuncRec) : (s.modFunc k w).keyMismatch = s.keyMismatch := rfl
@[simp] theorem State.modFunc_qps (s : State) (k : Nat) (w : FuncRec → FuncRec) : (s.modFunc k w).qps = s.qps := rfl
@[simp] theorem State.modFunc_hostMem (s : State) (k : Nat) (w : FuncRec → FuncRec) : (s.modFunc k w).hostMem = s.hostMem := rfl
@[simp] theorem State.modFunc_msix (s : State) (k : Nat) (w : FuncRec → FuncRec) : (s.modFunc k w).msix = s.msix := rfl
@[simp] theorem State.modFunc_lastRead (s : State) (k : Nat) (w : FuncRec → FuncRec) : (s.modFunc k w).lastRead = s.lastRead := rfl
@[simp] theorem State.modFunc_xram (s : State) (k : Nat) (w : FuncRec → FuncRec) : (s.modFunc k w).xram = s.xram := rfl
@[simp] theorem State.modFunc_xramColl (s : State) (k : Nat) (w : FuncRec → FuncRec) : (s.modFunc k w).xramColl = s.xramColl := rfl
@[simp] theorem State.modFunc_xramWord (s : State) (k : Nat) (w : FuncRec → FuncRec) : (s.modFunc k w).xramWord = s.xramWord := rfl
@[simp] theorem State.modFunc_badAccess (s : State) (k : Nat) (w : FuncRec → FuncRec) : (s.modFunc k w).badAccess = s.badAccess := rfl
@[simp] theorem State.modFunc_creel (s : State) (k : Nat) (w : FuncRec → FuncRec) : (s.modFunc k w).creel = s.creel := rfl
@[simp] theorem State.modFunc_links (s : State) (k : Nat) (w : FuncRec → FuncRec) : (s.modFunc k w).links = s.links := rfl
@[simp] theorem State.modFunc_span (s : State) (k : Nat) (w : FuncRec → FuncRec) : (s.modFunc k w).span = s.span := rfl
@[simp] theorem State.modFunc_skeins (s : State) (k : Nat) (w : FuncRec → FuncRec) : (s.modFunc k w).skeins = s.skeins := rfl
@[simp] theorem State.modFunc_fields (s : State) (k : Nat) (w : FuncRec → FuncRec) : (s.modFunc k w).fields = s.fields := rfl
@[simp] theorem State.modFunc_power (s : State) (k : Nat) (w : FuncRec → FuncRec) : (s.modFunc k w).power = s.power := rfl
@[simp] theorem State.modFunc_thermal (s : State) (k : Nat) (w : FuncRec → FuncRec) : (s.modFunc k w).thermal = s.thermal := rfl
@[simp] theorem State.modFunc_faults (s : State) (k : Nat) (w : FuncRec → FuncRec) : (s.modFunc k w).faults = s.faults := rfl
@[simp] theorem State.modFunc_ctSel (s : State) (k : Nat) (w : FuncRec → FuncRec) : (s.modFunc k w).ctSel = s.ctSel := rfl
@[simp] theorem State.modFunc_ctVal (s : State) (k : Nat) (w : FuncRec → FuncRec) : (s.modFunc k w).ctVal = s.ctVal := rfl
@[simp] theorem State.modFunc_ctPages (s : State) (k : Nat) (w : FuncRec → FuncRec) : (s.modFunc k w).ctPages = s.ctPages := rfl
@[simp] theorem State.modFunc_ledger (s : State) (k : Nat) (w : FuncRec → FuncRec) : (s.modFunc k w).ledger = s.ledger := rfl
@[simp] theorem State.modFunc_security (s : State) (k : Nat) (w : FuncRec → FuncRec) : (s.modFunc k w).security = s.security := rfl
@[simp] theorem State.modFunc_boot (s : State) (k : Nat) (w : FuncRec → FuncRec) : (s.modFunc k w).boot = s.boot := rfl
@[simp] theorem State.modFunc_unit_core (s : State) (k j : Nat) (w : FuncRec → FuncRec) : (s.modFunc k w).core j = s.core j := rfl
@[simp] theorem State.modFunc_unit_router (s : State) (k j : Nat) (w : FuncRec → FuncRec) : (s.modFunc k w).router j = s.router j := rfl
@[simp] theorem State.modFunc_unit_harn (s : State) (k j : Nat) (w : FuncRec → FuncRec) : (s.modFunc k w).harn j = s.harn j := rfl
@[simp] theorem State.modFunc_unit_bolt (s : State) (k j : Nat) (w : FuncRec → FuncRec) : (s.modFunc k w).bolt j = s.bolt j := rfl
@[simp] theorem State.modFunc_unit_adapter (s : State) (k j : Nat) (w : FuncRec → FuncRec) : (s.modFunc k w).adapter j = s.adapter j := rfl
@[simp] theorem State.modFunc_unit_serveOf (s : State) (k j : Nat) (w : FuncRec → FuncRec) : (s.modFunc k w).serveOf j = s.serveOf j := rfl
@[simp] theorem State.modFunc_unit_req (s : State) (k j : Nat) (w : FuncRec → FuncRec) : (s.modFunc k w).req j = s.req j := rfl
@[simp] theorem State.modFunc_unit_qp (s : State) (k j : Nat) (w : FuncRec → FuncRec) : (s.modFunc k w).qp j = s.qp j := rfl
@[simp] theorem State.modFunc_unit_port (s : State) (k j : Nat) (w : FuncRec → FuncRec) : (s.modFunc k w).port j = s.port j := rfl
@[simp] theorem State.modFunc_unit_link (s : State) (k j : Nat) (w : FuncRec → FuncRec) : (s.modFunc k w).link j = s.link j := rfl
@[simp] theorem State.modFunc_unit_skein (s : State) (k j : Nat) (w : FuncRec → FuncRec) : (s.modFunc k w).skein j = s.skein j := rfl
@[simp] theorem State.modFunc_unit_field (s : State) (k j : Nat) (w : FuncRec → FuncRec) : (s.modFunc k w).field j = s.field j := rfl
@[simp] theorem State.modFunc_unit_ctPage (s : State) (k j : Nat) (w : FuncRec → FuncRec) : (s.modFunc k w).ctPage j = s.ctPage j := rfl

/-! ## `State.setPort` -/

@[simp] theorem State.setPort_port_self (s : State) (k : Nat) (r : PortRec) : (s.setPort k r).port k = r := Tab.get_put_self _ _ _ _
theorem State.setPort_port_ne (s : State) (k j : Nat) (r : PortRec) (h : j ≠ k) : (s.setPort k r).port j = s.port j :=
  Tab.get_put_ne _ _ _ _ _ h
theorem State.setPort_port (s : State) (k j : Nat) (r : PortRec) : (s.setPort k r).port j = if j = k then r else s.port j :=
  Tab.get_put _ _ _ _ _
@[simp] theorem State.setPort_pending (s : State) (k : Nat) (r : PortRec) : (s.setPort k r).pending = s.pending := rfl
@[simp] theorem State.setPort_time (s : State) (k : Nat) (r : PortRec) : (s.setPort k r).time = s.time := rfl
@[simp] theorem State.setPort_free (s : State) (k : Nat) (r : PortRec) : (s.setPort k r).free = s.free := rfl
@[simp] theorem State.setPort_cores (s : State) (k : Nat) (r : PortRec) : (s.setPort k r).cores = s.cores := rfl
@[simp] theorem State.setPort_routers (s : State) (k : Nat) (r : PortRec) : (s.setPort k r).routers = s.routers := rfl
@[simp] theorem State.setPort_net (s : State) (k : Nat) (r : PortRec) : (s.setPort k r).net = s.net := rfl
@[simp] theorem State.setPort_harness (s : State) (k : Nat) (r : PortRec) : (s.setPort k r).harness = s.harness := rfl
@[simp] theorem State.setPort_tokenIn (s : State) (k : Nat) (r : PortRec) : (s.setPort k r).tokenIn = s.tokenIn := rfl
@[simp] theorem State.setPort_aperture (s : State) (k : Nat) (r : PortRec) : (s.setPort k r).aperture = s.aperture := rfl
@[simp] theorem State.setPort_selvRx (s : State) (k : Nat) (r : PortRec) : (s.setPort k r).selvRx = s.selvRx := rfl
@[simp] theorem State.setPort_ctrlData (s : State) (k : Nat) (r : PortRec) : (s.setPort k r).ctrlData = s.ctrlData := rfl
@[simp] theorem State.setPort_probes (s : State) (k : Nat) (r : PortRec) : (s.setPort k r).probes = s.probes := rfl
@[simp] theorem State.setPort_bolts (s : State) (k : Nat) (r : PortRec) : (s.setPort k r).bolts = s.bolts := rfl
@[simp] theorem State.setPort_adapters (s : State) (k : Nat) (r : PortRec) : (s.setPort k r).adapters = s.adapters := rfl
@[simp] theorem State.setPort_serve (s : State) (k : Nat) (r : PortRec) : (s.setPort k r).serve = s.serve := rfl
@[simp] theorem State.setPort_reqs (s : State) (k : Nat) (r : PortRec) : (s.setPort k r).reqs = s.reqs := rfl
@[simp] theorem State.setPort_lowFree (s : State) (k : Nat) (r : PortRec) : (s.setPort k r).lowFree = s.lowFree := rfl
@[simp] theorem State.setPort_keyMismatch (s : State) (k : Nat) (r : PortRec) : (s.setPort k r).keyMismatch = s.keyMismatch := rfl
@[simp] theorem State.setPort_qps (s : State) (k : Nat) (r : PortRec) : (s.setPort k r).qps = s.qps := rfl
@[simp] theorem State.setPort_funcs (s : State) (k : Nat) (r : PortRec) : (s.setPort k r).funcs = s.funcs := rfl
@[simp] theorem State.setPort_hostMem (s : State) (k : Nat) (r : PortRec) : (s.setPort k r).hostMem = s.hostMem := rfl
@[simp] theorem State.setPort_msix (s : State) (k : Nat) (r : PortRec) : (s.setPort k r).msix = s.msix := rfl
@[simp] theorem State.setPort_lastRead (s : State) (k : Nat) (r : PortRec) : (s.setPort k r).lastRead = s.lastRead := rfl
@[simp] theorem State.setPort_xram (s : State) (k : Nat) (r : PortRec) : (s.setPort k r).xram = s.xram := rfl
@[simp] theorem State.setPort_xramColl (s : State) (k : Nat) (r : PortRec) : (s.setPort k r).xramColl = s.xramColl := rfl
@[simp] theorem State.setPort_xramWord (s : State) (k : Nat) (r : PortRec) : (s.setPort k r).xramWord = s.xramWord := rfl
@[simp] theorem State.setPort_badAccess (s : State) (k : Nat) (r : PortRec) : (s.setPort k r).badAccess = s.badAccess := rfl
@[simp] theorem State.setPort_links (s : State) (k : Nat) (r : PortRec) : (s.setPort k r).links = s.links := rfl
@[simp] theorem State.setPort_span (s : State) (k : Nat) (r : PortRec) : (s.setPort k r).span = s.span := rfl
@[simp] theorem State.setPort_skeins (s : State) (k : Nat) (r : PortRec) : (s.setPort k r).skeins = s.skeins := rfl
@[simp] theorem State.setPort_fields (s : State) (k : Nat) (r : PortRec) : (s.setPort k r).fields = s.fields := rfl
@[simp] theorem State.setPort_power (s : State) (k : Nat) (r : PortRec) : (s.setPort k r).power = s.power := rfl
@[simp] theorem State.setPort_thermal (s : State) (k : Nat) (r : PortRec) : (s.setPort k r).thermal = s.thermal := rfl
@[simp] theorem State.setPort_faults (s : State) (k : Nat) (r : PortRec) : (s.setPort k r).faults = s.faults := rfl
@[simp] theorem State.setPort_ctSel (s : State) (k : Nat) (r : PortRec) : (s.setPort k r).ctSel = s.ctSel := rfl
@[simp] theorem State.setPort_ctVal (s : State) (k : Nat) (r : PortRec) : (s.setPort k r).ctVal = s.ctVal := rfl
@[simp] theorem State.setPort_ctPages (s : State) (k : Nat) (r : PortRec) : (s.setPort k r).ctPages = s.ctPages := rfl
@[simp] theorem State.setPort_ledger (s : State) (k : Nat) (r : PortRec) : (s.setPort k r).ledger = s.ledger := rfl
@[simp] theorem State.setPort_security (s : State) (k : Nat) (r : PortRec) : (s.setPort k r).security = s.security := rfl
@[simp] theorem State.setPort_boot (s : State) (k : Nat) (r : PortRec) : (s.setPort k r).boot = s.boot := rfl
@[simp] theorem State.setPort_unit_core (s : State) (k j : Nat) (r : PortRec) : (s.setPort k r).core j = s.core j := rfl
@[simp] theorem State.setPort_unit_router (s : State) (k j : Nat) (r : PortRec) : (s.setPort k r).router j = s.router j := rfl
@[simp] theorem State.setPort_unit_harn (s : State) (k j : Nat) (r : PortRec) : (s.setPort k r).harn j = s.harn j := rfl
@[simp] theorem State.setPort_unit_bolt (s : State) (k j : Nat) (r : PortRec) : (s.setPort k r).bolt j = s.bolt j := rfl
@[simp] theorem State.setPort_unit_adapter (s : State) (k j : Nat) (r : PortRec) : (s.setPort k r).adapter j = s.adapter j := rfl
@[simp] theorem State.setPort_unit_serveOf (s : State) (k j : Nat) (r : PortRec) : (s.setPort k r).serveOf j = s.serveOf j := rfl
@[simp] theorem State.setPort_unit_req (s : State) (k j : Nat) (r : PortRec) : (s.setPort k r).req j = s.req j := rfl
@[simp] theorem State.setPort_unit_qp (s : State) (k j : Nat) (r : PortRec) : (s.setPort k r).qp j = s.qp j := rfl
@[simp] theorem State.setPort_unit_func (s : State) (k j : Nat) (r : PortRec) : (s.setPort k r).func j = s.func j := rfl
@[simp] theorem State.setPort_unit_link (s : State) (k j : Nat) (r : PortRec) : (s.setPort k r).link j = s.link j := rfl
@[simp] theorem State.setPort_unit_skein (s : State) (k j : Nat) (r : PortRec) : (s.setPort k r).skein j = s.skein j := rfl
@[simp] theorem State.setPort_unit_field (s : State) (k j : Nat) (r : PortRec) : (s.setPort k r).field j = s.field j := rfl
@[simp] theorem State.setPort_unit_ctPage (s : State) (k j : Nat) (r : PortRec) : (s.setPort k r).ctPage j = s.ctPage j := rfl
@[simp] theorem State.modPort_port_self (s : State) (k : Nat) (g : PortRec → PortRec) : (s.modPort k g).port k = g (s.port k) :=
  Tab.get_put_self _ _ _ _
theorem State.modPort_port_ne (s : State) (k j : Nat) (g : PortRec → PortRec) (h : j ≠ k) : (s.modPort k g).port j = s.port j :=
  Tab.get_put_ne _ _ _ _ _ h
@[simp] theorem State.modPort_pending (s : State) (k : Nat) (w : PortRec → PortRec) : (s.modPort k w).pending = s.pending := rfl
@[simp] theorem State.modPort_time (s : State) (k : Nat) (w : PortRec → PortRec) : (s.modPort k w).time = s.time := rfl
@[simp] theorem State.modPort_free (s : State) (k : Nat) (w : PortRec → PortRec) : (s.modPort k w).free = s.free := rfl
@[simp] theorem State.modPort_cores (s : State) (k : Nat) (w : PortRec → PortRec) : (s.modPort k w).cores = s.cores := rfl
@[simp] theorem State.modPort_routers (s : State) (k : Nat) (w : PortRec → PortRec) : (s.modPort k w).routers = s.routers := rfl
@[simp] theorem State.modPort_net (s : State) (k : Nat) (w : PortRec → PortRec) : (s.modPort k w).net = s.net := rfl
@[simp] theorem State.modPort_harness (s : State) (k : Nat) (w : PortRec → PortRec) : (s.modPort k w).harness = s.harness := rfl
@[simp] theorem State.modPort_tokenIn (s : State) (k : Nat) (w : PortRec → PortRec) : (s.modPort k w).tokenIn = s.tokenIn := rfl
@[simp] theorem State.modPort_aperture (s : State) (k : Nat) (w : PortRec → PortRec) : (s.modPort k w).aperture = s.aperture := rfl
@[simp] theorem State.modPort_selvRx (s : State) (k : Nat) (w : PortRec → PortRec) : (s.modPort k w).selvRx = s.selvRx := rfl
@[simp] theorem State.modPort_ctrlData (s : State) (k : Nat) (w : PortRec → PortRec) : (s.modPort k w).ctrlData = s.ctrlData := rfl
@[simp] theorem State.modPort_probes (s : State) (k : Nat) (w : PortRec → PortRec) : (s.modPort k w).probes = s.probes := rfl
@[simp] theorem State.modPort_bolts (s : State) (k : Nat) (w : PortRec → PortRec) : (s.modPort k w).bolts = s.bolts := rfl
@[simp] theorem State.modPort_adapters (s : State) (k : Nat) (w : PortRec → PortRec) : (s.modPort k w).adapters = s.adapters := rfl
@[simp] theorem State.modPort_serve (s : State) (k : Nat) (w : PortRec → PortRec) : (s.modPort k w).serve = s.serve := rfl
@[simp] theorem State.modPort_reqs (s : State) (k : Nat) (w : PortRec → PortRec) : (s.modPort k w).reqs = s.reqs := rfl
@[simp] theorem State.modPort_lowFree (s : State) (k : Nat) (w : PortRec → PortRec) : (s.modPort k w).lowFree = s.lowFree := rfl
@[simp] theorem State.modPort_keyMismatch (s : State) (k : Nat) (w : PortRec → PortRec) : (s.modPort k w).keyMismatch = s.keyMismatch := rfl
@[simp] theorem State.modPort_qps (s : State) (k : Nat) (w : PortRec → PortRec) : (s.modPort k w).qps = s.qps := rfl
@[simp] theorem State.modPort_funcs (s : State) (k : Nat) (w : PortRec → PortRec) : (s.modPort k w).funcs = s.funcs := rfl
@[simp] theorem State.modPort_hostMem (s : State) (k : Nat) (w : PortRec → PortRec) : (s.modPort k w).hostMem = s.hostMem := rfl
@[simp] theorem State.modPort_msix (s : State) (k : Nat) (w : PortRec → PortRec) : (s.modPort k w).msix = s.msix := rfl
@[simp] theorem State.modPort_lastRead (s : State) (k : Nat) (w : PortRec → PortRec) : (s.modPort k w).lastRead = s.lastRead := rfl
@[simp] theorem State.modPort_xram (s : State) (k : Nat) (w : PortRec → PortRec) : (s.modPort k w).xram = s.xram := rfl
@[simp] theorem State.modPort_xramColl (s : State) (k : Nat) (w : PortRec → PortRec) : (s.modPort k w).xramColl = s.xramColl := rfl
@[simp] theorem State.modPort_xramWord (s : State) (k : Nat) (w : PortRec → PortRec) : (s.modPort k w).xramWord = s.xramWord := rfl
@[simp] theorem State.modPort_badAccess (s : State) (k : Nat) (w : PortRec → PortRec) : (s.modPort k w).badAccess = s.badAccess := rfl
@[simp] theorem State.modPort_links (s : State) (k : Nat) (w : PortRec → PortRec) : (s.modPort k w).links = s.links := rfl
@[simp] theorem State.modPort_span (s : State) (k : Nat) (w : PortRec → PortRec) : (s.modPort k w).span = s.span := rfl
@[simp] theorem State.modPort_skeins (s : State) (k : Nat) (w : PortRec → PortRec) : (s.modPort k w).skeins = s.skeins := rfl
@[simp] theorem State.modPort_fields (s : State) (k : Nat) (w : PortRec → PortRec) : (s.modPort k w).fields = s.fields := rfl
@[simp] theorem State.modPort_power (s : State) (k : Nat) (w : PortRec → PortRec) : (s.modPort k w).power = s.power := rfl
@[simp] theorem State.modPort_thermal (s : State) (k : Nat) (w : PortRec → PortRec) : (s.modPort k w).thermal = s.thermal := rfl
@[simp] theorem State.modPort_faults (s : State) (k : Nat) (w : PortRec → PortRec) : (s.modPort k w).faults = s.faults := rfl
@[simp] theorem State.modPort_ctSel (s : State) (k : Nat) (w : PortRec → PortRec) : (s.modPort k w).ctSel = s.ctSel := rfl
@[simp] theorem State.modPort_ctVal (s : State) (k : Nat) (w : PortRec → PortRec) : (s.modPort k w).ctVal = s.ctVal := rfl
@[simp] theorem State.modPort_ctPages (s : State) (k : Nat) (w : PortRec → PortRec) : (s.modPort k w).ctPages = s.ctPages := rfl
@[simp] theorem State.modPort_ledger (s : State) (k : Nat) (w : PortRec → PortRec) : (s.modPort k w).ledger = s.ledger := rfl
@[simp] theorem State.modPort_security (s : State) (k : Nat) (w : PortRec → PortRec) : (s.modPort k w).security = s.security := rfl
@[simp] theorem State.modPort_boot (s : State) (k : Nat) (w : PortRec → PortRec) : (s.modPort k w).boot = s.boot := rfl
@[simp] theorem State.modPort_unit_core (s : State) (k j : Nat) (w : PortRec → PortRec) : (s.modPort k w).core j = s.core j := rfl
@[simp] theorem State.modPort_unit_router (s : State) (k j : Nat) (w : PortRec → PortRec) : (s.modPort k w).router j = s.router j := rfl
@[simp] theorem State.modPort_unit_harn (s : State) (k j : Nat) (w : PortRec → PortRec) : (s.modPort k w).harn j = s.harn j := rfl
@[simp] theorem State.modPort_unit_bolt (s : State) (k j : Nat) (w : PortRec → PortRec) : (s.modPort k w).bolt j = s.bolt j := rfl
@[simp] theorem State.modPort_unit_adapter (s : State) (k j : Nat) (w : PortRec → PortRec) : (s.modPort k w).adapter j = s.adapter j := rfl
@[simp] theorem State.modPort_unit_serveOf (s : State) (k j : Nat) (w : PortRec → PortRec) : (s.modPort k w).serveOf j = s.serveOf j := rfl
@[simp] theorem State.modPort_unit_req (s : State) (k j : Nat) (w : PortRec → PortRec) : (s.modPort k w).req j = s.req j := rfl
@[simp] theorem State.modPort_unit_qp (s : State) (k j : Nat) (w : PortRec → PortRec) : (s.modPort k w).qp j = s.qp j := rfl
@[simp] theorem State.modPort_unit_func (s : State) (k j : Nat) (w : PortRec → PortRec) : (s.modPort k w).func j = s.func j := rfl
@[simp] theorem State.modPort_unit_link (s : State) (k j : Nat) (w : PortRec → PortRec) : (s.modPort k w).link j = s.link j := rfl
@[simp] theorem State.modPort_unit_skein (s : State) (k j : Nat) (w : PortRec → PortRec) : (s.modPort k w).skein j = s.skein j := rfl
@[simp] theorem State.modPort_unit_field (s : State) (k j : Nat) (w : PortRec → PortRec) : (s.modPort k w).field j = s.field j := rfl
@[simp] theorem State.modPort_unit_ctPage (s : State) (k j : Nat) (w : PortRec → PortRec) : (s.modPort k w).ctPage j = s.ctPage j := rfl

/-! ## `State.setLink` -/

@[simp] theorem State.setLink_link_self (s : State) (k : Nat) (r : LinkRec) : (s.setLink k r).link k = r := Tab.get_put_self _ _ _ _
theorem State.setLink_link_ne (s : State) (k j : Nat) (r : LinkRec) (h : j ≠ k) : (s.setLink k r).link j = s.link j :=
  Tab.get_put_ne _ _ _ _ _ h
theorem State.setLink_link (s : State) (k j : Nat) (r : LinkRec) : (s.setLink k r).link j = if j = k then r else s.link j :=
  Tab.get_put _ _ _ _ _
@[simp] theorem State.setLink_pending (s : State) (k : Nat) (r : LinkRec) : (s.setLink k r).pending = s.pending := rfl
@[simp] theorem State.setLink_time (s : State) (k : Nat) (r : LinkRec) : (s.setLink k r).time = s.time := rfl
@[simp] theorem State.setLink_free (s : State) (k : Nat) (r : LinkRec) : (s.setLink k r).free = s.free := rfl
@[simp] theorem State.setLink_cores (s : State) (k : Nat) (r : LinkRec) : (s.setLink k r).cores = s.cores := rfl
@[simp] theorem State.setLink_routers (s : State) (k : Nat) (r : LinkRec) : (s.setLink k r).routers = s.routers := rfl
@[simp] theorem State.setLink_net (s : State) (k : Nat) (r : LinkRec) : (s.setLink k r).net = s.net := rfl
@[simp] theorem State.setLink_harness (s : State) (k : Nat) (r : LinkRec) : (s.setLink k r).harness = s.harness := rfl
@[simp] theorem State.setLink_tokenIn (s : State) (k : Nat) (r : LinkRec) : (s.setLink k r).tokenIn = s.tokenIn := rfl
@[simp] theorem State.setLink_aperture (s : State) (k : Nat) (r : LinkRec) : (s.setLink k r).aperture = s.aperture := rfl
@[simp] theorem State.setLink_selvRx (s : State) (k : Nat) (r : LinkRec) : (s.setLink k r).selvRx = s.selvRx := rfl
@[simp] theorem State.setLink_ctrlData (s : State) (k : Nat) (r : LinkRec) : (s.setLink k r).ctrlData = s.ctrlData := rfl
@[simp] theorem State.setLink_probes (s : State) (k : Nat) (r : LinkRec) : (s.setLink k r).probes = s.probes := rfl
@[simp] theorem State.setLink_bolts (s : State) (k : Nat) (r : LinkRec) : (s.setLink k r).bolts = s.bolts := rfl
@[simp] theorem State.setLink_adapters (s : State) (k : Nat) (r : LinkRec) : (s.setLink k r).adapters = s.adapters := rfl
@[simp] theorem State.setLink_serve (s : State) (k : Nat) (r : LinkRec) : (s.setLink k r).serve = s.serve := rfl
@[simp] theorem State.setLink_reqs (s : State) (k : Nat) (r : LinkRec) : (s.setLink k r).reqs = s.reqs := rfl
@[simp] theorem State.setLink_lowFree (s : State) (k : Nat) (r : LinkRec) : (s.setLink k r).lowFree = s.lowFree := rfl
@[simp] theorem State.setLink_keyMismatch (s : State) (k : Nat) (r : LinkRec) : (s.setLink k r).keyMismatch = s.keyMismatch := rfl
@[simp] theorem State.setLink_qps (s : State) (k : Nat) (r : LinkRec) : (s.setLink k r).qps = s.qps := rfl
@[simp] theorem State.setLink_funcs (s : State) (k : Nat) (r : LinkRec) : (s.setLink k r).funcs = s.funcs := rfl
@[simp] theorem State.setLink_hostMem (s : State) (k : Nat) (r : LinkRec) : (s.setLink k r).hostMem = s.hostMem := rfl
@[simp] theorem State.setLink_msix (s : State) (k : Nat) (r : LinkRec) : (s.setLink k r).msix = s.msix := rfl
@[simp] theorem State.setLink_lastRead (s : State) (k : Nat) (r : LinkRec) : (s.setLink k r).lastRead = s.lastRead := rfl
@[simp] theorem State.setLink_xram (s : State) (k : Nat) (r : LinkRec) : (s.setLink k r).xram = s.xram := rfl
@[simp] theorem State.setLink_xramColl (s : State) (k : Nat) (r : LinkRec) : (s.setLink k r).xramColl = s.xramColl := rfl
@[simp] theorem State.setLink_xramWord (s : State) (k : Nat) (r : LinkRec) : (s.setLink k r).xramWord = s.xramWord := rfl
@[simp] theorem State.setLink_badAccess (s : State) (k : Nat) (r : LinkRec) : (s.setLink k r).badAccess = s.badAccess := rfl
@[simp] theorem State.setLink_creel (s : State) (k : Nat) (r : LinkRec) : (s.setLink k r).creel = s.creel := rfl
@[simp] theorem State.setLink_span (s : State) (k : Nat) (r : LinkRec) : (s.setLink k r).span = s.span := rfl
@[simp] theorem State.setLink_skeins (s : State) (k : Nat) (r : LinkRec) : (s.setLink k r).skeins = s.skeins := rfl
@[simp] theorem State.setLink_fields (s : State) (k : Nat) (r : LinkRec) : (s.setLink k r).fields = s.fields := rfl
@[simp] theorem State.setLink_power (s : State) (k : Nat) (r : LinkRec) : (s.setLink k r).power = s.power := rfl
@[simp] theorem State.setLink_thermal (s : State) (k : Nat) (r : LinkRec) : (s.setLink k r).thermal = s.thermal := rfl
@[simp] theorem State.setLink_faults (s : State) (k : Nat) (r : LinkRec) : (s.setLink k r).faults = s.faults := rfl
@[simp] theorem State.setLink_ctSel (s : State) (k : Nat) (r : LinkRec) : (s.setLink k r).ctSel = s.ctSel := rfl
@[simp] theorem State.setLink_ctVal (s : State) (k : Nat) (r : LinkRec) : (s.setLink k r).ctVal = s.ctVal := rfl
@[simp] theorem State.setLink_ctPages (s : State) (k : Nat) (r : LinkRec) : (s.setLink k r).ctPages = s.ctPages := rfl
@[simp] theorem State.setLink_ledger (s : State) (k : Nat) (r : LinkRec) : (s.setLink k r).ledger = s.ledger := rfl
@[simp] theorem State.setLink_security (s : State) (k : Nat) (r : LinkRec) : (s.setLink k r).security = s.security := rfl
@[simp] theorem State.setLink_boot (s : State) (k : Nat) (r : LinkRec) : (s.setLink k r).boot = s.boot := rfl
@[simp] theorem State.setLink_unit_core (s : State) (k j : Nat) (r : LinkRec) : (s.setLink k r).core j = s.core j := rfl
@[simp] theorem State.setLink_unit_router (s : State) (k j : Nat) (r : LinkRec) : (s.setLink k r).router j = s.router j := rfl
@[simp] theorem State.setLink_unit_harn (s : State) (k j : Nat) (r : LinkRec) : (s.setLink k r).harn j = s.harn j := rfl
@[simp] theorem State.setLink_unit_bolt (s : State) (k j : Nat) (r : LinkRec) : (s.setLink k r).bolt j = s.bolt j := rfl
@[simp] theorem State.setLink_unit_adapter (s : State) (k j : Nat) (r : LinkRec) : (s.setLink k r).adapter j = s.adapter j := rfl
@[simp] theorem State.setLink_unit_serveOf (s : State) (k j : Nat) (r : LinkRec) : (s.setLink k r).serveOf j = s.serveOf j := rfl
@[simp] theorem State.setLink_unit_req (s : State) (k j : Nat) (r : LinkRec) : (s.setLink k r).req j = s.req j := rfl
@[simp] theorem State.setLink_unit_qp (s : State) (k j : Nat) (r : LinkRec) : (s.setLink k r).qp j = s.qp j := rfl
@[simp] theorem State.setLink_unit_func (s : State) (k j : Nat) (r : LinkRec) : (s.setLink k r).func j = s.func j := rfl
@[simp] theorem State.setLink_unit_port (s : State) (k j : Nat) (r : LinkRec) : (s.setLink k r).port j = s.port j := rfl
@[simp] theorem State.setLink_unit_skein (s : State) (k j : Nat) (r : LinkRec) : (s.setLink k r).skein j = s.skein j := rfl
@[simp] theorem State.setLink_unit_field (s : State) (k j : Nat) (r : LinkRec) : (s.setLink k r).field j = s.field j := rfl
@[simp] theorem State.setLink_unit_ctPage (s : State) (k j : Nat) (r : LinkRec) : (s.setLink k r).ctPage j = s.ctPage j := rfl
@[simp] theorem State.modLink_link_self (s : State) (k : Nat) (g : LinkRec → LinkRec) : (s.modLink k g).link k = g (s.link k) :=
  Tab.get_put_self _ _ _ _
theorem State.modLink_link_ne (s : State) (k j : Nat) (g : LinkRec → LinkRec) (h : j ≠ k) : (s.modLink k g).link j = s.link j :=
  Tab.get_put_ne _ _ _ _ _ h
@[simp] theorem State.modLink_pending (s : State) (k : Nat) (w : LinkRec → LinkRec) : (s.modLink k w).pending = s.pending := rfl
@[simp] theorem State.modLink_time (s : State) (k : Nat) (w : LinkRec → LinkRec) : (s.modLink k w).time = s.time := rfl
@[simp] theorem State.modLink_free (s : State) (k : Nat) (w : LinkRec → LinkRec) : (s.modLink k w).free = s.free := rfl
@[simp] theorem State.modLink_cores (s : State) (k : Nat) (w : LinkRec → LinkRec) : (s.modLink k w).cores = s.cores := rfl
@[simp] theorem State.modLink_routers (s : State) (k : Nat) (w : LinkRec → LinkRec) : (s.modLink k w).routers = s.routers := rfl
@[simp] theorem State.modLink_net (s : State) (k : Nat) (w : LinkRec → LinkRec) : (s.modLink k w).net = s.net := rfl
@[simp] theorem State.modLink_harness (s : State) (k : Nat) (w : LinkRec → LinkRec) : (s.modLink k w).harness = s.harness := rfl
@[simp] theorem State.modLink_tokenIn (s : State) (k : Nat) (w : LinkRec → LinkRec) : (s.modLink k w).tokenIn = s.tokenIn := rfl
@[simp] theorem State.modLink_aperture (s : State) (k : Nat) (w : LinkRec → LinkRec) : (s.modLink k w).aperture = s.aperture := rfl
@[simp] theorem State.modLink_selvRx (s : State) (k : Nat) (w : LinkRec → LinkRec) : (s.modLink k w).selvRx = s.selvRx := rfl
@[simp] theorem State.modLink_ctrlData (s : State) (k : Nat) (w : LinkRec → LinkRec) : (s.modLink k w).ctrlData = s.ctrlData := rfl
@[simp] theorem State.modLink_probes (s : State) (k : Nat) (w : LinkRec → LinkRec) : (s.modLink k w).probes = s.probes := rfl
@[simp] theorem State.modLink_bolts (s : State) (k : Nat) (w : LinkRec → LinkRec) : (s.modLink k w).bolts = s.bolts := rfl
@[simp] theorem State.modLink_adapters (s : State) (k : Nat) (w : LinkRec → LinkRec) : (s.modLink k w).adapters = s.adapters := rfl
@[simp] theorem State.modLink_serve (s : State) (k : Nat) (w : LinkRec → LinkRec) : (s.modLink k w).serve = s.serve := rfl
@[simp] theorem State.modLink_reqs (s : State) (k : Nat) (w : LinkRec → LinkRec) : (s.modLink k w).reqs = s.reqs := rfl
@[simp] theorem State.modLink_lowFree (s : State) (k : Nat) (w : LinkRec → LinkRec) : (s.modLink k w).lowFree = s.lowFree := rfl
@[simp] theorem State.modLink_keyMismatch (s : State) (k : Nat) (w : LinkRec → LinkRec) : (s.modLink k w).keyMismatch = s.keyMismatch := rfl
@[simp] theorem State.modLink_qps (s : State) (k : Nat) (w : LinkRec → LinkRec) : (s.modLink k w).qps = s.qps := rfl
@[simp] theorem State.modLink_funcs (s : State) (k : Nat) (w : LinkRec → LinkRec) : (s.modLink k w).funcs = s.funcs := rfl
@[simp] theorem State.modLink_hostMem (s : State) (k : Nat) (w : LinkRec → LinkRec) : (s.modLink k w).hostMem = s.hostMem := rfl
@[simp] theorem State.modLink_msix (s : State) (k : Nat) (w : LinkRec → LinkRec) : (s.modLink k w).msix = s.msix := rfl
@[simp] theorem State.modLink_lastRead (s : State) (k : Nat) (w : LinkRec → LinkRec) : (s.modLink k w).lastRead = s.lastRead := rfl
@[simp] theorem State.modLink_xram (s : State) (k : Nat) (w : LinkRec → LinkRec) : (s.modLink k w).xram = s.xram := rfl
@[simp] theorem State.modLink_xramColl (s : State) (k : Nat) (w : LinkRec → LinkRec) : (s.modLink k w).xramColl = s.xramColl := rfl
@[simp] theorem State.modLink_xramWord (s : State) (k : Nat) (w : LinkRec → LinkRec) : (s.modLink k w).xramWord = s.xramWord := rfl
@[simp] theorem State.modLink_badAccess (s : State) (k : Nat) (w : LinkRec → LinkRec) : (s.modLink k w).badAccess = s.badAccess := rfl
@[simp] theorem State.modLink_creel (s : State) (k : Nat) (w : LinkRec → LinkRec) : (s.modLink k w).creel = s.creel := rfl
@[simp] theorem State.modLink_span (s : State) (k : Nat) (w : LinkRec → LinkRec) : (s.modLink k w).span = s.span := rfl
@[simp] theorem State.modLink_skeins (s : State) (k : Nat) (w : LinkRec → LinkRec) : (s.modLink k w).skeins = s.skeins := rfl
@[simp] theorem State.modLink_fields (s : State) (k : Nat) (w : LinkRec → LinkRec) : (s.modLink k w).fields = s.fields := rfl
@[simp] theorem State.modLink_power (s : State) (k : Nat) (w : LinkRec → LinkRec) : (s.modLink k w).power = s.power := rfl
@[simp] theorem State.modLink_thermal (s : State) (k : Nat) (w : LinkRec → LinkRec) : (s.modLink k w).thermal = s.thermal := rfl
@[simp] theorem State.modLink_faults (s : State) (k : Nat) (w : LinkRec → LinkRec) : (s.modLink k w).faults = s.faults := rfl
@[simp] theorem State.modLink_ctSel (s : State) (k : Nat) (w : LinkRec → LinkRec) : (s.modLink k w).ctSel = s.ctSel := rfl
@[simp] theorem State.modLink_ctVal (s : State) (k : Nat) (w : LinkRec → LinkRec) : (s.modLink k w).ctVal = s.ctVal := rfl
@[simp] theorem State.modLink_ctPages (s : State) (k : Nat) (w : LinkRec → LinkRec) : (s.modLink k w).ctPages = s.ctPages := rfl
@[simp] theorem State.modLink_ledger (s : State) (k : Nat) (w : LinkRec → LinkRec) : (s.modLink k w).ledger = s.ledger := rfl
@[simp] theorem State.modLink_security (s : State) (k : Nat) (w : LinkRec → LinkRec) : (s.modLink k w).security = s.security := rfl
@[simp] theorem State.modLink_boot (s : State) (k : Nat) (w : LinkRec → LinkRec) : (s.modLink k w).boot = s.boot := rfl
@[simp] theorem State.modLink_unit_core (s : State) (k j : Nat) (w : LinkRec → LinkRec) : (s.modLink k w).core j = s.core j := rfl
@[simp] theorem State.modLink_unit_router (s : State) (k j : Nat) (w : LinkRec → LinkRec) : (s.modLink k w).router j = s.router j := rfl
@[simp] theorem State.modLink_unit_harn (s : State) (k j : Nat) (w : LinkRec → LinkRec) : (s.modLink k w).harn j = s.harn j := rfl
@[simp] theorem State.modLink_unit_bolt (s : State) (k j : Nat) (w : LinkRec → LinkRec) : (s.modLink k w).bolt j = s.bolt j := rfl
@[simp] theorem State.modLink_unit_adapter (s : State) (k j : Nat) (w : LinkRec → LinkRec) : (s.modLink k w).adapter j = s.adapter j := rfl
@[simp] theorem State.modLink_unit_serveOf (s : State) (k j : Nat) (w : LinkRec → LinkRec) : (s.modLink k w).serveOf j = s.serveOf j := rfl
@[simp] theorem State.modLink_unit_req (s : State) (k j : Nat) (w : LinkRec → LinkRec) : (s.modLink k w).req j = s.req j := rfl
@[simp] theorem State.modLink_unit_qp (s : State) (k j : Nat) (w : LinkRec → LinkRec) : (s.modLink k w).qp j = s.qp j := rfl
@[simp] theorem State.modLink_unit_func (s : State) (k j : Nat) (w : LinkRec → LinkRec) : (s.modLink k w).func j = s.func j := rfl
@[simp] theorem State.modLink_unit_port (s : State) (k j : Nat) (w : LinkRec → LinkRec) : (s.modLink k w).port j = s.port j := rfl
@[simp] theorem State.modLink_unit_skein (s : State) (k j : Nat) (w : LinkRec → LinkRec) : (s.modLink k w).skein j = s.skein j := rfl
@[simp] theorem State.modLink_unit_field (s : State) (k j : Nat) (w : LinkRec → LinkRec) : (s.modLink k w).field j = s.field j := rfl
@[simp] theorem State.modLink_unit_ctPage (s : State) (k j : Nat) (w : LinkRec → LinkRec) : (s.modLink k w).ctPage j = s.ctPage j := rfl

/-! ## `State.setSkein` -/

@[simp] theorem State.setSkein_skein_self (s : State) (k : Nat) (r : SkeinRec) : (s.setSkein k r).skein k = r := Tab.get_put_self _ _ _ _
theorem State.setSkein_skein_ne (s : State) (k j : Nat) (r : SkeinRec) (h : j ≠ k) : (s.setSkein k r).skein j = s.skein j :=
  Tab.get_put_ne _ _ _ _ _ h
theorem State.setSkein_skein (s : State) (k j : Nat) (r : SkeinRec) : (s.setSkein k r).skein j = if j = k then r else s.skein j :=
  Tab.get_put _ _ _ _ _
@[simp] theorem State.setSkein_pending (s : State) (k : Nat) (r : SkeinRec) : (s.setSkein k r).pending = s.pending := rfl
@[simp] theorem State.setSkein_time (s : State) (k : Nat) (r : SkeinRec) : (s.setSkein k r).time = s.time := rfl
@[simp] theorem State.setSkein_free (s : State) (k : Nat) (r : SkeinRec) : (s.setSkein k r).free = s.free := rfl
@[simp] theorem State.setSkein_cores (s : State) (k : Nat) (r : SkeinRec) : (s.setSkein k r).cores = s.cores := rfl
@[simp] theorem State.setSkein_routers (s : State) (k : Nat) (r : SkeinRec) : (s.setSkein k r).routers = s.routers := rfl
@[simp] theorem State.setSkein_net (s : State) (k : Nat) (r : SkeinRec) : (s.setSkein k r).net = s.net := rfl
@[simp] theorem State.setSkein_harness (s : State) (k : Nat) (r : SkeinRec) : (s.setSkein k r).harness = s.harness := rfl
@[simp] theorem State.setSkein_tokenIn (s : State) (k : Nat) (r : SkeinRec) : (s.setSkein k r).tokenIn = s.tokenIn := rfl
@[simp] theorem State.setSkein_aperture (s : State) (k : Nat) (r : SkeinRec) : (s.setSkein k r).aperture = s.aperture := rfl
@[simp] theorem State.setSkein_selvRx (s : State) (k : Nat) (r : SkeinRec) : (s.setSkein k r).selvRx = s.selvRx := rfl
@[simp] theorem State.setSkein_ctrlData (s : State) (k : Nat) (r : SkeinRec) : (s.setSkein k r).ctrlData = s.ctrlData := rfl
@[simp] theorem State.setSkein_probes (s : State) (k : Nat) (r : SkeinRec) : (s.setSkein k r).probes = s.probes := rfl
@[simp] theorem State.setSkein_bolts (s : State) (k : Nat) (r : SkeinRec) : (s.setSkein k r).bolts = s.bolts := rfl
@[simp] theorem State.setSkein_adapters (s : State) (k : Nat) (r : SkeinRec) : (s.setSkein k r).adapters = s.adapters := rfl
@[simp] theorem State.setSkein_serve (s : State) (k : Nat) (r : SkeinRec) : (s.setSkein k r).serve = s.serve := rfl
@[simp] theorem State.setSkein_reqs (s : State) (k : Nat) (r : SkeinRec) : (s.setSkein k r).reqs = s.reqs := rfl
@[simp] theorem State.setSkein_lowFree (s : State) (k : Nat) (r : SkeinRec) : (s.setSkein k r).lowFree = s.lowFree := rfl
@[simp] theorem State.setSkein_keyMismatch (s : State) (k : Nat) (r : SkeinRec) : (s.setSkein k r).keyMismatch = s.keyMismatch := rfl
@[simp] theorem State.setSkein_qps (s : State) (k : Nat) (r : SkeinRec) : (s.setSkein k r).qps = s.qps := rfl
@[simp] theorem State.setSkein_funcs (s : State) (k : Nat) (r : SkeinRec) : (s.setSkein k r).funcs = s.funcs := rfl
@[simp] theorem State.setSkein_hostMem (s : State) (k : Nat) (r : SkeinRec) : (s.setSkein k r).hostMem = s.hostMem := rfl
@[simp] theorem State.setSkein_msix (s : State) (k : Nat) (r : SkeinRec) : (s.setSkein k r).msix = s.msix := rfl
@[simp] theorem State.setSkein_lastRead (s : State) (k : Nat) (r : SkeinRec) : (s.setSkein k r).lastRead = s.lastRead := rfl
@[simp] theorem State.setSkein_xram (s : State) (k : Nat) (r : SkeinRec) : (s.setSkein k r).xram = s.xram := rfl
@[simp] theorem State.setSkein_xramColl (s : State) (k : Nat) (r : SkeinRec) : (s.setSkein k r).xramColl = s.xramColl := rfl
@[simp] theorem State.setSkein_xramWord (s : State) (k : Nat) (r : SkeinRec) : (s.setSkein k r).xramWord = s.xramWord := rfl
@[simp] theorem State.setSkein_badAccess (s : State) (k : Nat) (r : SkeinRec) : (s.setSkein k r).badAccess = s.badAccess := rfl
@[simp] theorem State.setSkein_creel (s : State) (k : Nat) (r : SkeinRec) : (s.setSkein k r).creel = s.creel := rfl
@[simp] theorem State.setSkein_links (s : State) (k : Nat) (r : SkeinRec) : (s.setSkein k r).links = s.links := rfl
@[simp] theorem State.setSkein_span (s : State) (k : Nat) (r : SkeinRec) : (s.setSkein k r).span = s.span := rfl
@[simp] theorem State.setSkein_fields (s : State) (k : Nat) (r : SkeinRec) : (s.setSkein k r).fields = s.fields := rfl
@[simp] theorem State.setSkein_power (s : State) (k : Nat) (r : SkeinRec) : (s.setSkein k r).power = s.power := rfl
@[simp] theorem State.setSkein_thermal (s : State) (k : Nat) (r : SkeinRec) : (s.setSkein k r).thermal = s.thermal := rfl
@[simp] theorem State.setSkein_faults (s : State) (k : Nat) (r : SkeinRec) : (s.setSkein k r).faults = s.faults := rfl
@[simp] theorem State.setSkein_ctSel (s : State) (k : Nat) (r : SkeinRec) : (s.setSkein k r).ctSel = s.ctSel := rfl
@[simp] theorem State.setSkein_ctVal (s : State) (k : Nat) (r : SkeinRec) : (s.setSkein k r).ctVal = s.ctVal := rfl
@[simp] theorem State.setSkein_ctPages (s : State) (k : Nat) (r : SkeinRec) : (s.setSkein k r).ctPages = s.ctPages := rfl
@[simp] theorem State.setSkein_ledger (s : State) (k : Nat) (r : SkeinRec) : (s.setSkein k r).ledger = s.ledger := rfl
@[simp] theorem State.setSkein_security (s : State) (k : Nat) (r : SkeinRec) : (s.setSkein k r).security = s.security := rfl
@[simp] theorem State.setSkein_boot (s : State) (k : Nat) (r : SkeinRec) : (s.setSkein k r).boot = s.boot := rfl
@[simp] theorem State.setSkein_unit_core (s : State) (k j : Nat) (r : SkeinRec) : (s.setSkein k r).core j = s.core j := rfl
@[simp] theorem State.setSkein_unit_router (s : State) (k j : Nat) (r : SkeinRec) : (s.setSkein k r).router j = s.router j := rfl
@[simp] theorem State.setSkein_unit_harn (s : State) (k j : Nat) (r : SkeinRec) : (s.setSkein k r).harn j = s.harn j := rfl
@[simp] theorem State.setSkein_unit_bolt (s : State) (k j : Nat) (r : SkeinRec) : (s.setSkein k r).bolt j = s.bolt j := rfl
@[simp] theorem State.setSkein_unit_adapter (s : State) (k j : Nat) (r : SkeinRec) : (s.setSkein k r).adapter j = s.adapter j := rfl
@[simp] theorem State.setSkein_unit_serveOf (s : State) (k j : Nat) (r : SkeinRec) : (s.setSkein k r).serveOf j = s.serveOf j := rfl
@[simp] theorem State.setSkein_unit_req (s : State) (k j : Nat) (r : SkeinRec) : (s.setSkein k r).req j = s.req j := rfl
@[simp] theorem State.setSkein_unit_qp (s : State) (k j : Nat) (r : SkeinRec) : (s.setSkein k r).qp j = s.qp j := rfl
@[simp] theorem State.setSkein_unit_func (s : State) (k j : Nat) (r : SkeinRec) : (s.setSkein k r).func j = s.func j := rfl
@[simp] theorem State.setSkein_unit_port (s : State) (k j : Nat) (r : SkeinRec) : (s.setSkein k r).port j = s.port j := rfl
@[simp] theorem State.setSkein_unit_link (s : State) (k j : Nat) (r : SkeinRec) : (s.setSkein k r).link j = s.link j := rfl
@[simp] theorem State.setSkein_unit_field (s : State) (k j : Nat) (r : SkeinRec) : (s.setSkein k r).field j = s.field j := rfl
@[simp] theorem State.setSkein_unit_ctPage (s : State) (k j : Nat) (r : SkeinRec) : (s.setSkein k r).ctPage j = s.ctPage j := rfl
@[simp] theorem State.modSkein_skein_self (s : State) (k : Nat) (g : SkeinRec → SkeinRec) : (s.modSkein k g).skein k = g (s.skein k) :=
  Tab.get_put_self _ _ _ _
theorem State.modSkein_skein_ne (s : State) (k j : Nat) (g : SkeinRec → SkeinRec) (h : j ≠ k) : (s.modSkein k g).skein j = s.skein j :=
  Tab.get_put_ne _ _ _ _ _ h
@[simp] theorem State.modSkein_pending (s : State) (k : Nat) (w : SkeinRec → SkeinRec) : (s.modSkein k w).pending = s.pending := rfl
@[simp] theorem State.modSkein_time (s : State) (k : Nat) (w : SkeinRec → SkeinRec) : (s.modSkein k w).time = s.time := rfl
@[simp] theorem State.modSkein_free (s : State) (k : Nat) (w : SkeinRec → SkeinRec) : (s.modSkein k w).free = s.free := rfl
@[simp] theorem State.modSkein_cores (s : State) (k : Nat) (w : SkeinRec → SkeinRec) : (s.modSkein k w).cores = s.cores := rfl
@[simp] theorem State.modSkein_routers (s : State) (k : Nat) (w : SkeinRec → SkeinRec) : (s.modSkein k w).routers = s.routers := rfl
@[simp] theorem State.modSkein_net (s : State) (k : Nat) (w : SkeinRec → SkeinRec) : (s.modSkein k w).net = s.net := rfl
@[simp] theorem State.modSkein_harness (s : State) (k : Nat) (w : SkeinRec → SkeinRec) : (s.modSkein k w).harness = s.harness := rfl
@[simp] theorem State.modSkein_tokenIn (s : State) (k : Nat) (w : SkeinRec → SkeinRec) : (s.modSkein k w).tokenIn = s.tokenIn := rfl
@[simp] theorem State.modSkein_aperture (s : State) (k : Nat) (w : SkeinRec → SkeinRec) : (s.modSkein k w).aperture = s.aperture := rfl
@[simp] theorem State.modSkein_selvRx (s : State) (k : Nat) (w : SkeinRec → SkeinRec) : (s.modSkein k w).selvRx = s.selvRx := rfl
@[simp] theorem State.modSkein_ctrlData (s : State) (k : Nat) (w : SkeinRec → SkeinRec) : (s.modSkein k w).ctrlData = s.ctrlData := rfl
@[simp] theorem State.modSkein_probes (s : State) (k : Nat) (w : SkeinRec → SkeinRec) : (s.modSkein k w).probes = s.probes := rfl
@[simp] theorem State.modSkein_bolts (s : State) (k : Nat) (w : SkeinRec → SkeinRec) : (s.modSkein k w).bolts = s.bolts := rfl
@[simp] theorem State.modSkein_adapters (s : State) (k : Nat) (w : SkeinRec → SkeinRec) : (s.modSkein k w).adapters = s.adapters := rfl
@[simp] theorem State.modSkein_serve (s : State) (k : Nat) (w : SkeinRec → SkeinRec) : (s.modSkein k w).serve = s.serve := rfl
@[simp] theorem State.modSkein_reqs (s : State) (k : Nat) (w : SkeinRec → SkeinRec) : (s.modSkein k w).reqs = s.reqs := rfl
@[simp] theorem State.modSkein_lowFree (s : State) (k : Nat) (w : SkeinRec → SkeinRec) : (s.modSkein k w).lowFree = s.lowFree := rfl
@[simp] theorem State.modSkein_keyMismatch (s : State) (k : Nat) (w : SkeinRec → SkeinRec) : (s.modSkein k w).keyMismatch = s.keyMismatch := rfl
@[simp] theorem State.modSkein_qps (s : State) (k : Nat) (w : SkeinRec → SkeinRec) : (s.modSkein k w).qps = s.qps := rfl
@[simp] theorem State.modSkein_funcs (s : State) (k : Nat) (w : SkeinRec → SkeinRec) : (s.modSkein k w).funcs = s.funcs := rfl
@[simp] theorem State.modSkein_hostMem (s : State) (k : Nat) (w : SkeinRec → SkeinRec) : (s.modSkein k w).hostMem = s.hostMem := rfl
@[simp] theorem State.modSkein_msix (s : State) (k : Nat) (w : SkeinRec → SkeinRec) : (s.modSkein k w).msix = s.msix := rfl
@[simp] theorem State.modSkein_lastRead (s : State) (k : Nat) (w : SkeinRec → SkeinRec) : (s.modSkein k w).lastRead = s.lastRead := rfl
@[simp] theorem State.modSkein_xram (s : State) (k : Nat) (w : SkeinRec → SkeinRec) : (s.modSkein k w).xram = s.xram := rfl
@[simp] theorem State.modSkein_xramColl (s : State) (k : Nat) (w : SkeinRec → SkeinRec) : (s.modSkein k w).xramColl = s.xramColl := rfl
@[simp] theorem State.modSkein_xramWord (s : State) (k : Nat) (w : SkeinRec → SkeinRec) : (s.modSkein k w).xramWord = s.xramWord := rfl
@[simp] theorem State.modSkein_badAccess (s : State) (k : Nat) (w : SkeinRec → SkeinRec) : (s.modSkein k w).badAccess = s.badAccess := rfl
@[simp] theorem State.modSkein_creel (s : State) (k : Nat) (w : SkeinRec → SkeinRec) : (s.modSkein k w).creel = s.creel := rfl
@[simp] theorem State.modSkein_links (s : State) (k : Nat) (w : SkeinRec → SkeinRec) : (s.modSkein k w).links = s.links := rfl
@[simp] theorem State.modSkein_span (s : State) (k : Nat) (w : SkeinRec → SkeinRec) : (s.modSkein k w).span = s.span := rfl
@[simp] theorem State.modSkein_fields (s : State) (k : Nat) (w : SkeinRec → SkeinRec) : (s.modSkein k w).fields = s.fields := rfl
@[simp] theorem State.modSkein_power (s : State) (k : Nat) (w : SkeinRec → SkeinRec) : (s.modSkein k w).power = s.power := rfl
@[simp] theorem State.modSkein_thermal (s : State) (k : Nat) (w : SkeinRec → SkeinRec) : (s.modSkein k w).thermal = s.thermal := rfl
@[simp] theorem State.modSkein_faults (s : State) (k : Nat) (w : SkeinRec → SkeinRec) : (s.modSkein k w).faults = s.faults := rfl
@[simp] theorem State.modSkein_ctSel (s : State) (k : Nat) (w : SkeinRec → SkeinRec) : (s.modSkein k w).ctSel = s.ctSel := rfl
@[simp] theorem State.modSkein_ctVal (s : State) (k : Nat) (w : SkeinRec → SkeinRec) : (s.modSkein k w).ctVal = s.ctVal := rfl
@[simp] theorem State.modSkein_ctPages (s : State) (k : Nat) (w : SkeinRec → SkeinRec) : (s.modSkein k w).ctPages = s.ctPages := rfl
@[simp] theorem State.modSkein_ledger (s : State) (k : Nat) (w : SkeinRec → SkeinRec) : (s.modSkein k w).ledger = s.ledger := rfl
@[simp] theorem State.modSkein_security (s : State) (k : Nat) (w : SkeinRec → SkeinRec) : (s.modSkein k w).security = s.security := rfl
@[simp] theorem State.modSkein_boot (s : State) (k : Nat) (w : SkeinRec → SkeinRec) : (s.modSkein k w).boot = s.boot := rfl
@[simp] theorem State.modSkein_unit_core (s : State) (k j : Nat) (w : SkeinRec → SkeinRec) : (s.modSkein k w).core j = s.core j := rfl
@[simp] theorem State.modSkein_unit_router (s : State) (k j : Nat) (w : SkeinRec → SkeinRec) : (s.modSkein k w).router j = s.router j := rfl
@[simp] theorem State.modSkein_unit_harn (s : State) (k j : Nat) (w : SkeinRec → SkeinRec) : (s.modSkein k w).harn j = s.harn j := rfl
@[simp] theorem State.modSkein_unit_bolt (s : State) (k j : Nat) (w : SkeinRec → SkeinRec) : (s.modSkein k w).bolt j = s.bolt j := rfl
@[simp] theorem State.modSkein_unit_adapter (s : State) (k j : Nat) (w : SkeinRec → SkeinRec) : (s.modSkein k w).adapter j = s.adapter j := rfl
@[simp] theorem State.modSkein_unit_serveOf (s : State) (k j : Nat) (w : SkeinRec → SkeinRec) : (s.modSkein k w).serveOf j = s.serveOf j := rfl
@[simp] theorem State.modSkein_unit_req (s : State) (k j : Nat) (w : SkeinRec → SkeinRec) : (s.modSkein k w).req j = s.req j := rfl
@[simp] theorem State.modSkein_unit_qp (s : State) (k j : Nat) (w : SkeinRec → SkeinRec) : (s.modSkein k w).qp j = s.qp j := rfl
@[simp] theorem State.modSkein_unit_func (s : State) (k j : Nat) (w : SkeinRec → SkeinRec) : (s.modSkein k w).func j = s.func j := rfl
@[simp] theorem State.modSkein_unit_port (s : State) (k j : Nat) (w : SkeinRec → SkeinRec) : (s.modSkein k w).port j = s.port j := rfl
@[simp] theorem State.modSkein_unit_link (s : State) (k j : Nat) (w : SkeinRec → SkeinRec) : (s.modSkein k w).link j = s.link j := rfl
@[simp] theorem State.modSkein_unit_field (s : State) (k j : Nat) (w : SkeinRec → SkeinRec) : (s.modSkein k w).field j = s.field j := rfl
@[simp] theorem State.modSkein_unit_ctPage (s : State) (k j : Nat) (w : SkeinRec → SkeinRec) : (s.modSkein k w).ctPage j = s.ctPage j := rfl

/-! ## `State.setField` -/

@[simp] theorem State.setField_field_self (s : State) (k : Nat) (r : FieldRec) : (s.setField k r).field k = r := Tab.get_put_self _ _ _ _
theorem State.setField_field_ne (s : State) (k j : Nat) (r : FieldRec) (h : j ≠ k) : (s.setField k r).field j = s.field j :=
  Tab.get_put_ne _ _ _ _ _ h
theorem State.setField_field (s : State) (k j : Nat) (r : FieldRec) : (s.setField k r).field j = if j = k then r else s.field j :=
  Tab.get_put _ _ _ _ _
@[simp] theorem State.setField_pending (s : State) (k : Nat) (r : FieldRec) : (s.setField k r).pending = s.pending := rfl
@[simp] theorem State.setField_time (s : State) (k : Nat) (r : FieldRec) : (s.setField k r).time = s.time := rfl
@[simp] theorem State.setField_free (s : State) (k : Nat) (r : FieldRec) : (s.setField k r).free = s.free := rfl
@[simp] theorem State.setField_cores (s : State) (k : Nat) (r : FieldRec) : (s.setField k r).cores = s.cores := rfl
@[simp] theorem State.setField_routers (s : State) (k : Nat) (r : FieldRec) : (s.setField k r).routers = s.routers := rfl
@[simp] theorem State.setField_net (s : State) (k : Nat) (r : FieldRec) : (s.setField k r).net = s.net := rfl
@[simp] theorem State.setField_harness (s : State) (k : Nat) (r : FieldRec) : (s.setField k r).harness = s.harness := rfl
@[simp] theorem State.setField_tokenIn (s : State) (k : Nat) (r : FieldRec) : (s.setField k r).tokenIn = s.tokenIn := rfl
@[simp] theorem State.setField_aperture (s : State) (k : Nat) (r : FieldRec) : (s.setField k r).aperture = s.aperture := rfl
@[simp] theorem State.setField_selvRx (s : State) (k : Nat) (r : FieldRec) : (s.setField k r).selvRx = s.selvRx := rfl
@[simp] theorem State.setField_ctrlData (s : State) (k : Nat) (r : FieldRec) : (s.setField k r).ctrlData = s.ctrlData := rfl
@[simp] theorem State.setField_probes (s : State) (k : Nat) (r : FieldRec) : (s.setField k r).probes = s.probes := rfl
@[simp] theorem State.setField_bolts (s : State) (k : Nat) (r : FieldRec) : (s.setField k r).bolts = s.bolts := rfl
@[simp] theorem State.setField_adapters (s : State) (k : Nat) (r : FieldRec) : (s.setField k r).adapters = s.adapters := rfl
@[simp] theorem State.setField_serve (s : State) (k : Nat) (r : FieldRec) : (s.setField k r).serve = s.serve := rfl
@[simp] theorem State.setField_reqs (s : State) (k : Nat) (r : FieldRec) : (s.setField k r).reqs = s.reqs := rfl
@[simp] theorem State.setField_lowFree (s : State) (k : Nat) (r : FieldRec) : (s.setField k r).lowFree = s.lowFree := rfl
@[simp] theorem State.setField_keyMismatch (s : State) (k : Nat) (r : FieldRec) : (s.setField k r).keyMismatch = s.keyMismatch := rfl
@[simp] theorem State.setField_qps (s : State) (k : Nat) (r : FieldRec) : (s.setField k r).qps = s.qps := rfl
@[simp] theorem State.setField_funcs (s : State) (k : Nat) (r : FieldRec) : (s.setField k r).funcs = s.funcs := rfl
@[simp] theorem State.setField_hostMem (s : State) (k : Nat) (r : FieldRec) : (s.setField k r).hostMem = s.hostMem := rfl
@[simp] theorem State.setField_msix (s : State) (k : Nat) (r : FieldRec) : (s.setField k r).msix = s.msix := rfl
@[simp] theorem State.setField_lastRead (s : State) (k : Nat) (r : FieldRec) : (s.setField k r).lastRead = s.lastRead := rfl
@[simp] theorem State.setField_xram (s : State) (k : Nat) (r : FieldRec) : (s.setField k r).xram = s.xram := rfl
@[simp] theorem State.setField_xramColl (s : State) (k : Nat) (r : FieldRec) : (s.setField k r).xramColl = s.xramColl := rfl
@[simp] theorem State.setField_xramWord (s : State) (k : Nat) (r : FieldRec) : (s.setField k r).xramWord = s.xramWord := rfl
@[simp] theorem State.setField_badAccess (s : State) (k : Nat) (r : FieldRec) : (s.setField k r).badAccess = s.badAccess := rfl
@[simp] theorem State.setField_creel (s : State) (k : Nat) (r : FieldRec) : (s.setField k r).creel = s.creel := rfl
@[simp] theorem State.setField_links (s : State) (k : Nat) (r : FieldRec) : (s.setField k r).links = s.links := rfl
@[simp] theorem State.setField_span (s : State) (k : Nat) (r : FieldRec) : (s.setField k r).span = s.span := rfl
@[simp] theorem State.setField_skeins (s : State) (k : Nat) (r : FieldRec) : (s.setField k r).skeins = s.skeins := rfl
@[simp] theorem State.setField_power (s : State) (k : Nat) (r : FieldRec) : (s.setField k r).power = s.power := rfl
@[simp] theorem State.setField_thermal (s : State) (k : Nat) (r : FieldRec) : (s.setField k r).thermal = s.thermal := rfl
@[simp] theorem State.setField_faults (s : State) (k : Nat) (r : FieldRec) : (s.setField k r).faults = s.faults := rfl
@[simp] theorem State.setField_ctSel (s : State) (k : Nat) (r : FieldRec) : (s.setField k r).ctSel = s.ctSel := rfl
@[simp] theorem State.setField_ctVal (s : State) (k : Nat) (r : FieldRec) : (s.setField k r).ctVal = s.ctVal := rfl
@[simp] theorem State.setField_ctPages (s : State) (k : Nat) (r : FieldRec) : (s.setField k r).ctPages = s.ctPages := rfl
@[simp] theorem State.setField_ledger (s : State) (k : Nat) (r : FieldRec) : (s.setField k r).ledger = s.ledger := rfl
@[simp] theorem State.setField_security (s : State) (k : Nat) (r : FieldRec) : (s.setField k r).security = s.security := rfl
@[simp] theorem State.setField_boot (s : State) (k : Nat) (r : FieldRec) : (s.setField k r).boot = s.boot := rfl
@[simp] theorem State.setField_unit_core (s : State) (k j : Nat) (r : FieldRec) : (s.setField k r).core j = s.core j := rfl
@[simp] theorem State.setField_unit_router (s : State) (k j : Nat) (r : FieldRec) : (s.setField k r).router j = s.router j := rfl
@[simp] theorem State.setField_unit_harn (s : State) (k j : Nat) (r : FieldRec) : (s.setField k r).harn j = s.harn j := rfl
@[simp] theorem State.setField_unit_bolt (s : State) (k j : Nat) (r : FieldRec) : (s.setField k r).bolt j = s.bolt j := rfl
@[simp] theorem State.setField_unit_adapter (s : State) (k j : Nat) (r : FieldRec) : (s.setField k r).adapter j = s.adapter j := rfl
@[simp] theorem State.setField_unit_serveOf (s : State) (k j : Nat) (r : FieldRec) : (s.setField k r).serveOf j = s.serveOf j := rfl
@[simp] theorem State.setField_unit_req (s : State) (k j : Nat) (r : FieldRec) : (s.setField k r).req j = s.req j := rfl
@[simp] theorem State.setField_unit_qp (s : State) (k j : Nat) (r : FieldRec) : (s.setField k r).qp j = s.qp j := rfl
@[simp] theorem State.setField_unit_func (s : State) (k j : Nat) (r : FieldRec) : (s.setField k r).func j = s.func j := rfl
@[simp] theorem State.setField_unit_port (s : State) (k j : Nat) (r : FieldRec) : (s.setField k r).port j = s.port j := rfl
@[simp] theorem State.setField_unit_link (s : State) (k j : Nat) (r : FieldRec) : (s.setField k r).link j = s.link j := rfl
@[simp] theorem State.setField_unit_skein (s : State) (k j : Nat) (r : FieldRec) : (s.setField k r).skein j = s.skein j := rfl
@[simp] theorem State.setField_unit_ctPage (s : State) (k j : Nat) (r : FieldRec) : (s.setField k r).ctPage j = s.ctPage j := rfl
@[simp] theorem State.modField_field_self (s : State) (k : Nat) (g : FieldRec → FieldRec) : (s.modField k g).field k = g (s.field k) :=
  Tab.get_put_self _ _ _ _
theorem State.modField_field_ne (s : State) (k j : Nat) (g : FieldRec → FieldRec) (h : j ≠ k) : (s.modField k g).field j = s.field j :=
  Tab.get_put_ne _ _ _ _ _ h
@[simp] theorem State.modField_pending (s : State) (k : Nat) (w : FieldRec → FieldRec) : (s.modField k w).pending = s.pending := rfl
@[simp] theorem State.modField_time (s : State) (k : Nat) (w : FieldRec → FieldRec) : (s.modField k w).time = s.time := rfl
@[simp] theorem State.modField_free (s : State) (k : Nat) (w : FieldRec → FieldRec) : (s.modField k w).free = s.free := rfl
@[simp] theorem State.modField_cores (s : State) (k : Nat) (w : FieldRec → FieldRec) : (s.modField k w).cores = s.cores := rfl
@[simp] theorem State.modField_routers (s : State) (k : Nat) (w : FieldRec → FieldRec) : (s.modField k w).routers = s.routers := rfl
@[simp] theorem State.modField_net (s : State) (k : Nat) (w : FieldRec → FieldRec) : (s.modField k w).net = s.net := rfl
@[simp] theorem State.modField_harness (s : State) (k : Nat) (w : FieldRec → FieldRec) : (s.modField k w).harness = s.harness := rfl
@[simp] theorem State.modField_tokenIn (s : State) (k : Nat) (w : FieldRec → FieldRec) : (s.modField k w).tokenIn = s.tokenIn := rfl
@[simp] theorem State.modField_aperture (s : State) (k : Nat) (w : FieldRec → FieldRec) : (s.modField k w).aperture = s.aperture := rfl
@[simp] theorem State.modField_selvRx (s : State) (k : Nat) (w : FieldRec → FieldRec) : (s.modField k w).selvRx = s.selvRx := rfl
@[simp] theorem State.modField_ctrlData (s : State) (k : Nat) (w : FieldRec → FieldRec) : (s.modField k w).ctrlData = s.ctrlData := rfl
@[simp] theorem State.modField_probes (s : State) (k : Nat) (w : FieldRec → FieldRec) : (s.modField k w).probes = s.probes := rfl
@[simp] theorem State.modField_bolts (s : State) (k : Nat) (w : FieldRec → FieldRec) : (s.modField k w).bolts = s.bolts := rfl
@[simp] theorem State.modField_adapters (s : State) (k : Nat) (w : FieldRec → FieldRec) : (s.modField k w).adapters = s.adapters := rfl
@[simp] theorem State.modField_serve (s : State) (k : Nat) (w : FieldRec → FieldRec) : (s.modField k w).serve = s.serve := rfl
@[simp] theorem State.modField_reqs (s : State) (k : Nat) (w : FieldRec → FieldRec) : (s.modField k w).reqs = s.reqs := rfl
@[simp] theorem State.modField_lowFree (s : State) (k : Nat) (w : FieldRec → FieldRec) : (s.modField k w).lowFree = s.lowFree := rfl
@[simp] theorem State.modField_keyMismatch (s : State) (k : Nat) (w : FieldRec → FieldRec) : (s.modField k w).keyMismatch = s.keyMismatch := rfl
@[simp] theorem State.modField_qps (s : State) (k : Nat) (w : FieldRec → FieldRec) : (s.modField k w).qps = s.qps := rfl
@[simp] theorem State.modField_funcs (s : State) (k : Nat) (w : FieldRec → FieldRec) : (s.modField k w).funcs = s.funcs := rfl
@[simp] theorem State.modField_hostMem (s : State) (k : Nat) (w : FieldRec → FieldRec) : (s.modField k w).hostMem = s.hostMem := rfl
@[simp] theorem State.modField_msix (s : State) (k : Nat) (w : FieldRec → FieldRec) : (s.modField k w).msix = s.msix := rfl
@[simp] theorem State.modField_lastRead (s : State) (k : Nat) (w : FieldRec → FieldRec) : (s.modField k w).lastRead = s.lastRead := rfl
@[simp] theorem State.modField_xram (s : State) (k : Nat) (w : FieldRec → FieldRec) : (s.modField k w).xram = s.xram := rfl
@[simp] theorem State.modField_xramColl (s : State) (k : Nat) (w : FieldRec → FieldRec) : (s.modField k w).xramColl = s.xramColl := rfl
@[simp] theorem State.modField_xramWord (s : State) (k : Nat) (w : FieldRec → FieldRec) : (s.modField k w).xramWord = s.xramWord := rfl
@[simp] theorem State.modField_badAccess (s : State) (k : Nat) (w : FieldRec → FieldRec) : (s.modField k w).badAccess = s.badAccess := rfl
@[simp] theorem State.modField_creel (s : State) (k : Nat) (w : FieldRec → FieldRec) : (s.modField k w).creel = s.creel := rfl
@[simp] theorem State.modField_links (s : State) (k : Nat) (w : FieldRec → FieldRec) : (s.modField k w).links = s.links := rfl
@[simp] theorem State.modField_span (s : State) (k : Nat) (w : FieldRec → FieldRec) : (s.modField k w).span = s.span := rfl
@[simp] theorem State.modField_skeins (s : State) (k : Nat) (w : FieldRec → FieldRec) : (s.modField k w).skeins = s.skeins := rfl
@[simp] theorem State.modField_power (s : State) (k : Nat) (w : FieldRec → FieldRec) : (s.modField k w).power = s.power := rfl
@[simp] theorem State.modField_thermal (s : State) (k : Nat) (w : FieldRec → FieldRec) : (s.modField k w).thermal = s.thermal := rfl
@[simp] theorem State.modField_faults (s : State) (k : Nat) (w : FieldRec → FieldRec) : (s.modField k w).faults = s.faults := rfl
@[simp] theorem State.modField_ctSel (s : State) (k : Nat) (w : FieldRec → FieldRec) : (s.modField k w).ctSel = s.ctSel := rfl
@[simp] theorem State.modField_ctVal (s : State) (k : Nat) (w : FieldRec → FieldRec) : (s.modField k w).ctVal = s.ctVal := rfl
@[simp] theorem State.modField_ctPages (s : State) (k : Nat) (w : FieldRec → FieldRec) : (s.modField k w).ctPages = s.ctPages := rfl
@[simp] theorem State.modField_ledger (s : State) (k : Nat) (w : FieldRec → FieldRec) : (s.modField k w).ledger = s.ledger := rfl
@[simp] theorem State.modField_security (s : State) (k : Nat) (w : FieldRec → FieldRec) : (s.modField k w).security = s.security := rfl
@[simp] theorem State.modField_boot (s : State) (k : Nat) (w : FieldRec → FieldRec) : (s.modField k w).boot = s.boot := rfl
@[simp] theorem State.modField_unit_core (s : State) (k j : Nat) (w : FieldRec → FieldRec) : (s.modField k w).core j = s.core j := rfl
@[simp] theorem State.modField_unit_router (s : State) (k j : Nat) (w : FieldRec → FieldRec) : (s.modField k w).router j = s.router j := rfl
@[simp] theorem State.modField_unit_harn (s : State) (k j : Nat) (w : FieldRec → FieldRec) : (s.modField k w).harn j = s.harn j := rfl
@[simp] theorem State.modField_unit_bolt (s : State) (k j : Nat) (w : FieldRec → FieldRec) : (s.modField k w).bolt j = s.bolt j := rfl
@[simp] theorem State.modField_unit_adapter (s : State) (k j : Nat) (w : FieldRec → FieldRec) : (s.modField k w).adapter j = s.adapter j := rfl
@[simp] theorem State.modField_unit_serveOf (s : State) (k j : Nat) (w : FieldRec → FieldRec) : (s.modField k w).serveOf j = s.serveOf j := rfl
@[simp] theorem State.modField_unit_req (s : State) (k j : Nat) (w : FieldRec → FieldRec) : (s.modField k w).req j = s.req j := rfl
@[simp] theorem State.modField_unit_qp (s : State) (k j : Nat) (w : FieldRec → FieldRec) : (s.modField k w).qp j = s.qp j := rfl
@[simp] theorem State.modField_unit_func (s : State) (k j : Nat) (w : FieldRec → FieldRec) : (s.modField k w).func j = s.func j := rfl
@[simp] theorem State.modField_unit_port (s : State) (k j : Nat) (w : FieldRec → FieldRec) : (s.modField k w).port j = s.port j := rfl
@[simp] theorem State.modField_unit_link (s : State) (k j : Nat) (w : FieldRec → FieldRec) : (s.modField k w).link j = s.link j := rfl
@[simp] theorem State.modField_unit_skein (s : State) (k j : Nat) (w : FieldRec → FieldRec) : (s.modField k w).skein j = s.skein j := rfl
@[simp] theorem State.modField_unit_ctPage (s : State) (k j : Nat) (w : FieldRec → FieldRec) : (s.modField k w).ctPage j = s.ctPage j := rfl

/-! ## `State.setCtPage` -/

@[simp] theorem State.setCtPage_ctPage_self (s : State) (k : Nat) (r : CtPage) : (s.setCtPage k r).ctPage k = r := Tab.get_put_self _ _ _ _
theorem State.setCtPage_ctPage_ne (s : State) (k j : Nat) (r : CtPage) (h : j ≠ k) : (s.setCtPage k r).ctPage j = s.ctPage j :=
  Tab.get_put_ne _ _ _ _ _ h
theorem State.setCtPage_ctPage (s : State) (k j : Nat) (r : CtPage) : (s.setCtPage k r).ctPage j = if j = k then r else s.ctPage j :=
  Tab.get_put _ _ _ _ _
@[simp] theorem State.setCtPage_pending (s : State) (k : Nat) (r : CtPage) : (s.setCtPage k r).pending = s.pending := rfl
@[simp] theorem State.setCtPage_time (s : State) (k : Nat) (r : CtPage) : (s.setCtPage k r).time = s.time := rfl
@[simp] theorem State.setCtPage_free (s : State) (k : Nat) (r : CtPage) : (s.setCtPage k r).free = s.free := rfl
@[simp] theorem State.setCtPage_cores (s : State) (k : Nat) (r : CtPage) : (s.setCtPage k r).cores = s.cores := rfl
@[simp] theorem State.setCtPage_routers (s : State) (k : Nat) (r : CtPage) : (s.setCtPage k r).routers = s.routers := rfl
@[simp] theorem State.setCtPage_net (s : State) (k : Nat) (r : CtPage) : (s.setCtPage k r).net = s.net := rfl
@[simp] theorem State.setCtPage_harness (s : State) (k : Nat) (r : CtPage) : (s.setCtPage k r).harness = s.harness := rfl
@[simp] theorem State.setCtPage_tokenIn (s : State) (k : Nat) (r : CtPage) : (s.setCtPage k r).tokenIn = s.tokenIn := rfl
@[simp] theorem State.setCtPage_aperture (s : State) (k : Nat) (r : CtPage) : (s.setCtPage k r).aperture = s.aperture := rfl
@[simp] theorem State.setCtPage_selvRx (s : State) (k : Nat) (r : CtPage) : (s.setCtPage k r).selvRx = s.selvRx := rfl
@[simp] theorem State.setCtPage_ctrlData (s : State) (k : Nat) (r : CtPage) : (s.setCtPage k r).ctrlData = s.ctrlData := rfl
@[simp] theorem State.setCtPage_probes (s : State) (k : Nat) (r : CtPage) : (s.setCtPage k r).probes = s.probes := rfl
@[simp] theorem State.setCtPage_bolts (s : State) (k : Nat) (r : CtPage) : (s.setCtPage k r).bolts = s.bolts := rfl
@[simp] theorem State.setCtPage_adapters (s : State) (k : Nat) (r : CtPage) : (s.setCtPage k r).adapters = s.adapters := rfl
@[simp] theorem State.setCtPage_serve (s : State) (k : Nat) (r : CtPage) : (s.setCtPage k r).serve = s.serve := rfl
@[simp] theorem State.setCtPage_reqs (s : State) (k : Nat) (r : CtPage) : (s.setCtPage k r).reqs = s.reqs := rfl
@[simp] theorem State.setCtPage_lowFree (s : State) (k : Nat) (r : CtPage) : (s.setCtPage k r).lowFree = s.lowFree := rfl
@[simp] theorem State.setCtPage_keyMismatch (s : State) (k : Nat) (r : CtPage) : (s.setCtPage k r).keyMismatch = s.keyMismatch := rfl
@[simp] theorem State.setCtPage_qps (s : State) (k : Nat) (r : CtPage) : (s.setCtPage k r).qps = s.qps := rfl
@[simp] theorem State.setCtPage_funcs (s : State) (k : Nat) (r : CtPage) : (s.setCtPage k r).funcs = s.funcs := rfl
@[simp] theorem State.setCtPage_hostMem (s : State) (k : Nat) (r : CtPage) : (s.setCtPage k r).hostMem = s.hostMem := rfl
@[simp] theorem State.setCtPage_msix (s : State) (k : Nat) (r : CtPage) : (s.setCtPage k r).msix = s.msix := rfl
@[simp] theorem State.setCtPage_lastRead (s : State) (k : Nat) (r : CtPage) : (s.setCtPage k r).lastRead = s.lastRead := rfl
@[simp] theorem State.setCtPage_xram (s : State) (k : Nat) (r : CtPage) : (s.setCtPage k r).xram = s.xram := rfl
@[simp] theorem State.setCtPage_xramColl (s : State) (k : Nat) (r : CtPage) : (s.setCtPage k r).xramColl = s.xramColl := rfl
@[simp] theorem State.setCtPage_xramWord (s : State) (k : Nat) (r : CtPage) : (s.setCtPage k r).xramWord = s.xramWord := rfl
@[simp] theorem State.setCtPage_badAccess (s : State) (k : Nat) (r : CtPage) : (s.setCtPage k r).badAccess = s.badAccess := rfl
@[simp] theorem State.setCtPage_creel (s : State) (k : Nat) (r : CtPage) : (s.setCtPage k r).creel = s.creel := rfl
@[simp] theorem State.setCtPage_links (s : State) (k : Nat) (r : CtPage) : (s.setCtPage k r).links = s.links := rfl
@[simp] theorem State.setCtPage_span (s : State) (k : Nat) (r : CtPage) : (s.setCtPage k r).span = s.span := rfl
@[simp] theorem State.setCtPage_skeins (s : State) (k : Nat) (r : CtPage) : (s.setCtPage k r).skeins = s.skeins := rfl
@[simp] theorem State.setCtPage_fields (s : State) (k : Nat) (r : CtPage) : (s.setCtPage k r).fields = s.fields := rfl
@[simp] theorem State.setCtPage_power (s : State) (k : Nat) (r : CtPage) : (s.setCtPage k r).power = s.power := rfl
@[simp] theorem State.setCtPage_thermal (s : State) (k : Nat) (r : CtPage) : (s.setCtPage k r).thermal = s.thermal := rfl
@[simp] theorem State.setCtPage_faults (s : State) (k : Nat) (r : CtPage) : (s.setCtPage k r).faults = s.faults := rfl
@[simp] theorem State.setCtPage_ctSel (s : State) (k : Nat) (r : CtPage) : (s.setCtPage k r).ctSel = s.ctSel := rfl
@[simp] theorem State.setCtPage_ctVal (s : State) (k : Nat) (r : CtPage) : (s.setCtPage k r).ctVal = s.ctVal := rfl
@[simp] theorem State.setCtPage_ledger (s : State) (k : Nat) (r : CtPage) : (s.setCtPage k r).ledger = s.ledger := rfl
@[simp] theorem State.setCtPage_security (s : State) (k : Nat) (r : CtPage) : (s.setCtPage k r).security = s.security := rfl
@[simp] theorem State.setCtPage_boot (s : State) (k : Nat) (r : CtPage) : (s.setCtPage k r).boot = s.boot := rfl
@[simp] theorem State.setCtPage_unit_core (s : State) (k j : Nat) (r : CtPage) : (s.setCtPage k r).core j = s.core j := rfl
@[simp] theorem State.setCtPage_unit_router (s : State) (k j : Nat) (r : CtPage) : (s.setCtPage k r).router j = s.router j := rfl
@[simp] theorem State.setCtPage_unit_harn (s : State) (k j : Nat) (r : CtPage) : (s.setCtPage k r).harn j = s.harn j := rfl
@[simp] theorem State.setCtPage_unit_bolt (s : State) (k j : Nat) (r : CtPage) : (s.setCtPage k r).bolt j = s.bolt j := rfl
@[simp] theorem State.setCtPage_unit_adapter (s : State) (k j : Nat) (r : CtPage) : (s.setCtPage k r).adapter j = s.adapter j := rfl
@[simp] theorem State.setCtPage_unit_serveOf (s : State) (k j : Nat) (r : CtPage) : (s.setCtPage k r).serveOf j = s.serveOf j := rfl
@[simp] theorem State.setCtPage_unit_req (s : State) (k j : Nat) (r : CtPage) : (s.setCtPage k r).req j = s.req j := rfl
@[simp] theorem State.setCtPage_unit_qp (s : State) (k j : Nat) (r : CtPage) : (s.setCtPage k r).qp j = s.qp j := rfl
@[simp] theorem State.setCtPage_unit_func (s : State) (k j : Nat) (r : CtPage) : (s.setCtPage k r).func j = s.func j := rfl
@[simp] theorem State.setCtPage_unit_port (s : State) (k j : Nat) (r : CtPage) : (s.setCtPage k r).port j = s.port j := rfl
@[simp] theorem State.setCtPage_unit_link (s : State) (k j : Nat) (r : CtPage) : (s.setCtPage k r).link j = s.link j := rfl
@[simp] theorem State.setCtPage_unit_skein (s : State) (k j : Nat) (r : CtPage) : (s.setCtPage k r).skein j = s.skein j := rfl
@[simp] theorem State.setCtPage_unit_field (s : State) (k j : Nat) (r : CtPage) : (s.setCtPage k r).field j = s.field j := rfl
@[simp] theorem State.modCtPage_ctPage_self (s : State) (k : Nat) (g : CtPage → CtPage) : (s.modCtPage k g).ctPage k = g (s.ctPage k) :=
  Tab.get_put_self _ _ _ _
theorem State.modCtPage_ctPage_ne (s : State) (k j : Nat) (g : CtPage → CtPage) (h : j ≠ k) : (s.modCtPage k g).ctPage j = s.ctPage j :=
  Tab.get_put_ne _ _ _ _ _ h
@[simp] theorem State.modCtPage_pending (s : State) (k : Nat) (w : CtPage → CtPage) : (s.modCtPage k w).pending = s.pending := rfl
@[simp] theorem State.modCtPage_time (s : State) (k : Nat) (w : CtPage → CtPage) : (s.modCtPage k w).time = s.time := rfl
@[simp] theorem State.modCtPage_free (s : State) (k : Nat) (w : CtPage → CtPage) : (s.modCtPage k w).free = s.free := rfl
@[simp] theorem State.modCtPage_cores (s : State) (k : Nat) (w : CtPage → CtPage) : (s.modCtPage k w).cores = s.cores := rfl
@[simp] theorem State.modCtPage_routers (s : State) (k : Nat) (w : CtPage → CtPage) : (s.modCtPage k w).routers = s.routers := rfl
@[simp] theorem State.modCtPage_net (s : State) (k : Nat) (w : CtPage → CtPage) : (s.modCtPage k w).net = s.net := rfl
@[simp] theorem State.modCtPage_harness (s : State) (k : Nat) (w : CtPage → CtPage) : (s.modCtPage k w).harness = s.harness := rfl
@[simp] theorem State.modCtPage_tokenIn (s : State) (k : Nat) (w : CtPage → CtPage) : (s.modCtPage k w).tokenIn = s.tokenIn := rfl
@[simp] theorem State.modCtPage_aperture (s : State) (k : Nat) (w : CtPage → CtPage) : (s.modCtPage k w).aperture = s.aperture := rfl
@[simp] theorem State.modCtPage_selvRx (s : State) (k : Nat) (w : CtPage → CtPage) : (s.modCtPage k w).selvRx = s.selvRx := rfl
@[simp] theorem State.modCtPage_ctrlData (s : State) (k : Nat) (w : CtPage → CtPage) : (s.modCtPage k w).ctrlData = s.ctrlData := rfl
@[simp] theorem State.modCtPage_probes (s : State) (k : Nat) (w : CtPage → CtPage) : (s.modCtPage k w).probes = s.probes := rfl
@[simp] theorem State.modCtPage_bolts (s : State) (k : Nat) (w : CtPage → CtPage) : (s.modCtPage k w).bolts = s.bolts := rfl
@[simp] theorem State.modCtPage_adapters (s : State) (k : Nat) (w : CtPage → CtPage) : (s.modCtPage k w).adapters = s.adapters := rfl
@[simp] theorem State.modCtPage_serve (s : State) (k : Nat) (w : CtPage → CtPage) : (s.modCtPage k w).serve = s.serve := rfl
@[simp] theorem State.modCtPage_reqs (s : State) (k : Nat) (w : CtPage → CtPage) : (s.modCtPage k w).reqs = s.reqs := rfl
@[simp] theorem State.modCtPage_lowFree (s : State) (k : Nat) (w : CtPage → CtPage) : (s.modCtPage k w).lowFree = s.lowFree := rfl
@[simp] theorem State.modCtPage_keyMismatch (s : State) (k : Nat) (w : CtPage → CtPage) : (s.modCtPage k w).keyMismatch = s.keyMismatch := rfl
@[simp] theorem State.modCtPage_qps (s : State) (k : Nat) (w : CtPage → CtPage) : (s.modCtPage k w).qps = s.qps := rfl
@[simp] theorem State.modCtPage_funcs (s : State) (k : Nat) (w : CtPage → CtPage) : (s.modCtPage k w).funcs = s.funcs := rfl
@[simp] theorem State.modCtPage_hostMem (s : State) (k : Nat) (w : CtPage → CtPage) : (s.modCtPage k w).hostMem = s.hostMem := rfl
@[simp] theorem State.modCtPage_msix (s : State) (k : Nat) (w : CtPage → CtPage) : (s.modCtPage k w).msix = s.msix := rfl
@[simp] theorem State.modCtPage_lastRead (s : State) (k : Nat) (w : CtPage → CtPage) : (s.modCtPage k w).lastRead = s.lastRead := rfl
@[simp] theorem State.modCtPage_xram (s : State) (k : Nat) (w : CtPage → CtPage) : (s.modCtPage k w).xram = s.xram := rfl
@[simp] theorem State.modCtPage_xramColl (s : State) (k : Nat) (w : CtPage → CtPage) : (s.modCtPage k w).xramColl = s.xramColl := rfl
@[simp] theorem State.modCtPage_xramWord (s : State) (k : Nat) (w : CtPage → CtPage) : (s.modCtPage k w).xramWord = s.xramWord := rfl
@[simp] theorem State.modCtPage_badAccess (s : State) (k : Nat) (w : CtPage → CtPage) : (s.modCtPage k w).badAccess = s.badAccess := rfl
@[simp] theorem State.modCtPage_creel (s : State) (k : Nat) (w : CtPage → CtPage) : (s.modCtPage k w).creel = s.creel := rfl
@[simp] theorem State.modCtPage_links (s : State) (k : Nat) (w : CtPage → CtPage) : (s.modCtPage k w).links = s.links := rfl
@[simp] theorem State.modCtPage_span (s : State) (k : Nat) (w : CtPage → CtPage) : (s.modCtPage k w).span = s.span := rfl
@[simp] theorem State.modCtPage_skeins (s : State) (k : Nat) (w : CtPage → CtPage) : (s.modCtPage k w).skeins = s.skeins := rfl
@[simp] theorem State.modCtPage_fields (s : State) (k : Nat) (w : CtPage → CtPage) : (s.modCtPage k w).fields = s.fields := rfl
@[simp] theorem State.modCtPage_power (s : State) (k : Nat) (w : CtPage → CtPage) : (s.modCtPage k w).power = s.power := rfl
@[simp] theorem State.modCtPage_thermal (s : State) (k : Nat) (w : CtPage → CtPage) : (s.modCtPage k w).thermal = s.thermal := rfl
@[simp] theorem State.modCtPage_faults (s : State) (k : Nat) (w : CtPage → CtPage) : (s.modCtPage k w).faults = s.faults := rfl
@[simp] theorem State.modCtPage_ctSel (s : State) (k : Nat) (w : CtPage → CtPage) : (s.modCtPage k w).ctSel = s.ctSel := rfl
@[simp] theorem State.modCtPage_ctVal (s : State) (k : Nat) (w : CtPage → CtPage) : (s.modCtPage k w).ctVal = s.ctVal := rfl
@[simp] theorem State.modCtPage_ledger (s : State) (k : Nat) (w : CtPage → CtPage) : (s.modCtPage k w).ledger = s.ledger := rfl
@[simp] theorem State.modCtPage_security (s : State) (k : Nat) (w : CtPage → CtPage) : (s.modCtPage k w).security = s.security := rfl
@[simp] theorem State.modCtPage_boot (s : State) (k : Nat) (w : CtPage → CtPage) : (s.modCtPage k w).boot = s.boot := rfl
@[simp] theorem State.modCtPage_unit_core (s : State) (k j : Nat) (w : CtPage → CtPage) : (s.modCtPage k w).core j = s.core j := rfl
@[simp] theorem State.modCtPage_unit_router (s : State) (k j : Nat) (w : CtPage → CtPage) : (s.modCtPage k w).router j = s.router j := rfl
@[simp] theorem State.modCtPage_unit_harn (s : State) (k j : Nat) (w : CtPage → CtPage) : (s.modCtPage k w).harn j = s.harn j := rfl
@[simp] theorem State.modCtPage_unit_bolt (s : State) (k j : Nat) (w : CtPage → CtPage) : (s.modCtPage k w).bolt j = s.bolt j := rfl
@[simp] theorem State.modCtPage_unit_adapter (s : State) (k j : Nat) (w : CtPage → CtPage) : (s.modCtPage k w).adapter j = s.adapter j := rfl
@[simp] theorem State.modCtPage_unit_serveOf (s : State) (k j : Nat) (w : CtPage → CtPage) : (s.modCtPage k w).serveOf j = s.serveOf j := rfl
@[simp] theorem State.modCtPage_unit_req (s : State) (k j : Nat) (w : CtPage → CtPage) : (s.modCtPage k w).req j = s.req j := rfl
@[simp] theorem State.modCtPage_unit_qp (s : State) (k j : Nat) (w : CtPage → CtPage) : (s.modCtPage k w).qp j = s.qp j := rfl
@[simp] theorem State.modCtPage_unit_func (s : State) (k j : Nat) (w : CtPage → CtPage) : (s.modCtPage k w).func j = s.func j := rfl
@[simp] theorem State.modCtPage_unit_port (s : State) (k j : Nat) (w : CtPage → CtPage) : (s.modCtPage k w).port j = s.port j := rfl
@[simp] theorem State.modCtPage_unit_link (s : State) (k j : Nat) (w : CtPage → CtPage) : (s.modCtPage k w).link j = s.link j := rfl
@[simp] theorem State.modCtPage_unit_skein (s : State) (k j : Nat) (w : CtPage → CtPage) : (s.modCtPage k w).skein j = s.skein j := rfl
@[simp] theorem State.modCtPage_unit_field (s : State) (k j : Nat) (w : CtPage → CtPage) : (s.modCtPage k w).field j = s.field j := rfl

end Sys2Proof.Machine
end

