-- ==== Sys2Proof/Laws/Core.lean ====
section
/-! SUPPORT. One lemma per operation that a core's cycle is made of, and what a whole cycle answers. -/

namespace Sys2Proof.Machine

open Sys2Proof

/-! ## Putting a core's work back -/

@[simp] theorem State.cx_r (s : State) (c : Nat) : (s.cx c).r = s.core c := rfl
@[simp] theorem State.cx_msgs (s : State) (c : Nat) : (s.cx c).msgs = [] := rfl
@[simp] theorem State.cx_out (s : State) (c : Nat) : (s.cx c).out = [] := rfl
@[simp] theorem State.cx_free (s : State) (c : Nat) : (s.cx c).free = s.free := rfl
@[simp] theorem State.putCx_core (s : State) (c : Nat) (x : Cx) : (s.putCx c x).core c = x.r := Tab.get_put_self _ _ _ _

/-- Work that has sent nothing only replaces the core. -/
theorem State.putCx_quiet (s : State) (c : Nat) (x : Cx) (h1 : x.msgs = []) (h2 : x.out = []) (h3 : x.free = s.free) :
    s.putCx c x = s.setCore c x.r := by
  simp [State.putCx, State.setCore, h1, h2, h3]

@[simp] theorem Cx.mod_r (x : Cx) (f : CoreRec → CoreRec) : (x.mod f).r = f x.r := rfl
@[simp] theorem Cx.mod_msgs (x : Cx) (f : CoreRec → CoreRec) : (x.mod f).msgs = x.msgs := rfl
@[simp] theorem Cx.mod_out (x : Cx) (f : CoreRec → CoreRec) : (x.mod f).out = x.out := rfl
@[simp] theorem Cx.mod_free (x : Cx) (f : CoreRec → CoreRec) : (x.mod f).free = x.free := rfl
@[simp] theorem Cx.modDp_r (x : Cx) (f : Datapath → Datapath) : (x.modDp f).r = { x.r with dp := f x.r.dp } := rfl
@[simp] theorem Cx.modDp_msgs (x : Cx) (f : Datapath → Datapath) : (x.modDp f).msgs = x.msgs := rfl
@[simp] theorem Cx.modDp_out (x : Cx) (f : Datapath → Datapath) : (x.modDp f).out = x.out := rfl
@[simp] theorem Cx.modDp_free (x : Cx) (f : Datapath → Datapath) : (x.modDp f).free = x.free := rfl

/-! ## Stores without errors -/

theorem Stores.errs_clean (st : Stores) (ss off n : Nat) (h : st.ecc = []) : st.errs ss off n = [] := by
  simp [Stores.errs, h]

theorem Cx.eccCheck_clean (x : Cx) (ss off n : Nat) (h : x.r.stores.ecc = []) : x.eccCheck ss off n = (x, true) := by
  simp [Cx.eccCheck, Stores.errs_clean _ _ _ _ h]

/-- A read of a store without errors delivers its bytes and changes nothing. -/
theorem Cx.dpRead_clean (x : Cx) (ss off n : Nat) (h : x.r.stores.ecc = []) :
    x.dpRead ss off n = (x, x.r.stores.read ss off n) := by
  simp [Cx.dpRead, Cx.eccCheck_clean _ _ _ _ h]

/-! ## Counters that are off -/

@[simp] theorem perfCtr_off (r : CoreRec) (k : Nat) (h : r.perf = []) : perfCtr r k = {} := by simp [perfCtr, h, Tab.get]

theorem Cx.count_off (x : Cx) (evs : List Nat) (k : Nat) (h : x.r.perf = []) : x.count evs k = x := by
  simp [Cx.count, perfCtr_off _ _ h]

theorem Cx.perfCycle_off (x : Cx) (evs : List Nat) (h : x.r.perf = []) :
    x.perfCycle evs = x.mod fun r => { r with sinceSample := min 4096 (r.sinceSample + 1) } := by
  have : ∀ l : List Nat, l.foldl (fun x k => Cx.count x evs k) x = x := by
    intro l; induction l with
    | nil => rfl
    | cons a l ih => rw [List.foldl_cons, Cx.count_off x evs a h, ih]
  simp [Cx.perfCycle, this]

theorem Cx.perfEvent_off (x : Cx) (ev : Nat) (h : x.r.perf = []) : x.perfEvent ev = x := by
  unfold Cx.perfEvent
  generalize List.range 4 = l
  induction l with
  | nil => rfl
  | cons a l ih => rw [List.foldl_cons]; simp only [perfCtr_off _ _ h]; simpa using ih

/-- A span of held cycles of a core with its counters off. -/
theorem Cx.perfHold_off (x : Cx) (evs : List Nat) (n : Nat) (h : x.r.perf = []) :
    ∃ q, x.perfHold evs n = { x with r := { x.r with sinceSample := q } } := by
  unfold Cx.perfHold
  split
  · exact ⟨x.r.sinceSample, rfl⟩
  · refine ⟨min 4096 (x.r.sinceSample + n), ?_⟩
    generalize List.range 4 = l
    induction l with
    | nil => rfl
    | cons a l ih => rw [List.foldl_cons]; simp only [perfCtr_off _ _ h]; simpa using ih

/-! ## Nothing in flight -/

theorem Cx.land_none (x : Cx) (n upto : Nat) (h : x.r.dp.pend = []) : Cx.land n upto x = x := by
  cases n with
  | zero => rfl
  | succ n => simp [Cx.land, h, minDue]

theorem Cx.int3Free_none (x : Cx) (h : x.r.dp.int3 = none) : x.int3Free = x := by simp [Cx.int3Free, h]

theorem State.budgetCheck_ok (s : State) (k : Nat) (h : budgetBad (s.skein k) = false) : s.budgetCheck k = s := by
  simp [State.budgetCheck, h]

/-- The bundle's slots. -/
theorem slotA_of (wa wb : Nat) (h : wa < 2 ^ 64) : slotA (wa + wb * 2 ^ 64) = wa := by
  simp only [slotA, bits]
  omega

theorem slotB_of (wa wb : Nat) (h : wa < 2 ^ 64) (h2 : wb < 2 ^ 64) : slotB (wa + wb * 2 ^ 64) = wb := by
  simp only [slotB, bits, Nat.shiftRight_eq_div_pow]
  omega

/-! ## A whole cycle -/

/-- The core as its issue finds it: the balance refilled and the stall run ended. -/
def issuing (s : State) (c : Nat) : Cx :=
  { s.cx c with r := { s.core c with balance := refilled s c, stallRun := 0 } }

/-- Where the shuttle takes no store, the datapath loses none. -/
theorem losesPort_none (env : Env) (p : Nat) (l : List (Nat × Nat)) (h : env.taken = []) : losesPort env p l = false := by
  simp [losesPort, h]

/-- What the checks and the issue make of the bundle on the core as its issue finds it. -/
def bundleWork (x : Cx) (env : Env) (pc wa wb : Nat) (resumed : Option WaitCond) : Cx :=
  let a := if validA (opOf wa) then planA env.virt x.r pc wa else {}
  let b := if validB (opOf wb) then planB x.r pc wb else {}
  match leastCause (illegalCauses x.r.dp wa wb a b) with
  | some k => x.freeze 2 0x09 (pc % 1024 + (k <<< 10))
  | none =>
    match a.fault, b.fault with
    | some f, _ => x.freeze f.1 f.2.1 f.2.2
    | none, some f => x.freeze f.1 f.2.1 f.2.2
    | none, none => x.tryIssue env wa a b resumed

def slotWork (s : State) (c wa wb : Nat) : Cx := bundleWork (issuing s c) (s.coreEnv c) (s.core c).pc wa wb none

/-- The cycle of a core with nothing in flight and no store error, past its governor. -/
theorem Cx.cycleBody_clean (x : Cx) (env : Env) (pc wa wb : Nat) (resumed : Option WaitCond)
    (h5 : wa < 2 ^ 64) (h6 : wb < 2 ^ 64) (h7 : x.r.stores.ecc = []) (h9 : x.r.dp.pend = []) (hf : x.r.st ≠ .frozen)
    (ht : env.taken = []) (hp : ¬ ((opOf wa = 1 ∨ opOf wa = 4) ∧ min (64 * (env.burst : Int)) (x.r.balance + env.eff) ≤ 0)) :
    x.cycleBody env (wa + wb * 2 ^ 64) pc resumed =
      bundleWork { x with r := { x.r with balance := min (64 * (env.burst : Int)) (x.r.balance + env.eff), stallRun := 0 } }
        env pc wa wb resumed := by
  unfold Cx.cycleBody
  have hp' : ¬ ((opOf wa = 1 ∨ opOf wa = 4) ∧ (x.mod fun r => r.refill env).r.balance ≤ 0) := hp
  simp only [slotA_of _ _ h5, slotB_of _ _ h5 h6, hp', if_false, losesPort_none _ _ _ ht, Bool.false_eq_true]
  have e1 : (Cx.mod x fun r => r.refill env).mod (fun r => { r with stallRun := 0 }) =
      { x with r := { x.r with balance := min (64 * (env.burst : Int)) (x.r.balance + env.eff), stallRun := 0 } } := rfl
  rw [e1]
  have hc : ({ x with r := { x.r with balance := min (64 * (env.burst : Int)) (x.r.balance + env.eff), stallRun := 0 } } : Cx).r.stores.ecc = [] := h7
  have hpe : ({ x with r := { x.r with balance := min (64 * (env.burst : Int)) (x.r.balance + env.eff), stallRun := 0 } } : Cx).r.dp.pend = [] := h9
  have hb' : min (64 * (env.burst : Int)) (({ x with r := { x.r with balance := min (64 * (env.burst : Int)) (x.r.balance + env.eff), stallRun := 0 } } : Cx).r.balance + ((0 : Nat) : Int))
      = ({ x with r := { x.r with balance := min (64 * (env.burst : Int)) (x.r.balance + env.eff), stallRun := 0 } } : Cx).r.balance := by
    simp
  have hf' : ({ x with r := { x.r with balance := min (64 * (env.burst : Int)) (x.r.balance + env.eff), stallRun := 0 } } : Cx).frozen = false := by
    simp [Cx.frozen, hf]
  generalize ({ x with r := { x.r with balance := min (64 * (env.burst : Int)) (x.r.balance + env.eff), stallRun := 0 } } : Cx) = z at *
  simp only [Cx.eccCheck_clean _ _ _ _ hc, Cx.land_none _ _ _ hpe]
  have hd : z.drain env = z := by
    have hl : lastDue z.r.dp = z.r.dp.pt := by simp [lastDue, hpe]
    simp only [Cx.drain, hl, Nat.sub_self, Nat.zero_mul, Cx.land_none _ _ _ hpe, Cx.mod, hb']
  simp only [hf', hd, ite_self, Bool.false_eq_true, not_false_eq_true, and_true, if_false]
  rfl

/-- A core that can issue meets the checks of Table 4.15, the faults of its plans, and then the waits. -/
theorem execSlot_work (s : State) (c wa wb : Nat) (sel : Nat → Nat → Bool) (h : CanIssue s c wa wb)
    (hs : sel (opOf wa) (opOf wb) = true) (hp : (opOf wa = 1 ∨ opOf wa = 4) → Paid s c) :
    execSlot sel c s = .next (s.putCx c (
      if (slotWork s c wa wb).r.dp.pt > (s.core c).dp.pt ∨ (slotWork s c wa wb).r.stallRun > (s.core c).stallRun then
        (slotWork s c wa wb).countDenied (s.shEnv c) (s.remoteAsks c) (s.core c).dp.pt else slotWork s c wa wb)) := by
  obtain ⟨h1, h2, h3, -, h4, h5, h6, h7, h8, h9, h10, h11, h12, h14, h13⟩ := h
  have hpc : ¬ ((opOf wa = 1 ∨ opOf wa = 4) ∧ refilled s c ≤ 0) := by
    rintro ⟨ha, hb⟩
    exact absurd (hp ha) (by simpa [Paid] using hb)
  have key : (s.cx c).runCycle (s.coreEnv c) sel = slotWork s c wa wb := by
    have hsel : sel (opOf (slotA (wa + wb * 2 ^ 64))) (opOf (slotB (wa + wb * 2 ^ 64))) = true := by
      rw [slotA_of _ _ h5, slotB_of _ _ h5 h6]; exact hs
    unfold Cx.runCycle
    simp only [State.cx_r, h3, ne_eq, not_true_eq_false, if_false, Stores.errs_clean _ _ _ _ h7, List.any_nil,
      Bool.false_eq_true, h4, hsel, if_true]
    exact Cx.cycleBody_clean (s.cx c) _ _ _ _ none h5 h6 h7 h9 (by simp [h3]) h14 hpc
  simp only [execSlot, onCore, onUnit, h1, decide_true, if_true, State.budgetCheck_ok _ _ h2, State.onCx, key, State.cx_r]

/-! ## Every form of issue -/

@[simp] theorem CoreRec.withQueued_perf (r : CoreRec) (b : Plan) : (r.withQueued b).perf = r.perf := by
  unfold CoreRec.withQueued; cases b.shut <;> cases b.step <;> rfl
@[simp] theorem CoreRec.withQueued_st (r : CoreRec) (b : Plan) : (r.withQueued b).st = r.st := by
  unfold CoreRec.withQueued; cases b.shut <;> cases b.step <;> rfl
@[simp] theorem CoreRec.withQueued_dp (r : CoreRec) (b : Plan) : (r.withQueued b).dp = r.dp := by
  unfold CoreRec.withQueued; cases b.shut <;> cases b.step <;> rfl
@[simp] theorem CoreRec.withQueued_none (r : CoreRec) (b : Plan) (h1 : b.shut = none) (h2 : b.step = none) :
    r.withQueued b = r := by simp [CoreRec.withQueued, h1, h2]

/-- Queueing changes the channels alone. -/
theorem CoreRec.withQueued_eq (r : CoreRec) (b : Plan) : r.withQueued b = { r with chans := (r.withQueued b).chans } := by
  unfold CoreRec.withQueued; cases b.shut <;> cases b.step <;> rfl

/-- The channels after queueing come from the channels and the tree slots. -/
theorem CoreRec.withQueued_chans (r q : CoreRec) (b : Plan) (h1 : r.chans = q.chans) (h2 : r.dp.tree = q.dp.tree) :
    (r.withQueued b).chans = (q.withQueued b).chans := by
  unfold CoreRec.withQueued
  cases b.shut <;> cases b.step <;> simp [CoreRec.setChan, CoreRec.chan, h1, h2]

/-- A counted cycle of a core with its counters off. -/
def CoreRec.ticked (r : CoreRec) : CoreRec := { r with sinceSample := min 4096 (r.sinceSample + 1) }

/-- A core after the issue of a bundle that is no HALT: `y` is the core after both slots' acts. -/
def issued (env : Env) (y : CoreRec) (a b : Plan) : CoreRec :=
  let q := ((CoreRec.withQueued { y with dp := y.dp.withResults a b } b).afterIssue y.pc a.heavy b.ctl).ticked
  match b.ctl with
  | .branch _ => (q.refill env).ticked
  | _ => q

/-- Every issue but that of a HALT, of a core whose acts leave it unfrozen and its counters off. -/
theorem Cx.issue_eq (x : Cx) (env : Env) (wa : Nat) (a b : Plan) (skip : Bool) (y : Cx) (hi : x.r.dp.int3 = none)
    (hy : (if skip then a.act x else b.act (a.act x)) = y) (hst : y.r.st ≠ .frozen) (hp : y.r.perf = [])
    (hc : b.ctl ≠ .halt) (hl : (issued env y.r a b).pc < 1024) :
    x.issue env wa a b skip = { y with r := issued env y.r a b } := by
  have h0 : (if opOf wa = 1 then x else x.int3Free) = x := by rw [Cx.int3Free_none x hi, ite_self]
  have hy2 : (if skip = true then a.act x else b.act (a.act x)) = y := hy
  unfold Cx.issue
  simp only [h0, hy2]
  rw [Cx.perfCycle_off]
  · unfold issued at hl ⊢
    cases hctl : b.ctl with
    | halt => exact absurd hctl hc
    | branch t =>
      rw [hctl] at hl
      simp only [Cx.afterCycle]
      rw [Cx.perfCycle_off]
      · rw [if_neg]
        · exact if_neg (Nat.not_le.2 hl)
        · simp only [Cx.frozen, Cx.mod, Cx.setR, CoreRec.refill, CoreRec.afterIssue, CoreRec.withQueued_st, decide_eq_true_eq]
          split <;> simp [hst]
      · simp [Cx.mod, Cx.setR, CoreRec.refill, CoreRec.afterIssue, hp]
    | seq =>
      rw [hctl] at hl
      simp only [Cx.afterCycle]
      rw [if_neg]
      · exact if_neg (Nat.not_le.2 hl)
      · simp only [Cx.frozen, Cx.mod, Cx.setR, CoreRec.afterIssue, CoreRec.withQueued_st, decide_eq_true_eq]
        split <;> simp [hst]
    | loop n l =>
      rw [hctl] at hl
      simp only [Cx.afterCycle]
      rw [if_neg]
      · exact if_neg (Nat.not_le.2 hl)
      · simp only [Cx.frozen, Cx.mod, Cx.setR, CoreRec.afterIssue, CoreRec.withQueued_st, decide_eq_true_eq]
        split <;> simp [hst]
  · simp [Cx.setR, CoreRec.afterIssue, hp]

/-- Without a wait and without a queue entry the bundle issues at once. -/
theorem Cx.tryIssue_plain (x : Cx) (env : Env) (wa : Nat) (a b : Plan) (hw : b.wait = none) (hr : b.waitRead = none)
    (hs : b.shut = none) (ht : b.step = none) (hf : x.r.st = .run) :
    x.tryIssue env wa a b none = x.issue env wa a b false := by
  simp [Cx.tryIssue, hw, hr, hs, ht, Cx.frozen, hf]

/-- The causes of Table 4.15 that no slot of a legal bundle meets. -/
theorem illegalCauses_none (d : Datapath) (wa wb : Nat) (a b : Plan) (h1 : validA (opOf wa) = true)
    (h2 : validB (opOf wb) = true) (h3 : wa &&& reservedA (opOf wa) = 0) (h4 : wb &&& reservedB (opOf wb) = 0)
    (h5 : a.illegal = []) (h6 : b.illegal = [])
    (h7 : clash ((a.ports ++ b.ports).map fun p => (p.1, d.pt + p.2)) d.ports = false)
    (h8 : ¬ ((opOf wa = 1 ∨ opOf wa = 2) ∧ opOf wb = 5))
    (h9 : clash ((a.writes ++ b.writes).map fun p => (p.1, d.pt + p.2)) d.writes = false) :
    leastCause (illegalCauses d wa wb a b) = none := by
  have h8' : ((decide (opOf wa = 1) || decide (opOf wa = 2)) && decide (opOf wb = 5)) = false := by
    by_contra hc
    simp only [Bool.not_eq_false, Bool.and_eq_true, Bool.or_eq_true, decide_eq_true_eq] at hc
    exact h8 hc
  simp only [illegalCauses, h1, h2, h3, h4, h5, h6, h7, h8', h9]
  simp [leastCause]

/-- What a legal bundle with no wait makes of its core and of the state: `y` is the core after both slots' acts. -/
theorem execSlot_issue (s : State) (c wa wb : Nat) (sel : Nat → Nat → Bool) (a b : Plan) (y : Cx) (h : CanIssue s c wa wb)
    (hsel : sel (opOf wa) (opOf wb) = true) (hp : (opOf wa = 1 ∨ opOf wa = 4) → Paid s c)
    (h1 : validA (opOf wa) = true) (h2 : validB (opOf wb) = true)
    (ha : planA (s.coreEnv c).virt (issuing s c).r (s.core c).pc wa = a)
    (hb : planB (issuing s c).r (s.core c).pc wb = b)
    (hleg : leastCause (illegalCauses (s.core c).dp wa wb a b) = none)
    (hfa : a.fault = none) (hfb : b.fault = none)
    (hi : (issuing s c).tryIssue (s.coreEnv c) wa a b none = (issuing s c).issue (s.coreEnv c) wa a b false)
    (hc : b.ctl ≠ .halt)
    (hy : b.act (a.act (issuing s c)) = y) (hst : y.r.st = .run) (hpf : y.r.perf = [])
    (hl : (issued (s.coreEnv c) y.r a b).pc < 1024) (hpt : y.r.dp.pt = (s.core c).dp.pt) :
    execSlot sel c s =
      .next (s.putCx c (({ y with r := issued (s.coreEnv c) y.r a b } : Cx).countDenied (s.shEnv c) (s.remoteAsks c) (s.core c).dp.pt)) := by
  have hk : slotWork s c wa wb = { y with r := issued (s.coreEnv c) y.r a b } := by
    have hd : (issuing s c).r.dp = (s.core c).dp := rfl
    simp only [slotWork, bundleWork, h1, h2, if_true, ha, hb, hd, hleg, hfa, hfb, hi]
    exact Cx.issue_eq (issuing s c) _ wa a b false y h.noInt3 hy (by rw [hst]; decide) hpf hc hl
  rw [execSlot_work s c wa wb sel h hsel hp, hk]
  have : (issued (s.coreEnv c) y.r a b).dp.pt > (s.core c).dp.pt := by
    unfold issued CoreRec.ticked CoreRec.afterIssue
    cases hb : b.ctl <;> simp [ctlNext, CoreRec.refill, Datapath.withResults, hpt]
  simp [this]

@[simp] theorem Cx.countDenied_msgs (v : ShEnv) (rem : Nat → Bool) (p : Nat) (x : Cx) :
    (x.countDenied v rem p).msgs = x.msgs := rfl
@[simp] theorem Cx.countDenied_out (v : ShEnv) (rem : Nat → Bool) (p : Nat) (x : Cx) :
    (x.countDenied v rem p).out = x.out := rfl
@[simp] theorem Cx.countDenied_free (v : ShEnv) (rem : Nat → Bool) (p : Nat) (x : Cx) :
    (x.countDenied v rem p).free = x.free := rfl

/-- The denied counts are the only thing that their count touches. -/
theorem Cx.countDenied_r (v : ShEnv) (rem : Nat → Bool) (p : Nat) (x : Cx) :
    (x.countDenied v rem p).r = { x.r with denied := (x.countDenied v rem p).r.denied } := rfl

end Sys2Proof.Machine
end

