-- ==== Sys2Proof/Laws/PerInstr.lean ====
section
/-! SUPPORT. Statements about every command as syntax, one lemma per constructor of `Instr`. -/

namespace Sys2Proof.Laws.CoreRange

open Sys2Proof

set_option Elab.async false

/-- A well-formed command that acts on a core names one of the core sites (R5). -/
def Statement (i : Instr) : Prop :=
  i.wellFormed = true → ∀ c, i.coreOf = some c → c < Config.nCores

theorem coreCtrlGo (a0 : Nat) (a1 : Nat) : Statement (.coreCtrlGo a0 a1) := by
  intro h d hd
  simp_all [Instr.coreOf, Instr.wellFormed]

theorem coreCtrlHalt (a0 : Nat) (a1 : Nat) : Statement (.coreCtrlHalt a0 a1) := by
  intro h d hd
  simp_all [Instr.coreOf, Instr.wellFormed]

theorem coreCtrlScrub (a0 : Nat) (a1 : Nat) : Statement (.coreCtrlScrub a0 a1) := by
  intro h d hd
  simp_all [Instr.coreOf, Instr.wellFormed]

theorem scrubDone (a0 : Nat) : Statement (.scrubDone a0) := by
  intro h d hd
  simp_all [Instr.coreOf, Instr.wellFormed]

theorem coreCommit (a0 : Nat) : Statement (.coreCommit a0) := by
  intro h d hd
  simp_all [Instr.coreOf, Instr.wellFormed]

theorem chanStatusClear (a0 : Nat) (a1 : Nat) : Statement (.chanStatusClear a0 a1) := by
  intro h d hd
  simp_all [Instr.coreOf, Instr.wellFormed]

theorem chanStatusResume (a0 : Nat) (a1 : Nat) : Statement (.chanStatusResume a0 a1) := by
  intro h d hd
  simp_all [Instr.coreOf, Instr.wellFormed]

theorem heartbeat (a0 : Nat) : Statement (.heartbeat a0) := by
  intro h d hd
  simp_all [Instr.coreOf, Instr.wellFormed]

theorem heartbeatWindowExpiry (a0 : Nat) : Statement (.heartbeatWindowExpiry a0) := by
  intro h d hd
  simp_all [Instr.coreOf, Instr.wellFormed]

theorem arbitrationYield (a0 : Nat) (a1 : Nat) : Statement (.arbitrationYield a0 a1) := by
  intro h d hd
  simp_all [Instr.coreOf, Instr.wellFormed]

theorem patrolScrubRead (a0 : Nat) (a1 : Nat) : Statement (.patrolScrubRead a0 a1) := by
  intro h d hd
  simp_all [Instr.coreOf, Instr.wellFormed]

theorem scrubWriteBack (a0 : Nat) (a1 : Nat) : Statement (.scrubWriteBack a0 a1) := by
  intro h d hd
  simp_all [Instr.coreOf, Instr.wellFormed]

theorem budgetClamp (a0 : Nat) : Statement (.budgetClamp a0) := by
  intro h d hd
  simp_all [Instr.coreOf, Instr.wellFormed]

theorem nopa (a0 : Nat) : Statement (.nopa a0) := by
  intro h d hd
  simp_all [Instr.coreOf, Instr.wellFormed]

theorem tmac (a0 : Nat) : Statement (.tmac a0) := by
  intro h d hd
  simp_all [Instr.coreOf, Instr.wellFormed]

theorem tscl (a0 : Nat) : Statement (.tscl a0) := by
  intro h d hd
  simp_all [Instr.coreOf, Instr.wellFormed]

theorem tdrn (a0 : Nat) : Statement (.tdrn a0) := by
  intro h d hd
  simp_all [Instr.coreOf, Instr.wellFormed]

theorem rot256 (a0 : Nat) : Statement (.rot256 a0) := by
  intro h d hd
  simp_all [Instr.coreOf, Instr.wellFormed]

theorem qnt (a0 : Nat) : Statement (.qnt a0) := by
  intro h d hd
  simp_all [Instr.coreOf, Instr.wellFormed]

theorem vadd (a0 : Nat) : Statement (.vadd a0) := by
  intro h d hd
  simp_all [Instr.coreOf, Instr.wellFormed]

theorem vsub (a0 : Nat) : Statement (.vsub a0) := by
  intro h d hd
  simp_all [Instr.coreOf, Instr.wellFormed]

theorem vmul (a0 : Nat) : Statement (.vmul a0) := by
  intro h d hd
  simp_all [Instr.coreOf, Instr.wellFormed]

theorem vfma (a0 : Nat) : Statement (.vfma a0) := by
  intro h d hd
  simp_all [Instr.coreOf, Instr.wellFormed]

theorem vmax (a0 : Nat) : Statement (.vmax a0) := by
  intro h d hd
  simp_all [Instr.coreOf, Instr.wellFormed]

theorem vmin (a0 : Nat) : Statement (.vmin a0) := by
  intro h d hd
  simp_all [Instr.coreOf, Instr.wellFormed]

theorem vscl (a0 : Nat) : Statement (.vscl a0) := by
  intro h d hd
  simp_all [Instr.coreOf, Instr.wellFormed]

theorem vcvt (a0 : Nat) : Statement (.vcvt a0) := by
  intro h d hd
  simp_all [Instr.coreOf, Instr.wellFormed]

theorem vhsum (a0 : Nat) : Statement (.vhsum a0) := by
  intro h d hd
  simp_all [Instr.coreOf, Instr.wellFormed]

theorem vhmax (a0 : Nat) : Statement (.vhmax a0) := by
  intro h d hd
  simp_all [Instr.coreOf, Instr.wellFormed]

theorem vbcl (a0 : Nat) : Statement (.vbcl a0) := by
  intro h d hd
  simp_all [Instr.coreOf, Instr.wellFormed]

theorem vmask (a0 : Nat) : Statement (.vmask a0) := by
  intro h d hd
  simp_all [Instr.coreOf, Instr.wellFormed]

theorem vexp2 (a0 : Nat) : Statement (.vexp2 a0) := by
  intro h d hd
  simp_all [Instr.coreOf, Instr.wellFormed]

theorem vlog2 (a0 : Nat) : Statement (.vlog2 a0) := by
  intro h d hd
  simp_all [Instr.coreOf, Instr.wellFormed]

theorem vrcp (a0 : Nat) : Statement (.vrcp a0) := by
  intro h d hd
  simp_all [Instr.coreOf, Instr.wellFormed]

theorem vrsq (a0 : Nat) : Statement (.vrsq a0) := by
  intro h d hd
  simp_all [Instr.coreOf, Instr.wellFormed]

theorem nopb (a0 : Nat) : Statement (.nopb a0) := by
  intro h d hd
  simp_all [Instr.coreOf, Instr.wellFormed]

theorem shut (a0 : Nat) : Statement (.shut a0) := by
  intro h d hd
  simp_all [Instr.coreOf, Instr.wellFormed]

theorem ldv (a0 : Nat) : Statement (.ldv a0) := by
  intro h d hd
  simp_all [Instr.coreOf, Instr.wellFormed]

theorem stv (a0 : Nat) : Statement (.stv a0) := by
  intro h d hd
  simp_all [Instr.coreOf, Instr.wellFormed]

theorem vldw (a0 : Nat) : Statement (.vldw a0) := by
  intro h d hd
  simp_all [Instr.coreOf, Instr.wellFormed]

theorem ldb (a0 : Nat) : Statement (.ldb a0) := by
  intro h d hd
  simp_all [Instr.coreOf, Instr.wellFormed]

theorem lds (a0 : Nat) : Statement (.lds a0) := by
  intro h d hd
  simp_all [Instr.coreOf, Instr.wellFormed]

theorem sts (a0 : Nat) : Statement (.sts a0) := by
  intro h d hd
  simp_all [Instr.coreOf, Instr.wellFormed]

theorem add (a0 : Nat) : Statement (.add a0) := by
  intro h d hd
  simp_all [Instr.coreOf, Instr.wellFormed]

theorem sub (a0 : Nat) : Statement (.sub a0) := by
  intro h d hd
  simp_all [Instr.coreOf, Instr.wellFormed]

theorem and (a0 : Nat) : Statement (.and a0) := by
  intro h d hd
  simp_all [Instr.coreOf, Instr.wellFormed]

theorem or (a0 : Nat) : Statement (.or a0) := by
  intro h d hd
  simp_all [Instr.coreOf, Instr.wellFormed]

theorem xor (a0 : Nat) : Statement (.xor a0) := by
  intro h d hd
  simp_all [Instr.coreOf, Instr.wellFormed]

theorem shl (a0 : Nat) : Statement (.shl a0) := by
  intro h d hd
  simp_all [Instr.coreOf, Instr.wellFormed]

theorem shr (a0 : Nat) : Statement (.shr a0) := by
  intro h d hd
  simp_all [Instr.coreOf, Instr.wellFormed]

theorem sar (a0 : Nat) : Statement (.sar a0) := by
  intro h d hd
  simp_all [Instr.coreOf, Instr.wellFormed]

theorem slt (a0 : Nat) : Statement (.slt a0) := by
  intro h d hd
  simp_all [Instr.coreOf, Instr.wellFormed]

theorem sltu (a0 : Nat) : Statement (.sltu a0) := by
  intro h d hd
  simp_all [Instr.coreOf, Instr.wellFormed]

theorem seq (a0 : Nat) : Statement (.seq a0) := by
  intro h d hd
  simp_all [Instr.coreOf, Instr.wellFormed]

theorem mul (a0 : Nat) : Statement (.mul a0) := by
  intro h d hd
  simp_all [Instr.coreOf, Instr.wellFormed]

theorem addi (a0 : Nat) : Statement (.addi a0) := by
  intro h d hd
  simp_all [Instr.coreOf, Instr.wellFormed]

theorem lih (a0 : Nat) : Statement (.lih a0) := by
  intro h d hd
  simp_all [Instr.coreOf, Instr.wellFormed]

theorem movv (a0 : Nat) : Statement (.movv a0) := by
  intro h d hd
  simp_all [Instr.coreOf, Instr.wellFormed]

theorem movgf (a0 : Nat) : Statement (.movgf a0) := by
  intro h d hd
  simp_all [Instr.coreOf, Instr.wellFormed]

theorem br (a0 : Nat) : Statement (.br a0) := by
  intro h d hd
  simp_all [Instr.coreOf, Instr.wellFormed]

theorem bz (a0 : Nat) : Statement (.bz a0) := by
  intro h d hd
  simp_all [Instr.coreOf, Instr.wellFormed]

theorem bnz (a0 : Nat) : Statement (.bnz a0) := by
  intro h d hd
  simp_all [Instr.coreOf, Instr.wellFormed]

theorem blt (a0 : Nat) : Statement (.blt a0) := by
  intro h d hd
  simp_all [Instr.coreOf, Instr.wellFormed]

theorem loop (a0 : Nat) : Statement (.loop a0) := by
  intro h d hd
  simp_all [Instr.coreOf, Instr.wellFormed]

theorem waitf (a0 : Nat) : Statement (.waitf a0) := by
  intro h d hd
  simp_all [Instr.coreOf, Instr.wellFormed]

theorem waitc (a0 : Nat) : Statement (.waitc a0) := by
  intro h d hd
  simp_all [Instr.coreOf, Instr.wellFormed]

theorem waitq (a0 : Nat) : Statement (.waitq a0) := by
  intro h d hd
  simp_all [Instr.coreOf, Instr.wellFormed]

theorem waitEnd (a0 : Nat) (a1 : Nat) : Statement (.waitEnd a0 a1) := by
  intro h d hd
  simp_all [Instr.coreOf, Instr.wellFormed]

theorem shuttleQueueFree (a0 : Nat) (a1 : Nat) : Statement (.shuttleQueueFree a0 a1) := by
  intro h d hd
  simp_all [Instr.coreOf, Instr.wellFormed]

theorem pick (a0 : Nat) : Statement (.pick a0) := by
  intro h d hd
  simp_all [Instr.coreOf, Instr.wellFormed]

theorem tdecl (a0 : Nat) : Statement (.tdecl a0) := by
  intro h d hd
  simp_all [Instr.coreOf, Instr.wellFormed]

theorem rstep (a0 : Nat) : Statement (.rstep a0) := by
  intro h d hd
  simp_all [Instr.coreOf, Instr.wellFormed]

theorem halt (a0 : Nat) : Statement (.halt a0) := by
  intro h d hd
  simp_all [Instr.coreOf, Instr.wellFormed]

theorem reductionStep (a0 : Nat) (a1 : Nat) : Statement (.reductionStep a0 a1) := by
  intro h d hd
  simp_all [Instr.coreOf, Instr.wellFormed]

theorem copy (a0 : Nat) (a1 : Nat) : Statement (.copy a0 a1) := by
  intro h d hd
  simp_all [Instr.coreOf, Instr.wellFormed]

theorem gather (a0 : Nat) (a1 : Nat) : Statement (.gather a0 a1) := by
  intro h d hd
  simp_all [Instr.coreOf, Instr.wellFormed]

theorem scatter (a0 : Nat) (a1 : Nat) : Statement (.scatter a0 a1) := by
  intro h d hd
  simp_all [Instr.coreOf, Instr.wellFormed]

theorem pagewalk (a0 : Nat) (a1 : Nat) : Statement (.pagewalk a0 a1) := by
  intro h d hd
  simp_all [Instr.coreOf, Instr.wellFormed]

theorem fill (a0 : Nat) (a1 : Nat) : Statement (.fill a0 a1) := by
  intro h d hd
  simp_all [Instr.coreOf, Instr.wellFormed]

theorem grant (a0 : Nat) (a1 : Nat) : Statement (.grant a0 a1) := by
  intro h d hd
  simp_all [Instr.coreOf, Instr.wellFormed]

theorem grantRecordFree (a0 : Nat) (a1 : Nat) : Statement (.grantRecordFree a0 a1) := by
  intro h d hd
  simp_all [Instr.coreOf, Instr.wellFormed]

theorem creditedLineSend (a0 : Nat) (a1 : Nat) : Statement (.creditedLineSend a0 a1) := by
  intro h d hd
  simp_all [Instr.coreOf, Instr.wellFormed]

theorem routeFlit (a0 : Flit) (a1 : Nat) (a2 : Nat) (a3 : Nat) (a4 : EccErr) : Statement (.routeFlit a0 a1 a2 a3 a4) := by
  intro _ d hd
  exact absurd hd (by simp [Instr.coreOf])

theorem write (a0 : Flit) : Statement (.write a0) := by
  intro _ d hd
  exact absurd hd (by simp [Instr.coreOf])

theorem writeWord (a0 : Flit) : Statement (.writeWord a0) := by
  intro _ d hd
  exact absurd hd (by simp [Instr.coreOf])

theorem read (a0 : Flit) : Statement (.read a0) := by
  intro _ d hd
  exact absurd hd (by simp [Instr.coreOf])

theorem readData (a0 : Flit) : Statement (.readData a0) := by
  intro _ d hd
  exact absurd hd (by simp [Instr.coreOf])

theorem ack (a0 : Flit) : Statement (.ack a0) := by
  intro _ d hd
  exact absurd hd (by simp [Instr.coreOf])

theorem nack (a0 : Flit) : Statement (.nack a0) := by
  intro _ d hd
  exact absurd hd (by simp [Instr.coreOf])

theorem grantFlit (a0 : Flit) : Statement (.grantFlit a0) := by
  intro _ d hd
  exact absurd hd (by simp [Instr.coreOf])

theorem ctrl (a0 : Flit) : Statement (.ctrl a0) := by
  intro _ d hd
  exact absurd hd (by simp [Instr.coreOf])

theorem ctrlResp (a0 : Flit) : Statement (.ctrlResp a0) := by
  intro _ d hd
  exact absurd hd (by simp [Instr.coreOf])

theorem beat (a0 : Flit) : Statement (.beat a0) := by
  intro _ d hd
  exact absurd hd (by simp [Instr.coreOf])

theorem ackTimerExpiry (a0 : Nat) (a1 : Nat) (a2 : Nat) : Statement (.ackTimerExpiry a0 a1 a2) := by
  intro h d hd
  simp_all [Instr.coreOf, Instr.wellFormed]

theorem rtCommit (a0 : Nat) : Statement (.rtCommit a0) := by
  intro h d hd
  simp_all [Instr.coreOf, Instr.wellFormed]

theorem harnessRewrite (a0 : RewriteTarget) : Statement (.harnessRewrite a0) := by
  intro _ d hd
  exact absurd hd (by simp [Instr.coreOf])

theorem probeTimeout (a0 : Nat) : Statement (.probeTimeout a0) := by
  intro h d hd
  simp_all [Instr.coreOf, Instr.wellFormed]

theorem drainComplete (a0 : Nat) : Statement (.drainComplete a0) := by
  intro _ d hd
  exact absurd hd (by simp [Instr.coreOf])

theorem boltResume (a0 : Nat) : Statement (.boltResume a0) := by
  intro _ d hd
  exact absurd hd (by simp [Instr.coreOf])

theorem watchdogCheck : Statement .watchdogCheck := by
  intro _ d hd
  exact absurd hd (by simp [Instr.coreOf])

theorem requestWord (a0 : Nat) : Statement (.requestWord a0) := by
  intro _ d hd
  exact absurd hd (by simp [Instr.coreOf])

theorem fetchRequest (a0 : Nat) : Statement (.fetchRequest a0) := by
  intro _ d hd
  exact absurd hd (by simp [Instr.coreOf])

theorem chainReport (a0 : Nat) : Statement (.chainReport a0) := by
  intro _ d hd
  exact absurd hd (by simp [Instr.coreOf])

theorem regionTakeUnit (a0 : Nat) (a1 : Nat) (a2 : List AttnInput) : Statement (.regionTakeUnit a0 a1 a2) := by
  intro _ d hd
  exact absurd hd (by simp [Instr.coreOf])

theorem unitHandOut (a0 : Nat) (a1 : Nat) : Statement (.unitHandOut a0 a1) := by
  intro _ d hd
  exact absurd hd (by simp [Instr.coreOf])

theorem layerVerdict (a0 : Nat) (a1 : Nat) (a2 : WatchSample) : Statement (.layerVerdict a0 a1 a2) := by
  intro _ d hd
  exact absurd hd (by simp [Instr.coreOf])

theorem bobbinFlush (a0 : Nat) (a1 : Nat) (a2 : Nat) : Statement (.bobbinFlush a0 a1 a2) := by
  intro _ d hd
  exact absurd hd (by simp [Instr.coreOf])

theorem watchRingPoll (a0 : Nat) : Statement (.watchRingPoll a0) := by
  intro _ d hd
  exact absurd hd (by simp [Instr.coreOf])

theorem tokenDraw (a0 : Nat) (a1 : Nat) (a2 : List (Nat × F32)) : Statement (.tokenDraw a0 a1 a2) := by
  intro _ d hd
  exact absurd hd (by simp [Instr.coreOf])

theorem tokenAccept (a0 : Nat) (a1 : Nat) : Statement (.tokenAccept a0 a1) := by
  intro _ d hd
  exact absurd hd (by simp [Instr.coreOf])

theorem turnWritten (a0 : Nat) : Statement (.turnWritten a0) := by
  intro _ d hd
  exact absurd hd (by simp [Instr.coreOf])

theorem boltCreate (a0 : Nat) (a1 : BitVec 1024) : Statement (.boltCreate a0 a1) := by
  intro _ d hd
  exact absurd hd (by simp [Instr.coreOf])

theorem boltDestroy (a0 : Nat) (a1 : BitVec 1024) : Statement (.boltDestroy a0 a1) := by
  intro _ d hd
  exact absurd hd (by simp [Instr.coreOf])

theorem scrub (a0 : Nat) (a1 : BitVec 1024) : Statement (.scrub a0 a1) := by
  intro _ d hd
  exact absurd hd (by simp [Instr.coreOf])

theorem loadModel (a0 : Nat) (a1 : BitVec 1024) (a2 : List Byte) (a3 : List Word) : Statement (.loadModel a0 a1 a2 a3) := by
  intro _ d hd
  exact absurd hd (by simp [Instr.coreOf])

theorem shardArrival (a0 : Nat) (a1 : Nat) (a2 : List Byte) : Statement (.shardArrival a0 a1 a2) := by
  intro _ d hd
  exact absurd hd (by simp [Instr.coreOf])

theorem shardAttemptTimeout (a0 : Nat) (a1 : Nat) : Statement (.shardAttemptTimeout a0 a1) := by
  intro _ d hd
  exact absurd hd (by simp [Instr.coreOf])

theorem placementDone (a0 : Nat) : Statement (.placementDone a0) := by
  intro _ d hd
  exact absurd hd (by simp [Instr.coreOf])

theorem epochCommit (a0 : Nat) : Statement (.epochCommit a0) := by
  intro _ d hd
  exact absurd hd (by simp [Instr.coreOf])

theorem epochCommitTimeout (a0 : Nat) (a1 : Nat) : Statement (.epochCommitTimeout a0 a1) := by
  intro _ d hd
  exact absurd hd (by simp [Instr.coreOf])

theorem unloadModel (a0 : Nat) (a1 : BitVec 1024) : Statement (.unloadModel a0 a1) := by
  intro _ d hd
  exact absurd hd (by simp [Instr.coreOf])

theorem switchEpoch (a0 : Nat) (a1 : BitVec 1024) : Statement (.switchEpoch a0 a1) := by
  intro _ d hd
  exact absurd hd (by simp [Instr.coreOf])

theorem epochFree (a0 : Nat) : Statement (.epochFree a0) := by
  intro _ d hd
  exact absurd hd (by simp [Instr.coreOf])

theorem loadAdapter (a0 : Nat) (a1 : BitVec 1024) (a2 : List Byte) : Statement (.loadAdapter a0 a1 a2) := by
  intro _ d hd
  exact absurd hd (by simp [Instr.coreOf])

theorem evictAdapter (a0 : Nat) (a1 : BitVec 1024) : Statement (.evictAdapter a0 a1) := by
  intro _ d hd
  exact absurd hd (by simp [Instr.coreOf])

theorem evictAdapterDone (a0 : Nat) : Statement (.evictAdapterDone a0) := by
  intro _ d hd
  exact absurd hd (by simp [Instr.coreOf])

theorem tuneAdapter (a0 : Nat) (a1 : BitVec 1024) (a2 : TuneJob) : Statement (.tuneAdapter a0 a1 a2) := by
  intro _ d hd
  exact absurd hd (by simp [Instr.coreOf])

theorem tuneStep (a0 : Nat) (a1 : TuneInput) : Statement (.tuneStep a0 a1) := by
  intro _ d hd
  exact absurd hd (by simp [Instr.coreOf])

theorem mirrorPatrol (a0 : Nat) : Statement (.mirrorPatrol a0) := by
  intro _ d hd
  exact absurd hd (by simp [Instr.coreOf])

theorem generate (a0 : Nat) (a1 : BitVec 1024) : Statement (.generate a0 a1) := by
  intro _ d hd
  exact absurd hd (by simp [Instr.coreOf])

theorem cont (a0 : Nat) (a1 : BitVec 1024) : Statement (.cont a0 a1) := by
  intro _ d hd
  exact absurd hd (by simp [Instr.coreOf])

theorem pause (a0 : Nat) (a1 : BitVec 1024) : Statement (.pause a0 a1) := by
  intro _ d hd
  exact absurd hd (by simp [Instr.coreOf])

theorem cancel (a0 : Nat) (a1 : BitVec 1024) : Statement (.cancel a0 a1) := by
  intro _ d hd
  exact absurd hd (by simp [Instr.coreOf])

theorem queryReq (a0 : Nat) (a1 : BitVec 1024) : Statement (.queryReq a0 a1) := by
  intro _ d hd
  exact absurd hd (by simp [Instr.coreOf])

theorem nop (a0 : Nat) (a1 : BitVec 1024) : Statement (.nop a0 a1) := by
  intro _ d hd
  exact absurd hd (by simp [Instr.coreOf])

theorem inputsRead (a0 : Nat) (a1 : List Byte) (a2 : List Byte) (a3 : List Byte) : Statement (.inputsRead a0 a1 a2 a3) := by
  intro _ d hd
  exact absurd hd (by simp [Instr.coreOf])

theorem admissionDecision (a0 : Nat) : Statement (.admissionDecision a0) := by
  intro _ d hd
  exact absurd hd (by simp [Instr.coreOf])

theorem slotRanking (a0 : Nat) : Statement (.slotRanking a0) := by
  intro _ d hd
  exact absurd hd (by simp [Instr.coreOf])

theorem ttlCheck : Statement .ttlCheck := by
  intro _ d hd
  exact absurd hd (by simp [Instr.coreOf])

theorem parkComplete (a0 : Nat) : Statement (.parkComplete a0) := by
  intro _ d hd
  exact absurd hd (by simp [Instr.coreOf])

theorem sqTail (a0 : Nat) (a1 : Nat) (a2 : BitVec 32) : Statement (.sqTail a0 a1 a2) := by
  intro _ d hd
  exact absurd hd (by simp [Instr.coreOf])

theorem cqHead (a0 : Nat) (a1 : Nat) (a2 : BitVec 32) : Statement (.cqHead a0 a1 a2) := by
  intro _ d hd
  exact absurd hd (by simp [Instr.coreOf])

theorem barrierRelease (a0 : Nat) : Statement (.barrierRelease a0) := by
  intro _ d hd
  exact absurd hd (by simp [Instr.coreOf])

theorem qpCommit (a0 : Nat) (a1 : Nat) : Statement (.qpCommit a0 a1) := by
  intro _ d hd
  exact absurd hd (by simp [Instr.coreOf])

theorem qpQuiesced (a0 : Nat) : Statement (.qpQuiesced a0) := by
  intro _ d hd
  exact absurd hd (by simp [Instr.coreOf])

theorem irqModerationTick : Statement .irqModerationTick := by
  intro _ d hd
  exact absurd hd (by simp [Instr.coreOf])

theorem flr (a0 : Nat) : Statement (.flr a0) := by
  intro _ d hd
  exact absurd hd (by simp [Instr.coreOf])

theorem pcieLinkDown (a0 : Nat) : Statement (.pcieLinkDown a0) := by
  intro _ d hd
  exact absurd hd (by simp [Instr.coreOf])

theorem dmaReadError (a0 : DmaRead) (a1 : Nat) : Statement (.dmaReadError a0 a1) := by
  intro _ d hd
  exact absurd hd (by simp [Instr.coreOf])

theorem writesResume (a0 : Nat) : Statement (.writesResume a0) := by
  intro _ d hd
  exact absurd hd (by simp [Instr.coreOf])

theorem readLedger (a0 : Nat) : Statement (.readLedger a0) := by
  intro _ d hd
  exact absurd hd (by simp [Instr.coreOf])

theorem readFaults (a0 : Nat) (a1 : Nat) (a2 : Nat) : Statement (.readFaults a0 a1 a2) := by
  intro _ d hd
  exact absurd hd (by simp [Instr.coreOf])

theorem readCoreMap (a0 : Nat) (a1 : Nat) : Statement (.readCoreMap a0 a1) := by
  intro _ d hd
  exact absurd hd (by simp [Instr.coreOf])

theorem fwStage (a0 : Nat) (a1 : Nat) (a2 : Nat) : Statement (.fwStage a0 a1 a2) := by
  intro _ d hd
  exact absurd hd (by simp [Instr.coreOf])

theorem fwActivate (a0 : Nat) (a1 : Nat) (a2 : Nat) : Statement (.fwActivate a0 a1 a2) := by
  intro _ d hd
  exact absurd hd (by simp [Instr.coreOf])

theorem flashWriteDone (a0 : Bool) : Statement (.flashWriteDone a0) := by
  intro _ d hd
  exact absurd hd (by simp [Instr.coreOf])

theorem creelRefresh (a0 : Nat) (a1 : Nat) (a2 : Nat) : Statement (.creelRefresh a0 a1 a2) := by
  intro _ d hd
  exact absurd hd (by simp [Instr.coreOf])

theorem mr4Read (a0 : Nat) (a1 : Nat) (a2 : Nat) : Statement (.mr4Read a0 a1 a2) := by
  intro _ d hd
  exact absurd hd (by simp [Instr.coreOf])

theorem creelPatrol (a0 : Nat) (a1 : Nat) : Statement (.creelPatrol a0 a1) := by
  intro _ d hd
  exact absurd hd (by simp [Instr.coreOf])

theorem creelLineRewrite (a0 : Nat) (a1 : Nat) : Statement (.creelLineRewrite a0 a1) := by
  intro _ d hd
  exact absurd hd (by simp [Instr.coreOf])

theorem creelPortRetire (a0 : Nat) : Statement (.creelPortRetire a0) := by
  intro _ d hd
  exact absurd hd (by simp [Instr.coreOf])

theorem blockZeroDone (a0 : Nat) (a1 : Nat) : Statement (.blockZeroDone a0 a1) := by
  intro _ d hd
  exact absurd hd (by simp [Instr.coreOf])

theorem idleFlit (a0 : Nat) (a1 : Nat) (a2 : BitVec 2048) (a3 : Bool) : Statement (.idleFlit a0 a1 a2 a3) := by
  intro _ d hd
  exact absurd hd (by simp [Instr.coreOf])

theorem slotFlit (a0 : Nat) (a1 : Nat) (a2 : BitVec 2048) (a3 : Bool) : Statement (.slotFlit a0 a1 a2 a3) := by
  intro _ d hd
  exact absurd hd (by simp [Instr.coreOf])

theorem runFlit (a0 : Nat) (a1 : Nat) (a2 : BitVec 2048) (a3 : Bool) : Statement (.runFlit a0 a1 a2 a3) := by
  intro _ d hd
  exact absurd hd (by simp [Instr.coreOf])

theorem ident (a0 : Nat) (a1 : Nat) (a2 : BitVec 2048) : Statement (.ident a0 a1 a2) := by
  intro _ d hd
  exact absurd hd (by simp [Instr.coreOf])

theorem identSend (a0 : Nat) (a1 : Nat) : Statement (.identSend a0 a1) := by
  intro _ d hd
  exact absurd hd (by simp [Instr.coreOf])

theorem credit (a0 : Nat) (a1 : Nat) (a2 : BitVec 2048) : Statement (.credit a0 a1 a2) := by
  intro _ d hd
  exact absurd hd (by simp [Instr.coreOf])

theorem harness (a0 : Nat) (a1 : Nat) (a2 : BitVec 2048) : Statement (.harness a0 a1 a2) := by
  intro _ d hd
  exact absurd hd (by simp [Instr.coreOf])

theorem laneRetrain (a0 : Nat) (a1 : Nat) : Statement (.laneRetrain a0 a1) := by
  intro _ d hd
  exact absurd hd (by simp [Instr.coreOf])

theorem retrainDone (a0 : Nat) (a1 : Nat) : Statement (.retrainDone a0 a1) := by
  intro _ d hd
  exact absurd hd (by simp [Instr.coreOf])

theorem retrainTimeout (a0 : Nat) (a1 : Nat) : Statement (.retrainTimeout a0 a1) := by
  intro _ d hd
  exact absurd hd (by simp [Instr.coreOf])

theorem lnRetrain (a0 : Nat) (a1 : Nat) : Statement (.lnRetrain a0 a1) := by
  intro _ d hd
  exact absurd hd (by simp [Instr.coreOf])

theorem spanCommit (a0 : Nat) : Statement (.spanCommit a0) := by
  intro _ d hd
  exact absurd hd (by simp [Instr.coreOf])

theorem routeSwitch (a0 : Nat) : Statement (.routeSwitch a0) := by
  intro _ d hd
  exact absurd hd (by simp [Instr.coreOf])

theorem spanPeerSilence (a0 : Nat) : Statement (.spanPeerSilence a0) := by
  intro _ d hd
  exact absurd hd (by simp [Instr.coreOf])

theorem telem (a0 : Nat) (a1 : BitVec 72) : Statement (.telem a0 a1) := by
  intro _ d hd
  exact absurd hd (by simp [Instr.coreOf])

theorem treadleAck (a0 : Nat) (a1 : BitVec 72) : Statement (.treadleAck a0 a1) := by
  intro _ d hd
  exact absurd hd (by simp [Instr.coreOf])

theorem treadleNak (a0 : Nat) (a1 : BitVec 72) : Statement (.treadleNak a0 a1) := by
  intro _ d hd
  exact absurd hd (by simp [Instr.coreOf])

theorem treadleStatus (a0 : Nat) (a1 : BitVec 72) : Statement (.treadleStatus a0 a1) := by
  intro _ d hd
  exact absurd hd (by simp [Instr.coreOf])

theorem treadleFault (a0 : Nat) (a1 : BitVec 72) : Statement (.treadleFault a0 a1) := by
  intro _ d hd
  exact absurd hd (by simp [Instr.coreOf])

theorem trdAlert (a0 : Nat) : Statement (.trdAlert a0) := by
  intro _ d hd
  exact absurd hd (by simp [Instr.coreOf])

theorem treadleRetryTimeout (a0 : Nat) : Statement (.treadleRetryTimeout a0) := by
  intro _ d hd
  exact absurd hd (by simp [Instr.coreOf])

theorem telemStale (a0 : Nat) (a1 : Nat) : Statement (.telemStale a0 a1) := by
  intro _ d hd
  exact absurd hd (by simp [Instr.coreOf])

theorem treadleLaneLoss (a0 : Nat) : Statement (.treadleLaneLoss a0) := by
  intro _ d hd
  exact absurd hd (by simp [Instr.coreOf])

theorem skeinTurnOnStart (a0 : Nat) : Statement (.skeinTurnOnStart a0) := by
  intro _ d hd
  exact absurd hd (by simp [Instr.coreOf])

theorem neighbourCap (a0 : Nat) : Statement (.neighbourCap a0) := by
  intro _ d hd
  exact absurd hd (by simp [Instr.coreOf])

theorem skeinTurnOnDone (a0 : Nat) : Statement (.skeinTurnOnDone a0) := by
  intro _ d hd
  exact absurd hd (by simp [Instr.coreOf])

theorem skeinTurnOff (a0 : Nat) : Statement (.skeinTurnOff a0) := by
  intro _ d hd
  exact absurd hd (by simp [Instr.coreOf])

theorem droop (a0 : Nat) (a1 : Nat) : Statement (.droop a0 a1) := by
  intro _ d hd
  exact absurd hd (by simp [Instr.coreOf])

theorem undervoltageGate (a0 : Nat) (a1 : Nat) : Statement (.undervoltageGate a0 a1) := by
  intro _ d hd
  exact absurd hd (by simp [Instr.coreOf])

theorem undervoltageRelease (a0 : Nat) : Statement (.undervoltageRelease a0) := by
  intro _ d hd
  exact absurd hd (by simp [Instr.coreOf])

theorem undervoltageTimeout (a0 : Nat) : Statement (.undervoltageTimeout a0) := by
  intro _ d hd
  exact absurd hd (by simp [Instr.coreOf])

theorem inputPowerSum : Statement .inputPowerSum := by
  intro _ d hd
  exact absurd hd (by simp [Instr.coreOf])

theorem pwCommit (a0 : Writer) : Statement (.pwCommit a0) := by
  intro _ d hd
  exact absurd hd (by simp [Instr.coreOf])

theorem powerFail : Statement .powerFail := by
  intro _ d hd
  exact absurd hd (by simp [Instr.coreOf])

theorem skeinSensorSample (a0 : Nat) (a1 : Nat) (a2 : Nat) : Statement (.skeinSensorSample a0 a1 a2) := by
  intro _ d hd
  exact absurd hd (by simp [Instr.coreOf])

theorem hubRead (a0 : Bool) (a1 : BitVec 128) : Statement (.hubRead a0 a1) := by
  intro _ d hd
  exact absurd hd (by simp [Instr.coreOf])

theorem coolingClamp : Statement .coolingClamp := by
  intro _ d hd
  exact absurd hd (by simp [Instr.coreOf])

theorem coolantStopStep2 : Statement .coolantStopStep2 := by
  intro _ d hd
  exact absurd hd (by simp [Instr.coreOf])

theorem configCheck : Statement .configCheck := by
  intro _ d hd
  exact absurd hd (by simp [Instr.coreOf])

theorem thermalTrip (a0 : Nat) : Statement (.thermalTrip a0) := by
  intro _ d hd
  exact absurd hd (by simp [Instr.coreOf])

theorem warmKeepEval : Statement .warmKeepEval := by
  intro _ d hd
  exact absurd hd (by simp [Instr.coreOf])

theorem fault (a0 : FaultMsg) : Statement (.fault a0) := by
  intro _ d hd
  exact absurd hd (by simp [Instr.coreOf])

theorem collectorTake : Statement .collectorTake := by
  intro _ d hd
  exact absurd hd (by simp [Instr.coreOf])

theorem forceGo (a0 : Nat) : Statement (.forceGo a0) := by
  intro _ d hd
  exact absurd hd (by simp [Instr.coreOf])

theorem forceSend (a0 : Nat) : Statement (.forceSend a0) := by
  intro _ d hd
  exact absurd hd (by simp [Instr.coreOf])

theorem beaconAck (a0 : Nat) : Statement (.beaconAck a0) := by
  intro _ d hd
  exact absurd hd (by simp [Instr.coreOf])

theorem aliveKick : Statement .aliveKick := by
  intro _ d hd
  exact absurd hd (by simp [Instr.coreOf])

theorem aliveKickLapse : Statement .aliveKickLapse := by
  intro _ d hd
  exact absurd hd (by simp [Instr.coreOf])

theorem counterWrap (a0 : Nat) (a1 : Nat) : Statement (.counterWrap a0 a1) := by
  intro h d hd
  simp_all [Instr.coreOf, Instr.wellFormed]

theorem portCounterWindow (a0 : Nat) (a1 : Nat) : Statement (.portCounterWindow a0 a1) := by
  intro _ d hd
  exact absurd hd (by simp [Instr.coreOf])

theorem ctCoreSel (a0 : Nat) (a1 : Nat) : Statement (.ctCoreSel a0 a1) := by
  intro _ d hd
  exact absurd hd (by simp [Instr.coreOf])

theorem ctSnapGo (a0 : Nat) (a1 : Nat) : Statement (.ctSnapGo a0 a1) := by
  intro _ d hd
  exact absurd hd (by simp [Instr.coreOf])

theorem ledgerWrite (a0 : Bool) (a1 : Bool) : Statement (.ledgerWrite a0 a1) := by
  intro _ d hd
  exact absurd hd (by simp [Instr.coreOf])

theorem cycleTrack : Statement .cycleTrack := by
  intro _ d hd
  exact absurd hd (by simp [Instr.coreOf])

theorem anchorCommit (a0 : Nat) : Statement (.anchorCommit a0) := by
  intro _ d hd
  exact absurd hd (by simp [Instr.coreOf])

theorem anchorLock (a0 : Nat) : Statement (.anchorLock a0) := by
  intro _ d hd
  exact absurd hd (by simp [Instr.coreOf])

theorem reset : Statement .reset := by
  intro _ d hd
  exact absurd hd (by simp [Instr.coreOf])

theorem boot (a0 : Nat) : Statement (.boot a0) := by
  intro _ d hd
  exact absurd hd (by simp [Instr.coreOf])

theorem bootStepDone (a0 : BootFindings) : Statement (.bootStepDone a0) := by
  intro _ d hd
  exact absurd hd (by simp [Instr.coreOf])

theorem sysclkLoss : Statement .sysclkLoss := by
  intro _ d hd
  exact absurd hd (by simp [Instr.coreOf])

theorem sysclkRestore : Statement .sysclkRestore := by
  intro _ d hd
  exact absurd hd (by simp [Instr.coreOf])

theorem pldmFwUpdate (a0 : List Byte) : Statement (.pldmFwUpdate a0) := by
  intro _ d hd
  exact absurd hd (by simp [Instr.coreOf])

theorem pldmSensorRead (a0 : Nat) : Statement (.pldmSensorRead a0) := by
  intro _ d hd
  exact absurd hd (by simp [Instr.coreOf])

theorem bypass : Statement .bypass := by
  intro _ d hd
  exact absurd hd (by simp [Instr.coreOf])

theorem idcode : Statement .idcode := by
  intro _ d hd
  exact absurd hd (by simp [Instr.coreOf])

theorem samplePreload (a0 : List Bool) : Statement (.samplePreload a0) := by
  intro _ d hd
  exact absurd hd (by simp [Instr.coreOf])

theorem extest : Statement .extest := by
  intro _ d hd
  exact absurd hd (by simp [Instr.coreOf])

theorem clamp : Statement .clamp := by
  intro _ d hd
  exact absurd hd (by simp [Instr.coreOf])

theorem highz : Statement .highz := by
  intro _ d hd
  exact absurd hd (by simp [Instr.coreOf])

theorem registerWrite (a0 : Nat) (a1 : FuncAddr) (a2 : Nat) (a3 : BitVec 512) : Statement (.registerWrite a0 a1 a2 a3) := by
  intro _ d hd
  exact absurd hd (by simp [Instr.coreOf])

theorem rcRegisterRead (a0 : Nat) (a1 : FuncAddr) (a2 : Nat) : Statement (.rcRegisterRead a0 a1 a2) := by
  intro _ d hd
  exact absurd hd (by simp [Instr.coreOf])

theorem xramCollision (a0 : Nat) (a1 : Bool) (a2 : Bool) : Statement (.xramCollision a0 a1 a2) := by
  intro _ d hd
  exact absurd hd (by simp [Instr.coreOf])

theorem reservedOpcode (a0 : Nat) : Statement (.reservedOpcode a0) := by
  intro h d hd
  simp_all [Instr.coreOf, Instr.wellFormed]

theorem aliveToggle : Statement .aliveToggle := by
  intro _ d hd
  exact absurd hd (by simp [Instr.coreOf])

theorem pcieLinkUp (a0 : PortTraining) : Statement (.pcieLinkUp a0) := by
  intro _ d hd
  exact absurd hd (by simp [Instr.coreOf])

theorem msixUnmask (a0 : Nat) (a1 : Nat) : Statement (.msixUnmask a0 a1) := by
  intro _ d hd
  exact absurd hd (by simp [Instr.coreOf])

theorem linkTrainingDone (a0 : Nat) (a1 : Nat) : Statement (.linkTrainingDone a0 a1) := by
  intro _ d hd
  exact absurd hd (by simp [Instr.coreOf])

theorem adapterPlaced (a0 : Nat) : Statement (.adapterPlaced a0) := by
  intro _ d hd
  exact absurd hd (by simp [Instr.coreOf])

end Sys2Proof.Laws.CoreRange
end

