-- ==== Sys2Proof/Tests/Slice0.lean ====
section
/-! SUPPORT. Tests: ill-formed commands, single steps with results worked out by hand, and a witness of the hypotheses of
every statement. -/

namespace Sys2Proof.Tests

set_option Elab.async false

open Sys2Proof Sys2Proof.Machine

/-! ## Ill-formed commands (R4, R5, R10) -/

def flitOk : Flit := ⟨0, 0, 0, 0, .write, 1, false, 0, false, none, false, 0, 0, false, 1, 0⟩

theorem test_illformed_core : ∀ i ∈ [Instr.coreCtrlGo 294912 0, .coreCtrlGo 0 1024, .coreCtrlHalt 294912 0,
    .coreCtrlScrub 0 1024, .scrubDone 294912, .coreCommit 294912, .heartbeat 294912, .heartbeatWindowExpiry 294912,
    .budgetClamp 294912, .reservedOpcode 294912, .arbitrationYield 0 3, .patrolScrubRead 0 1536, .scrubWriteBack 0 1536,
    .counterWrap 0 4], i.wellFormed = false := by decide
theorem test_illformed_slotA : ∀ i ∈ [Instr.nopa 294912, .tmac 294912, .tscl 294912, .tdrn 294912, .rot256 294912,
    .qnt 294912, .vadd 294912, .vsub 294912, .vmul 294912, .vfma 294912, .vmax 294912, .vmin 294912, .vscl 294912,
    .vcvt 294912, .vhsum 294912, .vhmax 294912, .vbcl 294912, .vmask 294912, .vexp2 294912, .vlog2 294912, .vrcp 294912,
    .vrsq 294912], i.wellFormed = false := by decide
theorem test_illformed_slotB : ∀ i ∈ [Instr.nopb 294912, .shut 294912, .ldv 294912, .stv 294912, .vldw 294912,
    .ldb 294912, .lds 294912, .sts 294912, .add 294912, .sub 294912, .and 294912, .or 294912, .xor 294912, .shl 294912,
    .shr 294912, .sar 294912, .slt 294912, .sltu 294912, .seq 294912, .mul 294912, .addi 294912, .lih 294912,
    .movv 294912, .movgf 294912, .br 294912, .bz 294912, .bnz 294912, .blt 294912, .loop 294912, .waitf 294912,
    .waitc 294912, .waitq 294912, .waitEnd 294912 0, .shuttleQueueFree 294912 0, .pick 294912, .tdecl 294912,
    .rstep 294912, .halt 294912], i.wellFormed = false := by decide
theorem test_illformed_channel : ∀ i ∈ [Instr.chanStatusClear 0 16, .chanStatusResume 0 16, .reductionStep 0 16,
    .copy 0 16, .gather 294912 0, .scatter 0 16, .pagewalk 0 16, .fill 0 16, .grant 0 16, .grantRecordFree 0 16,
    .creditedLineSend 0 16], i.wellFormed = false := by decide
theorem test_illformed_fabric : ∀ i ∈ [Instr.routeFlit flitOk 512 0 0 .none, .routeFlit flitOk 0 576 0 .none,
    .routeFlit flitOk 0 0 9 .none, .write { flitOk with dst := 2 ^ 47 }, .writeWord { flitOk with srcY := 1024 },
    .read { flitOk with srcX := 512 }, .readData { flitOk with srcEngine := 64 }, .ack { flitOk with vc := 3 },
    .nack { flitOk with bolt := 8 }, .grantFlit { flitOk with creditId := 256 }, .ctrl { flitOk with ch := 16 },
    .ctrlResp { flitOk with arg := 2048 }, .beat { flitOk with wp := some (512, 0) }, .ackTimerExpiry 0 (2 ^ 25) 0,
    .rtCommit 294912, .harnessRewrite (.allowance 4608), .harnessRewrite (.router 0 10), .harnessRewrite (.spanRoute 64),
    .harnessRewrite (.spanPeer 64), .harnessRewrite (.voltage 4608), .probeTimeout 294912], i.wellFormed = false := by
  decide
theorem test_illformed_bolt : ∀ i ∈ [Instr.drainComplete 8, .boltResume 8, .placementDone 8, .epochCommit 8, .epochFree 8,
    .mirrorPatrol 8, .admissionDecision 8, .slotRanking 8, .spanPeerSilence 8, .regionTakeUnit 8 0 [], .unitHandOut 8 0,
    .bobbinFlush 0 0 512, .tokenDraw 0 512 [], .tokenAccept 8 0, .shardArrival 8 0 [], .shardAttemptTimeout 8 0,
    .epochCommitTimeout 8 0, .evictAdapterDone 256, .adapterPlaced 256, .requestWord 16, .fetchRequest 16, .chainReport 16,
    .watchRingPoll 16], i.wellFormed = false := by decide
theorem test_illformed_host : ∀ i ∈ [Instr.boltCreate 1024 0, .boltDestroy 1024 0, .scrub 1024 0, .unloadModel 1024 0,
    .switchEpoch 1024 0, .evictAdapter 1024 0, .generate 1024 0, .cont 1024 0, .pause 1024 0, .cancel 1024 0,
    .queryReq 1024 0, .nop 1024 0, .loadModel 1024 0 [] [], .loadAdapter 1024 0 [], .tuneAdapter 1024 0 ⟨0, []⟩,
    .turnWritten 16384, .inputsRead 16384 [] [] [], .parkComplete 16384, .sqTail 32 0 0, .cqHead 0 1024 0, .qpCommit 32 0,
    .barrierRelease 1024, .qpQuiesced 1024, .flr 32, .writesResume 32, .pcieLinkDown 4, .pcieLinkUp ⟨4, 8⟩, .msixUnmask 0 64,
    .dmaReadError (.submission 1024) 0, .dmaReadError (.shard 8 0) 0, .dmaReadError (.request 16384) 0,
    .registerWrite 32 ⟨.bar0, 0⟩ 8 0, .rcRegisterRead 0 ⟨.bar0, 2 ^ 24⟩ 8, .registerWrite 0 ⟨.bar2, 0⟩ 65 0,
    .registerWrite 0 ⟨.bar4, 2 ^ 18⟩ 4 0, .rcRegisterRead 0 ⟨.config, 4096⟩ 4, .dmaReadError (.block 1024 0) 0, .xramCollision 32768 true true],
    i.wellFormed = false := by decide
theorem test_illformed_mailbox : ∀ i ∈ [Instr.readLedger (2 ^ 32), .readFaults 0 (2 ^ 32) 0, .readCoreMap 0 (2 ^ 32),
    .fwStage 0 0 (2 ^ 32), .fwActivate 0 0 (2 ^ 32)], i.wellFormed = false := by decide
theorem test_illformed_creel : ∀ i ∈ [Instr.creelRefresh 32 0 0, .creelRefresh 0 4 0, .creelRefresh 0 0 16, .mr4Read 0 0 8,
    .creelPatrol 0 5543, .blockZeroDone 0 5543, .creelLineRewrite 32 0, .creelPortRetire 32], i.wellFormed = false := by
  decide
theorem test_illformed_span : ∀ i ∈ [Instr.idleFlit 36 0 0 true, .slotFlit 0 8 0 true, .runFlit 36 0 0 true, .ident 0 8 0,
    .credit 36 0 0, .harness 0 8 0, .identSend 36 0, .laneRetrain 0 8, .retrainDone 36 0, .retrainTimeout 0 8,
    .lnRetrain 32 0, .lnRetrain 0 36, .spanCommit 32, .routeSwitch 64, .linkTrainingDone 36 0, .linkTrainingDone 0 256],
    i.wellFormed = false := by decide
theorem test_illformed_power : ∀ i ∈ [Instr.telem 48 0, .treadleAck 48 0, .treadleNak 48 0, .treadleStatus 48 0,
    .treadleFault 48 0, .trdAlert 48, .treadleRetryTimeout 48, .treadleLaneLoss 48, .telemStale 0 128,
    .skeinTurnOnStart 4608, .neighbourCap 4608, .skeinTurnOnDone 4608, .skeinTurnOff 4608, .undervoltageRelease 4608,
    .undervoltageTimeout 4608, .thermalTrip 4608, .droop 0 1024, .undervoltageGate 4608 0, .pwCommit (.host 32),
    .pwCommit (.harness 16), .skeinSensorSample 0 256 0, .skeinSensorSample 0 0 256], i.wellFormed = false := by decide
theorem test_illformed_fault : ∀ i ∈ [Instr.fault ⟨2 ^ 20, 0, 0, 0, false⟩, .fault ⟨0, 64, 0, 0, false⟩,
    .fault ⟨0, 0, 4, 0, false⟩, .fault ⟨0, 0, 0, 2 ^ 36, false⟩, .forceSend (2 ^ 20), .forceGo 32, .beaconAck 32,
    .portCounterWindow 0 8, .ctCoreSel 0 (2 ^ 19), .ctSnapGo 0 8, .anchorCommit 32, .anchorLock 32, .boot 16,
    .bootStepDone ⟨true, true, [], [294912], [], [], [], [], false, []⟩], i.wellFormed = false := by decide

/-! ## Cores that issue -/

/-- A slot word: opcode in bits 5:0, and fields at their low bits. -/
def word (op : Nat) (fs : List (Nat × Nat)) : Nat := fs.foldl (fun a f => a + f.2 * 2 ^ f.1) op

/-- A running core with a bundle at address 0, and scalar and vector registers. -/
def coreWith (wa wb : Nat) (ss : List (Nat × Word)) (vs : List (Nat × VReg)) : CoreRec :=
  { st := .run, stores := { inst := writeLE [] 0 16 (wa + wb * 2 ^ 64) }, dp := { s := ss, v := vs } }

def oneCore (wa wb : Nat) (ss : List (Nat × Word)) (vs : List (Nat × VReg)) : State :=
  { cores := [(0, coreWith wa wb ss vs)] }

/-- The state after a command that answers one. -/
def after (o : Out) : State := match o with | .next t => t | _ => State.reset

/-- Results in flight of core 0 after a command on `oneCore`. -/
def flight (i : Instr) (wa wb : Nat) (ss : List (Nat × Word)) (vs : List (Nat × VReg)) : List Pend :=
  ((after (exec i (oneCore wa wb ss vs))).core 0).dp.pend

/-- Lane 0 of the first result in flight. -/
def lane0 (l : List Pend) : Option Nat :=
  match l with
  | ⟨_, .vlanes _ _ _ v⟩ :: _ => some (vlane v 0)
  | _ => none

/-! ## Single steps: slot B (Table 4.12) -/

theorem test_add : flight (.add 0) 0 (word 0x08 [(6, 3), (11, 1), (16, 2)]) [(1, 5), (2, 7)] [] = [⟨1, .sreg 3 12⟩] := by
  decide
theorem test_sub_wraps : flight (.sub 0) 0 (word 0x09 [(6, 3), (11, 1), (16, 2)]) [(1, 5), (2, 7)] [] =
    [⟨1, .sreg 3 0xFFFFFFFFFFFFFFFE⟩] := by decide
theorem test_and : flight (.and 0) 0 (word 0x0A [(6, 3), (11, 1), (16, 2)]) [(1, 12), (2, 10)] [] = [⟨1, .sreg 3 8⟩] := by
  decide
theorem test_or : flight (.or 0) 0 (word 0x0B [(6, 3), (11, 1), (16, 2)]) [(1, 12), (2, 10)] [] = [⟨1, .sreg 3 14⟩] := by
  decide
theorem test_xor : flight (.xor 0) 0 (word 0x0C [(6, 3), (11, 1), (16, 2)]) [(1, 12), (2, 10)] [] = [⟨1, .sreg 3 6⟩] := by
  decide
theorem test_shl_by_65 : flight (.shl 0) 0 (word 0x0D [(6, 3), (11, 1), (16, 2)]) [(1, 3), (2, 65)] [] =
    [⟨1, .sreg 3 6⟩] := by decide
theorem test_shr : flight (.shr 0) 0 (word 0x0E [(6, 3), (11, 1), (16, 2)]) [(1, 0x8000000000000000), (2, 63)] [] =
    [⟨1, .sreg 3 1⟩] := by decide
theorem test_sar : flight (.sar 0) 0 (word 0x0F [(6, 3), (11, 1), (16, 2)]) [(1, 0x8000000000000000), (2, 63)] [] =
    [⟨1, .sreg 3 0xFFFFFFFFFFFFFFFF⟩] := by decide
theorem test_slt : flight (.slt 0) 0 (word 0x10 [(6, 3), (11, 1), (16, 2)]) [(1, 0xFFFFFFFFFFFFFFFF), (2, 1)] [] =
    [⟨1, .sreg 3 1⟩] := by decide
theorem test_sltu : flight (.sltu 0) 0 (word 0x11 [(6, 3), (11, 1), (16, 2)]) [(1, 0xFFFFFFFFFFFFFFFF), (2, 1)] [] =
    [⟨1, .sreg 3 0⟩] := by decide
theorem test_seq : flight (.seq 0) 0 (word 0x12 [(6, 3), (11, 1), (16, 1)]) [(1, 9)] [] = [⟨1, .sreg 3 1⟩] := by decide
theorem test_mul : flight (.mul 0) 0 (word 0x13 [(6, 3), (11, 1), (16, 2)]) [(1, 0x8000000000000000), (2, 3)] [] =
    [⟨3, .sreg 3 0x8000000000000000⟩] := by decide
theorem test_addi_negative : flight (.addi 0) 0 (word 0x14 [(6, 3), (11, 1), (16, 0xFFFFFFFF)]) [(1, 5)] [] =
    [⟨1, .sreg 3 4⟩] := by decide
theorem test_lih : flight (.lih 0) 0 (word 0x15 [(6, 3), (16, 0x12345678)]) [(3, 0xAAAAAAAA9ABCDEF0)] [] =
    [⟨1, .sreg 3 0x123456789ABCDEF0⟩] := by decide
theorem test_movv : flight (.movv 0) 0 (word 0x16 [(6, 3), (11, 4), (16, 1)]) [] [(4, 7 <<< 32)] = [⟨2, .sreg 3 7⟩] := by
  decide +kernel
theorem test_movgf : flight (.movgf 0) 0 (word 0x17 [(6, 3)]) [] [] = [⟨1, .sreg 3 0⟩] := by decide
theorem test_s0_discards : flight (.add 0) 0 (word 0x08 [(11, 1), (16, 2)]) [(1, 5), (2, 7)] [] = [] := by decide
theorem test_br : ((after (exec (.br 0) (oneCore 0 (word 0x18 [(16, 100)]) [] []))).core 0).pc = 100 := by decide
theorem test_bz_not_taken :
    ((after (exec (.bz 0) (oneCore 0 (word 0x19 [(6, 1), (16, 100)]) [(1, 1)] []))).core 0).pc = 1 := by decide
theorem test_bnz : ((after (exec (.bnz 0) (oneCore 0 (word 0x1A [(6, 1), (16, 100)]) [(1, 1)] []))).core 0).pc = 100 := by
  decide
theorem test_blt_signed : ((after (exec (.blt 0) (oneCore 0 (word 0x1B [(6, 1), (11, 2), (16, 100)])
    [(1, 0xFFFFFFFFFFFFFFFF), (2, 0)] []))).core 0).pc = 100 := by decide
theorem test_loop : ((after (exec (.loop 0) (oneCore 0 (word 0x1C [(11, 3), (27, 2)]) [] []))).core 0).dp.loops =
    [⟨1, 2, 3, 0⟩] := by decide
theorem test_halt : ((after (exec (.halt 0) (oneCore 0 (word 0x23 []) [] []))).core 0).st = .idle := by decide
theorem test_waitq : ((after (exec (.waitq 0) (oneCore 0 (word 0x1F [(6, 2)]) [] []))).core 0).pc = 1 := by decide
theorem test_waitc_waits : ((after (exec (.waitc 0) (oneCore 0 (word 0x1E [(6, 9), (19, 4)]) [] []))).core 0).wait =
    some (.credit 9 4) := by decide
theorem test_waitf_waits : ((after (exec (.waitf 0) (oneCore 0 (word 0x1D [(6, 1)]) [(1, 2)] []))).core 0).st = .wait := by
  decide
theorem test_pick : ((after (exec (.pick 0) (oneCore 0 (word 0x20 [(6, 1)]) [] []))).core 0).sliceRot = 1 := by decide
theorem test_sts : readLE ((after (exec (.sts 0) (oneCore 0 (word 0x07 [(6, 1), (16, 1), (19, 16)]) [(1, 0x0102)] []))).core
    0).stores.act 16 2 = 0x0102 := by decide
theorem test_lds_misaligned : ((after (exec (.lds 0) (oneCore 0 (word 0x06 [(6, 1), (16, 1), (19, 4)]) [] []))).core 0).st =
    .frozen := by decide

/-! ## Single steps: slot A (Tables 4.5 to 4.11) -/

/-- 1.0 in lane 0 of v1, 2.0 in lane 0 of v2. -/
def onesTwos : List (Nat × VReg) := [(1, 0x3F800000), (2, 0x40000000)]

theorem test_vectorArithmetic :
    lane0 (flight (.vadd 0) (word 0x08 [(6, 3), (11, 1), (16, 2)]) 0 [] onesTwos) = some 0x40400000 ∧
    lane0 (flight (.vsub 0) (word 0x09 [(6, 3), (11, 1), (16, 2)]) 0 [] onesTwos) = some 0xBF800000 ∧
    lane0 (flight (.vmul 0) (word 0x0A [(6, 3), (11, 2), (16, 2)]) 0 [] onesTwos) = some 0x40800000 ∧
    lane0 (flight (.vfma 0) (word 0x0B [(6, 3), (11, 2), (16, 2), (21, 1)]) 0 [] onesTwos) = some 0x40A00000 ∧
    lane0 (flight (.vmax 0) (word 0x0C [(6, 3), (11, 1), (16, 2)]) 0 [] onesTwos) = some 0x40000000 ∧
    lane0 (flight (.vmin 0) (word 0x0D [(6, 3), (11, 1), (16, 2)]) 0 [] onesTwos) = some 0x3F800000 ∧
    lane0 (flight (.vscl 0) (word 0x0E [(6, 3), (11, 1), (16, 1)]) 0 [(1, 0xFFFF)] onesTwos) = some 0x3F000000 := by decide +kernel
theorem test_specialFunctions :
    lane0 (flight (.vrcp 0) (word 0x1A [(6, 3), (11, 2)]) 0 [] onesTwos) = some 0x3F000000 ∧
    lane0 (flight (.vexp2 0) (word 0x18 [(6, 3), (11, 3)]) 0 [] onesTwos) = some 0x3F800000 ∧
    lane0 (flight (.vlog2 0) (word 0x19 [(6, 3), (11, 1)]) 0 [] onesTwos) = some 0 ∧
    lane0 (flight (.vrsq 0) (word 0x1B [(6, 3), (11, 3)]) 0 [] onesTwos) = some 0x7F800000 := by decide +kernel
theorem test_vectorShapes :
    lane0 (flight (.vbcl 0) (word 0x12 [(6, 3), (11, 1), (16, 1)]) 0 [] [(1, 9 <<< 32)]) = some 9 ∧
    lane0 (flight (.vmask 0) (word 0x13 [(6, 3), (11, 1), (16, 1), (21, 2)]) 0 [(1, 1)] onesTwos) = some 0xFF800000 ∧
    lane0 (flight (.vhmax 0) (word 0x11 [(6, 3), (11, 2)]) 0 [] onesTwos) = some 0x40000000 ∧
    lane0 (flight (.vhsum 0) (word 0x10 [(6, 3), (11, 2)]) 0 [] onesTwos) = some 0x40000000 ∧
    lane0 (flight (.vcvt 0) (word 0x0F [(6, 3), (11, 1)]) 0 [] [(1, 0x3F808001)]) = some 0x3F810000 := by decide +kernel
theorem test_reserved_opcode : ((after (exec (.reservedOpcode 0) (oneCore 0 (word 0x3F []) [] []))).core 0).freezeCause = 2 := by
  decide +kernel


/-! ## Witnesses: the hypotheses of the core statements -/

/-- The conditions of `CanIssue`, as one that can be computed. -/
def canIssueB (s : State) (c wa wb : Nat) : Bool :=
  decide (c < Config.nCores) && !budgetBad (s.skein (skeinOf c)) && decide ((s.core c).st = .run) &&
  decide ((s.core c).wait = none) && decide ((s.core c).stores.read 3 (16 * (s.core c).pc) 16 = wa + wb * 2 ^ 64) &&
  decide (wa < 2 ^ 64) && decide (wb < 2 ^ 64) && decide ((s.core c).stores.ecc = []) && decide ((s.core c).perf = []) &&
  decide ((s.core c).dp.pend = []) && decide ((s.core c).dp.ports = []) && decide ((s.core c).dp.writes = []) &&
  decide ((s.core c).dp.int3 = none) && decide ((s.coreEnv c).taken = []) && decide ((loopEnd (s.core c).pc (s.core c).dp.loops).2 < 1024)

theorem canIssue_of (s : State) (c wa wb : Nat) (h : canIssueB s c wa wb = true) : CanIssue s c wa wb := by
  simp only [canIssueB, Bool.and_eq_true, decide_eq_true_eq, Bool.not_eq_true'] at h
  obtain ⟨⟨⟨⟨⟨⟨⟨⟨⟨⟨⟨⟨⟨⟨a, b⟩, c⟩, d⟩, e⟩, f⟩, g⟩, i⟩, j⟩, k⟩, l⟩, m⟩, n⟩, p⟩, o⟩ := h
  exact ⟨a, b, c, d, e, f, g, i, j, k, l, m, n, p, o⟩

/-- The state of one running core whose bundle is the two words, with `s1` and `s2` as given. -/
def one (wa wb : Nat) (s1 s2 : Word) : State := oneCore wa wb ((if s1 = 0 then [] else [(1, s1)]) ++ (if s2 = 0 then [] else [(2, s2)])) []

theorem witness_slotA : ∀ op ∈ [0x08, 0x09, 0x0A, 0x0B, 0x0C, 0x0D, 0x0E, 0x0F, 0x10, 0x11, 0x12, 0x13, 0x18, 0x19, 0x1A,
    0x1B], canIssueB (one op 0 0 0) 0 op 0 = true ∧ opOf op = op ∧ op &&& reservedA op = 0 := by decide
/-- VectorLaneResults, VectorShapeResults, SpecialFunctionResults: every operation has a word that can issue. -/
theorem witness_vectorOps : ∀ op ∈ [0x08, 0x09, 0x0A, 0x0B, 0x0C, 0x0D, 0x0E, 0x0F, 0x10, 0x11, 0x12, 0x13, 0x18, 0x19,
    0x1A, 0x1B], CanIssue (one op 0 0 0) 0 op 0 ∧ WordA op op ∧ sfFree ((one op 0 0 0).core 0) op := by
  intro op h
  exact ⟨canIssue_of _ _ _ _ (witness_slotA op h).1, (witness_slotA op h).2, fun t e => by cases e⟩
/-- VCVT with and without stochastic rounding. -/
theorem witness_vcvt : CanIssue (one (word 0x0F [(28, 1)]) 0 0 0) 0 (word 0x0F [(28, 1)]) 0 ∧
    WordA 0x0F (word 0x0F [(28, 1)]) ∧ flag (word 0x0F [(28, 1)]) 28 = true ∧ fld (word 0x0F [(28, 1)]) 20 16 ≠ 31 ∧
    flag 0x0F 28 = false :=
  ⟨canIssue_of _ _ _ _ (by decide), ⟨by decide, by decide⟩, by decide, by decide, by decide⟩

theorem witness_slotB : ∀ op ∈ [0x00, 0x08, 0x09, 0x0A, 0x0B, 0x0C, 0x0D, 0x0E, 0x0F, 0x10, 0x11, 0x12, 0x13, 0x14, 0x15,
    0x16, 0x17, 0x18, 0x19, 0x1A, 0x1B, 0x1E, 0x1F, 0x20, 0x23], canIssueB (one 0 op 0 0) 0 0 op = true ∧ opOf op = op ∧
    op &&& reservedB op = 0 := by decide
/-- ScalarResults: every operation has a word that can issue. -/
theorem witness_scalarOps : ∀ op ∈ [0x08, 0x09, 0x0A, 0x0B, 0x0C, 0x0D, 0x0E, 0x0F, 0x10, 0x11, 0x12, 0x13, 0x14, 0x15,
    0x16, 0x17], CanIssue (one 0 op 0 0) 0 0 op ∧ WordB op op := by
  intro op h
  have : op ∈ [0x00, 0x08, 0x09, 0x0A, 0x0B, 0x0C, 0x0D, 0x0E, 0x0F, 0x10, 0x11, 0x12, 0x13, 0x14, 0x15,
    0x16, 0x17, 0x18, 0x19, 0x1A, 0x1B, 0x1E, 0x1F, 0x20, 0x23] := by revert op; decide
  exact ⟨canIssue_of _ _ _ _ (witness_slotB op this).1, (witness_slotB op this).2⟩

/-- LoadStoreEffects: an access at the last place of its window, for each operation. -/
theorem witness_ldv : let w := word 0x02 [(11, 1), (16, 1)]
    let s := one 0 w (BitVec.ofNat 64 (storeEnd 1 - 128)) 0
    CanIssue s 0 0 w ∧ WordB 0x02 w ∧ accessOk [1, 2] (fld w 18 16) (memOff (s.core 0) w) 128
      (if fld w 18 16 = 2 then 64 else 32) = true :=
  ⟨canIssue_of _ _ _ _ (by decide), ⟨by decide, by decide⟩, by decide⟩
theorem witness_stv : let w := word 0x03 [(11, 1), (16, 2)]
    let s := one 0 w (BitVec.ofNat 64 (storeEnd 2 - 128)) 0
    CanIssue s 0 0 w ∧ WordB 0x03 w ∧ fld w 47 46 ≠ 3 ∧ accessOk [1, 2] (fld w 18 16) (memOff (s.core 0) w)
      (if fld w 47 46 = 0 then 128 else 64) (if fld w 18 16 = 2 then 64 else 32) = true :=
  ⟨canIssue_of _ _ _ _ (by decide), ⟨by decide, by decide⟩, by decide, by decide⟩
theorem witness_vldw_two : let w := word 0x04 [(48, 10)]
    CanIssue (one 0 w 0 0) 0 0 w ∧ WordB 0x04 w ∧ fld w 51 48 ∈ [1, 2, 4, 5, 6, 7, 8, 9, 10] ∧ sbLines (fld w 51 48) = 2 ∧
      accessOk [1] 1 (memOff ((one 0 w 0 0).core 0) w) 64 32 = true :=
  ⟨canIssue_of _ _ _ _ (by decide), ⟨by decide, by decide⟩, by decide, by decide, by decide⟩
/-- A shuttle block of E2M1 codes at offset 0: its tag nibble stands in byte 17. -/
def withBlock (wb : Nat) : State :=
  let s := one 0 wb 0 0
  s.setCore 0 { s.core 0 with stores := { (s.core 0).stores with act := [(17, 1)] } }
theorem witness_vldw_one : let w := word 0x04 [(48, 1)]
    CanIssue (withBlock w) 0 0 w ∧ WordB 0x04 w ∧ fld w 51 48 ∈ [1, 2, 4, 5, 6, 7, 8, 9, 10] ∧ sbLines (fld w 51 48) ≠ 2 ∧
      accessOk [1] 1 (memOff ((withBlock w).core 0) w) 32 32 = true ∧
      bits (((withBlock w).core 0).stores.read 1 0 32 >>> (8 * sbElemBytes 1)) 8 4 = 1 :=
  ⟨canIssue_of _ _ _ _ (by decide), ⟨by decide, by decide⟩, by decide, by decide, by decide, by decide⟩
theorem witness_ldb : let w := word 0x05 [(11, 1)]
    CanIssue (one 0 w 1535 0) 0 0 w ∧ WordB 0x05 w ∧ baseOff ((one 0 w 1535 0).core 0) (fld w 15 11) (fld w 26 16) ≤ 1535 :=
  ⟨canIssue_of _ _ _ _ (by decide), ⟨by decide, by decide⟩, by decide⟩
theorem witness_lds : let w := word 0x06 [(11, 1), (16, 1)]
    let s := one 0 w (BitVec.ofNat 64 (storeEnd 1 - 8)) 0
    CanIssue s 0 0 w ∧ WordB 0x06 w ∧ accessOk [1, 2, 5, 6] (fld w 18 16) (memOff (s.core 0) w) 8 8 = true :=
  ⟨canIssue_of _ _ _ _ (by decide), ⟨by decide, by decide⟩, by decide⟩
theorem witness_sts : ∀ ss ∈ [1, 2, 5, 6], canIssueB (one 0 (word 0x07 [(16, ss)]) 0 0) 0 0 (word 0x07 [(16, ss)]) = true ∧
    opOf (word 0x07 [(16, ss)]) = 0x07 ∧ word 0x07 [(16, ss)] &&& reservedB 0x07 = 0 ∧
    accessOk [1, 2, 5, 6] (fld (word 0x07 [(16, ss)]) 18 16)
      (memOff ((one 0 (word 0x07 [(16, ss)]) 0 0).core 0) (word 0x07 [(16, ss)])) 8 8 = true := by decide

/-- BranchAndLoopEffects: both sides of each branch, and a loop that runs and one that does not. -/
theorem witness_branches : ∀ op ∈ [0x18, 0x19, 0x1A, 0x1B], CanIssue (one 0 op 0 0) 0 0 op ∧ WordB op op := by
  intro op h
  have : op ∈ [0x00, 0x08, 0x09, 0x0A, 0x0B, 0x0C, 0x0D, 0x0E, 0x0F, 0x10, 0x11, 0x12, 0x13, 0x14, 0x15,
    0x16, 0x17, 0x18, 0x19, 0x1A, 0x1B, 0x1E, 0x1F, 0x20, 0x23] := by revert op; decide
  exact ⟨canIssue_of _ _ _ _ (witness_slotB op this).1, (witness_slotB op this).2⟩
theorem witness_branch_sides : sword ((one 0 (word 0x19 [(6, 1)]) 1 0).core 0) 1 ≠ 0 ∧ sword ((one 0 0x19 0 0).core 0) 0 = 0 ∧
    (sword ((one 0 0 (-1) 0).core 0) 1).slt (sword ((one 0 0 (-1) 0).core 0) 0) = true ∧
    (sword ((one 0 0 0 0).core 0) 0).slt (sword ((one 0 0 0 0).core 0) 0) = false := by decide
theorem witness_loop : let w := word 0x1C [(11, 1), (27, 1)]
    let r := (one 0 w 0 0).core 0
    CanIssue (one 0 w 0 0) 0 0 w ∧ WordB 0x1C w ∧ r.pc < fld w 36 27 ∧ r.dp.loops.length < 4 ∧ r.pc + 1 < 1024 ∧
      sword r (fld w 10 6) + BitVec.ofNat 64 (fld w 26 11) = 1 :=
  ⟨canIssue_of _ _ _ _ (by decide), ⟨by decide, by decide⟩, by decide, by decide, by decide, by decide⟩
theorem witness_loop_zero : let w := word 0x1C [(27, 1022)]
    let r := (one 0 w 0 0).core 0
    CanIssue (one 0 w 0 0) 0 0 w ∧ WordB 0x1C w ∧ r.pc < fld w 36 27 ∧ fld w 36 27 < 1023 ∧
      sword r (fld w 10 6) + BitVec.ofNat 64 (fld w 26 11) = 0 :=
  ⟨canIssue_of _ _ _ _ (by decide), ⟨by decide, by decide⟩, by decide, by decide, by decide⟩

/-- WaitFormEffects: WAITF that issues (no mask bit asked for) and that waits, WAITC at and below its need, WAITQ. -/
theorem witness_waitf : let w := word 0x1D [(6, 1)]
    CanIssue (one 0 w 1 0) 0 0 w ∧ WordB 0x1D w ∧ accessOk [1] 1 (memOff ((one 0 w 1 0).core 0) w) 8 8 = true ∧
      (0 : Word) &&& sword ((one 0 w 1 0).core 0) 1 ≠ sword ((one 0 w 1 0).core 0) 1 :=
  ⟨canIssue_of _ _ _ _ (by decide), ⟨by decide, by decide⟩, by decide, by decide⟩
theorem witness_waitf_issues : let w := word 0x1D []
    CanIssue (one 0 w 0 0) 0 0 w ∧ WordB 0x1D w ∧ accessOk [1] 1 (memOff ((one 0 w 0 0).core 0) w) 8 8 = true ∧
      sword ((one 0 w 0 0).core 0) 0 = 0 ∧ flag w 38 = false :=
  ⟨canIssue_of _ _ _ _ (by decide), ⟨by decide, by decide⟩, by decide, by decide, by decide⟩
theorem witness_waitc : let w := word 0x1E [(6, 255), (19, 65535)]
    CanIssue (one 0 w 0 0) 0 0 w ∧ WordB 0x1E w ∧
      Tab.get 0 ((one 0 w 0 0).core 0).credits (fld w 13 6) < (sword ((one 0 w 0 0).core 0) (fld w 18 14) +
        BitVec.ofNat 64 (fld w 34 19)).toNat ∧
      (sword ((one 0 0x1E 0 0).core 0) 0 + BitVec.ofNat 64 (fld 0x1E 34 19)).toNat ≤
        Tab.get 0 ((one 0 0x1E 0 0).core 0).credits (fld 0x1E 13 6) :=
  ⟨canIssue_of _ _ _ _ (by decide), ⟨by decide, by decide⟩, by decide, by decide⟩
/-- A core whose channel 15 is performing a descriptor. -/
def busyChannel (wb : Nat) (held : Nat) : State :=
  let s := one 0 wb 0 0
  s.setCore 0 ((s.core 0).setChan 15 { state := .active, active := some {}, queue := List.replicate held (.desc 0) })
theorem witness_waitq : let w := word 0x1F [(6, 15)]
    CanIssue (one 0 w 0 0) 0 0 w ∧ WordB 0x1F w ∧ (((one 0 w 0 0).core 0).chan (fld w 9 6)).free = true ∧
      CanIssue (busyChannel w 3) 0 0 w ∧ (((busyChannel w 3).core 0).chan (fld w 9 6)).free = false :=
  ⟨canIssue_of _ _ _ _ (by decide), ⟨by decide, by decide⟩, by decide, canIssue_of _ _ _ _ (by decide), by decide⟩
/-- A core that waits on a condition at the bundle of the word. -/
def waiting (wb : Nat) (w : WaitCond) : State :=
  let s := one 0 wb 0 0
  s.setCore 0 { s.core 0 with st := .wait, wait := some w }
theorem witness_waitEnd : let w := word 0x1F [(6, 15)]
    WordB 0x1F w ∧ fld w 9 6 = 15 ∧ CanResume (waiting w (.queue 15)) 0 0 w (.queue 15) ∧
      (((waiting w (.queue 15)).core 0).chan 15).free = true :=
  ⟨⟨by decide, by decide⟩, by decide, ⟨by decide, by decide, canIssue_of _ _ _ _ (by decide)⟩, by decide⟩
theorem witness_shuttleQueueFree : let w := word 0x01 [(6, 15)]
    let s := waiting w (.shutFull 15 0)
    WordB 0x01 w ∧ fld w 9 6 = 15 ∧ CanResume s 0 0 w (.shutFull 15 0) ∧
      accessOk [1] 1 (baseOff (s.core 0) (fld w 15 11) (fld w 34 16)) 64 64 = true ∧ ((s.core 0).chan 15).state ≠ .error ∧
      ((s.core 0).chan 15).held < 4 :=
  ⟨⟨by decide, by decide⟩, by decide, ⟨by decide, by decide, canIssue_of _ _ _ _ (by decide)⟩, by decide, by decide, by decide⟩

/-- QueueMarkerTreeEffects. -/
theorem witness_shut : let w := word 0x01 [(6, 15)]
    CanIssue (busyChannel w 2) 0 0 w ∧ WordB 0x01 w ∧
      accessOk [1] 1 (baseOff ((busyChannel w 2).core 0) (fld w 15 11) (fld w 34 16)) 64 64 = true ∧
      (((busyChannel w 2).core 0).chan 15).held < 4 :=
  ⟨canIssue_of _ _ _ _ (by decide), ⟨by decide, by decide⟩, by decide, by decide⟩
theorem witness_markers : ∀ op ∈ [0x00, 0x20, 0x23], CanIssue (one 0 op 0 0) 0 0 op ∧ WordB op op := by
  intro op h
  have : op ∈ [0x00, 0x08, 0x09, 0x0A, 0x0B, 0x0C, 0x0D, 0x0E, 0x0F, 0x10, 0x11, 0x12, 0x13, 0x14, 0x15,
    0x16, 0x17, 0x18, 0x19, 0x1A, 0x1B, 0x1E, 0x1F, 0x20, 0x23] := by revert op; decide
  exact ⟨canIssue_of _ _ _ _ (witness_slotB op this).1, (witness_slotB op this).2⟩
theorem witness_tdecl : let w := word 0x21 [(6, 7)]
    CanIssue (one 0 w 0 0) 0 0 w ∧ WordB 0x21 w ∧ accessOk [1] 1 (memOff ((one 0 w 0 0).core 0) w) 64 64 = true :=
  ⟨canIssue_of _ _ _ _ (by decide), ⟨by decide, by decide⟩, by decide⟩
/-- Tree record 7 has its flag in word 0 of the activation store and waits for no bit. -/
def withTree (wb : Nat) : State :=
  let s := one 0 wb 0 0
  s.setCore 0 { s.core 0 with dp := { (s.core 0).dp with tree := [(7, 1 <<< 339)] } }
theorem witness_rstep : let w := word 0x22 [(6, 7), (9, 15)]
    let q := (Tab.get 0 ((withTree w).core 0).dp.tree 7).toNat
    CanIssue (withTree w) 0 0 w ∧ WordB 0x22 w ∧ bits q 339 3 = 1 ∧ accessOk [1] 1 (bits q 320 19) 8 8 = true ∧
      flagHolds (((withTree w).core 0).stores.read 1 (bits q 320 19) 8) (bits q 384 64) false = true ∧
      (((withTree w).core 0).chan 15).state ≠ .error ∧ (((withTree w).core 0).chan 15).held < 4 :=
  ⟨canIssue_of _ _ _ _ (by decide), ⟨by decide, by decide⟩, by decide +kernel, by decide +kernel, by decide +kernel, by decide, by decide⟩

/-- TensorResults: a skein with an allowance, and an operand entry of the pair's tag. -/
def paidCore (wa : Nat) : State :=
  let s := one wa 0 0 0
  ({ s with skeins := [(0, { allowance := 64, allowanceInv := ~~~64, burst := 64, burstInv := ~~~64 })] } : State).setCore 0
    { s.core 0 with dp := { (s.core 0).dp with op := [(0, { tag := 1 })] } }
theorem witness_paid : Paid (paidCore 0x01) 0 ∧ Paid (paidCore 0x04) 0 := ⟨by unfold Paid; decide, by unfold Paid; decide⟩
theorem witness_tmac : let w := 0x01
    let s := paidCore w
    let f := tmacF (s.core 0) w
    CanIssue s 0 w 0 ∧ WordA 0x01 w ∧ f.pair ≤ 0x10 ∧ (pairing f.pair).w ≠ 3 ∧ f.lsel < lselLegal f.pair ∧ f.k = 0 ∧
      flag w 11 = false ∧ f.imode = false ∧ ((s.core 0).accOf f.g).imode = f.imode ∧
      (Tab.get {} (s.core 0).dp.op (fld w 16 14)).tag.toNat = (pairing f.pair).a ∧
      baseOff (s.core 0) (fld w 31 27) (fld w 42 32) ≤ 1535 :=
  ⟨canIssue_of _ _ _ _ (by decide), ⟨by decide, by decide⟩, by decide, by decide, by decide, by decide, by decide, by decide,
    by decide, by decide, by decide⟩
theorem witness_tensor : ∀ op ∈ [0x02, 0x03, 0x04], canIssueB (paidCore op) 0 op 0 = true ∧ opOf op = op ∧
    op &&& reservedA op = 0 ∧ ((paidCore op).core 0).dp.lastRot = none := by decide
theorem witness_tdrn_store : let w := word 0x03 [(10, 1)]
    CanIssue (one w 0 0 0) 0 w 0 ∧ WordA 0x03 w ∧ flag w 10 = true ∧
      accessOk [2] 2 (baseOff ((one w 0 0 0).core 0) (fld w 21 17) (fld w 40 22)) 64 64 = true :=
  ⟨canIssue_of _ _ _ _ (by decide), ⟨by decide, by decide⟩, by decide, by decide⟩
theorem witness_qnt : let w := word 0x05 [(14, 1)]
    CanIssue (one w 0 0 0) 0 w 0 ∧ WordA 0x05 w ∧ qntFmtOk (fld w 17 14) = true ∧ fld w 29 25 % 2 = 0 ∧ flag w 30 = false :=
  ⟨canIssue_of _ _ _ _ (by decide), ⟨by decide, by decide⟩, by decide, by decide, by decide⟩

/-- DueResultsLand: a result for s31 is due. -/
def dueCore : State :=
  let s := one 0 0 0 0
  s.setCore 0 { s.core 0 with dp := { (s.core 0).dp with pend := [⟨0, .sreg 31 5⟩] } }
theorem witness_due : CanIssue (dueCore.setCore 0 { dueCore.core 0 with dp := { (dueCore.core 0).dp with pend := [] } }) 0 0 0 ∧
    (dueCore.core 0).dp.pend = [⟨(dueCore.core 0).dp.pt, .sreg 31 5⟩] :=
  ⟨canIssue_of _ _ _ _ (by decide), by decide⟩

/-- IllegalBundleFreezes: a reserved opcode in slot A, and one in slot B. -/
theorem witness_illegal : CanIssue (one 0x3F 0 0 0) 0 0x3F 0 ∧ validA (opOf 0x3F) = false ∧
    CanIssue (one 0 0x3F 0 0) 0 0 0x3F ∧ validB (opOf 0x3F) = false ∧
    leastCause (illegalCauses ((one 0x3F 0 0 0).core 0).dp 0x3F 0 {} {}) = some 1 :=
  ⟨canIssue_of _ _ _ _ (by decide), by decide, canIssue_of _ _ _ _ (by decide), by decide, by decide⟩

/-! ## Witnesses: core control and core events -/

/-- An engine with one core whose record is given. -/
def withCore (r : CoreRec) : State := ({} : State).setCore 0 r
/-- A skein whose governor words agree, so that it is clocked and budgeted. -/
def poweredSkein : SkeinRec := { allowance := 64, allowanceInv := ~~~64, burst := 64, burstInv := ~~~64, state := 4 }

/-- CoreControlEffects. -/
theorem witness_coreControl : ((withCore { st := .idle }).core 0).st = .idle ∧ ((withCore { st := .run }).core 0).dp.pend = [] ∧
    ((withCore { st := .run }).core 0).st = .run ∧ ((withCore { st := .frozen }).core 0).st = .frozen ∧
    ((withCore { st := .scrubbing }).core 0).st = .scrubbing := by decide
theorem witness_noBoltWaits : NoBoltWaits (withCore { st := .scrubbing }) := fun _ _ => rfl
theorem witness_coreCommit : coreCommitBad ((withCore {}).core 0).frameMapSh.toNat ((withCore {}).core 0).frameGeomSh.toNat = false ∧
    coreCommitBad (2 ^ 64 - 1) (2 ^ 64 - 1) = true := by decide
/-- A core with a queued descriptor of zeros on channel 15. -/
def descCoreB : CoreRec := { chans := [(15, { queue := [.desc 0] })] }
/-- CoreEventEffects. -/
theorem witness_coreEvents : let r : CoreRec := { st := .run, chans := [(15, { state := .miss })], beatSeen := false, missed := 2 }
    let s := withCore r
    (((s.core 0).chan 15).state = .miss) ∧ beating (s.core 0).st = true ∧ s.clocked (skeinOf 0) = true ∧ (s.core 0).perf = [] ∧
      (s.core 0).beatSeen = false ∧ (s.core 0).missed < 3 ∧ ((withCore { r with beatSeen := true }).core 0).beatSeen = true ∧
      (s.core 0).stores.ecc = [] := by decide
theorem witness_yield : let s := withCore { descCoreB with st := .run, arb := 1 <<< 8, denied := [(1, 16)] }
    (s.core 0).yieldCycles ≠ 0 ∧ (s.core 0).wanting (s.shEnv 0) 1 = some 15 ∧ (s.core 0).yieldCycles ≤ Tab.get 0 (s.core 0).denied 1 := by decide
theorem witness_patrol : let s := withCore { st := .idle, stores := { ecc := [(16 * 1535 + 15, 1)], writeBack := [1535] } }
    (s.core 0).stores.ecc = [(16 * 1535 + 15, 1)] ∧ 1535 ∈ (s.core 0).stores.writeBack ∧ beating (s.core 0).st = true := by decide
theorem witness_clampAndWrap : let s := withCore { st := .run, stallRun := 4097, perf := [(3, { cfg := 1024, cnt := 2 ^ 48 - 1 })] }
    4096 < (s.core 0).stallRun ∧ (s.core 0).clampReported = false ∧ (perfCtr (s.core 0) 3).cnt = 2 ^ 48 - 1 ∧
      (perfCtr (s.core 0) 3).cfg.getLsbD 10 = true ∧ (perfCtr (s.core 0) 3).cfg.getLsbD 11 = false := by decide


/-! ## Witnesses: shuttle channels -/

/-- A core with a channel whose queue holds one descriptor, its words at offset 0 of the activation store. -/
def descCore (words : Nat) : CoreRec :=
  { st := .idle, stores := { act := writeLE [] 0 64 words }, chans := [(15, { queue := [.desc 0] })] }
/-- A descriptor: operation and flags, count, source, destination, strides of 32. -/
def descWords (op count src dst : Nat) : Nat :=
  op + (count <<< 16) + (src <<< 64) + (dst <<< 128) + (32 <<< 192) + (32 <<< 224)
def descAct (words : Nat) : Active := newActive (BitVec.ofNat 512 words) 0 false 0

/-- `CanStart`, as a condition that can be computed. -/
def canStartB (s : State) (c ch op : Nat) (a : Active) (rest : List QEntry) : Bool :=
  decide (c < Config.nCores) && decide (ch < 16) && shuttleOn (s.core c) && decide ((s.core c).stores.ecc = []) &&
  decide ((s.core c).perf = []) && decide (((s.core c).chan ch).state = .idle) && decide (((s.core c).chan ch).active = none) &&
  decide (((s.core c).chan ch).queue = .desc a.addr :: rest) && localOk (s.core c) false 1 a.addr 64 &&
  decide (a = newActive (BitVec.ofNat 512 ((s.core c).stores.read 1 a.addr 64)) a.addr false 0) && !a.malformed &&
  decide (a.op = op)
theorem canStart_of (s : State) (c ch op : Nat) (a : Active) (rest : List QEntry) (h : canStartB s c ch op a rest = true) :
    CanStart s c ch op a rest := by
  simp only [canStartB, Bool.and_eq_true, decide_eq_true_eq, Bool.not_eq_true'] at h
  obtain ⟨⟨⟨⟨⟨⟨⟨⟨⟨⟨⟨a, b⟩, c⟩, d⟩, e⟩, f⟩, g⟩, i⟩, j⟩, k⟩, l⟩, m⟩ := h
  exact ⟨⟨a, b, c, d, e⟩, f, g, i, j, k, l, m⟩

/-- LocalTransferEffects: a copy of one line from the activation store to the last line of the partial store, a fill, and a
list of one entry. -/
theorem witness_localTransfer : let w := fun op => descWords op 1 (1 <<< 19) ((2 <<< 19) + 0x7FE0)
    let s := fun op => withCore (descCore (w op))
    (∀ op ∈ [1, 2, 3, 5], canStartB (s op) 0 15 op (descAct (w op)) [] = true) ∧
    (∀ op ∈ [1, 2, 3, 5], (descAct (w op)).count = 1 ∧ (descAct (w op)).notify = false) ∧
    mineToRead (s 1) 0 (srcOf (descAct (w 1)) 0) ∧ mineToWrite (s 1) 0 (dstOf (descAct (w 1)) 0) := by
  refine ⟨by decide +kernel, by decide +kernel, ⟨by decide +kernel, by decide +kernel⟩, by decide +kernel, by decide +kernel, by decide +kernel, by decide +kernel⟩
/-- A list of one entry at offset 64 of the activation store: the line at its offset 128. -/
def listCore (op src dst : Nat) : CoreRec :=
  { descCore (descWords op 1 src dst) with
    stores := { act := writeLE (writeLE [] 0 64 (descWords op 1 src dst)) 64 8 ((1 <<< 19) + 128) } }
theorem witness_lists : canStartB (withCore (listCore 2 ((1 <<< 19) + 64) (1 <<< 20))) 0 15 2
      (descAct (descWords 2 1 ((1 <<< 19) + 64) (1 <<< 20))) [] = true ∧
    entryAt (listCore 2 ((1 <<< 19) + 64) (1 <<< 20)).stores ((1 <<< 19) + 64) 0 8 = (1 <<< 19) + 128 ∧
    localOk (listCore 2 ((1 <<< 19) + 64) (1 <<< 20)) false 1 128 32 = true ∧
    canStartB (withCore (listCore 3 (1 <<< 20) ((1 <<< 19) + 64))) 0 15 3
      (descAct (descWords 3 1 (1 <<< 20) ((1 <<< 19) + 64))) [] = true ∧
    entryAt (listCore 3 (1 <<< 20) ((1 <<< 19) + 64)).stores ((1 <<< 19) + 64) 0 8 = (1 <<< 19) + 128 := by decide +kernel

/-- PageWalkEffects: one page of one line, entry 0 of a map of one frame. -/
def pageCore (st : ChanSt) : CoreRec :=
  let w := descWords 4 1 ((1 <<< 19) + 64) (1 <<< 20) + (1 <<< 384)
  { st := .idle, frameMap := BitVec.ofNat 64 ((1 <<< 19) + 72 + (1 <<< 22)), frameGeom := BitVec.ofNat 64 ((32 <<< 19) + (1 <<< 38))
    stores := { act := writeLE (writeLE [] 0 64 w) 72 8 (0xFFFFFFFF <<< 32) }
    chans := [(15, if st = .miss then { state := .miss, active := some (descAct w) } else { queue := [.desc 0] })] }
theorem witness_pagewalk : let a := descAct (descWords 4 1 ((1 <<< 19) + 64) (1 <<< 20) + (1 <<< 384))
    let s := withCore (pageCore .idle)
    canStartB s 0 15 4 a [] = true ∧ a.total = 1 ∧ a.sub = 1 ∧ isMine (s.shEnv 0) (dstOf a 0) = true ∧
      localOk (s.core 0) true 2 0 32 = true ∧ (bits a.src 0 19 + 4 * 0) % 4 = 0 ∧
      entryAt (s.core 0).stores (bits a.src 0 22) 0 4 = 0 ∧ bits (s.core 0).frameMap.toNat 22 24 = 1 ∧
      frameWord (s.core 0) a (s.core 0).stores 0 = 0xFFFFFFFF <<< 32 ∧ bits (s.core 0).frameGeom.toNat 38 20 = 1 := by
  decide +kernel
theorem witness_resume : let a := descAct (descWords 4 1 ((1 <<< 19) + 64) (1 <<< 20) + (1 <<< 384))
    let s := withCore (pageCore .miss)
    ((s.core 0).chan 15).state = .miss ∧ ((s.core 0).chan 15).active = some a ∧ a.op = 4 ∧ a.notifying = false ∧ a.page = none ∧
      a.next < a.total := by decide +kernel

/-- ReductionStepEffects: one line, no child, the flag in word 0. -/
theorem witness_rstepLine : let w : BitVec 512 := BitVec.ofNat 512 ((1 <<< 5) + (((1 <<< 19) + 256) <<< 64) + ((1 <<< 20) <<< 128) +
      ((5 <<< 19) <<< 192) + ((1 <<< 19) <<< 320))
    let a := newActive w 0 true 7
    let s := withCore { st := .idle, chans := [(15, { queue := [.rstep 7 w] })] }
    a.badTree = false ∧ a.lines = 1 ∧ a.nchild = 0 ∧ a.notify = true ∧ isMine (s.shEnv 0) a.notifyAddr = true ∧
      aliasAddr a.notifyAddr = true ∧ gaOff a.notifyAddr % 8 = 0 ∧ isMine (s.shEnv 0) a.dstA = true ∧
      localOk (s.core 0) true (gaSs a.dstA) (gaOff a.dstA) 32 = true ∧
      localOk (s.core 0) false (bits (bits (a.w 1) 0 22) 19 3) (bits (bits (a.w 1) 0 22) 0 19) 32 = true := by decide +kernel

/-- RemoteTransferEffects: a copy to core 1, a credited line of it, a grant to core 1, and one that waited. -/
theorem witness_remote : let w := descWords 1 1 (1 <<< 19) (1 <<< 22)
    canStartB (withCore (descCore w)) 0 15 1 (descAct w) [] = true ∧ (descAct w).credited = false ∧
      isMine ((withCore (descCore w)).shEnv 0) (dstOf (descAct w) 0) = false ∧
      isMine ((withCore (descCore w)).shEnv 0) (srcOf (descAct w) 0) = true := by decide +kernel
theorem witness_credited : let a := descAct (descWords (1 + 64) 1 (1 <<< 19) (1 <<< 22))
    let s := withCore { st := .idle, credits := [(0, 1)], chans := [(15, { state := .active, active := some a })] }
    a.credited = true ∧ a.op = 1 ∧ a.next < a.total ∧ a.acked ≤ a.sent ∧ 0 < Tab.get 0 (s.core 0).credits a.creditId ∧
      shuttleOn (s.core 0) = true := by decide +kernel
theorem witness_grant : let w := descWords 6 1536 (1 <<< 20) (1 <<< 22)
    let s := withCore { descCore (descWords 6 1024 (1 <<< 20) (1 <<< 22)) with
      chans := [(15, { queue := [.desc 0] }), (16, {})] }
    (descAct w).count = 1536 ∧ canStartB s 0 15 6 (descAct (descWords 6 1024 (1 <<< 20) (1 <<< 22))) [] = true ∧
      localOk (s.core 0) false 2 0 (32 * 1024) = true ∧ (s.core 0).grants.length < 64 := by decide +kernel
theorem witness_grantRecordFree :
    let a := { descAct (descWords 6 1024 (1 <<< 20) (1 <<< 22)) with waitsRecord := true }
    let s := withCore { st := .idle, chans := [(15, { state := .active, active := some a })] }
    ((s.core 0).chan 15).active = some a ∧ a.waitsRecord = true ∧ (s.core 0).grants.any (sameGrant a) = false := by
  decide +kernel

/-! ## Witnesses: the machine -/

/-- StepRunsFrontCommand, CommandsKeepQueue. -/
theorem witness_step : ({ pending := [.sysclkLoss, .bypass] } : State).pending = .sysclkLoss :: [.bypass] ∧
    (∃ t, step { pending := [.bypass] } = .next t ∧ t.pending = []) ∧ ({} : State).pending = [] := ⟨rfl, ⟨_, rfl, rfl⟩, rfl⟩
/-- KnownUnitsRun. -/
theorem witness_known : (Instr.telemStale 47 127).wellFormed = true ∧ (Instr.ctCoreSel 31 524287).wellFormed = true ∧
    (Instr.scrubDone 294911).wellFormed = true ∧ Config.nCores ≤ 294912 := by decide
/-- AnchorsStayLocked: a locked set with one anchor, and a command at the front. -/
theorem witness_locked : let s : State := { pending := [.sysclkLoss], security := { lock := true } }
    AnchorsLocked s ∧ s.pending.head? ≠ some .reset ∧ ∃ t, step s = .next t := ⟨⟨rfl, rfl⟩, by decide, ⟨_, rfl⟩⟩
/-- AnchorLockLocks: an unlocked set whose shadows agree with their complements. -/
theorem witness_commit : ({} : State).security.lock = false ∧ (∀ e ∈ ({} : State).security.anchorSh, anchorBad e.2 = false) ∧
    anchorBad (0, ~~~0, true) = false ∧ ({} : State).security.anchor = ({} : State).ledger.anchors := by decide +kernel
/-- MemoryReadAfterWrite: the largest value of two bytes, and a range that ends where the write begins. -/
theorem witness_memory : 65535 < 256 ^ 2 ∧ 6 + 2 ≤ 8 ∧ Memory.wf [(3, 1)] = true := by decide

/-! ## Witnesses: the fabric -/

/-- A flit of a type from the core at (1, 0) to an address, and one from harness core 0 of the north side. -/
def flitTo (ty : FlitType) (vc dst : Nat) : Flit := { blankFlit ty vc dst with srcX := 1, last := true }
def harnessTo (ty : FlitType) (vc dst : Nat) : Flit := { blankFlit ty vc dst with srcY := 960, last := true }
/-- The flit stands at the core that it is addressed to. -/
def atDoor (f : Flit) (r : CoreRec) : State :=
  { ({} : State).setCore (coreAt f) r with net := [⟨f, .core (gaX f.dst) (gaY f.dst)⟩] }
def atCoreB (s : State) (f : Flit) (rest : List NetFlit) : Bool :=
  decide (gaEngine f.dst = s.engineNo) && decide (s.net = ⟨f, .core (gaX f.dst) (gaY f.dst)⟩ :: rest) &&
  decide (gaY f.dst < 576) && decide ((s.core (coreAt f)).st ≠ .dead) && decide ((s.core (coreAt f)).st ≠ .off) &&
  decide ((s.core (coreAt f)).perf = []) && decide ((s.core (coreAt f)).stores.ecc = [])
theorem atCore_of (s : State) (f : Flit) (rest : List NetFlit) (h : atCoreB s f rest = true) : AtCore s f rest := by
  simp only [atCoreB, Bool.and_eq_true, decide_eq_true_eq] at h
  obtain ⟨⟨⟨⟨⟨⟨a, b⟩, c⟩, d⟩, e⟩, f⟩, g⟩ := h
  exact ⟨⟨a, _, b, by simp [arrivedAt]⟩, c, ⟨d, e⟩, f, g⟩

/-- RoutingEffects: at the corner, from outside, from the core with a bolt, and from one without. -/
theorem witness_alone : let s (p v : Nat) (f : Flit) : State :=
      { net := [⟨f, .router 8 16 p⟩], routers := [(coreNum 8 16, { reg := [(0, withInv v)] })],
        skeins := [(skeinOf (coreNum 8 16), { state := 4 })] }
    (s 1 0 (flitTo .write 1 0)).net = [⟨flitTo .write 1 0, .router 8 16 1⟩] ∧
      (∀ v ∈ [8, 15], ((s 0 v (flitTo .write 1 0)).router (coreNum 8 16)).val 0 = v ∧
        ((s 0 v (flitTo .write 1 0)).router (coreNum 8 16)).val 0 % 16 = v) ∧ bitAt 8 3 = true ∧ bitAt 0 3 = false := by decide
theorem witness_aloneAll : Alone
    { net := [⟨flitTo .write 1 0, .router 8 16 1⟩], skeins := [(skeinOf (coreNum 8 16), { state := 4 })] }
    (flitTo .write 1 0) 8 16 1 :=
  ⟨⟨by decide, by decide, fun i => by
    by_cases h : i = 0
    · subst h; decide
    · rw [if_neg h]; rfl, rfl, by decide, by decide⟩, by decide, rfl, by decide, by decide, rfl⟩
theorem witness_faultFlit : let s : State := { skeins := [(0, { state := 1 })], faults := { inFlight := [⟨0x48000, 0x05, 2, 7, false⟩] } }
    OpenRouter s 0 0 ∧ s.engineNo < 64 ∧ faultRouter 0x48000 = some 0 ∧ s.net = [] :=
  ⟨⟨by decide, by decide, fun i => by
    by_cases h : i = 0
    · subst h; decide
    · rw [if_neg h]; rfl, rfl, by decide, by decide⟩, by decide, by decide, rfl⟩
/-- StoreRequestEffects: the last line of the beam rows, a granted line at the end of its window, a flag word, and a read. -/
theorem witness_requests :
    atCoreB (atDoor (flitTo .write 1 0x5FFE0) {}) (flitTo .write 1 0x5FFE0) [] = true ∧ localOk {} true 0 0x5FFE0 32 = true ∧
    (let g : GrantRec := { x := 1, creditId := 7, store := 1, base := 0xBFC0, limit := 2, used := 1 }
     let f : Flit := { flitTo .write 1 ((1 <<< 19) + 0xBFE0) with credited := true, creditId := 7 }
     atCoreB (atDoor f { grants := [g] }) f [] = true ∧ grantKey f g = true ∧ g.base ≤ gaOff f.dst ∧
       gaOff f.dst + 32 ≤ g.base + 32 * g.limit ∧ localOk {} true 1 0xBFE0 32 = true ∧ g.used < g.limit) ∧
    atCoreB (atDoor (flitTo .write 1 (1 <<< 19)) {}) (flitTo .write 1 (1 <<< 19)) [] = true ∧
    (flitTo .write 1 (1 <<< 19)).fromHarness = false ∧ (flitTo .write 1 (1 <<< 19)).fromToken = false ∧
    (harnessTo .write 1 (1 <<< 19)).fromHarness = true ∧
    atCoreB (atDoor (flitTo .writeWord 1 ((5 <<< 19) + 0xBFF8)) {}) (flitTo .writeWord 1 ((5 <<< 19) + 0xBFF8)) [] = true ∧
    atCoreB (atDoor (flitTo .read 1 ((2 <<< 19) + 0x7FE0)) {}) (flitTo .read 1 ((2 <<< 19) + 0x7FE0)) [] = true ∧
    localOk {} false 2 0x7FE0 32 = true ∧
    atCoreB (atDoor (harnessTo .write 1 ((4 <<< 19) + 0x018)) {}) (harnessTo .write 1 ((4 <<< 19) + 0x018)) [] = true ∧
    atCoreB (atDoor (harnessTo .read 1 ((4 <<< 19) + 0x008)) {}) (harnessTo .read 1 ((4 <<< 19) + 0x008)) [] = true ∧
    gaSs (harnessTo .read 1 ((4 <<< 19) + 0x008)).dst = 4 ∧ gaOff (harnessTo .read 1 ((4 <<< 19) + 0x008)).dst = 8 := by decide
/-- ResponseEffects: one channel for each response. -/
def copyAct : Active := { descAct (descWords 1 2 (1 <<< 22) (1 <<< 20)) with next := 1 }
theorem witness_responses : let f ty := flitTo ty 2 0
    let s (ty : FlitType) (a : Active) : State := atDoor (f ty) { chans := [(0, { state := .active, active := some a })] }
    (∀ ty ∈ [FlitType.grant, .nack, .ack, .readData], atCoreB (s ty copyAct) (f ty) [] = true) ∧
      copyAct.next + 1 = copyAct.total ∧ copyAct.notify = false ∧ isMine ((s .ack copyAct).shEnv 0) (srcOf copyAct 1) = false ∧
      isMine ((s .ack copyAct).shEnv 0) (dstOf copyAct 1) = true ∧
      localOk ((s .ack copyAct).core 0) true (gaSs (dstOf copyAct 1)) (gaOff (dstOf copyAct 1)) 32 = true := by decide +kernel
/-- FabricControlEffects. -/
theorem witness_fabricControl : (harnessTo .ctrl 0 0x48).fromHarness = true ∧ gaOff (harnessTo .ctrl 0 0x48).dst / 8 = 9 ∧
    gaOff (harnessTo .ctrl 0 0x1000).dst = 0x1000 ∧ gaOff (harnessTo .ctrl 0 0xFFC).dst % 8 ≠ 0 ∧
    (flitTo .ctrl 0 0).fromHarness = false ∧ gaY (flitTo .ctrlResp 0 (960 <<< 31)).dst = 960 ∧
    (flitTo .beat 0 0).dst = ({} : State).monitorAddr (skeinOf (coreNum 1 0)) ∧
    ({} : RouterRec).commitBad 0 0 = false ∧ ({ sh := [(9, 0)] } : RouterRec).commitBad 0 0 = true ∧
    ({ reg := [(9, 0)] } : RouterRec).bad 9 = true ∧ budgetBad { burst := 1 } = true ∧
    wordBad 0 = true ∧ (⟨0, 575, 511, 15, 3, 0⟩ : RxCount).since + 64 ≤ 64 := by decide

/-! ## Witnesses: the host interface -/

/-- Function 9 with an enabled queue pair 5 of 64 entries that has one entry to accept. -/
def pair5 : QpRec := { cfg := BitVec.ofNat 64 (9 + (1 <<< 36)), sqTail := 1, unread := 3 }
def hostState (r : QpRec) : State := ({ funcs := [(9, { enabled := true, writable := true })] } : State).setQp 5 r
def readyB (s : State) (q : Nat) (d : BitVec 1024) : Bool :=
  decide (q < Config.nQueuePairs) && s.canFetch q && decide ((s.qp q).openDescs = []) && decide ((s.qp q).held = []) &&
  decide ((s.qp q).unread < (s.qp q).cqSize) && (s.func (s.qp q).func).writable && !cfgIrqEn (s.qp q).cfg && headerOk q d
theorem ready_of (s : State) (q : Nat) (d : BitVec 1024) (h : readyB s q d = true) : Ready s q d := by
  simp only [readyB, Bool.and_eq_true, decide_eq_true_eq, Bool.not_eq_true'] at h
  obtain ⟨⟨⟨⟨⟨⟨⟨a, b⟩, c⟩, d⟩, e⟩, f⟩, g⟩, i⟩ := h
  exact ⟨a, b, c, d, e, f, g, i⟩

/-- DoorbellEffects: the last index and the first beyond it, the last entry written and one more. -/
theorem witness_doorbell : let r := (hostState pair5).qp 5
    r.enabled = true ∧ r.func = 9 ∧ 63 < r.sqSize ∧ r.sqSize ≤ 64 ∧ (3 + r.cqSize - r.cqHead) % r.cqSize ≤ r.unread ∧
      r.unread < (4 + r.cqSize - r.cqHead) % r.cqSize ∧ r.held = [] ∧ ((hostState pair5).func 9).masked.getLsbD 0 = false ∧
      ((hostState pair5).func 9).writable = true ∧ ((hostState {}).qp 5).enabled = false := by decide
/-- QueuePairEffects. -/
theorem witness_queuePair : let on : Word := BitVec.ofNat 64 (9 + (1 <<< 36))
    (hostState { cfgSh := on }).qpBad 5 = false ∧ ((hostState { cfgSh := on }).qp 5).enabled = false ∧
      (hostState { cfgSh := BitVec.ofNat 64 (1 <<< 11) }).qpBad 5 = true ∧
      (hostState { cfg := on }).qpBad 5 = false ∧ cfgEnable ((hostState { cfg := on }).qp 5).cfgSh = false ∧
      NothingOwed (hostState { cfg := on }) :=
  ⟨by decide, by decide, by decide, by decide, by decide, rfl, rfl, fun _ _ => rfl⟩
theorem witness_moderation : let r : QpRec := { cfg := BitVec.ofNat 64 (9 + (63 <<< 5) + (1 <<< 11) + (1 <<< 20) + (1 <<< 36)), pend := 1 }
    (hostState r).qps = [(5, r)] ∧ cfgIrqEn r.cfg = true ∧ 0 < cfgAggTime r.cfg ∧ r.t0 + 1000 * cfgAggTime r.cfg ≤ 1000 ∧
      ((hostState r).func r.func).masked.getLsbD (cfgVector r.cfg) = false ∧ ((hostState r).func r.func).writable = true := by
  decide
/-- PcieEffects. -/
theorem witness_pcie : (hostState pair5).qps = [(5, pair5)] ∧ pair5.func = 9 ∧ pair5.enabled = true ∧ pair5.held = [] ∧
    NothingOwed (hostState pair5) ∧ (hostState pair5).canFetch 5 = true ∧
    (({ boot := { booted := true } } : State).boot.booted = true ∧ ∀ f, (({ boot := { booted := true } } : State).func f).pendingMsix = 0) :=
  ⟨by decide, by decide, by decide, rfl, ⟨rfl, rfl, fun _ _ => rfl⟩, by decide, rfl, fun _ => rfl⟩
theorem witness_resumeWrites : let s : State := { funcs := [(31, { writable := false, pendingMsix := 5, masked := 1 })] }
    s.qps = [] ∧ s.reqs = [] ∧ (s.func 31).writable = false ∧ (s.func 31).pendingMsix.getLsbD 2 = true := by decide
/-- DescriptorEffects: a NOP, and opcode 0. -/
theorem witness_nop : Ready (hostState pair5) 5 0x3F ∧ dOpcode 0x3F = 0x3F ∧ dZeroBut 0x3F [(0, 16)] = true ∧ dHandle 0x3F = 0 ∧
    Ready (hostState pair5) 5 0 ∧ dOpcode 0 = 0 ∧ Ready (hostState pair5) 5 0x30 ∧ dOpcode 0x30 = 0x30 := by
  refine ⟨ready_of _ _ _ (by decide +kernel), by decide +kernel, by decide +kernel, by decide +kernel,
    ready_of _ _ _ (by decide +kernel), by decide +kernel, ready_of _ _ _ (by decide +kernel), by decide +kernel⟩

/-! ## Witnesses: faults, the log, the beacon, counters and the ledger -/

/-- A message of core 0 on its way, and one that waits in its field's queue. -/
def msgOf (sev : Nat) : FaultMsg := ⟨0, 0x05, sev, 7, false⟩
def waitingEntry : QueueEntry := ⟨false, msgOf 2, 5, 5, 65534⟩
def faultState (sev : Nat) (q : List QueueEntry) : State :=
  { time := 9, faults := { inFlight := [msgOf sev], collectors := if q = [] then [] else [(0, { queue := q })] } }
/-- Its FAULT flit stands at its collector's core. -/
def arrivedFault (sev : Nat) (q : List QueueEntry) : State :=
  { faultState sev q with
    net := [⟨{ blankFlit .fault 0 0 with line := faultLine (msgOf sev) }, collectorLoc 0⟩], faults := { (faultState sev q).faults with inFlight := [] } }
theorem witness_faultHere : FaultHere (arrivedFault 2 []) (msgOf 2) { arrivedFault 2 [] with net := [] } ∧
    FaultHere { faults := { inFlight := [⟨0x80300, 0x05, 2, 7, false⟩] } } ⟨0x80300, 0x05, 2, 7, false⟩ {} ∧
    faultRouter (msgOf 2).source = some 0 ∧ msgOf 2 ∈ (faultState 2 []).faults.inFlight ∧ (faultState 2 []).net = [] :=
  ⟨.inr ⟨0, _, rfl, rfl, rfl, rfl, rfl⟩, .inl ⟨rfl, rfl, rfl⟩, rfl, by decide, rfl⟩
/-- FaultArrivalEffects. -/
theorem witness_faultArrival : collectorOf (msgOf 2).source = some 0 ∧ (faultState 2 []).faults.inFlight = [msgOf 2] ∧
    ((faultState 3 []).collector 0).heldFatal = [] ∧ ((faultState 3 []).collector 0).queue.find? (sameKey (msgOf 3)) = none ∧
    reservedUsed ((faultState 3 []).collector 0).queue < 16 ∧ generalUsed ((faultState 2 []).collector 0).queue < 240 ∧
    ((faultState 2 [waitingEntry]).collector 0).queue = [waitingEntry] ∧ sameKey (msgOf 2) waitingEntry = true ∧
    waitingEntry.count < 65535 := by decide
theorem witness_fullQueue : let q : List QueueEntry := (List.range 240).map fun i => ⟨false, ⟨i + 1, 0x05, 2, 7, false⟩, 5, 5, 1⟩
    generalUsed ((faultState 2 q).collector 0).queue = 240 ∧ ((faultState 2 q).collector 0).queue.find? (sameKey (msgOf 2)) = none ∧
    ((faultState 2 q).collector 0).overflow = false ∧ ((faultState 2 q).collector 0).latch = none := by decide +kernel
/-- LogAndBeaconEffects. -/
theorem witness_log : (faultState 2 [waitingEntry]).faults.collectors = [(0, { queue := [waitingEntry] })] ∧
    (faultState 2 [waitingEntry]).faults.irqSev = 4 ∧ (faultState 2 [waitingEntry]).faults.log.length < 65536 := by decide
theorem witness_force : let w : Word := BitVec.ofNat 64 ((0x20 <<< 38) + (294911 <<< 44))
    (forceMsgOf w.toNat).kind = 0x20 ∧ (forceMsgOf w.toNat).source = 294911 ∧
      ((withCore { forceGo := true }).core 0).forceGo = true := by decide
theorem witness_alive : ({ boot := { stage := 6, aliveOn := true }, time := 3000000 } : State).ready = true ∧ 0 + 3000000 ≤ 3000000 ∧
    3000000 % 500000 = 0 := by decide
/-- CounterAndLedgerEffects: a window of 2^30 ns that closes, a page that fits, both slots, and both directions of a swing. -/
theorem witness_counters : let g := (1 <<< 19) + (30 <<< 14)
    bitAt g 19 = true ∧ bits g 14 5 = 30 ∧ 2 ^ 30 % 2 ^ 30 = 0 ∧ (({} : State).ctPage 7).snapMode = 0 ∧
      32 * (({} : State).boltCores 7).length ≤ (({} : State).ctPage 7).snapLen ∧
      slotSeq ({} : State).ledger.slotA ≤ slotSeq ({} : State).ledger.slotB ∧
      slotSeq ⟨none⟩ < slotSeq ⟨some ({}, false)⟩ ∧ ({} : State).ledger.pendingFatal = [] := by decide

/-! ## Witnesses: rules stated whole -/

/-- A core with a special function in slot A, the last one issued at cycle 5, at cycle `pt`. -/
def sfCore (op pt : Nat) : State :=
  { cores := [(0, { (one op 0 0 0).core 0 with dp := { ((one op 0 0 0).core 0).dp with pt := pt, lastSf := some 5 } })] }
/-- SpecialFunctionInterval: at the last cycle of the unit's use, and at the first after it. -/
theorem witness_sfInterval : ∀ op ∈ [0x18, 0x19, 0x1A, 0x1B], ∀ pt ∈ [8, 9], canIssueB (sfCore op pt) 0 op 0 = true ∧
    opOf op = op ∧ op &&& reservedA op = 0 ∧ ((sfCore op pt).core 0).dp.lastSf = some 5 ∧ ((sfCore op pt).core 0).dp.pt = pt := by
  decide
/-- OnlyHarnessControls: a control flit and the accesses to store select 100 of a core beside the addressed one. -/
theorem witness_onlyHarness : (∀ ty ∈ [FlitType.ctrl, .write, .writeWord, .read],
    atCoreB (atDoor (flitTo ty 1 ((4 <<< 19) + 0x18)) {}) (flitTo ty 1 ((4 <<< 19) + 0x18)) [] = true ∧
      (flitTo ty 1 ((4 <<< 19) + 0x18)).fromHarness = false ∧ gaSs (flitTo ty 1 ((4 <<< 19) + 0x18)).dst = 4) ∧
    (harnessTo .ctrl 0 0).fromHarness = true ∧ ({ harnessTo .ctrl 0 0 with srcY := 1008, srcX := 3 } : Flit).fromHarness = true ∧
    ({ harnessTo .ctrl 0 0 with srcX := 4 } : Flit).fromHarness = false := by decide

/-! ## Witnesses: power and cooling -/

/-- A frame whose CRC is right. -/
def frameOf (v : Nat) : BitVec 72 := BitVec.ofNat 72 (v + (crc8 (leBytes 8 v) <<< 64))
def upFrame (op domain current voltage status : Nat) : BitVec 72 :=
  frameOf (op + (domain <<< 8) + (current <<< 15) + (voltage <<< 30) + (status <<< 44))
/-- Lane `f` up, with a command outstanding or none. -/
def laneState (f : Nat) (c : Option (Word × Nat × Nat)) : State :=
  { time := 3000000, fields := [(f, { laneState := 1, cmd := c })] }
theorem laneUp_of (f : Nat) (c : Option (Word × Nat × Nat)) (h : f < 48) : LaneUp (laneState f c) f c := by
  have e : (laneState f c).field f = { laneState := 1, cmd := c } := by simp [laneState, State.field, Tab.get]
  exact ⟨h, by rw [e], by rw [e], by rw [e]⟩
/-- TreadleEffects: a bad frame, telemetry at both limits of the current, answers, a fault, and a lane that times out. -/
theorem witness_treadle : frameGood 0 = false ∧ LaneUp (laneState 47 none) 47 none ∧
    (∀ i ∈ [1099, 1100, 1200, 1201], frameGood (upFrame 1 95 i 720 1) = true ∧ upOp (upFrame 1 95 i 720 1) = 1 ∧
      upDomain (upFrame 1 95 i 720 1) = 95 ∧ upCurrent (upFrame 1 95 i 720 1) = i ∧
      bitAt (upStatus (upFrame 1 95 i 720 1)) 0 = true) ∧
    upVoltage (upFrame 1 96 10000 600 1) = 600 ∧ upDomain (upFrame 1 102 9 9 0) = 102 ∧ upOp (upFrame 4 102 0 0 0) = 4 ∧
    ({ laneState 1 none with skeins := [(7, { state := 4 })] } : State).skein 7 = { state := 4 } := by
  refine ⟨by decide +kernel, laneUp_of _ _ (by omega), ?_⟩
  decide +kernel
theorem witness_treadleAnswers : ∀ op ∈ [2, 8], trdOp (trdWord op 95 (5 <<< 4)) = op ∧
    trdDomain (trdWord op 95 (5 <<< 4)) = 95 ∧ bits (trdWord op 95 (5 <<< 4)).toNat 4 4 = 5 ∧
    (∀ a ∈ [2, 3, 5], upSeq (frameOf (a + (5 <<< 4) + (96 <<< 8))) = 5 ∧ upOp (frameOf (a + (5 <<< 4) + (96 <<< 8))) = a ∧
      upDomain (frameOf (a + (5 <<< 4) + (96 <<< 8))) = 96) ∧ 4 + 20000 ≤ (laneState 1 (some (0, 4, 4))).time ∧
    ((laneState 1 none).field 1).upAt + 1000000 ≤ (laneState 1 none).time := by decide +kernel
/-- SkeinSwitchEffects. -/
def switchState (x : SkeinRec) : State :=
  { time := 3000000, skeins := [(1000, x)], fields := [(fieldOfSkein 1000, { laneState := 1 })] }
theorem witness_switch :
    (switchState { state := 2, turnOnReq := some 5 }).turnOnReady 1000 = true ∧
    (∀ j ∈ neighbours 1000, ((switchState { state := 2 }).skein j).current ≤ 1020) ∧
    ({ switchState {} with skeins := [(1001, { current := 1021 })] } : State).hotNeighbours 1000 = [1001] ∧
    ((switchState { state := 4 }).field (fieldOfSkein 1000)).laneState ≠ 2 ∧
    (∀ c ∈ skeinCores 1000, ((switchState { state := 4 }).core c).st ∈ [CoreSt.idle, .fenced, .dead]) ∧
    (5 * pdCode (withInv 288) = 2 * (670 + 50) ∧ 2 * (669 + 50) < 5 * pdCode (withInv 288)) ∧ 529 < 530 ∧
    ((switchState { gate := some 2000000 }).skein 1000).gate = some 2000000 := by decide +kernel
/-- PowerEffects. -/
theorem witness_power : let busy (n : Nat) : State :=
      { skeins := [(7, { current := 4095000, voltage := 1000 })], power := { overSums := n } }
    100000 * Config.inputLimit (busy 9).configCode < ((busy 9).skeins.map fun e => e.2.current * e.2.voltage).sum ∧
    (busy 9).power.inputClamp = false ∧ wordBad 5 = true ∧ wordBad (withInv (352 + 512)) = false ∧
    pdEnable (withInv (352 + 512)) = true ∧ pdCode (withInv (352 + 512)) = 352 ∧ pdLogic (withInv (288 + 512 + 4096)) = true ∧
    pdLogic (withInv (288 + 512)) = false ∧ pdSlew (withInv (352 + 512)) = pdSlew (withInv (288 + 512)) ∧
    ({ boot := { stage := 6 } } : State).ready = true ∧ ({ boot := { stage := 6 } } : State).ledger.pendingFatal = [] := by decide +kernel
/-- CoolingEffects: samples at the limits of what is valid, a record whose CRC is right, and a clamp below 256. -/
theorem witness_cooling : 176 ≤ 176 ∧ 200 ≤ 176 + 24 ∧ max 635 635 < 636 ∧
    (let v := 3000 + (1000 <<< 32) + (7 <<< 112)
     let w : BitVec 128 := BitVec.ofNat 128 (v + (crc8 (leBytes 15 v) <<< 120))
     crc8 (leBytes 15 w.toNat) = bits w.toNat 120 8 ∧ bits w.toNat 112 8 = 7) ∧
    (256 * (66 * (500 : Int) * (5800 - 2000)) / ((10000 * 32000 : Nat) : Int)).toNat = 100 ∧
    ({} : ThermalRec).configInv = 3 - ({} : ThermalRec).config ∧ ({ configInv := 2 } : ThermalRec).configInv ≠ 3 ∧
    (∀ b, b < Config.nBolts → (({} : State).bolt b).share ≤ 102400) ∧
    ({ skeins := [(7, { state := 4 })] } : State).skeinLost 7 = false ∧ (0 : Nat) < ({} : ThermalRec).floorW := by decide +kernel

/-! ## Witnesses: boot, the ports, the mailbox and the registers -/

/-- BootEffects: a strap of each kind, a step of each number, and a held record. -/
theorem witness_boot : ({} : State).boot.booted = false ∧ ({} : State).boot.writing = none ∧ 3 % 4 ≠ 2 ∧ 6 % 4 = 2 ∧
    (∀ k ∈ [1, 2, 3, 4, 5], (withBoot {} { step := k } : State).boot.step = k) ∧ noFindings.badSites = [] ∧
    ({ noFindings with romOk := false } : BootFindings).romOk = false ∧ ({ boots := 2 ^ 32 - 2 } : LedgerRec).boots < 2 ^ 32 - 1 ∧
    ({} : State).skeins = [] ∧ ({} : State).skeinLost 4607 = false ∧ ({} : State).power.turnOns = 0 := by decide +kernel
theorem witness_step3 : ∀ k, k < Config.nSkeins → ({} : State).skeinLost k = false := by
  intro k _
  simp [State.skeinLost, State.skein, State.field, Tab.get]
/-- ManagementAndTestPortEffects: ready with and without flash, before boot, and one second after it. -/
theorem witness_ports : (withBoot {} { stage := 6 }).ready = true ∧ (withBoot {} { stage := 8 }).ready = true ∧
    (withBoot {} { stage := 3 }).ready = false ∧ (withBoot {} { stage := 6 }).bolts = [] ∧
    ({ boot := { booted := true, t1 := 4 }, time := 1000000004 } : State).boot.t1 + 1000000000 ≤ 1000000004 := by decide
/-- MailboxEffects: a new number and an old one, the ROM's wait, pieces and lengths at their limits, and a write that runs. -/
theorem witness_mailbox : readLE ({} : State).xram 0 8 ≠ mailSeq 7 ∧ readLE (asked [] 7 1 []) 0 8 = mailSeq 7 ∧
    (withBoot {} { bootSrc := true, step := 2, stage := 2 }).ready = false ∧ 16773056 % 64 = 0 ∧ 16773056 + 64 ≤ 16773120 ∧
    512 ≤ 16773120 ∧ (2046 = 0 ∨ 2045 < 2046) ∧ (withBoot {} { writing := some (1, []) }).boot.writing = some (1, []) := by
  decide
/-- RegisterEffects: sizes that are refused, and the register of an owner. -/
theorem witness_register : (4 % 8 ≠ 0 ∨ 4 = 0) ∧ 64 < 72 ∧ ¬(16 = 8 ∧ 0 % 8 = 0) ∧ (31 : Nat) ≠ 0 ∧
    ({} : State).boot.bootSrc = false ∧ ({ overcurrent := 65535 } : PowerRec).overcurrent < 65536 ∧
    (({} : State).func 31).busMaster = true ∧ (0 : BitVec 512).getLsbD 2 = false ∧ (0 : BitVec 512).toNat % 2 ^ 64 ≠ mailSeq 0 ∧
    readLE ({} : State).xram 0 8 ≠ mailSeq 9 ∧ bits (readLE ({} : State).xram 8 8) 0 8 = 0 ∧
    bits (readLE [(8, 1)] 8 8) 0 8 = 1 ∧ bits (readLE [(8, 1)] 8 8) 16 24 = 0 ∧ bits (readLE [(8, 1), (10, 1)] 8 8) 16 24 = 1 := by
  decide +kernel

/-! ## Witnesses: creel, lanes and links -/

/-- The CRC step over 27 zero bytes. -/
def crcZeros (c : Nat) : Nat := (List.replicate 27 (0 : Byte)).foldl (fun c b => crc32Byte c b.toNat) c
def crcStages : List (List Nat) := [
  [0x6081b3ff, 0xfd972a, 0xa079fa55, 0xc005de80],
  [0x9be1fdc9, 0xf24d441, 0x691aa898, 0xfddf8110],
  [0xc004f4, 0x7270dd38, 0xe5a1b76c, 0x97116ea0],
  [0x83da5150, 0xa9bc876a, 0xd717fd24, 0xfd712b1e],
  [0x9298fe00, 0xf9347d52, 0x45c1f8a4, 0x2e6d7bf6],
  [0xebb077d2, 0xf2465395, 0xd85c3f5c, 0xc1aa1b1b],
  [0xdcd4ad57, 0xb045ef51, 0x5f6295b, 0x69676b5d],
  [0x711a3659, 0x2f64672f, 0xcde694b5, 0x9398c5c3],
  [0x88be77a2, 0xd20f007f, 0x3ddc9818, 0x676defc5],
  [0x5b2ea94b, 0x7f071514, 0x137dd1f5, 0x37546daa]]
theorem crc_stages : ∀ k ∈ [0, 1, 2, 3], ∀ j ∈ List.range 9,
    crcZeros ((crcStages.getD j []).getD k 0) = (crcStages.getD (j + 1) []).getD k 0 := by decide +kernel


/-- Aumen flits of the four kinds: number 0, bundle number 5, acknowledging number 6, byte 8 the kind, the rest 0. -/
def auFlit (k : Nat) : BitVec 2048 :=
  BitVec.ofNat 2048 (k + (6 <<< 16) + (1 <<< 24) + (5 <<< 32) + (1 <<< 56) + (k <<< 64) +
    (((crcStages.getD 9 []).getD k 0 ^^^ 0xFFFFFFFF) <<< 2016))
theorem auFlit_bytes : ∀ k ∈ [0, 1, 2, 3], (auBytes (auFlit k)).take 252 = ([k, 0, 6, 1, 5, 0, 0, 1, k] : List Nat).map (BitVec.ofNat 8) ++
      ((List.range 9).flatMap fun _ => List.replicate 27 (0 : Byte)) ∧
    (([k, 0, 6, 1, 5, 0, 0, 1, k] : List Nat).map (BitVec.ofNat 8)).foldl (fun c b => crc32Byte c b.toNat) 0xFFFFFFFF =
      (crcStages.getD 0 []).getD k 0 ∧
    (crcStages.getD 9 []).getD k 0 ^^^ 0xFFFFFFFF = auField (auFlit k) 252 4 ∧ auKind (auFlit k) < 4 := by decide +kernel
theorem crc_foldl (n : Nat) (c : Nat) :
    ((List.range n).flatMap fun _ => List.replicate 27 (0 : Byte)).foldl (fun c b => crc32Byte c b.toNat) c = crcZeros^[n] c := by
  induction n generalizing c with
  | zero => rfl
  | succ n ih => rw [List.range_succ, List.flatMap_append, List.foldl_append, ih, Function.iterate_succ_apply']; rfl
theorem auFlit_good (k : Nat) (h : k ∈ [0, 1, 2, 3]) : auGood (auFlit k) = true := by
  obtain ⟨a, b, c, d⟩ := auFlit_bytes k h
  have s := crc_stages k h
  have e : crcZeros^[9] ((crcStages.getD 0 []).getD k 0) = (crcStages.getD 9 []).getD k 0 := by
    simp only [Function.iterate_succ_apply, Function.iterate_zero, id]
    rw [s 0 (by decide), s 1 (by decide), s 2 (by decide), s 3 (by decide), s 4 (by decide), s 5 (by decide), s 6 (by decide),
      s 7 (by decide), s 8 (by decide)]
  rw [auGood, a, crc32, List.foldl_append, b, crc_foldl, e, c]
  simp [d]
/-- Link 35 up toward engine 3, with lane 7 as given and the other lanes up. -/
def linkState (x : LinkRec) (r : LaneRec) : State :=
  { time := 20000000, links := [(35, { x with peerEngine := 3, lanes := [(7, r)] })] }
theorem laneHears_of (x : LinkRec) (r : LaneRec) (h : x.state ≠ 3) (d : x.disable = false) (m : x.mode4 = false) (u : r.state = 1) :
    LaneHears (linkState x r) 35 7 := by
  have e : (linkState x r).link 35 = { x with peerEngine := 3, lanes := [(7, r)] } := by
    simp [linkState, State.link, Tab.get]
  have f : (linkState x r).lane 35 7 = r := by simp [State.lane, e, Tab.get]
  refine ⟨by decide, by decide, by rw [f]; exact u, ?_, ⟨by rw [e]; exact h, by rw [e]; exact d⟩, rfl, ?_⟩
  · rw [e]; simp [LinkRec.inUse, m]
  · exact ⟨rfl, rfl⟩
theorem spanQuiet_empty : SpanQuiet {} := ⟨rfl, rfl, rfl, rfl, by decide, fun _ => by simp [State.link, Tab.get]⟩
/-- CreelEffects: the last bank, each code, a line of the last block in error, and a port with 65 errors. -/
theorem witness_creel : ({} : State).creelWaiting 31 3 15 = false ∧
    (let r : PortRec := { state := 1, owners := [(5542, .system)], ecc := [(65536 * 5542 + 9, 1)], rewrite := [7] }
     r.owner 5542 = .system ∧ (65536 * 5542 + 9) / 65536 = 5542 ∧ r.owner 0 = .dirty ∧ 7 ∈ r.rewrite) ∧
    64 < ((List.replicate 65 4).filter fun t => decide (9 ≤ t + 3600000000000)).length := by decide
/-- LaneFlitEffects: a lane that hears, and flits of each kind with a right CRC, next in order and ahead of it. -/
theorem witness_lane : LaneHears (linkState { state := 1 } { state := 1 }) 35 7 :=
  laneHears_of _ _ (by decide) rfl rfl rfl
theorem witness_flits : (∀ k ∈ [0, 1, 2, 3], auGood (auFlit k) = true ∧ auKind (auFlit k) = k ∧ auSeq (auFlit k) = 0 ∧
      auByte (auFlit k) 3 % 2 = 1 ∧ auBundle (auFlit k) = 5 ∧ auByte (auFlit k) 8 = k) ∧
    nextSeqOf { state := 1 } = 0 ∧ ({ linkState { state := 1, peerCfg := true } {} with span := { cfg := 64 } } : State).carries 35 3 =
      true := by
  refine ⟨fun k h => ⟨auFlit_good k h, ?_⟩, ?_⟩
  · revert k; decide +kernel
  · decide +kernel
/-- LinkEffects: lanes that retrain, a quiet span, routes that are accepted and refused, and a peer that has been silent. -/
theorem witness_links : SpanQuiet {} ∧ ({ span := { cfgSh := 66, routeSh := [(7, withInv 69)] } } : State).spanOk = true ∧
    ({ span := { cfgSh := 66, routeSh := [(7, 0)] } } : State).spanOk = false ∧
    ({ span := { routeOld := [(7, 69)] } } : State).bundle (bits (69 : Word).toNat 0 6) = {} ∧
    ({} : State).hopOf 9 = none ∧ (∀ l, l < Config.nLinks → (({ time := 10000000 } : State).link l).identAt + 10000000 ≤ 10000000) := by
  refine ⟨spanQuiet_empty, ?_⟩
  decide

/-! ## Witnesses: bolts -/

/-- A descriptor from its bytes: (offset, length, value). -/
def descOf (l : List (Nat × Nat × Nat)) : BitVec 1024 := BitVec.ofNat 1024 (l.foldl (fun a x => a + (x.2.2 <<< (8 * x.1))) 0)
/-- The admin queue, of function 0, or queue 5 of function 9, with one entry to accept. -/
def adminPair : QpRec := { cfg := BitVec.ofNat 64 (1 <<< 36), sqTail := 1, unread := 3 }
def adminState (s : State) : State := ({ s with funcs := [(9, { enabled := true, writable := true })] } : State).setQp 0 adminPair
def createDesc (b x y w h mask share quota span : Nat) : BitVec 1024 :=
  descOf [(0, 1, 0x20), (2, 1, b), (16, 1, x), (17, 1, y), (18, 1, w), (19, 1, h), (20, 4, mask), (24, 4, share), (28, 2, quota), (30, 1, span)]
/-- The south-east skein as bolt 7. -/
def cornerBolt : BoltRec := { st := .empty, sx0 := 63, sy0 := 71, w := 1, h := 1, funcMask := 0x80000001, nextEpoch := 1 }
def cornerCore : Nat := coreNum 511 575
def cornerState (r : BoltRec) : State := ({} : State).setBolt 7 r
def killDescOf (op flags : Nat) : BitVec 1024 := descOf [(0, 1, op), (2, 1, 7), (16, 1, flags)]
theorem corner_rect (c : Nat) : inRect cornerBolt c ↔ c < Config.nCores ∧ 504 ≤ coreX c ∧ coreX c < 512 ∧ 568 ≤ coreY c ∧ coreY c < 576 := by
  simp [inRect, cornerBolt]
theorem funcsHear_empty (s : State) (h : s.funcs = []) : FuncsHear s := fun f => by simp [State.func, h, Tab.get]
theorem idle_of (s : State) (h : s.cores = []) (c : Nat) : (s.core c).st = .idle := by simp [State.core, h, Tab.get]

/-- BoltDescEffects: a rectangle at the far corner, one that ends one skein beyond it, and bolts that can be killed. -/
def farDesc : BitVec 1024 := createDesc 7 63 71 1 1 0x80000001 102400 726 7
theorem far_facts : readyB (adminState {}) 0 farDesc = true ∧
    (dOpcode farDesc = 0x20 ∧ dHandle farDesc = 0 ∧ dZeroBut farDesc [(0, 31)] = true ∧ dfield farDesc 30 1 < 8) ∧
    (1 ≤ dfield farDesc 18 1 ∧ dfield farDesc 16 1 + dfield farDesc 18 1 ≤ 64) ∧
    (1 ≤ dfield farDesc 19 1 ∧ dfield farDesc 17 1 + dfield farDesc 19 1 ≤ 72) ∧ dfield farDesc 20 4 ≠ 0 ∧
    dfield farDesc 24 4 ≤ Config.heavyBudget (adminState {}).configCode ∧ dfield farDesc 28 2 ≤ 726 ∧
    ((createdBolt farDesc).sx0 = 63 ∧ (createdBolt farDesc).sy0 = 71 ∧ (createdBolt farDesc).w = 1 ∧ (createdBolt farDesc).h = 1) ∧
    64 < dfield (createDesc 7 63 71 2 1 1 0 0 0) 16 1 + dfield (createDesc 7 63 71 2 1 1 0 0 0) 18 1 ∧
    dOpcode (createDesc 7 63 71 2 1 1 0 0 0) = 0x20 ∧
    readyB (adminState (cornerState cornerBolt)) 0 (killDescOf 0x21 1) = true ∧ dZeroBut (killDescOf 0x22 1) [(0, 17)] = true ∧
    dfield (killDescOf 0x22 1) 2 1 = 7 ∧ 2 ≤ dfield (killDescOf 0x22 2) 16 1 := by decide +kernel
theorem witness_create : Ready (adminState {}) 0 farDesc ∧ CreateOk (adminState {}) farDesc ∧
    createBad (adminState {}) (createDesc 7 63 71 2 1 1 0 0 0) ∧
    (let v := createdBolt farDesc
     inRect v cornerCore ∧ hasSkein v 4607 ∧ SkeinsOn ({ skeins := [(4607, { state := 4 })] } : State) v) := by
  obtain ⟨a, b, c, d, e, f, g, ⟨h1, h2, h3, h4⟩, i, -⟩ := far_facts
  refine ⟨ready_of _ _ _ a, ⟨b, c, d, e, f, g, rfl, fun _ => rfl⟩, .inr (.inl i), ?_, ?_, fun k h => ?_, by decide⟩
  · simp only [inRect, h1, h2, h3, h4]; decide
  · simp only [hasSkein, h1, h2, h3, h4]; decide
  · simp only [hasSkein, h1, h2, h3, h4] at h
    have : k = 4607 := by omega
    subst this
    decide
theorem witness_kill : Ready (adminState (cornerState cornerBolt)) 0 (killDescOf 0x21 1) ∧
    BoltQuiet (cornerState cornerBolt) 7 ∧ ∀ c, ((cornerState cornerBolt).core c).st = .idle :=
  ⟨ready_of _ _ _ far_facts.2.2.2.2.2.2.2.2.2.2.1, ⟨rfl, rfl, rfl, rfl, rfl, by decide, funcsHear_empty _ rfl⟩, idle_of _ rfl⟩
/-- BoltRunEffects: bolts that drain, that resume, that time out, and a probe without an answer. -/
def slotBolt (late : Bool) : BoltRec := { cornerBolt with st := .serving, slots := [(511, { req := some 9, timedOut := late })] }
def slotReq : ReqRec := ({ gen := 4 } : ReqRec).setKey 0 20 (3 + (7 <<< 4) + (511 <<< 10))
def lateState (late : Bool) : State := { time := 50000000, bolts := [(7, slotBolt late)], reqs := [(9, slotReq)] }
theorem witness_run : onArray cornerBolt ∧ inRect cornerBolt cornerCore ∧
    ((lateState true).req 9 = slotReq ∧ slotReq.st = rqDecode ∧ slotReq.bolt = 7 ∧ slotReq.slot = 511 ∧
      (slotBolt true).pickTimeout = 50 ∧ (slotBolt true).pool = [] ∧ ((lateState true).qp slotReq.qp).enabled = false) ∧
    (let s : State := { time := 1004, probes := [(294911, 5)] }
     Tab.get 0 s.probes 294911 = 5 ∧ 5 - 1 + 1000 ≤ s.time ∧ hasPort 510 575 2 = true ∧
       leave 510 575 2 = .at_ (.router (coreX 294911) (coreY 294911) 4)) := by
  refine ⟨by decide, by decide, by decide, by decide⟩

/-! ## Witnesses: loads -/

/-- A model package and an adapter package of one shard each, signed by the key 3·G, as their manifests' bytes; the hash of that
key (FIPS 180-4, FIPS 186-5). -/
def modelManifest : List Byte := leBytes 416 0x3f471c1d9e1d4dcb164a24889b776d20c58a606b3a115ab710edf010995818142a5ae57218960078c298b575d3dccdc7bc846d83c3dbbc0ae697a21c4a2f8837b08365e5cb61664fc58ff9bf1de508f267e425a05eac3c5777c751c2a224de110afc2438865a89b09b3375a1f06647213ac7147957383c6962b6d7b654cfefa5f8efd4a4744aa84b7a3d6b11b79e2c9f0000000000000001000000400000000100000000000000000000000000000000000000000000000000000000000000000000000000000000000000000000000000000000000000000000000000000000000000000000000000000000000000010000000000000000000000000000000000000000000000000000000000000000000000000000000000000000000000f11d2f0a60285fb698d2b5e46bbd4ac2ac1e11dc0e4c68f7a55a11851cb4208599fca90296be0b7d83420c0bcaf795c931c80005c7e5d7020d582650aebb08b4a66d56d340f2a4be06cd2d2010399dcb987ddc5f7e3c796414fa6f60d4417a070400000001000000000000000000000000000000000000007700000001464d574b
def adapterManifest : List Byte := leBytes 416 0x6c624c63f16eb5a1b49b82f7a82cf0501ad16d13c7f9148aa5a31cba0e5ee06cbd637cfe8de4e417637cfbf89d32bfa4e1d0b68fb4050f04b2ebb9556f52058b501c7bfa9dcc582dfa5feafb97e96fadfedf4e23bf8e9ff28847ce65731d3c282d7ef999028ccbe878b6727c6df082528a013752791dd81c15ef93b38e9678208f91921482ed4a899bf22e758e2106530000000000000001000000200000000400000000000000000000000000000000000000000000000000000000000000000000000000000000000000000000000000000000000000000000000000000000000000000000000000000000000000010000000000000000000000000000007700000000000000000000000000000000000000000000000000000000000000f11d2f0a60285fb698d2b5e46bbd4ac2ac1e11dc0e4c68f7a55a11851cb4208599fca90296be0b7d83420c0bcaf795c931c80005c7e5d7020d582650aebb08b4a66d56d340f2a4be06cd2d2010399dcb987ddc5f7e3c796414fa6f60d4417a070400000001000000000000000000000000000000000000009900010001464d574b
def keyHash : BitVec 384 := 0xe221ae7da2b821799a05d10dd45b42c3f992d64b9956a12afe66c8b375e30e57df63c1eb1f7ea65f750a2f5857994b72
def keyed (s : State) : State := { s with security := { s.security with anchor := [(7, (keyHash, ~~~keyHash, true))] } }
def shardBytes : List Byte := leBytes 64 0x3f3e3d3c3b3a393837363534333231302f2e2d2c2b2a292827262524232221201f1e1d1c1b1a191817161514131211100f0e0d0c0b0a09080706050403020100
def factorBytes : List Byte := leBytes 32 0x3f803f803f803f803f803f803f803f803f803f803f803f803f803f803f803f80

theorem keyed_facts : manifestFormOk modelManifest 0 = true ∧ hashOf (mfKey modelManifest) = keyHash ∧
    signatureOk (mfKey modelManifest) (modelManifest.drop (mfSigAt modelManifest)) (modelManifest.take (mfSigAt modelManifest)) = true ∧
    signatureOk (mfKey modelManifest) (shardBytes ++ shardBytes) (modelManifest.take (mfSigAt modelManifest)) = false ∧
    mfPositions modelManifest = 1 ∧ ((mfShards modelManifest).map fun k => (k.kind, k.length, k.uses)) = [(1, 64, 1)] ∧
    modelManifest.length = 416 ∧ mfSigAt modelManifest = 320 ∧
    manifestFormOk adapterManifest 1 = true ∧ hashOf (mfKey adapterManifest) = keyHash ∧ mfBase adapterManifest = mfModel modelManifest ∧
    signatureOk (mfKey adapterManifest) (adapterManifest.drop (mfSigAt adapterManifest))
      (adapterManifest.take (mfSigAt adapterManifest)) = true ∧
    ((mfShards adapterManifest).map fun k => (k.kind, k.length)) = [(4, 32)] ∧ adapterManifest.length = 416 := by decide +kernel
theorem keyed_anchor (s : State) : (keyed s).anchorSlot 7 = (keyHash, ~~~keyHash, true) := by
  simp [State.anchorSlot, keyed, Tab.get]
theorem keyed_anchors (s : State) (i : Nat) : ((keyed s).anchorSlot i).2.2 = true →
    ((keyed s).anchorSlot i).2.1 = ~~~((keyed s).anchorSlot i).1 := by
  by_cases h : 7 = i
  · subst h; simp [keyed_anchor]
  · simp [State.anchorSlot, keyed, Tab.get, h, anchorNone]
theorem model_signed (s : State) : Signed (keyed s) modelManifest 0 := by
  obtain ⟨a, b, c, -, -, f, -⟩ := keyed_facts
  refine ⟨a, fun k h => ?_, ⟨7, by decide, by rw [keyed_anchor], by rw [keyed_anchor, b]⟩, fun i _ => keyed_anchors s i, c⟩
  have : (k.kind, k.length, k.uses) ∈ (mfShards modelManifest).map fun k => (k.kind, k.length, k.uses) := List.mem_map_of_mem h
  rw [f] at this
  simp at this
  simp [this.1]
/-- LoadEffects: a signed package for an empty bolt, one whose signature is not right, and shards of a load. -/
def loadDesc : BitVec 1024 := descOf [(0, 1, 0x10), (2, 1, 7), (24, 4, 416), (28, 1, 3), (29, 1, 1)]
def loadState : State := keyed { adminState (cornerState { cornerBolt with resvPerPort := 1 }) with
  creel := [(0, { state := 1, owners := [(128, .clean)] })] }
theorem witness_load : Ready loadState 0 loadDesc ∧ LoadDesc loadDesc modelManifest ∧ boltOfDesc loadState 0 loadDesc = some 7 ∧
    Signed loadState modelManifest 0 ∧ (∃ k, mfShards modelManifest = [k] ∧ k.kind = 1 ∧ bitAt k.uses 0 = true ∧ k.length ≤ 4194304) ∧
    (loadState.port 0).boltBlocks 7 = [] ∧ firstClean (loadState.port 0) 128 := by
  obtain ⟨a, b, c, d, e, f, g, i, -⟩ := keyed_facts
  have h : readyB loadState 0 loadDesc = true ∧ (dOpcode loadDesc = 0x10 ∧ dHandle loadDesc = 0 ∧
      dZeroBut loadDesc [(0, 30), (32, 16)] = true) ∧ dfield loadDesc 24 4 = 416 ∧ dfield loadDesc 28 1 < 4 ∧
      (dfield loadDesc 29 1 = 1 ∧ dfield loadDesc 40 8 = 0) ∧ boltOfDesc loadState 0 loadDesc = some 7 ∧
      (loadState.port 0).boltBlocks 7 = [] ∧ (∀ i, i < 128 → (loadState.port 0).owner i ≠ .clean) := by decide +kernel
  obtain ⟨h1, h2, h3, h4, h5, h6, h7, h8⟩ := h
  refine ⟨ready_of _ _ _ h1, ⟨h2, ⟨h3.trans g.symm, g.ge, g.trans_le (by decide)⟩, h4, h5⟩, h6, model_signed _, ?_, h7,
    by decide, rfl, h8⟩
  match hm : mfShards modelManifest, f with
  | [k], f =>
    simp at f
    exact ⟨k, rfl, f.1, by rw [f.2.2]; rfl, by omega⟩
  | [], f => simp at f
  | _ :: _ :: _, f => simp at f
def twoShards : EpochRec :=
  { mirror := [(4, 200)], shards := [{ kind := 1, length := 64, uses := 1, st := .inFlight, hash := hashOf shardBytes, port := 4, off := 4194240 },
      { kind := 1, uses := 1, st := .inFlight }] }
def arrivalState (l : LoadRec) (e : EpochRec) : State := ({} : State).setBolt 7 { cornerBolt with st := .loading, load := some l, other := some e }
theorem oneLoad_of (l : LoadRec) (e : EpochRec) : OneLoad (arrivalState l e) 7 l e := ⟨by decide, rfl, rfl, rfl, rfl, rfl⟩
theorem witness_arrival : OneLoad (arrivalState {} twoShards) 7 {} twoShards ∧ hashOf shardBytes = (twoShards.shard 0).hash ∧
    (twoShards.shard 0).off + (twoShards.shard 0).length = 4194304 ∧ (twoShards.shard 0).st = .inFlight ∧
    (twoShards.mirror.filter fun x => x.1 = (twoShards.shard 0).port).map (fun x => x.2) = 200 :: [] ∧
    (∃ x, x ≠ 0 ∧ x < twoShards.shards.length ∧ (twoShards.shard x).kind = 1 ∧ bitAt (twoShards.shard x).uses 0 = true) :=
  ⟨oneLoad_of _ _, rfl, rfl, rfl, rfl, 1, by decide, by decide, rfl, rfl⟩
theorem canTell_admin : CanTell (adminState {}) 0 := ⟨by decide, rfl, rfl, by decide, by decide, by decide⟩
/-- CommitEffects: a placed core in the corner, a commit that nothing waits for, and a chain to engine 3. -/
def placedEpoch : EpochRec := { num := 5, place := [[cornerCore]], st := .loading }
def chainState : State :=
  { links := [(35, { state := 1, peerCfg := true, peerEngine := 3 })], span := { cfg := 64, route := [(3, withInv (3 + 64))] } }
theorem witness_placing : OneLoad (arrivalState {} placedEpoch) 7 {} placedEpoch ∧
    (arrivalState {} placedEpoch).imageOf placedEpoch = some [] ∧ imPlaces [] 0 = [] ∧ imRelocs [] 0 = [] ∧ chainState.hopOf 3 = some 3 ∧
    ((arrivalState {} placedEpoch).core cornerCore).st = .idle :=
  ⟨oneLoad_of _ _, rfl, by decide, by decide, by decide, rfl⟩

/-! ## Witnesses: epochs -/

/-- Bolt 7 with a current epoch 5 and perhaps another. -/
def epochState (cur : EpochRec) (o : Option EpochRec) (ops : List BoltOp) : State :=
  { adminState (cornerState { cornerBolt with st := .serving, current := some cur, other := o, ops := ops }) with
    creel := [(31, { owners := [(5542, .bolt 7)] })] }
def stagedEpoch (n : Nat) (st : EpochSt) : EpochRec := { num := n, st := st }
def siteEpoch (st : EpochSt) : EpochRec :=
  { num := 6, st := st, place := [[cornerCore]], placedDone := true, mirror := [(31, 5542)] }
def epochDesc (op n flag : Nat) : BitVec 1024 := descOf [(0, 1, op), (2, 1, 7), (16, 2, n), (18, 1, flag)]
theorem noWork_of (cur : EpochRec) (o : Option EpochRec) (ops : List BoltOp) : NoWork (epochState cur o ops) 7 :=
  ⟨by decide, rfl, rfl, rfl, rfl, (show 63 + 1 ≤ 64 ∧ 71 + 1 ≤ 72 by decide)⟩
/-- EpochEffects: each named epoch, with each flag; the free of a PLACED and of a DRAINING epoch on the last core. -/
theorem witness_epochs : (∀ op ∈ [0x13, 0x14], ∀ n ∈ [5, 6, 65535], ∀ fl ∈ [0, 1],
      readyB (epochState (stagedEpoch 5 .current) (some (stagedEpoch 6 .staged)) []) 0 (epochDesc op n fl) = true ∧
      dOpcode (epochDesc op n fl) = op ∧ dHandle (epochDesc op n fl) = 0 ∧ dZeroBut (epochDesc op n fl) [(0, 19)] = true ∧
      dfield (epochDesc op n fl) 16 2 = n ∧ dfield (epochDesc op n fl) 18 1 = fl ∧
      boltOfDesc (epochState (stagedEpoch 5 .current) none []) 0 (epochDesc op n fl) = some 7) ∧
    cornerCore < Config.nCores := by decide +kernel
theorem witness_free : NoWork (epochState (stagedEpoch 5 .current) (some (siteEpoch .draining)) [.unload 6 true ⟨0, 0, 0, 0, 0x14⟩]) 7 ∧
    OnSite (siteEpoch .draining) cornerCore 31 5542 ∧
    ((epochState (stagedEpoch 5 .current) none []).core cornerCore).st = .idle :=
  ⟨noWork_of _ _ _, ⟨⟨rfl, rfl⟩, by decide, ⟨rfl, by decide⟩, rfl, rfl⟩, rfl⟩

/-! ## Witnesses: adapters and tuning -/

/-- Bolt 7 serves an epoch with one core in the corner, stream slot 511 and one layer region, for function 9 with queue pair 5. -/
def tuneEpoch : EpochRec :=
  { num := 5, st := .current, modelId := 0x77, place := [[cornerCore]], placedDone := true, slotNos := [511]
    adapterGeom := [{ frames := 1, frameBytes := 32, frameStride := 32 }], regions := [(0, 1)], virts := [[7]] }
def servingBolt : BoltRec := { cornerBolt with st := .serving, funcMask := 0x200, current := some tuneEpoch, resvPerPort := 1 }
def tuneState (r : BoltRec) (a : List (Nat × AdapterRec)) : State :=
  { hostState pair5 with
    time := 9, bolts := [(7, r)], adapters := a
    creel := [(0, { state := 1, owners := [(128, .clean)] }), (31, { state := 1, owners := [(200, .bolt 7)] })] }
def loadedAdapter : AdapterRec := { bolt := 7, baseId := 0x77, loaded := true, bytes := factorBytes, shards := [{ length := 32 }] }
def adapterDesc : BitVec 1024 := descOf [(0, 1, 0x11), (24, 4, 416)]
def tuneDesc : BitVec 1024 := descOf [(0, 1, 0x30), (16, 2, 31), (20, 4, 2), (32, 4, 64)]
/-- A job of one example, in batches of one, at a rate of 1/2; the example has two positions, one of them flagged. -/
def tuneJob : BitVec 512 := BitVec.ofNat 512 ([(8, 12), (12, 1), (16, 1), (20, 0x3F000000), (24, 0x3F000000), (28, 0x3F000000),
  (32, 0x30000000)].foldl (fun a x => a + (x.2 <<< (8 * x.1))) 0)
def tuneBytes : List Byte := leBytes 4 2 ++ leBytes 4 7 ++ leBytes 4 (262143 + (1 <<< 31))
/-- AdapterEffects and TuneEffects: descriptors in range, an adapter with one shard, a job in range and its examples. -/
theorem witness_adapters :
    (let s := tuneState servingBolt []
     readyB s 5 adapterDesc = true ∧ dOpcode adapterDesc = 0x11 ∧ dZeroBut adapterDesc [(0, 40)] = true ∧
       boltOfDesc s 5 adapterDesc = some 7 ∧ (s.port 0).boltBlocks 7 = [] ∧ (s.port 0).owner 128 = .clean) ∧
    tuneEpoch.adapterBytes = 32 ∧
    (let s := tuneState servingBolt [(31, loadedAdapter)]
     readyB s 5 tuneDesc = true ∧ dOpcode tuneDesc = 0x30 ∧ dZeroBut tuneDesc [(0, 18), (20, 16)] = true ∧
       dfield tuneDesc 16 2 = 31 ∧ dfield tuneDesc 32 4 = 64 ∧ dfield tuneDesc 20 4 = 2) ∧
    jobExamples tuneJob tuneBytes = some [[(7, false), (262143, true)]] ∧
    (let s := tuneState servingBolt [(255, { loadedAdapter with closed := true, evict := some ⟨5, 0, 0, 0, 0x12⟩ })]
     ((s.adapter 255).bolt, (s.adapter 256).loaded) = (7, false)) := by decide +kernel
theorem witness_tune : jobInRange tuneJob := by
  refine ⟨?_, ?_, ?_, ?_, ?_, ?_, ?_, ?_⟩ <;> decide +kernel
theorem serves_tune (r : BoltRec) (a : List (Nat × AdapterRec)) (h : r.st = .serving) (c : r.current = some tuneEpoch)
    (o : r.other = none) (l : r.load = none) : Serves (tuneState r a) 7 tuneEpoch := by
  have e : (tuneState r a).bolt 7 = r := by simp [tuneState, State.bolt, Tab.get]
  exact ⟨by decide, by rw [e]; rfl, by rw [e]; exact ⟨c, o⟩, by rw [e]; exact l, by rw [e]; exact h⟩
theorem oneAdapter_tune (r : BoltRec) : OneAdapter (tuneState r [(31, loadedAdapter)]) 7 31 loadedAdapter :=
  ⟨⟨by decide, rfl⟩, rfl, ⟨rfl, rfl, rfl, rfl⟩⟩
/-- Steps of a job whose layers have no watch yet, and a lost line of a mirror's last line. -/
theorem witness_tuneStep :
    (let u : TuneRec := { slot := 31, nsteps := 2, job := tuneJob, theta := [0x3F800000], mo := [0], vv := [0], examples := [[(7, false), (9, true)]] }
     u.targets = [9]) ∧
    Calm tuneEpoch {} ⟨[], [], []⟩ ∧ (∃ e : EpochRec, e.ofKind 0 = [] ∧ Calm e {} ⟨[], [], []⟩) := by
  refine ⟨by decide +kernel, fun l h => absurd h (Nat.not_lt_zero l), {}, rfl, fun l h => absurd h (Nat.not_lt_zero l)⟩

/-! ## Witnesses: requests -/

/-- The key word of a request of bolt 7 and epoch 5, and its entry, of function 9 with queue pair 5. -/
def rqKey (st slot auto : Nat) : Word := BitVec.ofNat 64 (st + 16 * 7 + (slot <<< 10) + (5 <<< 20) + (auto <<< 48))
def rqOf (r : ReqRec) (st : Nat) (slot : Nat := noSlot) (auto : Nat := 0) : ReqRec :=
  { r with key := rqKey st slot auto, keyInv := ~~~rqKey st slot auto, gen := 65535, qp := 5, func := 9, tag := 77, opcode := 1 }
/-- Bolt 7 serves an epoch with one stream slot, and ports that are up. -/
def serveEpoch : EpochRec :=
  { tuneEpoch with
    slots := 1, chunk := 4
    serve := { vocab := 300, endIds := [299], chunkNs := 10, pickBaseNs := 5, regions := 1, tailNs := 3, waferPages := 50
               pageBytes := 1000, bobbinBytes := 10 } }
def reqState (e : EpochRec) (rs : List (Nat × ReqRec)) : State :=
  { hostState pair5 with
    time := 9000000, reqs := rs, bolts := [(7, { servingBolt with current := some e })]
    creel := (List.range 32).map fun p => (p, { state := 1 }) }
def reqDesc (op : Nat) (l : List (Nat × Nat × Nat)) : BitVec 1024 := descOf ([(0, 1, op), (8, 4, 16383 + 65536 * 65535)] ++ l)
def generateDesc : BitVec 1024 := descOf [(0, 1, 1), (24, 4, 8), (28, 1, 1), (40, 4, 448), (44, 4, 32), (68, 2, 0xFFFF)]
def contDesc : BitVec 1024 := reqDesc 2 [(24, 4, 8), (28, 1, 1), (40, 4, 448), (44, 4, 32)]
/-- The last entry of the table in state `st`. -/
def lastReq (st : Nat) : State := reqState serveEpoch [(16383, rqOf {} st)]
def namesB (s : State) (q : Nat) (d : BitVec 1024) (i : Nat) : Bool :=
  decide (q ≠ 0) && (boltOfDesc s q d).isSome && decide (i < Config.nRequests) && decide ((s.req i).gen < 65536) &&
  decide (dHandle d = i + 65536 * (s.req i).gen) && decide ((s.req i).st ≠ rqFree) && decide ((s.req i).func = (s.qp q).func) &&
  (s.req i).keyOk && decide ((s.req i).intake = none)
theorem names_of (s : State) (q : Nat) (d : BitVec 1024) (i : Nat) (h : namesB s q d i = true) : Names s q d i := by
  simp only [namesB, Bool.and_eq_true, decide_eq_true_eq] at h
  obtain ⟨⟨⟨⟨⟨⟨⟨⟨a, b⟩, c⟩, d⟩, e⟩, f⟩, g⟩, k⟩, l⟩ := h
  exact ⟨a, b, c, d, e, f, g, k, l⟩
def canTellB (s : State) (q : Nat) : Bool :=
  (s.qp q).enabled && !(s.qp q).error && decide ((s.qp q).held = []) && decide ((s.qp q).unread < (s.qp q).cqSize) &&
  (s.func (s.qp q).func).writable && !cfgIrqEn (s.qp q).cfg
theorem canTell_of (s : State) (q : Nat) (h : canTellB s q = true) : CanTell s q := by
  simp only [canTellB, Bool.and_eq_true, decide_eq_true_eq, Bool.not_eq_true'] at h
  obtain ⟨⟨⟨⟨⟨a, b⟩, c⟩, d⟩, e⟩, f⟩ := h
  exact ⟨a, b, c, d, e, f⟩
/-- RequestDescEffects: a GENERATE, and each descriptor on the last entry in each state. -/
theorem witness_generate : readyB (reqState serveEpoch []) 5 generateDesc = true ∧ dOpcode generateDesc = 1 ∧
    boltOfDesc (reqState serveEpoch []) 5 generateDesc = some 7 ∧ ((reqState serveEpoch []).bindEpoch 7).isSome = true ∧
    (reqState serveEpoch []).freeEntry = some 0 ∧ generateOk generateDesc = true ∧ ¬ dfield generateDesc 68 2 < 256 := by
  decide +kernel
theorem witness_requestDesc : readyB (lastReq 4) 5 contDesc = true ∧ readyB (lastReq 4) 5 (reqDesc 3 []) = true ∧
    readyB (lastReq 4) 5 (reqDesc 4 []) = true ∧ readyB (lastReq 4) 5 (reqDesc 5 []) = true ∧
    (∀ st ∈ [1, 2, 3, 4, 5, 6, 7, 8, 11], namesB (lastReq st) 5 (reqDesc 5 []) 16383 = true) ∧
    canTellB (lastReq 4) ((lastReq 4).req 16383).qp = true := by decide +kernel
theorem witness_requestFields : (continueOk contDesc = true ∧ ((lastReq 4).req 16383).auto = false ∧
      (lastReq 4).adapterClosed ((lastReq 4).req 16383) = false) ∧
    (let d := reqDesc 3 [(16, 1, 1), (20, 4, 7)]
     dZeroBut d [(0, 17), (20, 4)] = true ∧ dfield d 16 1 = 1 ∧ dfield (reqDesc 3 []) 16 1 = 0) ∧
    dZeroBut (reqDesc 4 []) [(0, 12)] = true := by decide +kernel
theorem witness_unnamed : Unnamed (reqState serveEpoch []) 5 (reqDesc 5 []) ∧ Unnamed (lastReq 4) 0 (reqDesc 5 []) ∧
    ((reqState serveEpoch [(16383, { rqOf {} 4 with intake := some {} })]).req (dHandle contDesc % 16384)).intake.isSome = true :=
  ⟨⟨by decide +kernel, by decide +kernel, .inr (.inr (.inr (.inl (by decide +kernel))))⟩,
    ⟨by decide +kernel, by decide +kernel, .inl rfl⟩, by decide +kernel⟩

/-- An intake whose prompt is two IDs. -/
def twoIds : Intake := { fin := ⟨5, 4, 0x99, 0, 1⟩, func := 9, inLen := 8, inFmt := 1, maxTokens := 32, outLen := 999, epoch := 5 }
/-- ServingEffects: inputs in range at the last ID, and one beyond the vocabulary. -/
theorem witness_inputs : let s := reqState serveEpoch [(16383, rqOf { intake := some twoIds } 0)]
    let e := ((s.bolt (s.req 16383).bolt).epochOf twoIds.epoch).getD {}
    (s.req 16383).keyOk = true ∧ (s.req 16383).intake = some twoIds ∧ (leBytes 4 5 ++ leBytes 4 299).length = twoIds.inLen ∧
    words4 (leBytes 4 5 ++ leBytes 4 299) = [5, 299] ∧ e.serve.vocab = 300 ∧ samplingOk [] = true ∧ canTellB s twoIds.fin.q = true := by
  decide +kernel
def oneRequestB (s : State) (b i : Nat) : Bool :=
  decide (b < Config.nBolts) && decide (i < Config.nRequests) && decide (s.boltReqs b = [i]) && decide ((s.req i).bolt = b) &&
  (s.req i).live && (s.reqs.all fun e => e.2.keyOk) && decide ((s.bolt b).ops = [])
theorem oneRequest_of (s : State) (b i : Nat) (h : oneRequestB s b i = true) : OneRequest s b i := by
  simp only [oneRequestB, Bool.and_eq_true, decide_eq_true_eq, List.all_eq_true] at h
  obtain ⟨⟨⟨⟨⟨⟨a, b⟩, c⟩, d⟩, e⟩, f⟩, g⟩ := h
  exact ⟨a, b, c, d, e, f, g⟩
/-- An intake that has been read, where the tests pass and where memory or time fails. -/
def readIds (ttft : Nat) (defer : Bool) : Intake := { twoIds with read := true, prompt := [5, 6], ttft := ttft, defer := defer }
def admitState (pages tail : Nat) (k : Intake) : State :=
  reqState { serveEpoch with serve := { serveEpoch.serve with waferPages := pages, tailNs := tail } } [(16383, rqOf { intake := some k } 0)]
theorem witness_admission : (∀ x ∈ [(50, 3, 0, true, true), (0, 3, 0, false, true), (50, 10000, 1, true, false)],
    let k := readIds x.2.2.1 false
    let s := admitState x.1 x.2.1 k
    oneRequestB s 7 16383 = true ∧ s.power.pfSeen = false ∧ (s.req 16383).st = rqFree ∧ canTellB s k.fin.q = true ∧
    (match s.bindEpoch 7 with
      | some e => s.adapterOk 7 e.modelId k.adapter && s.memOk (s.candOfIntake 16383 k e) == x.2.2.2.1 &&
          s.timeOk (s.candOfIntake 16383 k e) == x.2.2.2.2 && k.prompt.all fun t => decide (t < e.serve.vocab)
      | none => false) = true) ∧
    (∀ st ∈ [4, 5, 6], let s := reqState serveEpoch [(16383, rqOf { expiry := 5, log := [1, 2] } st noSlot 1)]
      oneRequestB s 7 16383 = true ∧ (s.req 16383).auto = true ∧ s.adapterClosed (s.req 16383) = false ∧
      s.memOk (s.candOfReq 16383) = true ∧ s.timeOk (s.candOfReq 16383) = true) ∧
    (let s := reqState serveEpoch [(16383, rqOf { deadline := 9000000 } 1)]
     oneRequestB s 7 16383 = true ∧ (s.req 16383).st = rqQueued ∧ (s.req 16383).deadline ≤ s.time ∧ (s.req 16383).slot = noSlot) := by
  decide +kernel
theorem witness_ranking :
    (let s := reqState serveEpoch [(16383, rqOf { admitted := true, fresh := true, prompt := [3] } 1)]
     oneRequestB s 7 16383 = true ∧ s.freeSlot 7 (s.reqEpoch (s.req 16383)) = some 511 ∧ s.adapterReady (s.req 16383) = true ∧
     (s.reqEpoch (s.req 16383)).st = .current) ∧
    (let s := reqState serveEpoch [(16382, rqOf {} 3 511), (16383, rqOf {} 3 510)]
     s.boltReqs 7 = [16382, 16383] ∧ (s.req 16382).waits = false ∧ (s.req 16382).slot = 511 ∧ (s.req 16383).slot = 510) := by
  decide +kernel
theorem witness_pauses :
    (let s := reqState serveEpoch [(16383, rqOf { expiry := 9000000, save := some [] } 5)]
     (s.reqs.filter fun e => e.2.expired s.time) = [(16383, s.req 16383)] ∧ (s.reqs.all fun e => e.2.keyOk) = true ∧
       canTellB s 5 = true ∧ (s.req 16383).slot = noSlot) ∧
    (∀ p ∈ [0, 1, 2, 3], let s := reqState serveEpoch [(16383, rqOf { pausePark := p, openTurn := true } 7)]
      (s.req 16383).st = rqDraining ∧ (s.req 16383).keyOk = true ∧ (s.func (s.req 16383).func).writable = true ∧
      (s.req 16383).slot = noSlot ∧ (s.req 16383).qp = 5) ∧
    (let s := reqState serveEpoch [(16383, rqOf { parking := true } 5)]
     (s.req 16383).st = rqParked ∧ (s.parkPages 16383).poolFits 7 = true) := by decide +kernel
theorem witness_noMiss : ∀ c ch, (((reqState serveEpoch []).core c).chan ch).state ≠ .miss := by
  intro c ch
  simp [reqState, hostState, State.setQp, State.core, Tab.get, CoreRec.chan]

/-! ## Witnesses: the pipeline and the rings -/

/-- An epoch with an embed, a layer, an unembed and an expert region. -/
def pipeGeom : KvGeom :=
  { region := 1, heads := 1, lanes := 1, framesHi := 4, framesLo := 4, lanesHi := 1, frameStride := 4096, mapBase := (1 <<< 19) + 0x8000
    mapLen := 64, wlBase := 0x9000, wlStride := 0x100 }
def pipeEpoch : EpochRec :=
  { serveEpoch with
    regions := [(1, 0), (0, 1), (2, 0), (3, 1)], place := [[cornerCore], [cornerCore - 1], [cornerCore - 2], [cornerCore - 3]]
    kvGeom := [pipeGeom], watch := [(1, 15), (2, 15), (3, 15), (4, 15)] }
def pipeState (x : BoltRec) (rs : List (Nat × ReqRec)) : State :=
  { reqState pipeEpoch rs with
    bolts := [(7, { servingBolt with current := some pipeEpoch, regions := x.regions, slots := x.slots, tops := x.tops })] }
def pickUnit : Machine.PUnit := { mkUnit 511 .pick 63 1 true with verdict := true, pass := none, toks := [freshTok] }
def expertJob : ExpertJob := ⟨511, 3, 1281, false, 1, []⟩
def runs (r : ReqRec) : List (Nat × ReqRec) := [(9, rqOf r 3 511)]
theorem works_of (x : BoltRec) (rs : List (Nat × ReqRec)) (key : Nat) (h : 1280 ≤ key ∧ key < 1284) :
    Works (pipeState x rs) 7 key pipeEpoch := by
  have e : (pipeState x rs).bolt 7 =
      { servingBolt with current := some pipeEpoch, regions := x.regions, slots := x.slots, tops := x.tops } := by
    simp [pipeState, State.bolt, Tab.get]
  refine ⟨by decide, by rw [e]; rfl, ?_⟩
  rw [e]
  have k : key = 1280 ∨ key = 1281 ∨ key = 1282 ∨ key = 1283 := by omega
  rcases k with rfl | rfl | rfl | rfl <;> rfl
/-- PipelineEffects: units at each kind of region. -/
theorem witness_regions :
    pipeEpoch.kindOf 3 = 3 ∧ ((pipeState { regions := [(1283, { jobs := [expertJob] })] } []).bolt 7).region 1283 = { jobs := [expertJob] } ∧
    pipeEpoch.stages = [0, 1, 2] ∧
    ((pipeState { regions := [(1281, { inbox := some pickUnit })] } []).bolt 7).region 1281 = { inbox := some pickUnit } ∧
    (pipeState { slots := [(511, { req := some 9, waiting := [pickUnit] })] } (runs {})).firstSlot 7 pipeEpoch = some 511 ∧
    pipeEpoch.next 0 pickUnit = some 1 ∧ pipeEpoch.next 2 pickUnit = none ∧ pipeEpoch.treeDepth = 1 ∧
    ((pipeState { regions := [(1283, { job := some expertJob }), (1281, { unit := some { pickUnit with owed := 1 } })] } []).bolt 7).region
      1283 = { job := some expertJob } := by decide +kernel
theorem witness_handsOut : HandsOut (pipeState { regions := [(1280, { unit := some pickUnit })] } []) 7 1280 pickUnit ∧
    Picks (pipeState { regions := [(1280, { unit := some pickUnit })] } []) 7 511 :=
  ⟨⟨rfl, rfl, rfl, rfl, rfl⟩, rfl, fun i h => nomatch h⟩
/-- A unit that a layer judges; a finite norm with no average is calm, an infinite one triggers. -/
theorem witness_verdict (rho : Nat) : pipeEpoch.kindOf 1 = 0 ∧
    ((pipeState { regions := [(1281, { unit := some { pickUnit with verdict := false } })] } []).bolt 7).region 1281 =
      { unit := some { pickUnit with verdict := false } } ∧ normTrig rho 0 0xBF800000 = false ∧ satTrig false 0 7 = false ∧
    normTrig rho 0x7F800000 0xBF800000 = true := by
  refine ⟨rfl, by decide, ?_, rfl, ?_⟩
  · have a : f32IsFinite 0 = true := by decide
    have b : avgUnset 0xBF800000 = true := by decide
    simp [normTrig, a, b]
  · have a : f32IsFinite 0x7F800000 = false := by decide
    simp [normTrig, a]
def runsInB (s : State) (b slot i : Nat) : Bool :=
  decide (b < Config.nBolts) && decide (slot < Config.maxSlots) && decide ((s.bolt b).st = .serving) &&
  decide (((s.bolt b).slotRec slot).req = some i) && (s.req i).keyOk && decide ((s.req i).bolt = b) && decide ((s.req i).slot = slot)
theorem runsIn_of (s : State) (b slot i : Nat) (h : runsInB s b slot i = true) : RunsIn s b slot i := by
  simp only [runsInB, Bool.and_eq_true, decide_eq_true_eq] at h
  obtain ⟨⟨⟨⟨⟨⟨a, b⟩, c⟩, d⟩, e⟩, f⟩, g⟩ := h
  exact ⟨a, b, c, d, e, f, g⟩
/-- A page that is full, a draw and an acceptance in the last slot. -/
theorem witness_tokens :
    (let s := pipeState { slots := [(511, { req := some 9, kv := [(1, { bobbin := [List.replicate 64 ([], [])], reserved := [2], flushDue := some 0 })] })] } (runs {})
     runsInB s 7 511 9 = true ∧ (kvAt s 7 511 1).flushDue = some 0 ∧ (kvAt s 7 511 1).reserved = [2] ∧ pipeEpoch.kv? 1 = some pipeGeom) ∧
    (let s := pipeState { slots := [(511, { req := some 9, tail := [pickUnit] })], tops := [511] } (runs {})
     runsInB s 7 511 9 = true ∧ s.laneFree (s.bolt 7).homeSide = true ∧ s.laneTurn (s.bolt 7).homeSide 7 511 = true ∧
     (s.reqEpoch (s.req 9)).serve.vocab = 300) ∧
    (∀ x ∈ [(5, 0), (299, 2)],
      let s := pipeState { slots := [(511, { req := some 9, drawn := some (x.1, true) })] } (runs { prompt := [1, 2], maxTokens := 9, outLen := 999 })
      let l := (s.req 9).logToken x.1
      runsInB s 7 511 9 = true ∧ (s.req 9).st = rqDecode ∧ (s.setReq 9 l).poolFits 7 = true ∧
      (l.release (s.reqEpoch (s.req 9)) x.1).reason = x.2 ∧ (s.req 9).mask = none ∧ (s.func (s.req 9).func).writable = true) := by
  decide +kernel

/-- RingEffects: a word for page 0 of the last slot's stream in region 1, from its lane core. -/
def ringWord (kind : Nat) : Word := BitVec.ofNat 64 (kind + (1 <<< 4) + (511 <<< 12))
def pageOfHome (h : Home) (a : Option Nat) : KvPage := (⟨h, 0, 3, [], 0, false, a, 0⟩ : KvPage).sealed
def ringState (p : KvPage) : State := pipeState { slots := [(511, { req := some 9, kv := [(1, { pages := [p] })] })] } (runs {})
theorem wordNames_ring (p : KvPage) (k : Nat) (h : k = 1 ∨ k = 2) :
    WordNames (ringState p) (ringWord k) (cornerCore - 1) 7 pipeEpoch pipeGeom 9 := by
  rcases h with rfl | rfl <;> exact ⟨rfl, rfl, rfl⟩
theorem witness_ringWords : (∀ p ∈ [pageOfHome .frame none, pageOfHome .creel none, pageOfHome .creel (some 1), pageOfHome .creel (some 2)],
      pageAt (ringState p) 9 1 0 = some p) ∧
    pipeEpoch.kv? (bits (ringWord 2).toNat 4 8) = some pipeGeom ∧ bits (ringWord 1).toNat 21 24 = 0 ∧
    (ringState (pageOfHome .creel none)).freeFrame 7 pipeEpoch pipeGeom 0 = some 0 ∧
    cornerCore - 1 ∈ pipeEpoch.pageCores pipeGeom 0 ∧ (ringState (pageOfHome .creel none)).ownerOf 5 1 = none ∧
    ((ringState (pageOfHome .creel none)).bolt 7).region 1281 = {} := by decide +kernel
/-- A poll of the one region of an epoch: a report with its count 1 or 2 at the wrap of its numbers, or rows alone. -/
theorem witness_poll : (∀ n ∈ [1, 2], let w := watchWord 65535 511 true false n true false 0x3F800000
      let m := writeLE (writeLE [] (0x8000 + 8 * (65535 % 8)) 8 w) 0xC000 8 (2 ^ 64 - 2)
      bits (readLE m (0x8000 + 8 * (65535 % 8)) 8) 27 2 = n ∧ (readLE m 0xC000 8 + 2 ^ 64 - (2 ^ 64 - 2)) % 2 ^ 64 = 0) ∧
    (0 + 1) % 65536 = 1 ∧ (65535 + 1) % 65536 = 0 := by decide +kernel

end Sys2Proof.Tests
end

section
namespace Sys2Proof.Machine

open Sys2Proof

/-! PROOFS. The front of the queue (O18) and the queue-pair record (O31). -/

/-! ## A step and the queue -/

/-- Settles O18, by the two shapes of the queue. -/
theorem stepRunsFrontCommand : Obligations.StepRunsFrontCommand := by
  refine ⟨fun s c rest h => ?_, fun s h => ?_⟩
  · simp only [step, h]
  · simp only [step, h, State.idle]

/-! ## Folds over units -/

/-- A fold whose every step leaves the start as it is. -/
theorem foldl_eq_self {α β : Type} (f : α → β → α) (a : α) (l : List β) (h : ∀ b ∈ l, f a b = a) : l.foldl f a = a := by
  induction l with
  | nil => rfl
  | cons b r ih =>
    rw [List.foldl_cons, h b (List.mem_cons_self ..)]
    exact ih fun x hx => h x (List.mem_cons_of_mem _ hx)

/-- Each bolt of a list changed once: what every bolt holds then. -/
theorem State.foldl_modBolt_bolt (g : BoltRec → BoltRec) (l : List Nat) (hl : l.Nodup) (s : State) (b : Nat) :
    (l.foldl (fun s b => s.modBolt b g) s).bolt b = if b ∈ l then g (s.bolt b) else s.bolt b := by
  induction l generalizing s with
  | nil => simp
  | cons a r ih =>
    obtain ⟨ha, hr⟩ := List.nodup_cons.1 hl
    rw [List.foldl_cons, ih hr]
    by_cases hb : b = a
    · subst hb; simp [ha]
    · simp [hb, State.modBolt_bolt_ne]

/-- Changes of bolts leave the rest of the state. -/
theorem State.foldl_modBolt_frame (g : BoltRec → BoltRec) (l : List Nat) (s : State) :
    l.foldl (fun s b => s.modBolt b g) s = { s with bolts := (l.foldl (fun s b => s.modBolt b g) s).bolts } := by
  induction l generalizing s with
  | nil => rfl
  | cons a r ih => rw [List.foldl_cons, ih]; rfl

/-! ## The queue-pair record (R16, R262, R263, R266, R275) -/

/-- A commit that is rejected sends COMMIT_REJECTED with the offset of its group. -/
theorem State.rejectCommit_eq (s : State) (source off : Nat) (h : off < 2 ^ 36) :
    s.rejectCommit source off = { s with faults := { s.faults with
      inFlight := s.faults.inFlight ++ [⟨source, 0x1F, 1, off, false⟩] } } := by
  have hk : kindSeverity 0x1F = 1 := rfl
  simp only [State.rejectCommit, State.report, State.reportSev, hk, Nat.mod_eq_of_lt h]

/-- A command whose whole effect beside `s1` is a record put in place. -/
theorem makesQp_of_setQp {cmd : Instr} {s s1 : State} {q : Nat} {r : QpRec} (hq : s1.qps = s.qps)
    (h : exec cmd s = .next (s1.setQp q r)) : MakesQp cmd s s1 q r := by
  refine ⟨_, h, State.setQp_qp_self .., fun k hk => ?_, rfl⟩
  rw [State.setQp_qp_ne _ _ _ _ hk, State.qp, State.qp, hq]

/-- A commit from function 0 or the owner acts on the record. -/
theorem exec_qpCommit (s : State) (f q : Nat) (hf : f < Config.nFunctions) (hq : q < Config.nQueuePairs)
    (h : f = 0 ∨ (s.qp q).func = f) : exec (.qpCommit f q) s = .next (s.qpCommit f q) := by
  have seen : s.qpSeen f q = true := by simpa [State.qpSeen, adminFn] using h
  rw [show exec (.qpCommit f q) s = execQpCommit f q s from rfl, execQpCommit, onUnit_next _ _ _ (by simp [hf, hq]), if_pos seen]

/-- With no load and no adapter load there is none to fail. -/
theorem State.failLoads_none (s : State) (q : Nat) (ha : s.adapters = []) (hb : ∀ b, b < 8 → (s.bolt b).load = none) :
    s.failLoads q = s := by
  unfold State.failLoads
  dsimp only
  rw [foldl_eq_self (l := List.range Config.nBolts) (a := s) (h := fun b h => by rw [hb b (List.mem_range.1 h)]), ha]
  rfl

/-- What is left of a bolt's operations that came from a queue pair: they write no completion. -/
def orphaned (q : Nat) (r : BoltRec) : BoltRec :=
  { r with ops := r.ops.map (BoltOp.orphan q), tune := r.tune.map fun u => { u with fin := u.fin.orphan q } }

/-- With no adapter, `orphanOps` acts on the eight bolts alone. -/
theorem State.orphanOps_noAdapters (s : State) (q : Nat) (h : s.adapters = []) :
    (∀ b, (s.orphanOps q).bolt b = if b < 8 then orphaned q (s.bolt b) else s.bolt b) ∧
      s.orphanOps q = { s with bolts := (s.orphanOps q).bolts } := by
  have frame := State.foldl_modBolt_frame (orphaned q) (List.range Config.nBolts) s
  have bolts := State.foldl_modBolt_bolt (orphaned q) (List.range Config.nBolts) List.nodup_range s
  have e : s.orphanOps q = (List.range Config.nBolts).foldl (fun s b => s.modBolt b (orphaned q)) s := by
    have ha : ((List.range Config.nBolts).foldl (fun s b => s.modBolt b (orphaned q)) s).adapters = [] := by
      rw [frame]; exact h
    unfold orphaned at ha ⊢
    unfold State.orphanOps
    dsimp only
    rw [ha, List.map_nil, List.foldl_nil]
  rw [e]
  exact ⟨fun b => by rw [bolts b]; simp only [List.mem_range, Config.nBolts], frame⟩

/-- A pair without held completions is disabled while nothing is owed: its record is put in place, and the bolts' operations
lose their completions. -/
theorem State.disableQp_idle (s : State) (q : Nat) (r : QpRec) (hh : r.held = []) (h : NothingOwed s) :
    ∃ u : State, s.disableQp q r = u.orphanOps q ∧
      u.qp q = { r with quiesced := false, disabledAt := s.time, pend := 0 } ∧ (∀ k, k ≠ q → u.qp k = s.qp k) ∧
      u = { s with qps := u.qps } := by
  obtain ⟨hr, ha, hb⟩ := h
  have owed : ((s.reqs.map fun e => e.1).filter fun i => s.owedTo q i) = [] := by rw [hr]; rfl
  have drop : (s.setQp q { r with quiesced := false, disabledAt := s.time, pend := 0 }).dropHeld q =
      (s.setQp q { r with quiesced := false, disabledAt := s.time, pend := 0 }).modQp q fun r => { r with held := [] } := by
    simp only [State.dropHeld, State.setQp_qp_self, hh, List.foldl_nil]
  refine ⟨(s.setQp q { r with quiesced := false, disabledAt := s.time, pend := 0 }).modQp q fun r => { r with held := [] },
    ?_, ?_, fun k hk => ?_, rfl⟩
  · unfold State.disableQp
    dsimp only
    rw [owed, drop, List.foldl_nil, State.failLoads_none _ q (by exact ha) (by exact hb)]
  · rw [State.modQp_qp_self, State.setQp_qp_self]
    simp only [hh]
  · rw [State.modQp_qp_ne _ _ _ _ hk, State.setQp_qp_ne _ _ _ _ hk]

/-- A command that disables such a pair. -/
theorem disablesQp_of_disableQp {cmd : Instr} {s : State} {q : Nat} {r : QpRec} (hh : r.held = []) (ho : NothingOwed s)
    (h : exec cmd s = .next (s.disableQp q r)) :
    DisablesQp cmd s q { r with quiesced := false, disabledAt := s.time, pend := 0 } := by
  obtain ⟨u, e, self, others, rest⟩ := s.disableQp_idle q r hh ho
  have noAdapters : u.adapters = [] := by rw [rest]; exact ho.2.1
  have sameBolts (b : Nat) : u.bolt b = s.bolt b := by rw [rest]; rfl
  obtain ⟨bolts, frame⟩ := u.orphanOps_noAdapters q noAdapters
  have qps : (u.orphanOps q).qps = u.qps := by rw [frame]
  have qp (k : Nat) : (u.orphanOps q).qp k = u.qp k := by rw [State.qp, State.qp, qps]
  simp only [sameBolts, orphaned] at bolts
  refine ⟨u.orphanOps q, by rw [h, e], (qp q).trans self, fun k hk => (qp k).trans (others k hk), bolts, ?_⟩
  rw [qps]
  exact frame.trans (by rw [rest])

/-- A pair whose aggregation time has run out fires its vector (R275). -/
theorem State.moderate_timeOut (s : State) (q : Nat) (hi : cfgIrqEn (s.qp q).cfg = true) (hp : 0 < (s.qp q).pend)
    (ht : 0 < cfgAggTime (s.qp q).cfg) (hd : (s.qp q).t0 + 1000 * cfgAggTime (s.qp q).cfg ≤ s.time) :
    s.moderate q = (s.setQp q { s.qp q with pend := 0 }).sendMsix (s.qp q).func (cfgVector (s.qp q).cfg) := by
  unfold State.moderate
  exact if_pos ⟨hi, hp, .inr ⟨ht, hd⟩⟩

/-- A message of a vector that is not masked, of a function that can be written, is sent. -/
theorem State.sendMsix_open (s : State) (f v : Nat) (hm : (s.func f).masked.getLsbD v = false) (hw : (s.func f).writable = true) :
    s.sendMsix f v = { s with msix := (f, v) :: s.msix } := by
  simp [State.sendMsix, hm, hw]

/-- QP_COMMIT of one pair: rejected, enabling, keeping the enable bit, and disabling. -/
theorem qpCommit_effects (s : State) (f q : Nat) (hf : f < Config.nFunctions) (hq : q < Config.nQueuePairs)
    (hown : f = 0 ∨ (s.qp q).func = f) :
    (s.qpBad q = true → exec (.qpCommit f q) s = .next { s with faults := { s.faults with
      inFlight := s.faults.inFlight ++ [⟨0x80200 + f, 0x1F, 1, 0x010038 + 0x40 * q, false⟩] } }) ∧
    (s.qpBad q = false → (s.qp q).enabled = false → cfgEnable (s.qp q).cfgSh = true →
      MakesQp (.qpCommit f q) s s q (s.qp q).taken.started) ∧
    (s.qpBad q = false → (s.qp q).enabled = cfgEnable (s.qp q).cfgSh → MakesQp (.qpCommit f q) s s q (s.qp q).taken) ∧
    (s.qpBad q = false → (s.qp q).enabled = true → cfgEnable (s.qp q).cfgSh = false → (s.qp q).held = [] → NothingOwed s →
      DisablesQp (.qpCommit f q) s q { (s.qp q).taken with quiesced := false, disabledAt := s.time, pend := 0 }) := by
  have run := exec_qpCommit s f q hf hq hown
  simp only [QpRec.enabled]
  refine ⟨fun hb => ?_, fun hb h1 h2 => makesQp_of_setQp rfl ?_, fun hb h => makesQp_of_setQp rfl ?_,
    fun hb h1 h2 hh ho => disablesQp_of_disableQp hh ho ?_⟩
  · rw [run, State.qpCommit, if_pos hb, State.rejectCommit_eq _ _ _ (by simp only [Config.nQueuePairs] at hq; omega)]
    rfl
  · rw [run]; simp [State.qpCommit, hb, h1, h2]
  · rw [run]; simp [State.qpCommit, hb, h]
  · rw [run]; simp [State.qpCommit, hb, h1, h2]

/-- The moderation check at a whole microsecond, with one queue pair. -/
theorem irqModerationTick_fires (s : State) (q : Nat) (r : QpRec) (hqs : s.qps = [(q, r)]) (h0 : s.time % 1000 = 0)
    (hi : cfgIrqEn r.cfg = true) (hp : 0 < r.pend) (ht : 0 < cfgAggTime r.cfg)
    (hd : r.t0 + 1000 * cfgAggTime r.cfg ≤ s.time) (hm : (s.func r.func).masked.getLsbD (cfgVector r.cfg) = false)
    (hw : (s.func r.func).writable = true) :
    MakesQp .irqModerationTick s { s with msix := (r.func, cfgVector r.cfg) :: s.msix } q { r with pend := 0 } := by
  have hr : s.qp q = r := by simp [State.qp, hqs, Tab.get]
  subst hr
  have run : exec .irqModerationTick s = .next (s.moderate q) := by
    rw [show exec .irqModerationTick s = execIrqModerationTick s from rfl]
    simp [execIrqModerationTick, whenS, h0, hqs]
  refine makesQp_of_setQp rfl ?_
  rw [run, State.moderate_timeOut s q hi hp ht hd, State.sendMsix_open _ _ _ (by exact hm) (by exact hw)]
  rfl

/-- The commands on a pair that the engine has, and on a vector. -/
theorem exec_barrierRelease (s : State) (q : Nat) (hq : q < Config.nQueuePairs) :
    exec (.barrierRelease q) s = .next (s.modQp q fun r => if r.openDescs = [] then { r with barrierOk := true } else r) := by
  rw [show exec (.barrierRelease q) s = execBarrierRelease q s from rfl, execBarrierRelease, onQp,
    onUnit_next _ _ _ (decide_eq_true hq)]

theorem exec_qpQuiesced (s : State) (q : Nat) (hq : q < Config.nQueuePairs) :
    exec (.qpQuiesced q) s = .next (s.modQp q fun r => if r.enabled then r else { r with quiesced := true }) := by
  rw [show exec (.qpQuiesced q) s = execQpQuiesced q s from rfl, execQpQuiesced, onQp, onUnit_next _ _ _ (decide_eq_true hq)]

theorem exec_msixUnmask (s : State) (f v : Nat) (hf : f < Config.nFunctions) (hv : v < 64) :
    let r := s.func f
    let open_ := { r with masked := r.masked &&& ~~~BitVec.ofNat 64 (2 ^ v) }
    exec (.msixUnmask f v) s = .next (if r.pendingMsix.getLsbD v && r.writable then
      { s.setFunc f { open_ with pendingMsix := r.pendingMsix &&& ~~~BitVec.ofNat 64 (2 ^ v) } with msix := (f, v) :: s.msix }
      else s.setFunc f open_) := by
  rw [show exec (.msixUnmask f v) s = execMsixUnmask f v s from rfl, execMsixUnmask, onUnit_next _ _ _ (by simp [hf, hv])]

/-- Settles O31: each command by the lemma on its effect. -/
theorem queuePairEffects : Obligations.QueuePairEffects := by
  refine ⟨fun s q hq => ⟨fun h => ?_, fun h => ?_, fun f hf hown => qpCommit_effects s f q hf hq hown⟩,
    fun s q r => irqModerationTick_fires s q r, fun s f v hf hv => ⟨fun hp hw => ?_, fun hp => ?_⟩⟩
  · rw [exec_barrierRelease s q hq, State.modQp, if_pos h]
  · rw [exec_qpQuiesced s q hq, State.modQp, if_neg (by simp [h])]
  · rw [exec_msixUnmask s f v hf hv, if_pos (by rw [hp, hw]; rfl)]
  · rw [exec_msixUnmask s f v hf hv, if_neg (by rw [hp]; simp)]

end Sys2Proof.Machine
end

section
namespace Sys2Proof.Machine

open Sys2Proof

/-! PROOFS. Input power, PW_COMMIT and power-fail (O41). -/

/-! ## The input power sum (R353) -/

/-- Sums written as folds from 0. -/
theorem foldl_add_eq_sum {α : Type} (f : α → Nat) (l : List α) : l.foldl (fun a e => a + f e) 0 = (l.map f).sum := by
  rw [List.sum_eq_foldl, List.foldl_map]

/-- A table made from a list of keys reads what its function gives, and the default elsewhere. -/
theorem Tab.get_filterMap {α : Type} [DecidableEq α] (d : α) (g : Nat → α) (l : List Nat) (k : Nat) :
    Tab.get d (l.filterMap fun k => if g k = d then none else some (k, g k)) k = if k ∈ l then g k else d := by
  induction l with
  | nil => rfl
  | cons a r ih =>
    by_cases ha : g a = d
    · rw [List.filterMap_cons_none (by simp [ha]), ih]
      by_cases hk : k = a
      · simp [hk, ha]
      · simp [hk]
    · rw [List.filterMap_cons_some (b := (a, g a)) (by simp [ha]), Tab.get, ih]
      by_cases hk : k = a
      · simp [hk]
      · simp [hk, Ne.symm hk]

/-- A change of every skein: a table in which each of them is changed, and nothing else. -/
theorem State.mapSkeins_eq (s : State) (f : SkeinRec → SkeinRec) :
    ∃ l, s.mapSkeins f = { s with skeins := l } ∧ ∀ k, k < Config.nSkeins → Tab.get {} l k = f (s.skein k) := by
  refine ⟨_, rfl, fun k h => ?_⟩
  rw [Tab.get_filterMap {} fun k => f (s.skein k), if_pos]
  exact List.mem_range.2 h

theorem State.vcoreSum_eq (s : State) : s.vcoreSum = (s.skeins.map fun e => e.2.current * e.2.voltage).sum :=
  foldl_add_eq_sum _ _
theorem State.varrSum_eq (s : State) : s.varrSum = (s.fields.map fun e => e.2.vaCurrent * e.2.vaVoltage).sum :=
  foldl_add_eq_sum _ _
theorem State.auxSum_eq (s : State) : s.auxSum = (s.power.aux.map fun e => 10 * e.2.1 * e.2.2).sum :=
  foldl_add_eq_sum _ _

/-- The total input power in 10 µW, and the limit that it is held to, in W. -/
def State.inputTotal (s : State) : Nat := s.vcoreSum + s.varrSum + s.auxSum
def State.inputCap (s : State) : Nat := Config.inputLimit s.configCode

/-- The power record with the sums that PW_INPUT shows. -/
def State.summed (s : State) : PowerRec :=
  { s.power with
    totalW := min (s.inputTotal / 100000) (2 ^ 20 - 1), vcoreW := min (s.vcoreSum / 100000) (2 ^ 20 - 1)
    varrW := min (s.varrSum / 100000) 4095, otherW := min (s.auxSum / 100000) 4095 }

/-- A sum within the limit ends the run of sums above it. -/
theorem State.inputPowerSum_within (s : State) (h : s.inputTotal ≤ 100000 * s.inputCap) :
    s.inputPowerSum = { s with power := { s.summed with
      overSums := 0, inputClamp := s.power.inputClamp && decide (95000 * s.inputCap ≤ s.inputTotal) } } := by
  have above : ¬ 100000 * s.inputCap < s.inputTotal := Nat.not_lt.2 h
  simp only [State.inputTotal, State.inputCap] at above
  simp [State.inputPowerSum, above, State.setPower, State.summed, State.inputTotal, State.inputCap]
  rfl

/-- A sum above the limit that is not yet the tenth is counted. -/
theorem State.inputPowerSum_counts (s : State) (h : 100000 * s.inputCap < s.inputTotal) (hc : s.power.inputClamp = false)
    (hn : s.power.overSums < 9) :
    s.inputPowerSum = { s with power := { s.summed with overSums := s.power.overSums + 1 } } := by
  have few : ¬ 10 ≤ s.power.overSums + 1 := by omega
  simp only [State.inputTotal, State.inputCap] at h
  simp [State.inputPowerSum, h, few, hc, State.setPower, State.summed, State.inputTotal]

/-- The tenth sum in a row above the limit scales every skein's clamp and is reported. -/
theorem State.inputPowerSum_clamps (s : State) (h : 100000 * s.inputCap < s.inputTotal) (hc : s.power.inputClamp = false)
    (hn : s.power.overSums = 9) :
    ∃ l, (∀ k, k < Config.nSkeins → Tab.get {} l k =
        { s.skein k with kappaP := (s.skein k).kappaP * 100000 * s.inputCap / s.inputTotal }) ∧
      s.inputPowerSum = { s with
        skeins := l
        power := { s.summed with overSums := 10, inputClamp := true }
        faults := { s.faults with inFlight := s.faults.inFlight ++ [⟨0x80702, 0x06, 1, 2 ^ 35, false⟩] } } := by
  have sev : kindSeverity 0x06 = 1 := rfl
  have e : s.inputPowerSum = (((s.setPower { s.summed with overSums := 10, inputClamp := false }).mapSkeins
      fun r => { r with kappaP := r.kappaP * 100000 * s.inputCap / s.inputTotal }).setPower
        { s.summed with overSums := 10, inputClamp := true }).report srcPower 0x06 (2 ^ 35) := by
    simp only [State.inputTotal, State.inputCap] at h
    simp [State.inputPowerSum, h, hc, hn, State.summed, State.inputTotal, State.inputCap]
  obtain ⟨l, hl, get⟩ := State.mapSkeins_eq (s.setPower { s.summed with overSums := 10, inputClamp := false })
    fun r => { r with kappaP := r.kappaP * 100000 * s.inputCap / s.inputTotal }
  exact ⟨l, get, by rw [e, hl, State.report, sev]; rfl⟩

/-! ## PD_CTRL words (R17, R347) -/

theorem wordVal_lt (w : Word) : wordVal w < 2 ^ 32 := Nat.mod_lt _ (by decide)

/-- A word that its complement vouches for is made of its value. -/
theorem withInv_wordVal (w : Word) (h : wordBad w = false) : withInv (wordVal w) = w := by
  have hb : bits w.toNat 32 32 = compl 32 (wordVal w) := by simpa [wordBad] using h
  have hw := w.isLt
  apply BitVec.eq_of_toNat_eq
  simp only [withInv, compl, BitVec.toNat_ofNat, Nat.shiftLeft_eq, wordVal, bits, Nat.shiftRight_eq_div_pow] at hb ⊢
  omega

theorem withInv_toNat (v : Nat) : (withInv v).toNat = v % 2 ^ 32 + (2 ^ 32 - 1 - v % 2 ^ 32) * 2 ^ 32 := by
  simp only [withInv, compl, BitVec.toNat_ofNat, Nat.shiftLeft_eq]
  exact Nat.mod_eq_of_lt (by omega)

/-- A value with its complement is never bad. -/
theorem wordBad_withInv (v : Nat) : wordBad (withInv v) = false := by
  have low : wordVal (withInv v) = v % 2 ^ 32 := by
    rw [wordVal, withInv_toNat, bits, Nat.shiftRight_zero, Nat.add_mul_mod_self_right, Nat.mod_mod]
  have high : bits (withInv v).toNat 32 32 = 2 ^ 32 - 1 - v % 2 ^ 32 := by
    rw [withInv_toNat, bits, Nat.shiftRight_eq_div_pow, Nat.add_mul_div_right _ _ (by decide)]
    omega
  rw [wordBad, low, high, compl, Nat.mod_mod]
  simp

/-- The skein of a field's domain is the one that has it (R343). -/
theorem skeinOfDomain_domainOf (k : Nat) : skeinOfDomain (fieldOfSkein k) (domainOf k) = k := by
  simp only [skeinOfDomain, fieldOfSkein, domainOf, skeinX, skeinY]
  omega

theorem domainOf_lt (k : Nat) : domainOf k < 96 := by
  simp only [domainOf, skeinX, skeinY]
  omega

theorem pdCode_lt (w : Word) : pdCode w < 512 := Nat.mod_lt _ (by decide)

/-- A SET_V payload as a number. -/
theorem trdSetV_toNat (d c : Nat) (hd : d < 96) (hc : c < 512) :
    (trdSetV d c).toNat = 1 + d * 2 ^ 8 + c * 2 ^ 16 + (511 - c) * 2 ^ 32 := by
  simp only [trdSetV, trdWord, opSetV, compl, BitVec.toNat_ofNat, Nat.shiftLeft_eq]
  rw [Nat.mod_eq_of_lt (b := 2 ^ 9) hc, Nat.mod_eq_of_lt (by omega)]
  omega

theorem trdOp_trdSetV (d c : Nat) (hd : d < 96) (hc : c < 512) : trdOp (trdSetV d c) = opSetV := by
  simp only [trdOp, trdSetV_toNat d c hd hc, bits, Nat.shiftRight_eq_div_pow, opSetV]
  omega

theorem trdDomain_trdSetV (d c : Nat) (hd : d < 96) (hc : c < 512) : trdDomain (trdSetV d c) = d := by
  simp only [trdDomain, trdSetV_toNat d c hd hc, bits, Nat.shiftRight_eq_div_pow]
  omega

/-- A SET_V payload as it is sent, with its sequence number. -/
theorem trdSetV_numbered (d c n : Nat) (hd : d < 96) (hc : c < 512) :
    BitVec.ofNat 64 (setBits (trdSetV d c).toNat 4 4 n) =
      BitVec.ofNat 64 (1 + ((n % 16) <<< 4) + (d <<< 8) + (c <<< 16) + ((511 - c) <<< 32)) := by
  simp only [trdSetV_toNat d c hd hc, setBits, bits, Nat.shiftRight_eq_div_pow, Nat.shiftLeft_eq]
  congr 1
  omega

/-! ## What goes down a lane (R345, R347) -/

/-- The first command of a lane that is up with none outstanding is sent, where no bad pair holds it. -/
theorem State.trdNext_sends (s : State) (f : Nat) (p : Word) (rest : List Word) (hc : (s.field f).cmd = none)
    (hq : (s.field f).cmdQueue = p :: rest) (hl : (s.field f).laneState = 1) (hb : s.headBad f = false) :
    let w := BitVec.ofNat 64 (setBits p.toNat 4 4 (s.field f).cmdSeq)
    s.trdNext f = s.setField f { s.field f with
      cmd := some (w, 1, s.time), cmdQueue := rest, cmdSeq := ((s.field f).cmdSeq + 1) % 16, sent := (s.field f).sent ++ [w] } := by
  have good : s.trdCheck f = s := by simp [State.trdCheck, hc, hq, hb]
  simp [State.trdNext, good, State.trdPump, hc, hq, hb, hl]

/-- A command for a lane that is idle and up is sent at once, with the lane's next sequence number, where its skein's PD_CTRL
pair is good. -/
theorem State.trdSend_idle (s : State) (f : Nat) (p : Word) (hc : (s.field f).cmd = none) (hq : (s.field f).cmdQueue = [])
    (hl : (s.field f).laneState = 1) (hg : wordBad (s.skein (skeinOfDomain f (trdDomain p))).ctrl = false) :
    let w := BitVec.ofNat 64 (setBits p.toNat 4 4 (s.field f).cmdSeq)
    (s.trdSend f p).field f = { s.field f with
      cmd := some (w, 1, s.time), cmdSeq := ((s.field f).cmdSeq + 1) % 16, sent := (s.field f).sent ++ [w] } ∧
    (∀ g, g ≠ f → (s.trdSend f p).field g = s.field g) ∧ s.trdSend f p = { s with fields := (s.trdSend f p).fields } := by
  intro w
  have head : (s.setField f { s.field f with cmdQueue := [p] }).headBad f = false := by
    simp [State.headBad, hg]
  have sent := State.trdNext_sends (s.setField f { s.field f with cmdQueue := [p] }) f p [] (by simpa using hc) (by simp)
    (by simpa using hl) head
  have e : s.trdSend f p = (s.setField f { s.field f with cmdQueue := [p] }).trdNext f := by
    simp only [State.trdSend, hq, List.nil_append, if_true]
  rw [e, sent]
  refine ⟨?_, fun g hg => ?_, rfl⟩
  · simp [hq, w]
  · rw [State.setField_field_ne _ _ _ _ hg, State.setField_field_ne _ _ _ _ hg]

/-! ## PW_COMMIT (R347) -/

/-- A commit of a writer that the engine has acts where it may, and is counted as a bad access where not. -/
theorem exec_pwCommit (s : State) (w : Writer) (h : writerUnit w = true) :
    exec (.pwCommit w) s = .next (if s.mayCommit w then s.pwCommit w else s.refuseAccess) := by
  rw [show exec (.pwCommit w) s = execPwCommit w s from rfl, execPwCommit, onUnit_next _ _ _ h]

theorem exec_pwCommit_harness (s : State) (h : Nat) (hh : h < Config.nHarness) :
    exec (.pwCommit (.harness h)) s = .next (s.pwCommit (.harness h)) := by
  rw [exec_pwCommit s _ (by simpa [writerUnit] using hh), State.mayCommit, if_pos rfl]

/-- A commit where one skein is listed and its pair has changed and is good. -/
theorem State.pwCommit_one (s : State) (w : Writer) (k : Nat) (x : SkeinRec) (hs : s.skeins = [(k, x)])
    (hg : pdRefused x.ctrlSh = false) (hne : x.ctrlSh ≠ x.ctrl) : s.pwCommit w = s.commitCtrl k (wordVal x.ctrlSh) := by
  simp [State.pwCommit, hs, hg, hne]

/-- Outside a turn-on a committed pair takes effect at once. -/
theorem State.commitCtrl_noTurnOn (s : State) (k v : Nat) (h : (s.skein k).turnOnAt = none) :
    s.commitCtrl k v = s.applyCtrl k v := by
  simp [State.commitCtrl, h]

/-- A committed pair of a stage that is on, with its slew as before: the record `r`, and a SET_V where the code changes. -/
theorem State.applyCtrl_enabled (s : State) (k : Nat) (w : Word) (r : SkeinRec) (hw : wordBad w = false)
    (hd : (s.skein k).dead = false) (hq : (s.skein k).turnOnReq = none) (he : pdEnable w = true)
    (ho : pdEnable (s.skein k).ctrl = true) (hs : pdSlew w = pdSlew (s.skein k).ctrl)
    (hr : r = { (s.skein k).setCtrl (wordVal w) with
      heldCtrl := none, turnOnReq := if pdLogic w && !pdLogic (s.skein k).ctrl then some s.time else none }) :
    s.applyCtrl k (wordVal w) = if pdCode w ≠ pdCode (s.skein k).ctrl then
      (s.setSkein k r).trdSend (fieldOfSkein k) (trdSetV (domainOf k) (pdCode w)) else s.setSkein k r := by
  simp [State.applyCtrl, withInv_wordVal w hw, hd, hq, he, ho, hs, hr]

/-- The commit of the one skein listed, from a harness core, outside a turn-on. -/
theorem exec_pwCommit_one (s : State) (k h : Nat) (x : SkeinRec) (hh : h < Config.nHarness) (hs : s.skeins = [(k, x)])
    (hb : wordBad x.ctrlSh = false) (h1 : 220 ≤ pdCode x.ctrlSh) (h2 : pdCode x.ctrlSh ≤ 352)
    (ht : x.turnOnAt = none) (hne : x.ctrlSh ≠ x.ctrl) :
    exec (.pwCommit (.harness h)) s = .next (s.applyCtrl k (wordVal x.ctrlSh)) := by
  have hx : s.skein k = x := by simp [State.skein, hs, Tab.get]
  have good : pdRefused x.ctrlSh = false := by simp [pdRefused, hb, h1, h2]
  rw [exec_pwCommit_harness s h hh, State.pwCommit_one s _ k x hs good hne, State.commitCtrl_noTurnOn s k _ (by rw [hx]; exact ht)]

/-- A commit that closes the switches requests a turn-on. -/
theorem pwCommit_requestsTurnOn (s : State) (k h : Nat) (x : SkeinRec) (hh : h < Config.nHarness) (hs : s.skeins = [(k, x)])
    (hb : wordBad x.ctrlSh = false) (ht : x.turnOnAt = none) (hd : x.dead = false) (hr : x.turnOnReq = none)
    (he : pdEnable x.ctrlSh = true) (ho : pdEnable x.ctrl = true) (hsl : pdSlew x.ctrlSh = pdSlew x.ctrl)
    (h1 : 220 ≤ pdCode x.ctrlSh) (h2 : pdCode x.ctrlSh ≤ 352) (hc : pdCode x.ctrlSh = pdCode x.ctrl)
    (hl : pdLogic x.ctrl = false) (hl' : pdLogic x.ctrlSh = true) :
    exec (.pwCommit (.harness h)) s = .next (s.setSkein k
      { x.setCtrl (wordVal x.ctrlSh) with heldCtrl := none, turnOnReq := some s.time }) := by
  have hx : s.skein k = x := by simp [State.skein, hs, Tab.get]
  have hne : x.ctrlSh ≠ x.ctrl := fun e => by rw [e, hl] at hl'; cases hl'
  rw [exec_pwCommit_one s k h x hh hs hb h1 h2 ht hne, State.applyCtrl_enabled s k x.ctrlSh _ hb (by rw [hx]; exact hd)
    (by rw [hx]; exact hr) he (by rw [hx]; exact ho) (by rw [hx]; exact hsl) rfl]
  simp [hx, hc, hl, hl']

/-- A commit that changes the code sends SET_V with the code and its complement. -/
theorem pwCommit_sendsSetV (s : State) (k h : Nat) (x : SkeinRec) (hh : h < Config.nHarness) (hs : s.skeins = [(k, x)])
    (hb : wordBad x.ctrlSh = false) (ht : x.turnOnAt = none) (hd : x.dead = false) (hr : x.turnOnReq = none)
    (he : pdEnable x.ctrlSh = true) (ho : pdEnable x.ctrl = true) (hsl : pdSlew x.ctrlSh = pdSlew x.ctrl)
    (h1 : 220 ≤ pdCode x.ctrlSh) (h2 : pdCode x.ctrlSh ≤ 352) (hc : pdCode x.ctrlSh ≠ pdCode x.ctrl)
    (hl : pdLogic x.ctrl = pdLogic x.ctrlSh) (hcmd : (s.field (fieldOfSkein k)).cmd = none)
    (hq : (s.field (fieldOfSkein k)).cmdQueue = []) (hst : (s.field (fieldOfSkein k)).laneState = 1) :
    let f := fieldOfSkein k
    let q := s.field f
    let word := BitVec.ofNat 64 (1 + ((q.cmdSeq % 16) <<< 4) + (domainOf k <<< 8) + (pdCode x.ctrlSh <<< 16) +
      ((511 - pdCode x.ctrlSh) <<< 32))
    ∃ t, exec (.pwCommit (.harness h)) s = .next t ∧
      t.field f = { q with cmd := some (word, 1, s.time), cmdSeq := (q.cmdSeq + 1) % 16, sent := q.sent ++ [word] } ∧
      (∀ g, g ≠ f → t.field g = s.field g) ∧
      t = { s.setSkein k { x.setCtrl (wordVal x.ctrlSh) with heldCtrl := none } with fields := t.fields } := by
  intro f q word
  have hx : s.skein k = x := by simp [State.skein, hs, Tab.get]
  have hne : x.ctrlSh ≠ x.ctrl := fun e => hc (by rw [e])
  obtain ⟨r, hrec⟩ : ∃ r, r = { x.setCtrl (wordVal x.ctrlSh) with heldCtrl := none } := ⟨_, rfl⟩
  have record : r = { (s.skein k).setCtrl (wordVal x.ctrlSh) with
      heldCtrl := none, turnOnReq := if pdLogic x.ctrlSh && !pdLogic (s.skein k).ctrl then some s.time else none } := by
    have noReq : (if pdLogic x.ctrlSh && !pdLogic x.ctrl then some s.time else none) = x.turnOnReq := by rw [hl, hr]; simp
    rw [hrec, hx, noReq, SkeinRec.setCtrl]
  have ctrl : r.ctrl = withInv (wordVal x.ctrlSh) := by rw [hrec]; rfl
  have hdom := domainOf_lt k
  have hcode := pdCode_lt x.ctrlSh
  have good : wordBad ((s.setSkein k r).skein
      (skeinOfDomain f (trdDomain (trdSetV (domainOf k) (pdCode x.ctrlSh))))).ctrl = false := by
    rw [trdDomain_trdSetV _ _ hdom hcode, skeinOfDomain_domainOf, State.setSkein_skein_self, ctrl, wordBad_withInv]
  have sent := State.trdSend_idle (s.setSkein k r) f (trdSetV (domainOf k) (pdCode x.ctrlSh)) (by simpa using hcmd)
    (by simpa using hq) (by simpa using hst) good
  simp only [trdSetV_numbered _ _ _ hdom hcode, State.setSkein_unit_field, State.setSkein_time] at sent
  rw [← hrec]
  refine ⟨_, ?_, sent⟩
  rw [exec_pwCommit_one s k h x hh hs hb h1 h2 ht hne, State.applyCtrl_enabled s k x.ctrlSh r hb (by rw [hx]; exact hd)
    (by rw [hx]; exact hr) he (by rw [hx]; exact ho) (by rw [hx]; exact hsl) record, hx, if_pos hc]

/-! ## Power-fail (R357, R397) -/

theorem State.halt_first (s : State) (cat : Nat) (h : s.faults.halted = none) :
    s.halt cat = { s with faults := { s.faults with halted := some cat }, boot := { s.boot with aliveOn := false } } := by
  simp only [State.halt, h]

/-- A failure after boot ends no boot. -/
theorem State.bootFail_ready (s : State) (n : Nat) (h : s.ready = true) : s.bootFail n = s := by
  have done : s.boot.stage = 6 ∨ s.boot.stage = 8 := by simpa [State.ready] using h
  exact if_neg (by omega)

/-- The final record where no fatal message waits: it goes to the slot that does not hold the newest one. -/
theorem State.ledgerStore_final (s : State) (h : s.ledger.pendingFatal = []) :
    let m := s.ledger
    let tot := { m.totals with seq := m.totals.seq + 1 }
    let stored : LedgerSlot := ⟨some ({ tot with powerOnS := s.powerOnS }, true)⟩
    let onA := decide (slotSeq m.slotA ≤ slotSeq m.slotB)
    s.ledgerStore true true = { s with ledger := { m with
      totals := tot, writeFail := false, slotA := if onA then stored else m.slotA, slotB := if onA then m.slotB else stored } } := by
  by_cases hlt : slotSeq s.ledger.slotB < slotSeq s.ledger.slotA
  · have hle : ¬ slotSeq s.ledger.slotA ≤ slotSeq s.ledger.slotB := Nat.not_le.2 hlt
    simp [State.ledgerStore, h, LedgerRec.takeFatal, hlt, hle]
  · have hle : slotSeq s.ledger.slotA ≤ slotSeq s.ledger.slotB := Nat.not_lt.1 hlt
    simp [State.ledgerStore, h, LedgerRec.takeFatal, hlt, hle]

/-- The power-fail of an engine that is ready, not halted and has no fatal message waiting. -/
theorem State.powerFail_ready (s : State) (hr : s.ready = true) (hh : s.faults.halted = none)
    (hf : s.ledger.pendingFatal = []) :
    let m := s.ledger
    let tot := { m.totals with powerFails := min (m.totals.powerFails + 1) (2 ^ 32 - 1), seq := m.totals.seq + 1 }
    let stored : LedgerSlot := ⟨some ({ tot with powerOnS := s.powerOnS }, true)⟩
    let onA := decide (slotSeq m.slotA ≤ slotSeq m.slotB)
    ∃ l, (∀ k, k < Config.nSkeins → Tab.get {} l k = { s.skein k with kappaP := 0, turnOnReq := none }) ∧
      s.powerFail = { s with
      skeins := l
      power := { s.power with pfSeen := true }, boot := { s.boot with aliveOn := false }
      ledger := { m with
        totals := tot, writeFail := false, slotA := if onA then stored else m.slotA, slotB := if onA then m.slotB else stored }
      faults := { s.faults with
        halted := some 4, inFlight := s.faults.inFlight ++ [⟨0x80702, 0x1E, 3, 0, false⟩] } } := by
  obtain ⟨l, hl, get⟩ := s.mapSkeins_eq fun r => { r with kappaP := 0, turnOnReq := none }
  refine ⟨l, get, ?_⟩
  unfold State.powerFail
  dsimp only
  rw [hl, State.ledgerStore_final _ (by exact hf), State.bootFail_ready _ _ (by unfold State.ready at hr ⊢; exact hr),
    State.halt_first _ _ (by exact hh)]
  rfl

/-- Settles O41: the sums and the power-fail by the lemmas on their cases, PW_COMMIT by those on its record and its SET_V. -/
theorem powerEffects : Obligations.PowerEffects := by
  refine ⟨fun s => ?_, fun s k h x hh hk hs => ⟨fun hb => ?_, fun hb ht hd hr he ho hsl h1 h2 => ⟨?_, ?_⟩⟩, fun s g hg hg' => ?_,
    fun s hp hr hh hf => ?_⟩
  · have run : exec .inputPowerSum s = .next s.inputPowerSum := rfl
    dsimp only
    rw [← State.vcoreSum_eq, ← State.varrSum_eq, ← State.auxSum_eq]
    refine ⟨fun h => run.trans (congrArg _ (s.inputPowerSum_within h)),
      fun h hc hn => run.trans (congrArg _ (s.inputPowerSum_counts h hc hn)), fun h hc hn => ?_⟩
    obtain ⟨l, get, e⟩ := s.inputPowerSum_clamps h hc hn
    exact ⟨_, run.trans (congrArg _ e), get, rfl⟩
  · have bad : pdRefused x.ctrlSh = true := by simp [pdRefused, hb]
    rw [exec_pwCommit_harness s h hh, State.pwCommit, if_pos (by simp [hs, bad]), State.rejectCommit_eq _ _ _ (by decide)]
    rfl
  · exact fun hc hl hl' => pwCommit_requestsTurnOn s k h x hh hs hb ht hd hr he ho hsl h1 h2 hc hl hl'
  · exact fun hc hl hcmd hq hst => pwCommit_sendsSetV s k h x hh hs hb ht hd hr he ho hsl h1 h2 hc hl hcmd hq hst
  · have no : s.mayCommit (.host g) = false := by simp [State.mayCommit, adminFn, Nat.pos_iff_ne_zero.1 hg]
    rw [exec_pwCommit s _ (by simpa [writerUnit] using hg'), no]
    rfl
  · have run : exec .powerFail s = .next s.powerFail := by
      rw [show exec .powerFail s = execPowerFail s from rfl, execPowerFail, whenS, if_pos (by simp [hp])]
    obtain ⟨l, get, e⟩ := s.powerFail_ready hr hh hf
    exact ⟨_, run.trans (congrArg _ e), get, rfl⟩

end Sys2Proof.Machine
end

section
namespace Sys2Proof.Machine

open Sys2Proof

/-! PROOFS. Fields within fields, and the exchange-RAM mailbox. -/

/-! ## Fields within fields -/

/-- A bit, by its number. -/
theorem bitAt_eq_testBit (w i : Nat) : bitAt w i = w.testBit i := by
  rw [bitAt, Nat.testBit_eq_decide_div_mod_eq, Nat.shiftRight_eq_div_pow, beq_eq_decide]

/-- A field of a field. -/
theorem bits_bits (w a m b n : Nat) (h : b + n ≤ m) : bits (bits w a m) b n = bits w (a + b) n := by
  apply Nat.eq_of_testBit_eq
  intro i
  simp only [bits, Nat.testBit_mod_two_pow, Nat.testBit_shiftRight]
  by_cases hi : i < n
  · simp [hi, show b + i < m by omega, Nat.add_assoc]
  · simp [hi]

/-- A bit of a field. -/
theorem bitAt_bits (w a m b : Nat) (h : b < m) : bitAt (bits w a m) b = bitAt w (a + b) := by
  simp [bitAt_eq_testBit, bits, Nat.testBit_mod_two_pow, Nat.testBit_shiftRight, h]

/-! ## The mailbox's words (R280) -/

/-- The bytes of a number give it back. -/
theorem leNat_leBytes (n v : Nat) : leNat (leBytes n v) = v % 2 ^ (8 * n) := by
  induction n generalizing v with
  | zero => simp [leBytes, leNat, Nat.mod_one]
  | succ n ih =>
    rw [leBytes, leNat, ih, BitVec.toNat_ofNat, Nat.mul_succ, Nat.add_comm (8 * n) 8, Nat.pow_add, Nat.mod_mul]

/-- A number reads as before where other bytes were written. -/
theorem readBytes_writeBytes_out (l : List Byte) (m : List Host.Cell) (a : Nat) (n : Nat) :
    ∀ b, b + n ≤ a ∨ a + l.length ≤ b → readBytes (writeBytes m a l) b n = readBytes m b n := by
  induction n with
  | zero => intro b _; rfl
  | succ n ih =>
    intro b h
    rw [readBytes, readBytes, readByte_writeBytes_out l m a b (by omega), ih (b + 1) (by omega)]

theorem readLE_writeBytes_out (l : List Byte) (m : List Host.Cell) (a b n : Nat) (h : b + n ≤ a ∨ a + l.length ≤ b) :
    readLE (writeBytes m a l) b n = readLE m b n := by
  rw [readLE, readLE, readBytes_writeBytes_out l m a n b h]

/-- A number written reads back. -/
theorem readLE_writeBytes_leBytes (m : List Host.Cell) (a n v : Nat) :
    readLE (writeBytes m a (leBytes n v)) a n = v % 2 ^ (8 * n) := by
  have read := readBytes_writeBytes (leBytes n v) m a
  rw [leBytes_length] at read
  rw [readLE, read, leNat_leBytes]

theorem seqWord_eq_mailSeq (n : Nat) : seqWord n = mailSeq n := rfl

theorem mailSeq_lt (n : Nat) : mailSeq n < 2 ^ 64 := by
  unfold mailSeq
  rw [Nat.shiftLeft_eq]
  omega

theorem mailSeq_mod (n : Nat) : mailSeq n % 2 ^ 32 = n % 2 ^ 32 := by
  unfold mailSeq
  rw [Nat.shiftLeft_eq, Nat.add_mul_mod_self_right, Nat.mod_mod]

/-- A sequence word is that of the number's low half. -/
theorem mailSeq_low (v : Nat) : mailSeq (v % 2 ^ 32) = mailSeq v := by
  unfold mailSeq
  rw [Nat.mod_mod]

/-- Once ready, firmware serves each command. -/
theorem State.mailHear_ready (s : State) (seq : Nat) (rom : Bool) (serve : State → State) (h : s.ready = true) :
    s.mailHear seq rom serve = serve s := if_pos h

/-- A write whose result is the memory `m`: the H2E word that stands then decides whether a command is taken. -/
theorem State.xramWrite_eq (s : State) (off : Nat) (b : List Byte) (m : List Host.Cell) (hm : writeBytes s.xram off b = m) :
    s.xramWrite off b = if readLE m 0 8 = mailSeq (readLE m 0 8) ∧ readLE m 0 8 ≠ readLE s.xram 0 8 ∧
        readLE m 0x10000 8 ≠ readLE m 0 8 ∧ s.boot.writeWaits ≠ some (readLE m 0 8 % 2 ^ 32) then
      ({ s with xram := m } : State).mailTake (readLE m 0 8 % 2 ^ 32) else { s with xram := m } := by
  subst hm
  rw [← mailSeq_low, ← seqWord_eq_mailSeq]
  rfl

/-- A write that leaves H2E as it was, or gives it a bad complement, rings nothing. -/
theorem State.xramWrite_quiet (s : State) (off : Nat) (b : List Byte) (m : List Host.Cell) (hm : writeBytes s.xram off b = m)
    (h : readLE m 0 8 = readLE s.xram 0 8 ∨ readLE m 0 8 ≠ mailSeq (readLE m 0 8)) :
    s.xramWrite off b = { s with xram := m } := by
  rw [s.xramWrite_eq off b m hm, if_neg]
  rintro ⟨good, new, -, -⟩
  exact h.elim new fun bad => bad good

/-- A new H2E word with a good complement is taken, where no answer bears its number. -/
theorem State.xramWrite_rings (s : State) (n : Nat) (m : List Host.Cell) (hm : writeBytes s.xram 0 (leBytes 8 (mailSeq n)) = m)
    (hn : n < 2 ^ 32) (hold : readLE s.xram 0 8 ≠ mailSeq n) (hans : readLE s.xram 0x10000 8 ≠ mailSeq n)
    (hw : s.boot.writeWaits ≠ some n) :
    s.xramWrite 0 (leBytes 8 (mailSeq n)) = ({ s with xram := m } : State).mailTake n := by
  have word : readLE m 0 8 = mailSeq n := by
    rw [← hm, readLE_writeBytes_leBytes, Nat.mod_eq_of_lt (mailSeq_lt n)]
  have answer : readLE m 0x10000 8 = readLE s.xram 0x10000 8 := by
    rw [← hm, readLE_writeBytes_out _ _ _ _ _ (.inr (by rw [leBytes_length]; decide))]
  have low : mailSeq n % 2 ^ 32 = n := by rw [mailSeq_mod, Nat.mod_eq_of_lt hn]
  rw [s.xramWrite_eq _ _ m hm, word, answer, low, if_pos]
  exact ⟨(congrArg mailSeq low).symm.trans (mailSeq_low _), hold.symm, hans, hw⟩

/-- An unknown code is answered with status 1. -/
theorem State.mailTake_unknown (s : State) (m : List Host.Cell) (n : Nat) (hr : s.ready = true)
    (hc : bits (readLE m 8 8) 0 8 = 0 ∨ 5 < bits (readLE m 8 8) 0 8) :
    ({ s with xram := m } : State).mailTake n = { s with xram := replied m n 1 [] } := by
  have noLength : mailLength (bits (readLE m 8 8) 0 8) = none := by
    rcases hc with hc | hc
    · rw [hc]; rfl
    · obtain ⟨j, hj⟩ := Nat.exists_eq_add_of_lt hc
      rw [hj, show 5 + j + 1 = j + 6 by omega]; rfl
  unfold State.mailTake
  dsimp only
  rw [noLength]
  exact State.mailHear_ready { s with xram := m } n true _ hr

/-- READ_LEDGER with a payload is answered with status 2, and without one with the record. -/
theorem State.mailTake_ledger (s : State) (m : List Host.Cell) (n : Nat) (hr : s.ready = true)
    (hc : bits (readLE m 8 8) 0 8 = 1) :
    ({ s with xram := m } : State).mailTake n = { s with
      xram := if bits (readLE m 8 8) 16 24 = 0 then replied m n 0 s.ledgerNow else replied m n 2 [] } := by
  have ready : ({ s with xram := m } : State).ready = true := hr
  unfold State.mailTake
  dsimp only
  rw [hc]
  by_cases hl : bits (readLE m 8 8) 16 24 = 0
  · simp only [mailLength, hl, if_true, State.mailHear_ready _ n _ _ ready]
    rfl
  · simp only [mailLength, hl, if_false, State.mailHear_ready _ n _ _ ready]
    rfl

end Sys2Proof.Machine
end

section
namespace Sys2Proof.Machine

open Sys2Proof

/-! PROOFS. Register writes and reads (O46). -/

/-! ## REGISTER_WRITE and reads of BAR0 (R420, R421, R428) -/

theorem exec_registerWrite (s : State) (f : Nat) (a : FuncAddr) (size : Nat) (v : BitVec 512) (hf : f < Config.nFunctions) :
    exec (.registerWrite f a size v) s = .next (s.spaceWrite f a.space a.off size v) := by
  rw [show exec (.registerWrite f a size v) s = execRegisterWrite f a size v s from rfl, execRegisterWrite, onFunc,
    onUnit_next _ _ _ (by simpa using hf)]

theorem exec_rcRegisterRead (s : State) (f : Nat) (a : FuncAddr) (size : Nat) (hf : f < Config.nFunctions) :
    exec (.rcRegisterRead f a size) s = .next (s.spaceRead f a.space a.off size) := by
  rw [show exec (.rcRegisterRead f a size) s = execRcRegisterRead f a size s from rfl, execRcRegisterRead, onFunc,
    onUnit_next _ _ _ (by simpa using hf)]

/-- An access that is refused is counted. -/
theorem State.refuseAccess_eq (s : State) : s.refuseAccess = { s with badAccess := min (s.badAccess + 1) 65535 } := rfl

/-- A write of another size or alignment is refused. -/
theorem State.regWriteAll_refused (s : State) (f off size : Nat) (v : BitVec 512)
    (h : off % 8 ≠ 0 ∨ size % 8 ≠ 0 ∨ size = 0 ∨ 64 < size) : s.regWriteAll f off size v = s.refuseAccess :=
  if_neg (by omega)

/-- A read of another size or alignment is refused. -/
theorem State.regRead_refused (s : State) (f off size : Nat) (h8 : ¬(size = 8 ∧ off % 8 = 0)) (h4 : ¬(size = 4 ∧ off % 4 = 0)) :
    s.regRead f off size = s.readZero :=
  if_neg (fun h => h.elim h8 h4)

/-- An aligned write of 8 bytes, and of 16: one or two registers. -/
theorem State.regWriteAll_eight (s : State) (f off : Nat) (v : BitVec 512) (h : off % 8 = 0) :
    s.regWriteAll f off 8 v = s.regStore f off (bits v.toNat 0 64) := by
  rw [State.regWriteAll, if_pos ⟨h, rfl, by decide, by decide⟩]
  rfl

theorem State.regWriteAll_sixteen (s : State) (f off : Nat) (v : BitVec 512) (h : off % 8 = 0) :
    s.regWriteAll f off 16 v = (s.regStore f off (bits v.toNat 0 64)).regStore f (off + 8) (bits v.toNat 64 64) := by
  rw [State.regWriteAll, if_pos ⟨h, rfl, by decide, by decide⟩]
  rfl

/-- A write of a register in the function's view, and of one that is not. -/
theorem State.regStore_seen (s : State) (f off v : Nat) (r : Reg) (ha : regAt off = some r) (hs : s.regSeen f r = true) :
    s.regStore f off v = s.regWrite f v r := by
  simp only [State.regStore, ha, hs, if_true]

theorem State.regStore_unseen (s : State) (f off v : Nat) (r : Reg) (ha : regAt off = some r) (hs : s.regSeen f r = false) :
    s.regStore f off v = s.refuseAccess := by
  simp [State.regStore, ha, hs]

/-- A whole read of a register in view, a half read of one, and a read of one that is not in view. -/
theorem State.regRead_whole (s : State) (f off : Nat) (r : Reg) (h : off % 8 = 0) (ha : regAt off = some r)
    (hs : s.regSeen f r = true) :
    s.regRead f off 8 = { s.regClear r with lastRead := BitVec.ofNat 64 (s.regValue f r) } := by
  simp [State.regRead, h, ha, hs]

theorem State.regRead_half (s : State) (f off : Nat) (r : Reg) (h : off % 4 = 0) (ha : regAt (off - off % 8) = some r)
    (hs : s.regSeen f r = true) :
    s.regRead f off 4 = { s with lastRead := BitVec.ofNat 64 (bits (s.regValue f r) (8 * (off % 8)) 32) } := by
  simp [State.regRead, h, ha, hs]

theorem State.regRead_unseen (s : State) (f off : Nat) (r : Reg) (h : off % 8 = 0) (ha : regAt off = some r)
    (hs : s.regSeen f r = false) : s.regRead f off 8 = s.readZero := by
  simp [State.regRead, h, ha, hs]

theorem regAt_thCfg : regAt 0x60018 = some (.thermal 0x18) := by decide
theorem regAt_thWarm : regAt 0x60020 = some (.thermal 0x20) := by decide
theorem regAt_pwEvents : regAt 0x40020 = some (.power 0x20) := by decide

/-- The thermal and power blocks are function 0's (R428), and it sees them where no host boot waits for its image. -/
theorem State.regSeen_thermal (s : State) (f o : Nat) (h : f ≠ 0) : s.regSeen f (.thermal o) = false := by
  simp [State.regSeen, adminFn, h]
theorem State.regSeen_thermal_admin (s : State) (o : Nat) (h : s.boot.bootSrc = false) : s.regSeen 0 (.thermal o) = true := by
  simp [State.regSeen, State.bootView, adminFn, h]
theorem State.regSeen_power_admin (s : State) (o : Nat) (h : s.boot.bootSrc = false) : s.regSeen 0 (.power o) = true := by
  simp [State.regSeen, State.bootView, adminFn, h]

/-- TH_WARM written. -/
theorem State.thermalWrite_warm (s : State) (v : Nat) : s.thermalWrite 0x20 v = { s with
    thermal := { s.thermal with floorC := bits v 0 8, floorW := bits v 8 14, warmEnable := bitAt v 22 } } := rfl

/-- TH_CFG written. -/
theorem State.thermalWrite_cfg (s : State) (v : Nat) : s.thermalWrite 0x18 v = { s with
    thermal := { s.thermal with flowNom := max 300 (min 600 (bits v 0 10)), rpmNom := max 1 (bits v 10 16) } } := rfl

/-- Four counts side by side. -/
theorem regFields_four (a b c d : Nat) (ha : a < 65536) (hb : b < 65536) (hc : c < 65536) (hd : d < 65536) :
    regFields [(16, a), (16, b), (16, c), (16, d)] = a + (b <<< 16) + (c <<< 32) + (d <<< 48) := by
  simp only [regFields, Nat.shiftLeft_eq]
  omega

/-- The value of PW_EVENTS. -/
theorem State.regValue_pwEvents (s : State) (h1 : s.power.overcurrent < 65536) (h2 : s.power.turnOns < 65536)
    (h3 : s.power.neighbourWaits < 65536) (h4 : s.power.neighbourCaps < 65536) :
    s.regValue 0 (.power 0x20) = s.power.overcurrent + (s.power.turnOns <<< 16) + (s.power.neighbourWaits <<< 32) +
      (s.power.neighbourCaps <<< 48) :=
  regFields_four _ _ _ _ h1 h2 h3 h4

/-- Refusals of BAR0: sizes, alignments, and the thermal block of another function than 0. -/
theorem bar0_refusals (s : State) (f off size : Nat) (v : BitVec 512) (hf : f < Config.nFunctions) :
    let refused : State := { s with badAccess := min (s.badAccess + 1) 65535 }
    (off % 8 ≠ 0 ∨ size % 8 ≠ 0 ∨ size = 0 ∨ 64 < size → exec (.registerWrite f ⟨.bar0, off⟩ size v) s = .next refused) ∧
    (¬(size = 8 ∧ off % 8 = 0) → ¬(size = 4 ∧ off % 4 = 0) →
      exec (.rcRegisterRead f ⟨.bar0, off⟩ size) s = .next { refused with lastRead := 0 }) ∧
    (f ≠ 0 → exec (.registerWrite f ⟨.bar0, 0x60018⟩ 8 v) s = .next refused ∧
      exec (.rcRegisterRead f ⟨.bar0, 0x60018⟩ 8) s = .next { refused with lastRead := 0 }) := by
  refine ⟨fun h => ?_, fun h8 h4 => ?_, fun h => ⟨?_, ?_⟩⟩
  · rw [exec_registerWrite _ _ _ _ _ hf, State.spaceWrite, s.regWriteAll_refused f off size v h, State.refuseAccess_eq]
  · rw [exec_rcRegisterRead _ _ _ _ hf, State.spaceRead, s.regRead_refused f off size h8 h4, State.readZero, State.refuseAccess_eq]
  · rw [exec_registerWrite _ _ _ _ _ hf, State.spaceWrite, s.regWriteAll_eight f 0x60018 v rfl,
      s.regStore_unseen f _ _ _ regAt_thCfg (s.regSeen_thermal f _ h), State.refuseAccess_eq]
  · rw [exec_rcRegisterRead _ _ _ _ hf, State.spaceRead, s.regRead_unseen f _ _ rfl regAt_thCfg (s.regSeen_thermal f _ h),
      State.readZero, State.refuseAccess_eq]

/-- TH_WARM alone, and TH_CFG with TH_WARM in one write of 16 bytes (R421). -/
theorem thermal_writes (s : State) (v : BitVec 512) (hb : s.boot.bootSrc = false) :
    let n := v.toNat
    let warm (floorC floorW : Nat) (on : Bool) : ThermalRec :=
      { s.thermal with floorC := floorC, floorW := floorW, warmEnable := on }
    exec (.registerWrite 0 ⟨.bar0, 0x60020⟩ 8 v) s = .next { s with
      thermal := warm (bits n 0 8) (bits n 8 14) (bitAt n 22) } ∧
    exec (.registerWrite 0 ⟨.bar0, 0x60018⟩ 16 v) s = .next { s with
      thermal := { warm (bits n 64 8) (bits n 72 14) (bitAt n 86) with
        flowNom := max 300 (min 600 (bits n 0 10)), rpmNom := max 1 (bits n 10 16) } } := by
  have zero : 0 < Config.nFunctions := by decide
  have warm (t : State) (ht : t.boot.bootSrc = false) (x : Nat) : t.regStore 0 0x60020 x = t.thermalWrite 0x20 x :=
    t.regStore_seen 0 _ x _ regAt_thWarm (t.regSeen_thermal_admin _ ht)
  have cfg (x : Nat) : s.regStore 0 0x60018 x = s.thermalWrite 0x18 x :=
    s.regStore_seen 0 _ x _ regAt_thCfg (s.regSeen_thermal_admin _ hb)
  refine ⟨?_, ?_⟩
  · rw [exec_registerWrite _ _ _ _ _ zero, State.spaceWrite, s.regWriteAll_eight 0 0x60020 v rfl, warm s hb,
      State.thermalWrite_warm, bits_bits _ 0 64 0 8 (by decide), bits_bits _ 0 64 8 14 (by decide), bitAt_bits _ 0 64 22 (by decide)]
  · rw [exec_registerWrite _ _ _ _ _ zero, State.spaceWrite, s.regWriteAll_sixteen 0 0x60018 v rfl, cfg, warm _ (by exact hb),
      State.thermalWrite_warm, State.thermalWrite_cfg, bits_bits _ 64 64 0 8 (by decide), bits_bits _ 64 64 8 14 (by decide),
      bitAt_bits _ 64 64 22 (by decide), bits_bits _ 0 64 0 10 (by decide), bits_bits _ 0 64 10 16 (by decide)]

/-- PW_EVENTS: a whole read clears its counts, a half read none (R15, R421). -/
theorem pwEvents_reads (s : State) (hb : s.boot.bootSrc = false) (h1 : s.power.overcurrent < 65536) (h2 : s.power.turnOns < 65536)
    (h3 : s.power.neighbourWaits < 65536) (h4 : s.power.neighbourCaps < 65536) :
    let p := s.power
    let v := p.overcurrent + (p.turnOns <<< 16) + (p.neighbourWaits <<< 32) + (p.neighbourCaps <<< 48)
    exec (.rcRegisterRead 0 ⟨.bar0, 0x40020⟩ 8) s = .next { s with
      lastRead := BitVec.ofNat 64 v
      power := { p with overcurrent := 0, turnOns := 0, neighbourWaits := 0, neighbourCaps := 0 } } ∧
    exec (.rcRegisterRead 0 ⟨.bar0, 0x40020⟩ 4) s = .next { s with lastRead := BitVec.ofNat 64 (v % 2 ^ 32) } ∧
    exec (.rcRegisterRead 0 ⟨.bar0, 0x40024⟩ 4) s = .next { s with lastRead := BitVec.ofNat 64 (v / 2 ^ 32) } := by
  have zero : 0 < Config.nFunctions := by decide
  have seen := s.regSeen_power_admin 0x20 hb
  have value := s.regValue_pwEvents h1 h2 h3 h4
  intro p v
  have wide : v < 2 ^ 64 := by
    simp only [v, p, Nat.shiftLeft_eq]
    omega
  refine ⟨?_, ?_, ?_⟩
  · rw [exec_rcRegisterRead _ _ _ _ zero, State.spaceRead, s.regRead_whole 0 0x40020 _ rfl regAt_pwEvents seen, value]
    rfl
  · rw [exec_rcRegisterRead _ _ _ _ zero, State.spaceRead, s.regRead_half 0 0x40020 _ rfl regAt_pwEvents seen, value]
    rfl
  · rw [exec_rcRegisterRead _ _ _ _ zero, State.spaceRead, s.regRead_half 0 0x40024 _ rfl regAt_pwEvents seen, value]
    have high : bits v 32 32 = v / 2 ^ 32 := by
      rw [bits, Nat.shiftRight_eq_div_pow, Nat.mod_eq_of_lt (by omega)]
    rw [← high]

/-! ## Configuration space and BAR2 (R259, R260; log entry 78) -/

/-- A field of the two lowest 16-bit fields together. -/
theorem bits_regFields_ids (a b : Nat) (ha : a < 65536) (hb : b < 65536) :
    bits (regFields [(16, a), (16, b)]) 0 32 = a + (b <<< 16) := by
  simp only [regFields, bits, Nat.shiftRight_zero, Nat.shiftLeft_eq]
  omega

/-- Clearing the Bus Master Enable bit stops the writes of the function. -/
theorem State.setBusMaster_off (s : State) (f : Nat) :
    s.setBusMaster f false = (s.modFunc f fun r => { r with busMaster := false }).modFunc f
      fun r => { r with writable := false } := rfl

/-- The command register as it stands with Bus Master Enable set, written with that bit clear. -/
theorem bitAt_setBits_command (v : Nat) (h : v.testBit 2 = false) :
    bitAt (setBits (regFields [(2, 2), (1, boolNat true)]) 0 16 v) 2 = false := by
  have e : setBits (regFields [(2, 2), (1, boolNat true)]) 0 16 v = v % 2 ^ 16 := by
    simp [setBits, regFields, bits, boolNat]
  rw [e, bitAt_eq_testBit, Nat.testBit_mod_two_pow, h]
  rfl

/-- The doublewords that name the function, and the class code. -/
theorem config_reads (s : State) (f : Nat) (hf : f < Config.nFunctions) :
    exec (.rcRegisterRead f ⟨.config, 0⟩ 4) s = .next { s with
      lastRead := BitVec.ofNat 64 (Config.vendorId.toNat + ((if f % 8 = 0 then 0x4B48 else 0x4B49) <<< 16)) } ∧
    exec (.rcRegisterRead f ⟨.config, 8⟩ 4) s = .next { s with lastRead := 0x12000000 } := by
  refine ⟨?_, ?_⟩
  · have ids := bits_regFields_ids Config.vendorId.toNat (if f % 8 = 0 then 0x4B48 else 0x4B49) Config.vendorId.isLt
      (by split <;> decide)
    rw [exec_rcRegisterRead _ _ _ _ hf, State.spaceRead, if_pos (by decide), ← ids]
    rfl
  · rw [exec_rcRegisterRead _ _ _ _ hf, State.spaceRead, if_pos (by decide)]
    rfl

/-- A write of the command register that clears Bus Master Enable. -/
theorem config_stopsWrites (s : State) (f : Nat) (v : BitVec 512) (hf : f < Config.nFunctions) (hv : v.getLsbD 2 = false)
    (hm : (s.func f).busMaster = true) : MakesFuncs (.registerWrite f ⟨.config, 4⟩ 2 v) s s (fun k => decide (k = f))
      (fun _ => { s.func f with busMaster := false, writable := false }) := by
  have off : bitAt (setBits (regFields [(2, 2), (1, boolNat (s.func f).busMaster)]) 0 16 v.toNat) 2 = false := by
    rw [hm]; exact bitAt_setBits_command _ hv
  have stored : s.cfgStore f 4 (setBits (regFields [(2, 2), (1, boolNat (s.func f).busMaster)]) 0 16 v.toNat) =
      s.setBusMaster f false := by
    rw [State.cfgStore, if_pos rfl]
    dsimp only
    rw [off, if_neg (by simp [hm])]
  have run : exec (.registerWrite f ⟨.config, 4⟩ 2 v) s = .next (s.setBusMaster f false) := by
    rw [exec_registerWrite _ _ _ _ _ hf, State.spaceWrite, if_pos (by decide), ← stored]
    rfl
  refine ⟨_, run.trans (congrArg _ (s.setBusMaster_off f)), fun k => ?_, rfl⟩
  by_cases hk : k = f
  · subst hk; simp
  · simp [hk, State.modFunc_func_ne]

/-! ## The exchange RAM (R278, R280) -/

/-- A write of function 0 within the RAM. -/
theorem exec_bar4Write (s : State) (off size : Nat) (v : BitVec 512) (h1 : 1 ≤ size) (h64 : size ≤ 64)
    (hin : off + size ≤ 0x40000) :
    exec (.registerWrite 0 ⟨.bar4, off⟩ size v) s = .next (s.xramWrite off (leBytes size v.toNat)) := by
  rw [exec_registerWrite _ _ _ _ _ (by decide), State.spaceWrite, if_pos]
  simp [xramAccess, adminFn, h1, h64, hin]

/-- A write that rings nothing: beyond the H2E word, or of one whose complement is bad. -/
theorem bar4_writes (s : State) (off size : Nat) (v : BitVec 512) (h1 : 1 ≤ size) (h64 : size ≤ 64) (hin : off + size ≤ 0x40000)
    (h : 8 ≤ off ∨ (off = 0 ∧ size = 8 ∧ v.toNat % 2 ^ 64 ≠ mailSeq v.toNat)) :
    exec (.registerWrite 0 ⟨.bar4, off⟩ size v) s = .next { s with xram := writeBytes s.xram off (leBytes size v.toNat) } := by
  rw [exec_bar4Write s off size v h1 h64 hin, s.xramWrite_quiet _ _ _ rfl]
  rcases h with h | ⟨rfl, rfl, h⟩
  · exact .inl (readLE_writeBytes_out _ _ _ _ _ (.inl (by omega)))
  · refine .inr ?_
    have low : mailSeq (v.toNat % 2 ^ 64) = mailSeq v.toNat := by
      rw [← mailSeq_low, Nat.mod_mod_of_dvd _ (by decide), mailSeq_low]
    rw [readLE_writeBytes_leBytes, low]
    exact h

/-- A new H2E word of function 0 takes the command that stands in the RAM, which is `m` after the write. -/
theorem exec_bar4Ring (s : State) (n : Nat) (m : List Host.Cell) (hm : writeBytes s.xram 0 (leBytes 8 (mailSeq n)) = m)
    (hn : n < 2 ^ 32) (hold : readLE s.xram 0 8 ≠ mailSeq n) (hans : readLE s.xram 0x10000 8 ≠ mailSeq n)
    (hw : s.boot.writeWaits ≠ some n) :
    exec (.registerWrite 0 ⟨.bar4, 0⟩ 8 (BitVec.ofNat 512 (mailSeq n))) s = .next (({ s with xram := m } : State).mailTake n) := by
  have value : (BitVec.ofNat 512 (mailSeq n)).toNat = mailSeq n := by
    have := mailSeq_lt n
    rw [BitVec.toNat_ofNat]
    omega
  rw [exec_bar4Write s 0 8 _ (by decide) (by decide) (by decide), value, s.xramWrite_rings n m hm hn hold hans hw]

/-- The answers to an unknown code, to READ_LEDGER with a payload, and to READ_LEDGER. -/
theorem bar4_rings (s : State) (n : Nat) (m : List Host.Cell) (hm : writeBytes s.xram 0 (leBytes 8 (mailSeq n)) = m)
    (hr : s.ready = true) (hn : n < 2 ^ 32) (hold : readLE s.xram 0 8 ≠ mailSeq n)
    (hans : readLE s.xram 0x10000 8 ≠ mailSeq n) (hw : s.boot.writeWaits ≠ some n) :
    let c := readLE s.xram 8 8
    let ring (r : List Host.Cell) : Prop :=
      exec (.registerWrite 0 ⟨.bar4, 0⟩ 8 (BitVec.ofNat 512 (mailSeq n))) s = .next { s with xram := r }
    (bits c 0 8 = 0 ∨ 5 < bits c 0 8 → ring (replied m n 1 [])) ∧
    (bits c 0 8 = 1 → bits c 16 24 ≠ 0 → ring (replied m n 2 [])) ∧
    (bits c 0 8 = 1 → bits c 16 24 = 0 → ring (replied m n 0 s.ledgerNow)) := by
  have run := exec_bar4Ring s n m hm hn hold hans hw
  have word : readLE s.xram 8 8 = readLE m 8 8 := by
    rw [← hm, readLE_writeBytes_out _ _ _ _ _ (.inr (by rw [leBytes_length]))]
  dsimp only
  rw [word, run]
  refine ⟨fun hc => ?_, fun hc hl => ?_, fun hc hl => ?_⟩
  · rw [s.mailTake_unknown m n hr hc]
  · rw [s.mailTake_ledger m n hr hc, if_neg hl]
  · rw [s.mailTake_ledger m n hr hc, if_pos hl]

/-- Settles O46, space by space. -/
theorem registerEffects : Obligations.RegisterEffects := by
  refine ⟨fun s f off size v hf => bar0_refusals s f off size v hf, fun s v hb => thermal_writes s v hb,
    fun s hb h1 h2 h3 h4 => pwEvents_reads s hb h1 h2 h3 h4,
    fun s f hf => ⟨(config_reads s f hf).1, (config_reads s f hf).2, fun v hv hm => config_stopsWrites s f v hf hv hm,
      fun off size => exec_rcRegisterRead _ _ _ _ hf, fun off size v h => ?_⟩,
    fun s off size v h1 h64 hin => bar4_writes s off size v h1 h64 hin,
    fun s n hr hn hold hans hw => bar4_rings s n _ rfl hr hn hold hans hw⟩
  rw [exec_registerWrite _ _ _ _ _ hf, State.spaceWrite, if_neg]
  simp [xramAccess, adminFn, h]

end Sys2Proof.Machine
end

section
namespace Sys2Proof.Machine

open Sys2Proof

/-! PROOFS. Slots and regions of a bolt, and what commands on the pages of streams leave of them. -/

/-! ## The records of slots and regions -/

@[simp] theorem BoltRec.slotRec_modSlot_self (x : BoltRec) (k : Nat) (f : SlotRec → SlotRec) :
    (x.modSlot k f).slotRec k = f (x.slotRec k) := Tab.get_put_self _ _ _ _
theorem BoltRec.slotRec_modSlot (x : BoltRec) (k j : Nat) (f : SlotRec → SlotRec) :
    (x.modSlot k f).slotRec j = if j = k then f (x.slotRec k) else x.slotRec j := Tab.get_put _ _ _ _ _
@[simp] theorem BoltRec.region_modSlot (x : BoltRec) (k j : Nat) (f : SlotRec → SlotRec) :
    (x.modSlot k f).region j = x.region j := rfl
@[simp] theorem BoltRec.tops_modSlot (x : BoltRec) (k : Nat) (f : SlotRec → SlotRec) : (x.modSlot k f).tops = x.tops := rfl
@[simp] theorem BoltRec.region_setRegion_self (x : BoltRec) (k : Nat) (g : RegionRec) : (x.setRegion k g).region k = g :=
  Tab.get_put_self _ _ _ _
theorem BoltRec.region_setRegion_ne (x : BoltRec) (k j : Nat) (g : RegionRec) (h : j ≠ k) :
    (x.setRegion k g).region j = x.region j := Tab.get_put_ne _ _ _ _ _ h
theorem BoltRec.region_setRegion (x : BoltRec) (k j : Nat) (g : RegionRec) :
    (x.setRegion k g).region j = if j = k then g else x.region j := Tab.get_put _ _ _ _ _
@[simp] theorem BoltRec.slotRec_setRegion (x : BoltRec) (k j : Nat) (g : RegionRec) :
    (x.setRegion k g).slotRec j = x.slotRec j := rfl
@[simp] theorem BoltRec.tops_setRegion (x : BoltRec) (k : Nat) (g : RegionRec) : (x.setRegion k g).tops = x.tops := rfl

/-- A region record that is put back with one field changed. -/
@[simp] theorem State.setUnit_bolt_self (s : State) (b key : Nat) (u : PUnit) :
    (s.setUnit b key u).bolt b = (s.bolt b).setRegion key { (s.bolt b).region key with unit := some u } :=
  State.modBolt_bolt_self _ _ _

/-- A change of a bolt, after changes of bolts alone, changes bolts alone. -/
theorem State.modBolt_frame {s t : State} (h : t = { s with bolts := t.bolts }) (b : Nat) (f : BoltRec → BoltRec) :
    t.modBolt b f = { s with bolts := (t.modBolt b f).bolts } := by
  rw [h]
  rfl

/-- A command that gives region `key` of a bolt a new record keeps the other regions. -/
theorem regionIs_of_setRegion {s t : State} {b key : Nat} {g : RegionRec}
    (h : ∀ k, (t.bolt b).region k = ((s.bolt b).setRegion key g).region k) : RegionIs s t b key g :=
  ⟨by rw [h, BoltRec.region_setRegion_self], fun k hk _ => by rw [h, BoltRec.region_setRegion_ne _ _ _ _ hk]⟩

/-! ## REGION_TAKE_UNIT (R20, R21, R125, R186, R188) -/

/-- An expert region: the next token sent to it, while it works on none. -/
theorem regionTakeUnit_expert (s : State) (b key : Nat) (e : EpochRec) (inp : List AttnInput) (w : Works s b key e)
    (hk : e.kindOf (key % 256) = 3) :
    let x := s.bolt b
    let g := x.region key
    (∀ j rest, g.job = none → g.jobs = j :: rest → exec (.regionTakeUnit b key inp) s =
      .next (s.setBolt b (x.setRegion key { g with job := some j, jobs := rest }))) ∧
    (g.job.isSome = true ∨ g.jobs = [] → exec (.regionTakeUnit b key inp) s = .next s) := by
  intro x g
  have run : exec (.regionTakeUnit b key inp) s = .next (s.takeJob b key) := by
    show execRegionTakeUnit b key inp s = _
    rw [execRegionTakeUnit, onBolt, onUnit_next _ _ _ (by simpa using w.boltNo)]
    simp only [w.running, w.serving, hk, ne_eq, not_true_eq_false, if_false, if_true]
  rw [run, State.takeJob]
  refine ⟨fun j rest hj hl => ?_, fun h => ?_⟩
  · simp only [show ((s.bolt b).region key).job = none from hj, show ((s.bolt b).region key).jobs = j :: rest from hl]
    rfl
  · split
    · rename_i h1 h2
      simp only [g, x, h1, h2] at h
      simp at h
    · rfl

/-- A unit that enters: the region has it, its slot has made progress. -/
theorem State.enterRegion_effect (s : State) (b key : Nat) (e : EpochRec) (u : PUnit) :
    s.enterRegion b key e u = { s with bolts := (s.enterRegion b key e u).bolts } ∧
    (s.enterRegion b key e u).bolt b = ((s.bolt b).modSlot u.slot fun x => { x with progress := s.time }).setRegion key
      { (s.bolt b).region key with unit := some (enteredUnit e (key % 256) u) } := by
  refine ⟨rfl, ?_⟩
  rw [State.enterRegion, State.setUnit_bolt_self, State.modBolt_bolt_self, BoltRec.region_modSlot]
  simp [enteredUnit, and_comm]

/-- Without inputs no pass starts. -/
theorem regionTakeUnit_enters (s s' : State) (b key : Nat) (e : EpochRec) (u : PUnit) (w : Works s b key e)
    (hk : e.kindOf (key % 256) ≠ 3) (hu : ((s.bolt b).region key).unit = none) (ht : s.takeable b e key = some (s', u))
    (hp : (s'.enterRegion b key e u).prefetchFirst b key e = s'.enterRegion b key e u) :
    exec (.regionTakeUnit b key []) s = .next (s'.enterRegion b key e u) := by
  show execRegionTakeUnit b key [] s = _
  rw [execRegionTakeUnit, onBolt, onUnit_next _ _ _ (by simpa using w.boltNo)]
  simp only [w.running, w.serving, hk, hu, ht, hp, ne_eq, not_true_eq_false, if_false]
  split
  · split
    · rw [if_neg (by simp)]
    · rfl
  · rfl

/-- A free region takes the unit handed to it. -/
theorem regionTakeUnit_inbox (s : State) (b key : Nat) (e : EpochRec) (u : PUnit) (w : Works s b key e)
    (hk : e.kindOf (key % 256) ≠ 3) (hu : ((s.bolt b).region key).unit = none)
    (hi : ((s.bolt b).region key).inbox = some u) (hf : e.stages.head? ≠ some (key % 256)) :
    ∃ t, exec (.regionTakeUnit b key []) s = .next t ∧ t = { s with bolts := t.bolts } ∧
      RegionIs s t b key { (s.bolt b).region key with inbox := none, unit := some (enteredUnit e (key % 256) u) } ∧
      (t.bolt b).slotRec u.slot = { (s.bolt b).slotRec u.slot with progress := s.time } := by
  have ht : s.takeable b e key =
      some (s.modBolt b fun r => r.setRegion key { (s.bolt b).region key with inbox := none }, u) := by
    simp only [State.takeable, hi]
  obtain ⟨frame, bolt⟩ := State.enterRegion_effect
    (s.modBolt b fun r => r.setRegion key { (s.bolt b).region key with inbox := none }) b key e u
  refine ⟨_, regionTakeUnit_enters s _ b key e u w hk hu ht (by rw [State.prefetchFirst, if_neg hf]), frame,
    regionIs_of_setRegion fun k => ?_, ?_⟩
  · rw [bolt]
    by_cases h : k = key
    · subst h; simp
    · simp [BoltRec.region_setRegion_ne _ _ _ _ h]
  · rw [bolt]
    simp

/-- The first region takes the unit that waits in the slot of lowest rank. -/
theorem regionTakeUnit_waiting (s : State) (b key : Nat) (e : EpochRec) (u : PUnit) (rest : List PUnit) (w : Works s b key e)
    (hk : e.kindOf (key % 256) ≠ 3) (hu : ((s.bolt b).region key).unit = none)
    (hi : ((s.bolt b).region key).inbox = none) (hf : e.stages.head? = some (key % 256)) (hkv : e.kv? (key % 256) = none)
    (hs : s.firstSlot b e = some u.slot) (hw : ((s.bolt b).slotRec u.slot).waiting = u :: rest) :
    ∃ t, exec (.regionTakeUnit b key []) s = .next t ∧ t = { s with bolts := t.bolts } ∧
      RegionIs s t b key { (s.bolt b).region key with unit := some (enteredUnit e (key % 256) u) } ∧
      (t.bolt b).slotRec u.slot = { (s.bolt b).slotRec u.slot with
        waiting := rest, chunksTaken := ((s.bolt b).slotRec u.slot).chunksTaken + 1, progress := s.time } := by
  have ht : s.takeable b e key = some (s.modBolt b fun r => r.modSlot u.slot fun x => { x with
      waiting := x.waiting.drop 1, chunksTaken := x.chunksTaken + 1 }, u) := by
    simp only [State.takeable, hi, if_pos hf, hs, hw, List.head?_cons, Option.map_some]
  have noPages (t : State) : t.prefetchFirst b key e = t := by
    rw [State.prefetchFirst, if_pos hf]
    split
    · rw [State.prefetchWaiting, hkv]
    · rfl
  obtain ⟨frame, bolt⟩ := State.enterRegion_effect (s.modBolt b fun r => r.modSlot u.slot fun x => { x with
      waiting := x.waiting.drop 1, chunksTaken := x.chunksTaken + 1 }) b key e u
  refine ⟨_, regionTakeUnit_enters s _ b key e u w hk hu ht (noPages _), frame, regionIs_of_setRegion fun k => ?_, ?_⟩
  · rw [bolt]
    by_cases h : k = key
    · subst h; simp
    · simp [BoltRec.region_setRegion_ne _ _ _ _ h]
  · rw [bolt]
    simp [hw]

end Sys2Proof.Machine
end

section
namespace Sys2Proof.Machine

open Sys2Proof

/-! PROOFS. What work on pages leaves: the state but cores, counters and the pages that streams hold. -/

/-! ## Writes of cores alone (R199, R200) -/

theorem State.syncPage_cores (s : State) (e : EpochRec) (g : KvGeom) (p : KvPage) :
    s.syncPage e g p = { s with cores := (s.syncPage e g p).cores } :=
  List.foldlRecOn (motive := fun t : State => t = { s with cores := t.cores }) _ _ rfl fun t ht c _ => by rw [ht]; rfl

theorem State.syncWork_cores (s : State) (e : EpochRec) (g : KvGeom) (slot : Nat) (l : List KvPage) :
    s.syncWork e g slot l = { s with cores := (s.syncWork e g slot l).cores } :=
  List.foldlRecOn (motive := fun t : State => t = { s with cores := t.cores }) _ _ rfl fun t ht c _ => by rw [ht]; rfl

theorem State.fillFrame_cores (s : State) (e : EpochRec) (g : KvGeom) (p : KvPage) :
    s.fillFrame e g p = { s with cores := (s.fillFrame e g p).cores } :=
  List.foldlRecOn (motive := fun t : State => t = { s with cores := t.cores }) _ _ rfl fun t ht c _ => by rw [ht]; rfl

/-! ## Pages of streams -/

/-- From `s` to `t` only cores, counters and the pages that streams hold have changed. -/
structure PagesOnly (s t : State) : Prop where
  frame : t = { s with bolts := t.bolts, cores := t.cores, reqs := t.reqs, serve := t.serve }
  bolt : ∀ b, t.bolt b = { s.bolt b with slots := (t.bolt b).slots }
  slot : ∀ b k, (t.bolt b).slotRec k = { (s.bolt b).slotRec k with kv := ((t.bolt b).slotRec k).kv }
  req : ∀ i, t.req i = { s.req i with save := (t.req i).save }

theorem PagesOnly.refl (s : State) : PagesOnly s s := ⟨rfl, fun _ => rfl, fun _ _ => rfl, fun _ => rfl⟩

theorem PagesOnly.trans {s t u : State} (h : PagesOnly s t) (h' : PagesOnly t u) : PagesOnly s u :=
  ⟨by rw [h'.frame, h.frame], fun b => by rw [h'.bolt b, h.bolt b], fun b k => by rw [h'.slot b k, h.slot b k],
    fun i => by rw [h'.req i, h.req i]⟩

theorem PagesOnly.of_cores {s t : State} (h : t = { s with cores := t.cores }) : PagesOnly s t := by
  have bolt (b : Nat) : t.bolt b = s.bolt b := by rw [h]; rfl
  have req (i : Nat) : t.req i = s.req i := by rw [h]; rfl
  exact ⟨by rw [h], fun b => by rw [bolt], fun b k => by rw [bolt], fun i => by rw [req]⟩

theorem PagesOnly.syncPage (s : State) (e : EpochRec) (g : KvGeom) (p : KvPage) : PagesOnly s (s.syncPage e g p) :=
  .of_cores (s.syncPage_cores e g p)

theorem PagesOnly.syncWork (s : State) (e : EpochRec) (g : KvGeom) (slot : Nat) (l : List KvPage) :
    PagesOnly s (s.syncWork e g slot l) := .of_cores (s.syncWork_cores e g slot l)

theorem PagesOnly.fillFrame (s : State) (e : EpochRec) (g : KvGeom) (p : KvPage) : PagesOnly s (s.fillFrame e g p) :=
  .of_cores (s.fillFrame_cores e g p)

theorem PagesOnly.region {s t : State} (h : PagesOnly s t) (b k : Nat) : (t.bolt b).region k = (s.bolt b).region k := by
  rw [h.bolt b]; rfl

theorem PagesOnly.modServeOf (s : State) (b : Nat) (f : ServeRec → ServeRec) : PagesOnly s (s.modServeOf b f) :=
  ⟨rfl, fun _ => rfl, fun _ _ => rfl, fun _ => rfl⟩

theorem PagesOnly.foldl {α : Type} (f : State → α → State) (h : ∀ s a, PagesOnly s (f s a)) (l : List α) (s : State) :
    PagesOnly s (l.foldl f s) :=
  List.foldlRecOn _ _ (PagesOnly.refl s) fun _ ht a _ => ht.trans (h _ a)

/-- Pages of a request replaced, in its slot or in its save. -/
theorem PagesOnly.setReqKv (s : State) (i : Nat) (kv : Tab KvRec) : PagesOnly s (s.setReqKv i kv) := by
  rw [State.setReqKv]
  split
  · refine ⟨rfl, fun _ => rfl, fun _ _ => rfl, fun j => ?_⟩
    by_cases h : j = i
    · subst h; simp
    · simp [State.setReq_req_ne _ _ _ _ h]
  · refine ⟨rfl, fun b => ?_, fun b k => ?_, fun _ => rfl⟩
    · by_cases h : b = (s.req i).bolt
      · subst h; simp [BoltRec.modSlot]
      · simp [State.modBolt_bolt_ne _ _ _ _ h]
    · by_cases h : b = (s.req i).bolt
      · subst h
        by_cases hk : k = (s.req i).slot
        · subst hk; simp
        · simp [BoltRec.slotRec_modSlot, hk]
      · simp [State.modBolt_bolt_ne _ _ _ _ h]

theorem PagesOnly.modPage (s : State) (i region j : Nat) (f : KvPage → KvPage) : PagesOnly s (s.modPage i region j f) := by
  rw [State.modPage]
  split
  · dsimp only
    split
    · split
      · exact (PagesOnly.setReqKv s i _).trans (.syncPage _ _ _ _)
      · exact ((PagesOnly.setReqKv s i _).trans (.syncPage _ _ _ _)).trans (.syncWork _ _ _ _ _)
    · exact .setReqKv _ _ _
  · exact .refl _

theorem PagesOnly.intoFrame (s : State) (i : Nat) (e : EpochRec) (g : KvGeom) (j : Nat) (f : KvPage → KvPage) :
    PagesOnly s (s.intoFrame i e g j f) := by
  rw [State.intoFrame]
  split
  · exact (PagesOnly.fillFrame _ _ _ _).trans (.modPage _ _ _ _ _)
  · exact .refl _

theorem PagesOnly.easyFrame (s : State) (b : Nat) (e : EpochRec) (g : KvGeom) (num : Nat) :
    PagesOnly s (s.easyFrame b e g num).1 := by
  rw [State.easyFrame]
  split
  · exact .refl _
  · dsimp only
    split
    · exact .modPage _ _ _ _ _
    · exact .refl _

/-! ## Prefetches (R222) -/

theorem PagesOnly.prefetchPage (s : State) (b : Nat) (e : EpochRec) (g : KvGeom) (i j : Nat) :
    PagesOnly s (s.prefetchPage b e g i j) := by
  rw [State.prefetchPage]
  split
  · split
    · dsimp only
      split
      · exact ((PagesOnly.easyFrame s b e g _).trans (.intoFrame _ _ _ _ _ _)).trans (.modServeOf _ _ _)
      · exact .easyFrame s b e g _
    · exact .refl _
  · exact .refl _

theorem PagesOnly.prefetchAfter (s : State) (b key slot : Nat) (e : EpochRec) : PagesOnly s (s.prefetchAfter b key slot e) := by
  rw [State.prefetchAfter]
  split
  · exact .foldl _ (fun s j => .prefetchPage s b e _ _ j) _ _
  · exact .refl _

theorem PagesOnly.prefetchWaiting (s : State) (b region slot : Nat) (e : EpochRec) :
    PagesOnly s (s.prefetchWaiting b region slot e) := by
  rw [State.prefetchWaiting]
  split
  · dsimp only
    split
    · exact .foldl _ (fun s j => .prefetchPage s b e _ _ j) _ _
    · exact .refl _
  · exact .refl _

/-! ## UNIT_HAND_OUT (R20, R25, R188, R194) -/

/-- An expert region hands its result back to the region that sent the token. -/
theorem unitHandOut_job (s : State) (b key : Nat) (e : EpochRec) (j : ExpertJob) (v : PUnit) (w : Works s b key e)
    (hj : ((s.bolt b).region key).job = some j) (hne : j.home ≠ key) (hv : ((s.bolt b).region j.home).unit = some v)
    (hs : v.slot = j.slot) :
    ∃ t, exec (.unitHandOut b key) s = .next t ∧ t = { s with bolts := t.bolts } ∧
      RegionIs s t b key { (s.bolt b).region key with job := none } (fun k => decide (k = j.home)) ∧
      (t.bolt b).region j.home = { (s.bolt b).region j.home with unit := some { v with owed := v.owed - 1 } } := by
  have run : exec (.unitHandOut b key) s = .next (s.endJob b key) := by
    show execUnitHandOut b key s = _
    rw [execUnitHandOut, onBolt, onUnit_next _ _ _ (by simpa using w.boltNo), if_pos ⟨w.serving, by rw [hj]; rfl⟩]
  rw [run, State.endJob, hj]
  refine ⟨_, rfl, rfl, ⟨?_, fun k hk ha => ?_⟩, ?_⟩
  · rw [State.modBolt_bolt_self, BoltRec.region_setRegion_ne _ _ _ _ hne.symm, BoltRec.region_setRegion_self]
  · rw [State.modBolt_bolt_self, BoltRec.region_setRegion_ne _ _ _ _ (by simpa using ha),
      BoltRec.region_setRegion_ne _ _ _ _ hk]
  · rw [State.modBolt_bolt_self, BoltRec.region_setRegion_self, BoltRec.region_setRegion_ne _ _ _ _ hne, hv, Option.map_some,
      if_pos hs]

/-- The state after a unit has left its region (R25). -/
def State.clearRegion (s : State) (b key : Nat) (u : PUnit) : State :=
  s.modBolt b fun r => r.setRegion key (leftRegion (r.region key) u)

/-- The region after this one is free: it takes the unit. -/
def State.passOver (s : State) (b key : Nat) (e : EpochRec) (u : PUnit) (n : Nat) : State :=
  let s := (s.clearRegion b key u).modBolt b fun r =>
    r.setRegion (rkey e n) { r.region (rkey e n) with inbox := some u }
  (s.prefetchAfter b key u.slot e).prefetchWaiting b n u.slot e

/-- A finished unit of a stream that picks: on to the region `n`, or into the tree. -/
theorem exec_unitHandOut (s : State) (b key : Nat) (e : EpochRec) (u : PUnit) (w : Works s b key e) (hu : HandsOut s b key u)
    (hp : Picks s b u.slot) :
    (∀ n, e.next (key % 256) u = some n → exec (.unitHandOut b key) s = .next (
      if ((s.bolt b).region (rkey e n)).unit.isNone && ((s.bolt b).region (rkey e n)).inbox.isNone then s.passOver b key e u n
      else s)) ∧
    (e.next (key % 256) u = none → exec (.unitHandOut b key) s = .next (
      if u.lastOfInput && !(s.bolt b).treeRoom e then s
      else ((s.clearRegion b key u).prefetchAfter b key u.slot e).leavePipe b u)) := by
  obtain ⟨hj, hunit, hv, hpass, hinp⟩ := hu
  have mask : ∀ i, ((s.bolt b).slotRec u.slot).req = some i → (s.req i).noMask = false := hp.2
  have run : exec (.unitHandOut b key) s = execUnitHandOut b key s := rfl
  rw [run, execUnitHandOut, onBolt, onUnit_next _ _ _ (by simpa using w.boltNo), if_neg (by simp [hj])]
  simp only [w.running, w.serving, hunit, hv, hpass, hinp, and_self, if_true]
  refine ⟨fun n hn => ?_, fun hn => ?_⟩
  · cases hr : ((s.bolt b).slotRec u.slot).req <;> simp only [hn, mask, hr] <;> rfl
  · cases hr : ((s.bolt b).slotRec u.slot).req <;> simp only [hn, mask, hr, Bool.not_false, Bool.and_true] <;> rfl

theorem State.passOver_pages (s : State) (b key : Nat) (e : EpochRec) (u : PUnit) (n : Nat) :
    PagesOnly ((s.clearRegion b key u).modBolt b fun r => r.setRegion (rkey e n) { r.region (rkey e n) with inbox := some u })
      (s.passOver b key e u n) := (PagesOnly.prefetchAfter _ b key u.slot e).trans (.prefetchWaiting _ b n u.slot e)

theorem State.passOver_frame (s : State) (b key : Nat) (e : EpochRec) (u : PUnit) (n : Nat) :
    s.passOver b key e u n = { s with
      bolts := (s.passOver b key e u n).bolts, cores := (s.passOver b key e u n).cores
      reqs := (s.passOver b key e u n).reqs, serve := (s.passOver b key e u n).serve } := by
  have pages := s.passOver_pages b key e u n
  rw [State.modBolt_frame (s := s) (t := s.clearRegion b key u) rfl] at pages
  exact pages.frame

theorem State.passOver_region (s : State) (b key : Nat) (e : EpochRec) (u : PUnit) (n : Nat) (h : rkey e n ≠ key) (k : Nat) :
    ((s.passOver b key e u n).bolt b).region k = if k = rkey e n then { (s.bolt b).region k with inbox := some u }
      else ((s.bolt b).setRegion key (leftRegion ((s.bolt b).region key) u)).region k := by
  rw [(s.passOver_pages b key e u n).region, State.modBolt_bolt_self, BoltRec.region_setRegion, State.clearRegion,
    State.modBolt_bolt_self]
  split
  · subst k
    rw [BoltRec.region_setRegion_ne _ _ _ _ h]
  · rfl

/-- A unit goes to the next region if that is empty. -/
theorem unitHandOut_next (s : State) (b key : Nat) (e : EpochRec) (u : PUnit) (n : Nat) (w : Works s b key e)
    (hu : HandsOut s b key u) (hp : Picks s b u.slot) (hn : e.next (key % 256) u = some n)
    (h1 : ((s.bolt b).region (rkey e n)).unit = none) (h2 : ((s.bolt b).region (rkey e n)).inbox = none) :
    ∃ t, exec (.unitHandOut b key) s = .next t ∧
      RegionIs s t b key (leftRegion ((s.bolt b).region key) u) (fun k => decide (k = rkey e n)) ∧
      (t.bolt b).region (rkey e n) = { (s.bolt b).region (rkey e n) with inbox := some u } ∧
      t = { s with bolts := t.bolts, cores := t.cores, reqs := t.reqs, serve := t.serve } := by
  have hne : rkey e n ≠ key := by
    intro hk
    rw [hk, hu.2.1] at h1
    cases h1
  have region := s.passOver_region b key e u n hne
  refine ⟨s.passOver b key e u n, ?_, ⟨?_, fun k hk ha => ?_⟩, ?_, s.passOver_frame b key e u n⟩
  · rw [(exec_unitHandOut s b key e u w hu hp).1 n hn, h1, h2]
    rfl
  · rw [region, if_neg hne.symm, BoltRec.region_setRegion_self]
  · rw [region, if_neg (by simpa using ha), BoltRec.region_setRegion_ne _ _ _ _ hk]
  · rw [region, if_pos rfl]

/-- A unit stays while the next region is taken. -/
theorem unitHandOut_waits (s : State) (b key : Nat) (e : EpochRec) (u : PUnit) (n : Nat) (w : Works s b key e)
    (hu : HandsOut s b key u) (hp : Picks s b u.slot) (hn : e.next (key % 256) u = some n)
    (h : ((s.bolt b).region (rkey e n)).unit.isSome = true ∨ ((s.bolt b).region (rkey e n)).inbox.isSome = true) :
    exec (.unitHandOut b key) s = .next s := by
  rw [(exec_unitHandOut s b key e u w hu hp).1 n hn, if_neg]
  rcases h with h | h <;> simp [Option.isNone_eq_false_iff.2 h]

theorem PagesOnly.picks {s t : State} (h : PagesOnly s t) (b slot : Nat) (hp : Picks s b slot) : Picks t b slot := by
  rw [Picks, h.slot b slot]
  exact ⟨hp.1, fun i hi => by rw [h.req i]; exact hp.2 i hi⟩

/-- The last unit of an input that picks enters the tree. -/
theorem State.leavePipe_last (s : State) (b : Nat) (u : PUnit) (hl : u.lastOfInput = true) (hp : Picks s b u.slot) :
    s.leavePipe b u = s.modBolt b fun r => ({ r with tops := r.tops ++ [u.slot] } : BoltRec).modSlot u.slot
      fun x => { x with chunksOut := x.chunksOut + 1, tail := x.tail ++ [u] } := by
  have mask : ∀ i, ((s.bolt b).slotRec u.slot).req = some i → (s.req i).noMask = false := hp.2
  cases hr : ((s.bolt b).slotRec u.slot).req <;> simp [State.leavePipe, hl, hp.1, hr, mask]

/-- After the last region the last unit of an input enters the tree of its epoch if a level is free. -/
theorem unitHandOut_last (s : State) (b key : Nat) (e : EpochRec) (u : PUnit) (w : Works s b key e)
    (hu : HandsOut s b key u) (hp : Picks s b u.slot) (hn : e.next (key % 256) u = none) (hl : u.lastOfInput = true) :
    let x := s.bolt b
    let here := (x.tops.filter fun k => e.slotNos.contains k).length
    (here < e.treeDepth → ∃ t, exec (.unitHandOut b key) s = .next t ∧ RegionIs s t b key (leftRegion (x.region key) u) ∧
      (t.bolt b).tops = x.tops ++ [u.slot] ∧ ((t.bolt b).slotRec u.slot).tail = (x.slotRec u.slot).tail ++ [u] ∧
      ((t.bolt b).slotRec u.slot).chunksOut = (x.slotRec u.slot).chunksOut + 1) ∧
    (e.treeDepth ≤ here → exec (.unitHandOut b key) s = .next s) := by
  intro x here
  have room : (s.bolt b).treeRoom e = decide (here < e.treeDepth) := rfl
  rw [(exec_unitHandOut s b key e u w hu hp).2 hn, hl, room]
  refine ⟨fun h => ?_, fun h => by rw [decide_eq_false (by omega)]; rfl⟩
  have cleared : (s.clearRegion b key u).bolt b = x.setRegion key (leftRegion (x.region key) u) := State.modBolt_bolt_self _ _ _
  have pages := PagesOnly.prefetchAfter (s.clearRegion b key u) b key u.slot e
  have picks : Picks (s.clearRegion b key u) b u.slot := by
    rw [Picks, cleared]
    exact hp
  rw [decide_eq_true h, Bool.not_true, Bool.and_false, if_neg Bool.false_ne_true,
    State.leavePipe_last _ b u hl (pages.picks b _ picks)]
  refine ⟨_, rfl, regionIs_of_setRegion fun k => ?_, ?_⟩
  · rw [State.modBolt_bolt_self, ← cleared]
    exact pages.region b k
  · rw [State.modBolt_bolt_self, BoltRec.slotRec_modSlot_self]
    have slot : (((s.clearRegion b key u).prefetchAfter b key u.slot e).bolt b).slotRec u.slot = { x.slotRec u.slot with
        kv := ((((s.clearRegion b key u).prefetchAfter b key u.slot e).bolt b).slotRec u.slot).kv } := by
      rw [pages.slot b u.slot, cleared]; rfl
    have tops : (((s.clearRegion b key u).prefetchAfter b key u.slot e).bolt b).tops = x.tops := by
      rw [pages.bolt b, cleared]; rfl
    exact ⟨congrArg (· ++ [u.slot]) tops, congrArg (·.tail ++ [u]) slot, congrArg (·.chunksOut + 1) slot⟩

end Sys2Proof.Machine
end

section
namespace Sys2Proof.Machine

open Sys2Proof

/-! PROOFS. Verdicts of a layer and draws of the token unit. -/

/-! ## LAYER_VERDICT (R183–R190) -/

/-- The unit at which a verdict falls. -/
structure Judged (s : State) (b key : Nat) (e : EpochRec) (u : PUnit) : Prop where
  works : Works s b key e
  unit : ((s.bolt b).region key).unit = some u
  layer : e.kindOf (key % 256) = 0
  verdict : u.verdict = false
  pass : u.pass = none
  inp : u.inp = none
  owed : u.owed = 0
  cur : u.cur < u.len

theorem exec_layerVerdict (s : State) (b key : Nat) (e : EpochRec) (u : PUnit) (m : WatchSample) (h : Judged s b key e u) :
    exec (.layerVerdict b key m) s = .next (s.judge b key e u m) := by
  obtain ⟨w, hu, hk, hv, hp, hi, ho, hc⟩ := h
  show execLayerVerdict b key m s = _
  rw [execLayerVerdict, onBolt, onUnit_next _ _ _ (by simpa using w.boltNo)]
  simp only [w.running, w.serving, hu, hk, hv, hp, hi, ho, hc, and_self, if_true]

/-- The average that a token's norm is compared with: that of the copy that the token before it wrote (R185). -/
def otherAvg (k : KvRec) (p : Nat) : F32 := if p % 2 = 0 then k.avg1 else k.avg0

theorem otherAvg_eq (k : KvRec) (p : Nat) : (if (p + 1) % 2 = 0 then k.avg0 else k.avg1) = otherAvg k p := by
  rw [otherAvg]
  rcases Nat.mod_two_eq_zero_or_one p with h | h
  · rw [if_neg (by omega), if_pos h]
  · rw [if_pos (by omega), if_neg (by omega)]

/-- What a stream has in a region after the token at `p` is final with norm `n` (R185, R202). -/
def finalKv (k : KvRec) (p n : Nat) (fills : Prop) [Decidable fills] : KvRec :=
  { k with
    avg0 := if p % 2 = 0 then BitVec.ofNat 32 (avgUpdate n (otherAvg k p).toNat) else k.avg0
    avg1 := if p % 2 = 0 then k.avg1 else BitVec.ofNat 32 (avgUpdate n (otherAvg k p).toNat)
    flushDue := if fills then some k.pages.length else k.flushDue }

/-- A token whose pass is final: the next one is judged, the average of its copy takes its norm, and the last token of a unit that
fills a page makes its flush due. -/
theorem State.tokenFinal_effect (s : State) (b key : Nat) (u : PUnit) (tok : TokWatch) (n : Nat) :
    s.tokenFinal b key u tok n = { s with bolts := (s.tokenFinal b key u tok n).bolts } ∧
    RegionIs s (s.tokenFinal b key u tok n) b key { (s.bolt b).region key with unit := some { u with
      toks := u.toks.set u.cur tok, cur := u.cur + 1, verdict := decide (u.cur + 1 = u.len) } } ∧
    kvAt (s.tokenFinal b key u tok n) b u.slot (key % 256) = finalKv (kvAt s b u.slot (key % 256)) (u.pos + u.cur) n
      (u.cur + 1 = u.len ∧ u.pos / 64 < (u.pos + u.len) / 64) := by
  have judged := State.modBolt_frame (State.modBolt_frame (s := s) (t := s) rfl b fun r => r.modSlot u.slot fun x => { x with
    kv := Tab.put {} x.kv (key % 256) (finalKv (Tab.get {} x.kv (key % 256)) (u.pos + u.cur) n False) }) b fun r => r.setRegion key
    { r.region key with unit := some { u with
      toks := u.toks.set u.cur tok, cur := u.cur + 1, verdict := decide (u.cur + 1 = u.len) } }
  have kv (k : KvRec) : (if (u.pos + u.cur) % 2 = 0 then
      { k with avg0 := BitVec.ofNat 32 (avgUpdate n (otherAvg k (u.pos + u.cur)).toNat) }
      else { k with avg1 := BitVec.ofNat 32 (avgUpdate n (otherAvg k (u.pos + u.cur)).toNat) }) =
      finalKv k (u.pos + u.cur) n False := by
    rcases Nat.mod_two_eq_zero_or_one (u.pos + u.cur) with h | h <;> simp [finalKv, h]
  simp only [State.tokenFinal, otherAvg_eq, kv, Bool.and_eq_true, decide_eq_true_eq, gt_iff_lt]
  split
  · rename_i h
    refine ⟨State.modBolt_frame judged _ _, regionIs_of_setRegion fun k => ?_, ?_⟩
    · simp [BoltRec.region_setRegion]
    · simp [kvAt, finalKv, h]
  · rename_i h
    refine ⟨judged, regionIs_of_setRegion fun k => ?_, ?_⟩
    · simp [BoltRec.region_setRegion]
    · simp [kvAt, finalKv, h]

/-- A report of a stream's unit (R190). -/
theorem State.watchReport_effect (s : State) (b key : Nat) (e : EpochRec) (w : Nat → Nat) (u : PUnit)
    (hu : ((s.bolt b).region key).unit = some u) (hs : ((s.bolt b).slotRec u.slot).synthetic = false) :
    s.watchReport b key e w = (s.setHarn (e.harnessOf (key % 256)) { s.harn (e.harnessOf (key % 256)) with
      mailbox := writeLE (s.harn (e.harnessOf (key % 256))).mailbox
        (0x8000 + 64 * (key % 256) + 8 * (((s.bolt b).region key).watchSeq % 8)) 8 (w ((s.bolt b).region key).watchSeq) }).setBolt b
      ((s.bolt b).setRegion key { (s.bolt b).region key with watchSeq := (((s.bolt b).region key).watchSeq + 1) % 65536 }) := by
  simp only [State.watchReport, State.modBolt, State.modHarn, State.setHarn_unit_bolt, hu, hs, Bool.false_eq_true, if_false]

/-- The token that is judged, and the gates of its experts. -/
def judgedTok (u : PUnit) : TokWatch := u.toks.getD u.cur freshTok
def judgedGate (u : PUnit) : Nat × Nat :=
  match u.gates.getD u.cur none with
  | some x => x.2
  | none => (0, 0)

/-- The norm of its pass, and the average that it is compared with. -/
def judgedNorm (u : PUnit) (m : WatchSample) : Nat :=
  watchNorm (watchQ m ((judgedTok u).e4m3 || (judgedTok u).rerun) (judgedGate u))
def State.judgedAvg (s : State) (b key : Nat) (u : PUnit) : Nat :=
  (otherAvg (kvAt s b u.slot (key % 256)) (u.pos + u.cur)).toNat

/-- The two triggers of Table 7.1. -/
def State.normJumps (s : State) (b key : Nat) (e : EpochRec) (u : PUnit) (m : WatchSample) : Bool :=
  normTrig (Config.jumpRatio e.manifestHash (key % 256)).toNat (judgedNorm u m) (s.judgedAvg b key u)
def saturates (key : Nat) (e : EpochRec) (u : PUnit) (m : WatchSample) : Bool :=
  satTrig (decide (u.kind = .pick)) (Config.layerElements e.manifestHash (key % 256)) (watchS m + u.sat)

theorem State.judge_calm (s : State) (b key : Nat) (e : EpochRec) (u : PUnit) (m : WatchSample)
    (h1 : s.normJumps b key e u m = false) (h2 : saturates key e u m = false) :
    s.judge b key e u m = s.tokenFinal b key u { judgedTok u with rerun := false } (judgedNorm u m) := by
  simp only [State.judge, otherAvg_eq]
  exact if_pos (show (!(s.normJumps b key e u m || saturates key e u m)) = true by rw [h1, h2]; rfl)

/-- The word of a first or second trigger (Table 7.2). -/
def State.triggerWord (s : State) (b key : Nat) (e : EpochRec) (u : PUnit) (m : WatchSample) (seq : Nat) : Nat :=
  watchWord seq u.slot (s.normJumps b key e u m) (saturates key e u m) ((judgedTok u).triggers + 1) (!decide (u.kind = .pick)) false
    (watchRatio (judgedNorm u m) (s.judgedAvg b key u))

/-- The unit after a first or second trigger: the layer reruns from the token on, after a second one in E4M3 (R186, R188). -/
def rerunUnit (u : PUnit) (attends : Bool) : PUnit :=
  { u with
    toks := u.toks.set u.cur { judgedTok u with
      triggers := (judgedTok u).triggers + 1, e4m3 := decide ((judgedTok u).triggers = 1), rerun := true }
    pass := if attends then some u.cur else none, kept := [] }

theorem State.judge_trigger (s : State) (b key : Nat) (e : EpochRec) (u : PUnit) (m : WatchSample)
    (h : s.normJumps b key e u m = true ∨ saturates key e u m = true) (ht : (judgedTok u).triggers < 2)
    (hr : (judgedTok u).rerun = false) (h4 : (judgedTok u).e4m3 = false) :
    s.judge b key e u m = (s.watchReport b key e (s.triggerWord b key e u m)).setUnit b key
      (rerunUnit u (e.kv? (key % 256)).isSome) := by
  have word : s.triggerWord b key e u m = fun seq => watchWord seq u.slot (s.normJumps b key e u m) (saturates key e u m)
      ((judgedTok u).triggers + 1) (!decide (u.kind = .pick)) (decide (3 ≤ (judgedTok u).triggers))
      (watchRatio (judgedNorm u m) (s.judgedAvg b key u)) := by
    rw [decide_eq_false (by omega : ¬ 3 ≤ (judgedTok u).triggers)]
    rfl
  have unit : { judgedTok u with
      triggers := (judgedTok u).triggers + 1, e4m3 := decide (2 ≤ (judgedTok u).triggers + 1), rerun := true
      warn := (judgedTok u).warn || decide ((judgedTok u).triggers = 2) } = { judgedTok u with
      triggers := (judgedTok u).triggers + 1, e4m3 := decide ((judgedTok u).triggers = 1), rerun := true } := by
    have two : decide ((judgedTok u).triggers = 2) = false := decide_eq_false (by omega)
    have one : decide (2 ≤ (judgedTok u).triggers + 1) = decide ((judgedTok u).triggers = 1) := decide_eq_decide.2 (by omega)
    rw [two, one, Bool.or_false]
  have trigger : ¬ (!(s.normJumps b key e u m || saturates key e u m)) = true := by
    rcases h with h | h <;> simp [h]
  simp only [State.judge, otherAvg_eq]
  refine (if_neg trigger).trans ((if_pos ⟨ht, hr, h4⟩).trans ?_)
  rw [rerunUnit, ← unit, word]
  rfl

/-- A token without a trigger is final. -/
theorem layerVerdict_calm (s : State) (b key : Nat) (e : EpochRec) (u : PUnit) (m : WatchSample) (h : Judged s b key e u)
    (h1 : s.normJumps b key e u m = false) (h2 : saturates key e u m = false) :
    ∃ t, exec (.layerVerdict b key m) s = .next t ∧ t = { s with bolts := t.bolts } ∧
      RegionIs s t b key { (s.bolt b).region key with unit := some { u with
        toks := u.toks.set u.cur { judgedTok u with rerun := false }, cur := u.cur + 1
        verdict := decide (u.cur + 1 = u.len) } } ∧
      kvAt t b u.slot (key % 256) = finalKv (kvAt s b u.slot (key % 256)) (u.pos + u.cur) (judgedNorm u m)
        (u.cur + 1 = u.len ∧ u.pos / 64 < (u.pos + u.len) / 64) :=
  ⟨_, (exec_layerVerdict s b key e u m h).trans (congrArg _ (s.judge_calm b key e u m h1 h2)),
    s.tokenFinal_effect b key u _ _⟩

/-- A first or second trigger writes the watch word and reruns the token. -/
theorem layerVerdict_trigger (s : State) (b key : Nat) (e : EpochRec) (u : PUnit) (m : WatchSample) (h : Judged s b key e u)
    (hc : s.normJumps b key e u m = true ∨ saturates key e u m = true) (ht : (judgedTok u).triggers < 2)
    (hr : (judgedTok u).rerun = false) (h4 : (judgedTok u).e4m3 = false)
    (hs : ((s.bolt b).slotRec u.slot).synthetic = false) :
    ∃ t, exec (.layerVerdict b key m) s = .next t ∧ t = { s with bolts := t.bolts, harness := t.harness } ∧
      RegionIs s t b key { (s.bolt b).region key with
        watchSeq := (((s.bolt b).region key).watchSeq + 1) % 65536
        unit := some (rerunUnit u (e.kv? (key % 256)).isSome) } ∧
      t.harn (e.harnessOf (key % 256)) = { s.harn (e.harnessOf (key % 256)) with
        mailbox := writeLE (s.harn (e.harnessOf (key % 256))).mailbox
          (0x8000 + 64 * (key % 256) + 8 * (((s.bolt b).region key).watchSeq % 8)) 8
          (s.triggerWord b key e u m ((s.bolt b).region key).watchSeq) } ∧
      ∀ k, k ≠ e.harnessOf (key % 256) → t.harn k = s.harn k := by
  refine ⟨_, (exec_layerVerdict s b key e u m h).trans (congrArg _ (s.judge_trigger b key e u m hc ht hr h4)), ?_⟩
  rw [State.watchReport_effect s b key e _ u h.unit hs]
  refine ⟨rfl, regionIs_of_setRegion fun k => ?_, ?_, fun k hk => ?_⟩
  · by_cases hk : k = key <;> simp [BoltRec.region_setRegion, hk]
  · exact State.setHarn_harn_self _ _ _
  · exact State.setHarn_harn_ne _ _ _ _ hk

/-! ## TOKEN_DRAW (R21, R306, R307) -/

/-- A draw on the lane in turn gives the slot its token; on another it waits. -/
theorem exec_tokenDraw (s : State) (b slot i : Nat) (u : PUnit) (rest : List PUnit) (logits : List (Nat × F32))
    (h : RunsIn s b slot i) (ht : ((s.bolt b).slotRec slot).tail = u :: rest) (hd : ((s.bolt b).slotRec slot).drawn = none) :
    ((s.laneFree (s.bolt b).homeSide && s.laneTurn (s.bolt b).homeSide b slot) = true →
      (∀ y ∈ logits, y.1 < (s.reqEpoch (s.req i)).serve.vocab) → (logits.map fun y => y.1).Nodup →
      exec (.tokenDraw b slot logits) s = .next (s.setBolt b
        (({ s.bolt b with tops := (s.bolt b).tops.erase slot } : BoltRec).modSlot slot fun k => { k with
          drawn := some ((drawToken (s.reqEpoch (s.req i)).serve.vocab (s.req i) logits (s.req i).seqLen).1,
            (drawToken (s.reqEpoch (s.req i)).serve.vocab (s.req i) logits (s.req i).seqLen).2 ||
              (u.toks.getLastD freshTok).warn)
          tail := rest }))) ∧
    ((s.laneFree (s.bolt b).homeSide && s.laneTurn (s.bolt b).homeSide b slot) = false →
      exec (.tokenDraw b slot logits) s = .next s) := by
  have run : exec (.tokenDraw b slot logits) s = execTokenDraw b slot logits s := rfl
  rw [run, execTokenDraw, onUnit_next _ _ _ (by simpa using ⟨h.boltNo, h.slotNo⟩)]
  simp only [ht, h.holder]
  refine ⟨fun hf hv hn => ?_, fun hf => ?_⟩
  · obtain ⟨h1, h2⟩ := Bool.and_eq_true_iff.1 hf
    have ok : (logits.all (fun x => decide (x.1 < (s.reqEpoch (s.req i)).serve.vocab)) &&
        decide (logits.map fun x => x.1).Nodup) = true := by simpa using ⟨fun a x hx => hv (a, x) hx, hn⟩
    rw [if_pos ⟨h.serving, hd, h1, h2⟩, State.useReq, if_pos h.key, if_pos ok]
    rfl
  · rw [if_neg]
    rintro ⟨-, -, h1, h2⟩
    simp [h1, h2] at hf

end Sys2Proof.Machine
end

section
namespace Sys2Proof.Machine

open Sys2Proof

/-! PROOFS. The flush of a page into its reserved frame. -/

/-! ## BOBBIN_FLUSH (R197, R202, R203) -/

theorem slot_ne_noSlot {slot : Nat} (h : slot < Config.maxSlots) : slot ≠ noSlot := by
  have : Config.maxSlots < noSlot := by decide
  omega

/-- A request in a slot has its pages there. -/
theorem State.reqKv_inSlot (s : State) (r : ReqRec) (h : r.slot < Config.maxSlots) :
    s.reqKv r = ((s.bolt r.bolt).slotRec r.slot).kv := by
  rw [State.reqKv, if_neg (slot_ne_noSlot h)]
  rfl

theorem State.setReqKv_inSlot (s : State) (i : Nat) (kv : Tab KvRec) (h : (s.req i).slot < Config.maxSlots) :
    s.setReqKv i kv = s.modBolt (s.req i).bolt fun b => b.modSlot (s.req i).slot fun k => { k with kv := kv } := by
  rw [State.setReqKv, if_neg (slot_ne_noSlot h)]

@[simp] theorem State.syncPage_req (s : State) (e : EpochRec) (g : KvGeom) (p : KvPage) (i : Nat) :
    (s.syncPage e g p).req i = s.req i := by rw [s.syncPage_cores]; rfl
@[simp] theorem State.fillFrame_req (s : State) (e : EpochRec) (g : KvGeom) (p : KvPage) (i : Nat) :
    (s.fillFrame e g p).req i = s.req i := by rw [s.fillFrame_cores]; rfl

/-- The pages of a request in a slot, once written. -/
theorem State.reqKv_setReqKv (s : State) (i : Nat) (kv : Tab KvRec) (h : (s.req i).slot < Config.maxSlots) :
    (s.setReqKv i kv).reqKv (s.req i) = kv := by
  rw [State.reqKv_inSlot _ _ h, s.setReqKv_inSlot i kv h]
  simp

/-- Writes of cores after writes of cores. -/
theorem State.cores_trans {s t u : State} (h : t = { s with cores := t.cores }) (h' : u = { t with cores := u.cores }) :
    u = { s with cores := u.cores } := by
  rw [h', h]

/-- The page that a flush writes (R196, R199). -/
def flushedPage (k : KvRec) (num f now : Nat) : KvPage :=
  (⟨.frame, num, f, (k.bobbin.map fun h => h.take 64).map pageOf, now, false, none, 0⟩ : KvPage).sealed

/-- What a stream has in a region after its flush (R202, R203). -/
def flushedKv (k : KvRec) (num f now : Nat) : KvRec :=
  { k with
    lastBf := k.bobbin.map fun h => h.take 64, bobbin := k.bobbin.map fun h => h.drop 64
    pages := k.pages ++ [flushedPage k num f now]
    flushDue := if (k.bobbin.map fun h => h.drop 64).any fun h => decide (64 ≤ h.length) then some (k.pages.length + 1)
      else none }

/-- Another page is complete where a bobbin held two. -/
theorem flushedKv_due (k : KvRec) (num f now : Nat) : (flushedKv k num f now).flushDue =
    if ∃ h ∈ k.bobbin, 128 ≤ h.length then some (k.pages.length + 1) else none := by
  refine if_congr ?_ rfl rfl
  simp only [List.any_eq_true, List.mem_map, decide_eq_true_eq, exists_exists_and_eq_and, List.length_drop]
  exact exists_congr fun h => and_congr_right fun _ => by omega

/-- The pages of request `i` in a region replaced, and the saturations of a flush counted (R197). -/
def State.putKv (s : State) (b i region key n : Nat) (k : KvRec) : State :=
  (s.setReqKv i (Tab.put {} (s.reqKv (s.req i)) region k)).addSat b key (s.req i).slot n

/-- A page on its lane cores, and the work list of its slot; one flush more is counted (R199, R200, R226). -/
def State.putPage (s : State) (b : Nat) (e : EpochRec) (g : KvGeom) (slot : Nat) (p : KvPage) (l : List KvPage) : State :=
  (((s.fillFrame e g p).syncPage e g p).syncWork e g slot l).modServeOf b fun v => { v with flushes := (v.flushes + 1) % 2 ^ 32 }

/-- The frame reserved for the next page is taken. -/
theorem State.nextFrame_reserved (s : State) (b : Nat) (e : EpochRec) (g : KvGeom) (i num f : Nat) (rest : List Nat)
    (hr : (Tab.get {} (s.reqKv (s.req i)) g.region).reserved = f :: rest) :
    s.nextFrame b e g i num = (s.setReqKv i (Tab.put {} (s.reqKv (s.req i)) g.region
      { Tab.get {} (s.reqKv (s.req i)) g.region with reserved := rest }), some f) := by
  rw [State.nextFrame]
  simp only [hr]

/-- A flush of a request in a slot, which has found the frame `f`. -/
theorem State.flushPage_eq (s q : State) (b i num f : Nat) (e : EpochRec) (g : KvGeom)
    (hq : s.nextFrame b e g i num = (q, some f)) (hg : e.kv? g.region = some g)
    (hn : (s.req i).pageList.getD (Tab.get {} (s.reqKv (s.req i)) g.region).pages.length 0 = num)
    (hl : (Tab.get {} (s.reqKv (s.req i)) g.region).pages = (Tab.get {} (q.reqKv (q.req i)) g.region).pages)
    (hs : (q.req i).slot < Config.maxSlots) :
    let k := Tab.get {} (q.reqKv (q.req i)) g.region
    s.flushPage b e g.region i = (q.putKv b i g.region (rkey e g.region)
      ((k.bobbin.map fun h => h.take 64).foldl (fun a h => a + pageSat h) 0)
      (flushedKv k num f q.time)).putPage b e g (q.req i).slot (flushedPage k num f q.time) (flushedKv k num f q.time).pages := by
  intro k
  rw [State.flushPage, hg]
  simp only [hn, hq]
  rw [hl]
  simp only [q.setReqKv_inSlot i _ hs, State.syncPage_req, State.fillFrame_req]
  refine congrArg (fun s : State => s.modServeOf b _) ((if_neg (slot_ne_noSlot hs)).trans ?_)
  rw [State.putKv, q.setReqKv_inSlot i _ hs]
  rfl

/-- After a flush the slot has the new pages, and one more is counted. -/
theorem State.putPage_putKv (s : State) (i key n : Nat) (k : KvRec) (e : EpochRec) (g : KvGeom) (p : KvPage)
    (hs : (s.req i).slot < Config.maxSlots) :
    let b := (s.req i).bolt
    let t := (s.putKv b i g.region key n k).putPage b e g (s.req i).slot p k.pages
    kvAt t b (s.req i).slot g.region = k ∧
    t.serveOf b = { s.serveOf b with flushes := ((s.serveOf b).flushes + 1) % 2 ^ 32 } ∧
    t = { s with bolts := t.bolts, cores := t.cores, serve := t.serve } := by
  intro b t
  have bolts : s.putKv b i g.region key n k = { s with bolts := (s.putKv b i g.region key n k).bolts } := by
    rw [State.putKv, s.setReqKv_inSlot i _ hs]
    exact State.modBolt_frame (s := s) (State.modBolt_frame (s := s) (t := s) rfl _ _) _ _
  have cores := State.cores_trans (State.cores_trans ((s.putKv b i g.region key n k).fillFrame_cores e g p)
    (State.syncPage_cores _ e g p)) (State.syncWork_cores _ e g (s.req i).slot k.pages)
  have kv : kvAt (s.putKv b i g.region key n k) b (s.req i).slot g.region = k := by
    rw [State.putKv, s.setReqKv_inSlot i _ hs, kvAt, State.addSat]
    simp [b]
  refine ⟨?_, ?_, ?_⟩
  · simp only [t, State.putPage]
    rw [cores]
    exact kv
  · simp only [t, State.putPage]
    rw [cores, bolts]
    exact State.modServeOf_serveOf_self _ _ _
  · simp only [t, State.putPage]
    rw [cores, bolts]
    rfl

theorem exec_bobbinFlush (s : State) (b key slot i : Nat) (e : EpochRec) (w : Works s b key e) (h : RunsIn s b slot i) :
    exec (.bobbinFlush b key slot) s = .next (if (kvAt s b slot (key % 256)).flushDue.isSome &&
      (kvAt s b slot (key % 256)).bobbin.any (fun h => decide (64 ≤ h.length)) then s.flushPage b e (key % 256) i else s) := by
  have run : exec (.bobbinFlush b key slot) s = execBobbinFlush b key slot s := rfl
  rw [run, execBobbinFlush, onUnit_next _ _ _ (by simpa using ⟨h.boltNo, h.slotNo⟩)]
  simp only [w.running, h.holder]
  rfl

/-- A flush that is due puts the page into its reserved frame. -/
theorem bobbinFlush_reserved (s : State) (b key slot i f : Nat) (rest : List Nat) (e : EpochRec) (g : KvGeom) (w : Works s b key e)
    (h : RunsIn s b slot i) (hg : e.kv? (key % 256) = some g) (hd : (kvAt s b slot (key % 256)).flushDue.isSome = true)
    (hb : ∃ h ∈ (kvAt s b slot (key % 256)).bobbin, 64 ≤ h.length) (hr : (kvAt s b slot (key % 256)).reserved = f :: rest) :
    let k := kvAt s b slot (key % 256)
    ∃ t, exec (.bobbinFlush b key slot) s = .next t ∧
      kvAt t b slot (key % 256) =
        flushedKv { k with reserved := rest } ((s.req i).pageList.getD k.pages.length 0) f s.time ∧
      t.serveOf b = { s.serveOf b with flushes := ((s.serveOf b).flushes + 1) % 2 ^ 32 } ∧
      t = { s with bolts := t.bolts, cores := t.cores, serve := t.serve } := by
  intro k
  have full : (k.flushDue.isSome && k.bobbin.any fun h => decide (64 ≤ h.length)) = true := by
    rw [hd, Bool.true_and, List.any_eq_true]
    simpa using hb
  rw [exec_bobbinFlush s b key slot i e w h, if_pos full]
  have region : g.region = key % 256 := by simpa using List.find?_some hg
  have hs := h.slotNo
  have here := h.inBolt
  have place := h.inSlot
  subst here place
  rw [← region] at hg hr ⊢
  have kv : kvAt s (s.req i).bolt (s.req i).slot g.region = Tab.get {} (s.reqKv (s.req i)) g.region := by
    rw [s.reqKv_inSlot _ hs]; rfl
  simp only [k, ← region, kv] at hr ⊢
  have taken (num : Nat) := s.nextFrame_reserved (s.req i).bolt e g i num f rest hr
  generalize hk : ({ Tab.get {} (s.reqKv (s.req i)) g.region with reserved := rest } : KvRec) = k1 at taken ⊢
  generalize hq : s.setReqKv i (Tab.put {} (s.reqKv (s.req i)) g.region k1) = q at taken
  have req : q.req i = s.req i := by rw [← hq, s.setReqKv_inSlot i _ hs]; rfl
  have bolts : q = { s with bolts := q.bolts } := by rw [← hq, s.setReqKv_inSlot i _ hs]; rfl
  have kq : Tab.get {} (q.reqKv (q.req i)) g.region = k1 := by
    rw [req, ← hq, s.reqKv_setReqKv i _ hs, Tab.get_put_self]
  have pages : (Tab.get {} (s.reqKv (s.req i)) g.region).pages = k1.pages := by rw [← hk]
  have flushed := s.flushPage_eq q (s.req i).bolt i _ f e g (taken _) hg rfl (by rw [kq, pages]) (by rw [req]; exact hs)
  have time : q.time = s.time := by rw [bolts]
  have serve (b : Nat) : q.serveOf b = s.serveOf b := by rw [bolts]; rfl
  obtain ⟨h1, h2, h3⟩ := q.putPage_putKv i (rkey e g.region)
    ((k1.bobbin.map fun h => h.take 64).foldl (fun a h => a + pageSat h) 0)
    (flushedKv k1 ((s.req i).pageList.getD k1.pages.length 0) f s.time) e g
    (flushedPage k1 ((s.req i).pageList.getD k1.pages.length 0) f s.time) (by rw [req]; exact hs)
  rw [kq, time, pages] at flushed
  rw [req] at flushed h1 h2 h3
  rw [serve] at h2
  rw [pages]
  refine ⟨_, congrArg _ flushed, h1, h2, ?_⟩
  rw [h3, bolts]

end Sys2Proof.Machine
end

section
namespace Sys2Proof.Machine

open Sys2Proof

/-! PROOFS. The state field of a key word, and the blocks of a bolt's pool. -/

/-! ## The state of a request in its key word (R284, R285) -/

theorem ReqRec.setSt_key (r : ReqRec) (v : Nat) : (r.setSt v).key.toNat = r.key.toNat / 16 * 16 + v % 16 := by
  have lt := r.key.isLt
  show (BitVec.ofNat 64 (setBits r.key.toNat 0 4 v)).toNat = _
  rw [BitVec.toNat_ofNat, setBits, bits]
  simp only [Nat.shiftRight_zero, Nat.shiftLeft_zero]
  omega

@[simp] theorem ReqRec.setSt_st (r : ReqRec) (v : Nat) : (r.setSt v).st = v % 16 := by
  rw [ReqRec.st, ReqRec.kf, bits, ReqRec.setSt_key, Nat.shiftRight_zero]
  omega

/-- The key word above its state field. -/
theorem ReqRec.setSt_key_div (r : ReqRec) (v lo : Nat) (h : 4 ≤ lo) :
    (r.setSt v).key.toNat / 2 ^ lo = r.key.toNat / 2 ^ lo := by
  obtain ⟨k, rfl⟩ := Nat.exists_eq_add_of_le h
  rw [Nat.pow_add, ← Nat.div_div_eq_div_mul, ← Nat.div_div_eq_div_mul, ReqRec.setSt_key]
  congr 1
  omega

theorem ReqRec.setSt_kf (r : ReqRec) (v lo n : Nat) (h : 4 ≤ lo) : (r.setSt v).kf lo n = r.kf lo n := by
  simp only [ReqRec.kf, bits, Nat.shiftRight_eq_div_pow, r.setSt_key_div v lo h]

@[simp] theorem ReqRec.setSt_bolt (r : ReqRec) (v : Nat) : (r.setSt v).bolt = r.bolt := r.setSt_kf v 4 3 (by decide)
@[simp] theorem ReqRec.setSt_slot (r : ReqRec) (v : Nat) : (r.setSt v).slot = r.slot := r.setSt_kf v 10 10 (by decide)
@[simp] theorem ReqRec.setSt_epoch (r : ReqRec) (v : Nat) : (r.setSt v).epoch = r.epoch := r.setSt_kf v 20 16 (by decide)
@[simp] theorem ReqRec.setSt_idsOnly (r : ReqRec) (v : Nat) : (r.setSt v).idsOnly = r.idsOnly := by
  simp only [ReqRec.idsOnly, BitVec.getLsbD, Nat.testBit_eq_decide_div_mod_eq, r.setSt_key_div v 47 (by decide)]

/-! ## Blocks taken and given back (R320) -/

/-- From `s` to `t` only creel and the blocks of bolts have changed. -/
structure PoolOnly (s t : State) : Prop where
  frame : t = { s with bolts := t.bolts, creel := t.creel }
  bolt : ∀ b, t.bolt b = { s.bolt b with pool := (t.bolt b).pool }

theorem PoolOnly.refl (s : State) : PoolOnly s s := ⟨rfl, fun _ => rfl⟩

theorem PoolOnly.trans {s t u : State} (h : PoolOnly s t) (h' : PoolOnly t u) : PoolOnly s u :=
  ⟨by rw [h'.frame, h.frame], fun b => by rw [h'.bolt b, h.bolt b]⟩

theorem PoolOnly.req {s t : State} (h : PoolOnly s t) (i : Nat) : t.req i = s.req i := by rw [h.frame]; rfl
theorem PoolOnly.qps {s t : State} (h : PoolOnly s t) : t.qps = s.qps := by rw [h.frame]
theorem PoolOnly.funcs {s t : State} (h : PoolOnly s t) : t.funcs = s.funcs := by rw [h.frame]
theorem PoolOnly.epochOf {s t : State} (h : PoolOnly s t) (b n : Nat) : (t.bolt b).epochOf n = (s.bolt b).epochOf n := by
  rw [h.bolt b]; rfl

theorem PoolOnly.setPort (s : State) (p : Nat) (r : PortRec) : PoolOnly s (s.setPort p r) := ⟨rfl, fun _ => rfl⟩

theorem PoolOnly.modPool (s : State) (b : Nat) (f : BoltRec → List (Nat × Nat)) :
    PoolOnly s (s.modBolt b fun r => { r with pool := f r }) := by
  refine ⟨rfl, fun c => ?_⟩
  by_cases h : c = b
  · subst h
    rw [State.modBolt_bolt_self]
  · rw [State.modBolt_bolt_ne _ _ _ _ h]

theorem PoolOnly.poolGrow (b p n : Nat) (s : State) : PoolOnly s (State.poolGrow b p n s) := by
  induction n generalizing s with
  | zero => exact .refl s
  | succ n ih =>
    rw [State.poolGrow, State.allocRun]
    split
    · rename_i t k hk
      have step : PoolOnly s t := by
        split at hk
        · obtain ⟨_, -, h⟩ := Option.map_eq_some_iff.1 hk
          rw [← (Prod.mk.inj h).1]
          exact .setPort _ _ _
        · cases hk
      exact (step.trans (.modPool t b _)).trans (ih _)
    · exact .refl s

theorem PoolOnly.poolShrink (s : State) (b p n : Nat) : PoolOnly s (s.poolShrink b p n) := by
  have freed : PoolOnly s (s.freeBlocks (((s.bolt b).poolOn p).reverse.take n)) :=
    List.foldlRecOn (motive := PoolOnly s) _ _ (.refl s) fun t ht _ _ => ht.trans (.setPort _ _ _)
  exact freed.trans (.modPool _ b fun r => r.pool.filter fun e => !(((s.bolt b).poolOn p).reverse.take n).contains e)

theorem PoolOnly.fitPool (s : State) (b : Nat) : PoolOnly s (s.fitPool b) :=
  List.foldlRecOn (motive := PoolOnly s) _ _ (.refl s) fun t ht p _ => by
    dsimp only
    split
    · exact ht.trans (.poolGrow _ _ _ _)
    · exact ht.trans (.poolShrink _ _ _ _)

/-! ## What a pool holds (R320) -/

/-- What the blocks of a pool are needed for: requests, adapters, tuning and pages, whatever else slots hold. -/
structure SameUses (s t : State) : Prop where
  reqs : t.reqs = s.reqs
  creel : t.creel = s.creel
  adapters : t.adapters = s.adapters
  bolt : ∀ b, t.bolt b = { s.bolt b with slots := (t.bolt b).slots }
  kv : ∀ b k, ((t.bolt b).slotRec k).kv = ((s.bolt b).slotRec k).kv

theorem SameUses.port {s t : State} (h : SameUses s t) (p : Nat) : t.port p = s.port p :=
  congrArg (Tab.get ({} : PortRec) · p) h.creel

theorem SameUses.homePort {s t : State} (h : SameUses s t) (x : Nat) : t.homePort x = s.homePort x := by
  simp only [State.homePort, h.port]

theorem SameUses.reqUses {s t : State} (h : SameUses s t) (p i : Nat) : t.reqUses p i = s.reqUses p i := by
  have req : t.req i = s.req i := congrArg (Tab.get ({} : ReqRec) · i) h.reqs
  have kv (r : ReqRec) : t.reqKv r = s.reqKv r := by
    simp only [State.reqKv]
    split
    · rfl
    · exact h.kv _ _
  have epoch (r : ReqRec) : t.reqEpoch r = s.reqEpoch r := by
    rw [State.reqEpoch, h.bolt]; rfl
  simp only [State.reqUses, req, h.homePort, kv, epoch]

theorem SameUses.usesOn {s t : State} (h : SameUses s t) (b p : Nat) : t.usesOn b p = s.usesOn b p := by
  have spread (x n q : Nat) : t.spread x n q = s.spread x n q := by simp only [State.spread, h.homePort]
  have tune : (t.bolt b).tune = (s.bolt b).tune := by rw [h.bolt b]
  simp only [State.usesOn, State.boltReqs, h.reqs, h.adapters, h.reqUses, spread, tune]

theorem SameUses.poolFits {s t : State} (h : SameUses s t) (b : Nat) : t.poolFits b = s.poolFits b := by
  have pool (p : Nat) : (t.bolt b).poolOn p = (s.bolt b).poolOn p := by rw [h.bolt b]; rfl
  have resv : (t.bolt b).resvPerPort = (s.bolt b).resvPerPort := by rw [h.bolt b]
  have need (p : Nat) : t.poolNeed b p = s.poolNeed b p := by rw [State.poolNeed, State.poolBytes, h.usesOn]; rfl
  rw [State.poolFits, State.poolFits]
  simp only [need, h.port, pool, resv]

end Sys2Proof.Machine
end

section
namespace Sys2Proof.Machine

open Sys2Proof

/-! PROOFS. The end of a turn: what it leaves of token logs and queue pairs. -/

/-! ## Ways in which streams leave their slots keep token logs (R204, R223, R224, R301) -/

@[simp] theorem ReqRec.log_setKey (r : ReqRec) (lo n v : Nat) : (r.setKey lo n v).log = r.log := by
  rw [ReqRec.setKey]
@[simp] theorem ReqRec.log_setSt (r : ReqRec) (v : Nat) : (r.setSt v).log = r.log := r.log_setKey 0 4 v

/-- From `s` to `t` no token log and no queue pair has changed. -/
structure LogsKept (s t : State) : Prop where
  log : ∀ i, (t.req i).log = (s.req i).log
  qps : t.qps = s.qps

theorem LogsKept.refl (s : State) : LogsKept s s := ⟨fun _ => rfl, rfl⟩

theorem LogsKept.trans {s t u : State} (h : LogsKept s t) (h' : LogsKept t u) : LogsKept s u :=
  ⟨fun i => (h'.log i).trans (h.log i), h'.qps.trans h.qps⟩

theorem LogsKept.of_reqs {s t : State} (h : t.reqs = s.reqs) (hq : t.qps = s.qps) : LogsKept s t :=
  ⟨fun i => congrArg (fun l => (Tab.get ({} : ReqRec) l i).log) h, hq⟩

theorem LogsKept.modBolt (s : State) (b : Nat) (f : BoltRec → BoltRec) : LogsKept s (s.modBolt b f) := .of_reqs rfl rfl
theorem LogsKept.modServeOf (s : State) (b : Nat) (f : ServeRec → ServeRec) : LogsKept s (s.modServeOf b f) := .of_reqs rfl rfl

theorem LogsKept.setReq (s : State) (i : Nat) (r : ReqRec) (h : r.log = (s.req i).log) : LogsKept s (s.setReq i r) := by
  refine ⟨fun j => ?_, rfl⟩
  rw [State.setReq_req]
  split
  · subst j; exact h
  · rfl

theorem LogsKept.modReq (s : State) (i : Nat) (f : ReqRec → ReqRec) (h : ∀ r, (f r).log = r.log) : LogsKept s (s.modReq i f) :=
  .setReq _ _ _ (h _)

theorem LogsKept.foldl {α : Type} (f : State → α → State) (h : ∀ s a, LogsKept s (f s a)) (l : List α) (s : State) :
    LogsKept s (l.foldl f s) :=
  List.foldlRecOn _ _ (LogsKept.refl s) fun _ ht a _ => ht.trans (h _ a)

theorem LogsKept.fitPool (s : State) (b : Nat) : LogsKept s (s.fitPool b) := by
  rw [(PoolOnly.fitPool s b).frame]
  exact .of_reqs rfl rfl

theorem LogsKept.of_cores {s t : State} (h : t = { s with cores := t.cores }) : LogsKept s t := by
  rw [h]
  exact .of_reqs rfl rfl

theorem LogsKept.syncPage (s : State) (e : EpochRec) (g : KvGeom) (p : KvPage) : LogsKept s (s.syncPage e g p) :=
  .of_cores (s.syncPage_cores e g p)

theorem LogsKept.syncWork (s : State) (e : EpochRec) (g : KvGeom) (slot : Nat) (l : List KvPage) :
    LogsKept s (s.syncWork e g slot l) := .of_cores (s.syncWork_cores e g slot l)

theorem LogsKept.dropPages (s : State) (e : EpochRec) (region : Nat) (kv : KvRec) : LogsKept s (s.dropPages e region kv) := by
  rw [State.dropPages]
  split
  · exact .foldl _ (fun s p => .syncPage s e _ _) _ _
  · exact .refl s

theorem LogsKept.toBoundary (s : State) (i : Nat) : LogsKept s (s.toBoundary i) := by
  rw [State.toBoundary]
  dsimp only
  split
  · exact .refl s
  · exact (LogsKept.foldl _ (fun s x => .dropPages s _ _ _) _ s).trans (.modBolt _ _ _)

theorem LogsKept.clearSlot (s : State) (b slot : Nat) (e : EpochRec) : LogsKept s (s.clearSlot b slot e) := by
  rw [State.clearSlot]
  exact (LogsKept.foldl _ (fun s g => .syncWork s e g slot []) _ s).trans (.modBolt _ _ _)

theorem LogsKept.leaveSlot (s : State) (i : Nat) (keep : Bool) : LogsKept s (s.leaveSlot i keep) := by
  rw [State.leaveSlot]
  dsimp only
  split
  · exact .refl s
  · have boundary := LogsKept.toBoundary s i
    have saved (kv : Option (Tab KvRec)) (p : Nat) : LogsKept s ((s.toBoundary i).setReq i
        { (s.req i).setKey 10 10 noSlot with save := kv, savePort := p }) := by
      refine boundary.trans (.setReq _ _ _ ?_)
      simp [boundary.log i]
    cases keep
    · simp only [Bool.false_eq_true, if_false]
      exact ((saved _ _).trans (.foldl _ (fun s k => .dropPages s _ _ _) _ _)).trans (.clearSlot _ _ _ _)
    · simp only [if_true]
      exact ((saved _ _).trans (.modBolt _ _ _)).trans (.clearSlot _ _ _ _)

theorem LogsKept.freePages (s : State) (i : Nat) : LogsKept s (s.freePages i) := by
  rw [State.freePages]
  split
  · exact (LogsKept.foldl _ (fun s k => .dropPages s _ _ _) _ s).trans (.modReq _ _ _ fun _ => rfl)
  · exact ((LogsKept.foldl _ (fun s k => .dropPages s _ _ _) _ s).trans (.modBolt _ _ _)).trans (.modReq _ _ _ fun _ => rfl)

theorem LogsKept.toAbsent (s : State) (i : Nat) : LogsKept s (s.toAbsent i) := by
  rw [State.toAbsent]
  exact ((((LogsKept.leaveSlot s i false).trans (.freePages _ i)).trans (.modServeOf _ _ _)).trans
    (.modReq _ _ _ fun r => by simp)).trans (.fitPool _ _)

theorem LogsKept.dropReq (s : State) (i : Nat) : LogsKept s (s.dropReq i) := by
  rw [State.dropReq]
  exact (LogsKept.toAbsent s i).trans (.modServeOf _ _ _)

theorem LogsKept.enterPaused (s : State) (i st ttl : Nat) : LogsKept s (s.enterPaused i st ttl) := by
  rw [State.enterPaused]
  exact .setReq _ _ _ (by simp)

theorem LogsKept.autoPause (s : State) (i : Nat) : LogsKept s (s.autoPause i) := by
  rw [State.autoPause]
  exact ((LogsKept.leaveSlot s i true).trans (.modReq _ _ _ fun r => by simp)).trans (.enterPaused _ _ _ _)

theorem LogsKept.dropOwn (s : State) (i : Nat) : LogsKept s (s.dropOwn i) := by
  rw [State.dropOwn]
  exact (LogsKept.freePages s i).trans (.modServeOf _ _ _)

theorem LogsKept.makeRoom (b need n : Nat) (s : State) : LogsKept s (State.makeRoom b need n s).1 := by
  induction n generalizing s with
  | zero => exact .fitPool s b
  | succ n ih =>
    rw [State.makeRoom]
    split
    · exact .fitPool s b
    · split
      · exact (LogsKept.dropReq s _).trans (ih _)
      · exact ((LogsKept.autoPause s _).trans (.dropReq _ _)).trans (ih _)
      · exact (LogsKept.dropOwn s need).trans (.fitPool _ _)

/-! ## The end of a turn (R287, R301) -/

theorem State.drain_effect {s q : State} (h : LogsKept s q) (i reason park ttl : Nat) :
    let t := q.modReq i fun r => { r.setSt rqDraining with endReason := reason, pausePark := park, pauseTtl := ttl }
    (t.req i).st = rqDraining ∧ (t.req i).endReason = reason ∧ (t.req i).log = (s.req i).log ∧ t.qps = s.qps := by
  intro t
  simp only [t, State.modReq_req_self]
  exact ⟨ReqRec.setSt_st _ _, trivial, (ReqRec.log_setSt _ _).trans (h.log i), h.qps⟩

/-- The withheld text as a turn's end releases it: written, or kept while writes are blocked (R277, R301). -/
def State.putRest (s : State) (i : Nat) (put : List Byte) : State :=
  if put.isEmpty then s
  else if (s.func (s.req i).func).writable && (s.req i).undelivered.isEmpty then
    s.toHost ((s.req i).outAddr + tokenEnd (s.req i).maxTokens + (s.req i).textBytes) put
  else s.modReq i fun r => { r with undelivered := r.undelivered ++ [(0, put)] }

theorem State.putRest_effect (s : State) (i : Nat) (put : List Byte) :
    ((s.putRest i put).req i).log = (s.req i).log ∧ ((s.putRest i put).req i).prompt = (s.req i).prompt ∧
    (s.putRest i put).qps = s.qps := by
  rw [State.putRest]
  split
  · exact ⟨rfl, rfl, rfl⟩
  · split
    · exact ⟨rfl, rfl, rfl⟩
    · simp

/-- The input of a turn enters the log as the turn ends. -/
def State.closeLog (s : State) (i : Nat) (put : List Byte) : State :=
  (s.putRest i put).modReq i fun r => { r.logPrompt with withheld := [], textBytes := r.textBytes + put.length }

theorem State.closeLog_effect (s : State) (i : Nat) (put : List Byte) :
    ((s.closeLog i put).req i).log = (s.req i).log ++ (s.req i).prompt ∧ (s.closeLog i put).qps = s.qps := by
  obtain ⟨log, prompt, qps⟩ := s.putRest_effect i put
  refine ⟨?_, qps⟩
  rw [State.closeLog, State.modReq_req_self, ReqRec.logPrompt, log, prompt]

/-- The stream has left its slot, with room made in creel for what it keeps. -/
def State.leftAfter (s : State) (i : Nat) (stay : Bool) (b : Nat) : State × Bool :=
  if stay then State.makeRoom b i ((s.leaveSlot i stay).reclaimFuel b) (s.leaveSlot i stay)
  else ((s.leaveSlot i stay).fitPool b, true)

theorem LogsKept.leftAfter (s : State) (i : Nat) (stay : Bool) (b : Nat) : LogsKept s (s.leftAfter i stay b).1 := by
  rw [State.leftAfter]
  cases stay
  · exact (LogsKept.leaveSlot s i false).trans (.fitPool _ _)
  · exact (LogsKept.leaveSlot s i true).trans (.makeRoom _ _ _ _)

theorem State.endTurn_eq (s : State) (i reason park ttl : Nat) : ∃ put stay b p, s.endTurn i reason park ttl =
    ((s.closeLog i put).leftAfter i stay b).1.modReq i fun r =>
      { r.setSt rqDraining with endReason := reason, pausePark := p, pauseTtl := ttl } :=
  ⟨_, _, _, _, rfl⟩

/-- A turn's end: the request drains with the end reason, and its input is in the log. -/
theorem State.endTurn_effect (s : State) (i reason park ttl : Nat) :
    ((s.endTurn i reason park ttl).req i).st = rqDraining ∧ ((s.endTurn i reason park ttl).req i).endReason = reason ∧
    ((s.endTurn i reason park ttl).req i).log = (s.req i).log ++ (s.req i).prompt ∧
    (s.endTurn i reason park ttl).qps = s.qps := by
  obtain ⟨put, stay, b, p, h⟩ := s.endTurn_eq i reason park ttl
  obtain ⟨log, qps⟩ := s.closeLog_effect i put
  rw [h, ← log, ← qps]
  exact State.drain_effect (LogsKept.leftAfter _ i stay b) i reason p ttl

end Sys2Proof.Machine
end

section
namespace Sys2Proof.Machine

open Sys2Proof

/-! PROOFS. Accepted tokens. -/

/-! ## What follows a token that has been logged (R276, R277, R291, R301, R304) -/

/-- A request's entry without its pages, its text and its automaton. -/
def ReqRec.turnPart (r : ReqRec) : ReqRec :=
  { r with pageList := [], reservedPages := 0, textBytes := 0, undelivered := [], gstate := 0, gstack := [], mask := none }

/-- From `s` to `t` the turn of request `i` goes on as it is: of its entry only pages, text and automaton have changed, and no other
entry has. -/
structure SameTurn (i : Nat) (s t : State) : Prop where
  turn : (t.req i).turnPart = (s.req i).turnPart
  mask : (s.req i).mask = none → (t.req i).mask = none
  undelivered : (s.func (s.req i).func).writable = true → (s.req i).undelivered = [] → (t.req i).undelivered = []
  others : ∀ j, j ≠ i → t.req j = s.req j
  qps : t.qps = s.qps
  funcs : t.funcs = s.funcs

theorem SameTurn.of_reqs {i : Nat} {s t : State} (h : t.reqs = s.reqs) (hq : t.qps = s.qps) (hf : t.funcs = s.funcs) :
    SameTurn i s t := by
  have req (j : Nat) : t.req j = s.req j := congrArg (Tab.get ({} : ReqRec) · j) h
  exact ⟨by rw [req], fun h => by rw [req, h], fun _ h => by rw [req, h], fun j _ => req j, hq, hf⟩

theorem SameTurn.refl (i : Nat) (s : State) : SameTurn i s s := .of_reqs rfl rfl rfl

theorem SameTurn.modBolt (i : Nat) (s : State) (b : Nat) (f : BoltRec → BoltRec) : SameTurn i s (s.modBolt b f) :=
  .of_reqs rfl rfl rfl

theorem SameTurn.modAdapter (i : Nat) (s : State) (k : Nat) (f : AdapterRec → AdapterRec) : SameTurn i s (s.modAdapter k f) :=
  .of_reqs rfl rfl rfl

theorem SameTurn.trans {i : Nat} {s t u : State} (h : SameTurn i s t) (h' : SameTurn i t u) : SameTurn i s u := by
  have func : (t.req i).turnPart.func = (s.req i).turnPart.func := congrArg ReqRec.func h.turn
  have funcs : t.func (t.req i).func = s.func (s.req i).func := by
    rw [show (t.req i).func = (s.req i).func from func]
    exact congrArg (Tab.get ({} : FuncRec) · _) h.funcs
  exact ⟨h'.turn.trans h.turn, fun m => h'.mask (h.mask m),
    fun w un => h'.undelivered (by rw [funcs]; exact w) (h.undelivered w un), fun j hj => (h'.others j hj).trans (h.others j hj),
    h'.qps.trans h.qps, h'.funcs.trans h.funcs⟩

theorem SameTurn.setReq (i : Nat) (s : State) (r : ReqRec) (h : r.turnPart = (s.req i).turnPart)
    (hm : (s.req i).mask = none → r.mask = none)
    (hu : (s.func (s.req i).func).writable = true → (s.req i).undelivered = [] → r.undelivered = []) :
    SameTurn i s (s.setReq i r) := by
  constructor
  · rw [State.setReq_req_self, h]
  · rw [State.setReq_req_self]; exact hm
  · rw [State.setReq_req_self]; exact hu
  · exact fun j hj => State.setReq_req_ne _ _ _ _ hj
  · rfl
  · rfl

theorem SameTurn.growPages (i n f : Nat) (s : State) : SameTurn i s (State.growPages i n f s) := by
  induction f generalizing s with
  | zero => exact .refl i s
  | succ f ih =>
    rw [State.growPages]
    dsimp only
    split
    · exact .refl i s
    · refine SameTurn.trans (SameTurn.trans ?_ (.modBolt _ _ _ _)) (ih _)
      exact .setReq i s _ rfl (fun h => h) fun _ h => h

theorem SameTurn.growReserve (i want n : Nat) (s : State) : SameTurn i s (State.growReserve i want n s) := by
  induction n generalizing s with
  | zero => exact .refl i s
  | succ n ih =>
    rw [State.growReserve]
    split
    · refine SameTurn.trans ?_ (ih _)
      exact .setReq i s _ rfl (fun h => h) fun _ h => h
    · exact .refl i s

theorem SameTurn.stepGrammar (i : Nat) (s : State) (ends : List Nat) (id : Nat) :
    SameTurn i s (s.modReq i fun r => r.stepGrammar ends id) := by
  cases hm : (s.req i).mask with
  | none =>
    have same : (s.req i).stepGrammar ends id = s.req i := by rw [ReqRec.stepGrammar, hm]
    rw [State.modReq, same]
    exact .setReq i s _ rfl (fun h => h) fun _ h => h
  | some m =>
    refine .setReq i s _ ?_ (fun h => ?_) fun _ h => ?_
    · simp only [ReqRec.stepGrammar, hm]
      rfl
    · rw [hm] at h
      cases h
    · simp only [ReqRec.stepGrammar, hm]
      exact h

theorem SameTurn.toHost (i : Nat) (s : State) (a : Nat) (bs : List Byte) : SameTurn i s (s.toHost a bs) := .of_reqs rfl rfl rfl

theorem SameTurn.addText (i : Nat) (s : State) (n : Nat) :
    SameTurn i s (s.modReq i fun r => { r with textBytes := r.textBytes + n }) :=
  .setReq i s _ rfl (fun h => h) fun _ h => h

theorem SameTurn.putToken (s : State) (i n : Nat) (text : List Byte) : SameTurn i s (s.putToken i n text) := by
  rw [State.putToken]
  dsimp only
  split
  · exact (((SameTurn.toHost i s _ _).trans (.toHost i _ _ _)).trans (.addText i _ _)).trans (.toHost i _ _ _)
  · rename_i blocked
    refine .setReq i s _ rfl (fun h => h) fun hw hu => ?_
    rw [hw, hu] at blocked
    exact absurd rfl blocked

theorem SameTurn.afterToken (s : State) (i id : Nat) : SameTurn i s (s.afterToken i id) := by
  rw [State.afterToken]
  refine SameTurn.trans ?_ (.modBolt _ _ _ _)
  split
  · exact (((SameTurn.growPages i _ _ s).trans (.growReserve i _ _ _)).trans (.stepGrammar i _ _ _)).trans (.modAdapter i _ _ _)
  · exact ((SameTurn.growPages i _ _ s).trans (.growReserve i _ _ _)).trans (.stepGrammar i _ _ _)

/-! ## The token logged and its times taken (R295, R301) -/

/-- The entry with its times after a token, in state `v`. -/
def ReqRec.timedIn (r old : ReqRec) (now : Nat) (warn : Bool) (v : Nat) : ReqRec :=
  { r.setSt v with
    ttftUs := (old.timed now).1.ttftUs, ttftViol := (old.timed now).1.ttftViol, tLast := (old.timed now).1.tLast
    tbtAvg := (old.timed now).1.tbtAvg, intervals := (old.timed now).1.intervals, tbtMax := (old.timed now).1.tbtMax
    tbtViol := (old.timed now).1.tbtViol, warned := r.warned + boolNat warn, noMask := false }

section timed

variable (r old : ReqRec) (now : Nat) (warn : Bool) (v : Nat)

@[simp] theorem ReqRec.timedIn_st : (r.timedIn old now warn v).st = v % 16 := r.setSt_st v
@[simp] theorem ReqRec.timedIn_bolt : (r.timedIn old now warn v).bolt = r.bolt := r.setSt_bolt v
@[simp] theorem ReqRec.timedIn_slot : (r.timedIn old now warn v).slot = r.slot := r.setSt_slot v
@[simp] theorem ReqRec.timedIn_epoch : (r.timedIn old now warn v).epoch = r.epoch := r.setSt_epoch v
@[simp] theorem ReqRec.timedIn_log : (r.timedIn old now warn v).log = r.log := rfl
@[simp] theorem ReqRec.timedIn_prompt : (r.timedIn old now warn v).prompt = r.prompt := rfl
@[simp] theorem ReqRec.timedIn_ctxLen : (r.timedIn old now warn v).ctxLen = r.ctxLen := rfl
@[simp] theorem ReqRec.timedIn_kvLen : (r.timedIn old now warn v).kvLen = r.kvLen := rfl
@[simp] theorem ReqRec.timedIn_turnTokens : (r.timedIn old now warn v).turnTokens = r.turnTokens := rfl
@[simp] theorem ReqRec.timedIn_mask : (r.timedIn old now warn v).mask = r.mask := rfl
@[simp] theorem ReqRec.timedIn_undelivered : (r.timedIn old now warn v).undelivered = r.undelivered := rfl
@[simp] theorem ReqRec.timedIn_func : (r.timedIn old now warn v).func = r.func := rfl
@[simp] theorem ReqRec.timedIn_tLast : (r.timedIn old now warn v).tLast = now := by
  show (old.timed now).1.tLast = now
  rw [ReqRec.timed]
  split <;> rfl

/-- The text rules look at neither state nor times. -/
theorem ReqRec.release_timedIn (e : EpochRec) (id : Nat) : (r.timedIn old now warn v).release e id = r.release e id := by
  have ids : (r.timedIn old now warn v).idsOnly = r.idsOnly := r.setSt_idsOnly v
  rw [ReqRec.release, ReqRec.release, ids]
  rfl

end timed

/-- The state once a token has been logged and its times taken, its request in state `v`. -/
def State.counted (s : State) (i id : Nat) (warn : Bool) (v : Nat) : State :=
  (((s.setReq i ((s.req i).logToken id)).fitPool (s.req i).bolt).modReq i fun r =>
    r.timedIn (s.req i) s.time warn v).modServeOf (s.req i).bolt fun x => { x with
      ttftViol := satAdd 32 x.ttftViol (boolNat ((s.req i).timed s.time).2.1)
      tbtViol := satAdd 32 x.tbtViol (boolNat ((s.req i).timed s.time).2.2) }

/-- A token whose log fits creel is logged. -/
theorem State.tokenAccept_eq (s : State) (i id : Nat) (warn : Bool) (hk : (s.req i).keyOk = true)
    (hst : (s.req i).st = rqPrefill ∨ (s.req i).st = rqDecode)
    (hfit : (s.setReq i ((s.req i).logToken id)).poolFits (s.req i).bolt = true) :
    s.tokenAccept i id warn = (s.counted i id warn rqDecode).acceptLogged i id warn := by
  obtain ⟨n, hn⟩ : ∃ n, s.reclaimFuel (s.req i).bolt = n + 1 :=
    Nat.exists_eq_succ_of_ne_zero (by rw [State.reclaimFuel]; omega)
  have room : State.withRoom (s.req i).bolt i (fun s => s.modReq i fun r => r.logToken id) (n + 1) s =
      ((s.setReq i ((s.req i).logToken id)).fitPool (s.req i).bolt, true) := by
    rw [State.withRoom]
    exact if_pos hfit
  rw [State.tokenAccept, State.useReq, if_pos hk]
  simp only [hst, if_true, hn, room]
  rfl

section counted

variable (s : State) (i id : Nat) (warn : Bool) (v : Nat)

theorem State.counted_req_self :
    (s.counted i id warn v).req i = ((s.req i).logToken id).timedIn (s.req i) s.time warn v := by
  rw [State.counted, State.modServeOf_unit_req, State.modReq_req_self, (PoolOnly.fitPool _ _).req, State.setReq_req_self]

theorem State.counted_req_ne (j : Nat) (h : j ≠ i) : (s.counted i id warn v).req j = s.req j := by
  rw [State.counted, State.modServeOf_unit_req, State.modReq_req_ne _ _ _ _ h, (PoolOnly.fitPool _ _).req,
    State.setReq_req_ne _ _ _ _ h]

theorem State.counted_qps : (s.counted i id warn v).qps = s.qps := by
  rw [State.counted, State.modServeOf_qps, State.modReq_qps, (PoolOnly.fitPool _ _).qps, State.setReq_qps]

theorem State.counted_funcs : (s.counted i id warn v).funcs = s.funcs := by
  rw [State.counted, State.modServeOf_funcs, State.modReq_funcs, (PoolOnly.fitPool _ _).funcs, State.setReq_funcs]

/-- What a token releases is the same once its times are taken. -/
theorem State.counted_release :
    ((s.counted i id warn v).req i).release ((s.counted i id warn v).reqEpoch ((s.counted i id warn v).req i)) id =
      ((s.req i).logToken id).release (s.reqEpoch (s.req i)) id := by
  have epoch : (s.counted i id warn v).reqEpoch ((s.counted i id warn v).req i) = s.reqEpoch ((s.req i).logToken id) := by
    rw [State.reqEpoch, State.counted_req_self, ReqRec.timedIn_bolt, ReqRec.timedIn_epoch, State.counted,
      State.modServeOf_unit_bolt, State.modReq_unit_bolt, (PoolOnly.fitPool _ _).epochOf, State.setReq_unit_bolt, State.reqEpoch]
  rw [epoch, State.counted_req_self, ReqRec.release_timedIn]
  rfl

end counted

/-! ## The turn goes on, or ends (R287, R302) -/

/-- The state once the text of a token is out and its pages are there. -/
def State.followed (s : State) (i id : Nat) (warn : Bool) (f : Release) : State :=
  ((s.setReq i { s.req i with withheld := f.withheld }).putToken i (tokenRecord id warn f.stop f.cut f.text.length) f.text).afterToken
    i id

theorem State.acceptLogged_eq (s : State) (i id : Nat) (warn : Bool) (f : Release)
    (hf : (s.req i).release (s.reqEpoch (s.req i)) id = f) :
    s.acceptLogged i id warn =
      if f.reason ≠ 0 then (s.followed i id warn f).endTurn i f.reason 0 0
      else if ((s.followed i id warn f).req i).mask = some [] then (s.followed i id warn f).endTurn i 6 0 0
      else if 64 < ((s.followed i id warn f).req i).undelivered.length then (s.followed i id warn f).endTurn i 5 1 0
      else (s.followed i id warn f).queueUnits i := by
  rw [← hf]
  rfl

theorem State.followed_turn (s : State) (i id : Nat) (warn : Bool) (f : Release) :
    SameTurn i (s.setReq i { s.req i with withheld := f.withheld }) (s.followed i id warn f) :=
  (SameTurn.putToken _ i _ _).trans (.afterToken _ i id)

theorem State.queueUnits_req (s : State) (i j : Nat) : (s.queueUnits i).req j = s.req j := rfl
theorem State.queueUnits_qps (s : State) (i : Nat) : (s.queueUnits i).qps = s.qps := rfl

/-- The next pick of a stream that holds all positions but one waits at the first region. -/
theorem State.queueUnits_pick (s : State) (i : Nat) (h : (s.req i).seqLen = (s.req i).kvLen + 1) :
    let k := ((s.queueUnits i).bolt (s.req i).bolt).slotRec (s.req i).slot
    k.drawn = none ∧ k.waiting = [mkUnit (s.req i).slot .pick (s.req i).kvLen 1 true] := by
  have units (slot chunk n : Nat) : unitsFor slot chunk n (n + 1) = [mkUnit slot .pick n 1 true] := by
    rw [unitsFor, if_neg (by omega), if_pos rfl]
  rw [State.queueUnits, State.modBolt_bolt_self, BoltRec.slotRec_modSlot_self]
  exact ⟨rfl, by rw [h, units]⟩

/-! ## TOKEN_ACCEPT (R301, R302) -/

/-- The slot without its drawn token. -/
def State.undrawn (s : State) (b slot : Nat) : State := s.modBolt b fun x => x.modSlot slot fun k => { k with drawn := none }

theorem State.undrawn_req (s : State) (b slot i : Nat) : (s.undrawn b slot).req i = s.req i := rfl
theorem State.undrawn_time (s : State) (b slot : Nat) : (s.undrawn b slot).time = s.time := rfl

theorem State.undrawn_bolt (s : State) (b slot c : Nat) :
    (s.undrawn b slot).bolt c = { s.bolt c with slots := ((s.undrawn b slot).bolt c).slots } := by
  rw [State.undrawn]
  by_cases h : c = b
  · subst h
    rw [State.modBolt_bolt_self]; rfl
  · rw [State.modBolt_bolt_ne _ _ _ _ h]

theorem State.undrawn_kv (s : State) (b slot c k : Nat) :
    (((s.undrawn b slot).bolt c).slotRec k).kv = ((s.bolt c).slotRec k).kv := by
  rw [State.undrawn]
  by_cases h : c = b
  · subst h
    rw [State.modBolt_bolt_self, BoltRec.slotRec_modSlot]
    split
    · subst k; rfl
    · rfl
  · rw [State.modBolt_bolt_ne _ _ _ _ h]

theorem State.undrawn_reqEpoch (s : State) (b slot : Nat) (r : ReqRec) : (s.undrawn b slot).reqEpoch r = s.reqEpoch r := by
  rw [State.reqEpoch, s.undrawn_bolt]; rfl

/-- The drawn token does not count in the pool. -/
theorem SameUses.undrawn (s : State) (b slot i : Nat) (r : ReqRec) : SameUses (s.setReq i r) ((s.undrawn b slot).setReq i r) :=
  ⟨rfl, rfl, rfl, s.undrawn_bolt b slot, s.undrawn_kv b slot⟩

/-- An acceptance whose log fits creel: the token is logged and its times are taken, and then it is released. -/
theorem exec_tokenAccept (s : State) (b slot i id : Nat) (warn : Bool) (h : RunsIn s b slot i)
    (hd : ((s.bolt b).slotRec slot).drawn = some (id, warn)) (hst : (s.req i).st = rqPrefill ∨ (s.req i).st = rqDecode)
    (hfit : (s.setReq i ((s.req i).logToken id)).poolFits b = true) :
    exec (.tokenAccept b slot) s = .next (((s.undrawn b slot).counted i id warn rqDecode).acceptLogged i id warn) := by
  have fits : ((s.undrawn b slot).setReq i ((s.req i).logToken id)).poolFits (s.req i).bolt = true := by
    rw [(SameUses.undrawn s b slot i _).poolFits, h.inBolt, hfit]
  have run : exec (.tokenAccept b slot) s = execTokenAccept b slot s := rfl
  rw [run, execTokenAccept, onUnit_next _ _ _ (by simpa using ⟨h.boltNo, h.slotNo⟩)]
  simp only [hd, h.holder, h.serving, if_true]
  exact congrArg _ ((s.undrawn b slot).tokenAccept_eq i id warn h.key hst fits)

/-- The entry of a stream whose token has been logged, before its text and its pages. -/
def State.acceptedReq (s : State) (i id : Nat) (warn : Bool) (withheld : List Byte) (v : Nat) : ReqRec :=
  { ((s.req i).logToken id).timedIn (s.req i) s.time warn v with withheld := withheld }

section acceptedReq

variable (s : State) (i id : Nat) (warn : Bool) (withheld : List Byte) (v : Nat)

@[simp] theorem State.acceptedReq_st : (s.acceptedReq i id warn withheld v).st = v % 16 := 
  ReqRec.timedIn_st ((s.req i).logToken id) (s.req i) s.time warn v
@[simp] theorem State.acceptedReq_bolt : (s.acceptedReq i id warn withheld v).bolt = (s.req i).bolt :=
  ReqRec.timedIn_bolt ((s.req i).logToken id) (s.req i) s.time warn v
@[simp] theorem State.acceptedReq_slot : (s.acceptedReq i id warn withheld v).slot = (s.req i).slot :=
  ReqRec.timedIn_slot ((s.req i).logToken id) (s.req i) s.time warn v
@[simp] theorem State.acceptedReq_log :
    (s.acceptedReq i id warn withheld v).log = (s.req i).log ++ (s.req i).prompt ++ [id] := rfl
@[simp] theorem State.acceptedReq_prompt : (s.acceptedReq i id warn withheld v).prompt = [] := rfl
@[simp] theorem State.acceptedReq_ctxLen :
    (s.acceptedReq i id warn withheld v).ctxLen = (s.req i).log.length + (s.req i).prompt.length + 1 := rfl
@[simp] theorem State.acceptedReq_kvLen :
    (s.acceptedReq i id warn withheld v).kvLen = (s.req i).log.length + (s.req i).prompt.length := rfl
@[simp] theorem State.acceptedReq_turnTokens :
    (s.acceptedReq i id warn withheld v).turnTokens = (s.req i).turnTokens + 1 := rfl
@[simp] theorem State.acceptedReq_withheld : (s.acceptedReq i id warn withheld v).withheld = withheld := rfl
@[simp] theorem State.acceptedReq_tLast : (s.acceptedReq i id warn withheld v).tLast = s.time := 
  ReqRec.timedIn_tLast ((s.req i).logToken id) (s.req i) s.time warn v

end acceptedReq

/-- What an acceptance leaves of the entries, the queue pairs and the functions until the turn goes on or ends. -/
theorem State.followed_effect (s : State) (b slot i id v : Nat) (warn : Bool) (f : Release) :
    let t := ((s.undrawn b slot).counted i id warn v).followed i id warn f
    (t.req i).turnPart = (s.acceptedReq i id warn f.withheld v).turnPart ∧ ((s.req i).mask = none → (t.req i).mask = none) ∧
    ((s.func (s.req i).func).writable = true → (s.req i).undelivered = [] → (t.req i).undelivered = []) ∧
    (∀ j, j ≠ i → t.req j = s.req j) ∧ t.qps = s.qps := by
  intro t
  obtain ⟨turn, mask, undelivered, others, qps, -⟩ := ((s.undrawn b slot).counted i id warn v).followed_turn i id warn f
  rw [State.setReq_req_self, State.counted_req_self, State.undrawn_req, State.undrawn_time] at turn mask undelivered
  have func (r : ReqRec) (k : Nat) : (((s.undrawn b slot).counted i id warn v).setReq i r).func k = s.func k := by
    rw [State.setReq_unit_func, State.func, State.counted_funcs]; rfl
  rw [func] at undelivered
  refine ⟨turn, mask, undelivered, fun j hj => ?_, ?_⟩
  · rw [others j hj, State.setReq_req_ne _ _ _ _ hj, State.counted_req_ne _ _ _ _ _ _ hj]; rfl
  · rw [qps, State.setReq_qps, State.counted_qps]; rfl

/-- A field of the entry that pages, text and automaton leave. -/
theorem turnPart_field {α : Type} (p : ReqRec → α) (hp : ∀ r, p r.turnPart = p r) {r r' : ReqRec}
    (h : r.turnPart = r'.turnPart) : p r = p r' := by rw [← hp r, h, hp r']

/-- The entry once the text of its token is out and its pages are there, in state `v`. -/
theorem State.followed_fields (s : State) (b slot i id v : Nat) (warn : Bool) (f : Release) :
    let r := (((s.undrawn b slot).counted i id warn v).followed i id warn f).req i
    let n := (s.req i).log.length + (s.req i).prompt.length
    r.st = v % 16 ∧ r.bolt = (s.req i).bolt ∧ r.slot = (s.req i).slot ∧ r.log = (s.req i).log ++ (s.req i).prompt ++ [id] ∧
    r.prompt = [] ∧ r.ctxLen = n + 1 ∧ r.kvLen = n ∧ r.turnTokens = (s.req i).turnTokens + 1 ∧ r.withheld = f.withheld ∧
    r.tLast = s.time := by
  obtain ⟨turn, -⟩ := s.followed_effect b slot i id v warn f
  intro r n
  have st := turnPart_field ReqRec.st (fun _ => rfl) turn
  have bolt := turnPart_field ReqRec.bolt (fun _ => rfl) turn
  have place := turnPart_field ReqRec.slot (fun _ => rfl) turn
  have log := turnPart_field ReqRec.log (fun _ => rfl) turn
  have prompt := turnPart_field ReqRec.prompt (fun _ => rfl) turn
  have ctxLen := turnPart_field ReqRec.ctxLen (fun _ => rfl) turn
  have kvLen := turnPart_field ReqRec.kvLen (fun _ => rfl) turn
  have turnTokens := turnPart_field ReqRec.turnTokens (fun _ => rfl) turn
  have withheld := turnPart_field ReqRec.withheld (fun _ => rfl) turn
  have tLast := turnPart_field ReqRec.tLast (fun _ => rfl) turn
  rw [s.acceptedReq_st] at st
  rw [s.acceptedReq_bolt] at bolt
  rw [s.acceptedReq_slot] at place
  rw [s.acceptedReq_log] at log
  rw [s.acceptedReq_prompt] at prompt
  rw [s.acceptedReq_ctxLen] at ctxLen
  rw [s.acceptedReq_kvLen] at kvLen
  rw [s.acceptedReq_turnTokens] at turnTokens
  rw [s.acceptedReq_withheld] at withheld
  rw [s.acceptedReq_tLast] at tLast
  exact ⟨st, bolt, place, log, prompt, ctxLen, kvLen, turnTokens, withheld, tLast⟩

section accepted

variable (s : State) (b slot i id : Nat) (warn : Bool) (h : RunsIn s b slot i)
  (hd : ((s.bolt b).slotRec slot).drawn = some (id, warn)) (hst : (s.req i).st = rqPrefill ∨ (s.req i).st = rqDecode)
  (hfit : (s.setReq i ((s.req i).logToken id)).poolFits b = true)

include h hd hst hfit

theorem exec_tokenAccept_release :
    let f := ((s.req i).logToken id).release (s.reqEpoch (s.req i)) id
    let t := ((s.undrawn b slot).counted i id warn rqDecode).followed i id warn f
    exec (.tokenAccept b slot) s = .next (if f.reason ≠ 0 then t.endTurn i f.reason 0 0
      else if (t.req i).mask = some [] then t.endTurn i 6 0 0
      else if 64 < (t.req i).undelivered.length then t.endTurn i 5 1 0 else t.queueUnits i) := by
  intro f t
  rw [exec_tokenAccept s b slot i id warn h hd hst hfit, State.acceptLogged_eq _ i id warn f]
  rw [State.counted_release, State.undrawn_reqEpoch]
  rfl

/-- A token that brings the end of its turn: the turn drains with the reason. -/
theorem tokenAccept_ends (hf : (((s.req i).logToken id).release (s.reqEpoch (s.req i)) id).reason ≠ 0) :
    ∃ t, exec (.tokenAccept b slot) s = .next t ∧ (t.req i).st = rqDraining ∧
      (t.req i).endReason = (((s.req i).logToken id).release (s.reqEpoch (s.req i)) id).reason ∧
      (t.req i).log = (s.req i).log ++ (s.req i).prompt ++ [id] ∧ t.qps = s.qps := by
  refine ⟨_, (exec_tokenAccept_release s b slot i id warn h hd hst hfit).trans (congrArg _ (if_pos hf)), ?_⟩
  obtain ⟨-, -, -, -, qps⟩ := s.followed_effect b slot i id rqDecode warn
    (((s.req i).logToken id).release (s.reqEpoch (s.req i)) id)
  obtain ⟨-, -, -, log, prompt, -⟩ := s.followed_fields b slot i id rqDecode warn
    (((s.req i).logToken id).release (s.reqEpoch (s.req i)) id)
  obtain ⟨st, reason, log', qps'⟩ := State.endTurn_effect (((s.undrawn b slot).counted i id warn rqDecode).followed i id warn
    (((s.req i).logToken id).release (s.reqEpoch (s.req i)) id)) i
    (((s.req i).logToken id).release (s.reqEpoch (s.req i)) id).reason 0 0
  refine ⟨st, reason, ?_, qps'.trans qps⟩
  rw [log', log, prompt, List.append_nil]

/-- Any other token: the request is in DECODE and its next pick waits at the first region. -/
theorem tokenAccept_goesOn (hf : (((s.req i).logToken id).release (s.reqEpoch (s.req i)) id).reason = 0)
    (hm : (s.req i).mask = none) (hu : (s.req i).undelivered = []) (hw : (s.func (s.req i).func).writable = true) :
    let n := (s.req i).log.length + (s.req i).prompt.length
    ∃ t, exec (.tokenAccept b slot) s = .next t ∧ (t.req i).st = rqDecode ∧
      (t.req i).log = (s.req i).log ++ (s.req i).prompt ++ [id] ∧ (t.req i).prompt = [] ∧ (t.req i).ctxLen = n + 1 ∧
      (t.req i).kvLen = n ∧ (t.req i).turnTokens = (s.req i).turnTokens + 1 ∧
      (t.req i).withheld = (((s.req i).logToken id).release (s.reqEpoch (s.req i)) id).withheld ∧ (t.req i).tLast = s.time ∧
      ((t.bolt b).slotRec slot).drawn = none ∧ ((t.bolt b).slotRec slot).waiting = [mkUnit slot .pick n 1 true] ∧
      (∀ j, j ≠ i → t.req j = s.req j) ∧ t.qps = s.qps := by
  intro n
  obtain ⟨-, mask, undelivered, others, qps⟩ := s.followed_effect b slot i id rqDecode warn
    (((s.req i).logToken id).release (s.reqEpoch (s.req i)) id)
  obtain ⟨st, bolt, place, log, prompt, ctxLen, kvLen, turnTokens, withheld, tLast⟩ :=
    s.followed_fields b slot i id rqDecode warn (((s.req i).logToken id).release (s.reqEpoch (s.req i)) id)
  have run := exec_tokenAccept_release s b slot i id warn h hd hst hfit
  dsimp only at run mask undelivered others qps
  generalize ((s.undrawn b slot).counted i id warn rqDecode).followed i id warn
    (((s.req i).logToken id).release (s.reqEpoch (s.req i)) id) = t at *
  rw [if_neg (not_not.2 hf), if_neg (by rw [mask hm]; simp), if_neg (by rw [undelivered hw hu]; simp)] at run
  have positions : (t.req i).seqLen = (t.req i).kvLen + 1 := by
    rw [ReqRec.seqLen, log, prompt, kvLen]
    simp only [List.length_append, List.length_singleton, List.length_nil, Nat.add_zero]
  obtain ⟨drawn, waiting⟩ := t.queueUnits_pick i positions
  rw [bolt, h.inBolt, place, h.inSlot] at drawn waiting
  rw [kvLen] at waiting
  refine ⟨_, run, ?_⟩
  rw [t.queueUnits_req, t.queueUnits_qps]
  exact ⟨st, log, prompt, ctxLen, kvLen, turnTokens, withheld, tLast, drawn, waiting,
    fun j hj => (t.queueUnits_req i j).trans (others j hj), qps⟩

end accepted

/-- Settles O59, command by command. -/
theorem pipelineEffects : Obligations.PipelineEffects := by
  refine ⟨fun s b key e w => ⟨fun hk inp => ?_, fun hk hu u => ⟨fun hi hf => ?_, fun rest hi hf hkv hs hw => ?_⟩⟩,
    fun s b key e u w => ⟨fun j v hj hne hv hs => ?_, fun hu hp => ⟨fun n hn => ⟨fun h1 h2 => ?_, fun h => ?_⟩, fun hn hl => ?_⟩⟩,
    fun s b key e u m w hu hk hv hp hi ho hc => ⟨fun h1 h2 => ?_, fun h ht hr h4 hs => ?_⟩,
    fun s b key slot i f rest e g w hr hg => ⟨fun hd => ?_, fun hd hb hres => ?_⟩,
    fun s b slot i u rest logits h ht hd => ?_,
    fun s b slot i id warn h hd hst hfit => ⟨fun hf hm hu hw => ?_, fun hf => ?_⟩⟩
  · exact regionTakeUnit_expert s b key e inp w hk
  · exact regionTakeUnit_inbox s b key e u w hk hu hi hf
  · exact regionTakeUnit_waiting s b key e u rest w hk hu hi hf hkv hs hw
  · exact unitHandOut_job s b key e j v w hj hne hv hs
  · exact unitHandOut_next s b key e u n w hu hp hn h1 h2
  · exact unitHandOut_waits s b key e u n w hu hp hn h
  · exact unitHandOut_last s b key e u w hu hp hn hl
  · exact layerVerdict_calm s b key e u m ⟨w, hu, hk, hv, hp, hi, ho, hc⟩ h1 h2
  · exact layerVerdict_trigger s b key e u m ⟨w, hu, hk, hv, hp, hi, ho, hc⟩ h ht hr h4 hs
  · rw [exec_bobbinFlush s b key slot i e w hr, hd]
    rfl
  · obtain ⟨t, run, kv, frame⟩ := bobbinFlush_reserved s b key slot i f rest e g w hr hg hd hb hres
    refine ⟨t, run, ?_, frame⟩
    rw [← flushedKv_due { kvAt s b slot (key % 256) with reserved := rest }
      ((s.req i).pageList.getD (kvAt s b slot (key % 256)).pages.length 0) f s.time]
    exact kv
  · exact exec_tokenDraw s b slot i u rest logits h ht hd
  · exact tokenAccept_goesOn s b slot i id warn h hd hst hfit hf hm hu hw
  · exact tokenAccept_ends s b slot i id warn h hd hst hfit hf

end Sys2Proof.Machine
end

section
namespace Sys2Proof.Machine

open Sys2Proof

/-! PROOFS. What reset leaves (O19), and byte memories (O24). -/

/-- Settles O19: every part of the reset state is its default. -/
theorem resetLeavesNothing : Obligations.ResetLeavesNothing := by
  have bolts (b : Nat) : (State.reset.bolt b).st = .none := rfl
  have requests (i : Nat) : (State.reset.req i).key = 0 := rfl
  have blocks (p k : Nat) : (State.reset.port p).owner k = .dirty := rfl
  have cores (c : Nat) : (State.reset.core c).pc = 0 ∧ (State.reset.core c).perf = [] ∧ (State.reset.core c).heartbeats = 0 :=
    ⟨rfl, rfl, rfl⟩
  have allowances (k : Nat) : (State.reset.skein k).allowance = 0 := rfl
  have links (l : Nat) : (State.reset.link l).state = 0 := rfl
  exact ⟨rfl, rfl, rfl, rfl, rfl, rfl, rfl, rfl, rfl, rfl, rfl, bolts, requests, blocks, cores, allowances, links⟩

/-! ## Entries left out of a table, and cells left out of a memory -/

/-- A table without the entries of some keys: those read as the default, every other as before. -/
theorem Tab.get_filter_keys {α : Type} (d : α) (p : Nat → Bool) (t : List (Nat × α)) (k : Nat) :
    Tab.get d (t.filter fun e => p e.1) k = if p k = true then Tab.get d t k else d := by
  induction t with
  | nil => simp [Tab.get]
  | cons e r ih =>
    obtain ⟨j, v⟩ := e
    by_cases hj : j = k
    · subst hj
      by_cases hp : p j = true
      · simp [hp, Tab.get]
      · simp only [List.filter_cons, hp, if_false, Bool.false_eq_true, ih]
    · by_cases hp : p j = true
      · simp only [List.filter_cons, hp, if_true, Tab.get, hj, if_false, ih]
      · simp only [List.filter_cons, hp, if_false, Bool.false_eq_true, Tab.get, hj, ih]

/-- A byte of a memory with a range cleared. -/
theorem readByte_clearRange (m : List Host.Cell) (a n j : Nat) :
    readByte (clearRange m a n) j = if a ≤ j ∧ j < a + n then 0 else readByte m j := by
  rw [readByte, clearRange, Tab.get_filter_keys 0 (fun k => !(decide (a ≤ k) && decide (k < a + n)))]
  by_cases h : a ≤ j ∧ j < a + n
  · rw [if_pos h, if_neg (by simp [h])]
  · rw [if_neg h, if_pos (by simp only [Bool.not_eq_true', Bool.and_eq_false_iff, decide_eq_false_iff_not]; omega), readByte]

theorem readLE_writeLE_self (m : List Host.Cell) (a n v : Nat) : readLE (writeLE m a n v) a n = v % 2 ^ (8 * n) :=
  readLE_writeBytes_leBytes m a n v

theorem readLE_writeLE_out (m : List Host.Cell) (a b n k v : Nat) (h : b + k ≤ a ∨ a + n ≤ b) :
    readLE (writeLE m a n v) b k = readLE m b k :=
  readLE_writeBytes_out _ m a b k (by rwa [leBytes_length])

/-- Settles O24, from the laws of single bytes. -/
theorem memoryReadAfterWrite : Obligations.MemoryReadAfterWrite := by
  refine fun m a n v => ⟨fun fits => ?_, fun b k => readLE_writeLE_out m a b n k v, fun wf => ?_, readByte_clearRange m a n⟩
  · have width : 256 ^ n = 2 ^ (8 * n) := by rw [Nat.pow_mul]
    rw [readLE_writeLE_self, Nat.mod_eq_of_lt (width ▸ fits)]
  · exact ⟨writeLE_wf m a n v wf, clearRange_wf m a n wf⟩

end Sys2Proof.Machine
end

section
namespace Sys2Proof.Machine

open Sys2Proof

/-! PROOFS. A bundle with one working slot, and the special functions (O37). -/

/-! ## The causes of Table 4.15 -/

/-- Beats and results meet each other alike in every cycle. -/
theorem clash_shift (n : Nat) (l : List (Nat × Nat)) : clash (l.map fun p => (p.1, n + p.2)) [] = clash l [] := by
  induction l with
  | nil => rfl
  | cons p r ih =>
    have contains : (r.map fun p => (p.1, n + p.2)).contains (p.1, n + p.2) = r.contains p := by
      rw [Bool.eq_iff_iff, List.contains_iff_mem, List.contains_iff_mem, List.mem_map]
      constructor
      · rintro ⟨q, hq, e⟩
        obtain ⟨e1, e2⟩ := Prod.mk.inj e
        have same : q = p := Prod.ext e1 (by omega)
        exact same ▸ hq
      · exact fun h => ⟨p, h, rfl⟩
    simp only [List.map_cons, clash, contains, List.contains_nil, Bool.or_false, ih]

/-- A cause that a bundle meets is reported, or a lesser one. -/
theorem leastCause_of_mem (k : Nat) (l : List Nat) (h : k ∈ l) : ∃ m, leastCause l = some m := by
  cases l with
  | nil => cases h
  | cons a r => rw [leastCause]; split <;> exact ⟨_, rfl⟩

/-- The plans of a bundle stop at no check of Table 4.15, and the bundle goes on to the next one. -/
structure PlansGoOn (a b : Plan) : Prop where
  legalA : a.illegal = []
  legalB : b.illegal = []
  soundA : a.fault = none
  soundB : b.fault = none
  ports : clash (a.ports ++ b.ports) [] = false
  writes : clash (a.writes ++ b.writes) [] = false
  next : b.ctl = .seq
  light : a.heavy = false

/-! ## What an issue leaves -/

/-- `Cycled` with what a cycle may change named. -/
theorem cycled_iff (r y : CoreRec) : Cycled r y ↔ ∃ pc balance since denied pt pend ports writes sf rot loops,
    y = { r with
      pc := pc, balance := balance, stallRun := 0, sinceSample := since, denied := denied
      dp := { r.dp with
        pt := pt, pend := pend, ports := ports, writes := writes, lastSf := sf, lastRot := rot, loops := loops } } := by
  constructor
  · exact fun h => ⟨_, _, _, _, _, _, _, _, _, _, _, h⟩
  · rintro ⟨pc, balance, since, denied, pt, pend, ports, writes, sf, rot, loops, rfl⟩
    rfl

/-- Control flow and charge of a light bundle on a running core: the pipe and the program counter. -/
theorem CoreRec.afterIssue_light (q : CoreRec) (pc : Nat) (ctl : Ctl) (run : q.st = .run) (nowait : q.wait = none) :
    q.afterIssue pc false ctl = { q with dp := (ctlNext pc q.dp ctl).1, pc := (ctlNext pc q.dp ctl).2 } := by
  have st : (if q.st = .wait then CoreSt.run else q.st) = q.st := if_neg (by rw [run]; decide)
  have clamp : (if q.st = .wait then false else q.clampReported) = q.clampReported := if_neg (by rw [run]; decide)
  have charge : q.balance - (if false = true then 512 else 0) = q.balance := Int.sub_zero _
  rw [CoreRec.afterIssue, st, clamp, charge, ← nowait]
  rfl

/-- The core after the issue of a light bundle without a branch. -/
theorem issued_seq (env : Env) (y : CoreRec) (a b : Plan) (run : y.st = .run) (nowait : y.wait = none) (next : b.ctl = .seq)
    (light : a.heavy = false) : issued env y a b = { y with
      chans := (CoreRec.withQueued { y with dp := y.dp.withResults a b } b).chans
      dp := (ctlNext y.pc (y.dp.withResults a b) .seq).1
      pc := (ctlNext y.pc (y.dp.withResults a b) .seq).2
      sinceSample := min 4096 (y.sinceSample + 1) } := by
  obtain ⟨cs, queued⟩ : ∃ cs, CoreRec.withQueued { y with dp := y.dp.withResults a b } b =
      { y with dp := y.dp.withResults a b, chans := cs } := ⟨_, CoreRec.withQueued_eq _ b⟩
  rw [issued, next, light, queued]
  exact congrArg CoreRec.ticked
    (CoreRec.afterIssue_light { y with dp := y.dp.withResults a b, chans := cs } _ _ run nowait)

/-- What every cycle may change is as after `Cycled`, whatever plans have issued; only queued entries stand beside it. -/
theorem issued_cycled (env : Env) (r y : CoreRec) (a b : Plan) (d : Tab Nat) (hy : Cycled r y) (run : y.st = .run)
    (nowait : y.wait = none)
    (next : b.ctl = .seq) (light : a.heavy = false) : Cycled (r.withQueued b) { issued env y a b with denied := d } := by
  have chans : (CoreRec.withQueued { y with dp := y.dp.withResults a b } b).chans = (r.withQueued b).chans :=
    CoreRec.withQueued_chans _ _ _ (by rw [hy]) (by rw [hy]; rfl)
  rw [issued_seq env y a b run nowait next light, chans, CoreRec.withQueued_eq r b]
  obtain ⟨pc, balance, since, denied, pt, pend, ports, writes, sf, rot, loops, rfl⟩ := (cycled_iff r y).1 hy
  rfl

/-- An issue without a branch goes on at the next bundle, a cycle later, with the results of both slots in flight. -/
theorem issued_next (env : Env) (y : CoreRec) (a b : Plan) (next : b.ctl = .seq) :
    (issued env y a b).pc = (loopEnd y.pc y.dp.loops).2 ∧ (issued env y a b).dp.loops = (loopEnd y.pc y.dp.loops).1 ∧
    (issued env y a b).dp.pt = y.dp.pt + 1 ∧
    (issued env y a b).dp.pend = y.dp.pend ++ (a.pend ++ b.pend).map (fun q => ⟨y.dp.pt + q.1, q.2⟩) ∧
    (issued env y a b).dp.lastSf = if a.sf then some y.dp.pt else y.dp.lastSf := by
  simp only [issued, next, CoreRec.afterIssue, CoreRec.ticked, ctlNext, CoreRec.withQueued_dp, Datapath.withResults, and_self]

/-- What the acts of a bundle's slots leave of a core: `r` but for what a cycle may change, not yet gone on. -/
structure ActsTo (s : State) (c : Nat) (r y : CoreRec) : Prop where
  cycled : Cycled r y
  running : y.st = .run
  notWaiting : y.wait = none
  countersOff : y.perf = []
  atBundle : y.pc = (s.core c).pc
  sameLoops : y.dp.loops = (s.core c).dp.loops
  inCycle : y.dp.pt = (s.core c).dp.pt

/-- The core as its issue finds it, before any act. -/
theorem actsTo_issuing (s : State) (c wa wb : Nat) (h : CanIssue s c wa wb) : ActsTo s c (s.core c) (issuing s c).r := by
  refine ⟨?_, h.running, h.notWaiting, h.countersOff, rfl, rfl, rfl⟩
  rw [Cycled, issuing]

/-- A legal bundle whose acts leave the core as `y` issues: the core goes on, and the results are in flight. -/
theorem execSlot_goesOn (s : State) (c wa wb : Nat) (sel : Nat → Nat → Bool) (a b : Plan) (r y : CoreRec) (h : CanIssue s c wa wb)
    (hsel : sel (opOf wa) (opOf wb) = true) (cheap : ¬ (opOf wa = 1 ∨ opOf wa = 4))
    (hA : validA (opOf wa) = true ∧ wa &&& reservedA (opOf wa) = 0) (hB : validB (opOf wb) = true ∧ wb &&& reservedB (opOf wb) = 0)
    (apart : opOf wa = 2 → opOf wb ≠ 5)
    (ha : planA (s.coreEnv c).virt (issuing s c).r (s.core c).pc wa = a) (hb : planB (issuing s c).r (s.core c).pc wb = b)
    (plans : PlansGoOn a b)
    (hi : (issuing s c).tryIssue (s.coreEnv c) wa a b none = (issuing s c).issue (s.coreEnv c) wa a b false)
    (hy : b.act (a.act (issuing s c)) = (issuing s c).setR y) (acts : ActsTo s c r y) :
    ∃ t, execSlot sel c s = .next t ∧ OnlyCore c s t ∧ Cycled (r.withQueued b) (t.core c) ∧ GoesOn (s.core c) (t.core c) ∧
      (t.core c).dp.pend = y.dp.pend ++ (a.pend ++ b.pend).map (fun q => ⟨(s.core c).dp.pt + q.1, q.2⟩) ∧
      (t.core c).dp.lastSf = if a.sf then some (s.core c).dp.pt else y.dp.lastSf := by
  obtain ⟨cycled, run, nowait, off, pc, loops, pt⟩ := acts
  obtain ⟨nextPc, nextLoops, nextPt, pend, sf⟩ := issued_next (s.coreEnv c) y a b plans.next
  have legal : leastCause (illegalCauses (s.core c).dp wa wb a b) = none := by
    refine illegalCauses_none _ _ _ _ _ hA.1 hB.1 hA.2 hB.2 plans.legalA plans.legalB ?_ ?_ ?_
    · rw [h.portsFree, clash_shift, plans.ports]
    · rintro ⟨h1 | h2, h5⟩
      · exact cheap (.inl h1)
      · exact apart h2 h5
    · rw [h.noWrites, clash_shift, plans.writes]
  have inside : (issued (s.coreEnv c) y a b).pc < 1024 := by rw [nextPc, pc, loops]; exact h.inside
  have exec := execSlot_issue s c wa wb sel a b ((issuing s c).setR y) h hsel (fun p => absurd p cheap) hA.1 hB.1 ha hb legal
    plans.soundA plans.soundB hi (by rw [plans.next]; decide) hy run off inside pt
  refine ⟨_, exec, ?_, ?_⟩
  · rw [State.putCx_quiet _ _ _ rfl rfl rfl, OnlyCore, State.setCore_core_self]
  · rw [State.putCx_core, Cx.countDenied_r]
    simp only [Cx.setR]
    refine ⟨issued_cycled _ r y a b _ cycled run nowait plans.next plans.light, ⟨?_, ?_, ?_⟩, ?_, ?_⟩
    · rw [nextPc, pc, loops]
    · rw [nextLoops, pc, loops]
    · rw [nextPt, pt]
    · rw [pend, pt]
    · rw [sf, pt]

/-! ## Special functions (R50, R110) -/

/-- A special-function operation of slot A: its opcode and its plan, with the function and its latency. -/
structure SfOp (cmd : Nat → Instr) (op lat : Nat) (fn : Nat → Nat) : Prop where
  runs : ∀ s c, exec (cmd c) s = execSlot (inA op) c s
  plan : ∀ virt r pc w, opOf w = op → planA virt r pc w = planSf lat fn r w
  valid : validA op = true ∧ op ≠ 1 ∧ op ≠ 2 ∧ op ≠ 4

theorem sfOp_vexp2 : SfOp .vexp2 0x18 12 f32Exp2 :=
  ⟨fun _ _ => rfl, fun _ _ _ w h => by simp only [planA, h]; rfl, by decide⟩
theorem sfOp_vlog2 : SfOp .vlog2 0x19 12 f32Log2 :=
  ⟨fun _ _ => rfl, fun _ _ _ w h => by simp only [planA, h]; rfl, by decide⟩
theorem sfOp_vrcp : SfOp .vrcp 0x1A 10 f32Rcp :=
  ⟨fun _ _ => rfl, fun _ _ _ w h => by simp only [planA, h]; rfl, by decide⟩
theorem sfOp_vrsq : SfOp .vrsq 0x1B 10 f32Rsq :=
  ⟨fun _ _ => rfl, fun _ _ _ w h => by simp only [planA, h]; rfl, by decide⟩

section special

variable {cmd : Nat → Instr} {op lat : Nat} {fn : Nat → Nat} (d : SfOp cmd op lat fn) (s : State) (c wa last : Nat)
  (h : CanIssue s c wa 0) (hl : (s.core c).dp.lastSf = some last) (hw : WordA op wa)

include d h hl hw

/-- Within 4 cycles of the one before, the bundle is illegal and freezes its core. -/
theorem specialFunction_early (soon : (s.core c).dp.pt < last + 4) : ∃ t detail, exec (cmd c) s = .next t ∧
    t = { s.setCore c (t.core c) with faults := { s.faults with
      inFlight := s.faults.inFlight ++ [⟨c, 0x09, 2, detail, false⟩] } } ∧
    t.core c = { s.core c with st := .frozen, freezeCause := 2, balance := (t.core c).balance, stallRun := 0 } := by
  obtain ⟨hop, -⟩ := hw
  obtain ⟨valid, n1, -, n4⟩ := d.valid
  have cheap : ¬ (opOf wa = 1 ∨ opOf wa = 4) := by rw [hop]; rintro (e | e) <;> contradiction
  have early : (planSf lat fn (issuing s c).r wa).illegal = [8] := by
    have sf : (issuing s c).r.dp.lastSf = some last := hl
    simp only [planSf, sf, if_pos (decide_eq_true (show (issuing s c).r.dp.pt < last + 4 from soon))]
  obtain ⟨k, hk⟩ := leastCause_of_mem 8 (illegalCauses (issuing s c).r.dp wa 0
    (planA (s.coreEnv c).virt (issuing s c).r (s.core c).pc wa) (planB (issuing s c).r (s.core c).pc 0))
    (by rw [d.plan _ _ _ _ hop]; simp only [illegalCauses, early, List.mem_append, List.mem_singleton]; simp)
  have work : slotWork s c wa 0 = (issuing s c).freeze 2 0x09 ((s.core c).pc % 1024 + (k <<< 10)) := by
    have valid' : validA (opOf wa) = true := by rw [hop]; exact valid
    have empty : validB (opOf 0) = true := by decide
    simp only [slotWork, bundleWork, valid', empty, if_true, hk]
  have still : ¬ ((slotWork s c wa 0).r.dp.pt > (s.core c).dp.pt ∨ (slotWork s c wa 0).r.stallRun > (s.core c).stallRun) := by
    rw [work]
    exact fun e => e.elim (Nat.lt_irrefl _) (Nat.not_lt_zero _)
  have exec := execSlot_work s c wa 0 (inA op) h (by rw [inA, hop]; exact decide_eq_true rfl) fun p => absurd p cheap
  rw [if_neg still, work] at exec
  refine ⟨_, ((s.core c).pc % 1024 + (k <<< 10)) % 2 ^ 36, (d.runs s c).trans exec, ?_, ?_⟩
  · rw [State.putCx_core]
    simp [State.putCx, Cx.freeze, Cx.say, issuing, State.setCore]
  · rw [State.putCx_core]
    rfl

/-- At least 4 cycles after the one before, the bundle issues, and its cycle is that of the latest special function. -/
theorem specialFunction_spaced (spaced : last + 4 ≤ (s.core c).dp.pt) : ∃ t, exec (cmd c) s = .next t ∧ OnlyCore c s t ∧
    Cycled (s.core c) (t.core c) ∧ GoesOn (s.core c) (t.core c) ∧ (t.core c).dp.lastSf = some (s.core c).dp.pt := by
  obtain ⟨hop, reserved⟩ := hw
  obtain ⟨valid, n1, n2, n4⟩ := d.valid
  have legal : (planSf lat fn (issuing s c).r wa).illegal = [] := by
    have sf : (issuing s c).r.dp.lastSf = some last := hl
    simp only [planSf, sf, show ¬ (issuing s c).r.dp.pt < last + 4 from Nat.not_lt.2 spaced, decide_false, if_false,
      Bool.false_eq_true]
  obtain ⟨t, exec, only, cycled, goes, -, sf⟩ := execSlot_goesOn s c wa 0 (inA op) (planSf lat fn (issuing s c).r wa) {}
    (s.core c) (issuing s c).r h (by rw [inA, hop]; exact decide_eq_true rfl) (by rw [hop]; rintro (e | e) <;> contradiction)
    (by rw [hop]; exact ⟨valid, reserved⟩) (by decide) (fun e => absurd (hop.symm.trans e) n2) (d.plan _ _ _ _ hop) rfl
    ⟨legal, rfl, rfl, rfl, rfl, rfl, rfl, rfl⟩ (Cx.tryIssue_plain _ _ _ _ _ rfl rfl rfl rfl h.running) rfl
    (actsTo_issuing s c wa 0 h)
  exact ⟨t, (d.runs s c).trans exec, only, cycled, goes, sf⟩

end special

/-- Settles O37: the operations differ in their function and latency alone. -/
theorem specialFunctionInterval : Obligations.SpecialFunctionInterval := by
  intro s c wa last h hl _ p hp hw
  have holds {cmd : Nat → Instr} {op lat : Nat} {fn : Nat → Nat} (d : SfOp cmd op lat fn) (hw : WordA op wa) :=
    And.intro (specialFunction_early d s c wa last h hl hw) (specialFunction_spaced d s c wa last h hl hw)
  simp only [List.mem_cons, List.not_mem_nil, or_false] at hp
  obtain rfl | rfl | rfl | rfl := hp
  · exact holds sfOp_vexp2 hw
  · exact holds sfOp_vlog2 hw
  · exact holds sfOp_vrcp hw
  · exact holds sfOp_vrsq hw

end Sys2Proof.Machine
end

section
namespace Sys2Proof.Machine

open Sys2Proof

/-! PROOFS. Slot B beside an empty slot A: queues, markers, trees and HALT (O8). -/

/-! ## A slot-B word issues -/

/-- A slot-B word beside an empty slot A whose act leaves the core as `y` issues: `r'` is the core with what it queues, and `pend`
is in flight. -/
theorem issues_slotB (cmd : Instr) {op : Nat} (sel : Nat → Nat → Bool) (s : State) (c w : Nat) (b : Plan) (r y r' : CoreRec)
    (pend : List Pend) (h : CanIssue s c 0 w) (hw : WordB op w) (valid : validB op = true) (runs : exec cmd s = execSlot sel c s)
    (hsel : sel 0 op = true) (plan : planB (issuing s c).r (s.core c).pc w = b) (goes : PlansGoOn {} b)
    (hi : (issuing s c).tryIssue (s.coreEnv c) 0 {} b none = (issuing s c).issue (s.coreEnv c) 0 {} b false)
    (hy : b.act (issuing s c) = (issuing s c).setR y) (acts : ActsTo s c r y) (queued : r.withQueued b = r')
    (flight : y.dp.pend ++ b.pend.map (fun q => ⟨(s.core c).dp.pt + q.1, q.2⟩) = pend) : Issues cmd s c r' pend := by
  obtain ⟨hop, reserved⟩ := hw
  obtain ⟨t, exec, only, cycled, next, inFlight, -⟩ := execSlot_goesOn s c 0 w sel {} b r y h (by rw [hop]; exact hsel) (by decide)
    (by decide) (by rw [hop]; exact ⟨valid, reserved⟩) (fun e => absurd e (by decide)) rfl plan goes hi hy acts
  exact ⟨t, runs.trans exec, only, queued ▸ cycled, next, inFlight.trans flight⟩

/-- Beside an empty slot A, a plan without faults whose beats and results do not meet goes on. -/
theorem PlansGoOn.of_slotB (b : Plan) (h1 : b.illegal = []) (h2 : b.fault = none) (h3 : clash b.ports [] = false)
    (h4 : clash b.writes [] = false) (h5 : b.ctl = .seq) : PlansGoOn {} b :=
  ⟨rfl, h1, rfl, h2, h3, h4, h5, rfl⟩

/-- A queued entry at a channel that is not in ERROR stands behind the others (R60, R119). -/
theorem Chan.enqueue_open (k : Chan) (e : QEntry) (h : k.state ≠ .error) : k.enqueue e = { k with queue := k.queue ++ [e] } :=
  if_neg h

theorem queueRoom_of_held (r : CoreRec) (ch : Nat) (h : (r.chan ch).held < 4) : queueRoom r ch = true := by
  simp [queueRoom, h]

theorem issuing_not_frozen (s : State) (c wa wb : Nat) (h : CanIssue s c wa wb) : (issuing s c).frozen = false :=
  decide_eq_false (by rw [show (issuing s c).r.st = .run from h.running]; decide)

/-- The result of a plan with a scalar result, as it stands in flight. -/
theorem withS_pend (p : Plan) (r : CoreRec) (k lat v : Nat) :
    (withS p k lat v).pend.map (fun q => (⟨r.dp.pt + q.1, q.2⟩ : Pend)) =
      p.pend.map (fun q => (⟨r.dp.pt + q.1, q.2⟩ : Pend)) ++ scalarDue r k lat (BitVec.ofNat 64 v) := by
  unfold withS scalarDue
  split <;> simp

/-! ## Words that are set or cleared (R58) -/

theorem bits_lt (w lo n : Nat) : bits w lo n < 2 ^ n := Nat.mod_lt _ (Nat.two_pow_pos n)

theorem Stores.read_lt (st : Stores) (ss off n : Nat) : st.read ss off n < 2 ^ (8 * n) := readLE_lt _ _ _

/-- What a set or clear of mask bits makes of a word. -/
def aliasWord (set : Bool) (w mask : Nat) : Nat := if set then w ||| mask else w &&& compl 64 mask

theorem aliasWord_lt (set : Bool) (w mask : Nat) (hw : w < 2 ^ 64) (hm : mask < 2 ^ 64) : aliasWord set w mask < 2 ^ 64 := by
  cases set
  · exact lt_of_le_of_lt Nat.and_le_left hw
  · exact Nat.or_lt_two_pow hw hm

/-- An access by a set or clear window to a word without an error writes it. -/
theorem Cx.rmw_clean (x : Cx) (off : Nat) (set : Bool) (mask : Nat) (h : x.r.stores.ecc = []) (hm : mask < 2 ^ 64) :
    x.rmw off set mask = (x.write 1 off 8 (aliasWord set (x.r.stores.read 1 off 8) mask), true) := by
  have fits := aliasWord_lt set _ mask (x.r.stores.read_lt 1 off 8) hm
  unfold aliasWord at fits ⊢
  simp only [Cx.rmw, Cx.eccCheck_clean _ _ _ _ h, if_true, Nat.mod_eq_of_lt fits]

theorem Cx.dpRmw_clean (x : Cx) (off : Nat) (set : Bool) (mask : Nat) (h : x.r.stores.ecc = []) (hm : mask < 2 ^ 64) :
    x.dpRmw off set mask = x.write 1 off 8 (aliasWord set (x.r.stores.read 1 off 8) mask) := by
  rw [Cx.dpRmw, Cx.rmw_clean x off set mask h hm, if_pos rfl]

/-- The stores after the waited bits of the tree record `q` are cleared (R119). -/
def Stores.flagCleared (st : Stores) (q : Nat) : Stores :=
  st.write 1 (bits q 320 19) 8 (st.read 1 (bits q 320 19) 8 &&& compl 64 (bits q 384 64))

/-! ## A halting core (R117) -/

/-- With nothing in flight a drain only caps the governor's balance. -/
theorem Cx.drain_none (x : Cx) (env : Env) (h : x.r.dp.pend = []) :
    x.drain env = x.mod fun r => { r with balance := min (64 * env.burst) r.balance } := by
  have due : lastDue x.r.dp = x.r.dp.pt := by rw [lastDue, h, List.foldl_nil]
  have free : x.r.balance + ((0 : Nat) : Int) = x.r.balance := Int.add_zero _
  simp only [Cx.drain, due, Nat.sub_self, Nat.zero_mul, Cx.land_none x _ _ h, Cx.mod, free]

/-- The cycle of a HALT on a running core with nothing in flight. -/
theorem Cx.afterCycle_halt (x : Cx) (env : Env) (evs : List Nat) (run : x.r.st = .run) (off : x.r.perf = [])
    (landed : x.r.dp.pend = []) :
    ∃ balance since, (x.perfCycle evs).afterCycle env .halt =
      x.setR { x.r with st := .idle, balance := balance, sinceSample := since } := by
  have runs : (x.mod fun r => { r with sinceSample := min 4096 (r.sinceSample + 1) }).frozen = false :=
    decide_eq_false (by rw [Cx.mod_r, run]; decide)
  refine ⟨min (64 * env.burst) x.r.balance, min 4096 (x.r.sinceSample + 1), ?_⟩
  rw [Cx.perfCycle_off _ _ off, Cx.afterCycle, runs, if_neg (by decide), 
    Cx.drain_none (x.mod fun r => { r with sinceSample := min 4096 (r.sinceSample + 1) }) env landed]
  exact congrArg x.setR (if_neg (show x.r.st ≠ .frozen by rw [run]; decide))

/-- The issue of a HALT on a running core with nothing in flight leaves it IDLE behind its bundle. -/
theorem Cx.issue_halt (x : Cx) (env : Env) (run : x.r.st = .run) (nowait : x.r.wait = none) (off : x.r.perf = [])
    (landed : x.r.dp.pend = []) (noInt3 : x.r.dp.int3 = none) : ∃ balance since ports writes,
    x.issue env 0 {} { ctl := .halt } false = x.setR { x.r with
      st := .idle, pc := x.r.pc + 1, balance := balance, sinceSample := since
      dp := { x.r.dp with pt := x.r.dp.pt + 1, ports := ports, writes := writes } } := by
  have results : x.r.dp.withResults {} {} = { x.r.dp with
      ports := (x.r.dp.withResults {} {}).ports, writes := (x.r.dp.withResults {} {}).writes } := by
    rw [Datapath.withResults, List.append_nil, List.map_nil, List.append_nil]
    rfl
  generalize (x.r.dp.withResults {} {}).ports = ports, (x.r.dp.withResults {} {}).writes = writes at results
  have issue := CoreRec.afterIssue_light { x.r with dp := x.r.dp.withResults {} {} } x.r.pc .halt run nowait
  rw [results] at issue
  obtain ⟨balance, since, cycle⟩ := Cx.afterCycle_halt (x.setR { x.r with
    pc := x.r.pc + 1, dp := { x.r.dp with pt := x.r.dp.pt + 1, ports := ports, writes := writes } }) env
    ([0x02] ++ [] ++ [] ++ if x.r.stretch > 0 then [0x16] else []) run off landed
  have halted : x.issue env 0 {} { ctl := .halt } false =
      ((x.setR ((CoreRec.afterIssue { x.r with dp := x.r.dp.withResults {} {} } x.r.pc false .halt))).perfCycle
        ([0x02] ++ [] ++ [] ++ if x.r.stretch > 0 then [0x16] else [])).afterCycle env .halt := by
    rw [Cx.issue, Cx.int3Free_none x noInt3, ite_self]
    rfl
  refine ⟨balance, since, ports, writes, ?_⟩
  rw [halted, results, issue]
  exact cycle

section words

variable (s : State) (c w : Nat) (h : CanIssue s c 0 w)

include h

/-- NOPA and NOPB: a bundle of two empty slots. -/
theorem issues_nop (cmd : Instr) (sel : Nat → Nat → Bool) (hw : WordB 0x00 w) (runs : exec cmd s = execSlot sel c s)
    (hsel : sel 0 0 = true) : Issues cmd s c (s.core c) [] := by
  have plan : planB (issuing s c).r (s.core c).pc w = {} := by simp only [planB, hw.1]
  exact issues_slotB cmd sel s c w {} (s.core c) (issuing s c).r (s.core c) [] h hw rfl runs hsel plan
    (.of_slotB _ rfl rfl rfl rfl rfl) (Cx.tryIssue_plain _ _ _ _ _ rfl rfl rfl rfl h.running) rfl (actsTo_issuing s c 0 w h) rfl
    (by rw [List.map_nil, List.append_nil]; exact h.nothingPending)

theorem issues_shut (hw : WordB 0x01 w) (ok : accessOk [1] 1 (baseOff (s.core c) (fld w 15 11) (fld w 34 16)) 64 64 = true)
    (hopen : ((s.core c).chan (fld w 9 6)).state ≠ .error) (room : ((s.core c).chan (fld w 9 6)).held < 4) :
    Issues (.shut c) s c ((s.core c).setChan (fld w 9 6) { ((s.core c).chan (fld w 9 6)) with
      queue := ((s.core c).chan (fld w 9 6)).queue ++ [QEntry.desc (baseOff (s.core c) (fld w 15 11) (fld w 34 16))] }) [] := by
  have plan : planB (issuing s c).r (s.core c).pc w =
      { shut := some (fld w 9 6, baseOff (s.core c) (fld w 15 11) (fld w 34 16)) } := by
    simp only [planB, hw.1]
    exact if_pos ok
  have space : queueRoom (issuing s c).r (fld w 9 6) = true := queueRoom_of_held _ _ room
  refine issues_slotB _ (inB 0x01) s c w _ (s.core c)
    (issuing s c).r _ [] h hw rfl rfl rfl plan (.of_slotB _ rfl rfl rfl rfl rfl) ?_ rfl
    (actsTo_issuing s c 0 w h) ?_ (by rw [List.map_nil, List.append_nil]; exact h.nothingPending)
  · simp only [Cx.tryIssue, issuing_not_frozen s c 0 w h, space, if_true, if_false, Bool.false_eq_true]
  · rw [← Chan.enqueue_open _ _ hopen]
    rfl

theorem issues_pick (hw : WordB 0x20 w) : Issues (.pick c) s c
    { s.core c with sliceRot := ((s.core c).sliceRot + 1) % 8, dp := { (s.core c).dp with tally := 0 } }
    (scalarDue (s.core c) (fld w 10 6) 1 (BitVec.ofNat 64 (s.core c).dp.tally)) := by
  have plan : planB (issuing s c).r (s.core c).pc w = planPick (issuing s c).r w := by simp only [planB, hw.1]
  have parts : (planPick (issuing s c).r w).wait = none ∧ (planPick (issuing s c).r w).waitRead = none ∧
      (planPick (issuing s c).r w).shut = none ∧ (planPick (issuing s c).r w).step = none ∧
      PlansGoOn {} (planPick (issuing s c).r w) ∧
      (planPick (issuing s c).r w).act (issuing s c) = (issuing s c).setR { (issuing s c).r with
        sliceRot := ((s.core c).sliceRot + 1) % 8
        dp := { (s.core c).dp with tally := (s.core c).dp.tally - (s.core c).dp.tally } } := by
    unfold planPick withS
    split
    · exact ⟨rfl, rfl, rfl, rfl, .of_slotB _ rfl rfl rfl rfl rfl, rfl⟩
    · exact ⟨rfl, rfl, rfl, rfl, .of_slotB _ rfl rfl rfl rfl rfl, rfl⟩
  obtain ⟨wait, read, shut, step, goes, act⟩ := parts
  rw [Nat.sub_self] at act
  refine issues_slotB _ (inB 0x20) s c w _
    { s.core c with sliceRot := ((s.core c).sliceRot + 1) % 8, dp := { (s.core c).dp with tally := 0 } }
    _ _ _ h hw rfl rfl rfl plan goes
    (Cx.tryIssue_plain _ _ _ _ _ wait read shut step h.running) act
    ⟨rfl, h.running, h.notWaiting, h.countersOff, rfl, rfl, rfl⟩ (CoreRec.withQueued_none _ _ shut step) ?_
  rw [planPick, withS_pend, List.map_nil, List.nil_append, show (_ : List Pend) = [] from h.nothingPending]
  rfl

theorem issues_tdecl (hw : WordB 0x21 w) (ok : accessOk [1] 1 (memOff (s.core c) w) 64 64 = true) :
    Issues (.tdecl c) s c (s.core c)
      [⟨(s.core c).dp.pt + 1, .tdecl2 (fld w 8 6) (memOff (s.core c) w) ((s.core c).stores.read 1 (memOff (s.core c) w) 32)⟩] := by
  have plan : planB (issuing s c).r (s.core c).pc w = planTdecl (issuing s c).r w := by simp only [planB, hw.1]
  have ok' : accessOk [1] 1 (baseOff (issuing s c).r (fld w 15 11) (fld w 37 19)) 64 64 = true := ok
  rw [planTdecl, if_pos ok'] at plan
  refine issues_slotB _ (inB 0x21) s c w _ (s.core c) { (issuing s c).r with dp := { (s.core c).dp with
      pend := (s.core c).dp.pend ++ [⟨(s.core c).dp.pt + 1,
        .tdecl2 (fld w 8 6) (memOff (s.core c) w) ((s.core c).stores.read 1 (memOff (s.core c) w) 32)⟩] } } _ _ h hw rfl rfl rfl plan
    (.of_slotB _ rfl rfl rfl rfl rfl) (Cx.tryIssue_plain _ _ _ _ _ rfl rfl rfl rfl h.running) ?_
    ⟨rfl, h.running, h.notWaiting, h.countersOff, rfl, rfl, rfl⟩ rfl (by rw [h.nothingPending]; rfl)
  simp only [Cx.dpRead_clean _ _ _ _ (show (issuing s c).r.stores.ecc = [] from h.noErrors), issuing_not_frozen s c 0 w h, if_false,
    Bool.false_eq_true]
  rfl

/-- RSTEP whose flag holds: the waited bits are cleared, and the step is queued with its record. -/
theorem issues_rstep (hw : WordB 0x22 w) (q ch : Nat) (hq : (Tab.get 0 (s.core c).dp.tree (fld w 8 6)).toNat = q)
    (hch : fld w 12 9 = ch)
    (inAct : bits q 339 3 = 1) (ok : accessOk [1] 1 (bits q 320 19) 8 8 = true)
    (holds : flagHolds ((s.core c).stores.read 1 (bits q 320 19) 8) (bits q 384 64) false = true)
    (hopen : ((s.core c).chan ch).state ≠ .error) (room : ((s.core c).chan ch).held < 4) :
    Issues (.rstep c) s c
      (CoreRec.setChan { s.core c with stores := (s.core c).stores.flagCleared q } ch
        { ((s.core c).chan ch) with
          queue := ((s.core c).chan ch).queue ++ [QEntry.rstep (fld w 8 6) (Tab.get 0 (s.core c).dp.tree (fld w 8 6))] }) [] := by
  subst hch
  have flagSs : bits (bits q 320 22) 19 3 = 1 := by rw [bits_bits _ _ _ _ _ (by decide)]; exact inAct
  have flagOff : bits (bits q 320 22) 0 19 = bits q 320 19 := by rw [bits_bits _ _ _ _ _ (by decide)]
  have tree : (Tab.get 0 (issuing s c).r.dp.tree (fld w 8 6)).toNat = q := hq
  have plan : planB (issuing s c).r (s.core c).pc w = planRstep (issuing s c).r w := by simp only [planB, hw.1]
  simp only [planRstep, tree, flagSs, if_true, flagOff, ok] at plan
  have clean : (issuing s c).r.stores.ecc = [] := h.noErrors
  have waited : waitHolds (issuing s c).r (.rstepFlag (fld w 12 9) (fld w 8 6)) = true := by
    simp only [waitHolds, tree]; exact holds
  have space : queueRoom (issuing s c).r (fld w 12 9) = true := queueRoom_of_held _ _ room
  refine issues_slotB _ (inB 0x22) s c w _ { s.core c with stores := (s.core c).stores.flagCleared q }
    { (issuing s c).r with stores := (s.core c).stores.flagCleared q } _ _ h hw rfl rfl rfl plan
    (.of_slotB _ rfl rfl rfl rfl rfl) ?_ ?_ ⟨rfl, h.running, h.notWaiting, h.countersOff, rfl, rfl, rfl⟩ ?_
    (by rw [List.map_nil, List.append_nil]; exact h.nothingPending)
  · simp only [Cx.tryIssue, Cx.dpRead_clean _ _ _ _ clean, issuing_not_frozen s c 0 w h, waited, space, if_true, if_false,
      Bool.false_eq_true]
  · exact Cx.dpRmw_clean _ _ _ _ clean (bits_lt _ _ _)
  · rw [← Chan.enqueue_open _ _ hopen]
    rfl

/-- HALT with nothing in flight: the core is IDLE behind its bundle. -/
theorem exec_halt (hw : WordB 0x23 w) : ∃ t, exec (.halt c) s = .next t ∧ OnlyCore c s t ∧
    Cycled { s.core c with st := .idle } (t.core c) ∧ (t.core c).pc = (s.core c).pc + 1 ∧ (t.core c).dp.pend = [] := by
  obtain ⟨hop, reserved⟩ := hw
  have plan : planB (issuing s c).r (s.core c).pc w = { ctl := .halt } := by simp only [planB, hop]
  obtain ⟨balance, since, ports, writes, issue⟩ := Cx.issue_halt (issuing s c) (s.coreEnv c) h.running h.notWaiting h.countersOff
    h.nothingPending h.noInt3
  have legal : leastCause (illegalCauses (issuing s c).r.dp 0 w {} { ctl := .halt }) = none :=
    illegalCauses_none _ _ _ _ _ (by decide) (by rw [hop]; rfl) (by decide) (by rw [hop]; exact reserved) rfl rfl rfl
      (by rintro ⟨e, -⟩; revert e; decide) rfl
  have work : slotWork s c 0 w = (issuing s c).issue (s.coreEnv c) 0 {} { ctl := .halt } false := by
    have validB' : validB (opOf w) = true := by rw [hop]; rfl
    have empty : validA (opOf 0) = true ∧ planA (s.coreEnv c).virt (issuing s c).r (s.core c).pc 0 = {} := ⟨by decide, rfl⟩
    simp only [slotWork, bundleWork, empty, validB', plan, if_true, legal]
    exact Cx.tryIssue_plain _ _ _ _ _ rfl rfl rfl rfl h.running
  have exec := execSlot_work s c 0 w (inB 0x23) h (by rw [hop]; rfl) (fun p => absurd p (by decide))
  have moved : (slotWork s c 0 w).r.dp.pt > (s.core c).dp.pt := by rw [work, issue]; exact Nat.lt_succ_self _
  rw [if_pos (.inl moved), work, issue] at exec
  refine ⟨_, exec, ?_, ?_⟩
  · rw [State.putCx_quiet _ _ _ rfl rfl rfl, OnlyCore, State.setCore_core_self]
  · rw [State.putCx_core]
    exact ⟨rfl, rfl, h.nothingPending⟩

end words

/-- Settles O8, word by word. -/
theorem queueMarkerTreeEffects : Obligations.QueueMarkerTreeEffects := by
  refine fun s c w h => ⟨fun hw => ⟨?_, ?_⟩, issues_shut s c w h, issues_pick s c w h, issues_tdecl s c w h, fun hw => ?_,
    exec_halt s c w h⟩
  · exact issues_nop s c w h (.nopa c) (inA 0x00) hw rfl rfl
  · exact issues_nop s c w h (.nopb c) (inB 0x00) hw rfl rfl
  · exact issues_rstep s c w h hw _ _ rfl rfl

end Sys2Proof.Machine
end

section
namespace Sys2Proof.Machine

open Sys2Proof

/-! PROOFS. Control flits (O29): a read of the core control block answers the low 64 bits of its register. -/

/-- A harness's CTRL flit that reads the status register of core 0. -/
def statusRead : Flit := { blankFlit .ctrl 0 (gaMake 0 0 0 8) with srcY := 960, arg := 3 }

/-- The flit alone at core 0, whose freeze cause does not fit into the register. -/
def wideCause : State :=
  { State.reset.setCore 0 { State.reset.core 0 with freezeCause := 2 ^ 56 } with net := [⟨statusRead, .core 0 0⟩] }

/-- The lines of the flits in flight after a command. -/
def linesAfter : Out → List Nat
  | .next t => t.net.map fun e : NetFlit => e.flit.line.toNat
  | _ => []

/-- Refutes O29: `freezeCause` is a number without a bound, and CTRL_RESP carries the low 64 bits of the register (R172). The
statement puts the whole sum on the line: a cause of 2^56 makes it 2^64 + 1, of which the model sends 1. -/
theorem not_fabricControlEffects : ¬ Obligations.FabricControlEffects := by
  unfold Obligations.FabricControlEffects
  intro ⟨flits, _, _⟩
  obtain ⟨_, _, _, status, _⟩ := flits wideCause statusRead [] ⟨rfl, _, rfl, by decide⟩
  have stated := congrArg linesAfter (status rfl (by decide) rfl rfl rfl)
  have sent : linesAfter (exec (.ctrl statusRead) wideCause) = [1] := rfl
  have claimed : [1] = [2 ^ 64 + 1] := sent.symm.trans stated
  exact absurd claimed (by decide)

end Sys2Proof.Machine
end

section
namespace Sys2Proof.Machine

open Sys2Proof

/-! PROOFS. Core control (O12), and the events of a core that no bundle causes (O13). -/

/-! ## CORE_CTRL and the commit -/

theorem CoreRec.setStart_eq (r : CoreRec) (b : Nat) (h : b < 1024) : r.setStart b = { r with startBundle := b } := by
  rw [CoreRec.setStart, Nat.mod_eq_of_lt h]

/-- A core replaced twice is as the second time. -/
theorem MakesCore.of_twice (cmd : Instr) (s : State) (c : Nat) (r₁ r : CoreRec)
    (h : exec cmd s = .next ((s.setCore c r₁).setCore c r)) : MakesCore cmd s c r :=
  ⟨_, h, State.setCore_core_self _ _ _,
    fun k hk => by rw [State.setCore_core_ne _ _ _ _ hk, State.setCore_core_ne _ _ _ _ hk], rfl⟩

/-- Work on a core that sends one message and nothing else. -/
theorem State.putCx_told (s : State) (c : Nat) (x : Cx) (kind sev detail : Nat) (hm : x.msgs = [(kind, sev, detail)])
    (ho : x.out = []) (hf : x.free = s.free) (hd : detail < 2 ^ 36) : s.putCx c x = told s c x.r kind sev detail := by
  have detail_eq : detail % 2 ^ 36 = detail := Nat.mod_eq_of_lt hd
  rw [State.putCx, hm, ho, hf, List.map_singleton, List.map_nil, List.append_nil, detail_eq]
  rfl

/-- HALT of a running core with nothing in flight. -/
theorem Cx.ctrlHalt_running (x : Cx) (env : Env) (run : x.r.st = .run ∨ x.r.st = .wait) (landed : x.r.dp.pend = []) :
    x.ctrlHalt env = x.setR { x.r with st := .idle, wait := none, balance := min (64 * env.burst) x.r.balance } := by
  have thawed : x.r.st ≠ .frozen := by rcases run with e | e <;> rw [e] <;> decide
  rw [Cx.ctrlHalt, if_pos run, Cx.drain_none x env landed]
  exact congrArg x.setR (if_neg thawed)

/-- HALT of a frozen core. -/
theorem Cx.ctrlHalt_frozen (x : Cx) (env : Env) (h : x.r.st = .frozen) :
    x.ctrlHalt env = x.mod fun r => { r.discardFlight with st := .idle, freezeCause := 0, wait := none } := by
  have stopped : ¬ (x.r.st = .run ∨ x.r.st = .wait) := by rw [h]; decide
  rw [Cx.ctrlHalt, if_neg stopped, if_pos h]

/-- A store of a scrubbed core: kept beam rows as before, zero elsewhere. -/
theorem CoreRec.scrubbed_readByte (r : CoreRec) (ss a : Nat) (h : ss < 4) : readByte (r.scrubbed.mem ss) a =
    if ss = 0 ∧ r.kept (rowOf a) = true then readByte r.stores.beam a else 0 := by
  by_cases beam : ss = 0
  · subst beam
    have kept : readByte (r.scrubbed.mem 0) a = _ := Tab.get_filter_keys 0 (fun k => r.kept (rowOf k)) r.stores.beam a
    rw [kept]
    by_cases hk : r.kept (rowOf a) = true
    · rw [if_pos hk, if_pos ⟨rfl, hk⟩, readByte]
    · rw [if_neg hk, if_neg fun p => hk p.2]
  · have empty : r.scrubbed.mem ss = [] := by
      rw [Stores.mem, if_neg beam]
      split
      · rfl
      · split <;> rfl
    rw [empty, if_neg fun p => beam p.1]
    rfl

/-- Where no bolt waits, none goes on. -/
theorem State.boltsAdvance_none (s : State) (h : NoBoltWaits s) : s.boltsAdvance = s := by
  refine foldl_eq_self _ s _ fun b hb => ?_
  have none_ : (s.bolt b).ops = [] := h b (List.mem_range.1 hb)
  have create : s.createAdvance b = s := by simp only [State.createAdvance, none_, List.findSome?_nil]
  have scrub : s.scrubAdvance b = s := by simp only [State.scrubAdvance, none_, List.findSome?_nil]
  have load : s.scrubLoadAdvance b = s := by
    simp only [State.scrubLoadAdvance, none_, List.any_nil, Bool.false_and, Bool.false_eq_true, if_false]
  rw [create, scrub, load]

section control

variable (s : State) (c b : Nat) (hc : c < Config.nCores) (hb : b < 1024)

include hb

/-- The core's record once `start_bundle` is set, as the second half of each CORE_CTRL command finds it. -/
theorem coreStart_core : (s.coreStart c b).core c = { s.core c with startBundle := b } := by
  rw [State.coreStart, State.modCore_core_self, CoreRec.setStart_eq _ _ hb]

include hc

omit hb in
/-- A CORE_CTRL command that makes `r` of the core whose `start_bundle` is set. -/
theorem makesCore_ctrl (cmd : Instr) (g : State → State) (r : CoreRec) (runs : exec cmd s = onCore c s fun s => g (s.coreStart c b))
    (hg : g (s.coreStart c b) = (s.coreStart c b).setCore c r) : MakesCore cmd s c r :=
  MakesCore.of_twice _ s c ((s.core c).setStart b) _
    (by rw [runs, onCore, onUnit_next _ _ _ (decide_eq_true hc), hg]; rfl)

theorem coreCtrlGo_idle (idle : (s.core c).st = .idle) : MakesCore (.coreCtrlGo c b) s c { s.core c with
    st := .run, pc := b, startBundle := b, balance := 64 * (s.coreEnv c).burst, sliceRot := 0, stallRun := 0,
    clampReported := false, freezeCause := 0, wait := none,
    dp := { (s.core c).dp with
      loops := [], pend := [], ports := [], writes := [], int3 := none, lastSf := none, lastRot := none } } := by
  refine makesCore_ctrl s c b hc _ (fun s => s.coreGo c) _ rfl ?_
  rw [State.coreGo, State.modCore, coreStart_core s c b hb, if_pos idle]
  rfl

theorem coreCtrlGo_other (busy : (s.core c).st ≠ .idle) : MakesCore (.coreCtrlGo c b) s c { s.core c with startBundle := b } := by
  refine makesCore_ctrl s c b hc _ (fun s => s.coreGo c) _ rfl ?_
  rw [State.coreGo, State.modCore, coreStart_core s c b hb, if_neg busy]

theorem coreCtrlHalt_running (run : (s.core c).st = .run ∨ (s.core c).st = .wait) (landed : (s.core c).dp.pend = []) :
    ∃ balance pt, MakesCore (.coreCtrlHalt c b) s c { s.core c with
      st := .idle, startBundle := b, wait := none, balance := balance, dp := { (s.core c).dp with pt := pt } } := by
  have core : ((s.coreStart c b).cx c).r = { s.core c with startBundle := b } := coreStart_core s c b hb
  refine ⟨min (64 * ((s.coreStart c b).coreEnv c).burst) (s.core c).balance, (s.core c).dp.pt,
    makesCore_ctrl s c b hc _ (fun s => s.coreHalt c) _ rfl ?_⟩
  rw [State.coreHalt, State.onCx, Cx.ctrlHalt_running _ _ (by rw [core]; exact run) (by rw [core]; exact landed),
    State.putCx_quiet _ _ _ rfl rfl rfl, core]
  rfl

theorem coreCtrlHalt_frozen (frozen : (s.core c).st = .frozen) : MakesCore (.coreCtrlHalt c b) s c { s.core c with
    st := .idle, startBundle := b, freezeCause := 0, wait := none
    dp := { (s.core c).dp with pend := [], ports := [], writes := [], int3 := none } } := by
  have core : ((s.coreStart c b).cx c).r = { s.core c with startBundle := b } := coreStart_core s c b hb
  refine makesCore_ctrl s c b hc _ (fun s => s.coreHalt c) _ rfl ?_
  rw [State.coreHalt, State.onCx, Cx.ctrlHalt_frozen _ _ (by rw [core]; exact frozen), State.putCx_quiet _ _ _ rfl rfl rfl,
    Cx.mod_r, core]
  rfl

theorem coreCtrlScrub_stopped (stopped : (s.core c).st = .idle ∨ (s.core c).st = .frozen) :
    MakesCore (.coreCtrlScrub c b) s c { s.core c with
      st := .scrubbing, startBundle := b, freezeCause := 0, wait := none, perf := [], pcOvf := 0, pcSample := 0,
      pcSampleDst := 0, sinceSample := 4096, stores := (s.core c).scrubbed,
      dp := { (s.core c).dp with pend := [], ports := [], writes := [], int3 := none } } := by
  refine makesCore_ctrl s c b hc _ (fun s => s.coreScrub c) _ rfl ?_
  rw [State.coreScrub, State.modCore, coreStart_core s c b hb, if_pos stopped]
  rfl

omit hb

theorem exec_scrubDone (scrubbing : (s.core c).st = .scrubbing) (none_ : NoBoltWaits s) :
    exec (.scrubDone c) s = .next (s.setCore c (s.core c).leaveScrub) := by
  change execScrubDone c s = _
  rw [execScrubDone, onCore, onUnit_next _ _ _ (decide_eq_true hc), if_pos scrubbing]
  exact congrArg _ (State.boltsAdvance_none _ none_)

theorem exec_coreCommit : exec (.coreCommit c) s = .next (s.onCx c Cx.commit) :=
  onUnit_next (decide (c < Config.nCores)) s (fun s => s.onCx c Cx.commit) (decide_eq_true hc)

end control

/-- Settles O12, command by command. -/
theorem coreControlEffects : Obligations.CoreControlEffects := by
  refine fun s c b hc hb => ⟨coreCtrlGo_idle s c b hc hb, coreCtrlGo_other s c b hc hb, coreCtrlHalt_running s c b hc hb,
    coreCtrlHalt_frozen s c b hc hb, fun stopped => ⟨_, (s.core c).scrubbed_readByte, coreCtrlScrub_stopped s c b hc hb stopped⟩,
    exec_scrubDone s c hc, fun good => ?_, fun bad => ?_⟩
  · rw [exec_coreCommit s c hc, State.onCx, Cx.commit, if_neg (by rw [State.cx_r, good]; decide),
      State.putCx_quiet _ _ _ rfl rfl rfl]
    rfl
  · rw [exec_coreCommit s c hc, State.onCx, Cx.commit, State.cx_r, if_pos bad]
    exact congrArg _ (State.putCx_told s c _ 0x1F 1 0xFF8 rfl rfl rfl (by decide))

end Sys2Proof.Machine
end

section
namespace Sys2Proof.Machine

open Sys2Proof

/-! PROOFS. The events of a core that no bundle causes (O13). -/

/-! ## Counters (R388, R389) -/

/-- The core whose counter `k` has wrapped: it is 0, and its overflow flag is set. -/
def counterWrapped (r : CoreRec) (k : Nat) : CoreRec :=
  { setPerfCtr r k { perfCtr r k with cnt := 0 } with pcOvf := r.pcOvf ||| BitVec.ofNat 4 (2 ^ k) }

/-- A counter at its end that neither chains nor samples wraps. -/
theorem Cx.bump_wraps (x : Cx) (k : Nat) (full : (perfCtr x.r k).cnt = 2 ^ 48 - 1)
    (unsampled : (perfCtr x.r k).cfg.getLsbD 11 = false)
    (unchained : k % 2 = 0 → (perfCtr x.r (k + 1)).cfg.getLsbD 9 = false) : x.bump k = x.setR (counterWrapped x.r k) := by
  have ends : ¬ (perfCtr x.r k).cnt + 1 < 2 ^ 48 := by rw [full]; decide
  have next : perfCtr (setPerfCtr x.r k { perfCtr x.r k with cnt := 0 }) (k + 1) = perfCtr x.r (k + 1) :=
    Tab.get_put_ne _ _ _ _ _ (Nat.succ_ne_self k)
  have same : perfCtr (counterWrapped x.r k) k = { perfCtr x.r k with cnt := 0 } := Tab.get_put_self _ _ _ _
  have alone : ¬ (k % 2 = 0 ∧ (perfCtr x.r (k + 1)).cfg.getLsbD 9 = true) := fun p =>
    absurd ((unchained p.1).symm.trans p.2) (by decide)
  have sample : ¬ (perfCtr (counterWrapped x.r k) k).cfg.getLsbD 11 = true := by
    rw [same]
    exact fun p => absurd (unsampled.symm.trans p) (by decide)
  rw [Cx.bump, if_neg ends]
  simp only [Cx.setR, next, alone, if_false]
  exact if_neg sample

/-! ## The patrol (R57, R59) -/

/-- The row's data units and its scale unit are the ECC units of `rowUnit`: one single-bit error of unit `u`. -/
theorem rowUnit_data (row u : Nat) (hr : row < 1536) (hu : u < 16) :
    (decide (16 * row + u < 2 ^ 20) && rowUnit row (16 * row + u)) = true := by
  simp only [rowUnit, Bool.and_eq_true, Bool.or_eq_true, decide_eq_true_eq]
  omega

/-- The errors of the row's data with one unit in error, and of its scale bytes. -/
theorem Stores.errs_rowData (st : Stores) (row u : Nat) (hu : u < 16) (h : st.ecc = [(16 * row + u, 1)]) :
    st.errs 0 (256 * row) 256 = [(256 * row + 16 * u, 1)] := by
  have above : 256 * row / 16 ≤ 16 * row + u := by omega
  have below : 16 * row + u ≤ (256 * row + 255) / 16 := by omega
  have addr : (16 * row + u) * 16 = 256 * row + 16 * u := by omega
  simp [Stores.errs, h, eccKey, eccUnit, above, below, addr]

theorem Stores.errs_rowScale (st : Stores) (row u : Nat) (hr : row < 1536) (hu : u < 16) (h : st.ecc = [(16 * row + u, 1)]) :
    st.errs 0 (0x60000 + 16 * row) 16 = [] := by
  have outside : ¬ (0x60000 + 16 * row) / 16 ≤ 16 * row + u := by omega
  simp [Stores.errs, h, eccKey, eccUnit, outside]

/-- An access whose only error is a single-bit one: it is reported and counted (R59). -/
theorem Cx.eccCheck_single (x : Cx) (ss off n at_ : Nat) (h : x.r.stores.errs ss off n = [(at_, 1)]) (off_ : x.r.perf = []) :
    x.eccCheck ss off n = ((x.mod fun r => { r with
      eccCorr := Tab.put 0 r.eccCorr ss (satAdd 16 (Tab.get 0 r.eccCorr ss) 1) }).say 1 1 (locAddr ss at_), true) := by
  have only : x.eccCheck ss off n = (x.corrected ss at_, true) := by simp [Cx.eccCheck, h]
  rw [only, Cx.corrected, Cx.perfEvent_off _ _ (by exact off_)]

theorem Cx.eccCheck_none (x : Cx) (ss off n : Nat) (h : x.r.stores.errs ss off n = []) : x.eccCheck ss off n = (x, true) := by
  simp [Cx.eccCheck, h]

section events

variable (s : State) (c : Nat) (hc : c < Config.nCores)

include hc

/-- A command on a core's record. -/
theorem onCore_next (f : State → State) : onCore c s f = .next (f s) := onUnit_next _ _ _ (decide_eq_true hc)

/-- A command on a core and a part of it. -/
theorem onPart_next {k n : Nat} (hk : k < n) (f : State → State) :
    onUnit (decide (c < Config.nCores) && decide (k < n)) s f = .next (f s) :=
  onUnit_next _ _ _ (by rw [decide_eq_true hc, decide_eq_true hk]; rfl)

theorem exec_chanStatusClear (ch : Nat) (hch : ch < 16)
    (stopped : ((s.core c).chan ch).state = .error ∨ ((s.core c).chan ch).state = .miss) :
    exec (.chanStatusClear c ch) s = .next (s.setCore c
      ((s.core c).setChan ch { (s.core c).chan ch with state := .idle, queue := [], active := none })) := by
  change execChanStatusClear c ch s = _
  rw [execChanStatusClear, onPart_next s c hc hch, State.modCore, CoreRec.clearChan, if_pos stopped]

theorem exec_heartbeat (live : beating (s.core c).st = true) (clocked : s.clocked (skeinOf c) = true) (off : (s.core c).perf = []) :
    exec (.heartbeat c) s = .next { s.setCore c { s.core c with heartbeats := (s.core c).heartbeats + 1 } with
        net := s.net ++ [⟨blankFlit .beat 0 (s.monitorAddr (skeinOf c)), .router (coreX c) (coreY c) 0⟩] } := by
  change execHeartbeat c s = _
  rw [execHeartbeat, onCore_next s c hc, whenS, live, clocked, Bool.and_self, if_pos rfl, State.onCx,
    Cx.perfEvent_off _ _ (by exact off)]
  simp [State.putCx, Cx.send, State.setCore]

/-- A heartbeat window closes on a beating core. -/
theorem exec_heartbeatWindowExpiry (live : beating (s.core c).st = true) (clocked : s.clocked (skeinOf c) = true) :
    ((s.core c).beatSeen = true →
      exec (.heartbeatWindowExpiry c) s = .next (s.setCore c { s.core c with beatSeen := false, missed := 0 })) ∧
    ((s.core c).beatSeen = false → (s.core c).missed < 3 →
      exec (.heartbeatWindowExpiry c) s = .next (s.setCore c { s.core c with missed := (s.core c).missed + 1 })) := by
  have open_ : (beating (s.core c).st && s.clocked (skeinOf c)) = true := by rw [live, clocked]; rfl
  refine ⟨fun seen => ?_, fun unseen few => ?_⟩
  · change execHeartbeatWindowExpiry c s = _
    rw [execHeartbeatWindowExpiry, onCore_next s c hc, whenS, if_pos open_, if_pos seen]
  · change execHeartbeatWindowExpiry c s = _
    rw [execHeartbeatWindowExpiry, onCore_next s c hc, whenS, if_pos open_, if_neg (by rw [unseen]; decide),
      if_pos (by omega)]

theorem exec_arbitrationYield (store ch : Nat) (hs : store < 3) (wants : (s.core c).wanting (s.shEnv c) store = some ch)
    (run : (s.core c).st = .run) (limit : (s.core c).yieldCycles ≠ 0)
    (denied : (s.core c).yieldCycles ≤ Tab.get 0 (s.core c).denied store)
    (off : (s.core c).perf = []) : exec (.arbitrationYield c store) s = .next (s.setCore c
      { (s.core c).setChan ch { (s.core c).chan ch with yields := satAdd 8 ((s.core c).chan ch).yields 1 } with
          denied := Tab.put 0 (s.core c).denied store 0
          balance := min (64 * (s.coreEnv c).burst) ((s.core c).balance + (s.coreEnv c).eff)
          sinceSample := min 4096 ((s.core c).sinceSample + 1) }) := by
  have due : ((some ch).isSome = true ∨ s.remoteAsks c store = true) ∧ (s.core c).st = .run ∧ (s.core c).yieldCycles ≠ 0 ∧
      (s.core c).yieldCycles ≤ Tab.get 0 (s.core c).denied store := ⟨.inl rfl, run, limit, denied⟩
  change execArbitrationYield c store s = _
  rw [execArbitrationYield, onPart_next s c hc hs, State.onCx]
  simp only [State.cx_r, wants]
  rw [if_pos due, Cx.perfCycle_off _ _ (by exact off), State.putCx_quiet _ _ _ rfl rfl rfl]
  rfl

theorem exec_budgetClamp (stalled : 4096 < (s.core c).stallRun) (fresh : (s.core c).clampReported = false) :
    exec (.budgetClamp c) s = .next (told s c { s.core c with clampReported := true } 0x06 1 0) := by
  change execBudgetClamp c s = _
  rw [execBudgetClamp, onCore_next s c hc, State.onCx, if_pos ⟨stalled, fresh⟩]
  exact congrArg _ (State.putCx_told s c _ 0x06 1 0 rfl rfl rfl (by decide))

theorem exec_counterWrap (k : Nat) (hk : k < 4) (full : (perfCtr (s.core c) k).cnt = 2 ^ 48 - 1)
    (counts : (perfCtr (s.core c) k).cfg.getLsbD 10 = true) (unsampled : (perfCtr (s.core c) k).cfg.getLsbD 11 = false)
    (on : (s.core c).st ≠ .off) (unchained : k % 2 = 0 → (perfCtr (s.core c) (k + 1)).cfg.getLsbD 9 = false) :
    exec (.counterWrap c k) s = .next (s.setCore c (counterWrapped (s.core c) k)) := by
  change execCounterWrap c k s = _
  rw [execCounterWrap, onPart_next s c hc hk]
  have due : (perfCtr (s.core c) k).cnt = 2 ^ 48 - 1 ∧ (perfCtr (s.core c) k).cfg.getLsbD 10 = true ∧ (s.core c).st ≠ .off :=
    ⟨full, counts, on⟩
  have wraps := Cx.bump_wraps (s.cx c) k full unsampled unchained
  exact congrArg _ ((congrArg (s.putCx c) ((if_pos due).trans wraps)).trans (State.putCx_quiet _ _ _ rfl rfl rfl))

theorem exec_scrubWriteBack (row u : Nat) (hr : row < 1536) (hu : u < 16) (due : row ∈ (s.core c).stores.writeBack)
    (error : (s.core c).stores.ecc = [(16 * row + u, 1)]) :
    exec (.scrubWriteBack c row) s = .next (s.setCore c { s.core c with stores := { (s.core c).stores with
        ecc := [], writeBack := (s.core c).stores.writeBack.filter fun x => x ≠ row } }) := by
  have rewritten : ((s.core c).stores.ecc.filter fun e => !(decide (e.1 < 2 ^ 20) && rowUnit row e.1 && decide (e.2 = 1))) = [] := by
    rw [error, List.filter_cons, rowUnit_data row u hr hu]
    rfl
  change execScrubWriteBack c row s = _
  rw [execScrubWriteBack, onPart_next s c hc hr, State.modCore, if_pos due, rewritten]

omit hc

/-- The state in which the patrol finds a core that it reads. -/
def Patrols (s : State) (c : Nat) : Prop :=
  beating (s.core c).st = true ∧ (s.core c).st ≠ .scrubbing ∧ s.clocked (skeinOf c) = true ∧ (s.core c).perf = []

/-- The read of a beam row and of its scale bytes, with `hit` for a single-bit error in it. -/
def Cx.patrolRead (x : Cx) (row : Nat) (hit : Bool) : Cx :=
  ((((x.eccCheck 0 (256 * row) 256).1.eccCheck 0 (0x60000 + 16 * row) 16).1).mod fun r => { r with
    patrolRow := (row + 1) % 1536
    stores := if hit then { r.stores with writeBack := insertSorted row r.stores.writeBack } else r.stores }).perfEvent 0x15

include hc

/-- A patrol read of a row without a double-bit error. -/
theorem exec_patrolScrubRead (row : Nat) (hr : row < 1536) (h : Patrols s c) (hits : List (Nat × Nat))
    (found : ((s.core c).stores.ecc.filter fun e => decide (e.1 < 2 ^ 20) && rowUnit row e.1) = hits)
    (mild : (hits.any fun e => decide (e.2 = 2)) = false) :
    exec (.patrolScrubRead c row) s = .next (s.onCx c fun x => x.patrolRead row (hits.any fun e => decide (e.2 = 1))) := by
  obtain ⟨live, idle, clocked, -⟩ := h
  have stays (t : State) : (if (hits.any fun e => decide (e.2 = 2)) = true then t.restoreRow c row else t) = t :=
    if_neg (by rw [mild]; decide)
  change execPatrolScrubRead c row s = _
  rw [execPatrolScrubRead, onPart_next s c hc hr, whenS, live, decide_eq_true idle, clocked, found]
  exact congrArg _ (stays _)

theorem exec_patrolScrubRead_clean (row : Nat) (hr : row < 1536) (h : Patrols s c) (clean : (s.core c).stores.ecc = []) :
    exec (.patrolScrubRead c row) s = .next (s.setCore c { s.core c with patrolRow := (row + 1) % 1536 }) := by
  have off : (s.core c).perf = [] := h.2.2.2
  have sound (ss off n : Nat) : (s.cx c).eccCheck ss off n = (s.cx c, true) := Cx.eccCheck_clean _ _ _ _ clean
  rw [exec_patrolScrubRead s c hc row hr h [] (by rw [clean]; rfl) rfl, State.onCx, Cx.patrolRead, sound, sound,
    Cx.perfEvent_off _ _ (by exact off),
    State.putCx_quiet _ _ _ rfl rfl rfl]
  rfl

theorem exec_patrolScrubRead_single (row u : Nat) (hr : row < 1536) (hu : u < 16) (h : Patrols s c)
    (error : (s.core c).stores.ecc = [(16 * row + u, 1)]) :
    exec (.patrolScrubRead c row) s = .next (told s c { s.core c with
          patrolRow := (row + 1) % 1536
          eccCorr := Tab.put 0 (s.core c).eccCorr 0 (satAdd 16 (Tab.get 0 (s.core c).eccCorr 0) 1)
          stores := { (s.core c).stores with writeBack := insertSorted row (s.core c).stores.writeBack } }
        1 1 (256 * row + 16 * u)) := by
  have off : (s.core c).perf = [] := h.2.2.2
  have found : ((s.core c).stores.ecc.filter fun e => decide (e.1 < 2 ^ 20) && rowUnit row e.1) = [(16 * row + u, 1)] := by
    rw [error, List.filter_cons, rowUnit_data row u hr hu]
    rfl
  have addr : locAddr 0 (256 * row + 16 * u) = 256 * row + 16 * u := by
    rw [locAddr, Nat.mod_eq_of_lt (by omega), Nat.zero_shiftLeft, Nat.zero_add]
  rw [exec_patrolScrubRead s c hc row hr h _ found rfl, State.onCx, Cx.patrolRead,
    Cx.eccCheck_single _ _ _ _ _ (Stores.errs_rowData _ row u hu error) (by exact off),
    Cx.eccCheck_none _ _ _ _ (Stores.errs_rowScale _ row u hr hu error), Cx.perfEvent_off _ _ (by exact off), addr]
  exact congrArg _ (State.putCx_told s c _ 1 1 _ rfl rfl rfl (by omega))

end events

/-- Settles O13, event by event. -/
theorem coreEventEffects : Obligations.CoreEventEffects := by
  refine fun s c hc => ⟨exec_chanStatusClear s c hc, exec_heartbeat s c hc,
    fun live clocked => (exec_heartbeatWindowExpiry s c hc live clocked).1,
    fun live clocked => (exec_heartbeatWindowExpiry s c hc live clocked).2, exec_arbitrationYield s c hc,
    fun row hr live idle clocked off => ⟨exec_patrolScrubRead_clean s c hc row hr ⟨live, idle, clocked, off⟩,
      fun u hu => exec_patrolScrubRead_single s c hc row u hr hu ⟨live, idle, clocked, off⟩⟩,
    exec_scrubWriteBack s c hc, exec_budgetClamp s c hc, exec_counterWrap s c hc⟩

end Sys2Proof.Machine
end

section
namespace Sys2Proof.Machine

open Sys2Proof

/-! PROOFS. The rules of a shuttle channel at work: reads, lines, the notify and the end, and the run over all lines (R61–R65). -/

/-! ## Work on one channel beside work on the core -/

theorem CoreRec.setChan_chan_self (r : CoreRec) (ch : Nat) (k : Chan) : (r.setChan ch k).chan ch = k := Tab.get_put_self _ _ _ _

theorem CoreRec.setChan_chan_ne (r : CoreRec) (ch j : Nat) (k : Chan) (h : j ≠ ch) : (r.setChan ch k).chan j = r.chan j :=
  Tab.get_put_ne _ _ _ _ _ h

/-- The core at work is as in `y`, but that its channel `ch` is as `k`. -/
structure Cx.At (x y : Cx) (ch : Nat) (k : Chan) : Prop where
  core : x.r = { y.r with chans := x.r.chans }
  msgs : x.msgs = y.msgs
  out : x.out = y.out
  free : x.free = y.free
  here : x.r.chan ch = k
  others : ∀ j, j ≠ ch → x.r.chan j = y.r.chan j

/-- The channel is replaced. -/
def Cx.chanTo (x : Cx) (ch : Nat) (k : Chan) : Cx := x.mod fun r => r.setChan ch k

theorem Cx.At.refl (x : Cx) (ch : Nat) : x.At x ch (x.r.chan ch) := ⟨rfl, rfl, rfl, rfl, rfl, fun _ _ => rfl⟩

theorem Cx.At.chanTo {x y : Cx} {ch : Nat} {k : Chan} (h : x.At y ch k) (k' : Chan) : (x.chanTo ch k').At y ch k' := by
  refine ⟨?_, h.msgs, h.out, h.free, CoreRec.setChan_chan_self _ _ _, fun j hj => ?_⟩
  · exact congrArg (fun r : CoreRec => { r with chans := (x.r.setChan ch k').chans }) h.core
  · exact (CoreRec.setChan_chan_ne _ _ _ _ hj).trans (h.others j hj)

/-- A change of the core that does not look at the channels. -/
theorem Cx.At.mod {x y : Cx} {ch : Nat} {k : Chan} (h : x.At y ch k) (f : CoreRec → CoreRec)
    (hf : ∀ (r : CoreRec) (cs : Tab Chan), f { r with chans := cs } = { f r with chans := cs }) (hc : ∀ r, (f r).chans = r.chans) :
    (x.mod f).At (y.mod f) ch k := by
  have chans : (f x.r).chans = x.r.chans := hc x.r
  have same (j : Nat) (r : CoreRec) : (f r).chan j = r.chan j := by rw [CoreRec.chan, CoreRec.chan, hc]
  refine ⟨?_, h.msgs, h.out, h.free, (same ch x.r).trans h.here, fun j hj =>
    (same j x.r).trans ((h.others j hj).trans (same j y.r).symm)⟩
  change f x.r = { f y.r with chans := (f x.r).chans }
  rw [chans, ← hf, ← h.core]

theorem Cx.At.send {x y : Cx} {ch : Nat} {k : Chan} (h : x.At y ch k) (f : Flit) : (x.send f).At (y.send f) ch k :=
  ⟨h.core, h.msgs, congrArg (· ++ [f]) h.out, h.free, h.here, h.others⟩

theorem Cx.At.write {x y : Cx} {ch : Nat} {k : Chan} (h : x.At y ch k) (ss off n v : Nat) :
    (x.write ss off n v).At (y.write ss off n v) ch k := h.mod _ (fun _ _ => rfl) fun _ => rfl

/-- What a channel holds does not show in what its core's shuttle reads. -/
theorem Cx.At.stores {x y : Cx} {ch : Nat} {k : Chan} (h : x.At y ch k) : x.r.stores = y.r.stores := by rw [h.core]
theorem Cx.At.perf {x y : Cx} {ch : Nat} {k : Chan} (h : x.At y ch k) : x.r.perf = y.r.perf := by rw [h.core]
theorem Cx.At.st {x y : Cx} {ch : Nat} {k : Chan} (h : x.At y ch k) : x.r.st = y.r.st := by rw [h.core]

/-- Sound stores, and counters that are off. -/
structure Cx.Sound (x : Cx) : Prop where
  clean : x.r.stores.ecc = []
  off : x.r.perf = []

theorem Cx.At.sound {x y : Cx} {ch : Nat} {k : Chan} (h : x.At y ch k) (hy : y.Sound) : x.Sound :=
  ⟨by rw [h.stores]; exact hy.clean, by rw [h.perf]; exact hy.off⟩

theorem Cx.setAct_eq (x : Cx) (ch : Nat) (a : Active) : x.setAct ch a =
    x.chanTo ch { x.r.chan ch with active := some a, state := .active } :=
  rfl

theorem Cx.At.setAct {x y : Cx} {ch : Nat} {k : Chan} (h : x.At y ch k) (a : Active) :
    (x.setAct ch a).At y ch { k with active := some a, state := .active } := by
  rw [Cx.setAct_eq, h.here]
  exact h.chanTo _

/-! ## Stores -/

/-- A write leaves a store without errors without errors. -/
theorem Stores.write_clean (st : Stores) (ss off n v : Nat) (h : st.ecc = []) : (st.write ss off n v).ecc = [] := by
  have kept (m : List Host.Cell) : (st.setMem ss m).ecc = st.ecc := by unfold Stores.setMem; split_ifs <;> rfl
  rw [Stores.write, kept, h, List.filter_nil]

theorem Cx.Sound.write {x : Cx} (h : x.Sound) (ss off n v : Nat) : (x.write ss off n v).Sound :=
  ⟨Stores.write_clean _ _ _ _ _ h.clean, h.off⟩

/-- What may be accessed depends on the core's state alone. -/
theorem localOk_congr (r q : CoreRec) (h : r.st = q.st) : localOk r = localOk q := by
  funext w ss off n
  simp only [localOk, h]

/-- A read for a transfer that may take place delivers the bytes. -/
theorem Cx.shRead_clean (x : Cx) (ch e ss off n : Nat) (h : x.Sound) (ok : localOk x.r false ss off n = true) :
    x.shRead ch e ss off n = (x, some (getAt x.r.stores ss off n)) := by
  simp only [Cx.shRead, ok, if_true, Cx.eccCheck_clean _ _ _ _ h.clean, Cx.perfEvent_off _ _ h.off]
  rfl

/-- A write into a store proper. -/
theorem Cx.storeIn_proper (x : Cx) (ss off n v : Nat) (h : x.Sound) (h5 : ss ≠ 5) (h6 : ss ≠ 6) :
    x.storeIn ss off n v = (x.write ss off n v, true) := by
  rw [Cx.storeIn, if_neg (fun p => p.elim h5 h6), Cx.perfEvent_off _ _ (h.write _ _ _ _).off]

/-- A word written through a set or clear window sets, or clears, its bits. -/
theorem Cx.storeIn_alias (x : Cx) (ss off m : Nat) (h : x.Sound) (hs : ss = 5 ∨ ss = 6) (hm : m < 2 ^ 64) :
    x.storeIn ss off 8 m = (x.write 1 off 8 (aliasWord (decide (ss = 5)) (x.r.stores.read 1 off 8) m), true) := by
  have word := Cx.rmw_clean x off (decide (ss = 5)) m h.clean hm
  rw [Cx.storeIn, if_pos hs, Cx.rmwWords, Nat.mod_eq_of_lt hm, word]
  simp only [if_true, Cx.rmwWords]
  rw [Cx.perfEvent_off _ _ (h.write _ _ _ _).off]

/-! ## Lines -/

/-- A line to a store of this core. -/
theorem Cx.putLine_mine (v : ShEnv) (x : Cx) (ch : Nat) (a : Active) (i dst d : Nat) (mc : Bool) (h : x.Sound)
    (mine : isMine v dst = true) (h5 : gaSs dst ≠ 5) (h6 : gaSs dst ≠ 6) (ok : localOk x.r true (gaSs dst) (gaOff dst) 32 = true) :
    x.putLine v ch a i dst d mc = ((x.write (gaSs dst) (gaOff dst) 32 d).setAct ch { a with next := i + 1 }, .done) := by
  simp only [Cx.putLine, mine, ok, if_true, Cx.storeIn_proper x _ _ _ _ h h5 h6]

/-- A line to another core without credit. -/
theorem Cx.putLine_remote (v : ShEnv) (x : Cx) (ch : Nat) (a : Active) (i dst d : Nat) (mc : Bool) (h : x.Sound)
    (away : isMine v dst = false) (free : a.credited = false) : x.putLine v ch a i dst d mc =
      ((x.send (writeFlit ch dst 32 d (decide (i + 1 = a.total)) false 0)).setAct ch
        { a with next := i + 1, sent := a.sent + 1 }, .done) := by
  have quiet (f : Flit) : (x.send f).perfEvent 0x0E = x.send f := Cx.perfEvent_off _ _ h.off
  simp only [Cx.putLine, away, free, quiet, if_false, Bool.false_eq_true]

/-- A line from a store of this core that can be put now. -/
theorem Cx.moveLine_mine (v : ShEnv) (x : Cx) (ch : Nat) (a : Active) (i src dst : Nat) (mc : Bool) (h : x.Sound)
    (mine : isMine v src = true) (ok : localOk x.r false (gaSs src) (gaOff src) 32 = true) (can : canPut v x a dst mc = true) :
    x.moveLine v ch a i src dst mc = x.putLine v ch a i dst (getLine x.r.stores src) mc := by
  simp only [Cx.moveLine, mine, can, if_true, Bool.not_true, if_false, Bool.false_eq_true, Cx.shRead_clean x ch i _ _ _ h ok]
  rfl

theorem canPut_mine (v : ShEnv) (x : Cx) (a : Active) (dst : Nat) (mc : Bool) (mine : isMine v dst = true) :
    canPut v x a dst mc = true := by
  rw [canPut, mine, Bool.true_or, Bool.true_or]

theorem canPut_free (v : ShEnv) (x : Cx) (a : Active) (dst : Nat) (mc : Bool) (free : a.credited = false) :
    canPut v x a dst mc = true := by
  rw [canPut, free, Bool.not_false, Bool.or_true, Bool.true_or]

/-- An aligned list entry in a store that a shuttle may read. -/
theorem Cx.listEntry_clean (x : Cx) (ch base i e n : Nat) (h : x.Sound) (aligned : (bits base 0 19 + n * i) % n = 0)
    (ok : localOk x.r false (bits base 19 3) (bits base 0 19 + n * i) n = true) :
    x.listEntry ch base i e n = (x, some (entryAt x.r.stores base i n)) := by
  rw [Cx.listEntry, if_pos aligned, Cx.shRead_clean x ch e _ _ _ h ok]
  rfl

/-- A list entry that is a plain address. -/
theorem Cx.listAddr_clean (x : Cx) (ch base i : Nat) (h : x.Sound) (aligned : (bits base 0 19 + 8 * i) % 8 = 0)
    (ok : localOk x.r false (bits base 19 3) (bits base 0 19 + 8 * i) 8 = true) (plain : entryAt x.r.stores base i 8 < 2 ^ 47) :
    x.listAddr ch base i = (x, some (entryAt x.r.stores base i 8)) := by
  have high : ¬ entryAt x.r.stores base i 8 >>> 47 ≠ 0 := by rw [Nat.shiftRight_eq_div_pow, Nat.div_eq_of_lt plain]; decide
  simp only [Cx.listAddr, Cx.listEntry_clean x ch base i i 8 h aligned ok, high, if_false]

/-! ## The notify and the end (R65) -/

theorem Cx.finish_eq (x : Cx) (ch : Nat) (a : Active) (off : x.r.perf = []) :
    x.finish ch a = x.chanTo ch (ended (x.r.chan ch) a (x.r.chan ch).queue) := by
  rw [Cx.finish, Cx.perfEvent_off _ _ (by exact off)]
  rfl

/-- The core with other stores. -/
def Cx.withStores (x : Cx) (st : Stores) : Cx := x.mod fun r => { r with stores := st }

theorem Cx.At.withStores {x y : Cx} {ch : Nat} {k : Chan} (h : x.At y ch k) (st : Stores) :
    (x.withStores st).At (y.withStores st) ch k := h.mod _ (fun _ _ => rfl) fun _ => rfl

theorem Active.notifyMask_lt (a : Active) : a.notifyMask < 2 ^ 64 := by
  unfold Active.notifyMask Active.w
  split <;> exact bits_lt _ _ _

/-- An aligned word of a set or clear window may be written. -/
theorem localOk_alias (r : CoreRec) (d : Nat) (h : aliasAddr d = true) (aligned : gaOff d % 8 = 0) :
    (gaSs d = 5 ∨ gaSs d = 6) ∧ localOk r true (gaSs d) (gaOff d) 8 = true := by
  simp only [aliasAddr, Bool.and_eq_true, Bool.or_eq_true, decide_eq_true_eq] at h
  obtain ⟨⟨-, hs⟩, low⟩ := h
  have fits : gaOff d + 8 ≤ 0xC000 := by omega
  refine ⟨hs, ?_⟩
  rcases hs with hs | hs <;> rw [hs] <;> simp [localOk, aligned, storeEnd, realSs, fits]

/-- All lines are accepted: the notify goes to its word, and the descriptor ends. -/
theorem Cx.At.linesDone {x y : Cx} {ch : Nat} {k : Chan} (h : x.At y ch k) (hy : y.Sound) (v : ShEnv) (a : Active)
    (here : a.notify = true → isMine v a.notifyAddr = true ∧ aliasAddr a.notifyAddr = true ∧ gaOff a.notifyAddr % 8 = 0) :
    (x.linesDone v ch a).At (y.withStores (notified a y.r.stores)) ch (ended k a k.queue) := by
  have hx := h.sound hy
  by_cases hn : a.notify = true
  · obtain ⟨mine, window, aligned⟩ := here hn
    obtain ⟨hs, ok⟩ := localOk_alias x.r a.notifyAddr window aligned
    have ends : x.linesDone v ch a = (x.write 1 (gaOff a.notifyAddr) 8 (aliasWord (decide (gaSs a.notifyAddr = 5))
        (x.r.stores.read 1 (gaOff a.notifyAddr) 8) a.notifyMask)).finish ch a := by
      simp only [Cx.linesDone, hn, mine, ok, Bool.not_true, Bool.false_eq_true, if_false, if_true,
        Cx.storeIn_alias x _ _ _ hx hs a.notifyMask_lt]
    have word := h.write 1 (gaOff a.notifyAddr) 8
      (aliasWord (decide (gaSs a.notifyAddr = 5)) (x.r.stores.read 1 (gaOff a.notifyAddr) 8) a.notifyMask)
    have stores : notified a y.r.stores = y.r.stores.write 1 (gaOff a.notifyAddr) 8
        (aliasWord (decide (gaSs a.notifyAddr = 5)) (x.r.stores.read 1 (gaOff a.notifyAddr) 8) a.notifyMask) := by
      rw [notified, if_pos hn, h.stores, aliasWord]
      simp only [decide_eq_true_eq]
    rw [ends, Cx.finish_eq _ _ _ (hx.write _ _ _ _).off, word.here, stores]
    exact word.chanTo _
  · have ends : x.linesDone v ch a = x.finish ch a := by simp only [Cx.linesDone, hn, Bool.not_false, if_true]
    have stores : notified a y.r.stores = y.r.stores := if_neg hn
    rw [ends, Cx.finish_eq _ _ _ hx.off, h.here, stores]
    exact h.chanTo _

/-! ## The run over the lines -/

/-- One turn of the pump at a line that goes on. -/
theorem Cx.pump_line (v : ShEnv) (ch n : Nat) (x x' : Cx) (a : Active) (act : (x.r.chan ch).active = some a)
    (active : (x.r.chan ch).state = .active) (lines : a.notifying = false) (more : a.next < a.total)
    (step : x.lineStep v ch a false = (x', .done)) : Cx.pump v ch (n + 1) x = Cx.pump v ch n x' := by
  have go : ¬ ((x.r.chan ch).state ≠ .active ∨ a.notifying = true) := by rw [active, lines]; decide
  simp only [Cx.pump, Cx.act?, act, if_neg go, if_pos more, step]

/-- The pump at the end of the lines. -/
theorem Cx.pump_end (v : ShEnv) (ch n : Nat) (x : Cx) (a : Active) (act : (x.r.chan ch).active = some a)
    (active : (x.r.chan ch).state = .active) (lines : a.notifying = false) (last : ¬ a.next < a.total) :
    Cx.pump v ch (n + 1) x = if a.sent = a.acked then x.linesDone v ch a else x := by
  have go : ¬ ((x.r.chan ch).state ≠ .active ∨ a.notifying = true) := by rw [active, lines]; decide
  simp only [Cx.pump, Cx.act?, act, if_neg go, if_neg last]

/-- A line of the family `y`, `a` goes on from `i` to `i + 1`. -/
def LineGoes (v : ShEnv) (ch : Nat) (k : Chan) (y : Nat → Cx) (a : Nat → Active) (i : Nat) : Prop :=
  ∀ x : Cx, x.At (y i) ch { k with active := some (a i), state := .active } →
    ∃ x' : Cx, x.lineStep v ch (a i) false = (x', .done) ∧
      x'.At (y (i + 1)) ch { k with active := some (a (i + 1)), state := .active }

/-- `n` lines that go on: the core passes through `y 0`, …, `y n`. -/
theorem Cx.pump_lines (v : ShEnv) (ch : Nat) (k : Chan) (y : Nat → Cx) (a : Nat → Active) (n : Nat)
    (lines : ∀ i, i < n → LineGoes v ch k y a i ∧ (a i).notifying = false ∧ (a i).next < (a i).total) (fuel : Nat) (x : Cx)
    (start : x.At (y 0) ch { k with active := some (a 0), state := .active }) :
    ∃ x', x'.At (y n) ch { k with active := some (a n), state := .active } ∧ Cx.pump v ch (n + fuel) x = Cx.pump v ch fuel x' := by
  induction n generalizing fuel with
  | zero => exact ⟨x, start, by rw [Nat.zero_add]⟩
  | succ n ih =>
    obtain ⟨x₁, at₁, pump₁⟩ := ih (fun i hi => lines i (Nat.lt_succ_of_lt hi)) (fuel + 1)
    obtain ⟨goes, run, more⟩ := lines n (Nat.lt_succ_self n)
    obtain ⟨x₂, step, at₂⟩ := goes x₁ at₁
    refine ⟨x₂, at₂, ?_⟩
    rw [show n + 1 + fuel = n + (fuel + 1) by omega, pump₁]
    exact Cx.pump_line v ch fuel x₁ x₂ _ (by rw [at₁.here]) (by rw [at₁.here]) run more step

/-- A channel whose lines all go on runs to its last one, and ends where all of them are accepted. -/
theorem Cx.run_to_last (v : ShEnv) (ch : Nat) (k : Chan) (y : Nat → Cx) (a : Nat → Active) (n : Nat)
    (lines : ∀ i, i < n → LineGoes v ch k y a i ∧ (a i).notifying = false ∧ (a i).next < (a i).total)
    (fuel : n ≤ (a 0).total) (x : Cx) (start : x.At (y 0) ch { k with active := some (a 0), state := .active })
    (last : ¬ (a n).next < (a n).total) (quiet : (a n).notifying = false) :
    ∃ x', x'.At (y n) ch { k with active := some (a n), state := .active } ∧
      x.run v ch = if (a n).sent = (a n).acked then x'.linesDone v ch (a n) else x' := by
  obtain ⟨x', at_, pump⟩ := Cx.pump_lines v ch k y a n lines ((a 0).total - n + 1 + 1) x start
  refine ⟨x', at_, ?_⟩
  have run : x.run v ch = Cx.pump v ch ((a 0).total - n + 1 + 1) x' := by
    rw [← pump, show n + ((a 0).total - n + 1 + 1) = pumpFuel (a 0) by rw [pumpFuel]; omega]
    simp only [Cx.run, Cx.act?, start.here]
  rw [run, Cx.pump_end v ch _ x' (a n) (by rw [at_.here]) (by rw [at_.here]) quiet last]

/-- Where all are accepted, it notifies and ends. -/
theorem Cx.run_lines (v : ShEnv) (ch : Nat) (k : Chan) (y : Nat → Cx) (a : Nat → Active) (n : Nat)
    (lines : ∀ i, i < n → LineGoes v ch k y a i ∧ (a i).notifying = false ∧ (a i).next < (a i).total)
    (fuel : n ≤ (a 0).total) (x : Cx) (start : x.At (y 0) ch { k with active := some (a 0), state := .active }) (sound : (y n).Sound)
    (last : ¬ (a n).next < (a n).total) (accepted : (a n).sent = (a n).acked) (quiet : (a n).notifying = false)
    (here : (a n).notify = true →
      isMine v (a n).notifyAddr = true ∧ aliasAddr (a n).notifyAddr = true ∧ gaOff (a n).notifyAddr % 8 = 0) :
    (x.run v ch).At ((y n).withStores (notified (a n) (y n).r.stores)) ch (ended k (a n) k.queue) := by
  obtain ⟨x', at_, run⟩ := Cx.run_to_last v ch k y a n lines fuel x start last quiet
  rw [run, if_pos accepted]
  exact at_.linesDone sound v (a n) here

end Sys2Proof.Machine
end

section
namespace Sys2Proof.Machine

open Sys2Proof

/-! PROOFS. Transfers within one core (O14). -/

/-! ## A core at work on its own stores -/

/-- The core with other stores and flags. -/
def Cx.atLine (x : Cx) (st : Stores) (gf : BitVec 24) : Cx := x.mod fun r => { r with stores := st, dp := { r.dp with gf := gf } }

/-- The core at work sees the stores `st`, without an error in them, and is otherwise as core `c` of the engine. -/
structure Cx.Works (s : State) (c : Nat) (st : Stores) (x : Cx) : Prop where
  sound : x.Sound
  stores : x.r.stores = st
  state : x.r.st = (s.core c).st
  frameMap : x.r.frameMap = (s.core c).frameMap
  frameGeom : x.r.frameGeom = (s.core c).frameGeom

theorem Cx.At.works {s : State} {c ch : Nat} {st : Stores} {gf : BitVec 24} {x : Cx} {k : Chan}
    (h : x.At ((s.cx c).atLine st gf) ch k) (clean : st.ecc = []) (off : (s.core c).perf = []) : x.Works s c st :=
  ⟨h.sound ⟨clean, off⟩, h.stores, h.st, by rw [h.core]; rfl, by rw [h.core]; rfl⟩

section here

variable {s : State} {c : Nat} {st : Stores} {x : Cx} (h : x.Works s c st) (ch : Nat) (a : Active)

include h

theorem Cx.Works.shRead (e ss off n : Nat) (ok : localOk (s.core c) false ss off n = true) :
    x.shRead ch e ss off n = (x, some (getAt st ss off n)) := by
  rw [Cx.shRead_clean x ch e ss off n h.sound (by rw [localOk_congr _ _ h.state]; exact ok), h.stores]

theorem Cx.Works.putLine (i dst d : Nat) (mc : Bool) (w : mineToWrite s c dst) : x.putLine (s.shEnv c) ch a i dst d mc =
    ((x.write (gaSs dst) (gaOff dst) 32 d).setAct ch { a with next := i + 1 }, .done) := by
  obtain ⟨mine, h5, h6, ok⟩ := w
  exact Cx.putLine_mine _ x ch a i dst d mc h.sound mine h5 h6 (by rw [localOk_congr _ _ h.state]; exact ok)

theorem Cx.Works.moveLine_of_can (i src dst : Nat) (mc : Bool) (r : mineToRead s c src)
    (can : canPut (s.shEnv c) x a dst mc = true) :
    x.moveLine (s.shEnv c) ch a i src dst mc = x.putLine (s.shEnv c) ch a i dst (getLine st src) mc := by
  rw [Cx.moveLine_mine _ x ch a i src dst mc h.sound r.1 (by rw [localOk_congr _ _ h.state]; exact r.2) can, h.stores]

theorem Cx.Works.moveLine (i src dst : Nat) (mc : Bool) (r : mineToRead s c src) (w : mineToWrite s c dst) :
    x.moveLine (s.shEnv c) ch a i src dst mc =
      ((x.write (gaSs dst) (gaOff dst) 32 (getLine st src)).setAct ch { a with next := i + 1 }, .done) := by
  rw [h.moveLine_of_can ch a i src dst mc r (canPut_mine _ _ _ _ _ w.1), h.putLine ch a i dst _ mc w]

theorem Cx.Works.listEntry (base i e n : Nat) (ok : entryOk s c base i n) :
    x.listEntry ch base i e n = (x, some (entryAt st base i n)) := by
  rw [Cx.listEntry_clean x ch base i e n h.sound ok.1 (by rw [localOk_congr _ _ h.state]; exact ok.2), h.stores]

theorem Cx.Works.listAddr (base i : Nat) (ok : entryOk s c base i 8) (plain : entryAt st base i 8 < 2 ^ 47) :
    x.listAddr ch base i = (x, some (entryAt st base i 8)) := by
  rw [← h.stores] at plain ⊢
  exact Cx.listAddr_clean x ch base i h.sound ok.1 (by rw [localOk_congr _ _ h.state]; exact ok.2) plain

end here

/-! ## A channel from its start to its end -/

/-- What a command's work leaves of the core where nothing but stores, flags and one channel changes. -/
theorem moves_of_at {s : State} {c ch : Nat} {st : Stores} {gf : BitVec 24} {x : Cx} {k : Chan} (cmd : Instr)
    (runs : exec cmd s = .next (s.putCx c x)) (h : x.At ((s.cx c).atLine st gf) ch k) : Moves cmd s c ch st k gf := by
  refine ⟨_, runs, ?_, ?_, ?_, fun j hj => ?_⟩
  · rw [State.putCx_quiet _ _ _ h.msgs h.out h.free, OnlyCore, State.setCore_core_self]
  · rw [State.putCx_core, h.core]
    rfl
  · rw [State.putCx_core, h.here]
  · rw [State.putCx_core, h.others j hj]
    rfl

/-- A family of lines that go on, from the channel's first to its last: the stores and flags pass through `st`, `gf` and the
active descriptor through `A`. -/
theorem moves_of_lines {s : State} {c ch : Nat} {x : Cx} (k : Chan) (A : Nat → Active) (st : Nat → Stores) (gf : Nat → BitVec 24)
    (n : Nat) (cmd : Instr) (runs : exec cmd s = .next (s.putCx c (x.run (s.shEnv c) ch)))
    (start : x.At ((s.cx c).atLine (st 0) (gf 0)) ch { k with active := some (A 0), state := .active }) (fuel : n ≤ (A 0).total)
    (lines : ∀ i, i < n → LineGoes (s.shEnv c) ch k (fun i => (s.cx c).atLine (st i) (gf i)) A i ∧ (A i).notifying = false ∧
      (A i).next < (A i).total) (clean : (st n).ecc = []) (off : (s.core c).perf = []) (last : ¬ (A n).next < (A n).total)
    (accepted : (A n).sent = (A n).acked) (quiet : (A n).notifying = false) (here : notifiesHere s c (A n)) :
    Moves cmd s c ch (notified (A n) (st n)) (ended k (A n) k.queue) (gf n) :=
  moves_of_at cmd runs (Cx.run_lines (s.shEnv c) ch k _ A n lines fuel x start ⟨clean, off⟩ last accepted quiet here)

/-- The core with the channel's front descriptor taken from its queue. -/
def startedCx (s : State) (c ch : Nat) (rest : List QEntry) : Cx :=
  (s.cx c).chanTo ch { startedChan (s.core c) ch with queue := rest, state := .active }

theorem startedCx_at (s : State) (c ch : Nat) (rest : List QEntry) :
    (startedCx s c ch rest).At (s.cx c) ch { startedChan (s.core c) ch with queue := rest, state := .active } :=
  (Cx.At.refl (s.cx c) ch).chanTo _

/-- The start of a descriptor of operation `op`, once its two lines at `addr` are read as `q`. -/
def Cx.startRead (v : ShEnv) (x : Cx) (ch op addr : Nat) (q : Cx × Option Nat) : Cx :=
  match q.2 with
  | none => q.1
  | some w =>
    let a := newActive (BitVec.ofNat 512 w) addr false 0
    if a.malformed then q.1.chanFail ch 0 0x09 (2 ^ 35 + ch)
    else if a.op ≠ op then x
    else if op = 6 then
      if (bits a.src 19 3 = 1 ∨ bits a.src 19 3 = 2) ∧ a.count ≤ 1536 ∧
          localOk q.1.r false (bits a.src 19 3) (bits a.src 0 19) (32 * a.count) = true then
        q.1.grantGo v ch a
      else q.1.chanFail ch 0 0x05 (bits a.src 0 22)
    else (q.1.setAct ch a).run v ch

/-- The front descriptor of an idle channel is read. -/
theorem Cx.startDesc_front (v : ShEnv) (x : Cx) (ch op addr : Nat) (rest : List QEntry) (idle : (x.r.chan ch).state = .idle)
    (nothing : (x.r.chan ch).active = none) (front : (x.r.chan ch).queue = .desc addr :: rest) (works : shuttleOn x.r = true) :
    x.startDesc v ch op = x.startRead v ch op addr
      ((x.chanTo ch { x.r.chan ch with queue := rest, state := .active, entry := 0, mismatch := false }).shRead ch 0 1 addr 64) := by
  have on : ¬ (!shuttleOn x.r) = true := by rw [works]; decide
  rw [Cx.startDesc]
  generalize x.r.chan ch = k at idle nothing front
  obtain ⟨state, queue, active, mismatch, entry, discarded, yields⟩ := k
  subst idle nothing front
  exact if_neg on

/-- The idle channel's descriptor starts: a GRANT looks at its window, and any other runs. -/
theorem startDesc_eq {s : State} {c ch op : Nat} {a : Active} {rest : List QEntry} (h : CanStart s c ch op a rest) :
    (s.cx c).startDesc (s.shEnv c) ch op =
      if op = 6 then
        if (bits a.src 19 3 = 1 ∨ bits a.src 19 3 = 2) ∧ a.count ≤ 1536 ∧
            localOk (startedCx s c ch rest).r false (bits a.src 19 3) (bits a.src 0 19) (32 * a.count) = true then
          (startedCx s c ch rest).grantGo (s.shEnv c) ch a
        else (startedCx s c ch rest).chanFail ch 0 0x05 (bits a.src 0 22)
      else ((startedCx s c ch rest).setAct ch a).run (s.shEnv c) ch := by
  have works : (startedCx s c ch rest).Works s c (s.core c).stores :=
    Cx.At.works (gf := (s.core c).dp.gf) (startedCx_at s c ch rest) h.noErrors h.countersOff
  have read := works.shRead ch 0 1 a.addr 64 h.inside
  have desc : newActive (BitVec.ofNat 512 (getAt (s.core c).stores 1 a.addr 64)) a.addr false 0 = a := h.read.symm
  have op_eq : ¬ a.op ≠ op := not_not.2 h.operation
  rw [Cx.startDesc_front _ _ _ _ _ _ h.idle h.nothing h.front h.works]
  refine (congrArg ((s.cx c).startRead (s.shEnv c) ch op a.addr) read).trans ?_
  simp only [Cx.startRead, desc, h.formed, if_false, Bool.false_eq_true, if_neg op_eq]

/-- A transfer's descriptor starts, and its lines run. -/
theorem startDesc_runs {s : State} {c ch op : Nat} {a : Active} {rest : List QEntry} (h : CanStart s c ch op a rest) (hop : op ≠ 6) :
    ∃ x : Cx, execStart op c ch s = .next (s.putCx c (x.run (s.shEnv c) ch)) ∧
      x.At (s.cx c) ch { startedChan (s.core c) ch with queue := rest, active := some a, state := .active } := by
  refine ⟨(startedCx s c ch rest).setAct ch a, ?_, (startedCx_at s c ch rest).setAct a⟩
  rw [execStart, onPart_next s c h.site h.chan, State.onCx, startDesc_eq h, if_neg hop]

/-! ## Lines by operation -/

theorem lines_succ (f : Stores → Nat → Stores) (n : Nat) (st : Stores) : lines f (n + 1) st = f (lines f n st) n := by
  simp [lines, List.range_succ]

theorem lines_clean (f : Stores → Nat → Stores) (hf : ∀ st i, st.ecc = [] → (f st i).ecc = []) (n : Nat) (st : Stores)
    (h : st.ecc = []) : (lines f n st).ecc = [] := by
  induction n with
  | zero => exact h
  | succ n ih => rw [lines_succ]; exact hf _ _ ih

theorem putLine_clean (st : Stores) (dst d : Nat) (h : st.ecc = []) : (putLine st dst d).ecc = [] := Stores.write_clean _ _ _ _ _ h

/-- A line that is written in one go makes the channel go on. -/
theorem lineGoes_write {s : State} {c ch : Nat} {k : Chan} {st : Nat → Stores} {gf : BitVec 24} {A : Nat → Active} {i : Nat}
    (dst d : Nat)
    (clean : (st i).ecc = []) (off : (s.core c).perf = []) (next : st (i + 1) = putLine (st i) dst d)
    (step : ∀ x : Cx, x.Works s c (st i) → x.lineStep (s.shEnv c) ch (A i) false =
      ((x.write (gaSs dst) (gaOff dst) 32 d).setAct ch (A (i + 1)), .done)) :
    LineGoes (s.shEnv c) ch k (fun i => (s.cx c).atLine (st i) gf) A i := by
  refine fun x hx => ⟨_, step x (hx.works clean off), ?_⟩
  change Cx.At _ ((s.cx c).atLine (st (i + 1)) gf) _ _
  rw [next]
  exact (hx.write (gaSs dst) (gaOff dst) 32 d).setAct (A (i + 1))

/-- A transfer within the core whose line `i` puts `d i` of the stores before it to `dst i`. -/
theorem transfer_moves {s : State} {c ch op : Nat} {a : Active} {rest : List QEntry} (dst d : Stores → Nat → Nat) (cmd : Instr)
    (h : CanStart s c ch op a rest) (here : notifiesHere s c a) (hop : op ≠ 6) (runs : exec cmd s = execStart op c ch s)
    (total : a.total = a.count)
    (step : ∀ i, i < a.count → ∀ x : Cx, x.Works s c (lines (fun st i => putLine st (dst st i) (d st i)) i (s.core c).stores) →
      x.lineStep (s.shEnv c) ch { a with next := i } false =
        ((x.write (gaSs (dst x.r.stores i)) (gaOff (dst x.r.stores i)) 32 (d x.r.stores i)).setAct ch
          { a with next := i + 1 }, .done)) :
    Moves cmd s c ch (notified a (lines (fun st i => putLine st (dst st i) (d st i)) a.count (s.core c).stores))
      (ended (startedChan (s.core c) ch) a rest) (s.core c).dp.gf := by
  obtain ⟨x, exec, start⟩ := startDesc_runs h hop
  have fresh : a.next = 0 ∧ a.sent = a.acked ∧ a.notifying = false := by rw [h.read]; exact ⟨rfl, rfl, rfl⟩
  obtain ⟨next, accepted, quiet⟩ := fresh
  have first : ({ a with next := 0 } : Active) = a := by rw [← next]
  have clean (n : Nat) : (lines (fun st i => putLine st (dst st i) (d st i)) n (s.core c).stores).ecc = [] :=
    lines_clean _ (fun st i => putLine_clean _ _ _) n _ h.noErrors
  refine moves_of_lines { startedChan (s.core c) ch with queue := rest } (fun i => { a with next := i })
    (fun i => lines (fun st i => putLine st (dst st i) (d st i)) i (s.core c).stores) (fun _ => (s.core c).dp.gf) a.count cmd
    (runs.trans exec) (by rw [first]; exact start) (Nat.le_of_eq total.symm) (fun i hi => ⟨?_, quiet, ?_⟩) (clean _) h.countersOff
    (fun p => Nat.lt_irrefl _ (total ▸ p)) accepted quiet here
  · refine lineGoes_write _ _ (clean i) h.countersOff (lines_succ _ _ _) fun x hx => ?_
    rw [← hx.stores]
    exact step i hi x hx
  · exact total.symm ▸ hi

section steps

variable (v : ShEnv) (x : Cx) (ch : Nat) (a : Active) (mc : Bool) (own : a.isRstep = false)

include own

theorem Cx.lineStep_copy (op : a.op = 1) :
    x.lineStep v ch a mc = x.moveLine v ch a a.next (srcOf a a.next) (dstOf a a.next) mc := by
  rw [Cx.lineStep, if_neg (by rw [own]; decide), if_pos op]
  rfl

theorem Cx.lineStep_gather (op : a.op = 2) (can : canPut v x a (dstOf a a.next) mc = true) (e : Nat)
    (entry : x.listAddr ch (bits a.src 0 22) a.next = (x, some e)) :
    x.lineStep v ch a mc = x.moveLine v ch a a.next e (dstOf a a.next) mc := by
  have goes : ¬ (!canPut v x a (gaStep a.dstA ((a.next : Int) * a.dstride)) mc && !a.staged.isEmpty) = true := by
    rw [show canPut v x a (gaStep a.dstA ((a.next : Int) * a.dstride)) mc = true from can, Bool.not_true, Bool.false_and]
    decide
  rw [Cx.lineStep, if_neg (by rw [own]; decide), if_neg (by rw [op]; decide), if_pos op, if_neg goes, entry]
  rfl

theorem Cx.lineStep_scatter (op : a.op = 3) (e : Nat) (entry : x.listAddr ch (bits a.dstA 0 22) a.next = (x, some e)) (x' : Cx)
    (moved : x.moveLine v ch a a.next (srcOf a a.next) e mc = (x', .done)) : x.lineStep v ch a mc = (x', .done) := by
  have move : x.moveLine v ch a a.next (gaStep a.src ((a.next : Int) * a.sstride)) e mc = (x', .done) := moved
  rw [Cx.lineStep, if_neg (by rw [own]; decide), if_neg (by rw [op]; decide), if_neg (by rw [op]; decide), if_pos op, entry]
  simp only [move]
  exact if_neg fun p => absurd p.1 (by decide)

theorem Cx.lineStep_fill (op : a.op = 5) : x.lineStep v ch a mc = x.putLine v ch a a.next (dstOf a a.next) 0 mc := by
  rw [Cx.lineStep, if_neg (by rw [own]; decide), if_neg (by rw [op]; decide), if_neg (by rw [op]; decide),
    if_neg (by rw [op]; decide),
    if_neg (by rw [op]; decide), if_pos op]
  rfl

end steps

theorem Active.total_of_op (a : Active) (own : a.isRstep = false) (h4 : a.op ≠ 4) (h6 : a.op ≠ 6) : a.total = a.count := by
  rw [Active.total, if_neg (by rw [own]; decide), if_neg h4, if_neg h6]

theorem canStart_own {s : State} {c ch op : Nat} {a : Active} {rest : List QEntry} (h : CanStart s c ch op a rest) :
    a.isRstep = false := by rw [h.read]; rfl

section transfers

variable {s : State} {c ch : Nat} {a : Active} {rest : List QEntry} (here : notifiesHere s c a)

include here

theorem copy_moves (h : CanStart s c ch 1 a rest)
    (lines_ : ∀ i, i < a.count → mineToRead s c (srcOf a i) ∧ mineToWrite s c (dstOf a i)) :
    Moves (.copy c ch) s c ch
      (notified a (lines (fun st i => putLine st (dstOf a i) (getLine st (srcOf a i))) a.count (s.core c).stores))
      (ended (startedChan (s.core c) ch) a rest) (s.core c).dp.gf := by
  have own : a.isRstep = false := canStart_own h
  refine transfer_moves (fun _ i => dstOf a i) (fun st i => getLine st (srcOf a i)) _ h here (by decide) rfl
    (a.total_of_op own (by rw [h.operation]; decide) (by rw [h.operation]; decide)) fun i hi x hx => ?_
  obtain ⟨r, w⟩ := lines_ i hi
  rw [hx.stores]
  exact (Cx.lineStep_copy _ x ch { a with next := i } false own h.operation).trans (hx.moveLine ch _ i _ _ false r w)

theorem gather_moves (h : CanStart s c ch 2 a rest) (f : Stores → Nat → Stores)
    (hf : f = fun st i => putLine st (dstOf a i) (getLine st (entryAt st (bits a.src 0 22) i 8)))
    (lines_ : ∀ i, i < a.count → entryOk s c (bits a.src 0 22) i 8 ∧
      entryAt (lines f i (s.core c).stores) (bits a.src 0 22) i 8 < 2 ^ 47 ∧
      mineToRead s c (entryAt (lines f i (s.core c).stores) (bits a.src 0 22) i 8) ∧ mineToWrite s c (dstOf a i)) :
    Moves (.gather c ch) s c ch (notified a (lines f a.count (s.core c).stores)) (ended (startedChan (s.core c) ch) a rest)
      (s.core c).dp.gf := by
  subst hf
  have own : a.isRstep = false := canStart_own h
  refine transfer_moves (fun _ i => dstOf a i) (fun st i => getLine st (entryAt st (bits a.src 0 22) i 8)) _ h here (by decide) rfl
    (a.total_of_op own (by rw [h.operation]; decide) (by rw [h.operation]; decide)) fun i hi x hx => ?_
  obtain ⟨entry, plain, r, w⟩ := lines_ i hi
  rw [hx.stores]
  exact (Cx.lineStep_gather _ x ch { a with next := i } false own h.operation (canPut_mine _ _ _ _ _ w.1) _
    (hx.listAddr ch _ i entry plain)).trans (hx.moveLine ch _ i _ _ false r w)

theorem scatter_moves (h : CanStart s c ch 3 a rest) (f : Stores → Nat → Stores)
    (hf : f = fun st i => putLine st (entryAt st (bits a.dstA 0 22) i 8) (getLine st (srcOf a i)))
    (lines_ : ∀ i, i < a.count → entryOk s c (bits a.dstA 0 22) i 8 ∧
      entryAt (lines f i (s.core c).stores) (bits a.dstA 0 22) i 8 < 2 ^ 47 ∧
      mineToRead s c (srcOf a i) ∧ mineToWrite s c (entryAt (lines f i (s.core c).stores) (bits a.dstA 0 22) i 8)) :
    Moves (.scatter c ch) s c ch (notified a (lines f a.count (s.core c).stores)) (ended (startedChan (s.core c) ch) a rest)
      (s.core c).dp.gf := by
  subst hf
  have own : a.isRstep = false := canStart_own h
  refine transfer_moves (fun st i => entryAt st (bits a.dstA 0 22) i 8) (fun st i => getLine st (srcOf a i)) _ h here (by decide) rfl
    (a.total_of_op own (by rw [h.operation]; decide) (by rw [h.operation]; decide)) fun i hi x hx => ?_
  obtain ⟨entry, plain, r, w⟩ := lines_ i hi
  rw [hx.stores]
  exact Cx.lineStep_scatter _ x ch { a with next := i } false own h.operation _ (hx.listAddr ch _ i entry plain) _
    (hx.moveLine ch _ i _ _ false r w)

theorem fill_moves (h : CanStart s c ch 5 a rest) (lines_ : ∀ i, i < a.count → mineToWrite s c (dstOf a i)) :
    Moves (.fill c ch) s c ch (notified a (lines (fun st i => putLine st (dstOf a i) 0) a.count (s.core c).stores))
      (ended (startedChan (s.core c) ch) a rest) (s.core c).dp.gf := by
  have own : a.isRstep = false := canStart_own h
  refine transfer_moves (fun _ i => dstOf a i) (fun _ _ => 0) _ h here (by decide) rfl
    (a.total_of_op own (by rw [h.operation]; decide) (by rw [h.operation]; decide)) fun i hi x hx => ?_
  exact (Cx.lineStep_fill _ x ch { a with next := i } false own h.operation).trans (hx.putLine ch _ i _ 0 false (lines_ i hi))

end transfers

/-- Settles O14, operation by operation. -/
theorem localTransferEffects : Obligations.LocalTransferEffects := fun _ _ _ _ _ here =>
  ⟨copy_moves here, fun h => gather_moves here h _ rfl, fun h => scatter_moves here h _ rfl, fill_moves here⟩

end Sys2Proof.Machine
end

section
namespace Sys2Proof.Machine

open Sys2Proof

/-! PROOFS. PAGEWALK through the frame map (O15). -/

theorem pageLines_succ (r : CoreRec) (a : Active) (m n : Nat) (q : Stores × Nat) :
    pageLines r a m (n + 1) q = pageLine r a (pageLines r a m n q) (m + n) := by
  rw [pageLines, List.range'_concat, List.foldl_append, Nat.one_mul]
  rfl

theorem pageLines_clean (r : CoreRec) (a : Active) (m n : Nat) (q : Stores × Nat) (h : q.1.ecc = []) :
    (pageLines r a m n q).1.ecc = [] := by
  induction n with
  | zero => exact h
  | succ n ih => rw [pageLines_succ]; exact putLine_clean _ _ _ ih

/-- The translation of an entry whose page is on the wafer. -/
theorem Cx.Works.translate {s : State} {c : Nat} {st : Stores} {x : Cx} (h : x.Works s c st) (ch : Nat) (a : Active) (j : Nat)
    (page : pageHere s c a st j) : x.translate ch a j = (x, some (pageBase (s.core c) a st j)) := by
  obtain ⟨entry, inMap, ok, sameSs, sameOff, whole, zeros, frame⟩ := page
  have small : entryAt st (bits a.src 0 22) j 4 < 2 ^ 24 := lt_trans inMap (bits_lt _ _ _)
  have number : bits (entryAt st (bits a.src 0 22) j 4) 0 24 = entryAt st (bits a.src 0 22) j 4 := Nat.mod_eq_of_lt small
  have high : entryAt st (bits a.src 0 22) j 4 >>> 24 = 0 := by rw [Nat.shiftRight_eq_div_pow, Nat.div_eq_of_lt small]
  have inside : ¬ (entryAt st (bits a.src 0 22) j 4 >>> 24 ≠ 0 ∨
      entryAt st (bits a.src 0 22) j 4 ≥ bits (s.core c).frameMap.toNat 22 24) := by
    rw [high]
    exact fun p => p.elim (fun e => e rfl) fun e => absurd inMap (Nat.not_lt.2 e)
  have word := h.shRead ch (j * a.sub) _ _ 8 ok
  rw [sameSs, sameOff] at word
  have frame_ : getAt st (bits (bits (s.core c).frameMap.toNat 0 22) 19 3)
      (bits (bits (s.core c).frameMap.toNat 0 22) 0 19 + 8 * entryAt st (bits a.src 0 22) j 4) 8 = frameWord (s.core c) a st j := rfl
  rw [frame_] at word
  rw [Cx.translate, h.listEntry ch (bits a.src 0 22) j (j * a.sub) 4 entry]
  simp only [h.frameMap, h.frameGeom, number, if_neg inside, sameSs, sameOff, word, whole, zeros, Nat.not_le.2 frame, ne_eq,
    not_true_eq_false, decide_false, Bool.false_eq_true, if_false, or_self, ge_iff_le]
  rfl

/-- The active PAGEWALK before its line `i` from `a.next` on. -/
def walkAt (r : CoreRec) (a : Active) (st : Stores) (i : Nat) : Active :=
  { a with
    next := a.next + i
    page := if (a.next + i) % a.sub = 0 then none else some (pageLines r a a.next i (st, 0)).2 }

section steps

variable (v : ShEnv) (x : Cx) (ch : Nat) (a : Active) (mc : Bool) (own : a.isRstep = false) (op : a.op = 4)
  (can : canPut v x a (dstOf a a.next) mc = true)

include own op can

/-- A line of a page whose base is in hand. -/
theorem Cx.lineStep_inPage (base d : Nat) (page : a.page = some base)
    (read : x.shRead ch a.next 0 (base + 32 * (a.next % a.sub)) 32 = (x, some d)) : x.lineStep v ch a mc =
      x.putLine v ch { a with page := if a.next % a.sub + 1 = a.sub then none else some base } a.next (dstOf a a.next) d mc := by
  have goes : ¬ (!canPut v x a (gaStep a.dstA ((a.next : Int) * a.dstride)) mc) = true := by
    rw [show canPut v x a (gaStep a.dstA ((a.next : Int) * a.dstride)) mc = true from can]; decide
  rw [Cx.lineStep, if_neg (by rw [own]; decide), if_neg (by rw [op]; decide), if_neg (by rw [op]; decide),
    if_neg (by rw [op]; decide),
    if_pos op, if_neg goes]
  simp only [page, read]
  rfl

/-- The first line of a page: its entry is translated. -/
theorem Cx.lineStep_newPage (base d : Nat) (page : a.page = none) (translated : x.translate ch a (a.next / a.sub) = (x, some base))
    (read : (x.setAct ch { a with page := some base }).shRead ch a.next 0 base 32 =
      (x.setAct ch { a with page := some base }, some d)) :
    x.lineStep v ch a mc = (x.setAct ch { a with page := some base }).putLine v ch
      { a with page := if 1 = a.sub then none else some base } a.next (dstOf a a.next) d mc := by
  have goes : ¬ (!canPut v x a (gaStep a.dstA ((a.next : Int) * a.dstride)) mc) = true := by
    rw [show canPut v x a (gaStep a.dstA ((a.next : Int) * a.dstride)) mc = true from can]; decide
  rw [Cx.lineStep, if_neg (by rw [own]; decide), if_neg (by rw [op]; decide), if_neg (by rw [op]; decide),
    if_neg (by rw [op]; decide),
    if_pos op, if_neg goes]
  simp only [page, translated]
  rw [show (x.setAct ch { a with page := some base }).shRead ch a.next 0 base 32 = _ from read]
  rfl

end steps

/-- The line after the last one of a page is the first of the next one. -/
theorem succ_mod_eq_zero_iff (m n : Nat) (hn : 0 < n) : (m + 1) % n = 0 ↔ m % n + 1 = n := by
  rw [← Nat.mod_add_mod]
  have small := Nat.mod_lt m hn
  by_cases h : m % n + 1 = n
  · simp [h]
  · rw [Nat.mod_eq_of_lt (by omega)]
    omega

/-- What a line of a PAGEWALK needs: its destination in this core, its source in the beam store, and at the start of a page an
entry that names one. -/
def WalkLine (s : State) (c : Nat) (a : Active) (i : Nat) : Prop :=
  mineToWrite s c (dstOf a (a.next + i)) ∧
    localOk (s.core c) false 0 ((pageLine (s.core c) a (pageLines (s.core c) a a.next i ((s.core c).stores, 0)) (a.next + i)).2 +
      32 * ((a.next + i) % a.sub)) 32 = true ∧
    ((a.next + i) % a.sub = 0 →
      pageHere s c a (pageLines (s.core c) a a.next i ((s.core c).stores, 0)).1 ((a.next + i) / a.sub))

/-- The next line's descriptor: after the last line of a page its base is gone. -/
theorem walkAt_succ (r : CoreRec) (a : Active) (st : Stores) (i : Nat) (hsub : 0 < a.sub) :
    { walkAt r a st i with
      next := a.next + i + 1
      page := if (a.next + i) % a.sub + 1 = a.sub then none
        else some (pageLine r a (pageLines r a a.next i (st, 0)) (a.next + i)).2 } = walkAt r a st (i + 1) := by
  have page : (if (a.next + i) % a.sub + 1 = a.sub then none
      else some (pageLine r a (pageLines r a a.next i (st, 0)) (a.next + i)).2) = (walkAt r a st (i + 1)).page := by
    rw [walkAt, pageLines_succ]
    exact (if_congr (succ_mod_eq_zero_iff (a.next + i) a.sub hsub) rfl rfl).symm
  rw [page]
  rfl

section walk

variable {s : State} {c ch : Nat} {a : Active} {i : Nat} (own : a.isRstep = false) (op : a.op = 4) (hs : ShuttleAt s c ch)
  (hsub : 0 < a.sub) (line : WalkLine s c a i)

/-- The stores and the page base before line `i`. -/
abbrev walked (s : State) (c : Nat) (a : Active) (i : Nat) : Stores × Nat :=
  pageLines (s.core c) a a.next i ((s.core c).stores, 0)

/-- The page base of line `i`. -/
abbrev walkBase (s : State) (c : Nat) (a : Active) (i : Nat) : Nat := (pageLine (s.core c) a (walked s c a i) (a.next + i)).2

include hs hsub line

/-- The line read at a channel that has the page's base is put, and the channel goes on. -/
theorem walk_put (k : Chan) (gf : BitVec 24) (x : Cx) (hx : x.At ((s.cx c).atLine (walked s c a i).1 gf) ch k) :
    ∃ x' : Cx, x.putLine (s.shEnv c) ch
        { walkAt (s.core c) a (s.core c).stores i with
          page := if (a.next + i) % a.sub + 1 = a.sub then none else some (walkBase s c a i) }
        (a.next + i) (dstOf a (a.next + i)) (getAt (walked s c a i).1 0 (walkBase s c a i + 32 * ((a.next + i) % a.sub)) 32) false =
        (x', .done) ∧
      x'.At ((s.cx c).atLine (walked s c a (i + 1)).1 gf) ch
        { k with active := some (walkAt (s.core c) a (s.core c).stores (i + 1)), state := .active } := by
  have works := hx.works (pageLines_clean (s.core c) a a.next i ((s.core c).stores, 0) hs.noErrors) hs.countersOff
  refine ⟨_, works.putLine ch _ _ _ _ false line.1, ?_⟩
  have stores : (walked s c a (i + 1)).1 = putLine (walked s c a i).1 (dstOf a (a.next + i))
      (getAt (walked s c a i).1 0 (walkBase s c a i + 32 * ((a.next + i) % a.sub)) 32) := by
    rw [walked, pageLines_succ]
    rfl
  rw [stores, ← walkAt_succ (s.core c) a (s.core c).stores i hsub]
  exact (hx.write _ _ _ _).setAct _

include own op

theorem walk_lineGoes (k : Chan) (gf : BitVec 24) : LineGoes (s.shEnv c) ch k
    (fun i => (s.cx c).atLine (walked s c a i).1 gf) (walkAt (s.core c) a (s.core c).stores) i := by
  intro x hx
  have works := hx.works (pageLines_clean (s.core c) a a.next i ((s.core c).stores, 0) hs.noErrors) hs.countersOff
  have can := canPut_mine (s.shEnv c) x (walkAt (s.core c) a (s.core c).stores i) (dstOf a (a.next + i)) false line.1.1
  by_cases first : (a.next + i) % a.sub = 0
  · have base : walkBase s c a i = pageBase (s.core c) a (walked s c a i).1 ((a.next + i) / a.sub) := if_pos first
    have none_ : (walkAt (s.core c) a (s.core c).stores i).page = none := if_pos first
    have translated := works.translate ch (walkAt (s.core c) a (s.core c).stores i) _ (line.2.2 first)
    have translated' : x.translate ch (walkAt (s.core c) a (s.core c).stores i) ((a.next + i) / a.sub) =
      (x, some (walkBase s c a i)) := by
      rw [base]; exact translated
    have hx' := hx.setAct { walkAt (s.core c) a (s.core c).stores i with page := some (walkBase s c a i) }
    have works' := hx'.works (pageLines_clean (s.core c) a a.next i ((s.core c).stores, 0) hs.noErrors) hs.countersOff
    have ok : localOk (s.core c) false 0 (walkBase s c a i) 32 = true := by
      have := line.2.1
      rwa [first] at this
    have step := Cx.lineStep_newPage (s.shEnv c) x ch (walkAt (s.core c) a (s.core c).stores i) false own op can _ _ none_ translated'
      (works'.shRead ch _ 0 _ 32 ok)
    obtain ⟨x', put, at'⟩ := walk_put hs hsub line _ gf _ hx'
    rw [first] at put
    exact ⟨x', step.trans put, at'⟩
  · have base : walkBase s c a i = (walked s c a i).2 := if_neg first
    have some_ : (walkAt (s.core c) a (s.core c).stores i).page = some (walkBase s c a i) := by rw [base]; exact if_neg first
    have step := Cx.lineStep_inPage (s.shEnv c) x ch (walkAt (s.core c) a (s.core c).stores i) false own op can _ _ some_
      (works.shRead ch _ 0 _ 32 line.2.1)
    obtain ⟨x', put, at'⟩ := walk_put hs hsub line _ gf _ hx
    exact ⟨x', step.trans put, at'⟩

end walk

/-- A PAGEWALK from the start of a page on, to its last line. -/
theorem walk_moves {s : State} {c ch : Nat} {a : Active} {x : Cx} {k : Chan} (cmd : Instr)
    (runs : exec cmd s = .next (s.putCx c (x.run (s.shEnv c) ch)))
    (start : x.At (s.cx c) ch { k with active := some a, state := .active }) (own : a.isRstep = false) (op : a.op = 4)
    (hs : ShuttleAt s c ch) (here : notifiesHere s c a) (page : a.page = none) (atPage : a.next % a.sub = 0)
    (accepted : a.sent = a.acked) (quiet : a.notifying = false) (inside : a.next ≤ a.total)
    (lines_ : ∀ i, i < a.total - a.next → WalkLine s c a i) :
    Moves cmd s c ch (notified a (walked s c a (a.total - a.next)).1) (ended k a k.queue) (s.core c).dp.gf := by
  have total : a.total = a.count * a.sub := by rw [Active.total, if_neg (by rw [own]; decide), if_pos op]
  have first : walkAt (s.core c) a (s.core c).stores 0 = a := by
    rw [walkAt, if_pos (show (a.next + 0) % a.sub = 0 from atPage), ← page]
    rfl
  have fits : a.next + (a.total - a.next) = a.total := Nat.add_sub_cancel' inside
  refine moves_of_lines k (walkAt (s.core c) a (s.core c).stores) (fun i => (walked s c a i).1) (fun _ => (s.core c).dp.gf)
    (a.total - a.next) cmd runs (by rw [first]; exact start) (by rw [first]; exact Nat.sub_le _ _) (fun i hi => ⟨?_, quiet, ?_⟩)
    (pageLines_clean _ _ _ _ _ hs.noErrors) hs.countersOff (fun p => ?_) accepted quiet here
  · have hsub : 0 < a.sub := Nat.pos_of_ne_zero fun z => by rw [total, z] at hi; omega
    exact walk_lineGoes own op hs hsub (lines_ i hi) k _
  · exact Nat.add_lt_of_lt_sub' hi
  · have beyond : a.next + (a.total - a.next) < a.total := p
    omega

/-- Settles O15: a walk from its first line, and one that goes on from the recorded line. -/
theorem pageWalkEffects : Obligations.PageWalkEffects := by
  refine ⟨fun s c ch a rest here h => ?_, fun s c ch a here hs => ?_⟩
  · intro r lines_
    obtain ⟨x, exec, start⟩ := startDesc_runs h (by decide)
    have fresh : a.next = 0 ∧ a.page = none ∧ a.sent = a.acked ∧ a.notifying = false := by rw [h.read]; exact ⟨rfl, rfl, rfl, rfl⟩
    obtain ⟨next, page, accepted, quiet⟩ := fresh
    have moves := walk_moves (.pagewalk c ch) (k := { startedChan (s.core c) ch with queue := rest }) exec start (canStart_own h)
      h.operation h.toShuttleAt here page (by rw [next, Nat.zero_mod]) accepted quiet (by rw [next]; exact Nat.zero_le _)
      fun i hi => by
        rw [WalkLine, next, Nat.zero_add]
        exact lines_ i (by omega)
    rw [walked, next, Nat.sub_zero] at moves
    exact moves
  · intro r n miss act op own quiet page accepted atPage inside lines_
    have resumes : ((s.cx c).r.chan ch).state = .miss ∧ shuttleOn (s.cx c).r = true := ⟨miss, hs.works⟩
    have exec : exec (.chanStatusResume c ch) s = .next (s.putCx c
        (((s.cx c).chanTo ch { r.chan ch with state := .active, mismatch := false }).run (s.shEnv c) ch)) := by
      change execChanStatusResume c ch s = _
      rw [execChanStatusResume, onPart_next s c hs.site hs.chan, State.onCx, Cx.resumeChan, if_pos resumes]
      rfl
    have start := (Cx.At.refl (s.cx c) ch).chanTo { r.chan ch with state := .active, mismatch := false }
    have same : ({ r.chan ch with state := .active, mismatch := false } : Chan) =
        { { r.chan ch with mismatch := false } with active := some a, state := .active } := by rw [← act]
    rw [same] at start exec
    exact walk_moves (.chanStatusResume c ch) (k := { r.chan ch with mismatch := false }) exec start own op hs here page atPage
      accepted quiet (Nat.le_of_lt inside) lines_

end Sys2Proof.Machine
end

section
namespace Sys2Proof.Machine

open Sys2Proof

/-! PROOFS. Reduction steps (O16). -/

/-- One bit of a number set: its power is added where the bit was clear. -/
theorem setBits_one (w i : Nat) : setBits w i 1 1 = if w.testBit i then w else 2 ^ i + w := by
  have bit : bits w i 1 = (w.testBit i).toNat := by rw [bits, Nat.pow_one, Nat.toNat_testBit, Nat.shiftRight_eq_div_pow]
  rw [setBits, bit, Nat.shiftLeft_eq, Nat.shiftLeft_eq]
  cases h : w.testBit i
  · simp [Nat.add_comm]
  · have below := Nat.ge_two_pow_of_testBit h
    simp
    omega

/-- A flag that is set, or is none of the 24, stays as it is when it is set again. -/
theorem gfSet_of_set (gf : BitVec 24) (i : Nat) (h : i < 24 → gf.toNat.testBit i = true) : gfSet gf i true = gf := by
  rw [gfSet, show boolNat true = 1 from rfl, setBits_one]
  apply BitVec.eq_of_toNat_eq
  rw [BitVec.toNat_ofNat]
  by_cases low : i < 24
  · rw [if_pos (h low), Nat.mod_eq_of_lt gf.isLt]
  · have high : 2 ^ 24 ∣ 2 ^ i := Nat.pow_dvd_pow 2 (Nat.not_lt.1 low)
    split
    · exact Nat.mod_eq_of_lt gf.isLt
    · rw [Nat.add_mod, Nat.mod_eq_zero_of_dvd high, Nat.zero_add, Nat.mod_mod, Nat.mod_eq_of_lt gf.isLt]

/-- A flag that is set twice is set. -/
theorem gfSet_twice (gf : BitVec 24) (i : Nat) : gfSet (gfSet gf i true) i true = gfSet gf i true := by
  refine gfSet_of_set _ i fun low => ?_
  rw [gfSet, show boolNat true = 1 from rfl, setBits_one, BitVec.toNat_ofNat, Nat.testBit_mod_two_pow, decide_eq_true low,
    Bool.true_and]
  split
  · assumption
  · rw [Nat.testBit_two_pow_add_eq]
    simp_all

/-- The flags after a line of tree `t` in which a sum saturated, or none did. -/
def flagged (gf : BitVec 24) (t : Nat) (sat : Bool) : BitVec 24 := if sat then gfSet gf (16 + t) true else gf

theorem flagged_or (gf : BitVec 24) (t : Nat) (p q : Bool) : flagged (flagged gf t p) t q = flagged gf t (p || q) := by
  cases p <;> cases q
  · rfl
  · rfl
  · rfl
  · exact gfSet_twice gf _

/-- The core with the flag of a saturated sum. -/
def Cx.flag (x : Cx) (t : Nat) (sat : Bool) : Cx := x.modDp fun dp => { dp with gf := flagged dp.gf t sat }

theorem Cx.flag_or (x : Cx) (t : Nat) (p q : Bool) : (x.flag t p).flag t q = x.flag t (p || q) :=
   congrArg (fun gf => x.setR { x.r with dp := { x.r.dp with gf := gf } }) (flagged_or x.r.dp.gf t p q)

theorem Cx.Works.flag {s : State} {c : Nat} {st : Stores} {x : Cx} (h : x.Works s c st) (t : Nat) (sat : Bool) :
    (x.flag t sat).Works s c st :=
  ⟨⟨h.sound.clean, h.sound.off⟩, h.stores, h.state, h.frameMap, h.frameGeom⟩

/-- The children's address of line `l`, the `k`-th of them. -/
def childAt (a : Active) (l k : Nat) : Nat := bits (a.w 1) 22 22 + 32 * a.lines * k + 32 * l

/-- One child combined into line `l`. -/
def combineChild (a : Active) (st : Stores) (l : Nat) (q : Nat × Bool) (k : Nat) : Nat × Bool :=
  let d := combineLines a.kind q.1 (getAt st (bits (childAt a l k) 19 3) (bits (childAt a l k) 0 19) 32)
  (d.1, q.2 || d.2)

theorem combine_sat (a : Active) (st : Stores) (l : Nat) (ks : List Nat) (q : Nat × Bool) :
    ks.foldl (combineChild a st l) q =
      ((ks.foldl (combineChild a st l) (q.1, false)).1, q.2 || (ks.foldl (combineChild a st l) (q.1, false)).2) := by
  induction ks generalizing q with
  | nil => simp
  | cons k ks ih =>
    rw [List.foldl_cons, List.foldl_cons, ih, ih (combineChild a st l (q.1, false) k)]
    simp [combineChild, Bool.or_assoc]

/-- The children from the `k`-th on, whose lines a shuttle may read, are combined in order. -/
theorem Cx.Works.combineFrom {s : State} {c : Nat} {st : Stores} (ch : Nat) (a : Active) (l n : Nat) :
    ∀ (k acc : Nat) (x : Cx), x.Works s c st →
    (∀ j, k ≤ j → j < k + n → localOk (s.core c) false (bits (childAt a l j) 19 3) (bits (childAt a l j) 0 19) 32 = true) →
    x.combineFrom ch a l k acc n =
      (x.flag a.tree ((List.range' k n).foldl (combineChild a st l) (acc, false)).2,
        some ((List.range' k n).foldl (combineChild a st l) (acc, false)).1) := by
  induction n with
  | zero => exact fun k acc x _ _ => rfl
  | succ n ih =>
    intro k acc x h ok
    have read := h.shRead ch l _ _ 32 (ok k (Nat.le_refl _) (by omega))
    have first : combineChild a st l (acc, false) k =
        combineLines a.kind acc (getAt st (bits (childAt a l k) 19 3) (bits (childAt a l k) 0 19) 32) := by
      rw [combineChild, Bool.false_or]
    rw [List.range'_succ, List.foldl_cons, first, combine_sat]
    generalize hd : combineLines a.kind acc (getAt st (bits (childAt a l k) 19 3) (bits (childAt a l k) 0 19) 32) = d
    have rest := ih (k + 1) d.1 (x.flag a.tree d.2) (h.flag _ _) fun j h1 h2 => ok j (by omega) (by omega)
    rw [Cx.flag_or] at rest
    have go : x.combineFrom ch a l k acc (n + 1) = (x.flag a.tree d.2).combineFrom ch a l (k + 1) d.1 n := by
      have unfolded : x.combineFrom ch a l k acc (n + 1) =
        (if d.2 then x.flag a.tree true else x).combineFrom ch a l (k + 1) d.1 n := by
        rw [← hd, Cx.combineFrom]
        simp only [show x.shRead ch l (bits (bits (a.w 1) 22 22 + 32 * a.lines * k + 32 * l) 19 3)
          (bits (bits (a.w 1) 22 22 + 32 * a.lines * k + 32 * l) 0 19) 32 = _ from read]
        rfl
      rw [unfolded]
      cases d.2 <;> rfl
    rw [go, rest]

/-- A step's line, its own and its children's combined, is put. -/
theorem Cx.lineStep_step (v : ShEnv) (x y : Cx) (ch : Nat) (a : Active) (mc : Bool) (own d : Nat) (step : a.isRstep = true)
    (can : canPut v x a a.dstA mc = true)
    (read : x.shRead ch a.next (bits (bits (a.w 1) 0 22 + 32 * a.next) 19 3) (bits (bits (a.w 1) 0 22 + 32 * a.next) 0 19) 32 =
      (x, some own)) (combined : x.combineFrom ch a a.next 0 own a.nchild = (y, some d)) :
    x.lineStep v ch a mc = y.putLine v ch a a.next (gaStep a.dstA (32 * a.next)) d mc := by
  have goes : ¬ (!canPut v x a a.dstA mc) = true := by rw [can]; decide
  rw [Cx.lineStep, if_pos step, if_neg goes]
  simp only [read, combined]

/-- The own line of a step. -/
def ownLine (a : Active) (st : Stores) (i : Nat) : Nat :=
  getAt st (bits (bits (a.w 1) 0 22 + 32 * i) 19 3) (bits (bits (a.w 1) 0 22 + 32 * i) 0 19) 32

theorem stepLine_eq (a : Active) (st : Stores) (i : Nat) : stepLine a st i = (List.range' 0 a.nchild).foldl (combineChild a st i)
    (ownLine a st i, false) := by
  rw [stepLine, List.range_eq_range']
  rfl

/-- What a line of a step needs: its destination in this core, and its own and its children's lines where a shuttle may read. -/
def StepLine (s : State) (c : Nat) (a : Active) (i : Nat) : Prop :=
  mineToWrite s c (gaStep a.dstA (32 * i)) ∧
    localOk (s.core c) false (bits (bits (a.w 1) 0 22 + 32 * i) 19 3) (bits (bits (a.w 1) 0 22 + 32 * i) 0 19) 32 = true ∧
    ∀ k, k < a.nchild → localOk (s.core c) false (bits (childAt a i k) 19 3) (bits (childAt a i k) 0 19) 32 = true

/-- The stores after a step's first `n` lines, and the flags. -/
def stepped (a : Active) (n : Nat) (st : Stores) : Stores :=
  lines (fun st (i : Nat) => putLine st (gaStep a.dstA (32 * i)) (stepLine a st i).1) n st

def steppedFlags (a : Active) (n : Nat) (st : Stores) (gf : BitVec 24) : BitVec 24 :=
  flagged gf a.tree ((List.range n).any fun i => (stepLine a (stepped a i st) i).2)

theorem stepped_succ (a : Active) (n : Nat) (st : Stores) :
    stepped a (n + 1) st = putLine (stepped a n st) (gaStep a.dstA (32 * n)) (stepLine a (stepped a n st) n).1 := lines_succ _ _ _

theorem stepped_clean (a : Active) (n : Nat) (st : Stores) (h : st.ecc = []) : (stepped a n st).ecc = [] :=
  lines_clean _ (fun _ _ => putLine_clean _ _ _) n st h

theorem steppedFlags_succ (a : Active) (n : Nat) (st : Stores) (gf : BitVec 24) :
    steppedFlags a (n + 1) st gf = flagged (steppedFlags a n st gf) a.tree (stepLine a (stepped a n st) n).2 := by
  rw [steppedFlags, steppedFlags, flagged_or, List.range_succ, List.any_append, List.any_cons, List.any_nil, Bool.or_false]

/-- A line of a step goes on. -/
theorem step_lineGoes {s : State} {c ch : Nat} {k : Chan} {a : Active} {i : Nat} (step : a.isRstep = true) (hs : ShuttleAt s c ch)
    (mine : isMine (s.shEnv c) a.dstA = true) (line : StepLine s c a i) :
    LineGoes (s.shEnv c) ch k
      (fun i => (s.cx c).atLine (stepped a i (s.core c).stores) (steppedFlags a i (s.core c).stores (s.core c).dp.gf))
      (fun i => { a with next := i }) i := by
  obtain ⟨w, ok, children⟩ := line
  intro x hx
  have works := hx.works (stepped_clean a i _ hs.noErrors) hs.countersOff
  have combined := Cx.Works.combineFrom ch { a with next := i } i a.nchild 0
    (ownLine a (stepped a i (s.core c).stores) i) x works
    fun j _ h => children j (by omega)
  have line_ : (List.range' 0 a.nchild).foldl (combineChild { a with next := i } (stepped a i (s.core c).stores) i)
      (ownLine a (stepped a i (s.core c).stores) i, false) = stepLine a (stepped a i (s.core c).stores) i := (stepLine_eq a _ i).symm
  rw [line_] at combined
  have go := Cx.lineStep_step (s.shEnv c) x _ ch { a with next := i } false _ _ step (canPut_mine _ _ _ _ _ mine)
    (works.shRead ch i _ _ 32 ok) combined
  have flags := hx.mod (fun r => { r with dp := { r.dp with
    gf := flagged r.dp.gf a.tree (stepLine a (stepped a i (s.core c).stores) i).2 } }) (fun _ _ => rfl) fun _ => rfl
  refine ⟨_, go.trans ((works.flag _ _).putLine ch _ i _ _ false w), ?_⟩
  simp only [steppedFlags_succ, stepped_succ]
  exact (flags.write _ _ _ _).setAct _

/-- The front step of an idle channel starts. -/
theorem Cx.startStep_front (v : ShEnv) (x : Cx) (ch t : Nat) (w : BitVec 512) (rest : List QEntry)
    (idle : (x.r.chan ch).state = .idle)
    (nothing : (x.r.chan ch).active = none) (front : (x.r.chan ch).queue = .rstep t w :: rest) (works : shuttleOn x.r = true)
    (good : (newActive w 0 true t).badTree = false) : x.startStep v ch =
      ((x.chanTo ch { x.r.chan ch with queue := rest, state := .active, entry := 0, mismatch := false }).setAct ch
        (newActive w 0 true t)).run v ch := by
  have on : ¬ (!shuttleOn x.r) = true := by rw [works]; decide
  have sound : ¬ (newActive w 0 true t).badTree = true := by rw [good]; decide
  rw [Cx.startStep]
  generalize x.r.chan ch = k at idle nothing front
  obtain ⟨state, queue, active, mismatch, entry, discarded, yields⟩ := k
  subst idle nothing front
  exact (if_neg on).trans (if_neg sound)

/-- Settles O16. -/
theorem reductionStepEffects : Obligations.ReductionStepEffects := by
  intro s c ch tree w rest hs r a idle nothing front good here mine lines_ f
  have exec : exec (.reductionStep c ch) s = .next (s.putCx c (((startedCx s c ch rest).setAct ch a).run (s.shEnv c) ch)) := by
    change execReductionStep c ch s = _
    rw [execReductionStep, onPart_next s c hs.site hs.chan, State.onCx,
      Cx.startStep_front _ _ ch tree w rest idle nothing front hs.works good]
    rfl
  exact moves_of_lines { startedChan (s.core c) ch with queue := rest } (fun i => { a with next := i })
    (fun i => stepped a i r.stores) (fun i => steppedFlags a i r.stores r.dp.gf) a.lines (.reductionStep c ch) exec
    ((startedCx_at s c ch rest).setAct a) (Nat.le_refl _)
    (fun i hi => ⟨step_lineGoes rfl hs mine (lines_ i hi), rfl, hi⟩) (stepped_clean a _ _ hs.noErrors) hs.countersOff
    (Nat.lt_irrefl _) rfl rfl here

end Sys2Proof.Machine
end

section
namespace Sys2Proof.Machine

open Sys2Proof

/-! PROOFS. Lines to another core, credited lines and grants (O17). -/

/-- Work on a core that sends flits and nothing else. -/
theorem State.putCx_sends (s : State) (c : Nat) (x : Cx) (fs : List Flit) (hm : x.msgs = []) (ho : x.out = fs)
    (hf : x.free = s.free) :
    s.putCx c x = { s.setCore c x.r with net := s.net ++ fs.map fun f => ⟨f, .router (coreX c) (coreY c) 0⟩ } := by
  rw [State.putCx, hm, ho, hf, List.map_nil, List.append_nil]
  rfl

/-! ## Lines without credit -/

/-- The WRITE flit of line `i`. -/
def lineFlit (r : CoreRec) (ch : Nat) (a : Active) (i : Nat) : Flit :=
  writeFlit ch (dstOf a i) 32 (getLine r.stores (srcOf a i)) (decide (i + 1 = a.count)) false 0

/-- The core that has sent the first `n` lines. -/
def Cx.sent (x : Cx) (ch : Nat) (a : Active) (n : Nat) : Cx := { x with out := x.out ++ (List.range n).map (lineFlit x.r ch a) }

theorem Cx.sent_zero (x : Cx) (ch : Nat) (a : Active) : x.sent ch a 0 = x := by
  rw [Cx.sent, List.range_zero, List.map_nil, List.append_nil]

theorem Cx.sent_succ (x : Cx) (ch : Nat) (a : Active) (n : Nat) :
    x.sent ch a (n + 1) = (x.sent ch a n).send (lineFlit x.r ch a n) := by
  rw [Cx.sent, List.range_succ, List.map_append, ← List.append_assoc]
  rfl

/-- A line to another core is sent, and the channel goes on. -/
theorem remote_lineGoes {s : State} {c ch : Nat} {k : Chan} {a : Active} {i : Nat} (own : a.isRstep = false) (op : a.op = 1)
    (free : a.credited = false) (hs : ShuttleAt s c ch) (source : mineToRead s c (srcOf a i))
    (away : isMine (s.shEnv c) (dstOf a i) = false) :
    LineGoes (s.shEnv c) ch k (fun i => (s.cx c).sent ch a i) (fun i => { a with next := i, sent := i }) i := by
  intro x hx
  have total : a.total = a.count := a.total_of_op own (by rw [op]; decide) (by rw [op]; decide)
  have works : x.Works s c (s.core c).stores :=
    ⟨hx.sound ⟨hs.noErrors, hs.countersOff⟩, hx.stores, hx.st, by rw [hx.core]; rfl, by rw [hx.core]; rfl⟩
  have moved := works.moveLine_of_can ch { a with next := i, sent := i } i _ (dstOf a i) false source (canPut_free _ _ _ _ _ free)
  have put := Cx.putLine_remote (s.shEnv c) x ch { a with next := i, sent := i } i (dstOf a i)
    (getLine (s.core c).stores (srcOf a i))
    false works.sound away free
  refine ⟨_, ((Cx.lineStep_copy (s.shEnv c) x ch { a with next := i, sent := i } false own op).trans moved).trans put, ?_⟩
  have flit : writeFlit ch (dstOf a i) 32 (getLine (s.core c).stores (srcOf a i))
      (decide (i + 1 = ({ a with next := i, sent := i } : Active).total)) false 0 = lineFlit (s.cx c).r ch a i := by
    rw [show ({ a with next := i, sent := i } : Active).total = a.count from total]
    rfl
  simp only [flit, Cx.sent_succ]
  exact (hx.send _).setAct _

theorem Active.with_counts (a : Active) {n m : Nat} (next : a.next = n) (sent : a.sent = m) :
    ({ a with next := n, sent := m } : Active) = a := by
  subst next sent
  rfl

theorem Active.count_ne_zero (a : Active) (h : a.malformed = false) : a.count ≠ 0 := fun z => by
  have bad : a.malformed = true := by simp [Active.malformed, z]
  rw [h] at bad
  exact absurd bad (by decide)

/-- A COPY of lines to other cores without credit sends them all, and waits for their acknowledgement. -/
theorem remoteCopy {s : State} {c ch : Nat} {a : Active} {rest : List QEntry} (h : CanStart s c ch 1 a rest)
    (free : a.credited = false)
    (lines_ : ∀ i, i < a.count → mineToRead s c (srcOf a i) ∧ isMine (s.shEnv c) (dstOf a i) = false) :
    ∃ x : Cx, exec (.copy c ch) s = .next (s.putCx c x) ∧ x.At ((s.cx c).sent ch a a.count) ch
      { startedChan (s.core c) ch with
        queue := rest, active := some { a with next := a.count, sent := a.count }, state := .active } := by
  obtain ⟨x, exec, start⟩ := startDesc_runs h (by decide)
  have own : a.isRstep = false := canStart_own h
  have total : a.total = a.count := a.total_of_op own (by rw [h.operation]; decide) (by rw [h.operation]; decide)
  have fresh : a.next = 0 ∧ a.sent = 0 ∧ a.acked = 0 ∧ a.notifying = false := by rw [h.read]; exact ⟨rfl, rfl, rfl, rfl⟩
  obtain ⟨next, sent, acked, quiet⟩ := fresh
  have first : ({ a with next := 0, sent := 0 } : Active) = a := a.with_counts next sent
  obtain ⟨x', at', run⟩ := Cx.run_to_last (s.shEnv c) ch { startedChan (s.core c) ch with queue := rest } _ _ a.count
    (fun i hi => ⟨remote_lineGoes own h.operation free h.toShuttleAt (lines_ i hi).1 (lines_ i hi).2, quiet, total.symm ▸ hi⟩)
    (Nat.le_of_eq total.symm) x (by rw [Cx.sent_zero, first]; exact start) (fun p => Nat.lt_irrefl _ (total ▸ p)) quiet
  refine ⟨x', ?_, at'⟩
  change execStart 1 c ch s = _
  rw [exec, run, if_neg fun e => a.count_ne_zero h.formed (e.trans acked)]

/-! ## Credited lines (R167) -/

/-- The credit counter of an id is less by a line. -/
def CoreRec.drawCredit (id : Nat) (r : CoreRec) : CoreRec :=
  { r with credits := Tab.put 0 r.credits id (Tab.get 0 r.credits id - 1) }

def Cx.drawCredit (x : Cx) (id : Nat) : Cx := x.mod (CoreRec.drawCredit id)

/-- The WRITE flit of a credited line. -/
def creditedFlit (r : CoreRec) (ch : Nat) (a : Active) : Flit :=
  writeFlit ch (dstOf a a.next) 32 (getLine r.stores (srcOf a a.next)) (decide (a.next + 1 = a.total)) true a.creditId

/-- The core that has sent the channel's next line on its credit. -/
def Cx.creditedSent (x : Cx) (ch : Nat) (a : Active) : Cx :=
  ((x.drawCredit a.creditId).send (creditedFlit x.r ch a)).setAct ch { a with next := a.next + 1, sent := a.sent + 1 }

theorem Cx.creditedSent_at (x : Cx) (ch : Nat) (a : Active) :
    (x.creditedSent ch a).At ((x.drawCredit a.creditId).send (creditedFlit x.r ch a)) ch
      { x.r.chan ch with active := some { a with next := a.next + 1, sent := a.sent + 1 }, state := .active } :=
  (((Cx.At.refl x ch).mod (CoreRec.drawCredit a.creditId) (fun _ _ => rfl) fun _ => rfl).send (creditedFlit x.r ch a)).setAct _

/-- A credited line to another core, with its credit in hand. -/
theorem Cx.putLine_credited (v : ShEnv) (x : Cx) (ch : Nat) (a : Active) (i dst d : Nat) (off : x.r.perf = [])
    (away : isMine v dst = false) (paid : a.credited = true) (credit : 0 < Tab.get 0 x.r.credits a.creditId) :
    x.putLine v ch a i dst d true = (((x.drawCredit a.creditId).send
      (writeFlit ch dst 32 d (decide (i + 1 = a.total)) true a.creditId)).setAct ch { a with next := i + 1, sent := a.sent + 1 },
      .done) := by
  have quiet (f : Flit) (ev : Nat) : ((x.drawCredit a.creditId).send f).perfEvent ev = (x.drawCredit a.creditId).send f :=
    Cx.perfEvent_off _ _ off
  have quiet' (f : Flit) :
      (((x.drawCredit a.creditId).send f).perfEvent 0x0E).perfEvent 0x11 = (x.drawCredit a.creditId).send f := by
    rw [quiet, quiet]
  have mine : ¬ isMine v dst = true := by rw [away]; decide
  have can : (true && decide (Tab.get 0 x.r.credits a.creditId > 0)) = true := by rw [decide_eq_true credit]; rfl
  rw [Cx.putLine, if_neg mine]
  simp only [paid, can, if_true]
  exact congrArg (fun y : Cx => (y.setAct ch { a with next := i + 1, sent := a.sent + 1 }, LineSt.done)) (quiet' _)

/-- A credited line that cannot be put holds the pump. -/
theorem Cx.pump_wait (v : ShEnv) (ch n : Nat) (x : Cx) (a : Active) (act : (x.r.chan ch).active = some a)
    (active : (x.r.chan ch).state = .active) (lines : a.notifying = false) (more : a.next < a.total)
    (step : x.lineStep v ch a false = (x, .wait)) : Cx.pump v ch (n + 1) x = x := by
  have go : ¬ ((x.r.chan ch).state ≠ .active ∨ a.notifying = true) := by rw [active, lines]; decide
  simp only [Cx.pump, Cx.act?, act, if_neg go, if_pos more, step]

/-- A line from a store of this core whose credit only CREDITED_LINE_SEND may draw waits. -/
theorem Cx.moveLine_uncredited (v : ShEnv) (x : Cx) (ch : Nat) (a : Active) (i src dst : Nat) (mine : isMine v src = true)
    (away : isMine v dst = false) (paid : a.credited = true) : x.moveLine v ch a i src dst false = (x, .wait) := by
  have cannot : canPut v x a dst false = false := by rw [canPut, away, paid]; rfl
  simp only [Cx.moveLine, mine, if_true, cannot, Bool.not_false]

section credited

variable {s : State} {c ch : Nat} {a : Active} (hs : ShuttleAt s c ch) (own : a.isRstep = false) (op : a.op = 1)
  (paid : a.credited = true) (quiet : a.notifying = false)
  (lines_ : ∀ i, i < a.total → mineToRead s c (srcOf a i) ∧ isMine (s.shEnv c) (dstOf a i) = false)

include own op paid quiet lines_

/-- After a credited line the channel waits: for the next one's credit, or for an acknowledgement. -/
theorem credited_waits (x : Cx) (act : (x.r.chan ch).active = some { a with next := a.next + 1, sent := a.sent + 1 })
    (active : (x.r.chan ch).state = .active) (unacked : a.acked ≤ a.sent) : x.run (s.shEnv c) ch = x := by
  have run : x.run (s.shEnv c) ch = Cx.pump (s.shEnv c) ch (a.total + 1 + 1) x := by
    simp only [Cx.run, Cx.act?, act]
    rfl
  rw [run]
  by_cases more : a.next + 1 < a.total
  · obtain ⟨source, away⟩ := lines_ (a.next + 1) more
    exact Cx.pump_wait _ ch _ x _ act active quiet more
      ((Cx.lineStep_copy _ x ch { a with next := a.next + 1, sent := a.sent + 1 } false own op).trans
        (Cx.moveLine_uncredited _ x ch _ _ _ _ source.1 away paid))
  · rw [Cx.pump_end _ ch _ x _ act active quiet more]
    exact if_neg fun e : a.sent + 1 = a.acked => by omega

include hs

/-- CREDITED_LINE_SEND sends the next line and draws on its credit. -/
theorem creditedLine (active : ((s.core c).chan ch).state = .active) (act : ((s.core c).chan ch).active = some a)
    (more : a.next < a.total) (unacked : a.acked ≤ a.sent) (credit : 0 < Tab.get 0 (s.core c).credits a.creditId) :
    exec (.creditedLineSend c ch) s = .next (s.putCx c ((s.cx c).creditedSent ch a)) := by
  obtain ⟨source, away⟩ := lines_ a.next more
  have works : (s.cx c).Works s c (s.core c).stores := ⟨⟨hs.noErrors, hs.countersOff⟩, rfl, rfl, rfl, rfl⟩
  have can : canPut (s.shEnv c) (s.cx c) a (dstOf a a.next) true = true := by
    rw [canPut, decide_eq_true (show Tab.get 0 (s.cx c).r.credits a.creditId > 0 from credit), Bool.and_self, Bool.or_true]
  have step := ((Cx.lineStep_copy (s.shEnv c) (s.cx c) ch a true own op).trans
    (works.moveLine_of_can ch a a.next _ _ true source can)).trans
    (Cx.putLine_credited _ _ ch a a.next _ _ hs.countersOff away paid credit)
  have at_ := (s.cx c).creditedSent_at ch a
  have waits := credited_waits own op paid quiet lines_ ((s.cx c).creditedSent ch a) (by rw [at_.here]) (by rw [at_.here]) unacked
  have go : (((s.cx c).r.chan ch).state = .active ∧ a.credited = true ∧ a.notifying = false ∧ a.next < a.total ∧
      shuttleOn (s.cx c).r = true) := ⟨active, paid, quiet, more, hs.works⟩
  change execCreditedLineSend c ch s = _
  rw [execCreditedLineSend, onPart_next s c hs.site hs.chan, State.onCx]
  rw [show (s.cx c).act? ch = some a from act]
  refine congrArg Host.Outcome.next (congrArg (s.putCx c) ((if_pos go).trans ?_))
  rw [step]
  exact waits

end credited

/-! ## Grants (R166) -/

/-- The record of a GRANT opened at the core. -/
def CoreRec.openGrant (a : Active) (r : CoreRec) : CoreRec :=
  { r with grants := r.grants ++ [grantRec a], exhausted := r.exhausted.filter fun e => !sameGrant a e }

/-- The core that has opened the grant record and sent the flit of `a`. -/
def Cx.granted (x : Cx) (ch : Nat) (a : Active) : Cx := (x.mod (CoreRec.openGrant a)).send (grantFlitOf a ch)

/-- A GRANT whose writer and id have no record opens one, sends its flit, notifies and ends. -/
theorem Cx.At.grantGo {s : State} {c ch : Nat} {x : Cx} {k : Chan} (h : x.At (s.cx c) ch k) (hs : ShuttleAt s c ch) (a : Active)
    (here : notifiesHere s c a) (fresh : (s.core c).grants.any (sameGrant a) = false) (room : (s.core c).grants.length < 64) :
    (x.grantGo (s.shEnv c) ch a).At (((s.cx c).granted ch a).withStores (notified a (s.core c).stores)) ch (ended k a k.queue) := by
  have grants : x.r.grants = (s.core c).grants := by rw [h.core]; rfl
  have opens : ¬ (x.r.grants.any (sameGrant a) = true ∨ x.r.grants.length ≥ 64) := by
    rw [grants, fresh]
    exact fun p => p.elim (fun e => absurd e (by decide)) fun e => absurd room (Nat.not_lt.2 e)
  have off : (x.granted ch a).r.perf = [] := h.perf.trans hs.countersOff
  have go : x.grantGo (s.shEnv c) ch a = (x.granted ch a).linesDone (s.shEnv c) ch { a with waitsRecord := false } := by
    refine (if_neg opens).trans ?_
    exact congrArg (fun y : Cx => y.linesDone (s.shEnv c) ch { a with waitsRecord := false }) (Cx.perfEvent_off _ 0x0E off)
  rw [go]
  have at' : (x.granted ch a).At ((s.cx c).granted ch a) ch k := (h.mod (CoreRec.openGrant a) (fun _ _ => rfl) fun _ => rfl).send _
  exact at'.linesDone ⟨hs.noErrors, hs.countersOff⟩ (s.shEnv c) { a with waitsRecord := false } here

/-- What a command whose work has granted leaves. -/
theorem grants_of_at {s : State} {c ch : Nat} {a : Active} {k : Chan} {x : Cx} (cmd : Instr)
    (runs : exec cmd s = .next (s.putCx c x))
    (h : x.At (((s.cx c).granted ch a).withStores (notified a (s.core c).stores)) ch k) : Grants cmd s c ch a k := by
  refine ⟨_, runs, ?_, ?_, ?_, fun j hj => ?_⟩
  · rw [State.putCx_core, State.putCx_sends s c x [grantFlitOf a ch] h.msgs h.out h.free]
    rfl
  · rw [State.putCx_core, h.core]
    rfl
  · rw [State.putCx_core, h.here]
  · rw [State.putCx_core, h.others j hj]
    rfl

/-- Settles O17: lines without credit, a credited line, a GRANT at its start, and one whose record has become free. -/
theorem remoteTransferEffects : Obligations.RemoteTransferEffects := by
  refine ⟨fun s c ch a rest h free => ?_, fun s c ch a hs => ?_, fun s c ch a rest h here => ?_, fun s c ch a hs here => ?_⟩
  · intro r lines_
    obtain ⟨x, exec, at_⟩ := remoteCopy h free lines_
    refine ⟨_, exec, ?_, ?_, ?_, fun j hj => ?_⟩
    · rw [State.putCx_core, State.putCx_sends s c x ((List.range a.count).map (lineFlit r ch a)) at_.msgs at_.out at_.free,
        List.map_map]
      rfl
    · rw [State.putCx_core]
      exact at_.core
    · rw [State.putCx_core, at_.here]
    · rw [State.putCx_core, at_.others j hj]
      rfl
  · intro r active act own op paid quiet more unacked credit lines_
    have exec := creditedLine hs own op paid quiet lines_ active act more unacked credit
    have at_ := (s.cx c).creditedSent_at ch a
    refine ⟨_, exec, ?_, ?_, ?_, fun j hj => ?_⟩
    · rw [State.putCx_core]
      exact State.putCx_sends s c _ [creditedFlit r ch a] at_.msgs at_.out at_.free
    · rw [State.putCx_core]
      exact at_.core
    · rw [State.putCx_core]
      refine at_.here.trans ?_
      rw [← active]
      rfl
    · rw [State.putCx_core]
      exact at_.others j hj
  · intro store few ok fresh room
    have inside : (bits a.src 19 3 = 1 ∨ bits a.src 19 3 = 2) ∧ a.count ≤ 1536 ∧
        localOk (startedCx s c ch rest).r false (bits a.src 19 3) (bits a.src 0 19) (32 * a.count) = true := ⟨store, few, ok⟩
    have exec : exec (.grant c ch) s = .next (s.putCx c ((startedCx s c ch rest).grantGo (s.shEnv c) ch a)) := by
      change execStart 6 c ch s = _
      rw [execStart, onPart_next s c h.site h.chan, State.onCx, startDesc_eq h, if_pos rfl, if_pos inside]
    exact grants_of_at _ exec ((startedCx_at s c ch rest).grantGo h.toShuttleAt a here fresh room)
  · intro act waits fresh room
    have go : (a.waitsRecord && shuttleOn (s.cx c).r) = true := by
      rw [waits, show shuttleOn (s.cx c).r = true from hs.works]
      rfl
    have exec : exec (.grantRecordFree c ch) s = .next (s.putCx c ((s.cx c).grantGo (s.shEnv c) ch a)) := by
      change execGrantRecordFree c ch s = _
      rw [execGrantRecordFree, onPart_next s c hs.site hs.chan, State.onCx, show (s.cx c).act? ch = some a from act]
      exact congrArg _ (congrArg (s.putCx c) (if_pos go))
    exact grants_of_at _ exec ((Cx.At.refl (s.cx c) ch).grantGo hs a here fresh room)

end Sys2Proof.Machine
end

section
namespace Sys2Proof.Machine

open Sys2Proof

/-! PROOFS. A flit that has arrived, and WRITE, WRITE_WORD and READ at a core (O27). -/

/-! ## Arrival -/

/-- Where a flit arrives it has passed the router that injects it. -/
theorem stamped_of_arrivedAt (f : Flit) (l : Loc) (h : arrivedAt f l = true) : stamped l = true := by
  cases l with
  | core x y => rfl
  | ring n => rfl
  | _ => exact absurd h (by simp [arrivedAt])

/-- A flit that stands in front where it arrives is taken. -/
theorem arrive_atDoor {s : State} {f : Flit} {rest : List NetFlit} (h : AtDoor s f rest) :
    s.arrive f = some { s with net := rest } := by
  obtain ⟨here, l, net, door⟩ := h
  have found : (stamped l && sameUnit f.dst f.dst && decide (f.vc = f.vc) && decide (f.src = f.src)) = true := by
    rw [stamped_of_arrivedAt f l door]
    simp [sameUnit]
  have first : s.net.find? (fun e => stamped e.loc && sameUnit e.flit.dst f.dst && decide (e.flit.vc = f.vc) &&
      decide (e.flit.src = f.src)) = some ⟨f, l⟩ := by
    rw [net]
    exact List.find?_cons_of_pos found
  rw [State.arrive, if_neg (not_not.2 here), first, net]
  simp only [door, and_self, if_true, dropFirst, swapFirst, List.nil_append]

/-- A flit for a core acts when it has arrived. -/
theorem arriving_atDoor {s : State} {f : Flit} {rest : List NetFlit} (h : AtDoor s f rest) (core : gaY f.dst < 576)
    (g : State → State) :
    s.arriving f g = g { s with net := rest } := by
  have outside : isCreel f.dst = false := by rw [isCreel, decide_eq_false (Nat.not_le.2 core), Bool.false_and]
  rw [State.arriving, arrive_atDoor h]
  simp only [State.bankHeld, outside, Bool.false_and, Bool.false_eq_true, if_false]

/-- A live core takes what arrives. -/
theorem coreTakes_alive (s : State) (c : Nat) (g : State → State) (alive : (s.core c).st ≠ .dead ∧ (s.core c).st ≠ .off) :
    s.coreTakes c g = g s := if_neg fun p => p.elim alive.1 alive.2

section atCore

variable {s : State} {f : Flit} {rest : List NetFlit} (h : AtCore s f rest)

/-- The core at work on a flit that it has taken. -/
def doorCx (s : State) (f : Flit) : Cx := s.cx (coreAt f)

include h in
theorem doorCx_sound : (doorCx s f).Sound := ⟨h.noErrors, h.countersOff⟩

/-- What a core's work on an arrived flit leaves, where it sends no message. -/
theorem received_of_work {cmd : Instr} {x : Cx} (out : List Flit)
    (runs : exec cmd s = .next (State.putCx { s with net := rest } (coreAt f) x)) (hm : x.msgs = []) (ho : x.out = out)
    (hf : x.free = s.free) :
    Received cmd s f rest x.r out := by
  rw [Received, runs, State.putCx_sends _ _ x out hm ho (by exact hf)]
  rfl

end atCore

/-! ## Lines accepted (R164) -/

/-- The first line of a source and channel is counted; a last one is acknowledged. -/
theorem Cx.accepted_first (x : Cx) (f : Flit) (now : Nat) (h : x.r.rx = []) (off : x.r.perf = []) :
    (x.accepted f now).r = { x.r with rx := firstCount f now } ∧ (x.accepted f now).out = x.out ++ firstAck f ∧
      (x.accepted f now).msgs = x.msgs ∧ (x.accepted f now).free = x.free := by
  cases last : f.last
  · have count : countRx x.r.rx f now = ([⟨f.srcEngine, f.srcY, f.srcX, f.ch, 1, now⟩], none) := by
      simp [countRx, h, last]
    simp only [Cx.accepted, count, firstCount, firstAck, last, Bool.false_eq_true, if_false, List.append_nil]
    exact ⟨rfl, rfl, rfl, rfl⟩
  · have count : countRx x.r.rx f now = ([], some 1) := by simp [countRx, h, last]
    have quiet (fl : Flit) : (((x.mod fun r => { r with rx := [] }).send fl).perfEvent 0x0E) =
      (x.mod fun r => { r with rx := [] }).send fl :=
      Cx.perfEvent_off _ _ off
    simp only [Cx.accepted, count, quiet, firstCount, firstAck, last, if_true]
    exact ⟨rfl, rfl, rfl, rfl⟩

/-! ## WRITE and WRITE_WORD -/

section writes

variable {s : State} {f : Flit} {rest : List NetFlit} (h : AtCore s f rest)

include h

/-- A WRITE or WRITE_WORD for a store of a live core is taken by the core. -/
theorem exec_write_store (cmd : Instr) (ty : f.type = .write ∧ cmd = .write f ∨ f.type = .writeWord ∧ cmd = .writeWord f)
    (store : gaSs f.dst ≠ 4) :
    exec cmd s = .next (State.putCx { s with net := rest } (coreAt f) ((doorCx s f).takeWrite f s.time)) := by
  have taken : s.arriving f (fun s => s.takeWrite f) =
      State.putCx { s with net := rest } (coreAt f) ((doorCx s f).takeWrite f s.time) := by
    rw [arriving_atDoor h.toAtDoor h.core, State.takeWrite, if_pos h.core]
    exact (if_neg fun p => store p.1).trans (coreTakes_alive _ _ _ h.alive)
  obtain ⟨ty, rfl⟩ | ⟨ty, rfl⟩ := ty
  · change execWrite f s = _
    rw [execWrite, decide_eq_true ty, whenS, if_pos rfl, taken]
  · change execWriteWord f s = _
    rw [execWriteWord, decide_eq_true ty, whenS, if_pos rfl, taken]

/-- A write that has its credit and may take place is stored, and counted. -/
theorem received_write (cmd : Instr) (ty : f.type = .write ∧ cmd = .write f ∨ f.type = .writeWord ∧ cmd = .writeWord f)
    (store : gaSs f.dst ≠ 4) (ready : (s.core (coreAt f)).st ≠ .scrubbing ∧ (s.core (coreAt f)).discard = false)
    (credit : creditCause (s.core (coreAt f)) f = none)
    (ok : localOk (s.core (coreAt f)) true (gaSs f.dst) (gaOff f.dst) f.bytes = true) (st : Stores) (r : CoreRec)
    (stored : (doorCx s f).storeIn (gaSs f.dst) (gaOff f.dst) f.bytes f.data = ((doorCx s f).withStores st, true))
    (used : CoreRec.useGrant { s.core (coreAt f) with stores := st } f = r) (same : r.rx = [] ∧ r.perf = []) :
    Received cmd s f rest { r with rx := firstCount f s.time } (firstAck f) := by
  have quiet : (doorCx s f).perfEvent 0x0F = doorCx s f := Cx.perfEvent_off _ _ h.countersOff
  have open_ : ¬ ((doorCx s f).r.st = .scrubbing ∨ (doorCx s f).r.discard = true) := fun p =>
    p.elim ready.1 fun e => absurd (ready.2.symm.trans e) (by decide)
  have work : (doorCx s f).takeWrite f s.time = ((doorCx s f).setR r).accepted f s.time := by
    have credit' : creditCause (doorCx s f).r f = none := credit
    have ok' : localOk (doorCx s f).r true (gaSs f.dst) (gaOff f.dst) f.bytes = true := ok
    rw [Cx.takeWrite, quiet]
    simp only [if_neg open_, credit', ok', stored, Bool.not_true, Bool.false_eq_true, if_false, if_true]
    exact congrArg (fun r => ((doorCx s f).setR r).accepted f s.time) used
  obtain ⟨rec_, out, msgs, free⟩ := Cx.accepted_first ((doorCx s f).setR r) f s.time same.1 same.2
  have received := received_of_work (firstAck f) (exec_write_store h cmd ty store) (by rw [work]; exact msgs)
    (by rw [work]; exact out)
    (by rw [work]; exact free)
  rw [work, rec_] at received
  exact received

end writes

/-- Why a line of a flit without a credit mark has no valid credit: it comes from a core and goes to a credited store. -/
theorem creditCause_uncredited (r : CoreRec) (f : Flit) (h : f.credited = false) : creditCause r f =
    if (gaSs f.dst = 1 ∨ gaSs f.dst = 2) ∧ f.fromHarness = false ∧ f.fromToken = false then some 3 else none := by
  rw [creditCause, if_neg (by rw [h]; decide)]

theorem CoreRec.useGrant_uncredited (r : CoreRec) (f : Flit) (h : f.credited = false) : r.useGrant f = r := by
  rw [CoreRec.useGrant, if_neg (by rw [h]; decide)]

/-- A credited line within the window of its grant record. -/
theorem creditCause_granted (r : CoreRec) (f : Flit) (g : GrantRec) (paid : f.credited = true) (grants : r.grants = [g])
    (key : grantKey f g = true) (store : g.store = gaSs f.dst) (above : g.base ≤ gaOff f.dst)
    (below : gaOff f.dst < g.base + 32 * g.limit) (left : g.used < g.limit) : creditCause r f = none := by
  have found : r.grants.find? (grantKey f) = some g := by rw [grants]; exact List.find?_cons_of_pos key
  rw [creditCause, if_pos paid, found]
  exact (if_pos ⟨store, above, below⟩).trans (if_pos left)

/-- An accepted credited line uses a line of its record, and its last one frees the record. -/
theorem CoreRec.useGrant_granted (r : CoreRec) (f : Flit) (g : GrantRec) (paid : f.credited = true) (grants : r.grants = [g])
    (key : grantKey f g = true) (spent : r.exhausted = []) :
    r.useGrant f = { r with grants := grantUsed g, exhausted := grantSpent g } := by
  have found : r.grants.find? (grantKey f) = some g := by rw [grants]; exact List.find?_cons_of_pos key
  rw [CoreRec.useGrant, if_pos paid, found]
  by_cases more : g.used + 1 < g.limit
  · have stays : ¬ g.used + 1 ≥ g.limit := Nat.not_le.2 more
    simp only [stays, if_false, grants, List.map_cons, List.map_nil, key, if_true, grantUsed, grantSpent, more]
    rw [← spent]
  · have ends : g.used + 1 ≥ g.limit := Nat.not_lt.1 more
    simp only [ends, if_true, grants, spent, List.filter_cons, List.filter_nil, key, Bool.not_true, Bool.false_eq_true, if_false,
      grantUsed, grantSpent, more, List.nil_append]

section clauses

variable {s : State} {f : Flit} {rest : List NetFlit} (h : AtCore s f rest) (counts : (s.core (coreAt f)).rx = [])

include h

/-- An uncredited WRITE of a core to a credited store is answered NACK, and nothing is written (R165). -/
theorem write_violation (ready : (s.core (coreAt f)).st ≠ .scrubbing ∧ (s.core (coreAt f)).discard = false)
    (ty : f.type = .write)
    (free : f.credited = false) (store : gaSs f.dst = 1 ∨ gaSs f.dst = 2) (core : f.fromHarness = false)
    (token : f.fromToken = false) :
    exec (.write f) s = .next { s.setCore (coreAt f) (s.core (coreAt f)) with
        net := rest ++ [⟨answer .nack f (1 + 32) 0, .router (coreX (coreAt f)) (coreY (coreAt f)) 0⟩]
        faults := { s.faults with inFlight := s.faults.inFlight ++
          [⟨coreAt f, 0x04, 2, creditDetail f 3 % 2 ^ 36, false⟩] } } := by
  have quiet : (doorCx s f).perfEvent 0x0F = doorCx s f := Cx.perfEvent_off _ _ h.countersOff
  have open_ : ¬ ((doorCx s f).r.st = .scrubbing ∨ (doorCx s f).r.discard = true) := fun p =>
    p.elim ready.1 fun e => absurd (ready.2.symm.trans e) (by decide)
  have cause : creditCause (doorCx s f).r f = some 3 := by
    rw [creditCause_uncredited _ _ free, if_pos ⟨store, core, token⟩]
  have nack : (((doorCx s f).say 0x04 2 (creditDetail f 3)).send (nackOf f 1)).perfEvent 0x0E =
      ((doorCx s f).say 0x04 2 (creditDetail f 3)).send (nackOf f 1) := Cx.perfEvent_off _ _ h.countersOff
  have work : (doorCx s f).takeWrite f s.time = ((doorCx s f).say 0x04 2 (creditDetail f 3)).send (nackOf f 1) := by
    rw [Cx.takeWrite, quiet]
    simp only [if_neg open_, cause]
    exact nack
  have proper : gaSs f.dst ≠ 4 := by rintro e; rw [e] at store; exact absurd store (by decide)
  rw [exec_write_store h _ (.inl ⟨ty, rfl⟩) proper, work]
  rfl

include counts

/-- An uncredited WRITE to the beam store, or of the harness. -/
theorem write_uncredited (ready : (s.core (coreAt f)).st ≠ .scrubbing ∧ (s.core (coreAt f)).discard = false)
    (ty : f.type = .write)
    (free : f.credited = false) (store : gaSs f.dst = 0 ∨ ((gaSs f.dst = 1 ∨ gaSs f.dst = 2) ∧ f.fromHarness = true))
    (ok : localOk (s.core (coreAt f)) true (gaSs f.dst) (gaOff f.dst) 32 = true) : Received (.write f) s f rest
        { s.core (coreAt f) with
          stores := (s.core (coreAt f)).stores.write (gaSs f.dst) (gaOff f.dst) 32 f.line.toNat, rx := firstCount f s.time }
        (firstAck f) := by
  have proper : gaSs f.dst ≠ 4 ∧ gaSs f.dst ≠ 5 ∧ gaSs f.dst ≠ 6 := by omega
  have bytes : f.bytes = 32 := if_pos ty
  have data : f.data = f.line.toNat := if_pos ty
  have credit : creditCause (s.core (coreAt f)) f = none := by
    rw [creditCause_uncredited _ _ free]
    refine if_neg fun p => store.elim (fun z => ?_) fun q => ?_
    · rw [z] at p; exact absurd p.1 (by decide)
    · rw [q.2] at p; exact absurd p.2.1 (by decide)
  refine received_write h _ (.inl ⟨ty, rfl⟩) proper.1 ready credit (by rw [bytes]; exact ok)
    ((s.core (coreAt f)).stores.write (gaSs f.dst) (gaOff f.dst) 32 f.line.toNat) _ ?_
    (CoreRec.useGrant_uncredited _ _ free) ⟨counts, h.countersOff⟩
  rw [bytes, data, Cx.storeIn_proper _ _ _ _ _ (doorCx_sound h) proper.2.1 proper.2.2]
  rfl

/-- A credited WRITE within its grant record's window. -/
theorem write_credited (ready : (s.core (coreAt f)).st ≠ .scrubbing ∧ (s.core (coreAt f)).discard = false) (g : GrantRec)
    (ty : f.type = .write) (paid : f.credited = true) (store : gaSs f.dst = 1 ∨ gaSs f.dst = 2)
    (grants : (s.core (coreAt f)).grants = [g]) (key : grantKey f g = true) (same : g.store = gaSs f.dst)
    (above : g.base ≤ gaOff f.dst)
    (below : gaOff f.dst + 32 ≤ g.base + 32 * g.limit) (left : g.used < g.limit)
    (ok : localOk (s.core (coreAt f)) true (gaSs f.dst) (gaOff f.dst) 32 = true) (spent : (s.core (coreAt f)).exhausted = []) :
    Received (.write f) s f rest
        { s.core (coreAt f) with
          stores := (s.core (coreAt f)).stores.write (gaSs f.dst) (gaOff f.dst) 32 f.line.toNat, rx := firstCount f s.time
          grants := grantUsed g, exhausted := grantSpent g } (firstAck f) := by
  have proper : gaSs f.dst ≠ 4 ∧ gaSs f.dst ≠ 5 ∧ gaSs f.dst ≠ 6 := by omega
  have bytes : f.bytes = 32 := if_pos ty
  have data : f.data = f.line.toNat := if_pos ty
  refine received_write h _ (.inl ⟨ty, rfl⟩) proper.1 ready
    (creditCause_granted _ f g paid grants key same above (by omega) left) (by rw [bytes]; exact ok)
    ((s.core (coreAt f)).stores.write (gaSs f.dst) (gaOff f.dst) 32 f.line.toNat) _ ?_
    (CoreRec.useGrant_granted _ f g paid grants key spent) ⟨counts, h.countersOff⟩
  rw [bytes, data, Cx.storeIn_proper _ _ _ _ _ (doorCx_sound h) proper.2.1 proper.2.2]
  rfl

/-- A WRITE_WORD to a set or clear window sets, or clears, its bits. -/
theorem writeWord_alias (ready : (s.core (coreAt f)).st ≠ .scrubbing ∧ (s.core (coreAt f)).discard = false)
    (ty : f.type = .writeWord)
    (free : f.credited = false) (store : gaSs f.dst = 5 ∨ gaSs f.dst = 6) (aligned : gaOff f.dst % 8 = 0)
    (low : gaOff f.dst < 0xC000) :
    Received (.writeWord f) s f rest
        { s.core (coreAt f) with
          stores := (s.core (coreAt f)).stores.write 1 (gaOff f.dst) 8 (if gaSs f.dst = 5 then
              (s.core (coreAt f)).stores.read 1 (gaOff f.dst) 8 ||| bits f.line.toNat 0 64
            else (s.core (coreAt f)).stores.read 1 (gaOff f.dst) 8 &&& compl 64 (bits f.line.toNat 0 64))
          rx := firstCount f s.time } (firstAck f) := by
  have word : ¬ f.type = .write := by rw [ty]; decide
  have bytes : f.bytes = 8 := if_neg word
  have data : f.data = bits f.line.toNat 0 64 := if_neg word
  have proper : gaSs f.dst ≠ 4 := by omega
  have credit : creditCause (s.core (coreAt f)) f = none := by
    rw [creditCause_uncredited _ _ free]
    exact if_neg fun p => by omega
  have ok : localOk (s.core (coreAt f)) true (gaSs f.dst) (gaOff f.dst) 8 = true := by
    have fits : gaOff f.dst + 8 ≤ 0xC000 := by omega
    rcases store with e | e <;> rw [e] <;> simp [localOk, aligned, storeEnd, realSs, fits]
  refine received_write h _ (.inr ⟨ty, rfl⟩) proper ready credit (by rw [bytes]; exact ok)
    ((s.core (coreAt f)).stores.write 1 (gaOff f.dst) 8 (if gaSs f.dst = 5 then
        (s.core (coreAt f)).stores.read 1 (gaOff f.dst) 8 ||| bits f.line.toNat 0 64
      else (s.core (coreAt f)).stores.read 1 (gaOff f.dst) 8 &&& compl 64 (bits f.line.toNat 0 64))) _ ?_
    (CoreRec.useGrant_uncredited _ _ free) ⟨counts, h.countersOff⟩
  rw [bytes, data, Cx.storeIn_alias _ _ _ _ (doorCx_sound h) store (bits_lt _ _ _), aliasWord]
  simp only [decide_eq_true_eq]
  rfl

end clauses

end Sys2Proof.Machine
end

section
namespace Sys2Proof.Machine

open Sys2Proof

/-! PROOFS. The core control block and READ at a core (O27). -/

/-! ## READ -/

/-- The flit of line `i` of a READ. -/
def readFlit (r : CoreRec) (f : Flit) (i : Nat) : Flit :=
  answer .readData f 0 (r.stores.read (realSs (gaSs f.dst)) (gaOff f.dst + 32 * i) 32)

/-- The lines of a READ from the `i`-th on return in address order, and the core stays as it is. -/
theorem Cx.takeRead_lines (f : Flit) (n : Nat) : ∀ (i : Nat) (x : Cx), x.Sound → x.r.st ≠ .scrubbing →
    (∀ j, i ≤ j → j < i + n → localOk x.r false (gaSs f.dst) (gaOff f.dst + 32 * j) 32 = true) →
    Cx.takeRead f n i x = { x with out := x.out ++ (List.range' i n).map (readFlit x.r f) } := by
  induction n with
  | zero => exact fun i x _ _ _ => by rw [Cx.takeRead, List.range'_zero, List.map_nil, List.append_nil]
  | succ n ih =>
    intro i x sound live ok
    have line : x.readLine (gaSs f.dst) (gaOff f.dst + 32 * i) =
        (x, 0, x.r.stores.read (realSs (gaSs f.dst)) (gaOff f.dst + 32 * i) 32) := by
      simp only [Cx.readLine, live, if_false, ok i (Nat.le_refl _) (by omega), Bool.not_true, Bool.false_eq_true,
        Cx.eccCheck_clean _ _ _ _ sound.clean, if_true, Cx.perfEvent_off _ _ sound.off]
    have sent : (x.send (readFlit x.r f i)).perfEvent 0x0E = x.send (readFlit x.r f i) := Cx.perfEvent_off _ _ sound.off
    have step : Cx.takeRead f (n + 1) i x = Cx.takeRead f n (i + 1) (x.send (readFlit x.r f i)) := by
      rw [Cx.takeRead, line]
      exact congrArg (Cx.takeRead f n (i + 1)) sent
    rw [step, ih (i + 1) (x.send (readFlit x.r f i)) ⟨sound.clean, sound.off⟩ live fun j h1 h2 => ok j (by omega) (by omega),
      List.range'_succ, List.map_cons]
    simp only [Cx.send, List.append_assoc, List.singleton_append]

/-- What work on a core's control block and the core leaves, where it sends no message. -/
theorem receivedCtl_of_work {s s₁ : State} {f : Flit} {rest : List NetFlit} {cmd : Instr} {x : Cx} (out : List Flit)
    (runs : exec cmd s = .next (s₁.putCx (coreAt f) x)) (frame : s₁ = { s with cores := s₁.cores, net := rest })
    (others : ∀ k, k ≠ coreAt f → s₁.core k = s.core k) (hm : x.msgs = []) (ho : x.out = out) (hf : x.free = s.free) :
    ReceivedCtl cmd s f rest x.r out := by
  have free : x.free = s₁.free := by rw [frame]; exact hf
  refine ⟨_, runs, State.putCx_core _ _ _, fun k hk => ?_, ?_⟩
  · exact (State.setCore_core_ne _ _ _ _ hk).trans (others k hk)
  · rw [State.putCx_sends _ _ x out hm ho free, frame]
    rfl

/-- The core after a write of ISLAND. -/
def islandWritten (r : CoreRec) (v : Nat) : CoreRec :=
  { r with freqTarget := max 64 (min 232 (bits v 0 8)), stretch := bits v 8 4 }

section control

variable {s : State} {f : Flit} {rest : List NetFlit} (h : AtCore s f rest)

include h

/-- A READ of a store returns its lines. -/
theorem received_read (ready : (s.core (coreAt f)).st ≠ .scrubbing) (ty : f.type = .read)
    (ok : ∀ i, i < f.arg % 16 + 1 → localOk (s.core (coreAt f)) false (gaSs f.dst) (gaOff f.dst + 32 * i) 32 = true)
    (store : gaSs f.dst ≠ 4) : Received (.read f) s f rest (s.core (coreAt f))
      ((List.range (f.arg % 16 + 1)).map (readFlit (s.core (coreAt f)) f)) := by
  have quiet : (doorCx s f).perfEvent 0x0F = doorCx s f := Cx.perfEvent_off _ _ h.countersOff
  have lines_ := Cx.takeRead_lines f f.count 0 (doorCx s f) (doorCx_sound h) ready fun j _ hj =>
    ok j (by rw [Nat.zero_add] at hj; exact hj)
  have exec : exec (.read f) s = .next (State.putCx { s with net := rest } (coreAt f) (Cx.takeRead f f.count 0 (doorCx s f))) := by
    change execRead f s = _
    rw [execRead, decide_eq_true ty, whenS, if_pos rfl, arriving_atDoor h.toAtDoor h.core, if_pos h.core]
    refine congrArg _ ((if_neg fun p => store p.1).trans ((coreTakes_alive { s with net := rest } _ _ h.alive).trans ?_))
    exact congrArg (fun x => State.putCx { s with net := rest } (coreAt f) (Cx.takeRead f f.count 0 x)) quiet
  rw [lines_] at exec
  exact received_of_work _ exec rfl (by rw [List.range_eq_range']; rfl) rfl

/-- The harness's READ of the status register. -/
theorem receivedCtl_status (ty : f.type = .read) (store : gaSs f.dst = 4) (harness : f.fromHarness = true)
    (off : gaOff f.dst = 0x008)
    (one : f.arg % 16 = 0) : ReceivedCtl (.read f) s f rest (s.core (coreAt f)) [answer .readData f 0
      ((s.core (coreAt f)).st.code + ((s.core (coreAt f)).freezeCause <<< 8) + (((s.core (coreAt f)).pc % 1024) <<< 16))] := by
  have count : f.count = 1 := by rw [Flit.count, one]
  have value : State.ccbRead { s with net := rest } (coreAt f) 8 = ((s.core (coreAt f)).st.code +
      ((s.core (coreAt f)).freezeCause <<< 8) + (((s.core (coreAt f)).pc % 1024) <<< 16), s.core (coreAt f)) := rfl
  have exec : exec (.read f) s = .next (State.ccbReads (coreAt f) f 1 0 { s with net := rest }) := by
    change execRead f s = _
    rw [execRead, decide_eq_true ty, whenS, if_pos rfl, arriving_atDoor h.toAtDoor h.core, if_pos h.core, count]
    exact congrArg _ (if_pos ⟨store, harness⟩)
  have work : State.ccbReads (coreAt f) f 1 0 { s with net := rest } =
      State.putCx (State.setCore { s with net := rest } (coreAt f) (s.core (coreAt f))) (coreAt f)
        (((State.setCore { s with net := rest } (coreAt f) (s.core (coreAt f))).cx (coreAt f)).send (dataOf f 0
          ((s.core (coreAt f)).st.code + ((s.core (coreAt f)).freezeCause <<< 8) + (((s.core (coreAt f)).pc % 1024) <<< 16)))) := by
    simp only [State.ccbReads, off, Nat.mul_zero, Nat.add_zero, value]
    rfl
  have core : (State.setCore { s with net := rest } (coreAt f) (s.core (coreAt f))).core (coreAt f) = s.core (coreAt f) :=
    State.setCore_core_self _ _ _
  have received : ReceivedCtl (.read f) s f rest
      ((State.setCore { s with net := rest } (coreAt f) (s.core (coreAt f))).core (coreAt f)) _ :=
    receivedCtl_of_work [_] (exec.trans (congrArg _ work)) rfl (fun k hk => State.setCore_core_ne _ _ _ _ hk) rfl rfl rfl
  rw [core] at received
  exact received

/-- The harness's WRITE of ISLAND. -/
theorem receivedCtl_island (counts : (s.core (coreAt f)).rx = []) (ty : f.type = .write) (store : gaSs f.dst = 4)
    (harness : f.fromHarness = true) (off : gaOff f.dst = 0x018) : ReceivedCtl (.write f) s f rest
      { islandWritten (s.core (coreAt f)) (bits f.line.toNat 0 64) with rx := firstCount f s.time } (firstAck f) := by
  have register : gaSs f.dst = 4 ∧ ccbOk f (gaOff f.dst) = true := ⟨store, by rw [ccbOk, harness, off]; rfl⟩
  have write : State.ccbWrite { s with net := rest } (coreAt f) (gaOff f.dst) (bits f.line.toNat 0 64) =
      State.setCore { s with net := rest } (coreAt f) (islandWritten (s.core (coreAt f)) (bits f.line.toNat 0 64)) := by
    rw [off]
    rfl
  have sound : (islandWritten (s.core (coreAt f)) (bits f.line.toNat 0 64)).rx = [] ∧
      (islandWritten (s.core (coreAt f)) (bits f.line.toNat 0 64)).perf = [] := ⟨counts, h.countersOff⟩
  generalize islandWritten (s.core (coreAt f)) (bits f.line.toNat 0 64) = r at write sound ⊢
  have exec : exec (.write f) s = .next (State.onCx (State.setCore { s with net := rest } (coreAt f) r) (coreAt f)
      fun x => x.accepted f s.time) := by
    change execWrite f s = _
    rw [execWrite, decide_eq_true ty, whenS, if_pos rfl, arriving_atDoor h.toAtDoor h.core, State.takeWrite, if_pos h.core]
    exact congrArg _ ((if_pos register).trans (congrArg (fun t => State.onCx t (coreAt f) fun x => x.accepted f s.time) write))
  have core : ((State.setCore { s with net := rest } (coreAt f) r).cx (coreAt f)).r = r := State.setCore_core_self _ _ _
  obtain ⟨rec_, out, msgs, free⟩ := Cx.accepted_first ((State.setCore { s with net := rest } (coreAt f) r).cx (coreAt f)) f s.time
    (by rw [core]; exact sound.1) (by rw [core]; exact sound.2)
  have received := receivedCtl_of_work _ exec rfl (fun k hk => State.setCore_core_ne _ _ _ _ hk) msgs out free
  rw [rec_, core] at received
  exact received

end control

/-- Settles O27, request by request. -/
theorem storeRequestEffects : Obligations.StoreRequestEffects := by
  intro s f rest h r ss off scrubs keeps counts
  exact ⟨write_uncredited h counts ⟨scrubs, keeps⟩,
    fun g ty paid store grants key same above below left ok spent =>
      write_credited h counts ⟨scrubs, keeps⟩ g ty paid store grants key same above below left ok spent,
    write_violation h ⟨scrubs, keeps⟩, writeWord_alias h counts ⟨scrubs, keeps⟩, receivedCtl_island h counts,
    receivedCtl_status h, fun ty ok store => received_read h scrubs ty ok store⟩

end Sys2Proof.Machine
end

section
namespace Sys2Proof.Machine

open Sys2Proof

/-! PROOFS. Responses at the core they answer (O28). -/

/-- A channel that holds nothing but an accepted last line notifies nobody and ends. -/
theorem Cx.At.linesDone_silent {x y : Cx} {ch : Nat} {k : Chan} (h : x.At y ch k) (hy : y.Sound) (v : ShEnv) (a : Active)
    (silent : a.notify = false) : (x.linesDone v ch a).At y ch (ended k a k.queue) := by
  have done := h.linesDone hy v a fun p => absurd (silent.symm.trans p) (by decide)
  have same : y.withStores (notified a y.r.stores) = y := by rw [notified, if_neg (by rw [silent]; decide)]; rfl
  rwa [same] at done

/-- A response acts on the channel that it names, if it is active or in MISS. -/
def actsOn (g : ShEnv → Cx → Active → Cx) (v : ShEnv) (ch : Nat) (x : Cx) : Cx :=
  match x.act? ch with
  | some a => if (x.r.chan ch).state = .active ∨ (x.r.chan ch).state = .miss then g v x a else x
  | none => x

theorem actsOn_active (g : ShEnv → Cx → Active → Cx) (v : ShEnv) (ch : Nat) (x : Cx) (a : Active)
    (act : (x.r.chan ch).active = some a)
    (active : (x.r.chan ch).state = .active) : actsOn g v ch x = g v x a := by
  rw [actsOn, show x.act? ch = some a from act]
  exact if_pos (.inl active)

section response

variable {s : State} {f : Flit} {rest : List NetFlit} {a : Active} (h : AtCore s f rest)

/-- What work on the channel that a flit names leaves, where it sends nothing. -/
theorem receivedAt_of_work {cmd : Instr} {x y : Cx} {k : Chan}
    (runs : exec cmd s = .next (State.putCx { s with net := rest } (coreAt f) x)) (at_ : x.At y f.ch k) (hm : y.msgs = [])
    (ho : y.out = []) (hf : y.free = s.free) (chans : y.r.chans = (s.core (coreAt f)).chans) : ReceivedAt cmd s f rest y.r k [] := by
  refine ⟨_, runs, ?_, ?_, ?_, fun j hj => ?_⟩
  · rw [State.putCx_core, State.putCx_sends _ _ x [] (at_.msgs.trans hm) (at_.out.trans ho)
      (by exact at_.free.trans hf)]
    rfl
  · rw [State.putCx_core]
    exact at_.core
  · rw [State.putCx_core]
    exact at_.here
  · rw [State.putCx_core, at_.others j hj, CoreRec.chan, chans]
    rfl

include h

/-- A response at a core whose channel is active acts on it. -/
theorem arriving_atChannel (active : ((s.core (coreAt f)).chan f.ch).state = .active)
    (act : ((s.core (coreAt f)).chan f.ch).active = some a) (g : ShEnv → Cx → Active → Cx) :
    s.arriving f (fun s => s.atChannel f g) =
      State.putCx { s with net := rest } (coreAt f) (g (s.shEnv (coreAt f)) (doorCx s f) a) := by
  have quiet : (doorCx s f).perfEvent 0x0F = doorCx s f := Cx.perfEvent_off _ _ h.countersOff
  rw [arriving_atDoor h.toAtDoor h.core, State.atChannel, if_pos h.core]
  refine (coreTakes_alive { s with net := rest } _ _ h.alive).trans (congrArg (State.putCx { s with net := rest } (coreAt f)) ?_)
  exact (congrArg (actsOn g (s.shEnv (coreAt f)) f.ch) quiet).trans (actsOn_active _ _ _ _ a act active)

end response

/-- An active channel with another descriptor. -/
theorem Chan.active_again (k : Chan) (b : Option Active) (h : k.state = .active) :
    ({ k with active := b, state := .active } : Chan) = { k with active := b } := by rw [← h]

/-- A line whose data has come from another core is put from the staging buffer. -/
theorem Cx.moveLine_staged (v : ShEnv) (x y : Cx) (ch : Nat) (a : Active) (i src dst : Nat) (mc : Bool) (d : Line) (rest : List Line)
    (away : isMine v src = false) (staged : a.staged = d :: rest)
    (put : x.putLine v ch { a with staged := rest } i dst d.toNat mc = (y, .done)) :
    x.moveLine v ch a i src dst mc = (y, .done) := by
  have remote : ¬ isMine v src = true := by rw [away]; decide
  rw [Cx.moveLine, if_neg remote, staged]
  simp only [put]
  exact if_neg (by decide)

/-- The core before and after the last line of a remote read is written. -/
def lastReadCx (x : Cx) (dst : Nat) (l : Line) : Nat → Cx
  | 0 => x
  | _ + 1 => x.write (gaSs dst) (gaOff dst) 32 l.toNat

/-- The active descriptor with the last line of a remote read staged, and with it written. -/
def lastReadActive (a : Active) (l : Line) : Nat → Active
  | 0 => { a with staged := [l], outstanding := 0 }
  | _ + 1 => { a with staged := [], outstanding := 0, next := a.next + 1 }

section clauses

variable {s : State} {f : Flit} {rest : List NetFlit} {a : Active} (h : AtCore s f rest)

include h

/-- GRANT adds to the writer's credit counter. -/
theorem received_grant (ty : f.type = .grant) : Received (.grantFlit f) s f rest { s.core (coreAt f) with
    credits := Tab.put 0 (s.core (coreAt f)).credits f.creditId
      (min (Tab.get 0 (s.core (coreAt f)).credits f.creditId + f.arg) 65535) } [] := by
  have quiet : (doorCx s f).perfEvent 0x0F = doorCx s f := Cx.perfEvent_off _ _ h.countersOff
  have exec : exec (.grantFlit f) s = .next (State.putCx { s with net := rest } (coreAt f) ((doorCx s f).mod fun r =>
      { r with credits := Tab.put 0 r.credits f.creditId (min (Tab.get 0 r.credits f.creditId + f.arg) 65535) })) := by
    change execGrantFlit f s = _
    rw [execGrantFlit, decide_eq_true ty, whenS, if_pos rfl, arriving_atDoor h.toAtDoor h.core, if_pos h.core]
    refine congrArg _ ((coreTakes_alive { s with net := rest } _ _ h.alive).trans ?_)
    exact congrArg (fun x : Cx => State.putCx { s with net := rest } (coreAt f) (x.mod fun r =>
      { r with credits := Tab.put 0 r.credits f.creditId (min (Tab.get 0 r.credits f.creditId + f.arg) 65535) })) quiet
  exact received_of_work [] exec rfl rfl rfl

/-- The staged line of a remote read is put, and the channel goes on. -/
theorem lastRead_lineGoes (own : a.isRstep = false) (op : a.op = 1)
    (away : isMine (s.shEnv (coreAt f)) (srcOf a a.next) = false) (w : mineToWrite s (coreAt f) (dstOf a a.next)) :
    LineGoes (s.shEnv (coreAt f)) f.ch ((s.core (coreAt f)).chan f.ch) (lastReadCx (doorCx s f) (dstOf a a.next) f.line)
      (lastReadActive a f.line) 0 := by
  intro x hx
  have works : x.Works s (coreAt f) (s.core (coreAt f)).stores :=
    Cx.At.works (gf := (s.core (coreAt f)).dp.gf) hx h.noErrors h.countersOff
  have put := works.putLine f.ch { a with staged := [], outstanding := 0 } a.next (dstOf a a.next) f.line.toNat false w
  refine ⟨_, (Cx.lineStep_copy _ x f.ch { a with staged := [f.line], outstanding := 0 } false own op).trans
    (Cx.moveLine_staged _ x _ f.ch _ _ _ _ _ _ _ away rfl put), ?_⟩
  exact (hx.write _ _ _ _).setAct _

variable (active : ((s.core (coreAt f)).chan f.ch).state = .active) (act : ((s.core (coreAt f)).chan f.ch).active = some a)

include active act

theorem receivedAt_nack (ty : f.type = .nack) :
    ReceivedAt (.nack f) s f rest (s.core (coreAt f)) (failed ((s.core (coreAt f)).chan f.ch) a.acked) [] := by
  have exec : exec (.nack f) s = .next (State.putCx { s with net := rest } (coreAt f) ((doorCx s f).chanStop f.ch a.acked)) := by
    change execNack f s = _
    rw [execNack, decide_eq_true ty, whenS, if_pos rfl, arriving_atChannel h active act]
  exact receivedAt_of_work exec ((Cx.At.refl (doorCx s f) f.ch).chanTo _) rfl rfl rfl rfl

/-- What an ACK does at an active channel. -/
theorem exec_ack (ty : f.type = .ack) : exec (.ack f) s = .next (State.putCx { s with net := rest } (coreAt f)
    (if a.notifying = true then (doorCx s f).finish f.ch a
      else ((doorCx s f).setAct f.ch { a with acked := a.acked + f.acks }).run (s.shEnv (coreAt f)) f.ch)) := by
  have there : ¬ ((doorCx s f).r.chan f.ch).state = .miss := by
    rw [show ((doorCx s f).r.chan f.ch).state = .active from active]; decide
  change execAck f s = _
  rw [execAck, decide_eq_true ty, whenS, if_pos rfl, arriving_atChannel h active act, if_neg there]

theorem receivedAt_notified (ty : f.type = .ack) (notifying : a.notifying = true) : ReceivedAt (.ack f) s f rest (s.core (coreAt f))
    (ended ((s.core (coreAt f)).chan f.ch) a ((s.core (coreAt f)).chan f.ch).queue) [] := by
  have exec := exec_ack h active act ty
  rw [if_pos notifying, Cx.finish_eq _ _ _ (by exact h.countersOff)] at exec
  exact receivedAt_of_work exec ((Cx.At.refl (doorCx s f) f.ch).chanTo _) rfl rfl rfl rfl

omit h active act in
/-- The channel after an ACK at the end of its lines: it ends where the last line is accepted. -/
theorem ack_run (lines : a.notifying = false) (last : a.next = a.total) : ∃ x : Cx,
    x.At (doorCx s f) f.ch
      { (s.core (coreAt f)).chan f.ch with active := some { a with acked := a.acked + f.arg % 32 }, state := .active } ∧
    ((doorCx s f).setAct f.ch { a with acked := a.acked + f.acks }).run (s.shEnv (coreAt f)) f.ch =
      if a.sent = a.acked + f.arg % 32 then x.linesDone (s.shEnv (coreAt f)) f.ch { a with acked := a.acked + f.arg % 32 } else x :=
  Cx.run_to_last (s.shEnv (coreAt f)) f.ch ((s.core (coreAt f)).chan f.ch) (fun _ => doorCx s f)
    (fun _ => { a with acked := a.acked + f.arg % 32 }) 0 (fun _ hi => absurd hi (Nat.not_lt_zero _)) (Nat.zero_le _) _
    ((Cx.At.refl (doorCx s f) f.ch).setAct _) (fun more : a.next < a.total => Nat.lt_irrefl _ (last ▸ more)) lines

theorem receivedAt_accepted (ty : f.type = .ack) (lines : a.notifying = false) (last : a.next = a.total)
    (accepted : a.acked + f.arg % 32 = a.sent) (silent : a.notify = false) : ReceivedAt (.ack f) s f rest (s.core (coreAt f))
      (ended ((s.core (coreAt f)).chan f.ch) a ((s.core (coreAt f)).chan f.ch).queue) [] := by
  obtain ⟨x, at_, run⟩ := ack_run (s := s) (f := f) lines last
  have exec := exec_ack h active act ty
  rw [if_neg (by rw [lines]; decide), run, if_pos accepted.symm] at exec
  exact receivedAt_of_work exec (at_.linesDone_silent (doorCx_sound h) _ _ silent) rfl rfl rfl rfl

theorem receivedAt_counted (ty : f.type = .ack) (lines : a.notifying = false) (last : a.next = a.total)
    (waits : a.acked + f.arg % 32 < a.sent) : ReceivedAt (.ack f) s f rest (s.core (coreAt f))
      { (s.core (coreAt f)).chan f.ch with active := some { a with acked := a.acked + f.arg % 32 } } [] := by
  obtain ⟨x, at_, run⟩ := ack_run (s := s) (f := f) lines last
  have exec := exec_ack h active act ty
  rw [if_neg (by rw [lines]; decide), run, if_neg fun e => absurd waits (by omega)] at exec
  rw [Chan.active_again _ _ active] at at_
  exact receivedAt_of_work exec at_ rfl rfl rfl rfl

/-- What a READ_DATA does at an active channel. -/
theorem exec_readData (ty : f.type = .readData) : exec (.readData f) s = .next (State.putCx { s with net := rest } (coreAt f)
    (if a.outstanding = 0 then doorCx s f
      else if f.reason ≠ 0 then (doorCx s f).chanStop f.ch a.next
      else if a.outstanding = 1 then
        ((doorCx s f).setAct f.ch { a with staged := a.staged ++ [f.line], outstanding := a.outstanding - 1 }).run
          (s.shEnv (coreAt f)) f.ch
      else (doorCx s f).setAct f.ch { a with staged := a.staged ++ [f.line], outstanding := a.outstanding - 1 })) := by
  change execReadData f s = _
  rw [execReadData, decide_eq_true ty, whenS, if_pos rfl, arriving_atChannel h active act]

theorem receivedAt_refused (ty : f.type = .readData) (waits : a.outstanding ≠ 0) (refused : bits f.arg 5 4 ≠ 0) :
    ReceivedAt (.readData f) s f rest (s.core (coreAt f)) (failed ((s.core (coreAt f)).chan f.ch) a.next) [] := by
  have exec := exec_readData h active act ty
  rw [if_neg waits, if_pos (show f.reason ≠ 0 from refused)] at exec
  exact receivedAt_of_work exec ((Cx.At.refl (doorCx s f) f.ch).chanTo _) rfl rfl rfl rfl

theorem receivedAt_staged (ty : f.type = .readData) (more : 1 < a.outstanding) (good : bits f.arg 5 4 = 0) :
    ReceivedAt (.readData f) s f rest (s.core (coreAt f)) { (s.core (coreAt f)).chan f.ch with
      active := some { a with staged := a.staged ++ [f.line], outstanding := a.outstanding - 1 } } [] := by
  have exec := exec_readData h active act ty
  rw [if_neg (by omega), if_neg (not_not.2 (show f.reason = 0 from good)), if_neg (by omega)] at exec
  have at_ := (Cx.At.refl (doorCx s f) f.ch).setAct { a with staged := a.staged ++ [f.line], outstanding := a.outstanding - 1 }
  rw [show (doorCx s f).r.chan f.ch = (s.core (coreAt f)).chan f.ch from rfl, Chan.active_again _ _ active] at at_
  exact receivedAt_of_work exec at_ rfl rfl rfl rfl

theorem receivedAt_lastRead (ty : f.type = .readData) (one : a.outstanding = 1) (good : bits f.arg 5 4 = 0) (own : a.isRstep = false)
    (op : a.op = 1) (empty : a.staged = []) (lines : a.notifying = false) (last : a.next + 1 = a.total) (accepted : a.sent = a.acked)
    (silent : a.notify = false) (away : isMine (s.shEnv (coreAt f)) (srcOf a a.next) = false)
    (w : mineToWrite s (coreAt f) (dstOf a a.next)) : ReceivedAt (.readData f) s f rest
      { s.core (coreAt f) with stores := putLine (s.core (coreAt f)).stores (dstOf a a.next) f.line.toNat }
      (ended ((s.core (coreAt f)).chan f.ch) a ((s.core (coreAt f)).chan f.ch).queue) [] := by
  have exec := exec_readData h active act ty
  rw [if_neg (by rw [one]; decide), if_neg (not_not.2 (show f.reason = 0 from good)), if_pos one, empty, one] at exec
  obtain ⟨x, at_, run⟩ := Cx.run_to_last (s.shEnv (coreAt f)) f.ch ((s.core (coreAt f)).chan f.ch)
    (lastReadCx (doorCx s f) (dstOf a a.next) f.line) (lastReadActive a f.line) 1
    (fun i hi => by
      obtain rfl : i = 0 := Nat.lt_one_iff.1 hi
      exact ⟨lastRead_lineGoes h own op away w, lines, show a.next < a.total by omega⟩)
    (show 1 ≤ a.total by omega) ((doorCx s f).setAct f.ch { a with staged := [f.line], outstanding := 0 })
    ((Cx.At.refl (doorCx s f) f.ch).setAct _) (show ¬ a.next + 1 < a.total by omega) lines
  have done : Cx.run (s.shEnv (coreAt f)) ((doorCx s f).setAct f.ch { a with staged := [f.line], outstanding := 0 }) f.ch =
      x.linesDone (s.shEnv (coreAt f)) f.ch { a with staged := [], outstanding := 0, next := a.next + 1 } :=
      run.trans (if_pos accepted)
  have exec' := exec.trans (congrArg (fun x => Host.Outcome.next (State.putCx { s with net := rest } (coreAt f) x)) done)
  exact receivedAt_of_work exec' (at_.linesDone_silent ((doorCx_sound h).write _ _ _ _) _ _ silent) rfl rfl rfl rfl

end clauses

/-- Settles O28, response by response. -/
theorem responseEffects : Obligations.ResponseEffects := by
  intro s f rest a h r k
  exact ⟨received_grant h, fun active act => ⟨receivedAt_nack h active act, receivedAt_notified h active act,
    receivedAt_accepted h active act, receivedAt_counted h active act, receivedAt_refused h active act,
    receivedAt_staged h active act,
    receivedAt_lastRead h active act⟩⟩

end Sys2Proof.Machine
end

section
namespace Sys2Proof.Machine

open Sys2Proof

/-! PROOFS. The issue of a bundle whose plans meet no cause of Table 4.15, in either slot and with any control flow. -/

/-! ## Control flow and charge (R39, R114, R115, R128) -/

/-- Control flow and the governor's charge of a bundle on a running core. -/
theorem CoreRec.afterIssue_running (q : CoreRec) (pc : Nat) (heavy : Bool) (ctl : Ctl) (run : q.st = .run)
    (nowait : q.wait = none) : q.afterIssue pc heavy ctl = { q with
      dp := (ctlNext pc q.dp ctl).1, pc := (ctlNext pc q.dp ctl).2
      balance := q.balance - (if heavy then 512 else 0), heavy100 := q.heavy100 + boolNat heavy } := by
  have st : (if q.st = .wait then CoreSt.run else q.st) = q.st := if_neg (by rw [run]; decide)
  have clamp : (if q.st = .wait then false else q.clampReported) = q.clampReported := if_neg (by rw [run]; decide)
  rw [CoreRec.afterIssue, st, clamp, ← nowait]
  rfl

/-- The core counts a heavy bundle towards its heat (R365). -/
def CoreRec.charged (r : CoreRec) (heavy : Bool) : CoreRec := { r with heavy100 := r.heavy100 + boolNat heavy }

/-- An issue changes what every cycle may, the queues of slot B and the count of heavy bundles. -/
theorem issued_cycled_charged (env : Env) (r y : CoreRec) (a b : Plan) (d : Tab Nat) (hy : Cycled r y) (run : y.st = .run)
    (nowait : y.wait = none) : Cycled ((r.withQueued b).charged a.heavy) { issued env y a b with denied := d } := by
  have chans : (CoreRec.withQueued { y with dp := y.dp.withResults a b } b).chans = (r.withQueued b).chans :=
    CoreRec.withQueued_chans _ _ _ (by rw [hy]) (by rw [hy]; rfl)
  have queued : CoreRec.withQueued { y with dp := y.dp.withResults a b } b =
      { y with dp := y.dp.withResults a b, chans := (r.withQueued b).chans } := chans ▸ CoreRec.withQueued_eq _ b
  rw [CoreRec.withQueued_eq r b, issued, queued]
  generalize (r.withQueued b).chans = cs
  have after := CoreRec.afterIssue_running { y with dp := y.dp.withResults a b, chans := cs } y.pc a.heavy b.ctl run nowait
  rw [after]
  obtain ⟨pc, balance, since, denied, pt, pend, ports, writes, sf, rot, loops, rfl⟩ := (cycled_iff r y).1 hy
  cases b.ctl <;> rfl

/-- A taken branch goes on at its target two pipe cycles later, and ends the loops without it (R114). -/
theorem issued_branch (env : Env) (y : CoreRec) (a b : Plan) (target : Nat) (ctl : b.ctl = .branch target) :
    (issued env y a b).pc = target ∧ (issued env y a b).dp.loops = loopsAfterBranch target y.dp.loops ∧
    (issued env y a b).dp.pt = y.dp.pt + 2 ∧
    (issued env y a b).dp.pend = y.dp.pend ++ (a.pend ++ b.pend).map (fun q => ⟨y.dp.pt + q.1, q.2⟩) := by
  simp only [issued, ctl, CoreRec.afterIssue, CoreRec.refill, CoreRec.ticked, ctlNext, CoreRec.withQueued_dp,
    Datapath.withResults, and_self]

/-- A loop becomes the innermost one, and its body is next (R115). -/
theorem issued_loop (env : Env) (y : CoreRec) (a b : Plan) (count last : Nat) (ctl : b.ctl = .loop count last) :
    (issued env y a b).pc = y.pc + 1 ∧ (issued env y a b).dp.loops = ⟨y.pc + 1, last, count, 0⟩ :: y.dp.loops := by
  simp only [issued, ctl, CoreRec.afterIssue, CoreRec.ticked, ctlNext, CoreRec.withQueued_dp, Datapath.withResults, and_self]

/-! ## Plans that pass the checks -/

/-- The words of a bundle meet no cause of Table 4.15 by themselves. -/
structure LegalWords (wa wb : Nat) : Prop where
  validA : validA (opOf wa) = true
  validB : validB (opOf wb) = true
  reservedA : wa &&& reservedA (opOf wa) = 0
  reservedB : wb &&& reservedB (opOf wb) = 0
  apart : ¬ ((opOf wa = 1 ∨ opOf wa = 2) ∧ opOf wb = 5)

theorem LegalWords.slotA {op w : Nat} (hw : WordA op w) (valid : Machine.validA op = true) : LegalWords w 0 := by
  obtain ⟨rfl, reserved⟩ := hw
  exact ⟨valid, by decide, reserved, by decide, fun p => absurd p.2 (by decide)⟩

theorem LegalWords.slotB {op w : Nat} (hw : WordB op w) (valid : Machine.validB op = true) : LegalWords 0 w := by
  obtain ⟨rfl, reserved⟩ := hw
  exact ⟨by decide, valid, by decide, reserved, fun p => absurd p.1 (by decide)⟩

/-- The plans of a bundle meet no cause and no fault; `PlansGoOn` without its control flow and charge. -/
structure PlansPass (a b : Plan) : Prop where
  legalA : a.illegal = []
  legalB : b.illegal = []
  soundA : a.fault = none
  soundB : b.fault = none
  ports : clash (a.ports ++ b.ports) [] = false
  writes : clash (a.writes ++ b.writes) [] = false

/-- Beside an empty slot B. -/
theorem PlansPass.of_slotA (a : Plan) (h1 : a.illegal = []) (h2 : a.fault = none) (h3 : clash a.ports [] = false)
    (h4 : clash a.writes [] = false) : PlansPass a {} :=
  ⟨h1, rfl, h2, rfl, by rw [List.append_nil]; exact h3, by rw [List.append_nil]; exact h4⟩

/-- Beside an empty slot A. -/
theorem PlansPass.of_slotB (b : Plan) (h1 : b.illegal = []) (h2 : b.fault = none) (h3 : clash b.ports [] = false)
    (h4 : clash b.writes [] = false) : PlansPass {} b :=
  ⟨rfl, h1, rfl, h2, h3, h4⟩

/-- No cause of Table 4.15 is met in a pipe in which nothing is in flight. -/
theorem leastCause_passing (d : Datapath) (wa wb : Nat) (a b : Plan) (words : LegalWords wa wb) (plans : PlansPass a b)
    (portsFree : d.ports = []) (noWrites : d.writes = []) : leastCause (illegalCauses d wa wb a b) = none := by
  obtain ⟨validA, validB, reservedA, reservedB, apart⟩ := words
  refine illegalCauses_none _ _ _ _ _ validA validB reservedA reservedB plans.legalA plans.legalB ?_ apart ?_
  · rw [portsFree, clash_shift, plans.ports]
  · rw [noWrites, clash_shift, plans.writes]

/-- A legal bundle whose acts leave the core as `y` issues, with whatever control flow and charge but a HALT. -/
theorem execSlot_issued (s : State) (c wa wb : Nat) (sel : Nat → Nat → Bool) (a b : Plan) (r y : CoreRec) (h : CanIssue s c wa wb)
    (hsel : sel (opOf wa) (opOf wb) = true) (pay : opOf wa = 1 ∨ opOf wa = 4 → Paid s c) (words : LegalWords wa wb)
    (ha : planA (s.coreEnv c).virt (issuing s c).r (s.core c).pc wa = a) (hb : planB (issuing s c).r (s.core c).pc wb = b)
    (plans : PlansPass a b) (noHalt : b.ctl ≠ .halt)
    (hi : (issuing s c).tryIssue (s.coreEnv c) wa a b none = (issuing s c).issue (s.coreEnv c) wa a b false)
    (hy : b.act (a.act (issuing s c)) = (issuing s c).setR y) (acts : ActsTo s c r y)
    (inside : (issued (s.coreEnv c) y a b).pc < 1024) :
    ∃ t, execSlot sel c s = .next t ∧ OnlyCore c s t ∧
      Cycled ((r.withQueued b).charged a.heavy) (t.core c) ∧ (t.core c).pc = (issued (s.coreEnv c) y a b).pc ∧
      (t.core c).dp = (issued (s.coreEnv c) y a b).dp := by
  obtain ⟨cycled, run, nowait, off, pc, loops, pt⟩ := acts
  have legal := leastCause_passing (s.core c).dp wa wb a b words plans h.portsFree h.noWrites
  have exec := execSlot_issue s c wa wb sel a b ((issuing s c).setR y) h hsel pay words.validA words.validB ha hb legal
    plans.soundA plans.soundB hi noHalt hy run off inside pt
  refine ⟨_, exec, ?_, ?_⟩
  · rw [State.putCx_quiet _ _ _ rfl rfl rfl, OnlyCore, State.setCore_core_self]
  · rw [State.putCx_core, Cx.countDenied_r]
    exact ⟨issued_cycled_charged _ r y a b _ cycled run nowait, rfl, rfl⟩

/-- A slot-A word beside an empty slot B whose act leaves the core as `y` issues, heavy or not, and `pend` is in flight. -/
theorem issues_slotA (cmd : Instr) {op : Nat} (s : State) (c w : Nat) (a : Plan) (r y : CoreRec) (pend : List Pend)
    (h : CanIssue s c w 0) (hw : WordA op w) (valid : validA op = true) (runs : exec cmd s = execSlot (inA op) c s)
    (pay : op = 1 ∨ op = 4 → Paid s c) (plan : planA (s.coreEnv c).virt (issuing s c).r (s.core c).pc w = a)
    (plans : PlansPass a {}) (hy : a.act (issuing s c) = (issuing s c).setR y) (acts : ActsTo s c r y)
    (flight : y.dp.pend ++ a.pend.map (fun q => ⟨(s.core c).dp.pt + q.1, q.2⟩) = pend) :
    Issues cmd s c (r.charged a.heavy) pend := by
  obtain ⟨nextPc, nextLoops, nextPt, nextPend, -⟩ := issued_next (s.coreEnv c) y a {} rfl
  rw [acts.atBundle, acts.sameLoops] at nextPc nextLoops
  rw [acts.inCycle] at nextPt nextPend
  obtain ⟨t, exec, only, cycled, pc, dp⟩ := execSlot_issued s c w 0 (inA op) a {} r y h
    (by rw [inA, hw.1]; exact decide_eq_true rfl) (fun p => pay (hw.1 ▸ p)) (.slotA hw valid) plan rfl plans (by decide)
    (Cx.tryIssue_plain _ _ _ _ _ rfl rfl rfl rfl h.running) hy acts (nextPc ▸ h.inside)
  refine ⟨t, runs.trans exec, only, cycled, ⟨pc.trans nextPc, ?_, ?_⟩, ?_⟩
  · rw [dp, nextLoops]
  · rw [dp, nextPt]
  · rw [dp, nextPend, List.append_nil, flight]

end Sys2Proof.Machine
end

section
namespace Sys2Proof.Machine

open Sys2Proof

/-! PROOFS. The vector and special-function operations of slot A (O1, O2, O3). -/

/-! ## Lanes (R109) -/

theorem vecA_get? (s : State) (c w i : Nat) (hi : i < 32) : (vecA (issuing s c).r w)[i]? = some (laneA s c w i) :=
  vlanes_get? _ _ hi

theorem vecB_get? (s : State) (c w i : Nat) (hi : i < 32) : (vecB (issuing s c).r w)[i]? = some (laneB s c w i) := by
  unfold vecB laneB
  split
  · exact tabulate_get? _ _ _ hi
  · exact vlanes_get? _ _ hi

theorem vecA_length (r : CoreRec) (w : Nat) : (vecA r w).length = 32 := vlanes_length _

theorem vecB_length (r : CoreRec) (w : Nat) : (vecB r w).length = 32 := by
  unfold vecB
  split
  · exact tabulate_length _ _
  · exact vlanes_length _

/-- The list gives every lane of a register: lane `i` is `f i`. -/
def LanesAre (l : List Nat) (f : Nat → Nat) : Prop := l.length = 32 ∧ ∀ i, i < 32 → l[i]? = some (f i)

section lanes

variable (s : State) (c w : Nat)

theorem lanesAre_map (f : Nat → Nat) : LanesAre ((vecA (issuing s c).r w).map f) fun i => f (laneA s c w i) :=
  ⟨by rw [List.length_map, vecA_length], fun i hi => by rw [List.getElem?_map, vecA_get? s c w i hi]; rfl⟩

theorem lanesAre_mapIdx (f : Nat → Nat → Nat) :
    LanesAre ((vecA (issuing s c).r w).zipIdx.map fun p => f p.1 p.2) fun i => f (laneA s c w i) i :=
  ⟨by rw [List.length_map, List.length_zipIdx, vecA_length], fun i hi => by
    rw [List.getElem?_map, List.getElem?_zipIdx, vecA_get? s c w i hi, Nat.zero_add]; rfl⟩

theorem lanesAre_zipWith (f : Nat → Nat → Nat) :
    LanesAre (List.zipWith f (vecA (issuing s c).r w) (vecB (issuing s c).r w)) fun i => f (laneA s c w i) (laneB s c w i) :=
  ⟨by rw [List.length_zipWith, vecA_length, vecB_length, Nat.min_self], fun i hi => by
    rw [List.getElem?_zipWith, vecA_get? s c w i hi, vecB_get? s c w i hi]⟩

theorem lanesAre_zip_mapIdx (f : Nat → Nat → Nat → Nat) :
    LanesAre (((vecA (issuing s c).r w).zip (vecB (issuing s c).r w)).zipIdx.map fun p => f p.1.1 p.1.2 p.2)
      fun i => f (laneA s c w i) (laneB s c w i) i :=
  ⟨by rw [List.length_map, List.length_zipIdx, List.length_zip, vecA_length, vecB_length, Nat.min_self], fun i hi => by
    rw [List.getElem?_map, List.getElem?_zipIdx, List.zip, List.getElem?_zipWith, vecA_get? s c w i hi, vecB_get? s c w i hi,
      Nat.zero_add]
    rfl⟩

end lanes

theorem lanesAre_broadcast (v : Nat) : LanesAre (broadcast v) fun _ => v :=
  ⟨tabulate_length _ _, fun i hi => tabulate_get? 32 (fun _ => v) i hi⟩

/-! ## Operations -/

/-- The plan of a slot-A operation on lanes: one register, `lat` cycles after issue, and no port. -/
def LanesPlan (a : Plan) (w lat : Nat) (l : List Nat) : Prop :=
  ∃ sf evs, a = { planLanes w lat l with sf := sf, evs := evs }

theorem lanesPlan_planLanes (w lat : Nat) (l : List Nat) : LanesPlan (planLanes w lat l) w lat l := ⟨false, [], rfl⟩

/-- An operation whose plan gives the lanes `f` is a lane operation. -/
theorem laneOp_of {cmd : Nat → Instr} {op lat : Nat} {legal : CoreRec → Nat → Prop} {f : State → Nat → Nat → Nat → Nat}
    (runs : ∀ s c, exec (cmd c) s = execSlot (inA op) c s) (valid : validA op = true ∧ op ≠ 1 ∧ op ≠ 4)
    (plan : ∀ s c w, opOf w = op → legal (s.core c) w → ∃ l,
      LanesPlan (planA (s.coreEnv c).virt (issuing s c).r (s.core c).pc w) w lat l ∧ LanesAre l (f s c w)) :
    LaneOp cmd op lat legal f := by
  intro s c w h hw hl
  obtain ⟨l, ⟨sf, evs, plan⟩, length, lanes⟩ := plan s c w hw.1 hl
  obtain ⟨valid, n1, n4⟩ := valid
  obtain ⟨t, exec, only, cycled, next, pend⟩ := issues_slotA (cmd c) s c w _ (s.core c) (issuing s c).r
    [⟨(s.core c).dp.pt + lat, .vlanes (fld w 10 6) 0 32 (vpack l)⟩] h hw valid (runs s c) (fun p => by tauto) plan
    (.of_slotA _ rfl rfl rfl rfl) rfl (actsTo_issuing s c w 0 h) (congrArg (· ++ _) h.nothingPending)
  exact ⟨t, vpack l, exec, only, cycled, next, pend, fun i hi => vlane_of_get? l i _ length (lanes i hi)⟩

/-- Table 4.10: VADD, VSUB, VMUL, VMAX and VMIN differ in their function alone. -/
theorem laneOp_bin {cmd : Nat → Instr} {op : Nat} {fn : Nat → Nat → Nat} (runs : ∀ s c, exec (cmd c) s = execSlot (inA op) c s)
    (valid : validA op = true ∧ op ≠ 1 ∧ op ≠ 4) (plan : ∀ virt r pc w, opOf w = op → planA virt r pc w = planBin fn r w) :
    LaneOp cmd op 4 always fun s c wa i => fn (laneA s c wa i) (laneB s c wa i) :=
  laneOp_of runs valid fun s c w hop _ => ⟨_, plan _ _ _ _ hop ▸ lanesPlan_planLanes _ _ _, lanesAre_zipWith s c w fn⟩

/-- Settles O1: two operands by `laneOp_bin`, VFMA with its third operand, VSCL with its scalar. -/
theorem vectorLaneResults : Obligations.VectorLaneResults := by
  refine ⟨laneOp_bin (fun _ _ => rfl) (by decide) fun _ _ _ w hop => by simp only [planA, hop]; rfl,
    laneOp_bin (fun _ _ => rfl) (by decide) fun _ _ _ w hop => by simp only [planA, hop]; rfl,
    laneOp_bin (fun _ _ => rfl) (by decide) fun _ _ _ w hop => by simp only [planA, hop]; rfl,
    laneOp_of (fun _ _ => rfl) (by decide) fun s c w hop _ => ?vfma,
    laneOp_bin (fun _ _ => rfl) (by decide) fun _ _ _ w hop => by simp only [planA, hop]; rfl,
    laneOp_bin (fun _ _ => rfl) (by decide) fun _ _ _ w hop => by simp only [planA, hop]; rfl,
    laneOp_of (fun _ _ => rfl) (by decide) fun s c w hop _ => ?vscl⟩
  case vfma =>
    obtain ⟨length, lanes⟩ := lanesAre_zip_mapIdx s c w fun a b i =>
      f32Fma a b ((vlanes ((s.core c).vreg (fld w 25 21))).getD i 0)
    refine ⟨_, by simp only [planA, hop]; exact lanesPlan_planLanes _ _ _, length, fun i hi => (lanes i hi).trans ?_⟩
    exact congrArg (fun v => some (f32Fma (laneA s c w i) (laneB s c w i) v)) (vlanes_getD _ _ hi)
  case vscl =>
    exact ⟨_, by simp only [planA, hop]; exact lanesPlan_planLanes _ _ _, lanesAre_map s c w _⟩

/-- Settles O2, by the shapes of the lane lists. -/
theorem vectorShapeResults : Obligations.VectorShapeResults := by
  refine ⟨laneOp_of (fun _ _ => rfl) (by decide) fun s c w hop plain => ?plain,
    laneOp_of (fun _ _ => rfl) (by decide) fun s c w hop drawn => ?drawn,
    laneOp_of (fun _ _ => rfl) (by decide) fun s c w hop _ => ?vhsum,
    laneOp_of (fun _ _ => rfl) (by decide) fun s c w hop _ => ?vhmax,
    laneOp_of (fun _ _ => rfl) (by decide) fun s c w hop _ => ?vbcl,
    laneOp_of (fun _ _ => rfl) (by decide) fun s c w hop _ => ?vmask⟩
  case plain =>
    have unkeyed : ¬ flag w 28 = true := by rw [plain]; decide
    exact ⟨_, by simp only [planA, hop, planVcvt, if_neg unkeyed]; exact lanesPlan_planLanes _ _ _, lanesAre_map s c w _⟩
  case drawn =>
    obtain ⟨keyed, pair⟩ := drawn
    exact ⟨_, by simp only [planA, hop, planVcvt, if_pos keyed, if_neg pair]; exact lanesPlan_planLanes _ _ _,
      lanesAre_mapIdx s c w fun a i => cvtLane (if flag w 27 then 9 else 10)
        (some (stochDraw ((s.core c).sreg (fld w 20 16)) ((s.core c).sreg (fld w 20 16 + 1)) (s.virtCore c) i)) a⟩
  case vhsum => exact ⟨_, by simp only [planA, hop]; exact lanesPlan_planLanes _ _ _, lanesAre_broadcast _⟩
  case vhmax => exact ⟨_, by simp only [planA, hop]; exact lanesPlan_planLanes _ _ _, lanesAre_broadcast _⟩
  case vbcl =>
    have lane : (vecA (issuing s c).r w).getD (fld w 20 16) 0 = laneA s c w (fld w 20 16) :=
      vlanes_getD _ _ (bits_lt w 16 5)
    exact ⟨_, by simp only [planA, hop, planVbcl, lane]; exact lanesPlan_planLanes _ _ _, lanesAre_broadcast _⟩
  case vmask => exact ⟨_, by simp only [planA, hop]; exact lanesPlan_planLanes _ _ _, lanesAre_mapIdx s c w fun a i =>
    if sext 64 ((s.core c).sreg (fld w 20 16)) + (i : Int) ≤ sext 64 ((s.core c).sreg (fld w 25 21)) then a else 0xFF800000⟩

/-- A special function meets no cause where none has issued in the three cycles before. -/
theorem lanesPlan_planSf (lat : Nat) (fn : Nat → Nat) (r : CoreRec) (w : Nat) (free : sfFree r w) :
    LanesPlan (planSf lat fn r w) w lat ((vecA r w).map fn) := by
  refine ⟨true, [0x17], ?_⟩
  cases last : r.dp.lastSf with
  | none =>
    simp only [planSf, last]
    rfl
  | some t =>
    simp only [planSf, last, decide_eq_false (Nat.not_lt.2 (free t last))]
    rfl

theorem SfOp.laneOp {cmd : Nat → Instr} {op lat : Nat} {fn : Nat → Nat} (d : SfOp cmd op lat fn) :
    LaneOp cmd op lat sfFree fun s c wa i => fn (laneA s c wa i) := by
  obtain ⟨valid, n1, -, n4⟩ := d.valid
  refine laneOp_of d.runs ⟨valid, n1, n4⟩ fun s c w hop free => ⟨_, ?_, lanesAre_map s c w fn⟩
  rw [d.plan _ _ _ _ hop]
  exact lanesPlan_planSf lat fn (issuing s c).r w free

/-- Settles O3: the operations differ in their function and latency alone. -/
theorem specialFunctionResults : Obligations.SpecialFunctionResults :=
  ⟨sfOp_vexp2.laneOp, sfOp_vlog2.laneOp, sfOp_vrcp.laneOp, sfOp_vrsq.laneOp⟩

end Sys2Proof.Machine
end

section
namespace Sys2Proof.Machine

open Sys2Proof

/-! PROOFS. The scalar operations of slot B (O4). -/

/-! ## Words (R97, R113) -/

theorem CoreRec.sreg_eq (r : CoreRec) (k : Nat) : r.sreg k = (sword r k).toNat := by
  unfold CoreRec.sreg sword
  split <;> rfl

theorem ofNat_mod_word (n : Nat) : BitVec.ofNat 64 (n % 2 ^ 64) = BitVec.ofNat 64 n :=
  BitVec.eq_of_toNat_eq (by rw [BitVec.toNat_ofNat, BitVec.toNat_ofNat, Nat.mod_mod])

theorem ofNat_toBits_word (z : Int) : BitVec.ofNat 64 (toBits 64 z) = BitVec.ofInt 64 z := by
  refine BitVec.eq_of_toNat_eq ?_
  rw [BitVec.toNat_ofNat, BitVec.toNat_ofInt, toBits]
  omega

/-- The two's complement value of a word's bits is its signed value. -/
theorem sext_toNat {n : Nat} (a : BitVec (n + 1)) : sext (n + 1) a.toNat = a.toInt := by
  have half : 2 ^ (n + 1) = 2 * 2 ^ n := by rw [Nat.pow_succ, Nat.mul_comm]
  rw [sext, Nat.mod_eq_of_lt a.isLt, BitVec.toInt, Nat.add_sub_cancel]
  refine if_congr ?_ rfl rfl
  rw [half]
  omega

theorem ofNat_boolNat (b : Bool) : BitVec.ofNat 64 (boolNat b) = truth b := by cases b <;> rfl

/-! ## What each function gives -/

section values

variable (a b : Word)

theorem alu_add : BitVec.ofNat 64 (a.toNat + b.toNat) = a + b := by
  rw [BitVec.ofNat_add, BitVec.ofNat_toNat, BitVec.ofNat_toNat, BitVec.setWidth_eq, BitVec.setWidth_eq]

theorem alu_sub : BitVec.ofNat 64 (aluSub a.toNat b.toNat) = a - b :=
  BitVec.eq_of_toNat_eq (by
    rw [BitVec.toNat_ofNat, BitVec.toNat_sub, aluSub]
    have fits := b.isLt
    omega)

theorem alu_and : BitVec.ofNat 64 (a.toNat &&& b.toNat) = a &&& b := by
  rw [← BitVec.toNat_and, BitVec.ofNat_toNat, BitVec.setWidth_eq]

theorem alu_or : BitVec.ofNat 64 (a.toNat ||| b.toNat) = a ||| b := by
  rw [← BitVec.toNat_or, BitVec.ofNat_toNat, BitVec.setWidth_eq]

theorem alu_xor : BitVec.ofNat 64 (a.toNat ^^^ b.toNat) = a ^^^ b := by
  rw [← BitVec.toNat_xor, BitVec.ofNat_toNat, BitVec.setWidth_eq]

theorem alu_shl : BitVec.ofNat 64 (aluShl a.toNat b.toNat) = a <<< (b.toNat % 64) :=
  BitVec.eq_of_toNat_eq (by rw [BitVec.toNat_ofNat, BitVec.toNat_shiftLeft, aluShl])

theorem alu_shr : BitVec.ofNat 64 (aluShr a.toNat b.toNat) = a >>> (b.toNat % 64) := by
  rw [aluShr, ← BitVec.toNat_ushiftRight, BitVec.ofNat_toNat, BitVec.setWidth_eq]

theorem alu_sar : BitVec.ofNat 64 (aluSar a.toNat b.toNat) = a.sshiftRight (b.toNat % 64) := by
  rw [aluSar, ofNat_toBits_word, sext_toNat, BitVec.sshiftRight, Int.shiftRight_eq_div_pow]

theorem alu_slt : BitVec.ofNat 64 (aluSlt a.toNat b.toNat) = truth (a.slt b) := by
  rw [aluSlt, ofNat_boolNat, sext_toNat, sext_toNat, BitVec.slt]

theorem alu_sltu : BitVec.ofNat 64 (aluSltu a.toNat b.toNat) = truth (a.ult b) := by
  rw [aluSltu, ofNat_boolNat, BitVec.ult]

theorem alu_seq : BitVec.ofNat 64 (aluSeq a.toNat b.toNat) = truth (a == b) := by
  rw [aluSeq, ofNat_boolNat, beq_eq_decide]
  exact congrArg truth (decide_eq_decide.2 BitVec.toNat_inj)

theorem alu_mul : BitVec.ofNat 64 (a.toNat * b.toNat) = a * b := by
  rw [BitVec.ofNat_mul, BitVec.ofNat_toNat, BitVec.ofNat_toNat, BitVec.setWidth_eq, BitVec.setWidth_eq]

/-- ADDI: the register and the signed immediate. -/
theorem alu_addi (v : Nat) : BitVec.ofNat 64 (toBits 64 ((a.toNat : Int) + sext 32 v)) =
    a + (BitVec.ofNat 32 v).signExtend 64 := by
  have imm : sext 32 v = (BitVec.ofNat 32 v).toInt := by
    rw [← sext_toNat, BitVec.toNat_ofNat, sext, sext, Nat.mod_mod]
  rw [ofNat_toBits_word, imm, BitVec.ofInt_add, BitVec.ofInt_natCast, BitVec.ofNat_toNat, BitVec.setWidth_eq, BitVec.signExtend]

/-- LIH: the immediate over the low half of the register. -/
theorem alu_lih (v : Nat) (hv : v < 2 ^ 32) : BitVec.ofNat 64 ((v <<< 32) + a.toNat % 2 ^ 32) =
    BitVec.ofNat 32 v ++ a.truncate 32 := by
  have low : a.toNat % 2 ^ 32 < 2 ^ 32 := Nat.mod_lt _ (by decide)
  refine BitVec.eq_of_toNat_eq ?_
  rw [BitVec.toNat_ofNat, BitVec.toNat_append, BitVec.toNat_ofNat, BitVec.truncate_eq_setWidth, BitVec.toNat_setWidth,
    Nat.mod_eq_of_lt hv, ← Nat.shiftLeft_add_eq_or_of_lt low, Nat.shiftLeft_eq]
  omega

end values

/-! ## Operations -/

/-- A plan of one scalar result meets no cause and passes no wait. -/
theorem withS_plain (k lat v : Nat) : ∃ writes pend, withS {} k lat v = { writes := writes, pend := pend } ∧
    clash writes [] = false := by
  unfold withS
  split
  · exact ⟨[], [], rfl, rfl⟩
  · exact ⟨_, _, rfl, rfl⟩

/-- A slot-B operation whose plan is one scalar result. -/
theorem scalarOp_of {cmd : Nat → Instr} {op lat : Nat} {f : CoreRec → Nat → Word} (value : CoreRec → Nat → Nat)
    (runs : ∀ s c, exec (cmd c) s = execSlot (inB op) c s) (valid : validB op = true)
    (plan : ∀ r pc w, opOf w = op → planB r pc w = withS {} (fld w 10 6) lat (value r w))
    (same : ∀ s c w, BitVec.ofNat 64 (value (issuing s c).r w) = f (s.core c) w) : ScalarOp cmd op lat f := by
  intro s c w h hw
  have planned := plan (issuing s c).r (s.core c).pc w hw.1
  have flight := withS_pend {} (issuing s c).r (fld w 10 6) lat (value (issuing s c).r w)
  obtain ⟨writes, pend, plain, apart⟩ := withS_plain (fld w 10 6) lat (value (issuing s c).r w)
  rw [plain, same] at flight
  refine issues_slotB _ (inB op) s c w _ (s.core c) (issuing s c).r (s.core c) _ h hw valid (runs s c) (decide_eq_true rfl)
    (planned.trans plain) (.of_slotB _ rfl rfl rfl apart rfl) (Cx.tryIssue_plain _ _ _ _ _ rfl rfl rfl rfl h.running) rfl
    (actsTo_issuing s c 0 w h) rfl ?_
  exact (congrArg (· ++ _) h.nothingPending).trans flight

/-- An operation of two scalar operands. -/
theorem scalarOp_alu {cmd : Nat → Instr} {op lat : Nat} (fn : Word → Word → Word) (alu : Nat → Nat → Nat)
    (runs : ∀ s c, exec (cmd c) s = execSlot (inB op) c s) (valid : validB op = true)
    (plan : ∀ r pc w, opOf w = op → planB r pc w = planAlu alu lat r w)
    (value : ∀ a b : Word, BitVec.ofNat 64 (alu a.toNat b.toNat) = fn a b) :
    ScalarOp cmd op lat fun r w => fn (sa r w) (sb r w) :=
  scalarOp_of (fun r w => alu (r.sreg (fld w 15 11)) (r.sreg (fld w 20 16)) % 2 ^ 64) runs valid plan fun s c w => by
    rw [ofNat_mod_word, CoreRec.sreg_eq, CoreRec.sreg_eq, value]
    rfl

/-- Settles O4: the operations of two operands by their functions, the others by their values. -/
theorem scalarResults : Obligations.ScalarResults := by
  refine ⟨scalarOp_alu (· + ·) (· + ·) (fun _ _ => rfl) rfl (fun _ _ _ hop => ?_) alu_add,
    scalarOp_alu (· - ·) aluSub (fun _ _ => rfl) rfl (fun _ _ _ hop => ?_) alu_sub,
    scalarOp_alu (· &&& ·) (· &&& ·) (fun _ _ => rfl) rfl (fun _ _ _ hop => ?_) alu_and,
    scalarOp_alu (· ||| ·) (· ||| ·) (fun _ _ => rfl) rfl (fun _ _ _ hop => ?_) alu_or,
    scalarOp_alu (· ^^^ ·) (· ^^^ ·) (fun _ _ => rfl) rfl (fun _ _ _ hop => ?_) alu_xor,
    scalarOp_alu (fun a b => a <<< (b.toNat % 64)) aluShl (fun _ _ => rfl) rfl (fun _ _ _ hop => ?_) alu_shl,
    scalarOp_alu (fun a b => a >>> (b.toNat % 64)) aluShr (fun _ _ => rfl) rfl (fun _ _ _ hop => ?_) alu_shr,
    scalarOp_alu (fun a b => a.sshiftRight (b.toNat % 64)) aluSar (fun _ _ => rfl) rfl (fun _ _ _ hop => ?_) alu_sar,
    scalarOp_alu (fun a b => truth (a.slt b)) aluSlt (fun _ _ => rfl) rfl (fun _ _ _ hop => ?_) alu_slt,
    scalarOp_alu (fun a b => truth (a.ult b)) aluSltu (fun _ _ => rfl) rfl (fun _ _ _ hop => ?_) alu_sltu,
    scalarOp_alu (fun a b => truth (a == b)) aluSeq (fun _ _ => rfl) rfl (fun _ _ _ hop => ?_) alu_seq,
    scalarOp_alu (· * ·) (· * ·) (fun _ _ => rfl) rfl (fun _ _ _ hop => ?_) alu_mul,
    scalarOp_of (fun r w => toBits 64 ((r.sreg (fld w 15 11) : Int) + sext 32 (fld w 47 16))) (fun _ _ => rfl) rfl
      (fun _ _ _ hop => ?_) fun s c w => ?addi,
    scalarOp_of (fun r w => (fld w 47 16 <<< 32) + r.sreg (fld w 10 6) % 2 ^ 32) (fun _ _ => rfl) rfl
      (fun _ _ _ hop => ?_) fun s c w => ?lih,
    scalarOp_of (fun r w => vlane (r.vreg (fld w 15 11)) (fld w 20 16)) (fun _ _ => rfl) rfl
      (fun _ _ _ hop => ?_) fun s c w => ?movv,
    scalarOp_of (fun r _ => r.dp.gf.toNat) (fun _ _ => rfl) rfl
      (fun _ _ _ hop => ?_) fun s c w => ?movgf⟩
  case addi =>
    rw [CoreRec.sreg_eq, alu_addi]
    rfl
  case lih =>
    rw [CoreRec.sreg_eq, alu_lih _ (fld w 47 16) (bits_lt w 16 32)]
    rfl
  case movv => rfl
  case movgf => exact BitVec.ofNat_toNat 64 _
  all_goals simp only [planB, hop]; rfl

end Sys2Proof.Machine
end

section
namespace Sys2Proof.Machine

open Sys2Proof

/-! PROOFS. Post-increments, and the loads and stores of slot B (O5). -/

/-! ## Port beats and results that do not meet -/

theorem clash_nil_iff (l : List (Nat × Nat)) : clash l [] = false ↔ l.Nodup := by
  induction l with
  | nil => exact ⟨fun _ => List.nodup_nil, fun _ => rfl⟩
  | cons p r ih =>
    rw [List.nodup_cons, ← ih, clash, List.contains_nil, Bool.or_false, Bool.or_eq_false_iff, Bool.eq_false_iff, ne_eq,
      List.contains_iff_mem]

theorem mem_tabulate {α : Type} (n : Nat) (f : Nat → α) (q : α) : q ∈ tabulate n f ↔ ∃ i, i < n ∧ f i = q := by
  simp only [tabulate, List.mem_map, List.mem_range]

theorem tabulate_nodup {α : Type} (n : Nat) (f : Nat → α) (h : ∀ i j, f i = f j → i = j) : (tabulate n f).Nodup :=
  List.nodup_range.map h

theorem twoBeats_nodup (ss : Nat) : [(ss, 0), (ss, 1)].Nodup := by simp

/-! ## Post-increments (R111) -/

/-- The increment of a base register, in flight. -/
def basePost (r : CoreRec) (rb step : Nat) : List Pend :=
  if step = 0 then [] else scalarDue r rb 1 (sword r rb + BitVec.ofNat 64 step)

/-- A post-increment adds one result to a plan, a cycle after issue, and changes nothing else of it. -/
theorem withPost_eq (p : Plan) (r : CoreRec) (rb step : Nat) (nodup : p.writes.Nodup) (later : ∀ q ∈ p.writes, q.2 ≠ 1) :
    ∃ writes pend, withPost p r rb step = { p with writes := writes, pend := p.pend ++ pend } ∧ clash writes [] = false ∧
      pend.map (fun q => (⟨r.dp.pt + q.1, q.2⟩ : Pend)) = basePost r rb step := by
  have alone : clash p.writes [] = false := (clash_nil_iff _).2 nodup
  have value : BitVec.ofNat 64 (r.sreg rb + step) = sword r rb + BitVec.ofNat 64 step := by
    rw [BitVec.ofNat_add, CoreRec.sreg_eq, BitVec.ofNat_toNat, BitVec.setWidth_eq]
  unfold withPost withS basePost scalarDue
  rw [value]
  split
  · exact ⟨p.writes, [], by rw [List.append_nil], alone, rfl⟩
  · split
    · exact ⟨p.writes, [], by rw [List.append_nil], alone, rfl⟩
    · refine ⟨_, _, rfl, (clash_nil_iff _).2 (List.nodup_append.2 ⟨nodup, List.nodup_singleton _, ?_⟩), rfl⟩
      intro q hq k hk same
      obtain rfl := List.mem_singleton.1 hk
      exact later q hq (congrArg Prod.snd same)

/-- A plan that asks for no check beyond its address, and for no wait, queue or branch. -/
structure PlainPlan (p : Plan) : Prop where
  legal : p.illegal = []
  sound : p.fault = none
  nowait : p.wait = none
  noRead : p.waitRead = none
  noShut : p.shut = none
  noStep : p.step = none
  next : p.ctl = .seq
  ports : p.ports.Nodup
  writes : p.writes.Nodup
  later : ∀ q ∈ p.writes, q.2 ≠ 1

/-- The core as its issue finds it, with these stores and these results in flight. -/
def accessed (s : State) (c : Nat) (st : Stores) (pend : List Pend) : CoreRec :=
  { (issuing s c).r with stores := st, dp := { (s.core c).dp with pend := pend } }

theorem actsTo_accessed (s : State) (c wa wb : Nat) (h : CanIssue s c wa wb) (st : Stores) (pend : List Pend) :
    ActsTo s c { s.core c with stores := st } (accessed s c st pend) :=
  ⟨rfl, h.running, h.notWaiting, h.countersOff, rfl, rfl, rfl⟩

/-- A slot-B word with a base register: its act, its beats and its increment. -/
theorem issues_withPost (cmd : Instr) {op : Nat} (s : State) (c w step : Nat) (p : Plan) (st : Stores) (first : List Pend)
    (h : CanIssue s c 0 w) (hw : WordB op w) (valid : validB op = true) (runs : exec cmd s = execSlot (inB op) c s)
    (plan : planB (issuing s c).r (s.core c).pc w = withPost p (issuing s c).r (fld w 15 11) step) (plain : PlainPlan p)
    (act : p.act (issuing s c) = (issuing s c).setR (accessed s c st first)) :
    Issues cmd s c { s.core c with stores := st }
      (first ++ p.pend.map (fun q => ⟨(s.core c).dp.pt + q.1, q.2⟩) ++ postDue (s.core c) w step) := by
  obtain ⟨legal, sound, nowait, noRead, noShut, noStep, next, ports, writes, later⟩ := plain
  obtain ⟨writes, pend, planned, apart, post⟩ := withPost_eq p (issuing s c).r (fld w 15 11) step writes later
  refine issues_slotB cmd (inB op) s c w _ _ (accessed s c st first) _ _ h hw valid runs (decide_eq_true rfl)
    (plan.trans planned) (.of_slotB _ legal sound ((clash_nil_iff _).2 ports) apart next)
    (Cx.tryIssue_plain _ _ _ _ _ nowait noRead noShut noStep h.running) act (actsTo_accessed s c 0 w h st first)
    (CoreRec.withQueued_none _ _ noShut noStep) ?_
  rw [List.map_append, ← List.append_assoc]
  exact congrArg (_ ++ ·) post

/-! ## Acts on clean stores (R59) -/

section acts

variable (s : State) (c wa wb : Nat) (h : CanIssue s c wa wb)

include h

theorem issuing_clean : (issuing s c).r.stores.ecc = [] := h.noErrors

theorem issuing_addsPend (e : Pend) : (issuing s c).modDp (fun d => { d with pend := d.pend ++ [e] }) =
    (issuing s c).setR (accessed s c (s.core c).stores [e]) := by
  rw [Cx.modDp, show (issuing s c).r.dp.pend = [] from h.nothingPending]
  rfl

/-- An act that only changes the stores. -/
theorem issuing_withStores (st : Stores) :
    (issuing s c).mod (fun r => { r with stores := st }) = (issuing s c).setR (accessed s c st []) := by
  rw [accessed, ← h.nothingPending]
  rfl

theorem issuing_write (ss off n v : Nat) : (issuing s c).write ss off n v =
    (issuing s c).setR (accessed s c ((s.core c).stores.write ss off n v) []) :=
  issuing_withStores s c wa wb h _

/-- A read without an error whose result comes into flight. -/
theorem issuing_dpRead (ss off n : Nat) : (issuing s c).dpRead ss off n = (issuing s c, (s.core c).stores.read ss off n) :=
  Cx.dpRead_clean _ _ _ _ h.noErrors

theorem issuing_ldBeat (v lo n ss off : Nat) : (issuing s c).ldBeat (issuing s c).r.dp.pt v lo n ss off =
    (issuing s c).setR (accessed s c (s.core c).stores
      [⟨(s.core c).dp.pt + 2, .vlanes v lo n (BitVec.ofNat 1024 ((s.core c).stores.read ss off (4 * n) <<< (32 * lo)))⟩]) := by
  simp only [Cx.ldBeat, issuing_dpRead s c wa wb h, issuing_not_frozen s c wa wb h, if_false, Bool.false_eq_true]
  exact issuing_addsPend s c wa wb h _

/-- A one-line block with the tag that the bundle names is widened (R112). -/
theorem issuing_vldwLand (v fmt pc blk due : Nat)
    (tag : tagScaled fmt = true → bits (blk >>> (8 * sbElemBytes fmt)) 8 4 = fmt) :
    (issuing s c).vldwLand v fmt pc blk due = (issuing s c).setR (accessed s c (s.core c).stores
      [⟨due, .vlanes v 0 32 (vpack (tabulate 32 fun i =>
        widen fmt (bits (blk >>> (8 * sbElemBytes fmt)) 0 8) (bits blk (tagWidth fmt * i) (tagWidth fmt))))⟩]) := by
  have named : (if tagScaled fmt then bits (blk >>> (8 * sbElemBytes fmt)) 8 4 else fmt) = fmt := by
    split
    case isTrue scaled => exact tag scaled
    case isFalse => rfl
  simp only [Cx.vldwLand, named, ne_eq, not_true_eq_false, if_false]
  exact issuing_addsPend s c wa wb h _

/-- An access by a set or clear window (R58). -/
theorem issuing_dpRmw (off : Nat) (set : Bool) (m : Word) : (issuing s c).dpRmw off set m.toNat = (issuing s c).setR
    (accessed s c ((s.core c).stores.write 1 off 8 (aliasWord set ((s.core c).stores.read 1 off 8) m.toNat)) []) :=
  (Cx.dpRmw_clean _ _ _ _ h.noErrors m.isLt).trans (issuing_write s c wa wb h _ _ _ _)

end acts

theorem toNat_ofNat_read (st : Stores) (off : Nat) : (BitVec.ofNat 64 (st.read 1 off 8)).toNat = st.read 1 off 8 :=
  Nat.mod_eq_of_lt (st.read_lt 1 off 8)

theorem aliasWord_set (st : Stores) (off : Nat) (m : Word) :
    aliasWord true (st.read 1 off 8) m.toNat = (BitVec.ofNat 64 (st.read 1 off 8) ||| m).toNat := by
  rw [BitVec.toNat_or, toNat_ofNat_read]
  rfl

theorem aliasWord_clear (st : Stores) (off : Nat) (m : Word) :
    aliasWord false (st.read 1 off 8) m.toNat = (BitVec.ofNat 64 (st.read 1 off 8) &&& ~~~m).toNat := by
  rw [BitVec.toNat_and, toNat_ofNat_read, BitVec.toNat_not, aliasWord, compl, Nat.mod_eq_of_lt m.isLt]
  rfl

/-! ## Loads and stores (R111, R112) -/

/-- The bits that STV stores: the register, or its lanes in 16 bits each (R84). -/
def stvData (v : VReg) (pk : Nat) : Nat :=
  if pk = 0 then v.toNat else packFields 16 32 fun i => (roundHalf (if pk = 1 then 10 else 9) none (vlane v i)).1

section accesses

variable (s : State) (c w : Nat) (h : CanIssue s c 0 w)

include h

theorem issues_ldv (hw : WordB 0x02 w)
    (ok : accessOk [1, 2] (fld w 18 16) (memOff (s.core c) w) 128 (if fld w 18 16 = 2 then 64 else 32) = true) :
    let n := beatLanes (fld w 18 16)
    Issues (.ldv c) s c (s.core c)
      ([⟨(s.core c).dp.pt + 2, .vlanes (fld w 10 6) 0 n
        (BitVec.ofNat 1024 ((s.core c).stores.read (fld w 18 16) (memOff (s.core c) w) (4 * n)))⟩] ++
        (tabulate (32 / n - 1) fun j => ⟨(s.core c).dp.pt + (j + 1),
          .ldBeat (fld w 10 6) ((j + 1) * n) n (fld w 18 16) (memOff (s.core c) w + 4 * n * (j + 1))⟩) ++
        postDue (s.core c) w (32 * fld w 45 38)) := by
  have plan : planB (issuing s c).r (s.core c).pc w = planLdv (issuing s c).r w := by simp only [planB, hw.1]
  have ok' : accessOk [1, 2] (fld w 18 16) (baseOff (issuing s c).r (fld w 15 11) (fld w 37 19)) 128
    (if fld w 18 16 = 2 then 64 else 32) = true := ok
  simp only [planLdv, ok', if_true] at plan
  have issues := issues_withPost (.ldv c) s c w _ _ _ _ h hw rfl rfl plan
    ⟨rfl, rfl, rfl, rfl, rfl, rfl, rfl, tabulate_nodup _ _ fun _ _ e => congrArg Prod.snd e,
      tabulate_nodup _ _ fun _ _ e => Nat.add_right_cancel (congrArg Prod.snd e), fun q hq => by
        obtain ⟨j, -, rfl⟩ := (mem_tabulate _ _ _).1 hq
        exact Nat.succ_succ_ne_one j⟩ (issuing_ldBeat s c 0 w h _ _ _ _ _)
  simp only [tabulate, List.map_map, Nat.mul_zero, Nat.shiftLeft_zero] at issues
  exact issues

theorem issues_stv (hw : WordB 0x03 w) (packed : fld w 47 46 ≠ 3)
    (ok : accessOk [1, 2] (fld w 18 16) (memOff (s.core c) w) (if fld w 47 46 = 0 then 128 else 64)
      (if fld w 18 16 = 2 then 64 else 32) = true) :
    let n := 4 * beatLanes (fld w 18 16)
    let data := stvData ((s.core c).vreg (fld w 10 6)) (fld w 47 46)
    Issues (.stv c) s c { s.core c with
        stores := (s.core c).stores.write (fld w 18 16) (memOff (s.core c) w) n (bits data 0 (8 * n)) }
      ((tabulate ((if fld w 47 46 = 0 then 128 else 64) / n - 1) fun j => ⟨(s.core c).dp.pt + (j + 1),
          .store (fld w 18 16) (memOff (s.core c) w + n * (j + 1)) n (bits data (8 * n * (j + 1)) (8 * n))⟩) ++
        postDue (s.core c) w (32 * fld w 45 38)) := by
  have plan : planB (issuing s c).r (s.core c).pc w = planStv (issuing s c).r w := by simp only [planB, hw.1]
  have ok' : accessOk [1, 2] (fld w 18 16) (baseOff (issuing s c).r (fld w 15 11) (fld w 37 19))
    (if fld w 47 46 = 0 then 128 else 64) (if fld w 18 16 = 2 then 64 else 32) = true := ok
  simp only [planStv, packed, ok', if_true, if_false] at plan
  have issues := issues_withPost (.stv c) s c w _ _ _ _ h hw rfl rfl plan
    ⟨rfl, rfl, rfl, rfl, rfl, rfl, rfl, tabulate_nodup _ _ fun _ _ e => congrArg Prod.snd e, List.nodup_nil,
      fun _ hq => absurd hq List.not_mem_nil⟩ (issuing_write s c 0 w h _ _ _ _)
  simp only [tabulate, List.map_map, List.nil_append] at issues
  exact issues

omit h in
theorem vldwFmt_legal {fmt : Nat} (hf : fmt ∈ [1, 2, 4, 5, 6, 7, 8, 9, 10]) : ¬ (fmt = 0 ∨ fmt = 3 ∨ fmt ≥ 0xB) := by
  simp only [List.mem_cons, List.not_mem_nil, or_false] at hf
  omega

theorem issues_vldw_two (hw : WordB 0x04 w) (fmt : fld w 51 48 ∈ [1, 2, 4, 5, 6, 7, 8, 9, 10]) (two : sbLines (fld w 51 48) = 2)
    (ok : accessOk [1] 1 (memOff (s.core c) w) 64 32 = true) :
    Issues (.vldw c) s c (s.core c) ([⟨(s.core c).dp.pt + 1, .vldw2 (fld w 10 6) (fld w 51 48) (memOff (s.core c) w) (s.core c).pc
      ((s.core c).stores.read 1 (memOff (s.core c) w) 32)⟩] ++ postDue (s.core c) w (32 * fld w 45 38)) := by
  have plan : planB (issuing s c).r (s.core c).pc w = planVldw (issuing s c).r (s.core c).pc w := by simp only [planB, hw.1]
  have ok' : accessOk [1] 1 (baseOff (issuing s c).r (fld w 15 11) (fld w 37 19)) 64 32 = true := ok
  simp only [planVldw, vldwFmt_legal fmt, two, decide_true, ok', if_true, if_false] at plan
  exact issues_withPost (.vldw c) s c w _ _ _ _ h hw rfl rfl plan
    ⟨rfl, rfl, rfl, rfl, rfl, rfl, rfl, twoBeats_nodup _, List.nodup_singleton _, by simp⟩ (by
      simp only [issuing_dpRead s c 0 w h, issuing_not_frozen s c 0 w h, if_false, Bool.false_eq_true]
      exact issuing_addsPend s c 0 w h _)

theorem issues_vldw_one (hw : WordB 0x04 w) (fmt : fld w 51 48 ∈ [1, 2, 4, 5, 6, 7, 8, 9, 10]) (one : sbLines (fld w 51 48) ≠ 2)
    (ok : accessOk [1] 1 (memOff (s.core c) w) 32 32 = true) :
    let first := (s.core c).stores.read 1 (memOff (s.core c) w) 32
    let sw := first >>> (8 * sbElemBytes (fld w 51 48))
    (tagScaled (fld w 51 48) = true → bits sw 8 4 = fld w 51 48) →
    Issues (.vldw c) s c (s.core c) ([⟨(s.core c).dp.pt + 3, .vlanes (fld w 10 6) 0 32 (vpack (tabulate 32 fun i =>
      widen (fld w 51 48) (bits sw 0 8) (bits first (tagWidth (fld w 51 48) * i) (tagWidth (fld w 51 48)))))⟩] ++
        postDue (s.core c) w (32 * fld w 45 38)) := by
  intro first sw tag
  have plan : planB (issuing s c).r (s.core c).pc w = planVldw (issuing s c).r (s.core c).pc w := by simp only [planB, hw.1]
  have ok' : accessOk [1] 1 (baseOff (issuing s c).r (fld w 15 11) (fld w 37 19)) 32 32 = true := ok
  simp only [planVldw, vldwFmt_legal fmt, one, decide_false, ok', if_true, if_false, Bool.false_eq_true] at plan
  exact issues_withPost (.vldw c) s c w _ _ _ _ h hw rfl rfl plan
    ⟨rfl, rfl, rfl, rfl, rfl, rfl, rfl, List.nodup_singleton _, List.nodup_singleton _, by simp⟩ (by
      simp only [issuing_dpRead s c 0 w h, issuing_not_frozen s c 0 w h, if_false, Bool.false_eq_true]
      exact issuing_vldwLand s c 0 w h _ _ _ _ _ tag)

theorem issues_ldb (hw : WordB 0x05 w) (row : baseOff (s.core c) (fld w 15 11) (fld w 26 16) ≤ 1535) :
    Issues (.ldb c) s c (s.core c) ([⟨(s.core c).dp.pt + 3, .vlanes (fld w 10 6) 0 32 (BitVec.ofNat 1024
      ((s.core c).stores.read 0 (256 * baseOff (s.core c) (fld w 15 11) (fld w 26 16) + 128 * boolNat (flag w 27)) 128))⟩] ++
        postDue (s.core c) w (fld w 30 28)) := by
  have plan : planB (issuing s c).r (s.core c).pc w = planLdb (issuing s c).r w := by simp only [planB, hw.1]
  have inside : ¬ baseOff (issuing s c).r (fld w 15 11) (fld w 26 16) > 1535 := Nat.not_lt.2 row
  simp only [planLdb, inside, if_false] at plan
  have issues := issues_withPost (.ldb c) s c w _ _ _ _ h hw rfl rfl plan
    ⟨rfl, rfl, rfl, rfl, rfl, rfl, rfl, List.nodup_singleton _, List.nodup_singleton _, by simp⟩ (by
      simp only [issuing_dpRead s c 0 w h, issuing_not_frozen s c 0 w h, if_false, Bool.false_eq_true]
      exact issuing_addsPend s c 0 w h _)
  exact issues

theorem issues_lds (hw : WordB 0x06 w) (ok : accessOk [1, 2, 5, 6] (fld w 18 16) (memOff (s.core c) w) 8 8 = true) :
    Issues (.lds c) s c (s.core c) (scalarDue (s.core c) (fld w 10 6) 2
      (BitVec.ofNat 64 ((s.core c).stores.read (realSs (fld w 18 16)) (memOff (s.core c) w) 8)) ++
        postDue (s.core c) w (8 * fld w 45 38)) := by
  have plan : planB (issuing s c).r (s.core c).pc w = planLds (issuing s c).r w := by simp only [planB, hw.1]
  have ok' : accessOk [1, 2, 5, 6] (fld w 18 16) (baseOff (issuing s c).r (fld w 15 11) (fld w 37 19)) 8 8 = true := ok
  simp only [planLds, ok', if_true] at plan
  unfold scalarDue
  by_cases discard : fld w 10 6 = 0
  · simp only [discard, if_true, decide_true, Bool.or_true] at plan ⊢
    exact issues_withPost (.lds c) s c w _ _ _ [] h hw rfl rfl plan
      ⟨rfl, rfl, rfl, rfl, rfl, rfl, rfl, List.nodup_singleton _, List.nodup_nil, fun _ hq => absurd hq List.not_mem_nil⟩ (by
        simp only [issuing_dpRead s c 0 w h]
        exact issuing_withStores s c 0 w h _)
  · simp only [discard, if_false, decide_false, Bool.or_false] at plan ⊢
    exact issues_withPost (.lds c) s c w _ _ _ _ h hw rfl rfl plan
      ⟨rfl, rfl, rfl, rfl, rfl, rfl, rfl, List.nodup_singleton _, List.nodup_singleton _, by simp⟩ (by
        simp only [issuing_dpRead s c 0 w h, issuing_not_frozen s c 0 w h, if_false, Bool.false_eq_true]
        exact issuing_addsPend s c 0 w h _)

/-- STS to a plain store, and by the set and the clear window. -/
theorem issues_sts (hw : WordB 0x07 w) (ok : accessOk [1, 2, 5, 6] (fld w 18 16) (memOff (s.core c) w) 8 8 = true) :
    let ss := fld w 18 16
    let off := memOff (s.core c) w
    let v := sword (s.core c) (fld w 10 6)
    let old := BitVec.ofNat 64 ((s.core c).stores.read 1 off 8)
    Issues (.sts c) s c { s.core c with
      stores :=
        if ss = 5 then (s.core c).stores.write 1 off 8 (old ||| v).toNat
        else if ss = 6 then (s.core c).stores.write 1 off 8 (old &&& ~~~v).toNat
        else (s.core c).stores.write ss off 8 v.toNat } (postDue (s.core c) w (8 * fld w 45 38)) := by
  intro ss off v old
  have plan : planB (issuing s c).r (s.core c).pc w = planSts (issuing s c).r w := by simp only [planB, hw.1]
  have ok' : accessOk [1, 2, 5, 6] (fld w 18 16) (baseOff (issuing s c).r (fld w 15 11) (fld w 37 19)) 8 8 = true := ok
  simp only [planSts, ok', if_true, CoreRec.sreg_eq] at plan
  by_cases set : ss = 5
  · rw [if_pos set, ← aliasWord_set]
    simp only [show fld w 18 16 = 5 from set, true_or, if_true, decide_true] at plan
    exact issues_withPost (.sts c) s c w _ _ _ [] h hw rfl rfl plan
      ⟨rfl, rfl, rfl, rfl, rfl, rfl, rfl, twoBeats_nodup _, List.nodup_nil, fun _ hq => absurd hq List.not_mem_nil⟩
      (issuing_dpRmw s c 0 w h _ true v)
  · by_cases clear : ss = 6
    · rw [if_neg set, if_pos clear, ← aliasWord_clear]
      simp only [show fld w 18 16 = 6 from clear, or_true, if_true] at plan
      exact issues_withPost (.sts c) s c w _ _ _ [] h hw rfl rfl plan
        ⟨rfl, rfl, rfl, rfl, rfl, rfl, rfl, twoBeats_nodup _, List.nodup_nil, fun _ hq => absurd hq List.not_mem_nil⟩
        (issuing_dpRmw s c 0 w h _ false v)
    · rw [if_neg set, if_neg clear]
      simp only [show ¬ fld w 18 16 = 5 from set, show ¬ fld w 18 16 = 6 from clear, or_self, if_false] at plan
      exact issues_withPost (.sts c) s c w _ _ _ [] h hw rfl rfl plan
        ⟨rfl, rfl, rfl, rfl, rfl, rfl, rfl, List.nodup_singleton _, List.nodup_nil, fun _ hq => absurd hq List.not_mem_nil⟩
        (issuing_write s c 0 w h _ _ _ _)

end accesses

/-- Settles O5, word by word. -/
theorem loadStoreEffects : Obligations.LoadStoreEffects :=
  fun s c w h => ⟨issues_ldv s c w h, issues_stv s c w h,
    fun hw fmt => ⟨issues_vldw_two s c w h hw fmt, issues_vldw_one s c w h hw fmt⟩, issues_ldb s c w h, issues_lds s c w h,
    issues_sts s c w h⟩

end Sys2Proof.Machine
end

section
namespace Sys2Proof.Machine

open Sys2Proof

/-! PROOFS. Branches and loops (O6). -/

/-! ## Slot-B words with control flow -/

/-- A slot-B word without results goes on. -/
theorem issues_empty (cmd : Instr) {op : Nat} (s : State) (c w : Nat) (h : CanIssue s c 0 w) (hw : WordB op w)
    (valid : validB op = true) (runs : exec cmd s = execSlot (inB op) c s)
    (plan : planB (issuing s c).r (s.core c).pc w = {}) : Issues cmd s c (s.core c) [] :=
  issues_slotB cmd (inB op) s c w {} (s.core c) (issuing s c).r (s.core c) [] h hw valid runs (decide_eq_true rfl) plan
    (.of_slotB _ rfl rfl rfl rfl rfl) (Cx.tryIssue_plain _ _ _ _ _ rfl rfl rfl rfl h.running) rfl (actsTo_issuing s c 0 w h) rfl
    (by rw [List.map_nil, List.append_nil]; exact h.nothingPending)

/-- A slot-B word that takes a branch. -/
theorem branches_slotB (cmd : Instr) {op : Nat} (s : State) (c w target : Nat) (h : CanIssue s c 0 w) (hw : WordB op w)
    (valid : validB op = true) (runs : exec cmd s = execSlot (inB op) c s) (inside : target < 1024)
    (plan : planB (issuing s c).r (s.core c).pc w = { ctl := .branch target }) : Branches cmd s c target := by
  obtain ⟨nextPc, loops, pt, pend⟩ := issued_branch (s.coreEnv c) (issuing s c).r {} { ctl := .branch target } target rfl
  obtain ⟨t, exec, only, cycled, pc, dp⟩ := execSlot_issued s c 0 w (inB op) {} { ctl := .branch target } (s.core c)
    (issuing s c).r h (by rw [inB, hw.1]; exact decide_eq_true rfl) (fun p => absurd p (by decide)) (.slotB hw valid) rfl plan
    (.of_slotB _ rfl rfl rfl rfl) (by simp) (Cx.tryIssue_plain _ _ _ _ _ rfl rfl rfl rfl h.running) rfl
    (actsTo_issuing s c 0 w h) (nextPc ▸ inside)
  refine ⟨t, runs.trans exec, only, cycled, pc.trans nextPc, ?_, ?_, ?_⟩
  · rw [dp, pend, show (issuing s c).r.dp.pend = [] from h.nothingPending]
    rfl
  · rw [dp, pt]
    rfl
  · rw [dp, loops]
    rfl

section words

variable (s : State) (c w : Nat) (h : CanIssue s c 0 w)

include h

/-- A conditional branch goes to its target or on. -/
theorem branches_or_issues (cmd : Instr) {op : Nat} (taken : Bool) (hw : WordB op w) (valid : validB op = true)
    (runs : exec cmd s = execSlot (inB op) c s) (plan : planB (issuing s c).r (s.core c).pc w = planTaken taken w) :
    (taken = true → Branches cmd s c (fld w 25 16)) ∧ (taken = false → Issues cmd s c (s.core c) []) := by
  constructor
  · rintro rfl
    exact branches_slotB cmd s c w _ h hw valid runs (bits_lt w 16 10) plan
  · rintro rfl
    exact issues_empty cmd s c w h hw valid runs plan

/-! ## Loops (R115) -/

omit h in
theorem sreg_add_mod (r : CoreRec) (k v : Nat) : (r.sreg k + v) % 2 ^ 64 = (sword r k + BitVec.ofNat 64 v).toNat := by
  rw [CoreRec.sreg_eq, BitVec.toNat_add, BitVec.toNat_ofNat, Nat.add_mod_mod]

omit h in
/-- A LOOP whose body lies inside the loops around it. -/
theorem planLoop_legal (r : CoreRec) (pc w : Nat) (body : pc < fld w 36 27) (free : r.dp.loops.length < 4)
    (inner : ∀ l ∈ r.dp.loops.head?, fld w 36 27 ≤ l.last)
    (fits : (sword r (fld w 10 6) + BitVec.ofNat 64 (fld w 26 11)).toNat ≤ 65535) :
    planLoop r pc w =
      if (sword r (fld w 10 6) + BitVec.ofNat 64 (fld w 26 11)).toNat = 0 then { ctl := .branch (fld w 36 27 + 1) }
      else { ctl := .loop (sword r (fld w 10 6) + BitVec.ofNat 64 (fld w 26 11)).toNat (fld w 36 27) } := by
  unfold planLoop
  simp only [sreg_add_mod]
  generalize (sword r (fld w 10 6) + BitVec.ofNat 64 (fld w 26 11)).toNat = count at fits ⊢
  generalize fld w 36 27 = last at body inner ⊢
  have ahead : ¬ last < pc ∧ ¬ last = pc ∧ ¬ count > 65535 ∧ ¬ r.dp.loops.length ≥ 4 := by omega
  obtain ⟨notBefore, notSame, fits, free⟩ := ahead
  cases loops : r.dp.loops with
  | nil => simp [notBefore, notSame, fits]
  | cons l rest =>
    rw [loops] at free inner
    have within : ¬ last > l.last := Nat.not_lt.2 (inner l rfl)
    simp only [notBefore, notSame, fits, free, within, decide_false, and_false, or_false, if_false, Bool.false_eq_true]
    rfl

theorem loop_pushes (hw : WordB 0x1C w) (body : (s.core c).pc < fld w 36 27) (free : (s.core c).dp.loops.length < 4)
    (inner : ∀ l ∈ (s.core c).dp.loops.head?, fld w 36 27 ≤ l.last) (inside : (s.core c).pc + 1 < 1024) :
    let count := sword (s.core c) (fld w 10 6) + BitVec.ofNat 64 (fld w 26 11)
    count ≠ 0 → count.toNat ≤ 65535 →
    ∃ t, exec (.loop c) s = .next t ∧ OnlyCore c s t ∧ Cycled (s.core c) (t.core c) ∧ (t.core c).pc = (s.core c).pc + 1 ∧
      (t.core c).dp.loops = ⟨(s.core c).pc + 1, fld w 36 27, count.toNat, 0⟩ :: (s.core c).dp.loops := by
  intro count some_ fits
  have nonzero : ¬ count.toNat = 0 := fun e => some_ (BitVec.eq_of_toNat_eq e)
  have plan : planB (issuing s c).r (s.core c).pc w = { ctl := .loop count.toNat (fld w 36 27) } := by
    simp only [planB, hw.1]
    exact (planLoop_legal (issuing s c).r _ w body free inner fits).trans (if_neg nonzero)
  obtain ⟨nextPc, loops⟩ := issued_loop (s.coreEnv c) (issuing s c).r {} { ctl := .loop count.toNat (fld w 36 27) } _ _ rfl
  obtain ⟨t, exec, only, cycled, pc, dp⟩ := execSlot_issued s c 0 w (inB 0x1C) {} { ctl := .loop count.toNat (fld w 36 27) }
    (s.core c) (issuing s c).r h (by rw [inB, hw.1]; rfl) (fun p => absurd p (by decide)) (.slotB hw rfl) rfl plan
    (.of_slotB _ rfl rfl rfl rfl) (by simp) (Cx.tryIssue_plain _ _ _ _ _ rfl rfl rfl rfl h.running) rfl
    (actsTo_issuing s c 0 w h) (nextPc ▸ inside)
  refine ⟨t, exec, only, cycled, pc.trans nextPc, ?_⟩
  rw [dp, loops]
  rfl

theorem loop_skips (hw : WordB 0x1C w) (body : (s.core c).pc < fld w 36 27) (free : (s.core c).dp.loops.length < 4)
    (inner : ∀ l ∈ (s.core c).dp.loops.head?, fld w 36 27 ≤ l.last) :
    let count := sword (s.core c) (fld w 10 6) + BitVec.ofNat 64 (fld w 26 11)
    count = 0 → fld w 36 27 < 1023 → Branches (.loop c) s c (fld w 36 27 + 1) := by
  intro count none_ inside
  have zero : count.toNat = 0 := by rw [none_]; rfl
  refine branches_slotB (.loop c) s c w _ h hw rfl rfl (by omega) ?_
  simp only [planB, hw.1]
  exact (planLoop_legal (issuing s c).r _ w body free inner (zero.trans_le (by decide))).trans (if_pos zero)

end words

theorem sreg_eq_zero_iff (r : CoreRec) (k : Nat) : r.sreg k = 0 ↔ sword r k = 0 := by
  rw [CoreRec.sreg_eq]
  exact ⟨fun e => BitVec.eq_of_toNat_eq e, fun e => by rw [e]; rfl⟩

/-- Settles O6: the branches by their conditions, LOOP by its count. -/
theorem branchAndLoopEffects : Obligations.BranchAndLoopEffects := by
  intro s c w h r
  have zero : (issuing s c).r.sreg (fld w 10 6) = 0 ↔ sword r (fld w 10 6) = 0 := sreg_eq_zero_iff (issuing s c).r _
  refine ⟨fun hw => ?br, fun hw => ?bz, fun hw => ?bnz, fun hw => ?blt, fun hw body free inner inside =>
    ⟨loop_pushes s c w h hw body free inner inside, loop_skips s c w h hw body free inner⟩⟩
  case br =>
    exact (branches_or_issues s c w h (.br c) true hw rfl rfl (by simp only [planB, hw.1]; rfl)).1 rfl
  case bz =>
    obtain ⟨taken, not⟩ := branches_or_issues s c w h (.bz c) _ hw rfl rfl (by simp only [planB, hw.1]; rfl)
    exact ⟨fun e => taken (decide_eq_true (zero.2 e)), fun e => not (decide_eq_false fun z => e (zero.1 z))⟩
  case bnz =>
    obtain ⟨taken, not⟩ := branches_or_issues s c w h (.bnz c) _ hw rfl rfl (by simp only [planB, hw.1]; rfl)
    exact ⟨fun e => taken (decide_eq_true fun z => e (zero.1 z)), fun e => not (decide_eq_false fun n => n (zero.2 e))⟩
  case blt =>
    have less : decide (sext 64 ((issuing s c).r.sreg (fld w 10 6)) < sext 64 ((issuing s c).r.sreg (fld w 15 11))) =
        (sword r (fld w 10 6)).slt (sa r w) := by
      rw [CoreRec.sreg_eq, CoreRec.sreg_eq, sext_toNat, sext_toNat, BitVec.slt]
      rfl
    exact branches_or_issues s c w h (.blt c) _ hw rfl rfl (by simp only [planB, hw.1, planBlt, less])

end Sys2Proof.Machine
end

section
namespace Sys2Proof.Machine

open Sys2Proof

/-! PROOFS. Wait forms, and a core in WAIT that goes on (O7). -/

/-! ## Issue or WAIT (R116) -/

/-- A bundle whose wait does not hold keeps its core in WAIT. -/
theorem Cx.tryIssue_held (x : Cx) (env : Env) (a b : Plan) (cond : WaitCond) (clean : x.r.stores.ecc = [])
    (run : x.frozen = false) (wait : b.wait = some cond) (fails : waitHolds x.r cond = false) :
    x.tryIssue env 0 a b none = x.hold cond := by
  cases read : b.waitRead with
  | none => simp only [Cx.tryIssue, read, run, wait, fails, if_false, Bool.false_eq_true]
  | some off => simp only [Cx.tryIssue, read, Cx.dpRead_clean _ _ _ _ clean, run, wait, fails, if_false, Bool.false_eq_true]

/-- A bundle whose wait holds issues at once. -/
theorem Cx.tryIssue_holds (x : Cx) (env : Env) (a b : Plan) (cond : WaitCond) (clean : x.r.stores.ecc = [])
    (run : x.frozen = false) (wait : b.wait = some cond) (holds : waitHolds x.r cond = true) (noShut : b.shut = none)
    (noStep : b.step = none) : x.tryIssue env 0 a b none = x.issue env 0 a b false := by
  cases read : b.waitRead with
  | none => simp only [Cx.tryIssue, read, run, wait, holds, noShut, noStep, if_true, if_false, Bool.false_eq_true]
  | some off =>
    simp only [Cx.tryIssue, read, Cx.dpRead_clean _ _ _ _ clean, run, wait, holds, noShut, noStep, if_true, if_false,
      Bool.false_eq_true]

/-- A core that is held is in WAIT, and nothing else of it has changed. -/
theorem Cx.hold_off (x : Cx) (cond : WaitCond) (off : x.r.perf = []) :
    x.hold cond = x.setR { x.r with st := .wait, wait := some cond, sinceSample := min 4096 (x.r.sinceSample + 1) } :=
  Cx.perfCycle_off (x.mod fun r => { r with st := .wait, wait := some cond }) _ off

/-- The flag of a WAITF, on words (Table 4.13). -/
theorem flagHolds_read (st : Stores) (off : Nat) (m : Word) (any : Bool) : flagHolds (st.read 1 off 8) m.toNat any =
    if any then decide (BitVec.ofNat 64 (st.read 1 off 8) &&& m ≠ 0)
    else decide (BitVec.ofNat 64 (st.read 1 off 8) &&& m = m) := by
  have masked : st.read 1 off 8 &&& m.toNat = (BitVec.ofNat 64 (st.read 1 off 8) &&& m).toNat := by
    rw [BitVec.toNat_and, toNat_ofNat_read]
  have zero : (BitVec.ofNat 64 (st.read 1 off 8) &&& m).toNat = 0 ↔ BitVec.ofNat 64 (st.read 1 off 8) &&& m = 0 :=
    BitVec.toNat_inj (y := 0)
  unfold flagHolds
  simp only [masked, BitVec.toNat_inj, ne_eq, zero]

section waits

variable (s : State) (c w : Nat) (h : CanIssue s c 0 w)

include h

/-- A slot-B word whose wait does not hold. -/
theorem waits_slotB (cmd : Instr) {op : Nat} (b : Plan) (cond : WaitCond) (hw : WordB op w) (valid : validB op = true)
    (runs : exec cmd s = execSlot (inB op) c s) (plan : planB (issuing s c).r (s.core c).pc w = b) (plans : PlansPass {} b)
    (wait : b.wait = some cond) (fails : waitHolds (issuing s c).r cond = false) : Waits cmd s c cond := by
  have legal := leastCause_passing (issuing s c).r.dp 0 w {} b (.slotB hw valid) plans h.portsFree h.noWrites
  have work : slotWork s c 0 w = (issuing s c).hold cond := by
    have validB' : validB (opOf w) = true := by rw [hw.1]; exact valid
    have empty : validA (opOf 0) = true ∧ planA (s.coreEnv c).virt (issuing s c).r (s.core c).pc 0 = {} := ⟨by decide, rfl⟩
    simp only [slotWork, bundleWork, empty, validB', plan, if_true, legal, plans.soundB]
    exact Cx.tryIssue_held _ _ _ _ _ h.noErrors (issuing_not_frozen s c 0 w h) wait fails
  have exec := execSlot_work s c 0 w (inB op) h (by rw [hw.1]; exact decide_eq_true rfl) (fun p => absurd p (by decide))
  have stays : ¬ ((slotWork s c 0 w).r.dp.pt > (s.core c).dp.pt ∨ (slotWork s c 0 w).r.stallRun > (s.core c).stallRun) := by
    rw [work, Cx.hold_off _ _ h.countersOff]
    exact fun e => e.elim (Nat.lt_irrefl _) (Nat.not_lt_zero _)
  rw [if_neg stays, work, Cx.hold_off _ _ h.countersOff] at exec
  refine ⟨_, runs.trans exec, ?_, ?_⟩
  · rw [State.putCx_quiet _ _ _ rfl rfl rfl, OnlyCore, State.setCore_core_self]
  · rw [State.putCx_core]
    exact ⟨rfl, rfl, rfl⟩

/-- A slot-B word whose wait holds; its act leaves these stores. -/
theorem issues_waited (cmd : Instr) {op : Nat} (b : Plan) (cond : WaitCond) (st : Stores) (hw : WordB op w)
    (valid : validB op = true) (runs : exec cmd s = execSlot (inB op) c s)
    (plan : planB (issuing s c).r (s.core c).pc w = b) (plans : PlansPass {} b) (next : b.ctl = .seq) (noPend : b.pend = [])
    (noShut : b.shut = none) (noStep : b.step = none) (wait : b.wait = some cond)
    (holds : waitHolds (issuing s c).r cond = true) (act : b.act (issuing s c) = (issuing s c).setR (accessed s c st [])) :
    Issues cmd s c { s.core c with stores := st } [] :=
  issues_slotB cmd (inB op) s c w b _ (accessed s c st []) _ [] h hw valid runs (decide_eq_true rfl) plan
    ⟨rfl, plans.legalB, rfl, plans.soundB, plans.ports, plans.writes, next, rfl⟩
    (Cx.tryIssue_holds _ _ _ _ _ h.noErrors (issuing_not_frozen s c 0 w h) wait holds noShut noStep) act
    (actsTo_accessed s c 0 w h st []) (CoreRec.withQueued_none _ _ noShut noStep) (by rw [noPend]; rfl)

/-! ## The three wait forms -/

theorem waitf_issues_or_waits (hw : WordB 0x1D w) (ok : accessOk [1] 1 (memOff (s.core c) w) 8 8 = true) :
    let off := memOff (s.core c) w
    let m := sword (s.core c) (fld w 10 6)
    let f := BitVec.ofNat 64 ((s.core c).stores.read 1 off 8)
    let holds := if flag w 38 then decide (f &&& m ≠ 0) else decide (f &&& m = m)
    (holds = true → Issues (.waitf c) s c { s.core c with
      stores := if flag w 39 then (s.core c).stores.write 1 off 8 (f &&& ~~~m).toNat else (s.core c).stores } []) ∧
    (holds = false → Waits (.waitf c) s c (.flag off m (flag w 38) (flag w 39))) := by
  intro off m f holds
  have plan : planB (issuing s c).r (s.core c).pc w = planWaitf (issuing s c).r w := by simp only [planB, hw.1]
  have ok' : accessOk [1] 1 (baseOff (issuing s c).r (fld w 15 11) (fld w 37 19)) 8 8 = true := ok
  simp only [planWaitf, ok', if_true, CoreRec.sreg_eq, BitVec.ofNat_toNat, BitVec.setWidth_eq] at plan
  have cond : waitHolds (issuing s c).r (.flag off m (flag w 38) (flag w 39)) = holds := flagHolds_read _ _ _ _
  have ports : clash (if flag w 39 = true then [(1, 0), (1, 1)] else [(1, 0)]) [] = false := by
    split <;> rfl
  constructor
  · intro yes
    rw [← cond] at yes
    refine issues_waited s c w h (.waitf c) _ _ _ hw rfl rfl plan (.of_slotB _ rfl rfl ports rfl) rfl rfl rfl rfl rfl yes ?_
    split
    · rw [← aliasWord_clear]
      exact issuing_dpRmw s c 0 w h off false m
    · exact issuing_withStores s c 0 w h _
  · intro no
    rw [← cond] at no
    exact waits_slotB s c w h (.waitf c) _ _ hw rfl rfl plan (.of_slotB _ rfl rfl ports rfl) rfl no

theorem waitc_issues_or_waits (hw : WordB 0x1E w) :
    let need := (sword (s.core c) (fld w 18 14) + BitVec.ofNat 64 (fld w 34 19)).toNat
    (need ≤ Tab.get 0 (s.core c).credits (fld w 13 6) → Issues (.waitc c) s c (s.core c) []) ∧
    (Tab.get 0 (s.core c).credits (fld w 13 6) < need → Waits (.waitc c) s c (.credit (fld w 13 6) need)) := by
  intro need
  have plan : planB (issuing s c).r (s.core c).pc w = { wait := some (.credit (fld w 13 6) need) } := by
    simp only [planB, hw.1, planWaitc, sreg_add_mod]
    rfl
  exact ⟨fun there => issues_waited s c w h (.waitc c) _ _ _ hw rfl rfl plan (.of_slotB _ rfl rfl rfl rfl) rfl rfl rfl rfl rfl
      (decide_eq_true there) (issuing_withStores s c 0 w h _),
    fun missing => waits_slotB s c w h (.waitc c) _ _ hw rfl rfl plan (.of_slotB _ rfl rfl rfl rfl) rfl
      (decide_eq_false (Nat.not_le.2 missing))⟩

theorem waitq_issues_or_waits (hw : WordB 0x1F w) :
    (((s.core c).chan (fld w 9 6)).free = true → Issues (.waitq c) s c (s.core c) []) ∧
    (((s.core c).chan (fld w 9 6)).free = false → Waits (.waitq c) s c (.queue (fld w 9 6))) := by
  have plan : planB (issuing s c).r (s.core c).pc w = { wait := some (.queue (fld w 9 6)) } := by
    simp only [planB, hw.1]
    rfl
  exact ⟨fun idle => issues_waited s c w h (.waitq c) _ _ _ hw rfl rfl plan (.of_slotB _ rfl rfl rfl rfl) rfl rfl rfl rfl rfl
      idle (issuing_withStores s c 0 w h _),
    fun busy => waits_slotB s c w h (.waitq c) _ _ hw rfl rfl plan (.of_slotB _ rfl rfl rfl rfl) rfl busy⟩

end waits

end Sys2Proof.Machine
end

section
namespace Sys2Proof.Machine

open Sys2Proof

/-! PROOFS. A core in WAIT whose condition has come to hold (O7). -/

/-- What the skein and the shuttle give a core does not look at its state, its wait or its datapath (R55, R56). -/
theorem State.coreEnv_setCore (s : State) (c : Nat) (r : CoreRec) (arb : r.arb = (s.core c).arb)
    (wants : ∀ store, r.wanting (s.shEnv c) store = (s.core c).wanting (s.shEnv c) store) :
    (s.setCore c r).coreEnv c = s.coreEnv c := by
  have asks (store : Nat) : (s.setCore c r).shuttleAsks c store = s.shuttleAsks c store := by
    rw [State.shuttleAsks, State.setCore_core_self]
    exact congrArg (fun q : Option Nat => q.isSome || s.remoteAsks c store) (wants store)
  simp only [State.coreEnv, State.setCore_core_self, CoreRec.shuttleFirst, arb, asks]
  rfl

/-! ## The cycle of a core whose wait has ended -/

/-- The core out of WAIT, as `CanResume` looks at it. -/
def CoreRec.awake (r : CoreRec) : CoreRec := { r with st := .run, wait := none }

/-- The core in WAIT as the issue of its bundle finds it. -/
def resuming (s : State) (c : Nat) (balance : Int) (since : Nat) : Cx :=
  { s.cx c with r := { s.core c with balance := balance, sinceSample := since, stallRun := 0 } }

/-- The core after `n` cycles in WAIT: its balance is refilled, and its counters have run. -/
def Cx.waited (x : Cx) (env : Env) (n : Nat) : Cx :=
  (x.mod fun r => { r with balance := min (64 * env.burst) (r.balance + (n * env.eff : Nat)) }).perfHold [0x06] n

/-- A wait that holds ends. -/
theorem Cx.resume_eq (x : Cx) (env : Env) (n : Nat) (cond : WaitCond) (sel : WaitCond → Bool) (waiting : x.r.st = .wait)
    (on : x.r.wait = some cond) (selected : sel cond = true) (holds : waitHolds x.r cond = true) :
    x.resume env n sel = (x.waited env n).cycleBody env
      ((x.waited env n).r.stores.read 3 (16 * (x.waited env n).r.pc) 16) (x.waited env n).r.pc (some cond) := by
  have go : (sel cond && waitHolds x.r cond) = true := by rw [selected, holds]; rfl
  unfold Cx.resume
  split
  case h_1 w _ same =>
    obtain rfl : cond = w := Option.some.inj (on.symm.trans same)
    exact if_pos go
  case h_2 other => exact absurd on (other cond waiting)

theorem Cx.waited_off (x : Cx) (env : Env) (n : Nat) (off : x.r.perf = []) :
    ∃ balance since, x.waited env n = x.setR { x.r with balance := balance, sinceSample := since } := by
  obtain ⟨since, held⟩ := Cx.perfHold_off (x.mod fun r => { r with
    balance := min (64 * env.burst) (r.balance + (n * env.eff : Nat)) }) [0x06] n off
  exact ⟨_, since, held⟩

/-- The bundle of a core whose wait has ended stands before its issue. -/
theorem resume_work (s : State) (c w n : Nat) (cond : WaitCond) (sel : WaitCond → Bool) (h : CanResume s c 0 w cond)
    (selected : sel cond = true) (holds : waitHolds (s.core c) cond = true) : ∃ balance since,
    (s.cx c).resume (s.coreEnv c) n sel =
      bundleWork (resuming s c balance since) (s.coreEnv c) (s.core c).pc 0 w (some cond) := by
  obtain ⟨waiting, on, awake⟩ := h
  have running : CanIssue (s.setCore c (s.core c).awake) c 0 w := awake
  obtain ⟨-, -, -, -, bundle, -, high, clean, off, landed, -, -, -, taken, -⟩ := running
  rw [State.coreEnv_setCore s c (s.core c).awake rfl fun _ => rfl] at taken
  rw [State.setCore_core_self] at bundle clean off landed
  obtain ⟨balance, since, waited⟩ := Cx.waited_off (s.cx c) (s.coreEnv c) n off
  have resume := Cx.resume_eq (s.cx c) (s.coreEnv c) n cond sel waiting on selected holds
  have body := Cx.cycleBody_clean ((s.cx c).setR { s.core c with balance := balance, sinceSample := since }) (s.coreEnv c)
    (s.core c).pc 0 w (some cond) (by decide) high clean landed (fun frozen => by cases waiting.symm.trans frozen) taken
    (fun p => absurd p.1 (by decide))
  rw [← bundle] at body
  rw [waited] at resume
  exact ⟨_, _, resume.trans body⟩

theorem CoreRec.afterIssue_resumed (q : CoreRec) (pc : Nat) (heavy : Bool) (ctl : Ctl) (waiting : q.st = .wait) :
    q.afterIssue pc heavy ctl = (resumed q).afterIssue pc heavy ctl := by
  have runs : (if q.st = .wait then CoreSt.run else q.st) = .run := if_pos waiting
  have forgets : (if q.st = .wait then false else q.clampReported) = false := if_pos waiting
  rw [CoreRec.afterIssue, runs, forgets]
  rfl

/-- An issue takes a core out of WAIT, as it would issue the bundle on the core that runs again. -/
theorem issued_resumed (env : Env) (y : CoreRec) (a b : Plan) (waiting : y.st = .wait) :
    issued env y a b = issued env (resumed y) a b := by
  have queued (q : CoreRec) : CoreRec.withQueued { q with dp := q.dp.withResults a b } b =
      { q with dp := q.dp.withResults a b, chans := (CoreRec.withQueued { q with dp := q.dp.withResults a b } b).chans } :=
    CoreRec.withQueued_eq _ b
  have chans : (CoreRec.withQueued { y with dp := y.dp.withResults a b } b).chans =
      (CoreRec.withQueued { resumed y with dp := (resumed y).dp.withResults a b } b).chans :=
    CoreRec.withQueued_chans _ _ _ rfl rfl
  rw [issued, issued, queued y, queued (resumed y), chans]
  generalize (CoreRec.withQueued { resumed y with dp := (resumed y).dp.withResults a b } b).chans = cs
  rw [CoreRec.afterIssue_resumed { y with dp := y.dp.withResults a b, chans := cs } y.pc a.heavy b.ctl waiting]
  rfl

section ends

variable {op : Nat} (s : State) (c w n : Nat) (b : Plan) (cond : WaitCond) (sel : WaitCond → Bool)
  (h : CanResume s c 0 w cond) (hw : WordB op w) (valid : validB op = true) (selected : sel cond = true)
  (holds : waitHolds (s.core c) cond = true)
  (plan : ∀ balance since, planB (resuming s c balance since).r (s.core c).pc w = b) (plans : PlansPass {} b)
  (next : b.ctl = .seq) (act : ∀ x, b.act x = x)
  (hi : ∀ balance since, (resuming s c balance since).tryIssue (s.coreEnv c) 0 {} b (some cond) =
    (resuming s c balance since).issue (s.coreEnv c) 0 {} b false)

include h hw valid selected holds plan plans next act hi

/-- A slot-B word without an act of its own, whose wait has ended, issues as on a core that runs again. -/
theorem resume_issued : ∃ balance since, (s.cx c).resume (s.coreEnv c) n sel = { resuming s c balance since with
    r := issued (s.coreEnv c) (resumed (resuming s c balance since).r) {} b } := by
  obtain ⟨balance, since, work⟩ := resume_work s c w n cond sel h selected holds
  obtain ⟨waiting, -, awake⟩ := h
  have running : CanIssue (s.setCore c (s.core c).awake) c 0 w := awake
  obtain ⟨-, -, -, -, -, -, -, -, off, -, ports, writes, noInt3, -, inside⟩ := running
  rw [State.setCore_core_self] at off ports writes noInt3 inside
  have legal := leastCause_passing (resuming s c balance since).r.dp 0 w {} b (.slotB hw valid) plans ports writes
  have tries : bundleWork (resuming s c balance since) (s.coreEnv c) (s.core c).pc 0 w (some cond) =
      (resuming s c balance since).issue (s.coreEnv c) 0 {} b false := by
    have validB' : validB (opOf w) = true := by rw [hw.1]; exact valid
    have empty : validA (opOf 0) = true ∧ planA (s.coreEnv c).virt (resuming s c balance since).r (s.core c).pc 0 = {} :=
      ⟨by decide, rfl⟩
    simp only [bundleWork, empty, validB', plan, if_true, legal, plans.soundB]
    exact hi balance since
  have runs := issued_resumed (s.coreEnv c) (resuming s c balance since).r {} b waiting
  obtain ⟨nextPc, -⟩ := issued_next (s.coreEnv c) (resumed (resuming s c balance since).r) {} b next
  have issue := Cx.issue_eq (resuming s c balance since) (s.coreEnv c) 0 {} b false (resuming s c balance since) noInt3
    (act _) (fun frozen => by cases waiting.symm.trans frozen) off (by rw [next]; decide) (by rw [runs, nextPc]; exact inside)
  rw [runs] at issue
  exact ⟨balance, since, work.trans (tries.trans issue)⟩

/-- The core runs again, with what the word queues. -/
theorem issues_resumed (cmd : Instr) (noPend : b.pend = [])
    (runs : exec cmd s = onCore c s fun s => s.onCx c fun x => x.resume (s.coreEnv c) n sel) :
    Issues cmd s c ((resumed (s.core c)).withQueued b) [] := by
  obtain ⟨balance, since, issue⟩ := resume_issued s c w n b cond sel h hw valid selected holds plan plans next act hi
  obtain ⟨-, -, awake⟩ := h
  have running : CanIssue (s.setCore c (s.core c).awake) c 0 w := awake
  obtain ⟨site, -, -, -, -, -, -, -, -, landed, -⟩ := running
  rw [State.setCore_core_self] at landed
  obtain ⟨nextPc, nextLoops, nextPt, nextPend, -⟩ :=
    issued_next (s.coreEnv c) (resumed (resuming s c balance since).r) {} b next
  have exec : exec cmd s = .next (s.putCx c { resuming s c balance since with
      r := issued (s.coreEnv c) (resumed (resuming s c balance since).r) {} b }) := by
    rw [runs, onCore, onUnit_next _ _ _ (decide_eq_true site), State.onCx, issue]
  refine ⟨_, exec, ?_, ?_⟩
  · rw [State.putCx_quiet _ _ _ rfl rfl rfl, OnlyCore, State.setCore_core_self]
  · rw [State.putCx_core]
    refine ⟨issued_cycled_charged _ (resumed (s.core c)) (resumed (resuming s c balance since).r) {} b _ rfl rfl rfl,
      ⟨nextPc, nextLoops, nextPt⟩, nextPend.trans ?_⟩
    rw [noPend]
    exact congrArg (· ++ []) landed

end ends

/-- Settles O7: the wait forms on a running core, and the two commands that end a wait. -/
theorem waitFormEffects : Obligations.WaitFormEffects := by
  refine ⟨fun s c w h => ⟨waitf_issues_or_waits s c w h, waitc_issues_or_waits s c w h, waitq_issues_or_waits s c w h⟩,
    fun s c w n k hw hk h idle => ?waitq, fun s c w n k off hw hk h ok hopen room => ?shut⟩
  case waitq =>
    refine issues_resumed s c w n { wait := some (.queue k) } (.queue k) _ h hw rfl rfl idle
      (fun _ _ => ?_) (.of_slotB _ rfl rfl rfl rfl) rfl (fun _ => rfl) (fun balance since => ?_) (.waitEnd c n) rfl rfl
    · simp only [planB, hw.1, planWaitq, hk]
    · have idle' : waitHolds (resuming s c balance since).r (.queue k) = true := idle
      have frozen : (resuming s c balance since).frozen = false := decide_eq_false fun e => by cases h.1.symm.trans e
      simp only [Cx.tryIssue, idle', frozen, if_true, if_false, Bool.false_eq_true]
  case shut =>
    have space : waitHolds (s.core c) (.shutFull k off) = true := by
      simp only [waitHolds, room, decide_true, Bool.or_true]
    have queued := issues_resumed s c w n { shut := some (k, baseOff (s.core c) (fld w 15 11) (fld w 34 16)) } (.shutFull k off) _
      h hw rfl rfl space (fun balance since => ?plan) (.of_slotB _ rfl rfl rfl rfl) rfl (fun _ => rfl)
      (fun balance since => ?issue) (.shuttleQueueFree c n) rfl rfl
    case plan =>
      simp only [planB, hw.1, ← hk]
      exact if_pos ok
    case issue =>
      have room' : queueRoom (resuming s c balance since).r k = true := space
      have frozen : (resuming s c balance since).frozen = false := decide_eq_false fun e => by cases h.1.symm.trans e
      simp only [Cx.tryIssue, room', frozen, if_true, if_false, Bool.false_eq_true]
    rw [← Chan.enqueue_open _ _ hopen]
    exact queued

end Sys2Proof.Machine
end

section
namespace Sys2Proof.Machine

open Sys2Proof

/-! PROOFS. The tensor core's operations, the rotate and the quantize (O9). -/

/-! ## Slot-A words with a base register -/

/-- A slot-A word with a base register: its act, its results and its increment. -/
theorem issuesA_withPost (cmd : Instr) {op : Nat} (s : State) (c w rb step : Nat) (p : Plan) (r y : CoreRec)
    (h : CanIssue s c w 0) (hw : WordA op w) (valid : validA op = true) (runs : exec cmd s = execSlot (inA op) c s)
    (pay : op = 1 ∨ op = 4 → Paid s c)
    (plan : planA (s.coreEnv c).virt (issuing s c).r (s.core c).pc w = withPost p (issuing s c).r rb step) (plain : PlainPlan p)
    (act : p.act (issuing s c) = (issuing s c).setR y) (acts : ActsTo s c r y) :
    Issues cmd s c (r.charged p.heavy)
      (y.dp.pend ++ p.pend.map (fun q => ⟨(s.core c).dp.pt + q.1, q.2⟩) ++ basePost (s.core c) rb step) := by
  obtain ⟨writes, pend, planned, apart, post⟩ := withPost_eq p (issuing s c).r rb step plain.writes plain.later
  refine issues_slotA cmd s c w { p with writes := writes, pend := p.pend ++ pend } r y _ h hw valid runs pay
    (plan.trans planned) (.of_slotA _ plain.legal plain.sound ((clash_nil_iff _).2 plain.ports) apart) act acts ?_
  rw [List.map_append, ← List.append_assoc]
  exact congrArg (_ ++ ·) post

/-- The two reads of a beam row on clean stores. -/
theorem Cx.readRow_clean (x : Cx) (row : Nat) (clean : x.r.stores.ecc = []) :
    x.readRow row = (x, x.r.stores.read 0 (256 * row) 256, x.r.stores.read 0 (0x60000 + 16 * row) 16) := by
  simp only [Cx.readRow, Cx.dpRead_clean _ _ _ _ clean]

section words

variable (s : State) (c w : Nat) (h : CanIssue s c w 0)

include h

/-! ## TMAC (R100, R102) -/

omit h in
/-- A TMAC of a plain pairing outside a sequence meets no cause and no fault. -/
theorem planTmac_plain (r : CoreRec) (pc : Nat) (pair : (tmacF r w).pair ≤ 0x10) (plain : (pairing (tmacF r w).pair).w ≠ 3)
    (lsel : (tmacF r w).lsel < lselLegal (tmacF r w).pair) (k : (tmacF r w).k = 0) (coarse : flag w 11 = false)
    (mode : (tmacF r w).imode = true → (pairing (tmacF r w).pair).int32 = true)
    (same : (tmacF r w).init = false → (r.accOf (tmacF r w).g).imode = (tmacF r w).imode)
    (tag : (Tab.get {} r.dp.op (fld w 16 14) : OpEntry).tag.toNat = (pairing (tmacF r w).pair).a)
    (inside : baseOff r (fld w 31 27) (fld w 42 32) ≤ 1535) (closed : r.dp.int3 = none) :
    planTmac r pc w = withPost
      { ports := [(0, 0)]
        writes := [(keyG (tmacF r w).g, pairLatency (tmacF r w).pair)]
        act := fun x => x.tmacIssue w (baseOff r (fld w 31 27) (fld w 42 32)) (Tab.get {} r.dp.op (fld w 16 14))
        heavy := true
        evs := [0x03, 0x04, 0x08] } r (fld w 31 27) (fld w 45 43) := by
  unfold planTmac
  generalize tmacF r w = f at *
  have inRange : ¬ f.pair > 0x10 := Nat.not_lt.2 pair
  have inStore : ¬ baseOff r (fld w 31 27) (fld w 42 32) > 1535 := Nat.not_lt.2 inside
  have inLanes : ¬ f.lsel ≥ lselLegal f.pair := Nat.not_le.2 lsel
  have modes : (f.imode && !(pairing f.pair).int32) = false := by
    cases int : f.imode with
    | false => rfl
    | true => rw [mode int]; rfl
  have keeps : (!f.init && (r.accOf f.g).imode != f.imode) = false := by
    cases init : f.init with
    | false => rw [same init, bne_self_eq_false]; rfl
    | true => rfl
  simp only [inRange, inStore, inLanes, plain, k, coarse, modes, keeps, tag, int3Ok, closed, ne_eq, not_true_eq_false, if_false,
    decide_false, decide_true, Bool.false_eq_true, Bool.or_false, Bool.false_and, Bool.not_true, Bool.not_false,
    Bool.true_or, gt_iff_lt, Nat.lt_irrefl, List.append_nil]
  rfl

/-- What a TMAC of a plain pairing adds to its group: the row and its scales against the operand entry (R102). -/
def tmacSum (r : CoreRec) (w row : Nat) (e : OpEntry) : AccGroup :=
  tmacAdd (tmacF r w).pair (tmacF r w).lsel (tmacF r w).imode (r.stores.read 0 (256 * row) 256)
    (r.stores.read 0 (0x60000 + 16 * row) 16) none e (accInit (tmacF r w).init (tmacF r w).imode (r.accOf (tmacF r w).g))

omit h in
/-- The act of a TMAC of a plain pairing: the group takes its sum, whose lanes come into flight. -/
theorem tmacIssue_plain (x : Cx) (row : Nat) (e : OpEntry) (clean : x.r.stores.ecc = []) (thawed : x.frozen = false)
    (plain : (pairing (tmacF x.r w).pair).w ≠ 3) (coarse : flag w 11 = false) :
    x.tmacIssue w row e = x.modDp fun d => { d with
      seq := d.seq + 1
      acc := Tab.put {} d.acc (tmacF x.r w).g (tmacSum x.r w row e)
      pend := d.pend ++ [⟨d.pt + pairLatency (tmacF x.r w).pair,
        .acc (tmacF x.r w).g (tmacMask (tmacF x.r w).pair (tmacF x.r w).lsel (tmacF x.r w).init) (tmacSum x.r w row e)
          (d.seq + 1)⟩] } := by
  have counted : (x.modDp fun d => { d with seq := d.seq + 1 }).r.stores.ecc = [] := clean
  have runs : (x.modDp fun d => { d with seq := d.seq + 1 }).frozen = false := thawed
  simp only [Cx.tmacIssue, plain, if_false, Cx.readRow_clean _ _ counted, runs, coarse, Bool.false_eq_true]
  rfl

theorem issues_tmac (hw : WordA 0x01 w) (paid : Paid s c) (pair : (tmacF (s.core c) w).pair ≤ 0x10)
    (plain : (pairing (tmacF (s.core c) w).pair).w ≠ 3)
    (lsel : (tmacF (s.core c) w).lsel < lselLegal (tmacF (s.core c) w).pair) (k : (tmacF (s.core c) w).k = 0)
    (coarse : flag w 11 = false)
    (mode : (tmacF (s.core c) w).imode = true → (pairing (tmacF (s.core c) w).pair).int32 = true)
    (same : (tmacF (s.core c) w).init = false →
      ((s.core c).accOf (tmacF (s.core c) w).g).imode = (tmacF (s.core c) w).imode)
    (tag : (Tab.get {} (s.core c).dp.op (fld w 16 14) : OpEntry).tag.toNat = (pairing (tmacF (s.core c) w).pair).a)
    (inside : baseOff (s.core c) (fld w 31 27) (fld w 42 32) ≤ 1535) :
    let r := s.core c
    let f := tmacF r w
    let v := tmacSum r w (baseOff r (fld w 31 27) (fld w 42 32)) (Tab.get {} r.dp.op (fld w 16 14))
    Issues (.tmac c) s c
      { r with heavy100 := r.heavy100 + 1, dp := { r.dp with acc := Tab.put {} r.dp.acc f.g v, seq := r.dp.seq + 1 } }
      ([⟨r.dp.pt + pairLatency f.pair, .acc f.g (tmacMask f.pair f.lsel f.init) v (r.dp.seq + 1)⟩] ++
        basePost r (fld w 31 27) (fld w 45 43)) := by
  intro r f v
  have plan : planA (s.coreEnv c).virt (issuing s c).r (s.core c).pc w = planTmac (issuing s c).r (s.core c).pc w := by
    simp only [planA, hw.1]
  rw [planTmac_plain w (issuing s c).r (s.core c).pc pair plain lsel k coarse mode same tag inside h.noInt3] at plan
  have later : pairLatency f.pair ≠ 1 := by
    unfold pairLatency
    split <;> [skip; split] <;> decide
  have act := tmacIssue_plain w (issuing s c) (baseOff r (fld w 31 27) (fld w 42 32)) (Tab.get {} r.dp.op (fld w 16 14))
    h.noErrors (issuing_not_frozen s c w 0 h) plain coarse
  rw [Cx.modDp, show (issuing s c).r.dp.pend = [] from h.nothingPending] at act
  exact issuesA_withPost (.tmac c) s c w _ _ _
    { r with dp := { r.dp with acc := Tab.put {} r.dp.acc f.g v, seq := r.dp.seq + 1 } } _ h hw rfl rfl (fun _ => paid) plan
    ⟨rfl, rfl, rfl, rfl, rfl, rfl, rfl, List.nodup_singleton _, List.nodup_singleton _, fun q hq =>
      List.mem_singleton.1 hq ▸ later⟩ act ⟨rfl, h.running, h.notWaiting, h.countersOff, rfl, rfl, rfl⟩

/-! ## TSCL, TDRN (R103, R105) -/

theorem issues_tscl (hw : WordA 0x02 w) (inside : baseOff (s.core c) (fld w 31 27) (fld w 42 32) ≤ 1535) :
    let r := s.core c
    let row := baseOff r (fld w 31 27) (fld w 42 32)
    Issues (.tscl c) s c
      { r with dp := { r.dp with latch := some (row, BitVec.ofNat 2048 (r.stores.read 0 (256 * row) 256)) } } [] := by
  intro r row
  have plan : planA (s.coreEnv c).virt (issuing s c).r (s.core c).pc w = planTscl (issuing s c).r w := by simp only [planA, hw.1]
  have inside' : ¬ baseOff (issuing s c).r (fld w 31 27) (fld w 42 32) > 1535 := Nat.not_lt.2 inside
  simp only [planTscl, inside', if_false] at plan
  refine issues_slotA (.tscl c) s c w _
    { r with dp := { r.dp with latch := some (row, BitVec.ofNat 2048 (r.stores.read 0 (256 * row) 256)) } }
    { (issuing s c).r with dp := { r.dp with latch := some (row, BitVec.ofNat 2048 (r.stores.read 0 (256 * row) 256)) } } _
    h hw rfl rfl (fun p => absurd p (by decide)) plan (.of_slotA _ rfl rfl rfl rfl) ?_
    ⟨rfl, h.running, h.notWaiting, h.countersOff, rfl, rfl, rfl⟩ (congrArg (· ++ []) h.nothingPending)
  simp only [Cx.readRow_clean _ _ (issuing_clean s c w 0 h), issuing_not_frozen s c w 0 h, if_false, Bool.false_eq_true]
  rfl

/-- A drain to a vector register. -/
theorem issues_tdrn_lanes (hw : WordA 0x03 w) (lanes : flag w 10 = false) :
    let a : AccGroup := Tab.get {} (s.core c).dp.accVis (fld w 9 6)
    Issues (.tdrn c) s c (s.core c)
      [⟨(s.core c).dp.pt + 2, .vlanes (fld w 15 11) (16 * boolNat (flag w 16)) 16 (BitVec.ofNat 1024
          ((packFields 32 16 fun i => if a.imode then f32OfInt (sext 32 (accLane a i)) else accLane a i) <<<
            (512 * boolNat (flag w 16))))⟩,
        ⟨(s.core c).dp.pt + 2, .gf (fld w 9 6) a.sticky⟩] := by
  intro a
  have plan : planA (s.coreEnv c).virt (issuing s c).r (s.core c).pc w = planTdrn (issuing s c).r w := by simp only [planA, hw.1]
  simp only [planTdrn, lanes, if_false, Bool.false_eq_true] at plan
  exact issues_slotA (.tdrn c) s c w _ (s.core c) (issuing s c).r _ h hw rfl rfl (fun p => absurd p (by decide)) plan
    (.of_slotA _ rfl rfl rfl rfl) rfl (actsTo_issuing s c w 0 h) (congrArg (· ++ _) h.nothingPending)

/-- A drain that stores its group (R105). -/
theorem issues_tdrn_store (hw : WordA 0x03 w) (stores : flag w 10 = true)
    (ok : accessOk [2] 2 (baseOff (s.core c) (fld w 21 17) (fld w 40 22)) 64 64 = true) :
    let a : AccGroup := Tab.get {} (s.core c).dp.accVis (fld w 9 6)
    Issues (.tdrn c) s c
      { s.core c with
        stores := (s.core c).stores.write 2 (baseOff (s.core c) (fld w 21 17) (fld w 40 22)) 64 a.lanes.toNat }
      ([⟨(s.core c).dp.pt + 2, .gf (fld w 9 6) a.sticky⟩] ++ basePost (s.core c) (fld w 21 17) (64 * fld w 48 41)) := by
  intro a
  have plan : planA (s.coreEnv c).virt (issuing s c).r (s.core c).pc w = planTdrn (issuing s c).r w := by simp only [planA, hw.1]
  have ok' : accessOk [2] 2 (baseOff (issuing s c).r (fld w 21 17) (fld w 40 22)) 64 64 = true := ok
  simp only [planTdrn, stores, ok', if_true] at plan
  exact issuesA_withPost (.tdrn c) s c w _ _ _ _ _ h hw rfl rfl (fun p => absurd p (by decide)) plan
    ⟨rfl, rfl, rfl, rfl, rfl, rfl, rfl, List.nodup_singleton _, List.nodup_nil, fun _ hq => absurd hq List.not_mem_nil⟩
    (issuing_write s c w 0 h _ _ _ _) (actsTo_accessed s c w 0 h _ _)

/-! ## ROT256, QNT (R106–R108) -/

omit h in
theorem rot256_spaced (r : CoreRec) (spaced : ∀ t, r.dp.lastRot = some t → t + 8 ≤ r.dp.pt) :
    (planRot256 r w).illegal = [] := by
  cases last : r.dp.lastRot with
  | none => simp only [planRot256, last, if_false, Bool.false_eq_true]
  | some t => simp only [planRot256, last, decide_eq_false (Nat.not_lt.2 (spaced t last)), if_false, Bool.false_eq_true]

theorem issues_rot256 (hw : WordA 0x04 w) (paid : Paid s c)
    (spaced : ∀ t, (s.core c).dp.lastRot = some t → t + 8 ≤ (s.core c).dp.pt) :
    let r := s.core c
    let m := fld w 7 6
    let y := rot256 (r.sreg (fld w 13 9)) (flag w 8) ((List.range 8).flatMap fun i => vlanes (r.vreg (8 * m + i)))
    Issues (.rot256 c) s c { r with heavy100 := r.heavy100 + 1 }
      (tabulate 8 fun i => ⟨r.dp.pt + 24, .vlanes (8 * m + i) 0 32 (vpack ((y.drop (32 * i)).take 32))⟩) := by
  intro r m y
  have plan : planA (s.coreEnv c).virt (issuing s c).r (s.core c).pc w = planRot256 (issuing s c).r w := by
    simp only [planA, hw.1]
  have apart : (planRot256 (issuing s c).r w).writes.Nodup :=
    tabulate_nodup _ _ fun i j same => Nat.add_left_cancel (congrArg Prod.fst same)
  refine issues_slotA (.rot256 c) s c w _ r (issuing s c).r _ h hw rfl rfl (fun _ => paid) plan
    (.of_slotA _ (rot256_spaced w (issuing s c).r spaced) rfl rfl ((clash_nil_iff _).2 apart)) rfl (actsTo_issuing s c w 0 h) ?_
  refine (congrArg (· ++ _) h.nothingPending).trans ?_
  simp only [planRot256, tabulate, List.map_map, List.nil_append]
  rfl

theorem issues_qnt (hw : WordA 0x05 w) (fmt : qntFmtOk (fld w 17 14) = true) (even : fld w 29 25 % 2 = 0)
    (noStore : flag w 30 = false) :
    let r := s.core c
    let t := fld w 17 14
    let sk := fld w 29 25
    let q := qntBlock t (if flag w 18 then some (r.sreg (fld w 24 20) % 256) else none)
      (if flag w 19 then some (stochDraw (r.sreg sk) (r.sreg (sk + 1)) (s.virtCore c)) else none)
      (vlanes (r.vreg (fld w 10 6)))
    Issues (.qnt c) s c r
      [⟨r.dp.pt + 6, .opent (fld w 13 11) ⟨BitVec.ofNat 4 t, BitVec.ofNat 8 q.scale,
          BitVec.ofNat 512 (packFields 16 32 fun i => q.codes.getD i 0)⟩⟩,
        ⟨r.dp.pt + 6, .tally q.sat⟩] := by
  intro r t sk q
  have plan : planA (s.coreEnv c).virt (issuing s c).r (s.core c).pc w = planQnt (s.coreEnv c).virt (issuing s c).r w := by
    simp only [planA, hw.1]
  have legal : (!qntFmtOk (fld w 17 14) || decide (fld w 29 25 % 2 = 1)) = false := by rw [fmt, even]; rfl
  simp only [planQnt, legal, noStore, if_false, Bool.false_eq_true] at plan
  exact issues_slotA (.qnt c) s c w _ r (issuing s c).r _ h hw rfl rfl (fun p => absurd p (by decide)) plan
    (.of_slotA _ rfl rfl rfl rfl) rfl (actsTo_issuing s c w 0 h) (congrArg (· ++ _) h.nothingPending)

end words

/-- Settles O9, word by word. -/
theorem tensorResults : Obligations.TensorResults :=
  fun s c w h => ⟨issues_tmac s c w h, issues_tscl s c w h,
    fun hw => ⟨issues_tdrn_lanes s c w h hw, issues_tdrn_store s c w h hw⟩, issues_rot256 s c w h, issues_qnt s c w h⟩

end Sys2Proof.Machine
end

section
namespace Sys2Proof.Machine

open Sys2Proof

/-! PROOFS. A result that lands (O10), and bundles with a reserved opcode (O11, O25). -/

/-! ## A scalar result that is due (R96) -/

/-- The register takes the value, and nothing is in flight. -/
def Datapath.landed (d : Datapath) (k : Nat) (v : Word) : Datapath := { d with pend := [] }.setS k v

/-- The landing leaves what the pipe looks at. -/
theorem Datapath.landed_pipe (d : Datapath) (k : Nat) (v : Word) : (d.landed k v).ports = d.ports ∧
    (d.landed k v).writes = d.writes ∧ (d.landed k v).int3 = d.int3 ∧ (d.landed k v).loops = d.loops ∧
    (d.landed k v).pt = d.pt ∧ (d.landed k v).pend = [] := by
  unfold Datapath.landed Datapath.setS
  split <;> exact ⟨rfl, rfl, rfl, rfl, rfl, rfl⟩

/-- One scalar result that is due lands, and nothing is left in flight. -/
theorem Cx.land_due (x : Cx) (n k : Nat) (v : Word) (thawed : x.frozen = false)
    (due : x.r.dp.pend = [⟨x.r.dp.pt, .sreg k v⟩]) :
    Cx.land (n + 1) x.r.dp.pt x = x.modDp fun d => d.landed k v := by
  have taken : takeDue x.r.dp.pt x.r.dp.pend = some (.sreg k v, []) := by
    rw [due]
    simp [takeDue, takeIf, Eff.isRead]
  have first : minDue x.r.dp.pend = some x.r.dp.pt := by rw [due]; rfl
  obtain ⟨-, -, -, -, -, rest⟩ := Datapath.landed_pipe x.r.dp k v
  simp only [Cx.land, thawed, first, taken, Nat.lt_irrefl, gt_iff_lt, if_false, Bool.false_eq_true]
  exact Cx.land_none _ _ _ rest

/-- The cycle of a light bundle that is no HALT, on a core whose results land without freezing it. -/
theorem Cx.cycleBody_lands (x z : Cx) (env : Env) (pc wa wb : Nat) (resumed : Option WaitCond) (low : wa < 2 ^ 64)
    (high : wb < 2 ^ 64) (light : ¬ (opOf wa = 1 ∨ opOf wa = 4)) (noHalt : opOf wb ≠ 0x23) (clean : x.r.stores.ecc = [])
    (taken : env.taken = [])
    (lands : Cx.land landFuel x.r.dp.pt ((x.mod fun r => r.refill env).mod fun r => { r with stallRun := 0 }) = z)
    (thawed : z.frozen = false) : x.cycleBody env (wa + wb * 2 ^ 64) pc resumed = bundleWork z env pc wa wb resumed := by
  have clean' : ((x.mod fun r => r.refill env).mod fun r => { r with stallRun := 0 }).r.stores.ecc = [] := clean
  have lands' : Cx.land landFuel ((x.mod fun r => r.refill env).mod fun r => { r with stallRun := 0 }).r.dp.pt
    ((x.mod fun r => r.refill env).mod fun r => { r with stallRun := 0 }) = z := lands
  unfold Cx.cycleBody
  simp only [slotA_of _ _ low, slotB_of _ _ low high, light, noHalt, false_and, if_false, losesPort_none _ _ _ taken,
    Bool.false_eq_true, Cx.eccCheck_clean _ _ _ _ clean', lands', thawed]
  rfl

section lands

variable (s : State) (c k : Nat) (v : Word)

/-- The core whose result has landed, as its issue finds it. -/
def landedCx (s : State) (c k : Nat) (v : Word) : Cx := (issuing s c).modDp fun d => d.landed k v

/-- The core with nothing in flight, as the statement looks at it. -/
def CoreRec.unloaded (r : CoreRec) : CoreRec := { r with dp := { r.dp with pend := [] } }

variable (h : CanIssue (s.setCore c (s.core c).unloaded) c 0 0) (due : (s.core c).dp.pend = [⟨(s.core c).dp.pt, .sreg k v⟩])

include h due

/-- An empty bundle stands before its issue when the result has landed. -/
theorem runCycle_lands : (s.cx c).runCycle (s.coreEnv c) (inB 0x00) =
    bundleWork (landedCx s c k v) (s.coreEnv c) (s.core c).pc 0 0 none := by
  obtain ⟨-, -, running, -, bundle, -, -, clean, -, -, -, -, -, taken, -⟩ := h
  rw [State.coreEnv_setCore s c (s.core c).unloaded rfl fun _ => rfl] at taken
  rw [State.setCore_core_self] at running bundle clean
  have running' : (s.cx c).r.st = .run := running
  have fetched : (s.cx c).r.stores.read 3 (16 * (s.cx c).r.pc) 16 = 0 + 0 * 2 ^ 64 := bundle
  have clean' : (s.cx c).r.stores.ecc = [] := clean
  have thawed : (issuing s c).frozen = false := decide_eq_false fun e => by cases running.symm.trans e
  have lands := Cx.land_due (issuing s c) 1023 k v thawed due
  unfold Cx.runCycle
  simp only [running', ne_eq, not_true_eq_false, if_false, Stores.errs_clean _ _ _ _ clean', List.any_nil, Bool.false_eq_true,
    fetched]
  exact Cx.cycleBody_lands (s.cx c) _ (s.coreEnv c) _ 0 0 none (by decide) (by decide) (by decide) (by decide) clean taken lands
    thawed

/-- The empty bundle issues on the core whose result has landed. -/
theorem runCycle_lands_issues : (s.cx c).runCycle (s.coreEnv c) (inB 0x00) =
    (landedCx s c k v).setR (issued (s.coreEnv c) (landedCx s c k v).r {} {}) := by
  have work := runCycle_lands s c k v h due
  obtain ⟨-, -, running, -, -, -, -, -, off, -, ports, writes, noInt3, -, inside⟩ := h
  rw [State.setCore_core_self] at running off ports writes noInt3 inside
  have pipe := Datapath.landed_pipe (s.core c).dp k v
  obtain ⟨samePorts, sameWrites, sameInt3, sameLoops, -⟩ := pipe
  have legal := leastCause_passing (landedCx s c k v).r.dp 0 0 {} {} ⟨by decide, by decide, by decide, by decide, by decide⟩
    (.of_slotB _ rfl rfl rfl rfl) (samePorts.trans ports) (sameWrites.trans writes)
  have tries : bundleWork (landedCx s c k v) (s.coreEnv c) (s.core c).pc 0 0 none =
      (landedCx s c k v).issue (s.coreEnv c) 0 {} {} false := by
    have empty : validA (opOf 0) = true ∧ validB (opOf 0) = true ∧
        planA (s.coreEnv c).virt (landedCx s c k v).r (s.core c).pc 0 = {} ∧ planB (landedCx s c k v).r (s.core c).pc 0 = {} :=
      ⟨by decide, by decide, rfl, rfl⟩
    simp only [bundleWork, empty, if_true, legal]
    exact Cx.tryIssue_plain _ _ _ _ _ rfl rfl rfl rfl running
  obtain ⟨nextPc, -⟩ := issued_next (s.coreEnv c) (landedCx s c k v).r {} {} rfl
  refine work.trans (tries.trans ?_)
  refine Cx.issue_eq (landedCx s c k v) (s.coreEnv c) 0 {} {} false (landedCx s c k v) (sameInt3.trans noInt3) rfl
    (fun frozen => by cases running.symm.trans frozen) off (by decide) ?_
  rw [nextPc, show (landedCx s c k v).r.dp.loops = (s.core c).dp.loops from sameLoops]
  exact inside

end lands

/-- A cycle in which the pipe moves is the answer of its slot command, with the shuttle's denied cycles counted. -/
theorem execSlot_of_runCycle (s : State) (c : Nat) (sel : Nat → Nat → Bool) (y : Cx) (site : c < Config.nCores)
    (governor : budgetBad (s.skein (skeinOf c)) = false) (work : (s.cx c).runCycle (s.coreEnv c) sel = y)
    (moved : y.r.dp.pt > (s.core c).dp.pt) :
    execSlot sel c s = .next (s.putCx c (y.countDenied (s.shEnv c) (s.remoteAsks c) (s.core c).dp.pt)) := by
  simp only [execSlot, onCore, onUnit, site, decide_true, if_true, State.budgetCheck_ok _ _ governor, State.onCx, work,
    State.cx_r, moved, true_or]

/-- Settles O10: the result lands, and the empty bundle issues behind it. -/
theorem dueResultsLand : Obligations.DueResultsLand := by
  intro s c k v register _ h due
  have unloaded : CanIssue (s.setCore c (s.core c).unloaded) c 0 0 := h
  have work := runCycle_lands_issues s c k v unloaded due
  obtain ⟨site, governor, running, nowait, -⟩ := unloaded
  rw [State.setCore_core_self] at running nowait
  obtain ⟨nextPc, nextLoops, nextPt, nextPend, -⟩ := issued_next (s.coreEnv c) (landedCx s c k v).r {} {} rfl
  obtain ⟨-, -, -, sameLoops, samePt, noPend⟩ := Datapath.landed_pipe (s.core c).dp k v
  have moved : (issued (s.coreEnv c) (landedCx s c k v).r {} {}).dp.pt = (s.core c).dp.pt + 1 :=
    nextPt.trans (congrArg (· + 1) samePt)
  have landed : Cycled { s.core c with dp := (s.core c).dp.setS k v } (landedCx s c k v).r := by
    simp only [landedCx, Cx.modDp, Datapath.landed, Datapath.setS, if_neg register]
    rfl
  refine ⟨_, execSlot_of_runCycle s c (inB 0x00) _ site governor work (moved ▸ Nat.lt_succ_self _), ?_, ?_⟩
  · rw [State.putCx_quiet _ _ _ rfl rfl rfl, OnlyCore, State.setCore_core_self]
  · rw [State.putCx_core, Cx.countDenied_r]
    exact ⟨issued_cycled_charged (s.coreEnv c) _ (landedCx s c k v).r {} {} _ landed running nowait,
      ⟨nextPc.trans (congrArg (fun l => (loopEnd (s.core c).pc l).2) sameLoops),
        nextLoops.trans (congrArg (fun l => (loopEnd (s.core c).pc l).1) sameLoops), moved⟩,
      nextPend.trans (congrArg (· ++ []) noPend)⟩

/-! ## Reserved opcodes (R98) -/

section reserved

variable (s : State) (c wa wb k : Nat) (h : CanIssue s c wa wb) (pay : opOf wa = 1 ∨ opOf wa = 4 → Paid s c)
  (reserved : validA (opOf wa) = false ∨ validB (opOf wb) = false)
  (least : leastCause (illegalCauses (issuing s c).r.dp wa wb
    (if validA (opOf wa) then planA (s.coreEnv c).virt (issuing s c).r (s.core c).pc wa else {})
    (if validB (opOf wb) then planB (issuing s c).r (s.core c).pc wb else {})) = some k)

include h pay reserved least

/-- A bundle with a reserved opcode freezes its core, and its address and least cause go out. -/
theorem exec_reservedOpcode : exec (.reservedOpcode c) s =
    .next (s.putCx c ((issuing s c).freeze 2 0x09 ((s.core c).pc % 1024 + (k <<< 10)))) := by
  have work : slotWork s c wa wb = (issuing s c).freeze 2 0x09 ((s.core c).pc % 1024 + (k <<< 10)) := by
    simp only [slotWork, bundleWork, least]
  have still : ¬ ((slotWork s c wa wb).r.dp.pt > (s.core c).dp.pt ∨ (slotWork s c wa wb).r.stallRun > (s.core c).stallRun) := by
    rw [work]
    exact fun e => e.elim (Nat.lt_irrefl _) (Nat.not_lt_zero _)
  have selected : (!validA (opOf wa) || !validB (opOf wb)) = true := by
    rcases reserved with e | e <;> simp [e]
  have exec := execSlot_work s c wa wb (fun a b => !validA a || !validB b) h selected pay
  rw [if_neg still, work] at exec
  exact exec

end reserved

theorem State.told_core (s : State) (c : Nat) (r : CoreRec) (kind sev detail : Nat) :
    (told s c r kind sev detail).core c = r :=
  State.setCore_core_self s c r

/-- Settles O11: the freeze and its message, whose detail holds the address and the cause without loss. -/
theorem illegalBundleFreezes : Obligations.IllegalBundleFreezes := by
  intro s c wa wb k h pay reserved x least small
  have fits : (s.core c).pc % 1024 + (k <<< 10) < 2 ^ 36 := by
    rw [Nat.shiftLeft_eq]
    omega
  have exec := exec_reservedOpcode s c wa wb k h pay reserved least
  rw [State.putCx_told s c _ 0x09 2 _ rfl rfl rfl fits] at exec
  have core := State.told_core s c { x with st := .frozen, freezeCause := 2 } 0x09 2 ((s.core c).pc % 1024 + (k <<< 10))
  refine ⟨_, exec, core, ?_⟩
  exact congrArg (fun r => ({ s.setCore c r with faults := { s.faults with
    inFlight := s.faults.inFlight ++ [⟨c, 0x09, 2, (s.core c).pc % 1024 + (k <<< 10), false⟩] } } : State)) core.symm

/-- Settles O25: the opcodes by counting them, and the freeze with whatever cause is the least. -/
theorem reservedOpcodesAreIllegal : Obligations.ReservedOpcodesAreIllegal := by
  refine ⟨by decide, fun op _ => decide_eq_true_iff, fun s c wa wb h pay reserved => ?_⟩
  obtain ⟨k, least⟩ := leastCause_of_mem 1 (illegalCauses (issuing s c).r.dp wa wb
    (if validA (opOf wa) then planA (s.coreEnv c).virt (issuing s c).r (s.core c).pc wa else {})
    (if validB (opOf wb) then planB (issuing s c).r (s.core c).pc wb else {})) (by
      have notBoth : (validA (opOf wa) && validB (opOf wb)) = false := by
        rcases reserved with e | e <;> simp [e]
      simp only [illegalCauses, notBoth, List.mem_append]
      simp)
  refine ⟨_, ((s.core c).pc % 1024 + (k <<< 10)) % 2 ^ 36, exec_reservedOpcode s c wa wb k h pay reserved least, ?_⟩
  rw [State.putCx_core]
  exact ⟨rfl, rfl, rfl, rfl, rfl, rfl⟩

end Sys2Proof.Machine
end

section
namespace Sys2Proof.Machine

open Sys2Proof

/-! PROOFS. The commit along a chain (O53): a harness message checks the route entry that it uses (R17, R335). -/

/-! ## A message over a route entry whose complement fails -/

/-- COMPLEMENT_MISMATCH of the route entry of an engine (R335). -/
def routeMismatch (e : Nat) : FaultMsg := ⟨srcSpan, 0x03, kindSeverity 0x03, (e + (9 <<< 28)) % 2 ^ 36, false⟩

theorem State.report_routeMismatch (s : State) (e : Nat) :
    (s.report srcSpan 0x03 (e + (9 <<< 28))).faults.inFlight = s.faults.inFlight ++ [routeMismatch e] := rfl

/-- With no flit in flight, no flit waits on the ring for the entry that is written again. -/
theorem State.rewrite_spanRoute_faults (s : State) (e : Nat) (empty : s.net = []) :
    (s.rewrite (.spanRoute e)).faults = s.faults := by
  simp [State.rewrite, State.egressAgain, empty]

theorem State.goodRoute_corrupt (s : State) (e : Nat) (corrupt : wordBad (s.routeWord e) = true) (empty : s.net = []) :
    (s.goodRoute e).faults.inFlight = s.faults.inFlight ++ [routeMismatch e] := by
  rw [State.goodRoute, if_pos corrupt, State.rewrite_spanRoute_faults _ _ (by exact empty), State.report_routeMismatch]

/-- Whether or not a hop survives the rewrite, the message itself reports nothing. -/
theorem State.sayTo_faults (s : State) (e what b id : Nat) (args : List Byte) (other : e ≠ s.engineNo) :
    (s.sayTo e what b id args).faults = (s.goodRoute e).faults := by
  rw [State.sayTo, if_neg other]
  cases hop : (s.goodRoute e).hopOf e with
  | none => simp only [hop]
  | some h => simp only [hop]; rfl

/-! ## EPOCH_COMMIT at the head of a chain of two -/

section head

variable {s : State} {b peer x : Nat} {l : LoadRec} {e : EpochRec}

theorem exec_epochCommit_chain (one : OneLoad s b l e) (head : e.position = 0) (chain : e.chain = [(s.engineNo, b), (peer, x)])
    (waits : l.committing = false) (ready : l.ready = [0, 1]) :
    exec (.epochCommit b) s =
      .next ((s.modBolt b fun r => { r with load := some { l with committing := true, acked := [0] } }).sendCommit b e 1) := by
  have run : exec (.epochCommit b) s = execEpochCommit b s := rfl
  have due : e.position = 0 ∧ l.committing = false ∧ allPositions e.chain.length l.ready = true :=
    ⟨head, waits, by rw [chain, ready]; rfl⟩
  have two : ¬ e.chain.length ≤ 1 := by simp [chain]
  have rest : (List.range e.chain.length).drop 1 = [1] := by rw [chain]; rfl
  rw [run, execEpochCommit, onBolt, onUnit_next _ _ _ (decide_eq_true one.bolt)]
  simp only [one.load, one.epoch, if_pos due, if_neg two, rest, List.foldl_cons, List.foldl_nil]

/-- The commit goes out over a corrupt route entry: the harness reports the entry before it sends. -/
theorem exec_epochCommit_corruptRoute (one : OneLoad s b l e) (head : e.position = 0)
    (chain : e.chain = [(s.engineNo, b), (peer, x)]) (other : peer ≠ s.engineNo) (waits : l.committing = false)
    (ready : l.ready = [0, 1]) (corrupt : wordBad (s.routeWord peer) = true) (empty : s.net = []) :
    ∃ t, exec (.epochCommit b) s = .next t ∧ t.faults.inFlight = s.faults.inFlight ++ [routeMismatch peer] := by
  refine ⟨_, exec_epochCommit_chain one head chain waits ready, ?_⟩
  have second : e.chain.getD 1 (0, 0) = (peer, x) := by rw [chain]; rfl
  rw [State.sendCommit, second, State.modBolt_faults, State.sayTo_faults _ _ _ _ _ _ (by exact other)]
  exact State.goodRoute_corrupt _ peer corrupt empty

end head

/-! ## The counterexample -/

/-- An epoch on this engine, number 0, and on bolt 2 of engine 3; both positions are ready. -/
def twoEngines : EpochRec := { num := 5, st := .loading, chain := [(0, 7), (3, 2)] }
def bothReady : LoadRec := { epoch := 5, ready := [0, 1] }

/-- The load on bolt 7, a bundle to engine 3, and its route entry: next hop 3 with the complement lost, and whole in the
harness's copy. -/
def struckRoute : State :=
  { bolts := [(7, { st := .loading, load := some bothReady, other := some twoEngines })]
    links := [(35, { state := 1, peerCfg := true, peerEngine := 3 })]
    span := { cfg := 64, route := [(3, 3 + 64)], routeCopy := [(3, withInv (3 + 64))] } }

theorem struckRoute_oneLoad : OneLoad struckRoute 7 bothReady twoEngines := ⟨by decide, rfl, rfl, rfl, rfl, rfl⟩

theorem struckRoute_corrupt : wordBad (struckRoute.routeWord 3) = true := by decide

theorem struckRoute_hop : struckRoute.hopOf 3 = some 3 := by decide

/-- Refutes O53: the statement asks only that a hop toward the other engine exists, and frames everything but the bolts and the
bundles. A route entry whose complement fails still names a hop, but the harness checks the pair as it uses it (R17, R335):
the commit to engine 3 reports COMPLEMENT_MISMATCH. -/
theorem not_commitEffects : ¬ Obligations.CommitEffects := by
  unfold Obligations.CommitEffects
  intro commits
  obtain ⟨_, _, alongChain⟩ := commits struckRoute 7 bothReady twoEngines struckRoute_oneLoad rfl
  obtain ⟨send, _⟩ := alongChain 3 2 3 rfl (by decide) (by decide) (by decide) struckRoute_hop
  obtain ⟨t, stated, _, _, frame⟩ := send rfl rfl
  obtain ⟨u, sent, reported⟩ := exec_epochCommit_corruptRoute struckRoute_oneLoad rfl rfl (by decide) rfl rfl
    struckRoute_corrupt rfl
  obtain rfl : t = u := Host.Outcome.next.inj (stated.symm.trans sent)
  have silent : t.faults.inFlight = [] := by rw [frame]; rfl
  exact absurd (silent.symm.trans reported) (by decide)

end Sys2Proof.Machine
end

section
namespace Sys2Proof.Machine

open Sys2Proof

/-! PROOFS. Control by the harness alone (O38): what another source's CTRL flits and accesses to store select 100 come to. -/

/-- The rows from 960 on that have offset 0 in a side's 16 rows are those of the four harness blocks (R172). -/
theorem fromHarness_iff (f : Flit) :
    f.fromHarness = true ↔ ∃ side, side < 4 ∧ f.srcY = 960 + 16 * side ∧ f.srcX ≤ 3 := by
  simp only [Flit.fromHarness, Bool.and_eq_true, decide_eq_true_eq]
  constructor
  · rintro ⟨⟨⟨low, row⟩, high⟩, column⟩
    exact ⟨(f.srcY - 960) / 16, by omega, by omega, by omega⟩
  · rintro ⟨side, four, row, column⟩
    exact ⟨⟨⟨by omega, by omega⟩, by omega⟩, by omega⟩

/-- Store select 100 is no store. -/
theorem localOk_control (r : CoreRec) (write : Bool) (off n : Nat) : localOk r write 4 off n = false := by
  simp [localOk]

/-- The core has reported ADDRESS_RANGE for an access to its control block and answered it. -/
def Cx.refuseRange (x : Cx) (detail : Nat) (back : Flit) : Cx := (x.say 0x05 2 detail).send back

/-- A core that refuses an access keeps its record: only its message and its answer go out. -/
theorem putCx_refuseRange (s : State) (f : Flit) (rest : List NetFlit) (detail : Nat) (back : Flit) :
    State.putCx { s with net := rest } (coreAt f) ((doorCx s f).refuseRange detail back) =
      { s.setCore (coreAt f) (s.core (coreAt f)) with
        net := rest ++ [⟨back, .router (coreX (coreAt f)) (coreY (coreAt f)) 0⟩]
        faults := { s.faults with inFlight := s.faults.inFlight ++ [⟨coreAt f, 0x05, 2, detail % 2 ^ 36, false⟩] } } := rfl

section foreign

variable {s : State} {f : Flit} {rest : List NetFlit} (h : AtCore s f rest) (foreign : f.fromHarness = false)

include h foreign

/-- A CTRL flit of another source is dropped and reported (R54). -/
theorem exec_ctrl_foreign (ty : f.type = .ctrl) :
    exec (.ctrl f) s = .next (State.report { s with net := rest } (coreAt f) 0x05 (gaLow f.dst)) := by
  change execCtrl f s = _
  rw [execCtrl, decide_eq_true ty, whenS, if_pos rfl, arriving_atDoor h.toAtDoor h.core, if_pos h.core]
  exact congrArg _ (if_pos (by rw [foreign]; rfl))

/-- A WRITE or WRITE_WORD of another source is taken as one to a store, whatever its store select. -/
theorem exec_write_foreign (cmd : Instr) (ty : f.type = .write ∧ cmd = .write f ∨ f.type = .writeWord ∧ cmd = .writeWord f) :
    exec cmd s = .next (State.putCx { s with net := rest } (coreAt f) ((doorCx s f).takeWrite f s.time)) := by
  have unheeded : ¬ (gaSs f.dst = 4 ∧ ccbOk f (gaOff f.dst) = true) := fun p => by
    rw [ccbOk, foreign] at p
    exact absurd p.2 (by simp)
  have taken : s.arriving f (fun s => s.takeWrite f) =
      State.putCx { s with net := rest } (coreAt f) ((doorCx s f).takeWrite f s.time) := by
    rw [arriving_atDoor h.toAtDoor h.core, State.takeWrite, if_pos h.core]
    exact (if_neg unheeded).trans (coreTakes_alive _ _ _ h.alive)
  obtain ⟨ty, rfl⟩ | ⟨ty, rfl⟩ := ty
  · change execWrite f s = _
    rw [execWrite, decide_eq_true ty, whenS, if_pos rfl, taken]
  · change execWriteWord f s = _
    rw [execWriteWord, decide_eq_true ty, whenS, if_pos rfl, taken]

variable (control : gaSs f.dst = 4) (awake : (s.core (coreAt f)).st ≠ .scrubbing)

include control awake

/-- To store select 100 it is refused with reason 2, and nothing is written. -/
theorem exec_write_control (keeps : (s.core (coreAt f)).discard = false) (free : f.credited = false) (cmd : Instr)
    (ty : f.type = .write ∧ cmd = .write f ∨ f.type = .writeWord ∧ cmd = .writeWord f) :
    exec cmd s = .next (State.putCx { s with net := rest } (coreAt f)
      ((doorCx s f).refuseRange (gaLow f.dst) (answer .nack f (1 + 64) 0))) := by
  have quiet : (doorCx s f).perfEvent 0x0F = doorCx s f := Cx.perfEvent_off _ _ h.countersOff
  have open_ : ¬ ((doorCx s f).r.st = .scrubbing ∨ (doorCx s f).r.discard = true) := fun p =>
    p.elim awake fun e => absurd (keeps.symm.trans e) (by decide)
  have paid : creditCause (doorCx s f).r f = none := by
    rw [creditCause_uncredited _ _ free, control]
    exact if_neg fun p => absurd p.1 (by decide)
  have nack : ((doorCx s f).say 0x05 2 (gaLow f.dst)).nack f 2 =
      (doorCx s f).refuseRange (gaLow f.dst) (answer .nack f (1 + 64) 0) := Cx.perfEvent_off _ _ h.countersOff
  have work : (doorCx s f).takeWrite f s.time = (doorCx s f).refuseRange (gaLow f.dst) (answer .nack f (1 + 64) 0) := by
    rw [Cx.takeWrite, quiet]
    simp only [if_neg open_, paid, control, localOk_control, Bool.not_false, if_true]
    exact nack
  rw [exec_write_foreign h foreign cmd ty, work]

/-- A one-line READ of store select 100 is answered with reason 2, and nothing is read. -/
theorem exec_read_control (ty : f.type = .read) (one : f.arg % 16 = 0) :
    exec (.read f) s = .next (State.putCx { s with net := rest } (coreAt f)
      ((doorCx s f).refuseRange (locAddr 4 (gaOff f.dst)) (answer .readData f 64 0))) := by
  have count : f.count = 1 := by rw [Flit.count, one]
  have quiet : (doorCx s f).perfEvent 0x0F = doorCx s f := Cx.perfEvent_off _ _ h.countersOff
  have line : (doorCx s f).readLine 4 (gaOff f.dst) = ((doorCx s f).say 0x05 2 (locAddr 4 (gaOff f.dst)), 2, 0) :=
    (if_neg awake).trans (if_pos (by rw [localOk_control]; rfl))
  have sent : (((doorCx s f).say 0x05 2 (locAddr 4 (gaOff f.dst))).send (dataOf f 2 0)).perfEvent 0x0E =
      (doorCx s f).refuseRange (locAddr 4 (gaOff f.dst)) (answer .readData f 64 0) := Cx.perfEvent_off _ _ h.countersOff
  have work : Cx.takeRead f f.count 0 ((doorCx s f).perfEvent 0x0F) =
      (doorCx s f).refuseRange (locAddr 4 (gaOff f.dst)) (answer .readData f 64 0) := by
    rw [quiet, count]
    simp only [Cx.takeRead, control, Nat.mul_zero, Nat.add_zero, line]
    exact sent
  have unheeded : ¬ (gaSs f.dst = 4 ∧ f.fromHarness = true) := fun p => absurd (foreign.symm.trans p.2) (by decide)
  change execRead f s = _
  rw [execRead, decide_eq_true ty, whenS, if_pos rfl, arriving_atDoor h.toAtDoor h.core, if_pos h.core]
  refine congrArg _ ((if_neg unheeded).trans ((coreTakes_alive { s with net := rest } _ _ h.alive).trans ?_))
  exact congrArg (State.putCx { s with net := rest } (coreAt f)) work

end foreign

/-- Settles O38: whatever is refused reaches the core's report and answer alone. -/
theorem onlyHarnessControls : Obligations.OnlyHarnessControls := by
  refine ⟨fromHarness_iff, fun s f rest h foreign => ?_⟩
  intro told
  refine ⟨fun ty => ⟨_, exec_ctrl_foreign h foreign ty, rfl, _, rfl⟩, fun control awake keeps => ?_⟩
  intro answered
  exact ⟨fun ty free => ⟨_, exec_write_control h foreign control awake keeps free _ (.inl ⟨ty, rfl⟩), rfl, _, rfl⟩,
    fun ty free => ⟨_, exec_write_control h foreign control awake keeps free _ (.inr ⟨ty, rfl⟩), rfl, _, rfl⟩,
    fun ty one => ⟨_, exec_read_control h foreign control awake ty one, rfl, _, rfl⟩⟩

end Sys2Proof.Machine
end

section
namespace Sys2Proof.Machine

open Sys2Proof

/-! PROOFS. A flit alone in flight at an open router (O26). -/

/-! ## The way on (R144, R153) -/

/-- Dimension order never leaves the array toward a core of it: the port it takes is that of the hop. -/
theorem leave_dimPort (x y tx ty : Nat) (hx : x < 512) (hy : y < 576) (htx : tx < 512) (hty : ty < 576) :
    leave x y (dimPort x y tx ty) = .at_ (hop x y tx ty) := by
  rcases Nat.lt_trichotomy x tx with east | rfl | west
  · have far : (decide (x % 8 = 0) && decide (8 ≤ ((tx : Int) - x).natAbs) && decide (x + 8 ≤ 511)) =
        decide (x % 8 = 0 ∧ x + 8 ≤ tx) := by
      rw [Bool.eq_iff_iff]
      simp only [Bool.and_eq_true, decide_eq_true_eq]
      omega
    have differ : (tx : Int) ≠ x := by omega
    have toward : decide ((x : Int) < tx) = true := decide_eq_true (by omega)
    simp only [dimPort, if_pos differ, toward, if_true, far, decide_eq_true_eq, hop, if_pos east]
    split
    · rfl
    · simp only [leave, if_neg (show ¬ x = 511 by omega)]
  · have same : ¬ (x : Int) ≠ x := by simp
    rcases Nat.lt_trichotomy y ty with south | rfl | north
    · have far : (decide (y % 8 = 0) && decide (8 ≤ ((ty : Int) - y).natAbs) && decide (y + 8 ≤ 575)) =
          decide (y % 8 = 0 ∧ y + 8 ≤ ty) := by
        rw [Bool.eq_iff_iff]
        simp only [Bool.and_eq_true, decide_eq_true_eq]
        omega
      have differ : (ty : Int) ≠ y := by omega
      have toward : decide ((y : Int) < ty) = true := decide_eq_true (by omega)
      simp only [dimPort, if_neg same, if_pos differ, toward, if_true, far, decide_eq_true_eq, hop, Nat.lt_irrefl, if_false,
        if_pos south]
      split
      · rfl
      · simp only [leave, if_neg (show ¬ y = 575 by omega)]
    · simp only [dimPort, ne_eq, not_true_eq_false, if_false, hop, Nat.lt_irrefl, leave]
    · have far : (decide (y % 8 = 0) && decide (8 ≤ ((ty : Int) - y).natAbs) && decide (8 ≤ y)) =
          decide (y % 8 = 0 ∧ ty + 8 ≤ y) := by
        rw [Bool.eq_iff_iff]
        simp only [Bool.and_eq_true, decide_eq_true_eq]
        omega
      have differ : (ty : Int) ≠ y := by omega
      have toward : decide ((y : Int) < ty) = false := decide_eq_false (by omega)
      simp only [dimPort, if_neg same, if_pos differ, toward, Bool.false_eq_true, if_false, far, decide_eq_true_eq, hop,
        Nat.lt_irrefl, if_neg (Nat.lt_asymm north), if_pos north]
      split
      · rfl
      · simp only [leave, if_neg (show ¬ y = 0 by omega)]
  · have far : (decide (x % 8 = 0) && decide (8 ≤ ((tx : Int) - x).natAbs) && decide (8 ≤ x)) =
        decide (x % 8 = 0 ∧ tx + 8 ≤ x) := by
      rw [Bool.eq_iff_iff]
      simp only [Bool.and_eq_true, decide_eq_true_eq]
      omega
    have differ : (tx : Int) ≠ x := by omega
    have toward : decide ((x : Int) < tx) = false := decide_eq_false (by omega)
    simp only [dimPort, if_pos differ, toward, Bool.false_eq_true, if_false, far, decide_eq_true_eq, hop,
      if_neg (Nat.lt_asymm west), if_pos west]
    split
    · rfl
    · simp only [leave, if_neg (show ¬ x = 0 by omega)]

/-! ## The registers of an open router -/

theorem wordVal_withInv (v : Nat) : wordVal (withInv v) = v % 2 ^ 32 := by
  rw [wordVal, withInv_toNat, bits, Nat.shiftRight_zero, Nat.add_mul_mod_self_right, Nat.mod_mod]

/-- A bit above the number. -/
theorem bitAt_of_lt (v i n : Nat) (small : v < 2 ^ n) (above : n ≤ i) : bitAt v i = false := by
  rw [bitAt_eq_testBit]
  exact Nat.testBit_lt_two_pow (Nat.lt_of_lt_of_le small (Nat.pow_le_pow_right (by decide) above))

section open_

variable {s : State} {x y : Nat} (h : OpenRouter s x y)

include h

theorem openRouter_bad (i : Nat) : (s.router (coreNum x y)).bad i = false := by
  rw [RouterRec.bad, h.open_]
  exact wordBad_withInv _

theorem openRouter_small : (s.router (coreNum x y)).val 0 < 2 ^ 4 := by
  have same : (s.router (coreNum x y)).val 0 = (s.router (coreNum x y)).val 0 % 16 % 2 ^ 32 := by
    conv_lhs => rw [RouterRec.val, h.open_, wordVal_withInv]
    rfl
  omega

theorem openRouter_fenced (p : Nat) : (s.router (coreNum x y)).fenced p = false := by
  rcases Nat.eq_zero_or_pos p with rfl | pos
  · rfl
  · rw [RouterRec.fenced, bitAt_of_lt _ _ 4 (openRouter_small h) (by omega), Bool.and_false]

theorem openRouter_blocked (p : Nat) : (s.router (coreNum x y)).blocked p = false := by
  have zero : (s.router (coreNum x y)).val 1 = 0 := by
    rw [RouterRec.val, h.open_, wordVal_withInv]
    rfl
  have clear (i : Nat) : bitAt 0 i = false := bitAt_of_lt 0 i 0 Nat.one_pos (Nat.zero_le i)
  rw [RouterRec.blocked, zero]
  split <;> exact clear _

/-- Port counters that are off count nothing. -/
theorem openRouter_countPort (f : Flit) (p : Nat) (input : Bool) : s.countPort f (coreNum x y) p input = s := by
  rw [State.countPort]
  refine if_neg ?_
  simp [h.countersOff, Tab.get, bitAt]

/-- Nothing holds a flit for a core of this engine. -/
theorem openRouter_verdict (f : Flit) (here : gaEngine f.dst = s.engineNo) (core : gaY f.dst < 576) (direct : f.wp = none) :
    s.verdict f x y = .go (dimPort x y (gaX f.dst) (gaY f.dst)) f := by
  have next : s.nextPort f x y = (dimPort x y (gaX f.dst) (gaY f.dst), f) := by
    simp only [State.nextPort, State.exitPoint, here, ne_eq, not_true_eq_false, if_false, core, if_true, direct]
    cases f.phase <;> rfl
  simp only [State.verdict, here, ne_eq, not_true_eq_false, false_and, if_false, next, openRouter_bad h, openRouter_fenced h,
    openRouter_blocked h, Bool.and_false, Bool.false_eq_true, Bool.not_false, if_true]

end open_

/-! ## A flit that goes out (R150) -/

/-- One flit is in flight, and but for the arbitration counts of router `c` the rest is as in `s`. -/
def WentOn (s t : State) (c : Nat) (e : NetFlit) : Prop :=
  t = { s with net := [e], routers := t.routers } ∧ (t.router c).reg = (s.router c).reg ∧ ∀ k, k ≠ c → t.router k = s.router k

theorem swapNet_only (s : State) (e : NetFlit) (l : List NetFlit) (only : s.net = [e]) : s.swapNet e l = { s with net := l } := by
  simp [State.swapNet, only, swapFirst]

/-- With no other flit in flight none waits for a port. -/
theorem waitingAt_only (s : State) (f : Flit) (l : Loc) (x y p : Nat) (vc : Nat → Bool) (only : s.net = [⟨f, l⟩]) :
    s.waitingAt f x y p vc = false := by
  simp [State.waitingAt, only]

theorem myTurn_only (s : State) (f : Flit) (l : Loc) (x y p : Nat) (only : s.net = [⟨f, l⟩]) : s.myTurn f x y p = true := by
  simp [State.myTurn, waitingAt_only s f l x y p _ only]

theorem went_router (s : State) (f : Flit) (x y p : Nat) :
    ((s.went f x y p).router (coreNum x y)).reg = (s.router (coreNum x y)).reg ∧
      ∀ k, k ≠ coreNum x y → (s.went f x y p).router k = s.router k := by
  refine ⟨?_, fun k hk => State.modRouter_router_ne _ _ _ _ hk⟩
  rw [State.went, State.modRouter_router_self]
  split <;> rfl

section alone

variable {s : State} {x y : Nat} (h : OpenRouter s x y) (f : Flit) (core : gaY f.dst < 576)

include h core

theorem tryOut_alone (l : Loc) (only : s.net = [⟨f, l⟩]) (p : Nat)
    (way : p = dimPort x y (gaX f.dst) (gaY f.dst)) :
    WentOn s (s.tryOut ⟨f, l⟩ x y p) (coreNum x y) ⟨f, hop x y (gaX f.dst) (gaY f.dst)⟩ := by
  have out : leave x y p = .at_ (hop x y (gaX f.dst) (gaY f.dst)) := by
    rw [way]
    exact leave_dimPort x y _ _ h.column h.row (bits_lt _ _ _) core
  have goes : s.tryOut ⟨f, l⟩ x y p = (s.went f x y p).swapNet ⟨f, l⟩ [⟨f, hop x y (gaX f.dst) (gaY f.dst)⟩] := by
    simp only [State.tryOut, myTurn_only s f l x y p only, if_true, openRouter_countPort h, out]
  rw [goes, swapNet_only _ _ _ (by exact only)]
  obtain ⟨own, others⟩ := went_router s f x y p
  exact ⟨rfl, own, others⟩

variable (here : gaEngine f.dst = s.engineNo)

include here

/-- It is decided and goes out at once. -/
theorem decideFlit_alone (port : Nat) (l : Loc) (only : s.net = [⟨f, l⟩]) (direct : f.wp = none) :
    WentOn s (s.decideFlit ⟨f, l⟩ x y port) (coreNum x y) ⟨f, hop x y (gaX f.dst) (gaY f.dst)⟩ := by
  have decided : s.decideFlit ⟨f, l⟩ x y port =
      State.tryOut { s with net := [⟨f, .queued x y port (dimPort x y (gaX f.dst) (gaY f.dst))⟩] }
        ⟨f, .queued x y port (dimPort x y (gaX f.dst) (gaY f.dst))⟩ x y (dimPort x y (gaX f.dst) (gaY f.dst)) := by
    simp only [State.decideFlit, openRouter_verdict h f here core direct, swapNet_only _ _ _ only]
  rw [decided]
  exact tryOut_alone (s := { s with net := [⟨f, .queued x y port (dimPort x y (gaX f.dst) (gaY f.dst))⟩] })
    ⟨h.column, h.row, h.open_, h.notLost, h.powered, h.countersOff⟩ f core _ rfl _ rfl

/-- From another port it goes on as it is. -/
theorem admitFlit_through (port : Nat) (through : port ≠ 0) (l : Loc) (only : s.net = [⟨f, l⟩]) (direct : f.wp = none) :
    WentOn s (s.admitFlit ⟨f, l⟩ x y port) (coreNum x y) ⟨f, hop x y (gaX f.dst) (gaY f.dst)⟩ := by
  have admitted : s.admitFlit ⟨f, l⟩ x y port =
      State.decideFlit { s with net := [⟨f, .held x y port⟩] } ⟨f, .held x y port⟩ x y port := by
    rw [State.admitFlit, if_neg through, swapNet_only _ _ _ only]
  rw [admitted]
  exact decideFlit_alone (s := { s with net := [⟨f, .held x y port⟩] })
    ⟨h.column, h.row, h.open_, h.notLost, h.powered, h.countersOff⟩ f core here port _ rfl direct

/-- What its own core injects goes on with the router's stamp, if it is control or the core belongs to a bolt (R160). -/
theorem admitFlit_own (member : f.vc = 0 ∨ bitAt ((s.router (coreNum x y)).val 0) 3 = true) (l : Loc) (only : s.net = [⟨f, l⟩])
    (direct : f.wp = none) :
    WentOn s (s.admitFlit ⟨f, l⟩ x y 0) (coreNum x y) ⟨s.stamp f x y, hop x y (gaX f.dst) (gaY f.dst)⟩ := by
  have passes : ((s.stamp f x y).isData && !bitAt ((s.router (coreNum x y)).val 0) 3) = false := by
    rcases member with control | member
    · rw [show (s.stamp f x y).isData = false from decide_eq_false (not_not.2 control), Bool.false_and]
    · rw [member, Bool.not_true, Bool.and_false]
  have admitted : s.admitFlit ⟨f, l⟩ x y 0 =
      State.decideFlit { s with net := [⟨s.stamp f x y, .held x y 0⟩] } ⟨s.stamp f x y, .held x y 0⟩ x y 0 := by
    simp only [State.admitFlit, if_true, openRouter_bad h, Bool.false_eq_true, if_false, passes, swapNet_only _ _ _ only]
  rw [admitted]
  exact decideFlit_alone (s := { s with net := [⟨s.stamp f x y, .held x y 0⟩] })
    ⟨h.column, h.row, h.open_, h.notLost, h.powered, h.countersOff⟩ (s.stamp f x y) core here 0 _ rfl direct

end alone

/-! ## ROUTE_FLIT -/

theorem exec_routeFlit {s : State} {x y port : Nat} (h : OpenRouter s x y) (entry : port < 9) (f : Flit) (err : EccErr) :
    exec (.routeFlit f x y port err) s = .next (match s.firstIn f x y port with
      | some e => if e.flit = f then s.goOn e x y port err else s
      | none => ((s.takeMsg f x y port).putNet f (.router x y port)).goOn ⟨f, .router x y port⟩ x y port err) := by
  have known : (decide (x < Config.columns) && decide (y < Config.rows) && decide (port < 9)) = true := by
    rw [decide_eq_true (show x < Config.columns from h.column), decide_eq_true (show y < Config.rows from h.row),
      decide_eq_true entry]
    rfl
  have up : s.domainUp (skeinOf (coreNum x y)) = true := by
    rw [State.domainUp, decide_eq_true h.powered.1, decide_eq_true h.powered.2]
    rfl
  change execRouteFlit f x y port err s = _
  rw [execRouteFlit, onUnit_next _ _ _ known, State.routeFlit, h.notLost, up]
  rfl

/-- The flit at the head of its queue is checked and goes on. -/
theorem exec_routeFlit_alone {s : State} {f : Flit} {x y port : Nat} (h : Alone s f x y port) (err : EccErr) :
    exec (.routeFlit f x y port err) s = .next (s.goOn ⟨f, .router x y port⟩ x y port err) := by
  have first : s.firstIn f x y port = some ⟨f, .router x y port⟩ := by
    rw [State.firstIn, h.only]
    exact List.find?_cons_of_pos (by simp [atInput])
  rw [exec_routeFlit h.toOpenRouter h.entry, first]
  exact congrArg _ (if_pos rfl)

theorem goOn_sound {s : State} {x y : Nat} (h : OpenRouter s x y) (f : Flit) (port : Nat) :
    s.goOn ⟨f, .router x y port⟩ x y port .none = s.admitFlit ⟨f, .router x y port⟩ x y port := by
  simp only [State.goOn, openRouter_countPort h]

/-- An uncorrectable flit is dropped where it enters, and reported (R149). -/
theorem goOn_double {s : State} {x y : Nat} (h : OpenRouter s x y) (f : Flit) (port : Nat)
    (only : s.net = [⟨f, .router x y port⟩]) : s.goOn ⟨f, .router x y port⟩ x y port .double =
      State.reportSev { s with net := [] } (coreNum x y) 0x02 2 (port + 2 ^ 35) := by
  simp only [State.goOn, openRouter_countPort h, swapNet_only _ _ _ only]

/-- A core without a bolt injects no data: its WRITE is dropped, reported and answered (R160). -/
theorem admitFlit_stranger {s : State} {x y : Nat} (h : OpenRouter s x y) (f : Flit) (l : Loc) (only : s.net = [⟨f, l⟩])
    (data : f.vc ≠ 0) (stranger : bitAt ((s.router (coreNum x y)).val 0) 3 = false) (write : f.type = .write) :
    s.admitFlit ⟨f, l⟩ x y 0 = (State.report { s with net := [] } (coreNum x y) 0x0D (bits f.dst 19 28)).putNet
      (s.stamp (nackOf (s.stamp f x y) 3) x y) (.core x y) := by
  have stops : ((s.stamp f x y).isData && !bitAt ((s.router (coreNum x y)).val 0) 3) = true := by
    rw [stranger, Flit.isData, decide_eq_true (show (s.stamp f x y).vc ≠ 0 from data)]
    rfl
  have asks : (s.stamp f x y).isRequest = true := by
    rw [Flit.isRequest, decide_eq_true (show (s.stamp f x y).type = .write from write)]
    rfl
  simp only [State.admitFlit, if_true, openRouter_bad h, Bool.false_eq_true, if_false, stops, swapNet_only _ _ _ only, asks]
  rfl

/-! ## The FAULT flit of a message (R377, R378; log entry 73) -/

theorem gaMake_low (a b c : Nat) : gaMake a b c 0 = a * 2 ^ 41 + b * 2 ^ 31 + c * 2 ^ 22 := by
  rw [gaMake, Nat.shiftLeft_eq, Nat.shiftLeft_eq, Nat.shiftLeft_eq, Nat.add_zero]

theorem gaX_gaMake (e y x : Nat) (h : x < 512) : gaX (gaMake e y x 0) = x := by
  rw [gaX, bits, gaMake_low, Nat.shiftRight_eq_div_pow]
  omega

theorem gaY_gaMake (e y x : Nat) (hx : x < 512) (hy : y < 1024) : gaY (gaMake e y x 0) = y := by
  rw [gaY, bits, gaMake_low, Nat.shiftRight_eq_div_pow]
  omega

theorem gaEngine_gaMake (e y x : Nat) (he : e < 64) (hx : x < 512) (hy : y < 1024) : gaEngine (gaMake e y x 0) = e := by
  rw [gaEngine, bits, gaMake_low, Nat.shiftRight_eq_div_pow]
  omega

theorem coreNum_coreX_coreY (c : Nat) : coreNum (coreX c) (coreY c) = c := by
  rw [coreNum, coreX, coreY]
  omega

theorem coreX_lt (c : Nat) : coreX c < 512 := Nat.mod_lt _ (by decide)

/-- Collectors stand in rows of the array. -/
theorem coreY_collectorCore (c : Nat) (h : c < Config.nCores) : coreY (collectorCore (fieldOf c)) < 576 := by
  have rows : c < 294912 := h
  simp only [coreY, collectorCore, coreNum, fieldOf, coreX]
  omega

/-- With nothing in flight the FAULT flit of a message enters its router, and the message is on its way as that flit. -/
theorem exec_routeFlit_message {s : State} {m : FaultMsg} {c : Nat} (h : OpenRouter s (coreX c) (coreY c))
    (from_ : faultRouter m.source = some c) (empty : s.net = []) (one : s.faults.inFlight = [m]) :
    exec (.routeFlit (s.faultFlit m c) (coreX c) (coreY c) 0 .none) s = .next
      (State.admitFlit { s with
          net := [⟨s.faultFlit m c, .router (coreX c) (coreY c) 0⟩], faults := { s.faults with inFlight := [] } }
        ⟨s.faultFlit m c, .router (coreX c) (coreY c) 0⟩ (coreX c) (coreY c) 0) := by
  have none_ : s.firstIn (s.faultFlit m c) (coreX c) (coreY c) 0 = none := by rw [State.firstIn, empty]; rfl
  have mine : s.faults.inFlight.find? (fun k => decide (faultRouter k.source = some (coreNum (coreX c) (coreY c))) &&
      decide (s.faultFlit k (coreNum (coreX c) (coreY c)) = s.faultFlit m c)) = some m := by
    rw [one]
    exact List.find?_cons_of_pos (by simp [coreNum_coreX_coreY, from_])
  have taken : (s.takeMsg (s.faultFlit m c) (coreX c) (coreY c) 0).putNet (s.faultFlit m c) (.router (coreX c) (coreY c) 0) =
      { s with net := [⟨s.faultFlit m c, .router (coreX c) (coreY c) 0⟩], faults := { s.faults with inFlight := [] } } := by
    rw [State.takeMsg, if_pos ⟨rfl, rfl⟩, mine]
    simp only [State.putNet, one, empty, List.erase_cons_head, List.nil_append]
  rw [exec_routeFlit h (by decide), none_]
  simp only [taken]
  exact congrArg _ (goOn_sound (s := { s with
      net := [⟨s.faultFlit m c, .router (coreX c) (coreY c) 0⟩], faults := { s.faults with inFlight := [] } })
    ⟨h.column, h.row, h.open_, h.notLost, h.powered, h.countersOff⟩ _ 0)

/-- Settles O26: the flit at the router by its port, its member bit and its error, and the message that becomes a flit. -/
theorem routingEffects : Obligations.RoutingEffects := by
  refine ⟨fun s f x y port h => ?_, fun s m c core h engine from_ empty one => ?_⟩
  · intro c v own
    have exec_ := exec_routeFlit_alone h
    refine ⟨fun through => ?_, fun inject member => ?_, fun inject data stranger write => ?_, ?_⟩
    · have run := (exec_ .none).trans (congrArg _ (goOn_sound h.toOpenRouter f port))
      exact ⟨_, run, admitFlit_through h.toOpenRouter f h.toCore h.here port through _ h.only h.direct⟩
    · subst inject
      have run := (exec_ .none).trans (congrArg _ (goOn_sound h.toOpenRouter f 0))
      exact ⟨_, run, admitFlit_own h.toOpenRouter f h.toCore h.here member _ h.only h.direct⟩
    · subst inject
      rw [exec_ .none, goOn_sound h.toOpenRouter, admitFlit_stranger h.toOpenRouter f _ h.only data stranger write]
      have fits : bits f.dst 19 28 < 2 ^ 36 := (bits_lt _ _ _).trans (by decide)
      simp only [State.report, State.reportSev, Nat.mod_eq_of_lt fits]
      rfl
    · rw [exec_ .double, goOn_double h.toOpenRouter f port h.only]
      have fits : port + 2 ^ 35 < 2 ^ 36 := by have := h.entry; omega
      simp only [State.reportSev, Nat.mod_eq_of_lt fits]
      rfl
  · intro v k f
    have row : coreY k < 576 := coreY_collectorCore c core
    have run := exec_routeFlit_message h from_ empty one
    have went := admitFlit_own (s := { s with
        net := [⟨s.faultFlit m c, .router (coreX c) (coreY c) 0⟩], faults := { s.faults with inFlight := [] } })
      ⟨h.column, h.row, h.open_, h.notLost, h.powered, h.countersOff⟩ (s.faultFlit m c)
      ((gaY_gaMake _ _ _ (coreX_lt k) (row.trans (by decide))).trans_lt row)
      (gaEngine_gaMake _ _ _ engine (coreX_lt k) (row.trans (by decide))) (.inl rfl) _ rfl rfl
    rw [show gaX (s.faultFlit m c).dst = coreX k from gaX_gaMake _ _ _ (coreX_lt k),
      show gaY (s.faultFlit m c).dst = coreY k from gaY_gaMake _ _ _ (coreX_lt k) (row.trans (by decide)), coreNum_coreX_coreY] at went
    have stamped : State.stamp s f (coreX c) (coreY c) =
        { f with srcY := coreY c, srcX := coreX c, srcEngine := s.engineNo, bolt := bits v 0 3 } := by
      rw [State.stamp, coreNum_coreX_coreY]
      rfl
    rw [← stamped]
    exact ⟨_, run, went⟩

end Sys2Proof.Machine
end

section
namespace Sys2Proof.Machine

open Sys2Proof

/-! PROOFS. The request ring of a harness core, fetches and chain reports (O60). -/

/-! ## Words of a core's store -/

theorem Stores.mem_setMem (st : Stores) (ss : Nat) (m : List Host.Cell) : (st.setMem ss m).mem ss = m := by
  simp only [Stores.setMem, Stores.mem]
  split
  · rfl
  · split
    · rfl
    · split <;> rfl

theorem Stores.mem_write (st : Stores) (ss off n v : Nat) :
    (st.write ss off n v).mem ss = writeLE (st.mem ss) off n v := Stores.mem_setMem st ss _

/-- What was written reads back. -/
theorem Stores.read_write_same (st : Stores) (ss off n v : Nat) : (st.write ss off n v).read ss off n = v % 2 ^ (8 * n) := by
  rw [Stores.read, Stores.mem_write, writeLE, readLE_writeBytes_leBytes]

/-- A word beside the one written reads as before. -/
theorem Stores.read_write_apart (st : Stores) (ss off n v a k : Nat) (apart : a + k ≤ off ∨ off + n ≤ a) :
    (st.write ss off n v).read ss a k = st.read ss a k := by
  rw [Stores.read, Stores.mem_write, writeLE, readLE_writeBytes_out _ _ _ _ _ (by rw [leBytes_length]; exact apart)]
  rfl

/-! ## Pages of a request (R199) -/

/-- The pages of a request, once replaced, wherever they stand. -/
theorem State.reqKv_replaced (s : State) (i : Nat) (kv : Tab KvRec) :
    (s.setReqKv i kv).reqKv ((s.setReqKv i kv).req i) = kv := by
  by_cases loose : (s.req i).slot = noSlot
  · simp only [State.setReqKv, if_pos loose, State.setReq_req_self, State.reqKv, Option.getD_some]
    exact if_pos loose
  · rw [State.setReqKv, if_neg loose]
    simp only [State.reqKv, State.modBolt_unit_req, if_neg loose, State.modBolt_bolt_self]
    exact congrArg SlotRec.kv (BoltRec.slotRec_modSlot_self _ _ _)

theorem pageAt_of_cores {s t : State} (h : t = { s with cores := t.cores }) (i region j : Nat) :
    pageAt t i region j = pageAt s i region j := by
  rw [h]
  rfl

theorem pageAt_setReqKv (s : State) (i region j : Nat) (kv : Tab KvRec) :
    pageAt (s.setReqKv i kv) i region j = (Tab.get {} kv region).pages[j]? := by
  rw [pageAt, State.reqKv_replaced]

theorem State.setReqKv_frame (s : State) (i : Nat) (kv : Tab KvRec) :
    s.setReqKv i kv = { s with bolts := (s.setReqKv i kv).bolts, reqs := (s.setReqKv i kv).reqs } := by
  rw [State.setReqKv]
  split <;> rfl

/-- A page changed is the request's page with its copy's complement; besides it cores alone change. -/
theorem State.modPage_eq {s : State} {i region j : Nat} {p : KvPage} (f : KvPage → KvPage) (h : pageAt s i region j = some p) :
    ∃ kv, (Tab.get {} kv region).pages[j]? = some (f p).sealed ∧
      s.modPage i region j f = { s.setReqKv i kv with cores := (s.modPage i region j f).cores } := by
  have page : (Tab.get {} (s.reqKv (s.req i)) region).pages[j]? = some p := h
  have inside : j < (Tab.get {} (s.reqKv (s.req i)) region).pages.length := by
    by_contra outside
    rw [List.getElem?_eq_none (Nat.not_lt.1 outside)] at page
    exact absurd page (by simp)
  refine ⟨Tab.put {} (s.reqKv (s.req i)) region { Tab.get {} (s.reqKv (s.req i)) region with
    pages := (Tab.get {} (s.reqKv (s.req i)) region).pages.set j (f p).sealed }, ?_, ?_⟩
  · rw [Tab.get_put_self]
    exact List.getElem?_set_self inside
  · simp only [State.modPage, page]
    split
    · split
      · exact State.syncPage_cores _ _ _ _
      · exact State.cores_trans (State.syncPage_cores _ _ _ _) (State.syncWork_cores _ _ _ _ _)
    · rfl

theorem State.pageAt_modPage {s : State} {i region j : Nat} {p : KvPage} (f : KvPage → KvPage) (h : pageAt s i region j = some p) :
    pageAt (s.modPage i region j f) i region j = some (f p).sealed := by
  obtain ⟨kv, page, frame⟩ := State.modPage_eq f h
  rw [frame]
  exact (pageAt_setReqKv s i region j kv).trans page

theorem State.modPage_frame {s : State} {i region j : Nat} {p : KvPage} (f : KvPage → KvPage) (h : pageAt s i region j = some p) :
    s.modPage i region j f = { s with
      bolts := (s.modPage i region j f).bolts, cores := (s.modPage i region j f).cores,
      reqs := (s.modPage i region j f).reqs } := by
  obtain ⟨kv, _, frame⟩ := State.modPage_eq f h
  have frame' := State.setReqKv_frame s i kv
  generalize s.setReqKv i kv = t at frame frame'
  rw [frame, frame']

theorem State.modPage_harn {s : State} {i region j : Nat} {p : KvPage} (f : KvPage → KvPage) (h : pageAt s i region j = some p)
    (k : Nat) : (s.modPage i region j f).harn k = s.harn k := by
  rw [State.modPage_frame f h]
  rfl

theorem State.modPage_serveOf {s : State} {i region j : Nat} {p : KvPage} (f : KvPage → KvPage)
    (h : pageAt s i region j = some p) (k : Nat) : (s.modPage i region j f).serveOf k = s.serveOf k := by
  rw [State.modPage_frame f h]
  rfl

/-- Changes of pages after changes of pages. -/
theorem State.pages_trans {s t u : State} (h : t = { s with bolts := t.bolts, cores := t.cores, reqs := t.reqs })
    (h' : u = { t with bolts := u.bolts, cores := u.cores, reqs := u.reqs }) :
    u = { s with bolts := u.bolts, cores := u.cores, reqs := u.reqs } := by
  rw [h', h]

theorem State.pages_of_cores {s t : State} (h : t = { s with cores := t.cores }) :
    t = { s with bolts := t.bolts, cores := t.cores, reqs := t.reqs } := by
  rw [h]

/-- A page that comes into its frame is changed in the same way, its bytes before. -/
theorem State.intoFrame_eq {s : State} {i j : Nat} {g : KvGeom} {p : KvPage} (e : EpochRec) (f : KvPage → KvPage)
    (h : pageAt s i g.region j = some p) : s.intoFrame i e g j f = (s.fillFrame e g (f p)).modPage i g.region j f := by
  have page : (Tab.get {} (s.reqKv (s.req i)) g.region).pages[j]? = some p := h
  simp only [State.intoFrame, page]

/-! ## REQUEST_WORD -/

theorem exec_requestWord_empty (s : State) (h : Nat) (known : h < Config.nHarness) (empty : (s.harn h).ring = []) :
    exec (.requestWord h) s = .next (s.setHarn h (s.harn h)) := by
  change execRequestWord h s = _
  rw [execRequestWord, onHarness, onUnit_next _ _ _ (decide_eq_true known)]
  simp only [State.modHarn, empty]

/-- The oldest word leaves the ring for the list of its kind. -/
theorem exec_requestWord_oldest (s : State) (h : Nat) (known : h < Config.nHarness) (w : Word) (c : Nat)
    (rest : List (Word × Nat)) (oldest : (s.harn h).ring = (w, c) :: rest) :
    exec (.requestWord h) s = .next (s.setHarn h
      (if w.toNat % 16 = 1 then { s.harn h with ring := rest, fetches := (s.harn h).fetches ++ [(w, c)] }
      else if w.toNat % 16 = 2 then { s.harn h with ring := rest, reports := (s.harn h).reports ++ [(w, c)] }
      else { s.harn h with ring := rest, badWords := (s.harn h).badWords + 1 })) := by
  change execRequestWord h s = _
  rw [execRequestWord, onHarness, onUnit_next _ _ _ (decide_eq_true known)]
  simp only [State.modHarn, oldest]

/-! ## FETCH_REQUEST (R218) -/

theorem exec_fetchRequest_empty (s : State) (h : Nat) (known : h < Config.nHarness) (empty : (s.harn h).fetches = []) :
    exec (.fetchRequest h) s = .next s := by
  change execFetchRequest h s = _
  rw [execFetchRequest, onHarness, onUnit_next _ _ _ (decide_eq_true known)]
  simp only [empty]

/-- A word from a core of no region is dropped. -/
theorem exec_fetchRequest_stray (s : State) (h : Nat) (known : h < Config.nHarness) (w : Word) (c : Nat)
    (rest : List (Word × Nat)) (stray : s.ownerOf c (bits w.toNat 4 8) = none) (oldest : (s.harn h).fetches = (w, c) :: rest) :
    exec (.fetchRequest h) s = .next (s.setHarn h { s.harn h with fetches := rest }) := by
  have owner : (s.modHarn h fun r => { r with fetches := rest }).ownerOf c (rwRegion w) = none := stray
  change execFetchRequest h s = _
  rw [execFetchRequest, onHarness, onUnit_next _ _ _ (decide_eq_true known)]
  simp only [oldest, owner]
  rfl

section named

variable {s : State} {h b c i : Nat} {w : Word} {rest : List (Word × Nat)} {e : EpochRec} {g : KvGeom} {p : KvPage}
  (known : h < Config.nHarness) (names : WordNames s w c b e g i)

include known names

/-- A page that is on the wafer needs nothing. -/
theorem exec_fetchRequest_onWafer (oldest : (s.harn h).fetches = (w, c) :: rest)
    (page : pageAt s i g.region (bits w.toNat 21 24) = some p) (here : p.home = .frame ∨ p.home = .both) :
    exec (.fetchRequest h) s = .next (s.setHarn h { s.harn h with fetches := rest }) := by
  have owner : (s.modHarn h fun r => { r with fetches := rest }).ownerOf c (rwRegion w) = some (b, e) := names.owner
  have geometry : e.kv? (rwRegion w) = some g := names.geometry
  have stream : (((s.modHarn h fun r => { r with fetches := rest }).bolt b).slotRec (rwSlot w)).req = some i := names.stream
  have found : (Tab.get {} (State.reqKv (s.modHarn h fun r => { r with fetches := rest })
      ((s.modHarn h fun r => { r with fetches := rest }).req i)) g.region).pages[rwPage w]? = some p := page
  have present : p.home ≠ .absent := by rcases here with e | e <;> rw [e] <;> decide
  have wafer : p.onWafer = true := by rcases here with e | e <;> simp [KvPage.onWafer, e]
  change execFetchRequest h s = _
  rw [execFetchRequest, onHarness, onUnit_next _ _ _ (decide_eq_true known)]
  simp only [oldest, owner, geometry, stream, found, if_neg present, wafer, if_true]
  rfl

/-- The state in which a fetch has its frame: the word is taken, and the page's chains are to come. -/
def State.fetching (s : State) (h i : Nat) (rest : List (Word × Nat)) (g : KvGeom) (j f : Nat) : State :=
  (s.modHarn h fun r => { r with fetches := rest }).modPage i g.region j fun p => { p with frame := f, arrive := some g.heads }

omit known names in
/-- A free frame is taken at once. -/
theorem State.takeFrame_free (s : State) (b : Nat) (e : EpochRec) (g : KvGeom) (need num f n : Nat)
    (free : s.freeFrame b e g num = some f) : State.takeFrame b e g need num (n + 1) s = (s, some f) := by
  have easy : s.easyFrame b e g num = (s, some f) := by simp only [State.easyFrame, free]
  simp only [State.takeFrame, easy]

/-- A page in creel takes a free frame, and the lane core's window opens. -/
theorem exec_fetchRequest_fetches (f : Nat) (oldest : (s.harn h).fetches = (w, c) :: rest)
    (page : pageAt s i g.region (bits w.toNat 21 24) = some p) (away : p.home = .creel) (idle : p.arrive = none)
    (free : s.freeFrame b e g p.num = some f) :
    exec (.fetchRequest h) s = .next (((s.fetching h i rest g (bits w.toNat 21 24) f).modServeOf b
      fun v => { v with demand := (v.demand + 1) % 2 ^ 32 }).openWindow c) := by
  have owner : (s.modHarn h fun r => { r with fetches := rest }).ownerOf c (rwRegion w) = some (b, e) := names.owner
  have geometry : e.kv? (rwRegion w) = some g := names.geometry
  have stream : (((s.modHarn h fun r => { r with fetches := rest }).bolt b).slotRec (rwSlot w)).req = some i := names.stream
  have found : (Tab.get {} (State.reqKv (s.modHarn h fun r => { r with fetches := rest })
      ((s.modHarn h fun r => { r with fetches := rest }).req i)) g.region).pages[rwPage w]? = some p := page
  have present : p.home ≠ .absent := by rw [away]; decide
  have outside : p.onWafer = false := by simp [KvPage.onWafer, away]
  have fuel : ∃ n, (s.modHarn h fun r => { r with fetches := rest }).reclaimFuel b = n + 1 :=
    Nat.exists_eq_succ_of_ne_zero (by rw [State.reclaimFuel]; omega)
  obtain ⟨n, fuel⟩ := fuel
  have taken : State.takeFrame b e g i p.num ((s.modHarn h fun r => { r with fetches := rest }).reclaimFuel b)
      (s.modHarn h fun r => { r with fetches := rest }) = (s.modHarn h fun r => { r with fetches := rest }, some f) := by
    rw [fuel]
    exact State.takeFrame_free _ b e g i p.num f n free
  change execFetchRequest h s = _
  rw [execFetchRequest, onHarness, onUnit_next _ _ _ (decide_eq_true known)]
  simp only [oldest, owner, geometry, stream, found, if_neg present, outside, Bool.false_eq_true, if_false, idle,
    Option.isSome_none, taken]
  rfl

end named

/-- The words of an opened service window: one chain at 0xB040, and the flag. -/
theorem State.openWindow_words (s : State) (c : Nat) :
    (((s.openWindow c).core c).stores.read 1 0xB008 8 = 1) ∧ (((s.openWindow c).core c).stores.read 1 0xB010 8 = 0xB040) ∧
      (((s.openWindow c).core c).stores.read 1 0xB000 8 % 2 = 1) := by
  rw [State.openWindow, State.modCore, State.setCore_core_self]
  refine ⟨?_, ?_, ?_⟩
  · rw [Stores.read_write_apart _ _ _ _ _ _ _ (by decide), Stores.read_write_apart _ _ _ _ _ _ _ (by decide),
      Stores.read_write_same]
    rfl
  · rw [Stores.read_write_apart _ _ _ _ _ _ _ (by decide), Stores.read_write_same]
    rfl
  · rw [Stores.read_write_same, Nat.mod_mod_of_dvd _ (by decide), Nat.or_mod_two_eq_one]
    exact .inr rfl

theorem pageAt_openWindow (s : State) (c i region j : Nat) : pageAt (s.openWindow c) i region j = pageAt s i region j := rfl
theorem pageAt_modServeOf (s : State) (b : Nat) (f : ServeRec → ServeRec) (i region j : Nat) :
    pageAt (s.modServeOf b f) i region j = pageAt s i region j := rfl

/-! ## CHAIN_REPORT (R219) -/

theorem exec_chainReport_empty (s : State) (h : Nat) (known : h < Config.nHarness) (empty : (s.harn h).reports = []) :
    exec (.chainReport h) s = .next s := by
  change execChainReport h s = _
  rw [execChainReport, onHarness, onUnit_next _ _ _ (decide_eq_true known)]
  simp only [empty]

theorem exec_chainReport_stray (s : State) (h : Nat) (known : h < Config.nHarness) (w : Word) (c : Nat)
    (rest : List (Word × Nat)) (stray : s.ownerOf c (bits w.toNat 4 8) = none) (oldest : (s.harn h).reports = (w, c) :: rest) :
    exec (.chainReport h) s = .next (s.setHarn h { s.harn h with reports := rest }) := by
  have owner : (s.modHarn h fun r => { r with reports := rest }).ownerOf c (rwRegion w) = none := stray
  change execChainReport h s = _
  rw [execChainReport, onHarness, onUnit_next _ _ _ (decide_eq_true known)]
  simp only [oldest, owner]
  rfl

/-- A report of a core of a region is one of its chain. -/
theorem exec_chainReport_named {s : State} {h b c i : Nat} {w : Word} {rest : List (Word × Nat)} {e : EpochRec} {g : KvGeom}
    (known : h < Config.nHarness) (names : WordNames s w c b e g i) (oldest : (s.harn h).reports = (w, c) :: rest) :
    exec (.chainReport h) s =
      .next ((s.modHarn h fun r => { r with reports := rest }).chainDone b e g i c (rwChain w)) := by
  have owner : (s.modHarn h fun r => { r with reports := rest }).ownerOf c (rwRegion w) = some (b, e) := names.owner
  have geometry : e.kv? (rwRegion w) = some g := names.geometry
  have stream : (((s.modHarn h fun r => { r with reports := rest }).bolt b).slotRec (rwSlot w)).req = some i := names.stream
  change execChainReport h s = _
  rw [execChainReport, onHarness, onUnit_next _ _ _ (decide_eq_true known)]
  simp only [oldest, owner, geometry, stream]

/-- Without lines in error a creel copy is read whole. -/
theorem State.copyBad_clean (s : State) (b i region j : Nat) (clean : ∀ p, (s.port p).ecc = []) :
    s.copyBad b i region j = (s, false) :=
  foldl_eq_self _ _ _ fun p _ => by simp only [clean, List.filter_nil, List.foldl_nil]

theorem State.tryAttend_idle (s : State) (b key : Nat) (idle : ((s.bolt b).region key).unit = none) : s.tryAttend b key = s := by
  rw [State.tryAttend, idle]
  split
  · rename_i none_
    exact absurd none_ (by simp)
  · rfl

/-- The lane core's flag word with the bit of a chain. -/
def State.flagChain (s : State) (c chain : Nat) : State :=
  s.modCore c fun r =>
    { r with stores := r.stores.write 1 0xB000 8 (r.stores.read 1 0xB000 8 ||| 2 ^ (8 + chain)) }

section chain

variable {s : State} {b i c j n : Nat} {e : EpochRec} {g : KvGeom} {p : KvPage}
  (page : pageAt s i g.region j = some p) (waits : p.arrive = some (n + 1)) (lane : c ∈ e.pageCores g p.num)
  (first : ∀ k x, k < j → pageAt s i g.region k = some x → x.arrive = none ∨ c ∉ e.pageCores g x.num)

include page waits lane first

/-- The page that a chain belongs to is the first one that waits for a chain of its core. -/
theorem findIdx_waiting : (Tab.get {} (s.reqKv (s.req i)) g.region).pages.findIdx?
    (fun p => p.arrive.isSome && (e.pageCores g p.num).contains c) = some j := by
  have at_ : (Tab.get {} (s.reqKv (s.req i)) g.region).pages[j]? = some p := page
  obtain ⟨inside, here⟩ := List.getElem?_eq_some_iff.1 at_
  refine List.findIdx?_eq_some_iff_getElem.2 ⟨inside, ?_, fun k before => ?_⟩
  · rw [here, waits, List.contains_iff_mem.2 lane]
    rfl
  · have there : pageAt s i g.region k = some ((Tab.get {} (s.reqKv (s.req i)) g.region).pages[k]'(by omega)) :=
      List.getElem?_eq_getElem _
    rcases first k _ before there with idle | other
    · exact fun both => absurd (Bool.and_elim_left both) (by rw [idle]; decide)
    · exact fun both => other (List.contains_iff_mem.1 (Bool.and_elim_right both))

/-- A chain that is not the last one lowers the count. -/
theorem State.chainDone_more (chain : Nat) (more : n ≠ 0) : s.chainDone b e g i c chain =
    (s.flagChain c chain).modPage i g.region j fun p => { p with arrive := some n } := by
  have at_ : (Tab.get {} (s.reqKv (s.req i)) g.region).pages[j]? = some p := page
  rw [State.chainDone]
  simp only [findIdx_waiting page waits lane first, List.getD_eq_getElem?_getD, at_, Option.getD_some, waits,
    Nat.add_sub_cancel, if_neg more]
  rfl

/-- The last one puts the page into its frame. -/
theorem State.chainDone_last (chain : Nat) (last : n = 0) (clean : ∀ k, (s.port k).ecc = []) : s.chainDone b e g i c chain =
    ((s.flagChain c chain).intoFrame i e g j fun p => { p with home := .both, arrive := none }).tryAttend b (rkey e g.region) := by
  have at_ : (Tab.get {} (s.reqKv (s.req i)) g.region).pages[j]? = some p := page
  have whole : (s.flagChain c chain).copyBad b i g.region j = (s.flagChain c chain, false) := State.copyBad_clean _ _ _ _ _ clean
  rw [State.flagChain] at whole
  rw [State.chainDone]
  simp only [findIdx_waiting page waits lane first, List.getD_eq_getElem?_getD, at_, Option.getD_some, waits,
    Nat.add_sub_cancel, if_pos last, whole, Bool.false_eq_true, if_false]
  rfl

/-- A chain report leaves the page with one chain less to come, or in its frame. -/
theorem State.chainDone_effect (chain : Nat) (clean : ∀ k, (s.port k).ecc = [])
    (idle : ((s.bolt b).region (e.num * 256 + g.region)).unit = none) :
    (pageAt (s.chainDone b e g i c chain) i g.region j).map (fun x => (x.home, x.arrive)) =
        some (if n = 0 then (.both, none) else (p.home, some n)) ∧
      s.chainDone b e g i c chain = { s with
        bolts := (s.chainDone b e g i c chain).bolts, cores := (s.chainDone b e g i c chain).cores
        reqs := (s.chainDone b e g i c chain).reqs } := by
  have flagged : pageAt (s.flagChain c chain) i g.region j = some p := page
  by_cases last : n = 0
  · have filled : pageAt ((s.flagChain c chain).fillFrame e g { p with home := .both, arrive := none }) i g.region j = some p :=
      (pageAt_of_cores (State.fillFrame_cores _ _ _ _) _ _ _).trans flagged
    have into := State.intoFrame_eq e (fun p => { p with home := .both, arrive := none }) flagged
    have still : (((s.flagChain c chain).intoFrame i e g j fun p => { p with home := .both, arrive := none }).tryAttend b
        (rkey e g.region)) = (s.flagChain c chain).intoFrame i e g j fun p => { p with home := .both, arrive := none } :=
      State.tryAttend_idle _ _ _ (by rw [(PagesOnly.intoFrame _ _ _ _ _ _).region]; exact idle)
    rw [State.chainDone_last page waits lane first chain last clean, still, into, State.pageAt_modPage _ filled, if_pos last]
    exact ⟨rfl, State.pages_trans (State.pages_of_cores (State.fillFrame_cores (s.flagChain c chain) e g _))
      (State.modPage_frame _ filled)⟩
  · rw [State.chainDone_more page waits lane first chain last, State.pageAt_modPage _ flagged, if_neg last]
    exact ⟨rfl, State.pages_trans (State.pages_of_cores (t := s.flagChain c chain) rfl) (State.modPage_frame _ flagged)⟩

end chain

end Sys2Proof.Machine
end

section
namespace Sys2Proof.Machine

open Sys2Proof

/-! PROOFS. The poll of watch rings and empty-row words (O60). -/

/-! ## One bolt of the poll -/

/-- A harness core's poll of a region, if it watches it, and of the regions of one bolt. -/
def State.pollRegion (h b : Nat) (e : EpochRec) (s : State) (r : Nat) : State :=
  if e.watch.length ≤ r ∨ e.harnessOf r ≠ h then s else (s.pollRing h b e r).pollRows h b e r
def State.pollBolt (h : Nat) (s : State) (b : Nat) : State :=
  ([(s.bolt b).current, (s.bolt b).other].filterMap id).foldl
    (fun s e => (List.range e.regions.length).foldl (State.pollRegion h b e) s) s

theorem exec_watchRingPoll (s : State) (h : Nat) (known : h < Config.nHarness) :
    exec (.watchRingPoll h) s = .next ((List.range Config.nBolts).foldl (State.pollBolt h) s) :=
  onUnit_next (decide (h < Config.nHarness)) s (fun s => (List.range Config.nBolts).foldl (State.pollBolt h) s)
    (decide_eq_true known)

theorem State.pollBolt_idle (h : Nat) (s : State) (b : Nat) (idle : s.bolt b = {}) : s.pollBolt h b = s := by
  rw [State.pollBolt, idle]
  rfl

/-- Where one bolt alone has a record before and after its poll, the poll is that bolt's. -/
theorem foldl_pollBolt (h b : Nat) (s : State) (known : b < Config.nBolts) (alone : ∀ k, k ≠ b → s.bolt k = {})
    (after : ∀ k, k ≠ b → (s.pollBolt h b).bolt k = {}) :
    (List.range Config.nBolts).foldl (State.pollBolt h) s = s.pollBolt h b := by
  obtain ⟨before, behind, split⟩ := List.append_of_mem (List.mem_range.2 known)
  have once : (before ++ b :: behind).Nodup := split ▸ List.nodup_range
  obtain ⟨_, tail, apart⟩ := List.nodup_append.1 once
  rw [split, List.foldl_append, List.foldl_cons,
    foldl_eq_self _ s before fun k hk => State.pollBolt_idle h s k (alone k (apart k hk b (List.mem_cons_self ..))),
    foldl_eq_self _ _ behind fun k hk => State.pollBolt_idle h _ k (after k fun e =>
      (List.nodup_cons.1 tail).1 (e ▸ hk))]

/-! ## One report, and the growth of the empty rows -/

section poll

variable {s : State} {h b wc : Nat} {x : BoltRec} {e : EpochRec} {q : Nat × Nat}

/-- One bolt stands, with one epoch of one region that this harness core watches. -/
structure OneWatched (s : State) (h b wc : Nat) (x : BoltRec) (e : EpochRec) (q : Nat × Nat) : Prop where
  known : b < Config.nBolts
  bolts : s.bolts = [(b, x)]
  current : x.current = some e
  other : x.other = none
  regions : e.regions = [q]
  watch : e.watch = [(wc, h)]

variable (one : OneWatched s h b wc x e q)

include one

theorem OneWatched.bolt : s.bolt b = x := by
  rw [State.bolt, one.bolts]
  exact if_pos rfl

theorem OneWatched.alone (k : Nat) (other : k ≠ b) : s.bolt k = {} := by
  rw [State.bolt, one.bolts]
  exact if_neg other.symm

theorem OneWatched.pollBolt : s.pollBolt h b = (s.pollRing h b e 0).pollRows h b e 0 := by
  have watches : ¬ (e.watch.length ≤ 0 ∨ e.harnessOf 0 ≠ h) := by simp [EpochRec.harnessOf, one.watch]
  have region : s.pollBolt h b = s.pollRegion h b e 0 := by
    rw [State.pollBolt, one.bolt, one.current, one.other]
    simp only [List.filterMap_cons, List.filterMap_nil, id_eq, List.foldl_cons, List.foldl_nil, one.regions,
      List.length_singleton, List.range_one]
  rw [region, State.pollRegion, if_neg watches]

theorem OneWatched.watchCore : e.watchCore 0 = wc := by rw [EpochRec.watchCore, one.watch]; rfl

end poll

/-- After the poll of a ring its reports count as read, and no quiet report is left. -/
def State.ringRead (s : State) (h b key seq lost : Nat) : State :=
  ((s.modBolt b fun r => r.setRegion key { r.region key with quiet := [] }).modServeOf b fun v =>
    { v with lost := satAdd 16 v.lost lost }).modHarn h fun r => { r with watchSeq := Tab.put 0 r.watchSeq key seq }

/-- The word of a ring's report. -/
def State.ringWord (s : State) (h region seq : Nat) : Nat :=
  readLE (s.harn h).mailbox (0x8000 + 64 * region + 8 * (seq % 8)) 8

/-- The poll of a ring with `fresh` new reports after the one numbered `seen`. -/
def State.readReports (s : State) (h b : Nat) (e : EpochRec) (region seen fresh : Nat) : State :=
  ((List.range (min fresh 8)).foldl (fun s k =>
    s.takeReport b (e.watchCore region) region (s.ringWord h region ((seen + (fresh - min fresh 8) + k) % 65536))
      (g.quiet.contains ((seen + (fresh - min fresh 8) + k) % 65536))) s).ringRead h b (rkey e region) g.watchSeq
    (fresh - min fresh 8)
where g := (s.bolt b).region (rkey e region)

theorem State.pollRing_eq (s : State) (h b : Nat) (e : EpochRec) (region seen fresh : Nat)
    (last : Tab.get 0 (s.harn h).watchSeq (rkey e region) = seen)
    (news : (((s.bolt b).region (rkey e region)).watchSeq + 65536 - seen) % 65536 = fresh) :
    s.pollRing h b e region = s.readReports h b e region seen fresh := by
  subst last news
  rfl

/-- A ring without a new report. -/
theorem State.pollRing_none (s : State) (h b : Nat) (e : EpochRec) (region : Nat)
    (same : ((s.bolt b).region (rkey e region)).watchSeq = Tab.get 0 (s.harn h).watchSeq (rkey e region)) :
    s.pollRing h b e region =
      s.ringRead h b (rkey e region) ((s.bolt b).region (rkey e region)).watchSeq 0 :=
  State.pollRing_eq s h b e region _ 0 rfl (by rw [← same, Nat.add_sub_cancel_left])

/-- A ring with one new report. -/
theorem State.pollRing_one (s : State) (h b : Nat) (e : EpochRec) (region seen : Nat)
    (last : Tab.get 0 (s.harn h).watchSeq (rkey e region) = seen) (small : seen < 65536)
    (next : ((s.bolt b).region (rkey e region)).watchSeq = (seen + 1) % 65536) :
    s.pollRing h b e region = (s.takeReport b (e.watchCore region) region (s.ringWord h region seen)
      (((s.bolt b).region (rkey e region)).quiet.contains seen)).ringRead h b (rkey e region)
        ((s.bolt b).region (rkey e region)).watchSeq 0 := by
  rw [State.pollRing_eq s h b e region seen 1 last (by rw [next]; omega), State.readReports]
  simp only [show min 1 8 = 1 from rfl, List.range_one, List.foldl_cons, List.foldl_nil, Nat.sub_self, Nat.add_zero,
    Nat.mod_eq_of_lt small, State.readReports.g]

/-- What a report below the escalation limit counts. -/
def reportCounted (v : ServeRec) (region w : Nat) : ServeRec :=
  { v with
    triggers := Tab.put 0 v.triggers region (satAdd 24 (Tab.get 0 v.triggers region) 1)
    lastRatio := Tab.put 0 v.lastRatio region (bits w 32 32)
    reruns := if bits w 27 2 = 1 then (v.reruns + 1) % 2 ^ 32 else v.reruns
    escalations := if bits w 27 2 = 2 then (v.escalations + 1) % 2 ^ 32 else v.escalations }

/-- Such a report is counted, and NORM_JUMP reported. -/
theorem State.takeReport_jump (s : State) (b core region w : Nat) (low : bits w 27 2 < 3) :
    s.takeReport b core region w false =
      (s.modServeOf b fun v => reportCounted v region w).report core 0x0B (watchDetail region w) := by
  have limit : ¬ bits w 27 2 = 3 := by omega
  simp only [State.takeReport, limit, false_and, if_false, Bool.false_eq_true]
  rfl

/-- A row word that has not grown. -/
theorem State.pollRows_same (s : State) (h b : Nat) (e : EpochRec) (region w old : Nat)
    (word : readLE (s.harn h).mailbox (0xC000 + 8 * region) 8 = w) (before : Tab.get 0 (s.harn h).emptyRows region = old)
    (same : (w + 2 ^ 64 - old) % 2 ^ 64 = 0) : s.pollRows h b e region = s := by
  subst word before
  exact if_pos same

/-- A grown row word is taken and its growth counted. -/
def State.rowsTaken (s : State) (h b region w grown : Nat) : State :=
  (s.modHarn h fun r => { r with emptyRows := Tab.put 0 r.emptyRows region w }).modServeOf b fun v =>
    { v with emptyRows := satAdd 32 v.emptyRows grown }

/-- A row word that has grown is also reported. -/
theorem State.pollRows_grown (s : State) (h b : Nat) (e : EpochRec) (region w old grown : Nat)
    (word : readLE (s.harn h).mailbox (0xC000 + 8 * region) 8 = w) (before : Tab.get 0 (s.harn h).emptyRows region = old)
    (growth : (w + 2 ^ 64 - old) % 2 ^ 64 = grown) (some_ : 0 < grown) (small : grown < 2 ^ 28) :
    s.pollRows h b e region =
      (s.rowsTaken h b region w grown).report (e.watchCore region) 0x20 (region + (grown <<< 8)) := by
  have more : ¬ grown = 0 := by omega
  have all : min grown (2 ^ 28 - 1) = grown := by omega
  rw [State.pollRows]
  simp only [word, before, growth, if_neg more, all]
  rfl

/-! ## The polls of the one watched region -/

theorem State.ringRead_bolt_ne (s : State) (h b key seq lost k : Nat) (other : k ≠ b) :
    (s.ringRead h b key seq lost).bolt k = s.bolt k := by
  rw [State.ringRead, State.modHarn_unit_bolt, State.modServeOf_unit_bolt, State.modBolt_bolt_ne _ _ _ _ other]

theorem State.ringRead_harn (s : State) (h b key seq lost : Nat) :
    (s.ringRead h b key seq lost).harn h = { s.harn h with watchSeq := Tab.put 0 (s.harn h).watchSeq key seq } :=
  State.modHarn_harn_self _ _ _

theorem State.ringRead_serveOf (s : State) (h b key seq lost : Nat) :
    (s.ringRead h b key seq lost).serveOf b = { s.serveOf b with lost := satAdd 16 (s.serveOf b).lost lost } := by
  rw [State.ringRead, State.modHarn_unit_serveOf, State.modServeOf_serveOf_self, State.modBolt_unit_serveOf]

theorem State.ringRead_mailbox (s : State) (h b key seq lost : Nat) :
    ((s.ringRead h b key seq lost).harn h).mailbox = (s.harn h).mailbox := by rw [State.ringRead_harn]
theorem State.ringRead_emptyRows (s : State) (h b key seq lost : Nat) :
    ((s.ringRead h b key seq lost).harn h).emptyRows = (s.harn h).emptyRows := by rw [State.ringRead_harn]

theorem State.rowsTaken_serveOf (s : State) (h b region w grown : Nat) : (s.rowsTaken h b region w grown).serveOf b =
    { s.serveOf b with emptyRows := satAdd 32 (s.serveOf b).emptyRows grown } := by
  rw [State.rowsTaken, State.modServeOf_serveOf_self, State.modHarn_unit_serveOf]

theorem State.rowsTaken_emptyRows (s : State) (h b region w grown : Nat) :
    Tab.get 0 ((s.rowsTaken h b region w grown).harn h).emptyRows region = w := by
  rw [State.rowsTaken, State.modServeOf_unit_harn, State.modHarn_harn_self, Tab.get_put_self]

theorem State.rowsTaken_bolt (s : State) (h b region w grown k : Nat) :
    (s.rowsTaken h b region w grown).bolt k = s.bolt k := by
  rw [State.rowsTaken, State.modServeOf_unit_bolt, State.modHarn_unit_bolt]

/-- A message leaves every unit. -/
theorem State.report_bolt (s : State) (source kind detail k : Nat) : (s.report source kind detail).bolt k = s.bolt k := rfl
theorem State.report_harn (s : State) (source kind detail k : Nat) : (s.report source kind detail).harn k = s.harn k := rfl
theorem State.report_serveOf (s : State) (source kind detail k : Nat) :
    (s.report source kind detail).serveOf k = s.serveOf k := rfl

/-- The detail of NORM_JUMP in region 0 (Table 16.3). -/
theorem watchDetail_zero (w : Nat) : watchDetail 0 w =
    bits w 16 9 + (bits w 25 1 <<< 17) + (bits w 26 1 <<< 18) + (bits w 27 2 <<< 19) + (bits w 29 1 <<< 21) := by
  unfold watchDetail
  omega

theorem watchDetail_zero_lt (w : Nat) : watchDetail 0 w < 2 ^ 36 := by
  have slot := bits_lt w 16 9
  have norm := bits_lt w 25 1
  have sat := bits_lt w 26 1
  have count := bits_lt w 27 2
  have pick := bits_lt w 29 1
  rw [watchDetail_zero]
  simp only [Nat.shiftLeft_eq]
  omega

theorem rkey_zero (e : EpochRec) : rkey e 0 = e.num * 256 := Nat.add_zero _

section polls

variable {s : State} {h b wc : Nat} {x : BoltRec} {e : EpochRec} {q : Nat × Nat} (known : h < Config.nHarness)
  (one : OneWatched s h b wc x e q)

include known one

/-- A new report, in a poll without new empty rows. -/
theorem exec_watchRingPoll_report (seen rows old : Nat) (last : Tab.get 0 (s.harn h).watchSeq (e.num * 256) = seen)
    (small : seen < 65536) (next : (x.region (e.num * 256)).watchSeq = (seen + 1) % 65536)
    (word : readLE (s.harn h).mailbox 0xC000 8 = rows) (before : Tab.get 0 (s.harn h).emptyRows 0 = old)
    (same : (rows + 2 ^ 64 - old) % 2 ^ 64 = 0) (loud : seen ∉ (x.region (e.num * 256)).quiet) (w : Nat)
    (report : s.ringWord h 0 seen = w) (low : bits w 27 2 < 3) :
    exec (.watchRingPoll h) s = .next (((s.modServeOf b fun v => reportCounted v 0 w).report wc 0x0B
      (watchDetail 0 w)).ringRead h b (e.num * 256) (x.region (e.num * 256)).watchSeq 0) := by
  have heard : (x.region (e.num * 256)).quiet.contains seen = false := by
    rw [Bool.eq_false_iff, ne_eq, List.contains_iff_mem]
    exact loud
  have ring : s.pollRing h b e 0 = ((s.modServeOf b fun v => reportCounted v 0 w).report wc 0x0B
      (watchDetail 0 w)).ringRead h b (e.num * 256) (x.region (e.num * 256)).watchSeq 0 := by
    have polled := s.pollRing_one h b e 0 seen (by rw [rkey_zero]; exact last) small (by rw [one.bolt, rkey_zero]; exact next)
    rw [one.bolt, one.watchCore, rkey_zero, heard, report, State.takeReport_jump _ _ _ _ _ low] at polled
    exact polled
  have poll : s.pollBolt h b = s.pollRing h b e 0 := by
    rw [one.pollBolt, ring]
    exact State.pollRows_same _ h b e 0 rows old (by rw [State.ringRead_mailbox]; exact word)
      (by rw [State.ringRead_emptyRows]; exact before) same
  rw [exec_watchRingPoll s h known, foldl_pollBolt h b s one.known one.alone, poll, ring]
  intro k other
  rw [poll, ring, State.ringRead_bolt_ne _ _ _ _ _ _ _ other]
  exact one.alone k other

/-- New empty rows, in a poll without a new report. -/
theorem exec_watchRingPoll_rows (rows old grown : Nat)
    (last : (x.region (e.num * 256)).watchSeq = Tab.get 0 (s.harn h).watchSeq (e.num * 256))
    (word : readLE (s.harn h).mailbox 0xC000 8 = rows) (before : Tab.get 0 (s.harn h).emptyRows 0 = old)
    (growth : (rows + 2 ^ 64 - old) % 2 ^ 64 = grown) (some_ : 0 < grown) (small : grown < 2 ^ 28) :
    exec (.watchRingPoll h) s = .next (((s.ringRead h b (e.num * 256) (x.region (e.num * 256)).watchSeq 0).rowsTaken h b 0 rows
      grown).report wc 0x20 (grown <<< 8)) := by
  have ring : s.pollRing h b e 0 = s.ringRead h b (e.num * 256) (x.region (e.num * 256)).watchSeq 0 := by
    have polled := s.pollRing_none h b e 0 (by rw [one.bolt, rkey_zero]; exact last)
    rwa [one.bolt, rkey_zero] at polled
  have poll : s.pollBolt h b = ((s.ringRead h b (e.num * 256) (x.region (e.num * 256)).watchSeq 0).rowsTaken h b 0 rows
      grown).report wc 0x20 (grown <<< 8) := by
    rw [one.pollBolt, ring, State.pollRows_grown _ h b e 0 rows old grown (by rw [State.ringRead_mailbox]; exact word)
      (by rw [State.ringRead_emptyRows]; exact before) growth some_ small, one.watchCore, Nat.zero_add (grown <<< 8)]
  rw [exec_watchRingPoll s h known, foldl_pollBolt h b s one.known one.alone, poll]
  intro k other
  rw [poll, State.report_bolt, State.rowsTaken_bolt, State.ringRead_bolt_ne _ _ _ _ _ _ _ other]
  exact one.alone k other

end polls

/-- A message whose detail fits is one more in flight. -/
theorem State.report_eq (s : State) (source kind detail : Nat) (fits : detail < 2 ^ 36) :
    s.report source kind detail = alsoSent s source kind (kindSeverity kind) detail := by
  rw [State.report, State.reportSev, Nat.mod_eq_of_lt fits]
  rfl

theorem State.ringRead_frame (s : State) (h b key seq lost : Nat) : s.ringRead h b key seq lost = { s with
    bolts := (s.ringRead h b key seq lost).bolts, serve := (s.ringRead h b key seq lost).serve
    harness := (s.ringRead h b key seq lost).harness } := rfl

theorem State.rowsTaken_frame (s : State) (h b region w grown : Nat) : s.rowsTaken h b region w grown = { s with
    bolts := (s.rowsTaken h b region w grown).bolts, serve := (s.rowsTaken h b region w grown).serve
    harness := (s.rowsTaken h b region w grown).harness } := rfl

/-- Counts of a poll after counts of a poll. -/
theorem State.polled_trans {s t u : State} (h : t = { s with bolts := t.bolts, serve := t.serve, harness := t.harness })
    (h' : u = { t with bolts := u.bolts, serve := u.serve, harness := u.harness }) :
    u = { s with bolts := u.bolts, serve := u.serve, harness := u.harness } := by
  rw [h', h]

theorem State.polled_alsoSent {s t : State} (h : t = { s with bolts := t.bolts, serve := t.serve, harness := t.harness })
    (source kind sev detail : Nat) : alsoSent t source kind sev detail = { alsoSent s source kind sev detail with
      bolts := (alsoSent t source kind sev detail).bolts, serve := (alsoSent t source kind sev detail).serve
      harness := (alsoSent t source kind sev detail).harness } := by
  rw [h]
  rfl

/-- Besides its message a poll that takes a report changes bolts, counts and harness records alone. -/
theorem State.report_polled (s : State) (f : ServeRec → ServeRec) (wc h b key seq detail : Nat) (fits : detail < 2 ^ 36) :
    ((s.modServeOf b f).report wc 0x0B detail).ringRead h b key seq 0 = { alsoSent s wc 0x0B 1 detail with
      bolts := (((s.modServeOf b f).report wc 0x0B detail).ringRead h b key seq 0).bolts
      serve := (((s.modServeOf b f).report wc 0x0B detail).ringRead h b key seq 0).serve
      harness := (((s.modServeOf b f).report wc 0x0B detail).ringRead h b key seq 0).harness } := by
  have counted : s.modServeOf b f = { s with
    bolts := (s.modServeOf b f).bolts, serve := (s.modServeOf b f).serve, harness := (s.modServeOf b f).harness } := rfl
  generalize s.modServeOf b f = t at counted
  rw [State.report_eq t _ _ _ fits]
  exact State.polled_trans (State.polled_alsoSent counted wc 0x0B 1 detail) (State.ringRead_frame _ h b key seq 0)

/-- Besides its message a poll that takes new empty rows changes bolts, counts and harness records alone. -/
theorem State.polled_report (s : State) (wc h b key seq w grown detail : Nat) (fits : detail < 2 ^ 36) :
    ((s.ringRead h b key seq 0).rowsTaken h b 0 w grown).report wc 0x20 detail = { alsoSent s wc 0x20 0 detail with
      bolts := (((s.ringRead h b key seq 0).rowsTaken h b 0 w grown).report wc 0x20 detail).bolts
      serve := (((s.ringRead h b key seq 0).rowsTaken h b 0 w grown).report wc 0x20 detail).serve
      harness := (((s.ringRead h b key seq 0).rowsTaken h b 0 w grown).report wc 0x20 detail).harness } := by
  have frame := State.polled_trans (State.ringRead_frame s h b key seq 0)
    (State.rowsTaken_frame (s.ringRead h b key seq 0) h b 0 w grown)
  generalize (s.ringRead h b key seq 0).rowsTaken h b 0 w grown = t at frame
  rw [State.report_eq t _ _ _ fits]
  exact State.polled_alsoSent frame wc 0x20 0 detail

/-- Settles O60: the drained words, the fetch by where the page is, the chain by what is left of it, and the polls. -/
theorem ringEffects : Obligations.RingEffects := by
  refine ⟨fun s h known => ?_, fun s h b c i w rest e g p known names => ?_,
    fun s h b wc x e q known bolt bolts current other regions watch => ?_⟩
  · exact ⟨exec_requestWord_empty s h known, exec_fetchRequest_empty s h known, exec_chainReport_empty s h known,
      fun w c rest => ⟨exec_requestWord_oldest s h known w c rest, fun stray =>
        ⟨exec_fetchRequest_stray s h known w c rest stray, exec_chainReport_stray s h known w c rest stray⟩⟩⟩
  · intro r j
    refine ⟨fun oldest page => ⟨exec_fetchRequest_onWafer known names oldest page, fun f away idle free => ?_⟩,
      fun j n oldest page waits lane first clean idle => ?_⟩
    · have before : pageAt (s.modHarn h fun r => { r with fetches := rest }) i g.region j = some p := page
      obtain ⟨chains, start, flag⟩ := State.openWindow_words ((s.fetching h i rest g j f).modServeOf b
        fun v => { v with demand := (v.demand + 1) % 2 ^ 32 }) c
      refine ⟨_, exec_fetchRequest_fetches known names f oldest page away idle free, ?_, ?_, ?_, fun k hk => ?_, chains, start, flag⟩
      · rw [pageAt_openWindow, pageAt_modServeOf, State.fetching, State.pageAt_modPage _ before, ← away]
        rfl
      · rw [State.openWindow, State.modCore_unit_serveOf, State.modServeOf_serveOf_self, State.fetching,
          State.modPage_serveOf _ before, State.modHarn_unit_serveOf]
      · rw [State.openWindow, State.modCore_unit_harn, State.modServeOf_unit_harn, State.fetching, State.modPage_harn _ before,
          State.modHarn_harn_self]
      · rw [State.openWindow, State.modCore_unit_harn, State.modServeOf_unit_harn, State.fetching, State.modPage_harn _ before,
          State.modHarn_harn_ne s h k _ hk]
    · obtain ⟨left, frame⟩ := State.chainDone_effect (s := s.modHarn h fun r => { r with reports := rest }) page waits lane first
        (rwChain w) clean idle
      have harn (k : Nat) : (State.chainDone (s.modHarn h fun r => { r with reports := rest }) b e g i c (rwChain w)).harn k =
          (s.modHarn h fun r => { r with reports := rest }).harn k := by rw [frame]; rfl
      refine ⟨_, exec_chainReport_named known names oldest, left, ?_, fun k hk => ?_, ?_⟩
      · rw [harn]
        exact State.modHarn_harn_self _ _ _
      · rw [harn]
        exact State.modHarn_harn_ne _ _ _ _ hk
      · rw [frame]
        rfl
  · have one : OneWatched s h b wc x e q := ⟨bolt, bolts, current, other, regions, watch⟩
    intro r g seen w count v rows grown small
    refine ⟨fun next same loud low => ?_, fun same some_ few => ?_⟩
    · have report : s.ringWord h 0 seen = w := by rw [State.ringWord, Nat.mul_zero, Nat.add_zero]
      refine ⟨_, exec_watchRingPoll_report known one seen rows (Tab.get 0 r.emptyRows 0) rfl small next rfl rfl same loud w report low, ?_, ?_, ?_⟩
      · rw [State.ringRead_serveOf, State.report_serveOf, State.modServeOf_serveOf_self]
        rfl
      · have frame := State.report_polled s (fun v => reportCounted v 0 w) wc h b (e.num * 256) g.watchSeq (watchDetail 0 w)
          (watchDetail_zero_lt w)
        rwa [watchDetail_zero] at frame ⊢
      · rw [State.ringRead_harn]
        exact Tab.get_put_self _ _ _ _
    · have fits : grown <<< 8 < 2 ^ 36 := by rw [Nat.shiftLeft_eq]; omega
      refine ⟨_, exec_watchRingPoll_rows known one rows (Tab.get 0 r.emptyRows 0) grown same rfl rfl rfl some_ few, ?_, ?_, ?_⟩
      · rw [State.report_serveOf, State.rowsTaken_serveOf, State.ringRead_serveOf]
        rfl
      · exact State.polled_report s wc h b (e.num * 256) g.watchSeq rows grown (grown <<< 8) fits
      · rw [State.report_harn, State.rowsTaken_emptyRows]

end Sys2Proof.Machine
end

section
namespace Sys2Proof.Machine

open Sys2Proof

/-! PROOFS. BOLT_CREATE, SCRUB and BOLT_DESTROY (R161, R227–R229, R250): a descriptor accepted and completed (R264, R266, R271),
what is refused, loops over the skeins and cores of a rectangle, the kill of a quiet bolt, and a bolt that becomes EMPTY. -/

/-! ## Descriptors -/

/-- The descriptor as it is accepted. -/
def accOf (s : State) (q : Nat) (d : BitVec 1024) : Acc :=
  ⟨q, (s.qp q).descNum, d, if q = 0 then some (dfield d 2 1) else s.boltOfFunc (s.qp q).func⟩

/-- The state in which it is. -/
def State.accepting (s : State) (q : Nat) : State := s.setQp q (acceptedQp (s.qp q))

theorem State.accept_ready {s : State} {q : Nat} {d : BitVec 1024} (h : Ready s q d) :
    s.accept q d = some (s.accepting q, accOf s q d) := by
  have free : ¬ ((dfield d 1 1) % 2 = 1 ∧ (s.qp q).barrierOk = false ∧ (s.qp q).openDescs ≠ []) := fun p => p.2.2 h.noneOpen
  simp only [State.accept, h.fetch, Bool.not_true, Bool.false_eq_true, if_false, if_neg free]
  rw [h.noneOpen]
  rfl

/-- A descriptor of the opcode of its command is accepted, and the command acts on it. -/
theorem onDesc_ready {s : State} {q : Nat} {d : BitVec 1024} (h : Ready s q d) {op : Nat} (opcode : dOpcode d = op)
    (f : State → Acc → State) : onDesc op q d s f = .next (f (s.accepting q) (accOf s q d)) := by
  rw [onDesc, onQp, onUnit_next _ _ _ (decide_eq_true h.pair), if_pos opcode, State.accept_ready h]
  exact congrArg _ (if_pos h.header)

/-! ## Completions -/

/-- A completion of the descriptor that queue pair `q` accepted last. -/
structure Finishes (s s₁ : State) (q : Nat) (d : BitVec 1024) (c : Cqe) : Prop where
  ready : Ready s q d
  pair : s₁.qp q = acceptedQp (s.qp q)
  writable : (s₁.func (s.qp q).func).writable = true
  fin : c.finOf = some (q, (s.qp q).descNum)
  keeps : c.frees = none

/-- The queue pair is moderated by no interrupt. -/
theorem State.moderate_quiet (s : State) (q : Nat) (quiet : cfgIrqEn (s.qp q).cfg = false) : s.moderate q = s :=
  if_neg fun p => absurd (quiet.symm.trans p.1) (by decide)

theorem ready_enabled {s : State} {q : Nat} {d : BitVec 1024} (h : Ready s q d) :
    (s.qp q).enabled = true ∧ (s.qp q).error = false := by
  have fetch := h.fetch
  simp only [State.canFetch, Bool.and_eq_true, Bool.not_eq_true'] at fetch
  exact ⟨fetch.1.1.1.1, fetch.1.1.1.2⟩

/-- The final of a descriptor ends it, and nothing else. -/
theorem State.finalDone_desc (s : State) (c : Cqe) (q n : Nat) (fin : c.finOf = some (q, n)) (keeps : c.frees = none) :
    s.finalDone c = s.modQp q fun r => { r with openDescs := r.openDescs.filter fun m => m ≠ n } := by
  rw [State.finalDone, fin, keeps]

/-- The queue pair with one entry more in its ring. -/
def writtenQp (r : QpRec) (now : Nat) : QpRec :=
  { acceptedQp r with
    cqTail := if decide (r.cqTail + 1 = r.cqSize) then 0 else r.cqTail + 1
    cqPhase := if decide (r.cqTail + 1 = r.cqSize) then !r.cqPhase else r.cqPhase
    unread := r.unread + 1, t0 := if r.pend = 0 then now else r.t0, pend := r.pend + 1 }

/-- Its last descriptor has ended. -/
theorem writtenQp_answered (r : QpRec) (now : Nat) :
    { writtenQp r now with openDescs := (writtenQp r now).openDescs.filter fun m => m ≠ r.descNum } = answeredQp r now := by
  simp [writtenQp, answeredQp, acceptedQp]

/-- Queue pairs and the host's memory alone change. -/
def HostFrame (s t : State) : Prop := t = { s with qps := t.qps, hostMem := t.hostMem }

theorem HostFrame.trans {s t u : State} (h : HostFrame s t) (h' : HostFrame t u) : HostFrame s u := by
  rw [HostFrame] at h h' ⊢
  rw [h', h]

/-- The frame of one whose host memory is known. -/
theorem HostFrame.host {s t : State} {mem : List Host.Cell} (h : HostFrame s t) (host : t.hostMem = mem) :
    t = { { s with hostMem := mem } with qps := t.qps } := by
  subst host
  exact h

theorem State.modQp_frame (s : State) (q : Nat) (f : QpRec → QpRec) : HostFrame s (s.modQp q f) := rfl

theorem State.setQp_frame (s : State) (q : Nat) (v : QpRec) : HostFrame s (s.setQp q v) := rfl

/-- The host's memory alone becomes `mem`. -/
def State.withHost (s : State) (mem : List Host.Cell) : State := { s with hostMem := mem }

theorem State.withHost_frame (s : State) (mem : List Host.Cell) : HostFrame s (s.withHost mem) := rfl

@[simp] theorem State.withHost_hostMem (s : State) (mem : List Host.Cell) : (s.withHost mem).hostMem = mem := rfl

@[simp] theorem State.withHost_qp (s : State) (mem : List Host.Cell) (k : Nat) : (s.withHost mem).qp k = s.qp k := rfl

/-- From `s` to `t` queue pair `q` alone has become `r`, and `mem` is the host's memory. -/
structure PairWritten (s t : State) (q : Nat) (r : QpRec) (mem : List Host.Cell) : Prop where
  own : t.qp q = r
  others : ∀ k, k ≠ q → t.qp k = s.qp k
  host : t.hostMem = mem
  frame : HostFrame s t

/-- The host's memory with the next entry of a queue pair's ring. -/
def entryWritten (r : QpRec) (q : Nat) (c : Cqe) (mem : List Host.Cell) : List Host.Cell :=
  writeBytes mem (ringBase r.cq + 64 * r.cqTail) (cqeBytes c ((r.sqHead + 1) % r.sqSize) q r.cqPhase)

section completes

variable {s s₁ : State} {q : Nat} {d : BitVec 1024} {c : Cqe} (h : Finishes s s₁ q d c)

include h

/-- The entry is written into its slot, and its final is done. -/
theorem State.writeCqe_finishes (s₂ : State) (pair : s₂.qp q = acceptedQp (s.qp q)) :
    PairWritten s₂ (s₂.writeCqe q c) q (answeredQp (s.qp q) s₂.time) (entryWritten (s.qp q) q c s₂.hostMem) := by
  have written : s₂.writeCqe q c = ((((s₂.withHost (entryWritten (s.qp q) q c s₂.hostMem)).setQp q
      (writtenQp (s.qp q) s₂.time)).finalDone c).moderate q) := by
    rw [State.writeCqe, pair]
    rfl
  rw [State.finalDone_desc _ _ _ _ h.fin h.keeps, State.moderate_quiet _ _ (by
    rw [State.modQp_qp_self, State.setQp_qp_self]
    exact h.ready.quiet)] at written
  rw [written]
  refine ⟨?_, fun k hk => ?_, ?_, ?_⟩
  · rw [State.modQp_qp_self, State.setQp_qp_self, writtenQp_answered]
  · rw [State.modQp_qp_ne _ _ _ _ hk, State.setQp_qp_ne _ _ _ _ hk, State.withHost_qp]
  · rw [State.modQp_hostMem, State.setQp_hostMem, State.withHost_hostMem]
  · exact ((State.withHost_frame _ _).trans (State.setQp_frame _ _ _)).trans (State.modQp_frame _ _ _)

/-- A completion is written at once. -/
theorem State.complete_finishes : PairWritten s₁ (s₁.complete q c) q (answeredQp (s.qp q) s₁.time)
    (entryWritten (s.qp q) q c s₁.hostMem) := by
  obtain ⟨enabled, sound⟩ := ready_enabled h.ready
  have none_ : (acceptedQp (s.qp q)).held = [] := h.ready.noneHeld
  have held : (s₁.modQp q fun r => { r with held := r.held ++ [c] }).qp q = { acceptedQp (s.qp q) with held := [c] } := by
    rw [State.modQp_qp_self, h.pair, none_, List.nil_append]
  have room : (s₁.modQp q fun r => { r with held := r.held ++ [c] }).cqRoom q = true := by
    simp only [State.cqRoom, held, Bool.and_eq_true, Bool.not_eq_true', decide_eq_true_eq]
    exact ⟨⟨⟨enabled, sound⟩, h.ready.room⟩, h.writable⟩
  have pair : ((s₁.modQp q fun r => { r with held := r.held ++ [c] }).modQp q fun r => { r with held := [] }).qp q =
      acceptedQp (s.qp q) := by
    rw [State.modQp_qp_self, held]
    exact congrArg (fun l => { acceptedQp (s.qp q) with held := l }) none_.symm
  have done : s₁.complete q c = ((s₁.modQp q fun r => { r with held := r.held ++ [c] }).modQp q fun r =>
      { r with held := [] }).writeCqe q c := by
    rw [State.complete, h.pair, if_pos (by exact enabled), State.drainCq, held]
    simp only [List.length_singleton, State.flushCq, held, room, if_true]
  obtain ⟨own, others, host, frame⟩ := State.writeCqe_finishes h _ pair
  rw [done]
  refine ⟨own, fun k hk => ?_, host, ?_⟩
  · rw [others k hk, State.modQp_qp_ne _ _ _ _ hk, State.modQp_qp_ne _ _ _ _ hk]
  · exact ((State.modQp_frame _ _ _).trans (State.modQp_frame _ _ _)).trans frame

end completes

/-- A descriptor that completes as it is accepted. -/
theorem answers_of_finish {s : State} {q : Nat} {d : BitVec 1024} (h : Ready s q d) {cmd : Instr} (status : Nat)
    (result : List Nat) (run : exec cmd s = .next ((s.accepting q).finish (accOf s q d) status result)) :
    Answers cmd s s q d status result := by
  have fin : Finishes s (s.accepting q) q d ((accOf s q d).cqe status result) :=
    ⟨h, State.setQp_qp_self _ _ _, h.writable, rfl, rfl⟩
  obtain ⟨own, others, host, frame⟩ := State.complete_finishes fin
  exact ⟨_, run, own, fun k hk => (others k hk).trans (State.setQp_qp_ne _ _ _ _ hk),
    ((State.setQp_frame s q _).trans frame).host host⟩

/-- A refused descriptor answers INVALID. -/
theorem answers_of_invalid {s : State} {q : Nat} {d : BitVec 1024} (h : Ready s q d) {cmd : Instr}
    (run : exec cmd s = .next ((s.accepting q).invalid (accOf s q d))) :
    Answers cmd s s q d 7 ((s.accepting q).refused (accOf s q d)) := answers_of_finish h 7 _ run

/-! ## Descriptors that are refused -/

theorem accOf_opcode (s : State) (q : Nat) (d : BitVec 1024) : dOpcode (accOf s q d).d = dOpcode d := rfl

/-- Off the admin queue a descriptor acts on no bolt. -/
theorem accOf_admin_of_ne (s : State) {q : Nat} (d : BitVec 1024) (off : q ≠ 0) : (accOf s q d).admin = none := if_neg off

/-- On the admin queue it acts on the bolt that it names. -/
theorem accOf_admin_zero (s : State) (d : BitVec 1024) : (accOf s 0 d).admin = some (dfield d 2 1) := rfl

/-- A command on a bolt reports the state of the bolt that its queue applies to (R271). -/
theorem refused_boltCmd (s : State) (q : Nat) (d : BitVec 1024) (op : dOpcode d ∈ [0x20, 0x21, 0x22]) :
    (s.accepting q).refused (accOf s q d) = [match (accOf s q d).bolt with
      | some x => (s.bolt x).st.code
      | none => 0] := by
  rw [← accOf_opcode s q] at op
  have isBolt : dOpcode (accOf s q d).d = 0x20 ∨ dOpcode (accOf s q d).d = 0x21 ∨ dOpcode (accOf s q d).d = 0x22 := by
    simpa only [List.mem_cons, List.not_mem_nil, or_false] using op
  have notStore : dOpcode (accOf s q d).d ≠ 0x10 := by omega
  have notStop : dOpcode (accOf s q d).d ≠ 0x13 := by omega
  rw [State.refused, if_neg notStore, if_neg notStop, if_pos isBolt]
  cases (accOf s q d).bolt <;> rfl

theorem refused_offAdmin (s : State) {q : Nat} (d : BitVec 1024) (op : dOpcode d ∈ [0x20, 0x21, 0x22]) (off : q ≠ 0) :
    (s.accepting q).refused (accOf s q d) = [match s.boltOfFunc (s.qp q).func with
      | some x => (s.bolt x).st.code
      | none => 0] := by
  have bolt : (accOf s q d).bolt = s.boltOfFunc (s.qp q).func := if_neg off
  rw [refused_boltCmd s q d op, bolt]

theorem refused_admin (s : State) (d : BitVec 1024) (op : dOpcode d ∈ [0x20, 0x21, 0x22]) :
    (s.accepting 0).refused (accOf s 0 d) = [(s.bolt (dfield d 2 1)).st.code] := refused_boltCmd s 0 d op

/-! ## The three commands as accepted -/

theorem exec_boltCreate {s : State} {q : Nat} {d : BitVec 1024} (h : Ready s q d) (op : dOpcode d = 0x20) :
    exec (.boltCreate q d) s = .next (match (accOf s q d).admin with
      | some b => if (s.accepting q).createOk b d then
          let x := (s.accepting q).inheritRetained b (boltOf d (accOf s q d).fin)
          (((x.1.setBolt b x.2).setServeOf b {}).setCtPage b {}).createAdvance b
        else (s.accepting q).invalid (accOf s q d)
      | none => (s.accepting q).invalid (accOf s q d)) := onDesc_ready h op _

theorem exec_boltDestroy {s : State} {q : Nat} {d : BitVec 1024} (h : Ready s q d) (op : dOpcode d = 0x21) :
    exec (.boltDestroy q d) s = .next ((s.accepting q).killDesc (accOf s q d) d true) := onDesc_ready h op _

theorem exec_scrub {s : State} {q : Nat} {d : BitVec 1024} (h : Ready s q d) (op : dOpcode d = 0x22) :
    exec (.scrub q d) s = .next ((s.accepting q).killDesc (accOf s q d) d false) := onDesc_ready h op _

/-- A command that the admin queue alone takes, on another one (R271). -/
theorem boltDesc_offAdmin {s : State} {q : Nat} {d : BitVec 1024} (h : Ready s q d) {cmd : Instr}
    (op : dOpcode d ∈ [0x20, 0x21, 0x22]) (off : q ≠ 0)
    (run : exec cmd s = .next ((s.accepting q).invalid (accOf s q d))) :
    Answers cmd s s q d 7 [match s.boltOfFunc (s.qp q).func with
      | some x => (s.bolt x).st.code
      | none => 0] := by
  rw [← refused_offAdmin s d op off]
  exact answers_of_invalid h run

theorem State.killDesc_offAdmin (s : State) {q : Nat} (d : BitVec 1024) (off : q ≠ 0) (destroy : Bool) :
    (s.accepting q).killDesc (accOf s q d) d destroy = (s.accepting q).invalid (accOf s q d) := by
  rw [State.killDesc, accOf_admin_of_ne s d off]

/-- What the kill takes: a descriptor in range, for a bolt in a state that it leaves (R250, Table 9.2). -/
def killTakes (s : State) (d : BitVec 1024) (destroy : Bool) : Bool :=
  killOk d && decide ((s.bolt (dfield d 2 1)).st ≠ .none) && decide ((s.bolt (dfield d 2 1)).st ≠ .scrubbing) &&
    (destroy || decide ((s.bolt (dfield d 2 1)).st ≠ .faulted))

theorem State.killDesc_admin (s : State) (d : BitVec 1024) (destroy : Bool) :
    (s.accepting 0).killDesc (accOf s 0 d) d destroy = if killTakes s d destroy then
        (s.accepting 0).kill (dfield d 2 1) (accOf s 0 d).fin (bitAt (dfield d 16 1) 0) destroy
      else (s.accepting 0).invalid (accOf s 0 d) := rfl

/-- What the kill does not take (Table 9.2). -/
theorem killTakes_eq_false (s : State) (d : BitVec 1024) (destroy : Bool)
    (bad : (s.bolt (dfield d 2 1)).st = .none ∨ (s.bolt (dfield d 2 1)).st = .scrubbing ∨ 2 ≤ dfield d 16 1 ∨
      ((s.bolt (dfield d 2 1)).st = .faulted ∧ destroy = false)) : killTakes s d destroy = false := by
  rcases bad with absent | scrubs | wide | ⟨faulted, scrub⟩
  · simp [killTakes, absent]
  · simp [killTakes, scrubs]
  · simp [killTakes, killOk, Nat.not_lt.mpr wide]
  · simp [killTakes, faulted, scrub]

/-- What the kill takes. -/
theorem killTakes_eq_true (s : State) (d : BitVec 1024) (destroy : Bool) (stands : (s.bolt (dfield d 2 1)).st ≠ .none)
    (settled : (s.bolt (dfield d 2 1)).st ≠ .scrubbing) (sound : (s.bolt (dfield d 2 1)).st ≠ .faulted ∨ destroy = true)
    (zero : dZeroBut d [(0, 17)] = true) (handle : dHandle d = 0) (flags : dfield d 16 1 < 2) :
    killTakes s d destroy = true := by
  rcases sound with sound | sound <;> simp [killTakes, killOk, stands, settled, sound, zero, handle, flags]

theorem kill_refused {s : State} {d : BitVec 1024} (h : Ready s 0 d) {cmd : Instr} {destroy : Bool}
    (op : dOpcode d ∈ [0x20, 0x21, 0x22])
    (run : exec cmd s = .next ((s.accepting 0).killDesc (accOf s 0 d) d destroy))
    (bad : killTakes s d destroy = false) : Answers cmd s s 0 d 7 [(s.bolt (dfield d 2 1)).st.code] := by
  rw [← refused_admin s d op]
  refine answers_of_invalid h (run.trans ?_)
  rw [State.killDesc_admin, bad]
  rfl

/-- A BOLT_CREATE that is not taken (R228, R271). -/
theorem create_refused {s : State} {d : BitVec 1024} (h : Ready s 0 d) (op : dOpcode d = 0x20)
    (bad : s.createOk (dfield d 2 1) d = false) :
    Answers (.boltCreate 0 d) s s 0 d 7 [(s.bolt (dfield d 2 1)).st.code] := by
  have same : (s.accepting 0).createOk (dfield d 2 1) d = false := bad
  rw [← refused_admin s d (by simp [op])]
  refine answers_of_invalid h ((exec_boltCreate h op).trans ?_)
  simp only [accOf_admin_zero, same, Bool.false_eq_true, if_false]

/-! ## What R228 refuses -/

theorem BoltRec.inUse_of_st {r : BoltRec} (h : r.st ≠ .none) : r.inUse = true := by
  rw [BoltRec.inUse, decide_eq_true h, Bool.true_or]

/-- The other bolts that stand are among those that a create looks at. -/
theorem State.mem_otherBolts {s : State} {b x : Nat} (hx : x < 8) (hb : x ≠ b) (stands : (s.bolt x).st ≠ .none) :
    s.bolt x ∈ s.otherBolts b := by
  refine List.mem_map_of_mem (List.mem_filter.mpr ⟨List.mem_range.mpr hx, ?_⟩)
  rw [decide_eq_true hb, BoltRec.inUse_of_st stands, Bool.true_and]

/-- A sum over a list is at least what it begins with. -/
theorem le_foldl_add {α : Type} (f : α → Nat) (l : List α) (a : Nat) : a ≤ l.foldl (fun n k => n + f k) a :=
  List.foldlRecOn (motive := fun n => a ≤ n) l _ (Nat.le_refl a) fun _ h _ _ => Nat.le_add_right_of_le h

/-- The fields that a BOLT_CREATE has in range. -/
theorem createFieldsOk_iff (d : BitVec 1024) : createFieldsOk d = true ↔
    dZeroBut d [(0, 31)] = true ∧ dHandle d = 0 ∧ dfield d 30 1 < 8 ∧ 1 ≤ dfield d 18 1 ∧ dfield d 16 1 + dfield d 18 1 ≤ 64 ∧
      1 ≤ dfield d 19 1 ∧ dfield d 17 1 + dfield d 19 1 ≤ 72 ∧ BitVec.ofNat 32 (dfield d 20 4) ≠ 0 := by
  simp only [createFieldsOk, Bool.and_eq_true, decide_eq_true_eq, and_assoc]
  rfl

/-- What a create asks of the bolts that stand, and of the pool. -/
theorem State.createOk_iff (s : State) (b : Nat) (d : BitVec 1024) : s.createOk b d = true ↔
    createFieldsOk d = true ∧ (s.bolt b).inUse = false ∧ (∀ k ∈ s.otherBolts b, rectsMeet k (boltOf d {}) = false) ∧
      (∀ k ∈ s.otherBolts b, k.funcMask &&& BitVec.ofNat 32 (dfield d 20 4) = 0) ∧
      (s.otherBolts b).foldl (fun a k => a + k.share) (dfield d 24 4) ≤ Config.heavyBudget s.configCode ∧
      ∀ p < Config.nPorts, (s.port p).state ≠ 1 ∨ quotaBlocks (dfield d 28 2) ≤ s.unreserved b p (boltOf d {}) := by
  simp only [State.createOk, Bool.and_eq_true, Bool.or_eq_true, Bool.not_eq_true', decide_eq_true_eq, List.all_eq_true,
    List.mem_range, and_assoc]
  rfl

theorem rectsMeet_iff (a b : BoltRec) : rectsMeet a b = true ↔
    a.sx0 < b.sx0 + b.w ∧ b.sx0 < a.sx0 + a.w ∧ a.sy0 < b.sy0 + b.h ∧ b.sy0 < a.sy0 + a.h := by
  simp only [rectsMeet, Bool.and_eq_true, decide_eq_true_eq, and_assoc]

/-- What `createBad` names is refused. -/
theorem State.createOk_of_bad {s : State} {d : BitVec 1024} (bad : createBad s d) : s.createOk (dfield d 2 1) d = false := by
  refine Bool.eq_false_iff.mpr fun ok => ?_
  obtain ⟨fields, free, apart, funcs, shares, -⟩ := (State.createOk_iff s _ d).mp ok
  obtain ⟨-, -, -, wide, right, tall, low, mask⟩ := (createFieldsOk_iff d).mp fields
  rcases bad with h | h | h | h | h | h | h | ⟨x, hx, hb, stands, meets⟩
  · omega
  · omega
  · omega
  · omega
  · exact mask (by rw [h]; rfl)
  · exact absurd (Nat.le_trans (le_foldl_add _ _ _) shares) (Nat.not_le.mpr h)
  · exact absurd free (by rw [BoltRec.inUse_of_st h]; decide)
  · have other := State.mem_otherBolts hx hb stands
    rcases meets with ⟨f, hf, has, asks⟩ | rect
    · have both := congrArg (fun v : BitVec 32 => v.getLsbD f) (funcs _ other)
      rw [bitAt_eq_testBit] at asks
      simp only [BitVec.getLsbD_and, BitVec.getLsbD_ofNat, has, asks, hf, decide_true, Bool.and_self] at both
      exact absurd both (by simp)
    · have meets : rectsMeet (s.bolt x) (boltOf d {}) = true := (rectsMeet_iff _ _).mpr (by
        obtain ⟨h1, h2, h3, h4⟩ := rect
        exact ⟨h2, h1, h4, h3⟩)
      exact absurd (apart _ other) (by rw [meets]; decide)

/-- On an engine without bolts a create in range is taken. -/
theorem State.createOk_of_ok {s : State} {d : BitVec 1024} (ok : CreateOk s d) : s.createOk (dfield d 2 1) d = true := by
  obtain ⟨⟨-, handle, zero, flags⟩, ⟨wide, right⟩, ⟨tall, low⟩, funcs, share, quota, noBolts, noBlocks⟩ := ok
  have empty : ∀ b, s.bolt b = {} := fun b => by rw [State.bolt, noBolts]; rfl
  have alone : ∀ b, s.otherBolts b = [] := fun b => by
    simp only [State.otherBolts, empty]
    simp [BoltRec.inUse]
  refine (State.createOk_iff s _ d).mpr ⟨(createFieldsOk_iff d).mpr ⟨zero, handle, flags, wide, right, tall, low, ?_⟩,
    ?_, ?_, ?_, ?_, fun p _ => .inr ?_⟩
  · have small : dfield d 20 4 < 2 ^ 32 := bits_lt _ _ _
    intro h
    have := congrArg BitVec.toNat h
    rw [BitVec.toNat_ofNat, Nat.mod_eq_of_lt small] at this
    exact funcs this
  · rw [empty]; rfl
  · rw [alone]; exact fun k hk => absurd hk List.not_mem_nil
  · rw [alone]; exact fun k hk => absurd hk List.not_mem_nil
  · rw [alone]; exact share
  · rw [State.unreserved, alone, noBolts]
    simp only [List.foldl_nil, quotaBlocks, ceilDiv, Config.creelBlocks, Config.systemBlocks, Config.creelBlockBytes]
    omega

/-! ## Loops over the units of a bolt -/

/-- A loop whose step `k` acts, by `g`, on unit `k` alone where that unit meets `P`: every unit that it names is acted on. -/
theorem foldl_units {α : Type} {get : State → Nat → α} {f : State → Nat → State} {g : α → α} {P : α → Prop}
    (own : ∀ s k, P (get s k) → get (f s k) k = g (get s k))
    (others : ∀ s k, P (get s k) → ∀ j, j ≠ k → get (f s k) j = get s j) (keeps : ∀ a, P a → P (g a))
    (again : ∀ a, g (g a) = g a) (l : List Nat) (s : State) (meets : ∀ k ∈ l, P (get s k)) (j : Nat) :
    get (l.foldl f s) j = if j ∈ l then g (get s j) else get s j := by
  induction l generalizing s with
  | nil => exact (if_neg List.not_mem_nil).symm
  | cons k l ih =>
    have head : P (get s k) := meets k List.mem_cons_self
    have step : ∀ j, get (f s k) j = if j = k then g (get s j) else get s j := fun j => by
      by_cases h : j = k
      · rw [if_pos h, h, own s k head]
      · rw [if_neg h, others s k head j h]
    rw [List.foldl_cons, ih (f s k) fun i hi => ?_]
    · by_cases hk : j = k
      · simp [step, hk, again]
      · simp [step, hk]
    · rw [step]
      split
      · exact keeps _ (meets i (List.mem_cons_of_mem _ hi))
      · exact meets i (List.mem_cons_of_mem _ hi)

/-- A loop whose step `k` establishes `Q k`, and keeps it for the others: it holds of every unit that the loop names. -/
theorem foldl_establishes {f : State → Nat → State} {Q : Nat → State → Prop} (own : ∀ s k, Q k (f s k))
    (others : ∀ s k j, j ≠ k → Q j s → Q j (f s k)) (l : List Nat) (s : State) (j : Nat) (named : j ∈ l ∨ Q j s) :
    Q j (l.foldl f s) := by
  induction l generalizing s with
  | nil => exact named.resolve_left List.not_mem_nil
  | cons k l ih =>
    refine ih (f s k) ?_
    by_cases h : j = k
    · exact .inr (h ▸ own s k)
    · rcases named with mem | holds
      · exact .inl ((List.mem_cons.mp mem).resolve_left h)
      · exact .inr (others s k j h holds)

/-- A loop leaves alone every unit that it does not name. -/
theorem foldl_unnamed {α : Type} {get : State → Nat → α} {f : State → Nat → State}
    (others : ∀ s k j, j ≠ k → get (f s k) j = get s j) (l : List Nat) (s : State) (j : Nat) (h : j ∉ l) :
    get (l.foldl f s) j = get s j :=
  List.foldlRecOn (motive := fun t => get t j = get s j) l f rfl fun t ht k hk =>
    (others t k j fun e => h (e ▸ hk)).trans ht

/-! ## The skeins and cores of a rectangle -/

theorem BoltRec.mem_skeins (r : BoltRec) (fits : r.sx0 + r.w ≤ 64) (k : Nat) : k ∈ r.skeins ↔ hasSkein r k := by
  simp only [BoltRec.skeins, List.mem_flatMap, List.mem_map, List.mem_range]
  constructor
  · rintro ⟨j, hj, i, hi, rfl⟩
    rw [hasSkein]
    omega
  · intro ⟨left, right, top, bottom⟩
    exact ⟨k / 64 - r.sy0, by omega, k % 64 - r.sx0, by omega, by omega⟩

/-- A core is of skein `k` where it stands in the skein's square. -/
theorem mem_skeinCores (k c : Nat) : c ∈ skeinCores k ↔ coreX c / 8 = k % 64 ∧ coreY c / 8 = k / 64 := by
  simp only [skeinCores, tabulate, List.mem_map, List.mem_range, skeinCore, skeinX, skeinY, coreNum, coreX, coreY]
  constructor
  · rintro ⟨q, hq, rfl⟩
    omega
  · intro ⟨hx, hy⟩
    exact ⟨c / 512 % 8 * 8 + c % 8, by omega, by omega⟩

theorem BoltRec.mem_sites (r : BoltRec) (on : onArray r) (c : Nat) : c ∈ r.sites ↔ inRect r c := by
  obtain ⟨wide, tall⟩ := on
  simp only [BoltRec.sites, List.mem_flatMap, mem_skeinCores, BoltRec.mem_skeins r wide, hasSkein, inRect, Config.nCores, coreX,
    coreY]
  constructor
  · rintro ⟨k, _, hx, hy⟩
    omega
  · intro _
    exact ⟨c / 512 / 8 * 64 + c % 512 / 8, by omega, by omega, by omega⟩

/-! ## A change of a bolt's state is told to its functions (R275) -/

/-- The messages alone become `m`. -/
def State.withMsix (s : State) (m : List (Nat × Nat)) : State := { s with msix := m }

/-- Vector 0 of each function of `l` that the mask has is sent, in the order of `l`. -/
theorem foldl_tellFuncs (mask : BitVec 32) (l : List Nat) (s : State) (hear : FuncsHear s) :
    l.foldl (fun s f => if mask.getLsbD f then s.sendMsix f 0 else s) s =
      s.withMsix (((l.filter fun f => mask.getLsbD f).reverse.map fun f => (f, 0)) ++ s.msix) := by
  induction l generalizing s with
  | nil => rfl
  | cons f l ih =>
    rw [List.foldl_cons]
    by_cases has : mask.getLsbD f = true
    · have tell : s.sendMsix f 0 = s.withMsix ((f, 0) :: s.msix) := State.sendMsix_open s f 0 (hear f).1 (hear f).2
      rw [if_pos has, tell, ih (s.withMsix ((f, 0) :: s.msix)) hear,
        List.filter_cons_of_pos has, List.reverse_cons, List.map_append, List.append_assoc]
      rfl
    · rw [if_neg has, ih s hear, List.filter_cons_of_neg has]

/-- Another state of a bolt: its functions are told. -/
theorem State.setBoltSt_told (s : State) (b : Nat) (st : BoltSt) (new : (s.bolt b).st ≠ st) (hear : FuncsHear s) :
    s.setBoltSt b st = (s.setBolt b { s.bolt b with st := st }).withMsix (toldAll s (s.bolt b).funcMask) := by
  rw [State.setBoltSt, if_neg new, foldl_tellFuncs _ _ (s.setBolt b _) hear, State.setBolt_msix, toldAll, Config.nFunctions]

/-! ## SCRUB and BOLT_DESTROY of a quiet bolt (R250) -/

/-- What a kill may change. -/
def KillFrame (s t : State) : Prop :=
  t = { s with
    bolts := t.bolts, cores := t.cores, qps := t.qps, msix := t.msix, faults := { s.faults with onset := t.faults.onset } }

theorem KillFrame.trans {s t u : State} (h : KillFrame s t) (h' : KillFrame t u) : KillFrame s u := by
  rw [KillFrame] at h h' ⊢
  rw [h', h]

theorem State.setBolt_killFrame (s : State) (b : Nat) (r : BoltRec) : KillFrame s (s.setBolt b r) := rfl

theorem State.accepting_killFrame (s : State) (q : Nat) : KillFrame s (s.accepting q) := rfl

theorem State.noteConds_killFrame (s : State) : KillFrame s s.noteConds := rfl

/-- Without requests there is nothing to end. -/
theorem State.endAll_noRequests {s : State} (none_ : s.reqs = []) (b st status : Nat) : s.endAll b st status = s := by
  simp only [State.endAll, State.checkKeys, State.boltReqs, none_, List.filter_nil, List.map_nil, List.foldl_nil]

/-- With no load, job or operation there is none to end. -/
theorem State.endOps_quiet {s : State} {b : Nat} (load : (s.bolt b).load = none) (job : (s.bolt b).tune = none)
    (ops : (s.bolt b).ops = []) (status : Nat) :
    s.endOps b status = s.setBolt b { s.bolt b with ops := [], tune := none, unloading := false } := by
  simp only [State.endOps, State.loadFail, State.freeTuneSlot, load, job, ops, List.filter_nil, List.flatMap_nil, List.foldl_nil]

theorem State.evictAll_none {s : State} (none_ : s.adapters = []) (b : Nat) : s.evictAll b = s := by
  rw [State.evictAll, none_, List.map_nil, ← none_]

/-- To halt an idle core changes nothing of it. -/
theorem State.coreHalt_idle {s : State} {c : Nat} (idle : (s.core c).st = .idle) : s.coreHalt c = s.setCore c (s.core c) := by
  have stays : (s.cx c).ctrlHalt (s.coreEnv c) = s.cx c := by
    simp only [Cx.ctrlHalt, State.cx_r, idle, reduceCtorEq, or_self, if_false]
  rw [State.coreHalt, State.onCx, stays, State.putCx_quiet _ _ _ rfl rfl rfl, State.cx_r]

/-- One core of a bolt halts and discards. -/
def State.quiesceCore (s : State) (c : Nat) : State :=
  (s.coreHalt c).modCore c fun r => { r.clearChans with discard := true }

theorem State.quiesceCore_idle {s : State} {c : Nat} (idle : (s.core c).st = .idle) :
    s.quiesceCore c = (s.setCore c (s.core c)).setCore c (halted (s.core c)) := by
  rw [State.quiesceCore, State.coreHalt_idle idle, State.modCore, State.setCore_core_self]
  rfl

theorem State.quiesceCore_own (s : State) (c : Nat) (idle : (s.core c).st = .idle) :
    (s.quiesceCore c).core c = halted (s.core c) := by
  rw [State.quiesceCore_idle idle, State.setCore_core_self]

theorem State.quiesceCore_others (s : State) (c : Nat) (idle : (s.core c).st = .idle) (j : Nat) (h : j ≠ c) :
    (s.quiesceCore c).core j = s.core j := by
  rw [State.quiesceCore_idle idle, State.setCore_core_ne _ _ _ _ h, State.setCore_core_ne _ _ _ _ h]

theorem halted_halted (r : CoreRec) : halted (halted r) = halted r := by
  simp [halted, Function.comp_def]

/-- Each core of the bolt halts. -/
theorem State.quiesce_cores {s : State} {b : Nat} (on : onArray (s.bolt b))
    (idle : ∀ c, inRect (s.bolt b) c → (s.core c).st = .idle) : coresAre s (s.quiesce b) (s.bolt b) halted := by
  have cores : ∀ j, (s.quiesce b).core j = if j ∈ (s.bolt b).sites then halted (s.core j) else s.core j :=
    foldl_units (get := State.core) (P := fun r : CoreRec => r.st = .idle) State.quiesceCore_own State.quiesceCore_others
      (fun _ h => h) halted_halted _ s fun k hk => idle k ((BoltRec.mem_sites _ on k).mp hk)
  refine ⟨fun c hc => ?_, fun c hc => ?_⟩
  · rw [cores, if_pos ((BoltRec.mem_sites _ on c).mpr hc)]
  · rw [cores, if_neg fun h => hc ((BoltRec.mem_sites _ on c).mp h)]

/-- Only cores change. -/
def CoresOnly (s t : State) : Prop := t = { s with cores := t.cores }

theorem CoresOnly.trans {s t u : State} (h : CoresOnly s t) (h' : CoresOnly t u) : CoresOnly s u := by
  rw [CoresOnly] at h h' ⊢
  rw [h', h]

theorem State.setCore_coresOnly (s : State) (c : Nat) (r : CoreRec) : CoresOnly s (s.setCore c r) := rfl

theorem State.quiesceCore_coresOnly {s : State} {c : Nat} (idle : (s.core c).st = .idle) : CoresOnly s (s.quiesceCore c) := by
  rw [State.quiesceCore_idle idle]
  exact (State.setCore_coresOnly s c _).trans (State.setCore_coresOnly _ c _)

theorem State.quiesce_coresOnly {s : State} {b : Nat} (on : onArray (s.bolt b))
    (idle : ∀ c, inRect (s.bolt b) c → (s.core c).st = .idle) : CoresOnly s (s.quiesce b) := by
  have step : ∀ l : List Nat, ∀ t : State, (∀ c ∈ l, (t.core c).st = .idle) → CoresOnly t (l.foldl State.quiesceCore t) := by
    intro l
    induction l with
    | nil => exact fun _ _ => rfl
    | cons c l ih =>
      intro t rest
      have head := rest c List.mem_cons_self
      have tail : CoresOnly (t.quiesceCore c) (l.foldl State.quiesceCore (t.quiesceCore c)) := ih _ fun k hk => by
        by_cases h : k = c
        · rw [h, State.quiesceCore_own t c head]
          exact head
        · rw [State.quiesceCore_others t c head k h]
          exact rest k (List.mem_cons_of_mem _ hk)
      exact (State.quiesceCore_coresOnly head).trans tail
  exact step _ s fun c hc => idle c ((BoltRec.mem_sites _ on c).mp hc)

/-- A bolt none of whose operations goes on. -/
def settledBolt (r : BoltRec) : BoltRec := { r with ops := [], tune := none, unloading := false }

/-- The bolt of which a kill keeps the mirrors alone. -/
def clearedBolt (r : BoltRec) (f : FinOf) (weights destroy : Bool) : BoltRec :=
  { r with
    current := none, other := none, pauses := [], drained := false, repairs := false, timersSuspended := false
    regions := [], slots := [], tops := [], incoming := none
    mirrors := r.mirrors ++ r.current.toList ++ r.other.toList
    ops := [.scrub f weights destroy] }

/-- The bolt that a kill leaves (Table 9.2). -/
def killedBolt (r : BoltRec) (f : FinOf) (weights destroy : Bool) : BoltRec :=
  { clearedBolt (settledBolt r) f weights destroy with st := .scrubbing }

theorem CoresOnly.bolt {s t : State} (h : CoresOnly s t) (k : Nat) : t.bolt k = s.bolt k := by rw [h]; rfl

theorem CoresOnly.adapters {s t : State} (h : CoresOnly s t) : t.adapters = s.adapters := by rw [h]

theorem CoresOnly.funcsHear {s t : State} (h : CoresOnly s t) (hear : FuncsHear s) : FuncsHear t := by
  rw [h]
  exact hear

theorem CoresOnly.msix {s t : State} (h : CoresOnly s t) : t.msix = s.msix := by rw [h]

theorem CoresOnly.qp {s t : State} (h : CoresOnly s t) (k : Nat) : t.qp k = s.qp k := by rw [h]; rfl

theorem CoresOnly.killFrame {s t : State} (h : CoresOnly s t) : KillFrame s t := by
  rw [CoresOnly] at h
  rw [KillFrame, h]

theorem State.withMsix_killFrame (s : State) (m : List (Nat × Nat)) : KillFrame s (s.withMsix m) := rfl

theorem State.noteConds_bolt (s : State) (k : Nat) : s.noteConds.bolt k = s.bolt k := rfl

theorem State.noteConds_core (s : State) (k : Nat) : s.noteConds.core k = s.core k := rfl

theorem State.noteConds_qp (s : State) (k : Nat) : s.noteConds.qp k = s.qp k := rfl

theorem State.noteConds_msix (s : State) : s.noteConds.msix = s.msix := rfl

@[simp] theorem State.withMsix_bolt (s : State) (m : List (Nat × Nat)) (k : Nat) : (s.withMsix m).bolt k = s.bolt k := rfl

@[simp] theorem State.withMsix_core (s : State) (m : List (Nat × Nat)) (k : Nat) : (s.withMsix m).core k = s.core k := rfl

@[simp] theorem State.withMsix_qp (s : State) (m : List (Nat × Nat)) (k : Nat) : (s.withMsix m).qp k = s.qp k := rfl

@[simp] theorem State.withMsix_msix (s : State) (m : List (Nat × Nat)) : (s.withMsix m).msix = m := rfl

section kills

variable {s : State} {b : Nat} (quiet : BoltQuiet s b) (idle : ∀ c, inRect (s.bolt b) c → (s.core c).st = .idle)

include quiet idle

/-- The cores of a bolt whose operations have ended halt. -/
theorem quiesce_settled : CoresOnly (s.setBolt b (settledBolt (s.bolt b))) ((s.setBolt b (settledBolt (s.bolt b))).quiesce b) ∧
    coresAre s ((s.setBolt b (settledBolt (s.bolt b))).quiesce b) (s.bolt b) halted := by
  have bolt : (s.setBolt b (settledBolt (s.bolt b))).bolt b = settledBolt (s.bolt b) := State.setBolt_bolt_self _ _ _
  have on : onArray ((s.setBolt b (settledBolt (s.bolt b))).bolt b) := by
    rw [bolt]
    exact quiet.onWafer
  have idle' : ∀ c, inRect ((s.setBolt b (settledBolt (s.bolt b))).bolt b) c →
      ((s.setBolt b (settledBolt (s.bolt b))).core c).st = .idle := by
    rw [bolt]
    exact idle
  have cores := State.quiesce_cores on idle'
  rw [bolt] at cores
  exact ⟨State.quiesce_coresOnly on idle', cores⟩

/-- The kill of a quiet bolt, step by step. -/
theorem State.kill_eq (running : (s.bolt b).st ≠ .scrubbing) (f : FinOf) (weights destroy : Bool) :
    s.kill b f weights destroy = (((((s.setBolt b (settledBolt (s.bolt b))).quiesce b).setBolt b
      (clearedBolt (settledBolt (s.bolt b)) f weights destroy)).setBolt b (killedBolt (s.bolt b) f weights destroy)).withMsix
        (toldAll s (s.bolt b).funcMask)).noteConds := by
  obtain ⟨only, -⟩ := quiesce_settled quiet idle
  have ops : s.endOps b ssCancelled = s.setBolt b (settledBolt (s.bolt b)) :=
    State.endOps_quiet quiet.noLoad quiet.noJob quiet.noOps _
  generalize s₂ : (s.setBolt b (settledBolt (s.bolt b))).quiesce b = t at only ⊢
  have bolt : t.bolt b = settledBolt (s.bolt b) := (only.bolt b).trans (State.setBolt_bolt_self _ _ _)
  have cleared : (t.modBolt b fun r => clearedBolt r f weights destroy) =
      t.setBolt b (clearedBolt (settledBolt (s.bolt b)) f weights destroy) := by rw [State.modBolt, bolt]
  have evict : (t.setBolt b (clearedBolt (settledBolt (s.bolt b)) f weights destroy)).evictAll b =
      t.setBolt b (clearedBolt (settledBolt (s.bolt b)) f weights destroy) :=
    State.evictAll_none (s := t.setBolt b _) (only.adapters.trans quiet.noAdapters) b
  have told := State.setBoltSt_told (t.setBolt b (clearedBolt (settledBolt (s.bolt b)) f weights destroy)) b .scrubbing (by
    rw [State.setBolt_bolt_self]
    exact running) (only.funcsHear quiet.tell)
  rw [State.setBolt_bolt_self] at told
  have msix : toldAll (t.setBolt b (clearedBolt (settledBolt (s.bolt b)) f weights destroy)) (s.bolt b).funcMask =
      toldAll s (s.bolt b).funcMask := by
    rw [toldAll, State.setBolt_msix, only.msix, State.setBolt_msix, toldAll]
  have run : s.kill b f weights destroy = (((t.modBolt b fun r => clearedBolt r f weights destroy).evictAll b).setBoltSt b
      .scrubbing).noteConds := by
    rw [State.kill, State.endAll_noRequests quiet.noRequests, ops, s₂]
    rfl
  rw [run, cleared, evict, told, ← msix]
  rfl

/-- What the kill of a quiet bolt leaves. -/
theorem State.kill_effect (running : (s.bolt b).st ≠ .scrubbing) (f : FinOf) (weights destroy : Bool) :
    boltIs s (s.kill b f weights destroy) b (killedBolt (s.bolt b) f weights destroy) ∧
      coresAre s (s.kill b f weights destroy) (s.bolt b) halted ∧
      (s.kill b f weights destroy).msix = toldAll s (s.bolt b).funcMask ∧
      (∀ k, (s.kill b f weights destroy).qp k = s.qp k) ∧ KillFrame s (s.kill b f weights destroy) := by
  obtain ⟨only, cores⟩ := quiesce_settled quiet idle
  rw [State.kill_eq quiet idle running f weights destroy]
  generalize (s.setBolt b (settledBolt (s.bolt b))).quiesce b = t at only cores ⊢
  refine ⟨⟨?_, fun k hk => ?_⟩, ⟨fun c hc => ?_, fun c hc => ?_⟩, ?_, fun k => ?_, ?_⟩
  · rw [State.noteConds_bolt, State.withMsix_bolt, State.setBolt_bolt_self]
  · rw [State.noteConds_bolt, State.withMsix_bolt, State.setBolt_bolt_ne _ _ _ _ hk, State.setBolt_bolt_ne _ _ _ _ hk, only.bolt,
      State.setBolt_bolt_ne _ _ _ _ hk]
  · rw [State.noteConds_core, State.withMsix_core, State.setBolt_unit_core, State.setBolt_unit_core, cores.1 c hc]
  · rw [State.noteConds_core, State.withMsix_core, State.setBolt_unit_core, State.setBolt_unit_core, cores.2 c hc]
  · rw [State.noteConds_msix, State.withMsix_msix]
  · rw [State.noteConds_qp, State.withMsix_qp, State.setBolt_unit_qp, State.setBolt_unit_qp, only.qp, State.setBolt_unit_qp]
  · exact (((((State.setBolt_killFrame s b _).trans only.killFrame).trans (State.setBolt_killFrame t b _)).trans
      (State.setBolt_killFrame _ b _)).trans (State.withMsix_killFrame _ _)).trans (State.noteConds_killFrame _)

end kills

/-- A bolt without a tune job is killed without one. -/
theorem killedBolt_noJob {r : BoltRec} (noJob : r.tune = none) (f : FinOf) (weights destroy : Bool) :
    { killedBolt r f weights destroy with tune := r.tune } = killedBolt r f weights destroy := by
  rw [noJob]
  rfl

/-- The kill that a descriptor asks for. -/
theorem kill_accepted {s : State} {d : BitVec 1024} {cmd : Instr} {destroy : Bool}
    (run : exec cmd s = .next ((s.accepting 0).killDesc (accOf s 0 d) d destroy)) (takes : killTakes s d destroy = true)
    (running : (s.bolt (dfield d 2 1)).st ≠ .scrubbing) (quiet : BoltQuiet s (dfield d 2 1))
    (idle : ∀ c, inRect (s.bolt (dfield d 2 1)) c → (s.core c).st = .idle) :
    ∃ t, exec cmd s = .next t ∧
      boltIs s t (dfield d 2 1) { killedBolt (s.bolt (dfield d 2 1)) (finOfDesc s 0 d) (bitAt (dfield d 16 1) 0) destroy with
        tune := (s.bolt (dfield d 2 1)).tune } ∧
      coresAre s t (s.bolt (dfield d 2 1)) halted ∧ t.msix = toldAll s (s.bolt (dfield d 2 1)).funcMask ∧
      t.qp 0 = acceptedQp (s.qp 0) ∧ (∀ k, k ≠ 0 → t.qp k = s.qp k) ∧ KillFrame s t := by
  have quiet' : BoltQuiet (s.accepting 0) (dfield d 2 1) :=
    ⟨quiet.noRequests, quiet.noAdapters, quiet.noLoad, quiet.noJob, quiet.noOps, quiet.onWafer, quiet.tell⟩
  obtain ⟨bolt, cores, msix, qps, frame⟩ :=
    State.kill_effect quiet' idle running (finOfDesc s 0 d) (bitAt (dfield d 16 1) 0) destroy
  rw [State.killDesc_admin, takes, if_pos rfl] at run
  rw [killedBolt_noJob quiet.noJob]
  refine ⟨_, run, bolt, cores, msix, (qps 0).trans (State.setQp_qp_self _ _ _), fun k hk => ?_,
    (State.accepting_killFrame s 0).trans frame⟩
  exact (qps k).trans (State.setQp_qp_ne _ _ _ _ hk)

/-! ## Fences (R161) -/

/-- Port `p` of the router at (x, y) faces out of the rectangle. -/
def outward (r : BoltRec) (x y p : Nat) : Bool :=
  match leave x y p with
  | .at_ (.router x' y' _) => !(decide (8 * r.sx0 ≤ x') && decide (x' < 8 * (r.sx0 + r.w)) &&
      decide (8 * r.sy0 ≤ y') && decide (y' < 8 * (r.sy0 + r.h)))
  | _ => true

/-- A port that is there and faces out, as a bit. -/
def fenceBit (r : BoltRec) (x y p : Nat) : Nat := (hasPort x y p && outward r x y p).toNat

theorem add_if_eq (c : Bool) (a n : Nat) : (if c = true then a + n else a) = a + n * c.toNat := by
  cases c
  · rfl
  · exact congrArg _ (Nat.mul_one n).symm

/-- The fence bits are those of the eight ports. -/
theorem fenceBits_eq (r : BoltRec) (x y : Nat) : fenceBits r x y =
    16 * fenceBit r x y 1 + 32 * fenceBit r x y 2 + 64 * fenceBit r x y 3 + 128 * fenceBit r x y 4 + 256 * fenceBit r x y 5 +
      512 * fenceBit r x y 6 + 1024 * fenceBit r x y 7 + 2048 * fenceBit r x y 8 := by
  have step : ∀ p a, (if (hasPort x y p && outward r x y p) = true then a + 2 ^ (3 + p) else a) =
      a + 2 ^ (3 + p) * fenceBit r x y p := fun p a => add_if_eq _ a _
  calc fenceBits r x y
      = [1, 2, 3, 4, 5, 6, 7, 8].foldl (fun a p => if (hasPort x y p && outward r x y p) = true then a + 2 ^ (3 + p) else a) 0 := rfl
    _ = _ := by simp only [step, List.foldl_cons, List.foldl_nil, Nat.zero_add, Nat.reducePow, Nat.reduceAdd]

theorem fenceBit_le (r : BoltRec) (x y p : Nat) : fenceBit r x y p ≤ 1 := Bool.toNat_le _

/-- Each router has the ports 1 to 4. -/
theorem fenceBit_eq_one (r : BoltRec) (x y p : Nat) (small : p ≤ 4) : fenceBit r x y p = 1 ↔ outward r x y p = true := by
  rw [fenceBit, hasPort, if_pos small, Bool.true_and, Bool.toNat_eq_one]

/-- Ports 1 to 4 lead to routers of the array. -/
theorem leave_onArray {x y p x' y' e : Nat} (hx : x < 512) (hy : y < 576) (low : 1 ≤ p) (high : p ≤ 4)
    (there : leave x y p = .at_ (.router x' y' e)) : x' < 512 ∧ y' < 576 := by
  obtain rfl | rfl | rfl | rfl : p = 1 ∨ p = 2 ∨ p = 3 ∨ p = 4 := by omega
  all_goals
    simp only [leave] at there
    split at there
    · cases there
    · cases there
      omega

/-- A router stands in the rectangle where its core does. -/
theorem inRect_coreNum (r : BoltRec) {x y : Nat} (hx : x < 512) (hy : y < 576) : inRect r (coreNum x y) ↔
    8 * r.sx0 ≤ x ∧ x < 8 * (r.sx0 + r.w) ∧ 8 * r.sy0 ≤ y ∧ y < 8 * (r.sy0 + r.h) := by
  have onX : coreX (coreNum x y) = x := by
    rw [coreX, coreNum]
    omega
  have onY : coreY (coreNum x y) = y := by
    rw [coreY, coreNum]
    omega
  rw [inRect, onX, onY, coreNum, Config.nCores]
  omega

theorem outward_iff (r : BoltRec) {x y p : Nat} (hx : x < 512) (hy : y < 576) (low : 1 ≤ p) (high : p ≤ 4) :
    outward r x y p = true ↔ match leave x y p with
      | .at_ (.router x' y' _) => ¬ inRect r (coreNum x' y')
      | _ => True := by
  rw [outward]
  split
  next x' y' e there =>
    obtain ⟨hx', hy'⟩ := leave_onArray hx hy low high there
    rw [inRect_coreNum r hx' hy']
    simp only [Bool.not_eq_true', Bool.eq_false_iff, Bool.and_eq_true, decide_eq_true_eq, ne_eq, and_assoc]
  next => simp

/-- The word that fences a bolt's router: its bolt, its member bit, its fences and its span side. -/
def fenceWord (b : Nat) (r : BoltRec) (c : Nat) : Nat := b + 8 + fenceBits r (coreX c) (coreY c) + (r.spanSide <<< 12)

/-- The word as the sum of its fields. -/
theorem fenceWord_fields (b : Nat) (r : BoltRec) (c : Nat) : ∃ f : Nat → Nat, (∀ p, f p = fenceBit r (coreX c) (coreY c) p) ∧
    (∀ p, f p ≤ 1) ∧ fenceWord b r c = b + 8 + 16 * f 1 + 32 * f 2 + 64 * f 3 + 128 * f 4 + 256 * f 5 + 512 * f 6 + 1024 * f 7 +
      2048 * f 8 + 4096 * r.spanSide := by
  refine ⟨fenceBit r (coreX c) (coreY c), fun _ => rfl, fenceBit_le _ _ _, ?_⟩
  rw [fenceWord, fenceBits_eq, Nat.shiftLeft_eq]
  omega

section words

variable {b : Nat} {r : BoltRec} (hb : b < 8) (c : Nat)

include hb

theorem fenceWord_lt (hs : r.spanSide < 4) : fenceWord b r c < 2 ^ 32 := by
  obtain ⟨f, -, le, e⟩ := fenceWord_fields b r c
  have := le 1; have := le 2; have := le 3; have := le 4; have := le 5; have := le 6; have := le 7; have := le 8
  omega

theorem fenceWord_bolt : bits (fenceWord b r c) 0 3 = b := by
  obtain ⟨f, -, -, e⟩ := fenceWord_fields b r c
  rw [bits, Nat.shiftRight_zero]
  omega

theorem fenceWord_member : bits (fenceWord b r c) 3 1 = 1 := by
  obtain ⟨f, -, -, e⟩ := fenceWord_fields b r c
  rw [bits, Nat.shiftRight_eq_div_pow]
  omega

theorem fenceWord_side (hs : r.spanSide < 4) : bits (fenceWord b r c) 12 2 = r.spanSide := by
  obtain ⟨f, -, le, e⟩ := fenceWord_fields b r c
  have := le 1; have := le 2; have := le 3; have := le 4; have := le 5; have := le 6; have := le 7; have := le 8
  rw [bits, Nat.shiftRight_eq_div_pow]
  omega

theorem fenceWord_fence {p : Nat} (low : 1 ≤ p) (high : p ≤ 4) :
    bitAt (fenceWord b r c) (3 + p) = true ↔ fenceBit r (coreX c) (coreY c) p = 1 := by
  obtain ⟨f, is, le, e⟩ := fenceWord_fields b r c
  have := le 1; have := le 2; have := le 3; have := le 4
  rw [bitAt, Nat.shiftRight_eq_div_pow, beq_iff_eq, ← is]
  obtain rfl | rfl | rfl | rfl : p = 1 ∨ p = 2 ∨ p = 3 ∨ p = 4 := by omega
  all_goals omega

end words

/-! ## BOLT_CREATE of a bolt in range (R228): the frame -/

/-- What may change as a bolt becomes EMPTY. -/
def OpenFrame (s t : State) : Prop :=
  t = { s with
    bolts := t.bolts, cores := t.cores, routers := t.routers, skeins := t.skeins, msix := t.msix
    span := { s.span with peer := t.span.peer, peerCopy := t.span.peerCopy } }

theorem OpenFrame.trans {s t u : State} (h : OpenFrame s t) (h' : OpenFrame t u) : OpenFrame s u := by
  rw [OpenFrame] at h h' ⊢
  rw [h', h]

theorem State.withMsix_openFrame (s : State) (m : List (Nat × Nat)) : OpenFrame s (s.withMsix m) := rfl

theorem State.setBolt_openFrame (s : State) (b : Nat) (r : BoltRec) : OpenFrame s (s.setBolt b r) := rfl

/-! ## Its skeins -/

/-- Only skeins change. -/
def SkeinsOnly (s t : State) : Prop := t = { s with skeins := t.skeins }

theorem SkeinsOnly.trans {s t u : State} (h : SkeinsOnly s t) (h' : SkeinsOnly t u) : SkeinsOnly s u := by
  rw [SkeinsOnly] at h h' ⊢
  rw [h', h]

theorem SkeinsOnly.openFrame {s t : State} (h : SkeinsOnly s t) : OpenFrame s t := by
  rw [SkeinsOnly] at h
  rw [OpenFrame, h]

theorem State.modSkein_skeinsOnly (s : State) (k : Nat) (f : SkeinRec → SkeinRec) : SkeinsOnly s (s.modSkein k f) := rfl

theorem SkeinsOnly.foldl {f : State → Nat → State} (step : ∀ s k, SkeinsOnly s (f s k)) (l : List Nat) (s : State) :
    SkeinsOnly s (l.foldl f s) :=
  List.foldlRecOn (motive := SkeinsOnly s) l f rfl fun t ht k _ => ht.trans (step t k)

/-- A unit as a table reads it is the default, or an entry. -/
theorem Tab.get_eq_or_mem {α : Type} (d : α) (t : List (Nat × α)) (k : Nat) : Tab.get d t k = d ∨ (k, Tab.get d t k) ∈ t := by
  induction t with
  | nil => exact .inl rfl
  | cons e r ih =>
    obtain ⟨k', v⟩ := e
    by_cases h : k' = k
    · rw [Tab.get, if_pos h, h]
      exact .inr List.mem_cons_self
    · rw [Tab.get, if_neg h]
      exact ih.imp_right (List.mem_cons_of_mem _)

/-- An entry after a write is the one written, or stood before. -/
theorem Tab.mem_put {α : Type} [DecidableEq α] (d : α) (t : List (Nat × α)) (k : Nat) (v : α) (e : Nat × α)
    (h : e ∈ Tab.put d t k v) : e = (k, v) ∨ e ∈ t := by
  rw [Tab.put] at h
  split at h
  · exact .inr (List.mem_filter.mp h).1
  · exact Tab.mem_insert t k v e h

/-- No skein waits to be turned on. -/
def NoneWaits (s : State) : Prop := ∀ e ∈ s.skeins, e.2.turnOnReq = none

theorem NoneWaits.skein {s : State} (h : NoneWaits s) (k : Nat) : (s.skein k).turnOnReq = none := by
  rcases Tab.get_eq_or_mem {} s.skeins k with reset | entry
  · rw [State.skein, reset]
  · exact h _ entry

theorem State.noteHeld_noneWaits {s : State} (h : NoneWaits s) : s.noteHeld = s := by
  have none_ : (s.skeins.filter fun e => e.2.turnOnReq.isSome) = [] :=
    List.filter_eq_nil_iff.mpr fun e he => by rw [h e he]; decide
  rw [State.noteHeld, none_, List.foldl_nil]

/-- What a request to turn a skein on does to it. -/
def askOn (now : Nat) (r : SkeinRec) : SkeinRec :=
  if r.state = 4 ∨ r.dead = true ∨ r.turnOnReq.isSome ∨ r.turnOnAt.isSome then r else { r with turnOnReq := some now }

/-- To ask for skeins that are on changes none. -/
theorem foldl_askOn (l : List Nat) (s : State) (on : ∀ k ∈ l, (s.skein k).state = 4) (waits : NoneWaits s) :
    let t := l.foldl (fun s k => s.modSkein k (askOn s.time)) s
    SkeinsOnly s t ∧ (∀ k, t.skein k = s.skein k) ∧ NoneWaits t := by
  refine List.foldlRecOn (motive := fun t => SkeinsOnly s t ∧ (∀ k, t.skein k = s.skein k) ∧ NoneWaits t) l _
    ⟨rfl, fun _ => rfl, waits⟩ fun t ⟨only, same, quiet⟩ k hk => ?_
  have stays : askOn t.time (t.skein k) = t.skein k := if_pos (.inl ((congrArg SkeinRec.state (same k)).trans (on k hk)))
  refine ⟨only.trans (State.modSkein_skeinsOnly _ _ _), fun j => ?_, fun e he => ?_⟩
  · by_cases h : j = k
    · rw [h, State.modSkein_skein_self, stays, same]
    · rw [State.modSkein_skein_ne _ _ _ _ h, same]
  · rcases Tab.mem_put _ _ _ _ e he with new | old
    · rw [new]
      exact (congrArg SkeinRec.turnOnReq stays).trans (quiet.skein k)
    · exact quiet e old

/-- A skein without allowance (R227). -/
def unbudgeted (r : SkeinRec) : SkeinRec :=
  { r with
    allowance := 0, allowanceInv := 0x3FF, burst := 0, burstInv := 0x3FF, allowCopy := 0, burstCopy := 0
    mismatchReported := false }

/-- The skeins of a rectangle are on, and have no allowance. -/
theorem wake_effect {s : State} {b : Nat} (on : onArray (s.bolt b)) (skeins : SkeinsOn s (s.bolt b)) :
    let t := (s.bolt b).skeins.foldl (fun s k => s.setBudget k 0 0) (s.wakeSkeins b)
    SkeinsOnly s t ∧ ((s.bolt b).skeins.all (s.wakeSkeins b).skeinAwake = true) ∧
      ∀ k, (hasSkein (s.bolt b) k → t.skein k = unbudgeted (s.skein k)) ∧ (¬ hasSkein (s.bolt b) k → t.skein k = s.skein k) := by
  have named := BoltRec.mem_skeins (s.bolt b) on.1
  obtain ⟨only, same, quiet⟩ := foldl_askOn (s.bolt b).skeins s (fun k hk => skeins.1 k ((named k).mp hk)) skeins.2
  have wake : s.wakeSkeins b = (s.bolt b).skeins.foldl (fun s k => s.modSkein k (askOn s.time)) s := State.noteHeld_noneWaits quiet
  rw [wake]
  generalize (s.bolt b).skeins.foldl (fun s k => s.modSkein k (askOn s.time)) s = u at only same ⊢
  have budgets : ∀ j, ((s.bolt b).skeins.foldl (fun s k => s.setBudget k 0 0) u).skein j =
      if j ∈ (s.bolt b).skeins then unbudgeted (u.skein j) else u.skein j :=
    foldl_units (get := State.skein) (P := fun _ => True) (fun s k _ => State.modSkein_skein_self s k unbudgeted)
      (fun s k _ j h => State.modSkein_skein_ne s k j unbudgeted h) (fun _ h => h) (fun _ => rfl) _ u fun _ _ => trivial
  refine ⟨only.trans (SkeinsOnly.foldl (fun s k => State.modSkein_skeinsOnly s k unbudgeted) _ u), ?_,
    fun k => ⟨fun h => ?_, fun h => ?_⟩⟩
  · refine List.all_eq_true.mpr fun k hk => ?_
    rw [State.skeinAwake, same, skeins.1 k ((named k).mp hk), decide_eq_true rfl, Bool.true_or]
  · rw [budgets, if_pos ((named k).mpr h), same]
  · rw [budgets, if_neg fun m => h ((named k).mp m), same]

/-! ## Its routers and cores -/

/-- Only routers and cores change. -/
def RoutersOnly (s t : State) : Prop := t = { s with cores := t.cores, routers := t.routers }

theorem RoutersOnly.trans {s t u : State} (h : RoutersOnly s t) (h' : RoutersOnly t u) : RoutersOnly s u := by
  rw [RoutersOnly] at h h' ⊢
  rw [h', h]

theorem RoutersOnly.openFrame {s t : State} (h : RoutersOnly s t) : OpenFrame s t := by
  rw [RoutersOnly] at h
  rw [OpenFrame, h]

theorem CoresOnly.routersOnly {s t : State} (h : CoresOnly s t) : RoutersOnly s t := by
  rw [CoresOnly] at h
  rw [RoutersOnly, h]

theorem State.setRouter_routersOnly (s : State) (c : Nat) (r : RouterRec) : RoutersOnly s (s.setRouter c r) := rfl

theorem State.modCore_coresOnly (s : State) (c : Nat) (f : CoreRec → CoreRec) : CoresOnly s (s.modCore c f) := rfl

theorem State.rtSet_routersOnly (s : State) (c i v : Nat) : RoutersOnly s (s.rtSet c i v) := by
  rw [State.rtSet, State.setRt]
  exact (State.setRouter_routersOnly s c _).trans (State.modCore_coresOnly _ c _).routersOnly

/-- The register that a core's router is given holds its value. -/
theorem State.rtSet_val (s : State) (c i v : Nat) : ((s.rtSet c i v).router c).val i = v % 2 ^ 32 := by
  rw [State.rtSet, State.setRt, State.modCore_unit_router, State.setRouter_router_self, RouterRec.val, RouterRec.word,
    Tab.get_put_self, wordVal_withInv]

theorem State.rtSet_router_ne (s : State) (c i v j : Nat) (h : j ≠ c) : (s.rtSet c i v).router j = s.router j := by
  rw [State.rtSet, State.setRt, State.modCore_unit_router, State.setRouter_router_ne _ _ _ _ h]

theorem State.rtSet_core_ne (s : State) (c i v j : Nat) (h : j ≠ c) : (s.rtSet c i v).core j = s.core j := by
  rw [State.rtSet, State.setRt, State.modCore_core_ne _ _ _ _ h, State.setRouter_unit_core]

/-- Each router of the bolt is fenced. -/
theorem raiseFences_effect {s : State} {b : Nat} (on : onArray (s.bolt b)) :
    RoutersOnly s (s.raiseFences b) ∧
      (∀ c, inRect (s.bolt b) c → ((s.raiseFences b).router c).val 0 = fenceWord b (s.bolt b) c % 2 ^ 32) ∧
      ∀ c, ¬ inRect (s.bolt b) c → (s.raiseFences b).core c = s.core c ∧ (s.raiseFences b).router c = s.router c := by
  have named := BoltRec.mem_sites (s.bolt b) on
  have eq : s.raiseFences b = (s.bolt b).sites.foldl (fun t c => t.rtSet c 0 (fenceWord b (s.bolt b) c)) s := rfl
  rw [eq]
  refine ⟨List.foldlRecOn (motive := RoutersOnly s) _ _ rfl fun t ht c _ => ht.trans (State.rtSet_routersOnly t c 0 _),
    fun c hc => ?_, fun c hc => ⟨?_, ?_⟩⟩
  · exact foldl_establishes (Q := fun c t => (t.router c).val 0 = fenceWord b (s.bolt b) c % 2 ^ 32)
      (fun t k => State.rtSet_val t k 0 _) (fun t k j h holds => by rw [State.rtSet_router_ne _ _ _ _ _ h, holds]) _ _ _
      (.inl ((named c).mpr hc))
  · exact foldl_unnamed (get := State.core) (fun t k j h => State.rtSet_core_ne t k 0 _ j h) _ _ _ fun m => hc ((named c).mp m)
  · exact foldl_unnamed (get := State.router) (fun t k j h => State.rtSet_router_ne t k 0 _ j h) _ _ _ fun m =>
      hc ((named c).mp m)

/-! ## The bolt opens -/

/-- Only what the routers know of the peers' bolts changes. -/
def PeersOnly (s t : State) : Prop := t = { s with span := { s.span with peer := t.span.peer, peerCopy := t.span.peerCopy } }

theorem PeersOnly.trans {s t u : State} (h : PeersOnly s t) (h' : PeersOnly t u) : PeersOnly s u := by
  rw [PeersOnly] at h h' ⊢
  rw [h', h]

theorem PeersOnly.core {s t : State} (h : PeersOnly s t) (c : Nat) : t.core c = s.core c := by rw [h]; rfl

/-- The peer words and their copies become these. -/
def State.withPeers (s : State) (peer copy : Tab Word) : State :=
  { s with span := { s.span with peer := peer, peerCopy := copy } }

theorem State.withPeers_peersOnly (s : State) (peer copy : Tab Word) : PeersOnly s (s.withPeers peer copy) := rfl

/-- Field `f`'s peer word without bolt `b`. -/
def State.peerWithout (s : State) (b f : Nat) : Nat :=
  packFields 4 8 fun j => if bits (wordVal (Tab.get rtReset s.span.peerCopy f)) (4 * j) 4 = 8 + b then 0
    else bits (wordVal (Tab.get rtReset s.span.peerCopy f)) (4 * j) 4

/-- Bolt `b` is taken out of one peer word. -/
def State.clearPeer (b : Nat) (s : State) (f : Nat) : State :=
  if s.peerWithout b f = wordVal (Tab.get rtReset s.span.peerCopy f) then s
  else s.withPeers (Tab.put rtReset s.span.peer f (withInv (s.peerWithout b f)))
    (Tab.put rtReset s.span.peerCopy f (withInv (s.peerWithout b f)))

theorem State.clearPeers_eq (s : State) (b : Nat) : s.clearPeers b = (List.range 64).foldl (State.clearPeer b) s := rfl

theorem State.clearPeer_peersOnly (s : State) (b f : Nat) : PeersOnly s (s.clearPeer b f) := by
  rw [State.clearPeer]
  split
  · rfl
  · exact State.withPeers_peersOnly s _ _

theorem State.clearPeers_peersOnly (s : State) (b : Nat) : PeersOnly s (s.clearPeers b) := by
  rw [State.clearPeers_eq]
  exact List.foldlRecOn (motive := PeersOnly s) _ _ rfl fun t ht f _ => ht.trans (State.clearPeer_peersOnly t b f)

/-- The cores of a list discard no more. -/
def State.openSites (s : State) (l : List Nat) : State := l.foldl (fun s c => s.modCore c fun r => { r with discard := false }) s

theorem State.openCores_eq (s : State) (b : Nat) : s.openCores b = (s.openSites (s.bolt b).sites).clearPeers b := rfl

theorem State.openSites_coresOnly (s : State) (l : List Nat) : CoresOnly s (s.openSites l) :=
  List.foldlRecOn (motive := CoresOnly s) l _ rfl fun t ht c _ => ht.trans (State.modCore_coresOnly t c _)

theorem State.openSites_discard (s : State) {l : List Nat} {c : Nat} (h : c ∈ l) : ((s.openSites l).core c).discard = false :=
  foldl_establishes (Q := fun c t => (t.core c).discard = false) (fun t k => by rw [State.modCore_core_self])
    (fun t k j h holds => by rw [State.modCore_core_ne _ _ _ _ h, holds]) l s c (.inl h)

theorem State.openSites_core (s : State) {l : List Nat} {c : Nat} (h : c ∉ l) : (s.openSites l).core c = s.core c :=
  foldl_unnamed (get := State.core) (fun t k j h => State.modCore_core_ne t k j _ h) l s c h

/-- The cores of a bolt that opens discard no more. -/
theorem openCores_effect {s : State} {b : Nat} (on : onArray (s.bolt b)) :
    (∃ u, CoresOnly s u ∧ PeersOnly u (s.openCores b)) ∧
      (∀ c, inRect (s.bolt b) c → ((s.openCores b).core c).discard = false) ∧
      ∀ c, ¬ inRect (s.bolt b) c → (s.openCores b).core c = s.core c := by
  have named := BoltRec.mem_sites (s.bolt b) on
  have peers := State.clearPeers_peersOnly (s.openSites (s.bolt b).sites) b
  rw [State.openCores_eq]
  refine ⟨⟨_, State.openSites_coresOnly s _, peers⟩, fun c hc => ?_, fun c hc => ?_⟩
  · rw [peers.core]
    exact State.openSites_discard s ((named c).mpr hc)
  · rw [peers.core]
    exact State.openSites_core s fun m => hc ((named c).mp m)

/-! ## A create goes on -/

theorem State.createAdvance_scrubs {s : State} {b : Nat} {f : FinOf} (op : (s.bolt b).ops = [.create f]) {c : Nat}
    (site : c ∈ (s.bolt b).sites) (scrubs : (s.core c).st = .scrubbing) : s.createAdvance b = s := by
  have waits : (s.bolt b).ops.findSome? BoltOp.createFin = some f := by
    rw [op]
    rfl
  rw [State.createAdvance, waits]
  exact if_pos (List.any_eq_true.mpr ⟨c, site, decide_eq_true scrubs⟩)

/-- The state in which the bolt's skeins have no allowance. -/
def State.woken (s : State) (b : Nat) : State := (s.bolt b).skeins.foldl (fun s k => s.setBudget k 0 0) (s.wakeSkeins b)

/-- The state in which the bolt's routers are fenced and its operation has ended. -/
def State.fencedBolt (s : State) (b : Nat) (r : BoltRec) : State := (s.raiseFences b).setBolt b { r with ops := [] }

theorem State.createAdvance_opens {s : State} {b : Nat} {f : FinOf} (op : (s.bolt b).ops = [.create f])
    (settled : ∀ c, (s.core c).st ≠ .scrubbing) (awake : (s.bolt b).skeins.all (s.wakeSkeins b).skeinAwake = true) :
    s.createAdvance b = (((s.woken b).fencedBolt b (s.bolt b)).enterEmpty b).finishOf f ssOk [1] := by
  have goes : (s.bolt b).ops.findSome? BoltOp.createFin = some f := by
    rw [op]
    rfl
  have ends : ((s.bolt b).ops.filter fun o => !isCreate o) = [] := by
    rw [op]
    rfl
  have calm : ((s.bolt b).sites.any fun c => decide ((s.core c).st = .scrubbing)) = false :=
    List.any_eq_false.mpr fun c _ => by
      rw [decide_eq_true_eq]
      exact settled c
  rw [State.createAdvance, goes]
  simp only [calm, awake, ends, Bool.false_eq_true, if_true, if_false]
  rfl

/-- The bolt whose creation has ended (Table 9.2). -/
def emptyBolt (r : BoltRec) : BoltRec := { r with ops := [], st := .empty }

/-- A bolt of `s` that has become EMPTY in `t`. -/
structure Opened (s t : State) (b : Nat) (r : BoltRec) : Prop where
  bolt : boltIs s t b (emptyBolt r)
  discard : ∀ c, inRect r c → (t.core c).discard = false
  fences : ∀ c, inRect r c → ((t.router c).val 0) = fenceWord b r c % 2 ^ 32
  outside : ∀ c, ¬ inRect r c → t.core c = s.core c ∧ t.router c = s.router c
  skeins : ∀ k, (hasSkein r k → t.skein k = unbudgeted (s.skein k)) ∧ (¬ hasSkein r k → t.skein k = s.skein k)
  told : t.msix = toldAll s r.funcMask
  frame : OpenFrame s t

theorem SkeinsOnly.bolt {s t : State} (h : SkeinsOnly s t) (k : Nat) : t.bolt k = s.bolt k := by rw [h]; rfl

theorem SkeinsOnly.core {s t : State} (h : SkeinsOnly s t) (c : Nat) : t.core c = s.core c := by rw [h]; rfl

theorem SkeinsOnly.router {s t : State} (h : SkeinsOnly s t) (c : Nat) : t.router c = s.router c := by rw [h]; rfl

theorem SkeinsOnly.msix {s t : State} (h : SkeinsOnly s t) : t.msix = s.msix := by rw [h]

theorem RoutersOnly.bolt {s t : State} (h : RoutersOnly s t) (k : Nat) : t.bolt k = s.bolt k := by rw [h]; rfl

theorem RoutersOnly.skein {s t : State} (h : RoutersOnly s t) (k : Nat) : t.skein k = s.skein k := by rw [h]; rfl

theorem RoutersOnly.msix {s t : State} (h : RoutersOnly s t) : t.msix = s.msix := by rw [h]

theorem OpenFrame.func {s t : State} (h : OpenFrame s t) (f : Nat) : t.func f = s.func f := by rw [h]; rfl

/-- Only cores, and what is known of the peers' bolts, change. -/
def OpenedOnly (s t : State) : Prop :=
  t = { s with cores := t.cores, span := { s.span with peer := t.span.peer, peerCopy := t.span.peerCopy } }

theorem CoresOnly.openedOnly {s u t : State} (h : CoresOnly s u) (h' : PeersOnly u t) : OpenedOnly s t := by
  rw [CoresOnly] at h
  rw [PeersOnly] at h'
  rw [OpenedOnly, h', h]

theorem OpenedOnly.openFrame {s t : State} (h : OpenedOnly s t) : OpenFrame s t := by
  rw [OpenedOnly] at h
  rw [OpenFrame, h]

theorem OpenedOnly.bolt {s t : State} (h : OpenedOnly s t) (k : Nat) : t.bolt k = s.bolt k := by rw [h]; rfl

theorem OpenedOnly.router {s t : State} (h : OpenedOnly s t) (c : Nat) : t.router c = s.router c := by rw [h]; rfl

theorem OpenedOnly.skein {s t : State} (h : OpenedOnly s t) (k : Nat) : t.skein k = s.skein k := by rw [h]; rfl

theorem OpenedOnly.msix {s t : State} (h : OpenedOnly s t) : t.msix = s.msix := by rw [h]

@[simp] theorem State.withMsix_router (s : State) (m : List (Nat × Nat)) (c : Nat) : (s.withMsix m).router c = s.router c := rfl

@[simp] theorem State.withMsix_skein (s : State) (m : List (Nat × Nat)) (k : Nat) : (s.withMsix m).skein k = s.skein k := rfl

/-- What the last steps of a create do, on a state `u` in which the skeins are ready. -/
theorem fencedBolt_opens {u : State} {b : Nat} (on : onArray (u.bolt b)) (absent : (u.bolt b).st = .none) (hear : FuncsHear u) :
    let t := (u.fencedBolt b (u.bolt b)).enterEmpty b
    boltIs u t b (emptyBolt (u.bolt b)) ∧ (∀ c, inRect (u.bolt b) c → (t.core c).discard = false) ∧
      (∀ c, inRect (u.bolt b) c → ((t.router c).val 0) = fenceWord b (u.bolt b) c % 2 ^ 32) ∧
      (∀ c, ¬ inRect (u.bolt b) c → t.core c = u.core c ∧ t.router c = u.router c) ∧ (∀ k, t.skein k = u.skein k) ∧
      t.msix = toldAll u (u.bolt b).funcMask ∧ OpenFrame u t := by
  obtain ⟨fenced, words, outside⟩ := raiseFences_effect on
  have bolt : (u.fencedBolt b (u.bolt b)).bolt b = { u.bolt b with ops := [] } := State.setBolt_bolt_self _ _ _
  have rect : onArray ((u.fencedBolt b (u.bolt b)).bolt b) := by
    rw [bolt]
    exact on
  obtain ⟨⟨w, cores, peers⟩, opened, kept⟩ := openCores_effect rect
  have only := cores.openedOnly peers
  rw [bolt] at opened kept
  have hear' : FuncsHear ((u.fencedBolt b (u.bolt b)).openCores b) := fun f => by
    rw [only.openFrame.func, State.fencedBolt, State.setBolt_unit_func, fenced.openFrame.func]
    exact hear f
  have bolt' : ((u.fencedBolt b (u.bolt b)).openCores b).bolt b = { u.bolt b with ops := [] } := (only.bolt b).trans bolt
  have told := State.setBoltSt_told ((u.fencedBolt b (u.bolt b)).openCores b) b .empty (by
    rw [bolt']
    exact fun h => absurd (absent.symm.trans h) (by decide)) hear'
  have msix : ((u.fencedBolt b (u.bolt b)).openCores b).msix = u.msix := by
    rw [only.msix, State.fencedBolt, State.setBolt_msix, fenced.msix]
  rw [bolt', toldAll, msix] at told
  intro t
  have is : t = _ := told
  clear_value t
  subst is
  generalize (u.fencedBolt b (u.bolt b)).openCores b = x at only opened kept
  refine ⟨⟨?_, fun k hk => ?_⟩, fun c hc => ?_, fun c hc => ?_, fun c hc => ⟨?_, ?_⟩, fun k => ?_, ?_, ?_⟩
  · rw [State.withMsix_bolt, State.setBolt_bolt_self, emptyBolt]
  · rw [State.withMsix_bolt, State.setBolt_bolt_ne _ _ _ _ hk, only.bolt, State.fencedBolt, State.setBolt_bolt_ne _ _ _ _ hk,
      fenced.bolt]
  · rw [State.withMsix_core, State.setBolt_unit_core, opened c hc]
  · rw [State.withMsix_router, State.setBolt_unit_router, only.router, State.fencedBolt, State.setBolt_unit_router, words c hc]
  · rw [State.withMsix_core, State.setBolt_unit_core, kept c hc, State.fencedBolt, State.setBolt_unit_core, (outside c hc).1]
  · rw [State.withMsix_router, State.setBolt_unit_router, only.router, State.fencedBolt, State.setBolt_unit_router,
      (outside c hc).2]
  · rw [State.withMsix_skein, State.setBolt_unit_skein, only.skein, State.fencedBolt, State.setBolt_unit_skein, fenced.skein]
  · rw [State.withMsix_msix, toldAll]
  · exact (((fenced.openFrame.trans (State.setBolt_openFrame _ b _)).trans only.openFrame).trans
      (State.setBolt_openFrame x b _)).trans (State.withMsix_openFrame _ _)

/-- A create whose rectangle is settled makes the bolt EMPTY and completes. -/
theorem create_opened {s : State} {b : Nat} {f : FinOf} (op : (s.bolt b).ops = [.create f]) (absent : (s.bolt b).st = .none)
    (on : onArray (s.bolt b)) (settled : ∀ c, (s.core c).st ≠ .scrubbing) (skeins : SkeinsOn s (s.bolt b)) (hear : FuncsHear s) :
    ∃ t, s.createAdvance b = t.finishOf f ssOk [1] ∧ Opened s t b (s.bolt b) := by
  obtain ⟨only, awake, budgets⟩ := wake_effect on skeins
  refine ⟨_, State.createAdvance_opens op settled awake, ?_⟩
  have woken : SkeinsOnly s (s.woken b) := only
  have budgets' : ∀ k, (hasSkein (s.bolt b) k → (s.woken b).skein k = unbudgeted (s.skein k)) ∧
      (¬ hasSkein (s.bolt b) k → (s.woken b).skein k = s.skein k) := budgets
  generalize s.woken b = u at woken budgets'
  have bolt := woken.bolt b
  obtain ⟨⟨own, others⟩, discard, fences, outside, same, told, frame⟩ :=
    fencedBolt_opens (u := u) (b := b) (by rwa [bolt]) (by rwa [bolt]) fun f => by
      rw [woken.openFrame.func]
      exact hear f
  rw [bolt] at own others discard fences outside same told frame
  refine ⟨⟨own, fun k hk => (others k hk).trans (woken.bolt k)⟩, discard, fences, fun c hc => ?_,
    fun k => ⟨fun h => ?_, fun h => ?_⟩, ?_, woken.openFrame.trans frame⟩
  · exact ⟨(outside c hc).1.trans (woken.core c), (outside c hc).2.trans (woken.router c)⟩
  · exact (same k).trans ((budgets' k).1 h)
  · exact (same k).trans ((budgets' k).2 h)
  · rw [told, toldAll, woken.msix, toldAll]

/-! ## BOLT_CREATE of a bolt in range, as it is accepted -/

/-- What a create may change. -/
def CreateFrame (s t : State) : Prop :=
  t = { s with
    bolts := t.bolts, serve := t.serve, ctPages := t.ctPages, qps := t.qps, cores := t.cores, routers := t.routers
    skeins := t.skeins, msix := t.msix, hostMem := t.hostMem
    span := { s.span with peer := t.span.peer, peerCopy := t.span.peerCopy } }

theorem CreateFrame.trans {s t u : State} (h : CreateFrame s t) (h' : CreateFrame t u) : CreateFrame s u := by
  rw [CreateFrame] at h h' ⊢
  rw [h', h]

theorem HostFrame.createFrame {s t : State} (h : HostFrame s t) : CreateFrame s t := by
  rw [HostFrame] at h
  rw [CreateFrame, h]

theorem OpenFrame.createFrame {s t : State} (h : OpenFrame s t) : CreateFrame s t := by
  rw [OpenFrame] at h
  rw [CreateFrame, h]

/-- The bolt that a descriptor describes, as it is being made. -/
theorem boltOf_eq (d : BitVec 1024) (f : FinOf) : boltOf d f = { createdBolt d with ops := [.create f] } := by
  have side : bits (dfield d 30 1) 0 2 = dfield d 30 1 % 4 := by
    simp only [bits, Nat.shiftRight_zero, Nat.reducePow]
  have blocks : quotaBlocks (dfield d 28 2) = (dfield d 28 2 * 1000000000 + 32 * 4194304 - 1) / (32 * 4194304) := rfl
  rw [boltOf, side, blocks]
  rfl

/-- An engine without bolts retains no rows. -/
theorem State.inheritRetained_noBolts {s : State} (none_ : s.bolts = []) (b : Nat) (d : BitVec 1024) (f : FinOf) :
    s.inheritRetained b (boltOf d f) = (s, boltOf d f) := by
  have reset : s.bolt b = {} := by
    rw [State.bolt, none_]
    rfl
  have leaves : s.leaveRows b (boltOf d f) = (s, []) := by
    rw [State.leaveRows, reset]
    exact if_neg fun h => absurd h.1 (by decide)
  have recs : s.keptRecs = [] := by rw [State.keptRecs, none_, List.filter_nil, List.map_nil]
  rw [State.inheritRetained, leaves]
  simp only [recs, List.foldl_nil, List.find?_nil]
  rfl

/-- A bolt that is being made, with its serving record and its counters. -/
def State.withNewBolt (s : State) (b : Nat) (r : BoltRec) : State := ((s.setBolt b r).setServeOf b {}).setCtPage b {}

theorem State.withNewBolt_bolt (s : State) (b : Nat) (r : BoltRec) : boltIs s (s.withNewBolt b r) b r := by
  refine ⟨?_, fun k h => ?_⟩
  · rw [State.withNewBolt, State.setCtPage_unit_bolt, State.setServeOf_unit_bolt, State.setBolt_bolt_self]
  · rw [State.withNewBolt, State.setCtPage_unit_bolt, State.setServeOf_unit_bolt, State.setBolt_bolt_ne _ _ _ _ h]

theorem State.withNewBolt_serveOf_self (s : State) (b : Nat) (r : BoltRec) : (s.withNewBolt b r).serveOf b = {} := by
  rw [State.withNewBolt, State.setCtPage_unit_serveOf, State.setServeOf_serveOf_self]

theorem State.withNewBolt_serveOf_ne (s : State) (b k : Nat) (r : BoltRec) (h : k ≠ b) :
    (s.withNewBolt b r).serveOf k = s.serveOf k := by
  rw [State.withNewBolt, State.setCtPage_unit_serveOf, State.setServeOf_serveOf_ne _ _ _ _ h, State.setBolt_unit_serveOf]

theorem State.withNewBolt_ctPage_self (s : State) (b : Nat) (r : BoltRec) : (s.withNewBolt b r).ctPage b = {} :=
  State.setCtPage_ctPage_self _ b _

theorem State.withNewBolt_ctPage_ne (s : State) (b k : Nat) (r : BoltRec) (h : k ≠ b) :
    (s.withNewBolt b r).ctPage k = s.ctPage k := by
  rw [State.withNewBolt, State.setCtPage_ctPage_ne _ _ _ _ h, State.setServeOf_unit_ctPage, State.setBolt_unit_ctPage]

/-- Only bolts, serving records and counters change. -/
def NewBoltOnly (s t : State) : Prop := t = { s with bolts := t.bolts, serve := t.serve, ctPages := t.ctPages }

theorem State.withNewBolt_only (s : State) (b : Nat) (r : BoltRec) : NewBoltOnly s (s.withNewBolt b r) := rfl

theorem NewBoltOnly.createFrame {s t : State} (h : NewBoltOnly s t) : CreateFrame s t := by
  rw [NewBoltOnly] at h
  rw [CreateFrame, h]

theorem NewBoltOnly.core {s t : State} (h : NewBoltOnly s t) (c : Nat) : t.core c = s.core c := by rw [h]; rfl

theorem NewBoltOnly.router {s t : State} (h : NewBoltOnly s t) (c : Nat) : t.router c = s.router c := by rw [h]; rfl

theorem NewBoltOnly.skein {s t : State} (h : NewBoltOnly s t) (k : Nat) : t.skein k = s.skein k := by rw [h]; rfl

theorem NewBoltOnly.qp {s t : State} (h : NewBoltOnly s t) (k : Nat) : t.qp k = s.qp k := by rw [h]; rfl

theorem NewBoltOnly.func {s t : State} (h : NewBoltOnly s t) (f : Nat) : t.func f = s.func f := by rw [h]; rfl

theorem NewBoltOnly.msix {s t : State} (h : NewBoltOnly s t) : t.msix = s.msix := by rw [h]

theorem NewBoltOnly.skeins {s t : State} (h : NewBoltOnly s t) : t.skeins = s.skeins := by rw [h]

theorem NewBoltOnly.hostMem {s t : State} (h : NewBoltOnly s t) : t.hostMem = s.hostMem := by rw [h]

theorem NewBoltOnly.time {s t : State} (h : NewBoltOnly s t) : t.time = s.time := by rw [h]

theorem OpenFrame.qp {s t : State} (h : OpenFrame s t) (k : Nat) : t.qp k = s.qp k := by rw [h]; rfl

theorem OpenFrame.serveOf {s t : State} (h : OpenFrame s t) (b : Nat) : t.serveOf b = s.serveOf b := by rw [h]; rfl

theorem OpenFrame.hostMem {s t : State} (h : OpenFrame s t) : t.hostMem = s.hostMem := by rw [h]

theorem OpenFrame.time {s t : State} (h : OpenFrame s t) : t.time = s.time := by rw [h]

theorem HostFrame.bolt {s t : State} (h : HostFrame s t) (b : Nat) : t.bolt b = s.bolt b := by rw [h]; rfl

theorem HostFrame.serveOf {s t : State} (h : HostFrame s t) (b : Nat) : t.serveOf b = s.serveOf b := by rw [h]; rfl

theorem HostFrame.core {s t : State} (h : HostFrame s t) (c : Nat) : t.core c = s.core c := by rw [h]; rfl

theorem HostFrame.router {s t : State} (h : HostFrame s t) (c : Nat) : t.router c = s.router c := by rw [h]; rfl

theorem HostFrame.skein {s t : State} (h : HostFrame s t) (k : Nat) : t.skein k = s.skein k := by rw [h]; rfl

theorem HostFrame.msix {s t : State} (h : HostFrame s t) : t.msix = s.msix := by rw [h]

/-- The bolt that the descriptor makes, with its operation. -/
def pendingBolt (s : State) (d : BitVec 1024) : BoltRec := { createdBolt d with ops := [.create (finOfDesc s 0 d)] }

theorem accOf_fin (s : State) (q : Nat) (d : BitVec 1024) : (accOf s q d).fin = finOfDesc s q d := rfl

section creates

variable {s : State} {d : BitVec 1024} (h : Ready s 0 d) (ok : CreateOk s d)

include h ok

/-- A create in range is taken. -/
theorem exec_boltCreate_ok : exec (.boltCreate 0 d) s =
    .next (((s.accepting 0).withNewBolt (dfield d 2 1) (pendingBolt s d)).createAdvance (dfield d 2 1)) := by
  have takes : s.createOk (dfield d 2 1) d = true := State.createOk_of_ok ok
  have taken : (s.accepting 0).createOk (dfield d 2 1) d = true := takes
  have inherits := State.inheritRetained_noBolts (s := s.accepting 0) ok.noBolts (dfield d 2 1) d (accOf s 0 d).fin
  rw [exec_boltCreate h ok.header.1, accOf_admin_zero]
  simp only [taken, if_true, inherits]
  rw [boltOf_eq, accOf_fin, State.withNewBolt, pendingBolt]

omit h in
theorem createdBolt_onArray : onArray (createdBolt d) := ⟨ok.wide.2, ok.tall.2⟩

/-- The create waits for the cores of its rectangle that scrub (R228). -/
theorem create_waits {c : Nat} (site : inRect (createdBolt d) c) (scrubs : (s.core c).st = .scrubbing) :
    ∃ t, exec (.boltCreate 0 d) s = .next t ∧ boltIs s t (dfield d 2 1) (pendingBolt s d) ∧
      t.serveOf (dfield d 2 1) = {} ∧ (∀ k, k ≠ dfield d 2 1 → t.serveOf k = s.serveOf k) ∧
      t.ctPage (dfield d 2 1) = {} ∧ (∀ k, k ≠ dfield d 2 1 → t.ctPage k = s.ctPage k) ∧
      t.qp 0 = acceptedQp (s.qp 0) ∧ (∀ k, k ≠ 0 → t.qp k = s.qp k) ∧
      t = { s with bolts := t.bolts, serve := t.serve, ctPages := t.ctPages, qps := t.qps } := by
  have run := exec_boltCreate_ok h ok
  obtain ⟨own, others⟩ := State.withNewBolt_bolt (s.accepting 0) (dfield d 2 1) (pendingBolt s d)
  have only := State.withNewBolt_only (s.accepting 0) (dfield d 2 1) (pendingBolt s d)
  have named : c ∈ (pendingBolt s d).sites := (BoltRec.mem_sites _ (createdBolt_onArray ok) c).mpr site
  have waits := (congrArg CoreRec.st (only.core c)).trans scrubs
  rw [State.createAdvance_scrubs (congrArg BoltRec.ops own) (by rwa [own]) waits] at run
  refine ⟨_, run, ⟨own, others⟩, State.withNewBolt_serveOf_self _ _ _, fun k hk => State.withNewBolt_serveOf_ne _ _ _ _ hk,
    State.withNewBolt_ctPage_self _ _ _, fun k hk => State.withNewBolt_ctPage_ne _ _ _ _ hk, ?_, fun k hk => ?_, ?_⟩
  · exact (only.qp 0).trans (State.setQp_qp_self _ _ _)
  · exact (only.qp k).trans (State.setQp_qp_ne _ _ _ _ hk)
  · generalize (s.accepting 0).withNewBolt (dfield d 2 1) (pendingBolt s d) = t at only
    rw [NewBoltOnly, State.accepting, State.setQp] at only
    rw [only]

end creates

/-- The entry of a descriptor's completion (Table 10.8). -/
theorem entryWritten_cqe (s : State) (q : Nat) (d : BitVec 1024) (status : Nat) (result : List Nat) (mem : List Host.Cell) :
    entryWritten (s.qp q) q ((accOf s q d).cqe status result) mem =
      writeBytes mem (ringBase (s.qp q).cq + 64 * (s.qp q).cqTail) (entryOf (s.qp q) q d (dHandle d) status result) := rfl

/-- The final of a descriptor that waited is the completion of its acceptance. -/
theorem State.finishOf_desc (s u : State) (q : Nat) (d : BitVec 1024) (status : Nat) (result : List Nat) :
    u.finishOf (finOfDesc s q d) status result = u.complete q ((accOf s q d).cqe status result) := rfl

theorem createdBolt_spanSide_lt (d : BitVec 1024) : (createdBolt d).spanSide < 4 := Nat.mod_lt _ (by decide)

section creates

variable {s : State} {d : BitVec 1024} (h : Ready s 0 d) (ok : CreateOk s d)

include h

/-- On the admin queue a descriptor names one of eight bolts (Table 10.4). -/
theorem admin_bolt_lt : dfield d 2 1 < 8 := by
  have header := h.header
  simp only [headerOk, Bool.and_eq_true, if_true, decide_eq_true_eq] at header
  exact header.1.1.2

include ok

/-- The create of a rectangle that is settled makes its bolt EMPTY, and completes (R228). -/
theorem create_completes (settled : ∀ c, (s.core c).st ≠ .scrubbing) (skeins : SkeinsOn s (createdBolt d)) (hear : FuncsHear s) :
    ∃ u t, exec (.boltCreate 0 d) s = .next t ∧
      Opened ((s.accepting 0).withNewBolt (dfield d 2 1) (pendingBolt s d)) u (dfield d 2 1) (pendingBolt s d) ∧
      PairWritten u t 0 (answeredQp (s.qp 0) s.time) (writeBytes s.hostMem (ringBase (s.qp 0).cq + 64 * (s.qp 0).cqTail)
        (entryOf (s.qp 0) 0 d 0 0 [1])) := by
  have run := exec_boltCreate_ok h ok
  have bolt := (State.withNewBolt_bolt (s.accepting 0) (dfield d 2 1) (pendingBolt s d)).1
  have only := State.withNewBolt_only (s.accepting 0) (dfield d 2 1) (pendingBolt s d)
  generalize (s.accepting 0).withNewBolt (dfield d 2 1) (pendingBolt s d) = x at run bolt only ⊢
  have on : SkeinsOn x (x.bolt (dfield d 2 1)) := by
    rw [bolt]
    refine ⟨fun k hk => (congrArg SkeinRec.state (only.skein k)).trans (skeins.1 k hk), ?_⟩
    rw [only.skeins]
    exact skeins.2
  obtain ⟨u, advance, opened⟩ := create_opened (congrArg BoltRec.ops bolt) (congrArg BoltRec.st bolt)
    (by rw [bolt]; exact createdBolt_onArray ok) (fun c => by rw [only.core]; exact settled c) on
    fun f => by rw [only.func]; exact hear f
  rw [bolt] at opened
  have fin : Finishes s u 0 d ((accOf s 0 d).cqe ssOk [1]) :=
    ⟨h, (opened.frame.qp 0).trans ((only.qp 0).trans (State.setQp_qp_self _ _ _)), by
      rw [opened.frame.func, only.func]
      exact h.writable, rfl, rfl⟩
  have written := State.complete_finishes fin
  have time : u.time = s.time := opened.frame.time.trans only.time
  have host : u.hostMem = s.hostMem := opened.frame.hostMem.trans only.hostMem
  rw [time, host, entryWritten_cqe, ok.header.2.1] at written
  rw [advance, State.finishOf_desc] at run
  exact ⟨u, _, run, opened, written⟩

/-- The create of a rectangle that is settled, as the statement has it. -/
theorem create_opens (settled : ∀ c, (s.core c).st ≠ .scrubbing) (skeins : SkeinsOn s (createdBolt d)) (hear : FuncsHear s) :
    ∃ t, exec (.boltCreate 0 d) s = .next t ∧ boltIs s t (dfield d 2 1) { createdBolt d with st := .empty } ∧
      t.serveOf (dfield d 2 1) = {} ∧
      (∀ c, inRect (createdBolt d) c →
        (t.core c).discard = false ∧ bits ((t.router c).val 0) 0 3 = dfield d 2 1 ∧ bits ((t.router c).val 0) 3 1 = 1 ∧
        bits ((t.router c).val 0) 12 2 = (createdBolt d).spanSide ∧ ∀ p, 1 ≤ p → p ≤ 4 →
          ((t.router c).fenced p = true ↔ outward (createdBolt d) (coreX c) (coreY c) p = true)) ∧
      (∀ c, ¬ inRect (createdBolt d) c → t.core c = s.core c ∧ t.router c = s.router c) ∧
      (∀ k, (hasSkein (createdBolt d) k → t.skein k = unbudgeted (s.skein k)) ∧
        (¬ hasSkein (createdBolt d) k → t.skein k = s.skein k)) ∧
      t.msix = toldAll s (createdBolt d).funcMask ∧ t.qp 0 = answeredQp (s.qp 0) s.time ∧
      t.hostMem = writeBytes s.hostMem (ringBase (s.qp 0).cq + 64 * (s.qp 0).cqTail) (entryOf (s.qp 0) 0 d 0 0 [1]) ∧
      CreateFrame s t := by
  obtain ⟨u, t, run, opened, written⟩ := create_completes h ok settled skeins hear
  have others := (State.withNewBolt_bolt (s.accepting 0) (dfield d 2 1) (pendingBolt s d)).2
  have only := State.withNewBolt_only (s.accepting 0) (dfield d 2 1) (pendingBolt s d)
  have serve := State.withNewBolt_serveOf_self (s.accepting 0) (dfield d 2 1) (pendingBolt s d)
  generalize (s.accepting 0).withNewBolt (dfield d 2 1) (pendingBolt s d) = x at opened others only serve
  have host := written.frame
  have small := admin_bolt_lt h
  have side : (pendingBolt s d).spanSide < 4 := createdBolt_spanSide_lt d
  have word : ∀ c, inRect (createdBolt d) c → (t.router c).val 0 = fenceWord (dfield d 2 1) (pendingBolt s d) c := fun c hc => by
    rw [host.router, opened.fences c hc, Nat.mod_eq_of_lt (fenceWord_lt small c side)]
  refine ⟨t, run, ⟨?_, fun k hk => ?_⟩, ?_, fun c hc => ⟨?_, ?_, ?_, ?_, fun p low high => ?_⟩, fun c hc => ⟨?_, ?_⟩,
    fun k => ⟨fun hk => ?_, fun hk => ?_⟩, ?_, written.own, written.host, ?_⟩
  · exact (host.bolt _).trans opened.bolt.1
  · exact (host.bolt k).trans ((opened.bolt.2 k hk).trans (others k hk))
  · exact (host.serveOf _).trans ((opened.frame.serveOf _).trans serve)
  · rw [host.core, opened.discard c hc]
  · rw [word c hc, fenceWord_bolt small]
  · rw [word c hc, fenceWord_member small]
  · rw [word c hc, fenceWord_side small c side]
    rfl
  · rw [RouterRec.fenced, word c hc, decide_eq_true (Nat.one_le_iff_ne_zero.mp low), Bool.true_and,
      fenceWord_fence small c low high, fenceBit_eq_one _ _ _ _ high]
    rfl
  · exact (host.core c).trans ((opened.outside c hc).1.trans (only.core c))
  · exact (host.router c).trans ((opened.outside c hc).2.trans (only.router c))
  · rw [host.skein, (opened.skeins k).1 hk, only.skein]
    rfl
  · exact (host.skein k).trans (((opened.skeins k).2 hk).trans (only.skein k))
  · rw [host.msix, opened.told, toldAll, only.msix]
    rfl
  · exact ((State.setQp_frame s 0 _).createFrame.trans only.createFrame).trans (opened.frame.createFrame.trans host.createFrame)

end creates

/-! ## The obligation -/

/-- Settles O50: each descriptor is accepted; a create goes through its waking, fencing and opening, and a kill through its
halting of the cores, step by step. -/
theorem boltDescEffects : Obligations.BoltDescEffects := by
  unfold Obligations.BoltDescEffects
  intro s q d ready b r
  refine ⟨fun p hp off op => ?_, fun admin op bad => ?_, fun admin ok => ⟨?_, ?_⟩, fun admin p hp op => ⟨fun bad => ?_, ?_⟩⟩
  · simp only [List.mem_cons, List.not_mem_nil, or_false] at hp
    rcases hp with rfl | rfl | rfl
    · exact boltDesc_offAdmin ready (by simp [op]) off (by rw [exec_boltCreate ready op, accOf_admin_of_ne s d off])
    · exact boltDesc_offAdmin ready (by simp [op]) off (by rw [exec_boltDestroy ready op, State.killDesc_offAdmin s d off])
    · exact boltDesc_offAdmin ready (by simp [op]) off (by rw [exec_scrub ready op, State.killDesc_offAdmin s d off])
  · subst admin
    exact create_refused ready op (State.createOk_of_bad bad)
  · subst admin
    rintro ⟨c, site, scrubs⟩
    exact create_waits ready ok site scrubs
  · subst admin
    intro settled skeins hear
    obtain ⟨t, run, bolt, serve, inside, outside, budgets, told, pair, host, frame⟩ := create_opens ready ok settled skeins hear
    refine ⟨t, run, bolt, serve, fun c hc => ?_, outside, budgets, told, pair, host, frame⟩
    obtain ⟨discard, number, member, side, fences⟩ := inside c hc
    refine ⟨discard, number, member, side, fun p low high => (fences p low high).trans ?_⟩
    exact outward_iff _ (coreX_lt c) (Nat.div_lt_of_lt_mul hc.1) low high
  · subst admin
    simp only [List.mem_cons, List.not_mem_nil, or_false] at hp
    have refused := killTakes_eq_false s d p.2.2 bad
    rcases hp with rfl | rfl
    · exact kill_refused ready (by simp [op]) (exec_boltDestroy ready op) refused
    · exact kill_refused ready (by simp [op]) (exec_scrub ready op) refused
  · subst admin
    intro stands running sound quiet idle zero handle flags
    simp only [List.mem_cons, List.not_mem_nil, or_false] at hp
    have takes := killTakes_eq_true s d p.2.2 stands running sound zero handle flags
    rcases hp with rfl | rfl
    · exact kill_accepted (exec_boltDestroy ready op) takes running quiet idle
    · exact kill_accepted (exec_scrub ready op) takes running quiet idle

end Sys2Proof.Machine
end

section
namespace Sys2Proof.Machine

open Sys2Proof

/-! PROOFS. The patrol of a bolt's mirrors (R249), and the width of a creel line's error detail (R314), which the statement about
tuning and the patrol passes over (O56). -/

/-! ## Where a shard lies on its port -/

/-- A byte of a mirror of one block lies in that block. -/
theorem blockAddr_single (blk o : Nat) (inside : o < 4194304) : blockAddr [blk] o = 4194304 * blk + o := by
  have first : o / Config.creelBlockBytes = 0 := Nat.div_eq_of_lt inside
  have offset : o % Config.creelBlockBytes = o := Nat.mod_eq_of_lt inside
  rw [blockAddr, first, offset, List.getD_cons_zero, Nat.mul_comm]
  rfl

section oneShard

variable {e : EpochRec} {k : ShardRec} {p blk n : Nat}

theorem EpochRec.blocksOf_single (home : k.port = p) (own : k.fwd = false) (mirror : e.mirror = [(p, blk)]) :
    e.blocksOf k = [blk] := by
  simp [EpochRec.blocksOf, home, own, mirror]

/-- Line `n` of the one shard of an epoch is line `n` of the block that holds it. -/
theorem EpochRec.shardAt_single (shards : e.shards = [k]) (verified : k.st = .verified) (home : k.port = p)
    (used : bitAt k.uses e.position = true) (own : k.fwd = false) (mirror : e.mirror = [(p, blk)]) (start : k.off = 0)
    (inside : 64 * n < k.length) (fits : k.length ≤ 4194304) : e.shardAt p (65536 * blk + n) = some (0, 64 * n) := by
  have kept : k.kept e.position = true := by rw [ShardRec.kept, ShardRec.here, used, Bool.true_or]
  have line : ∀ j, 64 * j < k.length → blockAddr (e.blocksOf k) (k.off + 64 * j) / 64 = 65536 * blk + j := fun j hj => by
    rw [EpochRec.blocksOf_single home own mirror, start, Nat.zero_add, blockAddr_single blk _ (by omega)]
    omega
  have found : ((List.range ((k.length + 63) / 64)).find? fun j =>
      decide (blockAddr (e.blocksOf k) (k.off + 64 * j) / 64 = 65536 * blk + n)) = some n := by
    refine List.find?_range_eq_some.2 ⟨decide_eq_true (line n inside), List.mem_range.2 (by omega), fun j hj => ?_⟩
    rw [line j (by omega)]
    simpa using Nat.ne_of_lt hj
  have only : e.shard 0 = k := by rw [EpochRec.shard, shards]; rfl
  have place : (k.st = .verified ∨ k.st = .damaged) ∧ k.port = p ∧ k.kept e.position = true := ⟨.inl verified, home, kept⟩
  rw [EpochRec.shardAt, shards, List.length_singleton, List.range_one, List.findSome?_singleton]
  simp only [only, if_pos place, found, Option.map_some]

end oneShard

/-! ## The patrol -/

/-- A fold over units of which one alone does anything is the step of that one. -/
theorem foldl_range_alone {f : State → Nat → State} {s : State} {n p : Nat} (known : p < n) (before : ∀ k, k ≠ p → f s k = s)
    (after : ∀ k, k ≠ p → f (f s p) k = f s p) : (List.range n).foldl f s = f s p := by
  obtain ⟨low, high, split⟩ := List.append_of_mem (List.mem_range.2 known)
  have once : (low ++ p :: high).Nodup := split ▸ List.nodup_range
  obtain ⟨_, tail, apart⟩ := List.nodup_append.1 once
  rw [split, List.foldl_append, List.foldl_cons,
    foldl_eq_self _ s low fun k hk => before k (apart k hk p (List.mem_cons_self ..)),
    foldl_eq_self _ _ high fun k hk => after k fun eq => (List.nodup_cons.1 tail).1 (eq ▸ hk)]

/-- The patrol of one port: the lines in error that a shard of the bolt holds are read. -/
def State.patrolPort (b : Nat) (s : State) (p : Nat) : State :=
  if (s.port p).state ≠ 1 then s
  else (s.port p).ecc.foldl (fun s e =>
    if ((s.bolt b).holdersOfBlocks.any fun x => (x.shardAt p e.1).isSome) = true then
      let q := s.creelCheck p e.1
      if q.2 then q.1 else q.1.loseLine b p e.1
    else s) s

theorem exec_mirrorPatrol (s : State) (b : Nat) (known : b < Config.nBolts) :
    exec (.mirrorPatrol b) s = .next ((List.range Config.nPorts).foldl (State.patrolPort b) s) := by
  have run : exec (.mirrorPatrol b) s = execMirrorPatrol b s := rfl
  rw [run, execMirrorPatrol, onUnit_next _ _ _ (by rw [decide_eq_true known, Bool.true_or])]
  rfl

theorem State.patrolPort_clean (b : Nat) (s : State) (p : Nat) (clean : (s.port p).ecc = []) : s.patrolPort b p = s := by
  rw [State.patrolPort, clean, List.foldl_nil, ite_self]

theorem State.creelCorrected_port_ne (s : State) (p line k : Nat) (other : k ≠ p) :
    (s.creelCorrected p line).port k = s.port k :=
  State.setPort_port_ne s p k _ other

/-- A single-bit error goes with the low 36 bits of the line's detail (R314). -/
theorem State.creelCorrected_inFlight (s : State) (p line : Nat) :
    (s.creelCorrected p line).faults.inFlight =
      s.faults.inFlight ++ [⟨0x80000 + p, 0x10, 1, (p + (line <<< 5)) % 2 ^ 36, false⟩] := rfl

section corrected

variable {s : State} {b p line : Nat} {e : EpochRec}

theorem State.patrolPort_corrected (current : (s.bolt b).current = some e) (holds : (e.shardAt p line).isSome = true)
    (up : (s.port p).state = 1) (struck : (s.port p).ecc = [(line, 1)]) : s.patrolPort b p = s.creelCorrected p line := by
  have held : ((s.bolt b).holdersOfBlocks.any fun x => (x.shardAt p line).isSome) = true := by
    rw [BoltRec.holdersOfBlocks, current, Option.toList_some, List.append_assoc, List.singleton_append, List.any_cons, holds,
      Bool.true_or]
  have check : s.creelCheck p line = (s.creelCorrected p line, true) := by
    have single : Tab.get 0 (s.port p).ecc line = 1 := by rw [struck]; exact if_pos rfl
    rw [State.creelCheck, single]
    rfl
  rw [State.patrolPort, if_neg (not_not_intro up), struck, List.foldl_cons, List.foldl_nil, if_pos held, check]
  rfl

/-- A patrol whose one line in error is a corrected line of the current epoch reads that line, and no other. -/
theorem exec_mirrorPatrol_corrected (known : b < Config.nBolts) (port : p < Config.nPorts)
    (current : (s.bolt b).current = some e) (holds : (e.shardAt p line).isSome = true)
    (elsewhere : ∀ x, x ≠ p → (s.port x).ecc = []) (up : (s.port p).state = 1) (struck : (s.port p).ecc = [(line, 1)]) :
    exec (.mirrorPatrol b) s = .next (s.creelCorrected p line) := by
  have here := State.patrolPort_corrected current holds up struck
  rw [exec_mirrorPatrol s b known, foldl_range_alone port, here]
  · exact fun k hk => State.patrolPort_clean b s k (elsewhere k hk)
  · intro k hk
    rw [here]
    exact State.patrolPort_clean b _ k (by rw [State.creelCorrected_port_ne s p line k hk, elsewhere k hk])

end corrected

/-! ## The counterexample -/

/-- A mirror of one 64 B shard in block 2^15 of port 0, far beyond the 5,543 blocks of a port. -/
def farMirror : EpochRec := { shards := [{ kind := 1, length := 64, uses := 1, st := .verified }], mirror := [(0, 2 ^ 15)] }

/-- Bolt 0 serves from that mirror alone, and the shard's line, 2^31 of the port, has a single-bit error. -/
def struckFarMirror : State :=
  { bolts := [(0, { st := .serving, current := some farMirror })], creel := [(0, { state := 1, ecc := [(2 ^ 31, 1)] })] }

theorem struckFarMirror_elsewhere (x : Nat) (other : x ≠ 0) : (struckFarMirror.port x).ecc = [] :=
  congrArg PortRec.ecc (if_neg other.symm)

theorem farMirror_holds : farMirror.shardAt 0 (2 ^ 31) = some (0, 0) :=
  EpochRec.shardAt_single (e := farMirror) (k := farMirror.shard 0) (n := 0) rfl rfl rfl (by decide) rfl rfl rfl (by decide) (by decide)

/-- Refutes O56: the statement does not bound the block of a mirror, and puts the whole of `p + (line <<< 5)` into the report of
a corrected line, whose detail has 36 bits (R314). For line 2^31 of port 0 that sum is 2^36, of which the model sends 0. -/
theorem not_tuneEffects : ¬ Obligations.TuneEffects := by
  unfold Obligations.TuneEffects
  intro ⟨_, _, patrol⟩
  obtain ⟨_, corrected, _⟩ := patrol struckFarMirror 0 0 0 (2 ^ 15) farMirror (farMirror.shard 0) (by decide) (by decide)
    rfl rfl rfl rfl (by decide) rfl rfl rfl (by decide) (by decide) struckFarMirror_elsewhere rfl rfl
  have stated := corrected rfl
  have sent := exec_mirrorPatrol_corrected (s := struckFarMirror) (b := 0) (by decide) (by decide) rfl
    (congrArg Option.isSome farMirror_holds) struckFarMirror_elsewhere rfl rfl
  have same := congrArg (fun t : State => t.faults.inFlight.map FaultMsg.detail) (Host.Outcome.next.inj (stated.symm.trans sent))
  rw [State.creelCorrected_inFlight] at same
  have details : [2 ^ 36] = [0] := same
  exact absurd details (by decide)

end Sys2Proof.Machine
end

section
namespace Sys2Proof.Machine

open Sys2Proof

/-! PROOFS. What serving does to one request: the fields of its key word (R284, R285), what happens beside the queues (R204, R224),
and completions as they are written (R271–R275, R287). -/

/-! ## Fields of a key word (R284) -/

/-- A word with a field replaced, by the parts above, at and below the field. -/
theorem setBits_eq (w lo n v : Nat) :
    setBits w lo n v = (w / 2 ^ lo / 2 ^ n * 2 ^ n + v % 2 ^ n) * 2 ^ lo + w % 2 ^ lo := by
  have high := Nat.div_add_mod w (2 ^ lo)
  have field := Nat.div_add_mod (w / 2 ^ lo) (2 ^ n)
  rw [setBits, bits, Nat.shiftRight_eq_div_pow, Nat.shiftLeft_eq, Nat.shiftLeft_eq, Nat.add_mul]
  have split : w = w / 2 ^ lo / 2 ^ n * 2 ^ n * 2 ^ lo + w / 2 ^ lo % 2 ^ n * 2 ^ lo + w % 2 ^ lo := by
    rw [← Nat.add_mul, Nat.mul_comm (w / 2 ^ lo / 2 ^ n), field, Nat.mul_comm, high]
  omega

/-- Above the field the word is as it was. -/
theorem setBits_div (w lo n v : Nat) : setBits w lo n v / 2 ^ (lo + n) = w / 2 ^ (lo + n) := by
  rw [Nat.pow_add, ← Nat.div_div_eq_div_mul, ← Nat.div_div_eq_div_mul, setBits_eq, Nat.add_comm,
    Nat.add_mul_div_right _ _ (Nat.two_pow_pos lo), Nat.div_eq_of_lt (Nat.mod_lt w (Nat.two_pow_pos lo)), Nat.zero_add,
    Nat.add_comm, Nat.add_mul_div_right _ _ (Nat.two_pow_pos n), Nat.div_eq_of_lt (Nat.mod_lt v (Nat.two_pow_pos n)), Nat.zero_add]

/-- Below the field too. -/
theorem setBits_mod (w lo n v : Nat) : setBits w lo n v % 2 ^ lo = w % 2 ^ lo := by
  rw [setBits_eq, Nat.add_comm, Nat.add_mul_mod_self_right, Nat.mod_mod]

theorem setBits_lt (w lo n v : Nat) (fits : lo + n ≤ 64) (word : w < 2 ^ 64) : setBits w lo n v < 2 ^ 64 := by
  have above := setBits_div w lo n v
  obtain ⟨k, hk⟩ := Nat.exists_eq_add_of_le fits
  rw [hk, Nat.pow_add] at word ⊢
  rw [Nat.mul_comm] at word ⊢
  rwa [← Nat.div_lt_iff_lt_mul (Nat.two_pow_pos _), above, Nat.div_lt_iff_lt_mul (Nat.two_pow_pos _)]

theorem ReqRec.setKey_key (r : ReqRec) (lo n v : Nat) (fits : lo + n ≤ 64) :
    (r.setKey lo n v).key.toNat = setBits r.key.toNat lo n v := by
  rw [ReqRec.setKey, BitVec.toNat_ofNat, Nat.mod_eq_of_lt (setBits_lt _ _ _ _ fits r.key.isLt)]

/-- A field reads back as it was written. -/
theorem ReqRec.setKey_kf_same (r : ReqRec) (lo n v : Nat) (fits : lo + n ≤ 64) : (r.setKey lo n v).kf lo n = v % 2 ^ n := by
  rw [ReqRec.kf, ReqRec.setKey_key _ _ _ _ fits, bits, Nat.shiftRight_eq_div_pow, setBits_eq, Nat.add_comm,
    Nat.add_mul_div_right _ _ (Nat.two_pow_pos lo), Nat.div_eq_of_lt (Nat.mod_lt _ (Nat.two_pow_pos lo)), Nat.zero_add,
    Nat.add_comm, Nat.add_mul_mod_self_right, Nat.mod_mod]

/-- A field beside the one written reads as before. -/
theorem ReqRec.setKey_kf_apart (r : ReqRec) (lo n v a m : Nat) (fits : lo + n ≤ 64) (apart : a + m ≤ lo ∨ lo + n ≤ a) :
    (r.setKey lo n v).kf a m = r.kf a m := by
  rw [ReqRec.kf, ReqRec.kf, ReqRec.setKey_key _ _ _ _ fits]
  simp only [bits, Nat.shiftRight_eq_div_pow]
  rcases apart with below | above
  · have low (w : Nat) : w / 2 ^ a % 2 ^ m = w % 2 ^ lo / 2 ^ a % 2 ^ m := by
      obtain ⟨k, rfl⟩ := Nat.exists_eq_add_of_le below
      rw [Nat.add_assoc, Nat.pow_add 2 a, Nat.mod_mul_right_div_self, Nat.pow_add, Nat.mod_mul_right_mod]
    rw [low, setBits_mod, ← low]
  · obtain ⟨k, rfl⟩ := Nat.exists_eq_add_of_le above
    rw [Nat.pow_add, ← Nat.div_div_eq_div_mul, setBits_div, Nat.div_div_eq_div_mul]

theorem ReqRec.setKey_bolt (r : ReqRec) (lo n v : Nat) (above : 7 ≤ lo) (fits : lo + n ≤ 64) : (r.setKey lo n v).bolt = r.bolt :=
  r.setKey_kf_apart lo n v 4 3 fits (.inl above)

theorem ReqRec.auto_eq (r : ReqRec) : r.auto = decide (r.kf 48 1 = 1) := by
  rw [ReqRec.auto, ReqRec.kf, bits, BitVec.getLsbD, Nat.testBit_eq_decide_div_mod_eq, Nat.shiftRight_eq_div_pow, Nat.pow_one]

@[simp] theorem ReqRec.setSt_auto (r : ReqRec) (v : Nat) : (r.setSt v).auto = r.auto := by
  rw [ReqRec.auto_eq, ReqRec.auto_eq, ReqRec.setSt_kf _ _ _ _ (by decide)]

theorem ReqRec.st_of_key {r r' : ReqRec} (same : r.key = r'.key) : r.st = r'.st := by
  rw [ReqRec.st, ReqRec.st, ReqRec.kf, ReqRec.kf, same]

theorem ReqRec.epoch_of_key {r r' : ReqRec} (same : r.key = r'.key) : r.epoch = r'.epoch := by
  rw [ReqRec.epoch, ReqRec.epoch, ReqRec.kf, ReqRec.kf, same]

theorem ReqRec.bolt_of_key {r r' : ReqRec} (same : r.key = r'.key) : r.bolt = r'.bolt := by
  rw [ReqRec.bolt, ReqRec.bolt, ReqRec.kf, ReqRec.kf, same]

theorem ReqRec.auto_of_key {r r' : ReqRec} (same : r.key = r'.key) : r.auto = r'.auto := by rw [ReqRec.auto, ReqRec.auto, same]

theorem ReqRec.slot_of_key {r r' : ReqRec} (same : r.key = r'.key) : r.slot = r'.slot := by
  rw [ReqRec.slot, ReqRec.slot, ReqRec.kf, ReqRec.kf, same]

theorem ReqRec.handle_eq (r : ReqRec) (i : Nat) : r.handle i = i + 65536 * r.gen := by
  rw [ReqRec.handle, Nat.shiftLeft_eq, Nat.mul_comm]

/-- An entry that is in use, or set aside, is no empty one. -/
theorem State.live_mem {s : State} {i : Nat} (live : (s.req i).live = true) : (i, s.req i) ∈ s.reqs := by
  rcases Tab.get_eq_or_mem {} s.reqs i with empty | entry
  · rw [State.req, empty] at live
    exact absurd live (by decide)
  · exact entry

/-! ## One entry of the request table -/

/-- From `s` to `t`, of the request table entry `i` alone has changed. -/
structure EntryOnly (s t : State) (i : Nat) : Prop where
  others : ∀ j, j ≠ i → t.req j = s.req j
  entries : ∀ e ∈ t.reqs, e.1 = i ∨ e ∈ s.reqs
  rising : (s.reqs.map fun e => e.1).Pairwise (· < ·) → (t.reqs.map fun e => e.1).Pairwise (· < ·)

section entry

variable {s t u : State} {i : Nat}

theorem EntryOnly.of_reqs (same : t.reqs = s.reqs) : EntryOnly s t i :=
  ⟨fun j _ => congrArg (Tab.get ({} : ReqRec) · j) same, fun _ he => .inr (same ▸ he), fun h => by rwa [same]⟩

theorem EntryOnly.refl (s : State) (i : Nat) : EntryOnly s s i := .of_reqs rfl

theorem EntryOnly.trans (h : EntryOnly s t i) (h' : EntryOnly t u i) : EntryOnly s u i :=
  ⟨fun j hj => (h'.others j hj).trans (h.others j hj), fun e he => (h'.entries e he).elim .inl (h.entries e),
    fun p => h'.rising (h.rising p)⟩

theorem EntryOnly.setReq (s : State) (i : Nat) (r : ReqRec) : EntryOnly s (s.setReq i r) i := by
  refine ⟨fun j hj => State.setReq_req_ne _ _ _ _ hj, fun e he => ?_, fun rising => ?_⟩
  · rcases Tab.mem_put _ _ _ _ _ he with rfl | old
    · exact .inl rfl
    · exact .inr old
  · rw [List.pairwise_map] at rising ⊢
    show (Tab.put _ _ _ _).Pairwise _
    rw [Tab.put]
    split
    · exact rising.filter _
    · exact Tab.insert_pairwise _ _ _ rising

theorem EntryOnly.modReq (s : State) (i : Nat) (f : ReqRec → ReqRec) : EntryOnly s (s.modReq i f) i := .setReq s i _

/-- A bolt whose one request has changed alone has no other request then. -/
theorem EntryOnly.boltReqs (h : EntryOnly s t i) {b : Nat} (only : s.boltReqs b = [i]) : ∀ j ∈ t.boltReqs b, j = i := by
  intro j hj
  obtain ⟨e, found, rfl⟩ := List.mem_map.1 hj
  obtain ⟨entry, ours⟩ := List.mem_filter.1 found
  rcases h.entries e entry with own | old
  · exact own
  · have before : e.1 ∈ s.boltReqs b := List.mem_map.2 ⟨e, List.mem_filter.2 ⟨old, ours⟩, rfl⟩
    rw [only] at before
    exact List.mem_singleton.1 before

end entry

/-! ## What happens beside the queues -/

/-- From `s` to `t` no queue pair, function or clock, and nothing of the host's memory, has changed. -/
def Beside (s t : State) : Prop :=
  t = { s with
    bolts := t.bolts, cores := t.cores, creel := t.creel, reqs := t.reqs, serve := t.serve, adapters := t.adapters
    lowFree := t.lowFree }

section beside

variable {s t u : State}

theorem Beside.refl (s : State) : Beside s s := rfl

theorem Beside.trans (h : Beside s t) (h' : Beside t u) : Beside s u := by
  rw [Beside] at h h' ⊢
  rw [h', h]

theorem Beside.qps (h : Beside s t) : t.qps = s.qps := by rw [h]
theorem Beside.funcs (h : Beside s t) : t.funcs = s.funcs := by rw [h]
theorem Beside.hostMem (h : Beside s t) : t.hostMem = s.hostMem := by rw [h]
theorem Beside.time (h : Beside s t) : t.time = s.time := by rw [h]

theorem Beside.of_cores (h : t = { s with cores := t.cores }) : Beside s t := by
  rw [Beside, h]

theorem Beside.of_pool (h : PoolOnly s t) : Beside s t := by
  rw [Beside, h.frame]

theorem Beside.setReq (s : State) (i : Nat) (r : ReqRec) : Beside s (s.setReq i r) := rfl
theorem Beside.modReq (s : State) (i : Nat) (f : ReqRec → ReqRec) : Beside s (s.modReq i f) := rfl
theorem Beside.modServeOf (s : State) (b : Nat) (f : ServeRec → ServeRec) : Beside s (s.modServeOf b f) := rfl

end beside

/-! ## Completions as they are written (R271–R275) -/

/-- A queue pair with one entry more in its ring. -/
def toldQp (r : QpRec) (now : Nat) : QpRec :=
  { r with
    cqTail := if decide (r.cqTail + 1 = r.cqSize) then 0 else r.cqTail + 1
    cqPhase := if decide (r.cqTail + 1 = r.cqSize) then !r.cqPhase else r.cqPhase
    unread := r.unread + 1, t0 := if r.pend = 0 then now else r.t0, pend := r.pend + 1 }

/-- The descriptors that stay open once the final of `fin` is written (R266). -/
def openAfter (r : QpRec) (fin : Option (Nat × Nat)) : List Nat :=
  match fin with
  | some x => r.openDescs.filter fun n => n ≠ x.2
  | none => r.openDescs

/-- The request table once a final is written: the entry that it frees is FREE, with its generation (R287). -/
def entriesAfter (reqs : Tab ReqRec) (frees : Option Nat) : Tab ReqRec :=
  match frees with
  | some i => Tab.put {} reqs i { gen := (Tab.get {} reqs i).gen }
  | none => reqs

theorem openAfter_toldQp (r : QpRec) (now : Nat) (fin : Option (Nat × Nat)) : openAfter (toldQp r now) fin = openAfter r fin := by
  cases fin <;> rfl

/-- The request table, queue pairs and the host's memory alone change. -/
def AtQueues (s t : State) : Prop := t = { s with reqs := t.reqs, qps := t.qps, hostMem := t.hostMem }

theorem AtQueues.trans {s t u : State} (h : AtQueues s t) (h' : AtQueues t u) : AtQueues s u := by
  rw [AtQueues] at h h' ⊢
  rw [h', h]

theorem State.setReq_atQueues (s : State) (i : Nat) (r : ReqRec) : AtQueues s (s.setReq i r) := rfl
theorem State.modQp_atQueues (s : State) (q : Nat) (f : QpRec → QpRec) : AtQueues s (s.modQp q f) := rfl

/-- From `s` to `t` completion `c` has been written on queue pair `q`, and what its final ends is ended. -/
structure Written (s t : State) (q : Nat) (c : Cqe) : Prop where
  own : t.qp q = { toldQp (s.qp q) s.time with openDescs := openAfter (s.qp q) c.finOf }
  others : ∀ k, k ≠ q → t.qp k = s.qp k
  host : t.hostMem = writeBytes s.hostMem (ringBase (s.qp q).cq + 64 * (s.qp q).cqTail)
    (cqeBytes c (s.qp q).sqHead q (s.qp q).cqPhase)
  reqs : t.reqs = entriesAfter s.reqs c.frees
  frame : AtQueues s t

section written

variable {s t : State} {q : Nat} {c : Cqe}

theorem canTell_of_same {u : State} (h : CanTell s q) (qps : u.qps = s.qps) (funcs : u.funcs = s.funcs) : CanTell u q := by
  have qp : u.qp q = s.qp q := congrArg (Tab.get ({} : QpRec) · q) qps
  have func (k : Nat) : u.func k = s.func k := congrArg (Tab.get ({} : FuncRec) · k) funcs
  refine ⟨?_, ?_, ?_, ?_, ?_, ?_⟩
  · rw [qp]; exact h.enabled
  · rw [qp]; exact h.noError
  · rw [qp]; exact h.noneHeld
  · rw [qp]; exact h.room
  · rw [qp, func]; exact h.writable
  · rw [qp]; exact h.quiet

/-- What a final ends: its descriptor, and the entry that it frees. -/
theorem State.finalDone_effect (s : State) (c : Cqe) (own : ∀ x, c.finOf = some x → x.1 = q) :
    (s.finalDone c).qp q = { s.qp q with openDescs := openAfter (s.qp q) c.finOf } ∧
    (∀ k, k ≠ q → (s.finalDone c).qp k = s.qp k) ∧
    (s.finalDone c).reqs = entriesAfter s.reqs c.frees ∧
    (s.finalDone c).hostMem = s.hostMem ∧ AtQueues s (s.finalDone c) := by
  obtain ⟨u, run, pair, others, reqs, host, frame⟩ : ∃ u : State,
      (s.finalDone c = match c.frees with
        | some i => u.setReq i { ({} : ReqRec) with gen := (u.req i).gen }
        | none => u) ∧
      u.qp q = { s.qp q with openDescs := openAfter (s.qp q) c.finOf } ∧ (∀ k, k ≠ q → u.qp k = s.qp k) ∧
      u.reqs = s.reqs ∧ u.hostMem = s.hostMem ∧ AtQueues s u := by
    refine ⟨_, rfl, ?_⟩
    cases fin : c.finOf with
    | none => exact ⟨rfl, fun _ _ => rfl, rfl, rfl, rfl⟩
    | some x =>
      obtain rfl := own x fin
      exact ⟨State.modQp_qp_self _ _ _, fun k hk => State.modQp_qp_ne _ _ _ _ hk, rfl, rfl, rfl⟩
  rw [run, ← reqs]
  cases c.frees with
  | none => exact ⟨pair, others, rfl, host, frame⟩
  | some i => exact ⟨pair, others, rfl, host, frame.trans (u.setReq_atQueues i _)⟩

/-- The state with an entry in its ring slot. -/
def State.enter (s : State) (q : Nat) (c : Cqe) : State :=
  (s.withHost (writeBytes s.hostMem (ringBase (s.qp q).cq + 64 * (s.qp q).cqTail)
    (cqeBytes c (s.qp q).sqHead q (s.qp q).cqPhase))).setQp q (toldQp (s.qp q) s.time)

theorem State.writeCqe_eq (s : State) (q : Nat) (c : Cqe) : s.writeCqe q c = ((s.enter q c).finalDone c).moderate q := by
  rw [State.writeCqe]
  rfl

theorem State.enter_qp_self (s : State) (q : Nat) (c : Cqe) : (s.enter q c).qp q = toldQp (s.qp q) s.time :=
  State.setQp_qp_self _ _ _

theorem State.enter_qp_ne (s : State) (q : Nat) (c : Cqe) (k : Nat) (other : k ≠ q) : (s.enter q c).qp k = s.qp k :=
  State.setQp_qp_ne _ _ _ _ other

theorem State.enter_atQueues (s : State) (q : Nat) (c : Cqe) : AtQueues s (s.enter q c) := rfl

@[simp] theorem State.withHost_reqs (s : State) (mem : List Host.Cell) : (s.withHost mem).reqs = s.reqs := rfl

theorem State.enter_reqs (s : State) (q : Nat) (c : Cqe) : (s.enter q c).reqs = s.reqs := by
  rw [State.enter, State.setQp_reqs, State.withHost_reqs]

theorem State.enter_hostMem (s : State) (q : Nat) (c : Cqe) : (s.enter q c).hostMem = writeBytes s.hostMem
    (ringBase (s.qp q).cq + 64 * (s.qp q).cqTail) (cqeBytes c (s.qp q).sqHead q (s.qp q).cqPhase) := rfl

/-- An entry written into its slot, on a queue pair that no interrupt moderates. -/
theorem State.writeCqe_written (quiet : cfgIrqEn (s.qp q).cfg = false) (own : ∀ x, c.finOf = some x → x.1 = q) :
    Written s (s.writeCqe q c) q c := by
  obtain ⟨pair, others, reqs, host, frame⟩ := State.finalDone_effect (s.enter q c) c own
  rw [State.enter_qp_self, openAfter_toldQp] at pair
  rw [State.enter_reqs] at reqs
  rw [State.enter_hostMem] at host
  rw [State.writeCqe_eq, State.moderate_quiet _ _ (by rw [pair]; exact quiet)]
  exact ⟨pair, fun k hk => (others k hk).trans (State.enter_qp_ne _ _ _ _ hk), host, reqs, (s.enter_atQueues q c).trans frame⟩

/-- A queue pair that can take a completion takes it at once. -/
theorem State.complete_written (tell : CanTell s q) (own : ∀ x, c.finOf = some x → x.1 = q) : Written s (s.complete q c) q c := by
  have held : (s.modQp q fun r => { r with held := r.held ++ [c] }).qp q = { s.qp q with held := [c] } := by
    rw [State.modQp_qp_self, tell.noneHeld, List.nil_append]
  have room : (s.modQp q fun r => { r with held := r.held ++ [c] }).cqRoom q = true := by
    simp only [State.cqRoom, held, Bool.and_eq_true, Bool.not_eq_true', decide_eq_true_eq]
    exact ⟨⟨⟨tell.enabled, tell.noError⟩, tell.room⟩, tell.writable⟩
  have pair : ((s.modQp q fun r => { r with held := r.held ++ [c] }).modQp q fun r => { r with held := [] }).qp q = s.qp q := by
    rw [State.modQp_qp_self, held]
    exact congrArg (fun l => { s.qp q with held := l }) tell.noneHeld.symm
  have run : s.complete q c = ((s.modQp q fun r => { r with held := r.held ++ [c] }).modQp q fun r =>
      { r with held := [] }).writeCqe q c := by
    rw [State.complete, if_pos tell.enabled, State.drainCq, held]
    simp only [List.length_singleton, State.flushCq, held, room, if_true]
  obtain ⟨ownQp, others, host, reqs, frame⟩ := State.writeCqe_written (s := ((s.modQp q fun r =>
    { r with held := r.held ++ [c] }).modQp q fun r => { r with held := [] })) (by rw [pair]; exact tell.quiet) own
  rw [pair] at ownQp host
  rw [run]
  refine ⟨ownQp, fun k hk => ?_, host, reqs, ?_⟩
  · rw [others k hk, State.modQp_qp_ne _ _ _ _ hk, State.modQp_qp_ne _ _ _ _ hk]
  · exact ((State.modQp_atQueues _ _ _).trans (State.modQp_atQueues _ _ _)).trans frame

/-- A completion that frees no entry leaves the request table. -/
theorem Written.req_kept (h : Written s t q c) (keeps : c.frees = none) (j : Nat) : t.req j = s.req j := by
  have reqs := h.reqs
  rw [keeps] at reqs
  exact congrArg (Tab.get ({} : ReqRec) · j) reqs

theorem Written.entryOnly_kept (h : Written s t q c) (keeps : c.frees = none) (i : Nat) : EntryOnly s t i := by
  have reqs := h.reqs
  rw [keeps] at reqs
  exact .of_reqs reqs

/-- The final of a request that has ended leaves its entry FREE, with its generation. -/
theorem Written.req_freed {i : Nat} (h : Written s t q c) (frees : c.frees = some i) :
    t.req i = { ({} : ReqRec) with gen := (s.req i).gen } := by
  have reqs := h.reqs
  rw [frees] at reqs
  exact (congrArg (Tab.get ({} : ReqRec) · i) reqs).trans (State.setReq_req_self s i _)

theorem Written.entryOnly_freed {i : Nat} (h : Written s t q c) (frees : c.frees = some i) : EntryOnly s t i := by
  have reqs := h.reqs
  rw [frees] at reqs
  exact (EntryOnly.setReq s i _).trans (.of_reqs reqs)

theorem Written.serveOf (h : Written s t q c) (b : Nat) : t.serveOf b = s.serveOf b := by
  rw [h.frame]; rfl

/-- The entry as the statements have it, told from a state with the same queue pairs and host memory. -/
theorem Written.wrote {s₀ : State} (h : Written s t q c) (qps : s.qps = s₀.qps) (host : s.hostMem = s₀.hostMem) :
    Wrote s₀ t q c := by
  have qp (k : Nat) : s.qp k = s₀.qp k := congrArg (Tab.get ({} : QpRec) · k) qps
  refine ⟨?_, ?_, ?_, fun k hk => (h.others k hk).trans (qp k)⟩
  · rw [h.host, qp, host]
  · rw [h.own, qp]; rfl
  · rw [h.own, qp]; rfl

/-- The final of a descriptor that opened no turn, in the same way. -/
theorem Written.told {s₀ : State} {f : FinOf} {status : Nat} {result : List Nat} (h : Written s t f.q
    { tag := f.tag, handle := f.handle, status := status, opcode := f.opcode, result := result, finOf := some (f.q, f.n) })
    (qps : s.qps = s₀.qps) (host : s.hostMem = s₀.hostMem) (time : s.time = s₀.time) : Told s₀ t f status result := by
  have qp (k : Nat) : s.qp k = s₀.qp k := congrArg (Tab.get ({} : QpRec) · k) qps
  refine ⟨?_, ?_, fun k hk => (h.others k hk).trans (qp k)⟩
  · rw [h.host, qp, host]; rfl
  · rw [h.own, qp, time]; rfl

end written

end Sys2Proof.Machine
end

section
namespace Sys2Proof.Machine

open Sys2Proof

/-! PROOFS. The ends of turns, pauses and requests that hold no slot (R223, R277, R285, R287, R297). -/

/-! ## An entry that becomes another -/

/-- From `s` to `t` entry `i` becomes `r`, beside the queues and the counters of serving. -/
structure EntryBecomes (s t : State) (i : Nat) (r : ReqRec) : Prop where
  entry : t.req i = r
  only : EntryOnly s t i
  beside : Beside s t
  serve : t.serve = s.serve

section becomes

variable {s t u : State} {i : Nat} {r r' : ReqRec}

theorem EntryBecomes.trans (h : EntryBecomes s t i r) (h' : EntryBecomes t u i r') : EntryBecomes s u i r' :=
  ⟨h'.entry, h.only.trans h'.only, h.beside.trans h'.beside, h'.serve.trans h.serve⟩

theorem EntryBecomes.setReq (s : State) (i : Nat) (r : ReqRec) : EntryBecomes s (s.setReq i r) i r :=
  ⟨State.setReq_req_self _ _ _, .setReq _ _ _, rfl, rfl⟩

theorem EntryBecomes.modReq (h : EntryBecomes s t i r) (f : ReqRec → ReqRec) : EntryBecomes s (t.modReq i f) i (f r) :=
  h.trans (h.entry ▸ .setReq t i _)

theorem EntryBecomes.of_cores (i : Nat) (h : t = { s with cores := t.cores }) : EntryBecomes s t i (s.req i) := by
  have reqs : t.reqs = s.reqs := by rw [h]
  exact ⟨congrArg (Tab.get ({} : ReqRec) · i) reqs, .of_reqs reqs, .of_cores h, by rw [h]⟩

theorem EntryBecomes.fitPool (h : EntryBecomes s t i r) (b : Nat) : EntryBecomes s (t.fitPool b) i r := by
  have pool := PoolOnly.fitPool t b
  have reqs : (t.fitPool b).reqs = t.reqs := by rw [pool.frame]
  refine h.trans ⟨?_, .of_reqs reqs, .of_pool pool, by rw [pool.frame]⟩
  rw [pool.req, h.entry]

end becomes

/-! ## Pages of a request without a slot (R204, R224) -/

theorem State.dropPages_cores (s : State) (e : EpochRec) (region : Nat) (kv : KvRec) :
    s.dropPages e region kv = { s with cores := (s.dropPages e region kv).cores } := by
  rw [State.dropPages]
  split
  · exact List.foldlRecOn (motive := fun t : State => t = { s with cores := t.cores }) _ _ rfl
      fun t ht p _ => State.cores_trans ht (State.syncPage_cores _ _ _ _)
  · rfl

section loose

variable {s : State} {i : Nat}

theorem State.leaveSlot_loose (loose : (s.req i).slot = noSlot) (keep : Bool) : s.leaveSlot i keep = s := if_pos loose

/-- An entry that holds nothing of its sequence but the token log (R224). -/
def ReqRec.pageless (r : ReqRec) : ReqRec := { r with pageList := [], save := none, kvLen := 0 }

theorem State.freePages_loose (loose : (s.req i).slot = noSlot) :
    EntryBecomes s (s.freePages i) i (s.req i).pageless := by
  have dropped : EntryBecomes s ((s.reqKv (s.req i)).foldl (fun t k => t.dropPages (t.reqEpoch (s.req i)) k.1 k.2) s) i (s.req i) :=
    .of_cores i (List.foldlRecOn (motive := fun t : State => t = { s with cores := t.cores }) _ _ rfl
      fun t ht k _ => State.cores_trans ht (State.dropPages_cores _ _ _ _))
  simp only [State.freePages, if_pos loose]
  exact dropped.modReq _

/-- The entry of a request that has lost its pages (R223). -/
def ReqRec.absent (r : ReqRec) : ReqRec := { r.setSt rqAbsent with reservedPages := 0, expiry := 0, parking := false }

/-- A dropped request counted in KV_DROP (R226). -/
def State.countAbsent (s : State) (b : Nat) : State :=
  s.modServeOf b fun v => { v with dropRequests := satAdd 16 v.dropRequests 1 }

theorem State.toAbsent_eq (loose : (s.req i).slot = noSlot) :
    s.toAbsent i = (((s.freePages i).countAbsent (s.req i).bolt).modReq i ReqRec.absent).fitPool (s.req i).bolt := by
  have bolt : ((s.freePages i).req i).bolt = (s.req i).bolt := by rw [(State.freePages_loose loose).entry]; rfl
  have run : s.toAbsent i = (((s.freePages i).countAbsent ((s.freePages i).req i).bolt).modReq i ReqRec.absent).fitPool
      ((s.freePages i).req i).bolt := by
    rw [State.toAbsent, State.leaveSlot_loose loose]
    rfl
  rw [run, bolt]

/-- A request that loses its pages is ABSENT, and counted (R223). -/
theorem State.toAbsent_loose (loose : (s.req i).slot = noSlot) :
    (s.toAbsent i).req i = (s.req i).pageless.absent ∧ EntryOnly s (s.toAbsent i) i ∧ Beside s (s.toAbsent i) ∧
    (s.toAbsent i).serveOf (s.req i).bolt = { s.serveOf (s.req i).bolt with
      dropRequests := satAdd 16 (s.serveOf (s.req i).bolt).dropRequests 1 } := by
  have freed := State.freePages_loose loose
  have counted : EntryBecomes ((s.freePages i).countAbsent (s.req i).bolt) ((s.freePages i).countAbsent (s.req i).bolt) i
      (s.req i).pageless := ⟨freed.entry, .refl _ _, .refl _, rfl⟩
  have became := (counted.modReq ReqRec.absent).fitPool (s.req i).bolt
  have only : EntryOnly (s.freePages i) ((s.freePages i).countAbsent (s.req i).bolt) i := .of_reqs rfl
  have beside : Beside (s.freePages i) ((s.freePages i).countAbsent (s.req i).bolt) := rfl
  rw [State.toAbsent_eq loose]
  refine ⟨became.entry, (freed.only.trans only).trans became.only, (freed.beside.trans beside).trans became.beside, ?_⟩
  rw [State.serveOf, became.serve]
  refine (State.modServeOf_serveOf_self _ _ _).trans ?_
  rw [State.serveOf, freed.serve]
  rfl

end loose

/-! ## Finals of turns (R271, R287, Table 10.10) -/

/-- What the final of a turn tells of its entry, but the epoch. -/
def ReqRec.toldPart (r : ReqRec) : ReqRec where
  qp := r.qp
  gen := r.gen
  tag := r.tag
  opcode := r.opcode
  ctxLen := r.ctxLen
  turnTokens := r.turnTokens
  textBytes := r.textBytes
  ttftUs := r.ttftUs
  tbtAvg := r.tbtAvg
  tbtMax := r.tbtMax
  tbtViol := r.tbtViol
  warned := r.warned
  endReason := r.endReason
  finN := r.finN

/-- A write of the key word touches nothing else of the entry. -/
theorem ReqRec.setKey_eq (r : ReqRec) (lo n v : Nat) : ∃ k, r.setKey lo n v = { r with key := k, keyInv := ~~~k } := ⟨_, rfl⟩

@[simp] theorem ReqRec.setKey_toldPart (r : ReqRec) (lo n v : Nat) : (r.setKey lo n v).toldPart = r.toldPart := by
  obtain ⟨k, key⟩ := r.setKey_eq lo n v
  rw [key]
  rfl

@[simp] theorem ReqRec.setSt_toldPart (r : ReqRec) (v : Nat) : (r.setSt v).toldPart = r.toldPart := r.setKey_toldPart 0 4 v

@[simp] theorem ReqRec.released_toldPart (r : ReqRec) : r.released.toldPart = r.toldPart := by
  obtain ⟨k, key⟩ := r.setKey_eq 10 10 noSlot
  rw [ReqRec.released, key]
  rfl

/-- The final of a turn, from what it tells of the entry. -/
def finalOf (p : ReqRec) (epoch i status : Nat) (frees : Bool) : Cqe where
  tag := p.tag
  handle := p.handle i
  status := status
  opcode := p.opcode
  endReason := p.endReason
  result := natBytes 4 p.turnTokens ++ natBytes 4 p.ctxLen ++ natBytes 4 p.textBytes ++ natBytes 4 p.ttftUs ++
    natBytes 4 (min p.tbtAvg.toNat (2 ^ 32 - 1)) ++ natBytes 4 (min p.tbtMax (2 ^ 32 - 1)) ++ natBytes 2 p.tbtViol ++
    natBytes 2 epoch ++ natBytes 4 p.warned
  numericWarn := decide (0 < p.warned)
  frees := if frees then some i else none
  finOf := p.finN.map fun n => (p.qp, n)
  entry := true

theorem State.reqFinal_eq (s : State) (i status : Nat) (frees : Bool) : s.reqFinal i status frees =
    s.complete (s.req i).qp (finalOf (s.req i).toldPart (s.req i).epoch i status frees) := rfl

/-- The final of a drained turn, as it is written. -/
theorem finalOf_turnFinal (r : ReqRec) (i : Nat) (frees : Bool) : finalOf r.toldPart r.epoch i r.turnStatus frees =
    { turnFinal r i with frees := if frees then some i else none, entry := true } := by
  simp only [finalOf, turnFinal, ReqRec.handle_eq]
  rfl

theorem finalOf_own (p : ReqRec) (epoch i status : Nat) (frees : Bool) :
    ∀ x, (finalOf p epoch i status frees).finOf = some x → x.1 = p.qp := by
  intro x fin
  obtain ⟨n, _, rfl⟩ := Option.map_eq_some_iff.1 fin
  rfl

/-- The bytes of an entry do not tell what its final frees, nor where it was held. -/
theorem wrote_of_held {s t : State} {q : Nat} {c : Cqe} {frees : Option Nat} {entry : Bool}
    (h : Wrote s t q { c with frees := frees, entry := entry }) : Wrote s t q c := h

/-- A final of a request that ends as its entry stands. -/
theorem State.reqFinal_written {s : State} {i : Nat} (status : Nat) (frees : Bool) (tell : CanTell s (s.req i).qp) :
    Written s (s.reqFinal i status frees) (s.req i).qp (finalOf (s.req i).toldPart (s.req i).epoch i status frees) := by
  rw [State.reqFinal_eq]
  exact State.complete_written tell (finalOf_own _ _ _ _ _)

/-! ## The header of a turn that is done (R24, R277) -/

/-- While writes can be issued, the header goes to the host. -/
theorem State.doneHeader_writable {s : State} {i : Nat} (writable : (s.func (s.req i).func).writable = true) :
    s.doneHeader i = s.withHost (if (s.req i).openTurn && !(s.req i).fresh then
      writeBytes s.hostMem (s.req i).outAddr ((s.req i).header true) else s.hostMem) := by
  simp only [State.doneHeader, writable, if_true]
  split <;> rfl

/-- The entry is kept but for the note that its header is due. -/
theorem State.doneHeader_effect (s : State) (i : Nat) : ∃ due, (s.doneHeader i).req i = { s.req i with doneDue := due } ∧
    EntryOnly s (s.doneHeader i) i ∧ (s.doneHeader i).qps = s.qps ∧ (s.doneHeader i).funcs = s.funcs ∧
    (s.doneHeader i).serve = s.serve := by
  rw [State.doneHeader]
  dsimp only
  split
  · split
    · exact ⟨(s.req i).doneDue, rfl, .of_reqs rfl, rfl, rfl, rfl⟩
    · exact ⟨true, State.setReq_req_self _ _ _, .setReq _ _ _, rfl, rfl, rfl⟩
  · exact ⟨(s.req i).doneDue, rfl, .refl s i, rfl, rfl, rfl⟩

/-! ## A request without a slot ends (R285, R287) -/

theorem ReqRec.adoptIntake_none {r : ReqRec} (none_ : r.intake = none) : r.adoptIntake = r := by
  rw [ReqRec.adoptIntake, none_]

/-- The entry of a request that has ended, its final still to be written. -/
def ReqRec.ended (r : ReqRec) (st : Nat) : ReqRec := { r.adoptIntake.released.setSt st with endReason := 0, openTurn := false }

theorem ReqRec.ended_loose {r : ReqRec} (none_ : r.intake = none) (st : Nat) : (r.ended st).qp = r.qp ∧ (r.ended st).gen = r.gen := by
  rw [ReqRec.ended, ReqRec.adoptIntake_none none_]
  have told : (r.released.setSt st).toldPart = r.toldPart := by rw [ReqRec.setSt_toldPart, ReqRec.released_toldPart]
  exact ⟨(congrArg ReqRec.qp told : _), (congrArg ReqRec.gen told : _)⟩

theorem State.endReq_open {s : State} {i : Nat} (running : (s.req i).st < 8) (live : (s.req i).live = true) (st status : Nat) :
    s.endReq i st status = (((((s.doneHeader i).leaveSlot i false).freePages i).modReq i fun r => r.ended st).reqFinal i
      status true).fitPool (s.req i).bolt := by
  simp only [State.endReq, if_neg (Nat.not_le.2 running), live, if_true]
  rfl

/-- The request ends, and once its final is written its entry is FREE. -/
theorem State.endReq_frees {s : State} {i : Nat} (running : (s.req i).st < 8) (live : (s.req i).live = true)
    (loose : (s.req i).slot = noSlot) (noIntake : (s.req i).intake = none) (tell : CanTell s (s.req i).qp) (st status : Nat) :
    (s.endReq i st status).req i = { ({} : ReqRec) with gen := (s.req i).gen } ∧ EntryOnly s (s.endReq i st status) i ∧
    (s.endReq i st status).serve = s.serve := by
  obtain ⟨due, entry, only, qps, funcs, serve⟩ := s.doneHeader_effect i
  have stillLoose : ((s.doneHeader i).req i).slot = noSlot := by rw [entry]; exact loose
  have ended := (State.freePages_loose stillLoose).modReq fun r => r.ended st
  have endedEntry := ended.entry
  obtain ⟨endedQp, endedGen⟩ := ReqRec.ended_loose (r := ((s.doneHeader i).req i).pageless) (by rw [entry]; exact noIntake) st
  rw [State.endReq_open running live, State.leaveSlot_loose stillLoose]
  generalize ((s.doneHeader i).freePages i).modReq i (fun r => r.ended st) = t at ended endedEntry ⊢
  have pair : (t.req i).qp = (s.req i).qp := by
    rw [endedEntry, endedQp, entry]
    rfl
  have final := State.reqFinal_written (s := t) (i := i) status true (by
    rw [pair]
    exact canTell_of_same tell (ended.beside.qps.trans qps) (ended.beside.funcs.trans funcs))
  have pool := PoolOnly.fitPool (t.reqFinal i status true) (s.req i).bolt
  have poolReqs : ((t.reqFinal i status true).fitPool (s.req i).bolt).reqs = (t.reqFinal i status true).reqs := by rw [pool.frame]
  have poolServe : ((t.reqFinal i status true).fitPool (s.req i).bolt).serve = (t.reqFinal i status true).serve := by
    rw [pool.frame]
  have finalServe : (t.reqFinal i status true).serve = t.serve := by rw [final.frame]
  refine ⟨?_, ((only.trans ended.only).trans (final.entryOnly_freed rfl)).trans (.of_reqs poolReqs), ?_⟩
  · rw [pool.req, final.req_freed rfl, endedEntry, endedGen, entry]
    rfl
  · rw [poolServe, finalServe, ended.serve, serve]

end Sys2Proof.Machine
end

section
namespace Sys2Proof.Machine

open Sys2Proof

/-! PROOFS. TURN_WRITTEN, TTL_CHECK and INPUTS_READ (R223, R269, R277, R287, R288, R290, R297). -/

/-! ## The final of a drained turn (R271, R287) -/

theorem ReqRec.told_pair {r r' : ReqRec} (told : r'.toldPart = r.toldPart) : r'.qp = r.qp ∧ r'.gen = r.gen :=
  ⟨show r'.toldPart.qp = r.toldPart.qp by rw [told], show r'.toldPart.gen = r.toldPart.gen by rw [told]⟩

theorem PoolOnly.reqs {s t : State} (h : PoolOnly s t) : t.reqs = s.reqs := by rw [h.frame]

theorem wrote_of_pool {s t u : State} {q : Nat} {c : Cqe} (pool : PoolOnly t u) (h : Wrote s t q c) : Wrote s u q c := by
  have qp (k : Nat) : u.qp k = t.qp k := congrArg (Tab.get ({} : QpRec) · k) pool.qps
  have host : u.hostMem = t.hostMem := by rw [pool.frame]
  obtain ⟨written, unread, open_, others⟩ := h
  exact ⟨host.trans written, by rw [qp]; exact unread, by rw [qp]; exact open_, fun k hk => (qp k).trans (others k hk)⟩

/-- The final of a turn, of an entry that has kept what it tells. -/
theorem State.reqFinal_turn {s u : State} {i : Nat} {r r' : ReqRec} (became : EntryBecomes s u i r')
    (told : r'.toldPart = r.toldPart) (epoch : r'.epoch = r.epoch) (tell : CanTell s r.qp) (frees : Bool) :
    Wrote s (u.reqFinal i r.turnStatus frees) r.qp (turnFinal r i) ∧ EntryOnly s (u.reqFinal i r.turnStatus frees) i ∧
    (u.reqFinal i r.turnStatus frees).req i = if frees then { ({} : ReqRec) with gen := r.gen } else r' := by
  obtain ⟨sameQp, sameGen⟩ := ReqRec.told_pair told
  have pair : (u.req i).qp = r.qp := by rw [became.entry, sameQp]
  have final := State.reqFinal_written (s := u) (i := i) r.turnStatus frees (by
    rw [pair]
    exact canTell_of_same tell became.beside.qps became.beside.funcs)
  rw [pair, became.entry, told, epoch, finalOf_turnFinal] at final
  refine ⟨wrote_of_held (final.wrote became.beside.qps became.beside.hostMem), ?_, ?_⟩
  · cases frees
    · exact became.only.trans (final.entryOnly_kept rfl i)
    · exact became.only.trans (final.entryOnly_freed rfl)
  · cases frees
    · exact (final.req_kept rfl i).trans became.entry
    · rw [final.req_freed rfl, became.entry, sameGen]
      rfl

/-! ## TURN_WRITTEN (R223, R277, R287, R297) -/

/-- The entry of a paused request (R291, R297). -/
def pausedEntry (s : State) (r : ReqRec) (st ttl pages : Nat) : ReqRec :=
  { r.setSt st with
    pausedAt := s.time
    expiry := if r.auto then 0
      else s.time + 1000000 * (if ttl ≠ 0 then ttl else if r.ttl ≠ 0 then r.ttl else (s.serveOf r.bolt).ttlDefault)
    reservedPages := pages, parking := decide (st = rqParked) }

theorem State.enterPaused_becomes (s : State) (i st ttl : Nat) :
    ∃ pages, EntryBecomes s (s.enterPaused i st ttl) i (pausedEntry s (s.req i) st ttl pages) :=
  ⟨_, .setReq s i _⟩

/-- The entry of a request whose last turn has been written, its final still to be. -/
def ReqRec.finished (r : ReqRec) : ReqRec := { r.released.setSt rqDone with openTurn := false }

theorem ReqRec.closed_toldPart (r : ReqRec) : { r with openTurn := false }.toldPart = r.toldPart := rfl

theorem ReqRec.finished_fields (r : ReqRec) : r.finished.epoch = r.epoch ∧ r.finished.toldPart = r.toldPart := by
  have epoch : r.finished.epoch = r.epoch :=
    calc r.finished.epoch = (r.released.setSt rqDone).epoch := ReqRec.epoch_of_key (by rw [ReqRec.finished])
      _ = r.released.epoch := ReqRec.setSt_epoch _ _
      _ = (r.setKey 10 10 noSlot).epoch := ReqRec.epoch_of_key (by rw [ReqRec.released])
      _ = r.epoch := r.setKey_kf_apart 10 10 noSlot 20 16 (by decide) (.inr (by decide))
  refine ⟨epoch, ?_⟩
  rw [ReqRec.finished, ReqRec.closed_toldPart, ReqRec.setSt_toldPart, ReqRec.released_toldPart]

/-- The entry of a turn whose output has been written. -/
def ReqRec.turnDone (r : ReqRec) : ReqRec := { r with openTurn := false, rebound := false }

/-- The entry of a request that loses its pages as its turn ends (R223). -/
def ReqRec.dropped (r : ReqRec) (now : Nat) : ReqRec := { r.setSt rqAbsent with reservedPages := 0, expiry := 0, pausedAt := now }

theorem pausedEntry_fields (s : State) (r : ReqRec) (st ttl pages : Nat) : let p := pausedEntry s r st ttl pages
    p.st = st % 16 ∧ p.epoch = r.epoch ∧ p.toldPart = r.toldPart ∧ p.openTurn = r.openTurn ∧ p.log = r.log ∧ p.save = r.save := by
  intro p
  have st_ : p.st = st % 16 := (ReqRec.st_of_key rfl).trans (r.setSt_st st)
  have epoch : p.epoch = r.epoch := (ReqRec.epoch_of_key rfl).trans (r.setSt_epoch st)
  obtain ⟨k, key⟩ := r.setKey_eq 0 4 st
  refine ⟨st_, epoch, ?_⟩
  simp only [p, pausedEntry, ReqRec.setSt, key]
  exact ⟨rfl, trivial, trivial, trivial⟩

theorem ReqRec.dropped_fields (r : ReqRec) (now : Nat) : let p := r.dropped now
    p.st = rqAbsent ∧ p.epoch = r.epoch ∧ p.toldPart = r.toldPart ∧ p.openTurn = r.openTurn ∧ p.log = r.log ∧
    p.reservedPages = 0 ∧ p.expiry = 0 := by
  intro p
  have st_ : p.st = rqAbsent := (ReqRec.st_of_key rfl).trans (r.setSt_st rqAbsent)
  have epoch : p.epoch = r.epoch := (ReqRec.epoch_of_key rfl).trans (r.setSt_epoch rqAbsent)
  obtain ⟨k, key⟩ := r.setKey_eq 0 4 rqAbsent
  refine ⟨st_, epoch, ?_⟩
  simp only [p, ReqRec.dropped, ReqRec.setSt, key]
  exact ⟨rfl, trivial, trivial, trivial, trivial⟩

theorem exec_turnWritten {s : State} {i : Nat} (known : i < Config.nRequests) :
    exec (.turnWritten i) s = .next (s.turnWritten i) := by
  show onReq i s (fun s => s.turnWritten i) = _
  rw [onReq, onUnit_next _ _ _ (decide_eq_true known)]

/-- The state once the header of the turn is written, where one is (R24, R277). -/
def State.headed (s : State) (i : Nat) : State :=
  s.withHost (if (s.req i).openTurn && !(s.req i).fresh then
    writeBytes s.hostMem (s.req i).outAddr ((s.req i).header true) else s.hostMem)

theorem State.headed_only (s : State) (i : Nat) : EntryOnly s (s.headed i) i := .of_reqs rfl

section drained

variable {s : State} {i : Nat} (key : (s.req i).keyOk = true)

include key

/-- While writes to its function are blocked, nothing happens. -/
theorem State.turnWritten_blocked (blocked : (s.func (s.req i).func).writable = false ∨ (s.req i).undelivered ≠ []) :
    s.turnWritten i = s := by
  have stays : ¬ ((s.req i).st = rqDraining ∧ (s.func (s.req i).func).writable = true ∧ (s.req i).undelivered = []) := by
    rintro ⟨-, writable, delivered⟩
    rcases blocked with no | some_
    · rw [no] at writable
      cases writable
    · exact some_ delivered
  rw [State.turnWritten, State.useReq, if_pos key, if_neg stays]

variable (drains : (s.req i).st = rqDraining) (writable : (s.func (s.req i).func).writable = true)
  (delivered : (s.req i).undelivered = [])

include drains writable delivered

/-- The end of a turn that is no pause. -/
theorem State.turnWritten_ends (ends : (s.req i).pausePark = 0) :
    s.turnWritten i = (((((s.headed i).freePages i).modReq i ReqRec.finished).reqFinal i
      (s.req i).turnStatus true).fitPool (s.req i).bolt) := by
  rw [State.turnWritten, State.useReq, if_pos key, if_pos ⟨drains, writable, delivered⟩]
  dsimp only
  rw [if_pos ends, State.doneHeader_writable writable]
  rfl

/-- The end of a turn whose request has lost its pages. -/
theorem State.turnWritten_drops (drop : (s.req i).pausePark = 3) :
    s.turnWritten i = (((s.headed i).modReq i ReqRec.turnDone).modReq i fun r => r.dropped s.time).reqFinal i
      (s.req i).turnStatus false := by
  rw [State.turnWritten, State.useReq, if_pos key, if_pos ⟨drains, writable, delivered⟩]
  dsimp only
  rw [if_neg (by rw [drop]; decide), if_pos drop, State.doneHeader_writable writable]
  rfl

/-- The end of a turn that pauses its request. -/
theorem State.turnWritten_pauses (pauses : (s.req i).pausePark ≠ 0) (keeps : (s.req i).pausePark ≠ 3) :
    s.turnWritten i = (((s.headed i).modReq i ReqRec.turnDone).enterPaused i
      (if (s.req i).pausePark = 2 then rqParked else rqHeld) (s.req i).pauseTtl).reqFinal i (s.req i).turnStatus false := by
  rw [State.turnWritten, State.useReq, if_pos key, if_pos ⟨drains, writable, delivered⟩]
  dsimp only
  rw [if_neg pauses, if_neg keeps, State.doneHeader_writable writable]
  rfl

variable (tell : CanTell s (s.req i).qp)

include tell

/-- The turn ends: its output is written, its final, and the entry is FREE. -/
theorem turnWritten_ends_effect (loose : (s.req i).slot = noSlot) (ends : (s.req i).pausePark = 0) :
    Wrote (s.headed i) (s.turnWritten i) (s.req i).qp (turnFinal (s.req i) i) ∧ EntryOnly s (s.turnWritten i) i ∧
    (s.turnWritten i).req i = { ({} : ReqRec) with gen := (s.req i).gen } := by
  rw [State.turnWritten_ends key drains writable delivered ends]
  have became : EntryBecomes (s.headed i) (((s.headed i).freePages i).modReq i ReqRec.finished) i (s.req i).pageless.finished :=
    (State.freePages_loose (s := s.headed i) loose).modReq _
  obtain ⟨epoch, told⟩ := (s.req i).pageless.finished_fields
  obtain ⟨wrote, only, freed⟩ := State.reqFinal_turn (r := s.req i) became told epoch (canTell_of_same tell rfl rfl) true
  have pool := PoolOnly.fitPool ((((s.headed i).freePages i).modReq i ReqRec.finished).reqFinal i (s.req i).turnStatus true)
    (s.req i).bolt
  exact ⟨wrote_of_pool pool wrote, ((s.headed_only i).trans only).trans (.of_reqs pool.reqs), (pool.req i).trans freed⟩

/-- The turn ends as its request has lost its pages (R223). -/
theorem turnWritten_drops_effect (drop : (s.req i).pausePark = 3) :
    Wrote (s.headed i) (s.turnWritten i) (s.req i).qp (turnFinal (s.req i) i) ∧ EntryOnly s (s.turnWritten i) i ∧
    (s.turnWritten i).req i = (s.req i).turnDone.dropped s.time := by
  rw [State.turnWritten_drops key drains writable delivered drop]
  have done : EntryBecomes (s.headed i) ((s.headed i).modReq i ReqRec.turnDone) i (s.req i).turnDone := .setReq _ _ _
  obtain ⟨-, epoch, told, -, -, -, -⟩ := (s.req i).turnDone.dropped_fields s.time
  obtain ⟨wrote, only, entry⟩ := State.reqFinal_turn (r := s.req i) (done.modReq fun r => r.dropped s.time) told epoch
    (canTell_of_same tell rfl rfl) false
  exact ⟨wrote, (s.headed_only i).trans only, entry⟩

/-- The turn ends in a pause, whose time runs (R297). -/
theorem turnWritten_pauses_effect (pauses : (s.req i).pausePark ≠ 0) (keeps : (s.req i).pausePark ≠ 3) :
    Wrote (s.headed i) (s.turnWritten i) (s.req i).qp (turnFinal (s.req i) i) ∧ EntryOnly s (s.turnWritten i) i ∧
    ∃ pages, (s.turnWritten i).req i = pausedEntry s (s.req i).turnDone
      (if (s.req i).pausePark = 2 then rqParked else rqHeld) (s.req i).pauseTtl pages := by
  rw [State.turnWritten_pauses key drains writable delivered pauses keeps]
  have done : EntryBecomes (s.headed i) ((s.headed i).modReq i ReqRec.turnDone) i (s.req i).turnDone := .setReq _ _ _
  obtain ⟨pages, paused⟩ := State.enterPaused_becomes ((s.headed i).modReq i ReqRec.turnDone) i
    (if (s.req i).pausePark = 2 then rqParked else rqHeld) (s.req i).pauseTtl
  rw [done.entry] at paused
  obtain ⟨-, epoch, told, -, -, -⟩ := pausedEntry_fields ((s.headed i).modReq i ReqRec.turnDone) (s.req i).turnDone
    (if (s.req i).pausePark = 2 then rqParked else rqHeld) (s.req i).pauseTtl pages
  obtain ⟨wrote, only, entry⟩ := State.reqFinal_turn (r := s.req i) (done.trans paused) told epoch
    (canTell_of_same tell rfl rfl) false
  exact ⟨wrote, (s.headed_only i).trans only, pages, entry⟩

end drained

/-! ## TTL_CHECK (R288, R297) -/

/-- Where every key word is good, none is reported. -/
theorem State.checkKeys_good {s : State} (good : ∀ e ∈ s.reqs, e.2.keyOk = true) : s.checkKeys = s := by
  have none_ : (s.reqs.filter fun e => !e.2.keyOk) = [] :=
    List.filter_eq_nil_iff.2 fun e he => by rw [good e he]; decide
  rw [State.checkKeys, none_]
  rfl

/-- The event of a pause whose time has run out (Table 10.8). -/
def ttlEvent (r : ReqRec) (i : Nat) : Cqe :=
  { handle := i + (r.gen <<< 16), status := 5, kind := 2, opcode := r.opcode, entry := true }

theorem exec_ttlCheck {s : State} (good : ∀ e ∈ s.reqs, e.2.keyOk = true) : exec .ttlCheck s =
    .next (((s.reqs.filter fun e => e.2.expired s.time).map fun e => e.1).foldl (fun s i => s.expire i) s) := by
  show execTtlCheck s = _
  rw [execTtlCheck, State.checkKeys_good good]

/-- A pause that runs out: the request is ABSENT, and its function is told. -/
theorem State.expire_effect {s : State} {i : Nat} (key : (s.req i).keyOk = true) (loose : (s.req i).slot = noSlot)
    (tell : CanTell s (s.req i).qp) :
    (s.expire i).req i = (s.req i).pageless.absent ∧ EntryOnly s (s.expire i) i ∧
    Wrote s (s.expire i) (s.req i).qp (ttlEvent (s.req i) i) ∧
    (s.expire i).serveOf (s.req i).bolt = { s.serveOf (s.req i).bolt with
      dropRequests := satAdd 16 (s.serveOf (s.req i).bolt).dropRequests 1 } := by
  obtain ⟨entry, only, beside, serve⟩ := State.toAbsent_loose loose
  have told : (s.req i).pageless.absent.qp = (s.req i).qp ∧ (s.req i).pageless.absent.gen = (s.req i).gen ∧
      (s.req i).pageless.absent.opcode = (s.req i).opcode := by
    obtain ⟨k, eq⟩ := (s.req i).pageless.setKey_eq 0 4 rqAbsent
    rw [ReqRec.absent, ReqRec.setSt, eq]
    exact ⟨rfl, rfl, rfl⟩
  obtain ⟨qp, gen, opcode⟩ := told
  have run : s.expire i = (s.toAbsent i).complete (s.req i).qp (ttlEvent (s.req i) i) := by
    rw [State.expire, State.useReq, if_pos key]
    simp only [entry, ReqRec.handle, qp, gen, opcode]
    rfl
  have event := State.complete_written (c := ttlEvent (s.req i) i) (canTell_of_same tell beside.qps beside.funcs) nofun
  rw [run]
  exact ⟨(event.req_kept rfl i).trans entry, only.trans (event.entryOnly_kept rfl i), event.wrote beside.qps beside.hostMem,
    (event.serveOf _).trans serve⟩

/-! ## INPUTS_READ (R269, R290, R300, R303, R305) -/

/-- The tokens of a prompt as its format has them. -/
def givenTokens (e : EpochRec) (k : Intake) (prompt : List Byte) : List Nat :=
  if k.inFmt = 0 then tokenize e.tokenShard prompt else words4 prompt

theorem promptTokens_eq (e : EpochRec) (k : Intake) (prompt : List Byte) : promptTokens e k prompt =
    if k.inFmt ≠ 0 → ∀ w ∈ words4 prompt, w < 2 ^ 18 ∧ w < e.serve.vocab then some (givenTokens e k prompt) else none := by
  rw [promptTokens, givenTokens]
  by_cases text : k.inFmt = 0
  · simp only [text, if_true, ne_eq, not_true_eq_false, false_implies]
  · simp only [text, if_false, ne_eq, not_false_eq_true, true_implies, List.all_eq_true, Bool.and_eq_true, decide_eq_true_eq]

section inputs

variable {e : EpochRec} {r : ReqRec} {k : Intake} {prompt sampling grammar : List Byte}

/-- Inputs in range stand with the request. -/
theorem readIntake_of_ok (ok : InputsOk e r k (givenTokens e k prompt) sampling grammar) :
    readIntake e r k prompt sampling grammar =
      some { k with read := true, prompt := givenTokens e k prompt, sampling := sampling, grammar := grammar } := by
  obtain ⟨valid, length, context, sample, tables⟩ := ok
  have ids : k.inFmt ≠ 0 → ∀ w ∈ words4 prompt, w < 2 ^ 18 ∧ w < e.serve.vocab := fun given => by
    have words := valid given
    rwa [givenTokens, if_neg given] at words
  rw [readIntake, promptTokens_eq, if_pos ids]
  refine if_pos ?_
  rw [Bool.and_eq_true, Bool.and_eq_true, Bool.and_eq_true, Bool.or_eq_true, Bool.or_eq_true, Bool.and_eq_true]
  exact ⟨⟨⟨decide_eq_true length, context.imp decide_eq_true decide_eq_true⟩, sample⟩,
    tables.imp_left fun none_ => ⟨List.isEmpty_iff.2 none_.1, decide_eq_true none_.2⟩⟩

/-- Inputs out of range are refused. -/
theorem readIntake_of_not_ok (bad : ¬ InputsOk e r k (givenTokens e k prompt) sampling grammar) :
    readIntake e r k prompt sampling grammar = none := by
  rw [readIntake, promptTokens_eq]
  by_cases ids : k.inFmt ≠ 0 → ∀ w ∈ words4 prompt, w < 2 ^ 18 ∧ w < e.serve.vocab
  · rw [if_pos ids]
    refine if_neg fun passed => bad ?_
    rw [Bool.and_eq_true, Bool.and_eq_true, Bool.and_eq_true, Bool.or_eq_true, Bool.or_eq_true, Bool.and_eq_true] at passed
    obtain ⟨⟨⟨length, context⟩, sample⟩, tables⟩ := passed
    refine ⟨fun given => ?_, of_decide_eq_true length, context.imp of_decide_eq_true of_decide_eq_true, sample,
      tables.imp_left fun none_ => ⟨List.isEmpty_iff.1 none_.1, of_decide_eq_true none_.2⟩⟩
    rw [givenTokens, if_neg given]
    exact ids given
  · rw [if_neg ids]

end inputs

end Sys2Proof.Machine
end

section
namespace Sys2Proof.Machine

open Sys2Proof

/-! PROOFS. ADMISSION_DECISION on a bolt with one request (R240, R269, R289, R290, R293, R357). -/

/-! ## The three passes of a decision point (R290) -/

/-- The requests that are tested again: deferred ones and those the harness paused (R289, R290). -/
def State.retested (s : State) (i : Nat) : Bool :=
  (s.req i).deferred || ((s.req i).auto && (decide ((s.req i).st = rqHeld) || decide ((s.req i).st = rqParked) ||
    decide ((s.req i).st = rqAbsent)))

/-- Deferred requests whose deadline has been reached. -/
def State.late (s : State) (i : Nat) : Bool :=
  (s.req i).deferred && decide ((s.req i).deadline ≠ 0) && decide ((s.req i).deadline ≤ s.time)

/-- The second pass: deferred and auto-paused requests, in their order. -/
def State.retestAll (s : State) (b : Nat) : State :=
  (orderBy (fun i j => retestBefore (s.req i) (s.req j)) ((s.boltReqs b).filter fun i => s.retested i)).foldl (fun s i => s.retest i) s

/-- A descriptor of an entry whose inputs have been read. -/
def State.newIntake (s : State) (i : Nat) : Option (Nat × Intake) :=
  ((s.req i).intake.filter fun k => k.read).map fun k => (i, k)

/-- The third pass: descriptors whose inputs have been read, in the order of their acceptance. -/
def State.testNew (s : State) (b : Nat) : State :=
  (orderBy (fun (x y : Nat × Intake) => decide (x.2.tAccept < y.2.tAccept)) ((s.boltReqs b).filterMap s.newIntake)).foldl
    (fun s x => s.firstTest x.1 x.2) s

theorem State.admission_eq (s : State) (b : Nat) :
    s.admission b = (((s.checkKeys.switchPlaced b).rejectLate b).retestAll b).testNew b := rfl

theorem orderBy_nil {α : Type} (lt : α → α → Bool) : orderBy lt [] = [] := rfl
theorem orderBy_single {α : Type} (lt : α → α → Bool) (a : α) : orderBy lt [a] = [a] := rfl

section passes

variable {s : State} {b i : Nat}

theorem State.rejectLate_none (none_ : ∀ j ∈ s.boltReqs b, s.late j = false) : s.rejectLate b = s := by
  have empty : (s.boltReqs b).filter (fun i => s.late i) = [] :=
    List.filter_eq_nil_iff.2 fun j hj => by rw [none_ j hj]; decide
  show ((s.boltReqs b).filter fun i => s.late i).foldl _ s = s
  rw [empty]
  rfl

theorem State.rejectLate_one (only : s.boltReqs b = [i]) (key : (s.req i).keyOk = true) (late : s.late i = true) :
    s.rejectLate b = (s.countReject b ssRejTime).endReq i rqRejected ssRejTime := by
  show ((s.boltReqs b).filter fun i => s.late i).foldl _ s = _
  rw [only, List.filter_cons_of_pos late, List.filter_nil, List.foldl_cons, List.foldl_nil, State.useReq, if_pos key]

theorem State.retestAll_none (none_ : ∀ j ∈ s.boltReqs b, s.retested j = false) : s.retestAll b = s := by
  have empty : (s.boltReqs b).filter (fun i => s.retested i) = [] :=
    List.filter_eq_nil_iff.2 fun j hj => by rw [none_ j hj]; decide
  rw [State.retestAll, empty]
  rfl

theorem State.retestAll_one (only : s.boltReqs b = [i]) (again : s.retested i = true) : s.retestAll b = s.retest i := by
  rw [State.retestAll, only, List.filter_cons_of_pos again, List.filter_nil, orderBy_single]
  rfl

theorem State.testNew_none (none_ : ∀ j ∈ s.boltReqs b, (s.req j).intake = none) : s.testNew b = s := by
  have empty : (s.boltReqs b).filterMap s.newIntake = [] :=
    List.filterMap_eq_nil_iff.2 fun j hj => by rw [State.newIntake, none_ j hj]; rfl
  rw [State.testNew, empty]
  rfl

theorem State.testNew_one {k : Intake} (only : s.boltReqs b = [i]) (intake : (s.req i).intake = some k) (read : k.read = true) :
    s.testNew b = s.firstTest i k := by
  have found : s.newIntake i = some (i, k) := by
    rw [State.newIntake, intake, Option.filter_some_pos read, Option.map_some]
  rw [State.testNew, only, List.filterMap_cons_some found, List.filterMap_nil, orderBy_single]
  rfl

end passes

theorem exec_admissionDecision {s : State} {b : Nat} (known : b < Config.nBolts) (power : s.power.pfSeen = false) :
    exec (.admissionDecision b) s = .next (s.admission b) := by
  show onBolt b s (fun s => whenS (!s.power.pfSeen) s fun s => s.admission b) = _
  rw [onBolt, onUnit_next _ _ _ (decide_eq_true known), whenS, power]
  rfl

theorem ReqRec.deferred_notQueued {r : ReqRec} (other : r.st ≠ rqQueued) : r.deferred = false := by
  rw [ReqRec.deferred, decide_eq_false other, Bool.false_and]

theorem State.late_notQueued {s : State} {i : Nat} (other : (s.req i).st ≠ rqQueued) : s.late i = false := by
  rw [State.late, ReqRec.deferred_notQueued other, Bool.false_and, Bool.false_and]

theorem State.retested_free {s : State} {i : Nat} (free : (s.req i).st = rqFree) : s.retested i = false := by
  rw [State.retested, ReqRec.deferred_notQueued (by rw [free]; decide), free, Bool.false_or]
  exact Bool.and_false _

/-- After a power-fail nothing is admitted (R357). -/
theorem exec_admissionDecision_powerFail {s : State} {b : Nat} (known : b < Config.nBolts) (power : s.power.pfSeen = true) :
    exec (.admissionDecision b) s = .next s := by
  show onBolt b s (fun s => whenS (!s.power.pfSeen) s fun s => s.admission b) = _
  rw [onBolt, onUnit_next _ _ _ (decide_eq_true known), whenS, power]
  rfl

section oneRequest

variable {s : State} {b i : Nat} (one : OneRequest s b i)

include one

theorem oneRequest_key : (s.req i).keyOk = true := one.keys _ (State.live_mem one.live)

/-- With no bad key word and no operation on the bolt, only the passes remain. -/
theorem State.admission_one : s.admission b = ((s.rejectLate b).retestAll b).testNew b := by
  have noSwitch : s.switchPlaced b = s := by
    have none_ : ((s.bolt b).dropSynthetic fun _ => true).pendingSwitch = none := by
      have ops : ((s.bolt b).dropSynthetic fun _ => true).ops = [] := by
        rw [BoltRec.dropSynthetic]
        exact List.foldlRecOn (motive := fun r : BoltRec => r.ops = []) _ _ one.noOps fun r hr _ _ => hr
      rw [BoltRec.pendingSwitch, ops]
      rfl
    rw [State.switchPlaced]
    simp only [none_]
  rw [State.admission_eq, State.checkKeys_good one.keys, noSwitch]

end oneRequest

/-! ## Entries with other keys -/

/-- `r'` is `r` with another key word, of the same bolt. -/
structure Rekeyed (r r' : ReqRec) : Prop where
  eq : r' = { r with key := r'.key, keyInv := r'.keyInv }
  bolt : r'.bolt = r.bolt

theorem Rekeyed.trans {r r' r'' : ReqRec} (h : Rekeyed r r') (h' : Rekeyed r' r'') : Rekeyed r r'' :=
  ⟨by rw [h'.eq, h.eq], h'.bolt.trans h.bolt⟩

theorem Rekeyed.setKey (r : ReqRec) (lo n v : Nat) (above : 7 ≤ lo) (fits : lo + n ≤ 64) : Rekeyed r (r.setKey lo n v) :=
  ⟨rfl, r.setKey_bolt lo n v above fits⟩

theorem Rekeyed.setSt (r : ReqRec) (v : Nat) : Rekeyed r (r.setSt v) := ⟨rfl, r.setSt_bolt v⟩

/-- Retrieval parameters alone change as a GENERATE is admitted (R226). -/
theorem State.admitRet_eq (s : State) (r : ReqRec) : ∃ t n w x d l, s.admitRet r =
    { r with retT := t, retN := n, retS := w, retW := x, retD := d, retGiven := l } := by
  rw [State.admitRet]
  split
  · exact ⟨r.retT, r.retN, r.retS, r.retW, r.retD, r.retGiven, rfl⟩
  · exact ⟨_, _, _, _, _, _, rfl⟩

/-! ## A turn opens (R269, R290, Table 11.1) -/

/-- The entry of a new request, before its key word is filled. -/
def State.newEntry (s : State) (r : ReqRec) (k : Intake) (admitted : Bool) : ReqRec :=
  let r := { r with
    gen := r.gen % 65535 + 1, func := k.func, seed := k.seed, retGiven := [k.retT, k.retN, k.retS, k.retW] }
  if admitted then s.admitRet r else r

/-- The fields of the key word that a GENERATE alone sets. -/
def ReqRec.newKeys (r : ReqRec) (k : Intake) (e : EpochRec) : ReqRec :=
  ((r.setKey 20 16 e.num).setKey 36 9 (match k.adapter with
    | some x => x + 256
    | none => 0)).setKey 10 10 noSlot

/-- Those that every turn sets. -/
def ReqRec.turnKeys (r : ReqRec) (k : Intake) : ReqRec :=
  (((r.setKey 7 3 k.priority).setKey 45 1 (boolNat k.keep)).setKey 46 1 (boolNat k.defer)).setKey 47 1 (boolNat k.idsOnly)

theorem Rekeyed.newKeys (r : ReqRec) (k : Intake) (e : EpochRec) : Rekeyed r (r.newKeys k e) :=
  ((Rekeyed.setKey r 20 16 _ (by decide) (by decide)).trans (.setKey _ 36 9 _ (by decide) (by decide))).trans
    (.setKey _ 10 10 _ (by decide) (by decide))

theorem Rekeyed.turnKeys (r : ReqRec) (k : Intake) : Rekeyed r (r.turnKeys k) :=
  (((Rekeyed.setKey r 7 3 _ (by decide) (by decide)).trans (.setKey _ 45 1 _ (by decide) (by decide))).trans
    (.setKey _ 46 1 _ (by decide) (by decide))).trans (.setKey _ 47 1 _ (by decide) (by decide))

theorem State.newEntry_fields (s : State) (r : ReqRec) (k : Intake) (admitted : Bool) :
    (s.newEntry r k admitted).gen = r.gen % 65535 + 1 ∧ (s.newEntry r k admitted).func = k.func ∧
    (s.newEntry r k admitted).bolt = r.bolt := by
  cases admitted
  · exact ⟨rfl, rfl, rfl⟩
  · obtain ⟨t, n, w, x, d, l, eq⟩ := s.admitRet_eq { r with
      gen := r.gen % 65535 + 1, func := k.func, seed := k.seed, retGiven := [k.retT, k.retN, k.retS, k.retW] }
    have run : s.newEntry r k true = _ := eq
    rw [run]
    exact ⟨rfl, rfl, rfl⟩

/-- What stands in the entry of request `r` of a turn that `k` has opened. -/
structure TurnOf (k : Intake) (admitted : Bool) (gen func : Nat) (r : ReqRec) : Prop where
  st : r.st = rqQueued
  admitted : r.admitted = admitted
  gen : r.gen = gen
  func : r.func = func
  intake : r.intake = none
  prompt : r.prompt = k.prompt
  qp : r.qp = k.fin.q
  tag : r.tag = k.fin.tag
  opcode : r.opcode = k.fin.opcode
  maxTokens : r.maxTokens = k.maxTokens
  outAddr : r.outAddr = k.outAddr

/-- The entry as its turn opens, its key word filled but for the state. -/
def ReqRec.opened (r : ReqRec) (k : Intake) (admitted : Bool) (pages : Nat) : ReqRec :=
  { r.setSt rqQueued with
    qp := k.fin.q, tag := k.fin.tag, opcode := k.fin.opcode, finN := some k.fin.n, turn := (r.turn + 1) % 2 ^ 32
    turnTokens := 0, maxTokens := k.maxTokens, textBytes := 0, warned := 0, prompt := k.prompt
    grammar := k.grammar, gstate := 0, gstack := [], mask := none, noMask := false, sampling := k.sampling, withheld := []
    ttftTarget := k.ttft, tbtTarget := k.tbt, deadline := absDeadline k.tAccept k.deadlineUs, ttl := k.ttl, expiry := 0
    tAccept := k.tAccept, outAddr := k.outAddr, outLen := k.outLen, ttftUs := 0, tbtAvg := 0, tbtMax := 0, tbtViol := 0
    ttftViol := false, intervals := 0, fresh := true, openTurn := true, endReason := 0, pausePark := 0, pauseTtl := 0
    undelivered := [], headDue := false, doneDue := false, intake := none, parking := false, admitted := admitted
    reservedPages := if admitted then pages else r.reservedPages }

theorem ReqRec.opened_turnOf (r : ReqRec) (k : Intake) (admitted : Bool) (pages : Nat) :
    TurnOf k admitted r.gen r.func (r.opened k admitted pages) := by
  have st : (r.opened k admitted pages).st = rqQueued := (ReqRec.st_of_key rfl).trans (r.setSt_st rqQueued)
  have eq := (Rekeyed.setSt r rqQueued).eq
  refine ⟨st, rfl, ?_, ?_, rfl, rfl, rfl, rfl, rfl, rfl, rfl⟩
  · rw [ReqRec.opened, eq]
  · rw [ReqRec.opened, eq]

/-- A decision counted, in SV_COUNT of the bolt (R293). -/
def State.countOpened (s : State) (b : Nat) (admitted : Bool) : State := if admitted then s.countAdmit b else s.countDefer b

/-- The low mark of free entries follows the table (R286). -/
def State.lowered (s : State) : State := { s with lowFree := min s.lowFree s.freeEntries }

/-- A turn of a new request opens: its entry, the low mark of free entries and a counter change. -/
theorem State.openTurn_new {s : State} {i : Nat} (k : Intake) (e : EpochRec) (admitted : Bool) (pages : Nat)
    (free : (s.req i).st = rqFree) : ∃ r, TurnOf k admitted ((s.req i).gen % 65535 + 1) k.func r ∧
      s.openTurn i k e admitted pages = (s.setReq i r).lowered.countOpened (s.req i).bolt admitted := by
  obtain ⟨gen, func, bolt⟩ := s.newEntry_fields (s.req i) k admitted
  have run : s.openTurn i k e admitted pages = (s.setReq i
      ((((s.newEntry (s.req i) k admitted).newKeys k e).turnKeys k).opened k admitted pages)).lowered.countOpened
      (((s.newEntry (s.req i) k admitted).newKeys k e).turnKeys k).bolt admitted := by
    rw [State.openTurn, if_neg (not_not_intro free)]
    rfl
  have keys := (Rekeyed.newKeys (s.newEntry (s.req i) k admitted) k e).trans (.turnKeys _ k)
  generalize ((s.newEntry (s.req i) k admitted).newKeys k e).turnKeys k = r at run keys
  have opened := r.opened_turnOf k admitted pages
  rw [show r.gen = (s.req i).gen % 65535 + 1 by rw [keys.eq]; exact gen, show r.func = k.func by rw [keys.eq]; exact func] at opened
  rw [keys.bolt, bolt] at run
  exact ⟨_, opened, run⟩

theorem State.countOpened_reqs (s : State) (b : Nat) (admitted : Bool) : (s.countOpened b admitted).reqs = s.reqs := by
  cases admitted <;> rfl

theorem State.countOpened_beside (s : State) (b : Nat) (admitted : Bool) : Beside s (s.countOpened b admitted) := by
  cases admitted <;> rfl

theorem State.countOpened_serveOf (s : State) (b : Nat) (admitted : Bool) : (s.countOpened b admitted).serveOf b =
    if admitted then { s.serveOf b with admitted := satAdd 16 (s.serveOf b).admitted 1 }
    else { s.serveOf b with deferred := satAdd 16 (s.serveOf b).deferred 1 } := by
  cases admitted
  · show (s.countDefer b).serveOf b = _
    rw [State.countDefer, State.modServeOf_serveOf_self]
    rfl
  · show (s.countAdmit b).serveOf b = _
    rw [State.countAdmit, State.modServeOf_serveOf_self]
    rfl

/-- The notice that a GENERATE has taken its entry (R271). -/
def noticeOf (k : Intake) (i gen status : Nat) : Cqe :=
  { tag := k.fin.tag, handle := i + 65536 * gen, status := status, kind := 1, opcode := k.fin.opcode, entry := true }

section opens

variable {s : State} {i : Nat} {k : Intake} (free : (s.req i).st = rqFree)

include free

/-- A new request is QUEUED, counted, and its host told (R271, R290, R293). -/
theorem State.openTurn_noticed (tell : CanTell s k.fin.q) (e : EpochRec) (admitted : Bool) (pages status : Nat) :
    let t := (s.openTurn i k e admitted pages).notice i status
    TurnOf k admitted ((s.req i).gen % 65535 + 1) k.func (t.req i) ∧ EntryOnly s t i ∧
    Wrote s t k.fin.q (noticeOf k i ((s.req i).gen % 65535 + 1) status) ∧
    t.serveOf (s.req i).bolt = if admitted then
        { s.serveOf (s.req i).bolt with admitted := satAdd 16 (s.serveOf (s.req i).bolt).admitted 1 }
      else { s.serveOf (s.req i).bolt with deferred := satAdd 16 (s.serveOf (s.req i).bolt).deferred 1 } := by
  intro t
  obtain ⟨r, turn, opened⟩ := State.openTurn_new k e admitted pages free
  have reqs : (s.openTurn i k e admitted pages).reqs = (s.setReq i r).reqs := by
    rw [opened, State.countOpened_reqs]
    rfl
  have entry : (s.openTurn i k e admitted pages).req i = r :=
    (congrArg (Tab.get ({} : ReqRec) · i) reqs).trans (State.setReq_req_self s i r)
  have beside : Beside s (s.openTurn i k e admitted pages) := by
    rw [opened]
    exact ((Beside.setReq s i r).trans (rfl : Beside _ (s.setReq i r).lowered)).trans (State.countOpened_beside _ _ _)
  have serve := State.countOpened_serveOf (s.setReq i r).lowered (s.req i).bolt admitted
  rw [← opened] at serve
  have run : t = (s.openTurn i k e admitted pages).complete k.fin.q (noticeOf k i ((s.req i).gen % 65535 + 1) status) := by
    show (s.openTurn i k e admitted pages).notice i status = _
    rw [State.notice]
    simp only [entry, ReqRec.handle_eq, turn.gen, turn.qp, turn.tag, turn.opcode]
    rfl
  have told := State.complete_written (c := noticeOf k i ((s.req i).gen % 65535 + 1) status)
    (canTell_of_same tell beside.qps beside.funcs) nofun
  rw [← run] at told
  refine ⟨?_, ?_, told.wrote beside.qps beside.hostMem, (told.serveOf _).trans serve⟩
  · rw [told.req_kept rfl, entry]
    exact turn
  · exact ((EntryOnly.setReq s i r).trans (.of_reqs reqs)).trans (told.entryOnly_kept rfl i)

end opens

theorem AtQueues.serveOf {s t : State} (h : AtQueues s t) (b : Nat) : t.serveOf b = s.serveOf b := by
  have serve : t.serve = s.serve := by rw [h]
  rw [State.serveOf, State.serveOf, serve]

/-- A refused descriptor ends without a turn: a set-aside entry is given back, any other keeps its request (R269, R290). -/
theorem State.dropIntake_effect {s : State} {i : Nat} {k : Intake} (intake : (s.req i).intake = some k) (tell : CanTell s k.fin.q)
    (status : Nat) :
    (s.dropIntake i status).req i =
      (if (s.req i).st = rqFree then { ({} : ReqRec) with gen := (s.req i).gen } else { s.req i with intake := none }) ∧
    EntryOnly s (s.dropIntake i status) i ∧ Told s (s.dropIntake i status) k.fin status [] ∧
    AtQueues s (s.dropIntake i status) := by
  rw [State.dropIntake, intake]
  dsimp only
  generalize (if (s.req i).st = rqFree then _ else _ : ReqRec) = r
  have final := State.complete_written (s := s.setReq i r) (q := k.fin.q) (c := {
    tag := k.fin.tag, handle := k.fin.handle, status := status, kind := 0, opcode := k.fin.opcode, endReason := 0
    result := [], numericWarn := false, frees := none, finOf := some (k.fin.q, k.fin.n) })
    (canTell_of_same tell rfl rfl) (by rintro x ⟨⟩; rfl)
  exact ⟨(final.req_kept rfl i).trans (State.setReq_req_self s i r), (EntryOnly.setReq s i r).trans (final.entryOnly_kept rfl i),
    final.told rfl rfl rfl, (s.setReq_atQueues i r).trans final.frame⟩

/-! ## The first test of a new request (R289, R290, R293) -/

theorem State.bindNow_free {s : State} {i : Nat} (free : (s.req i).st = rqFree) : s.bindNow i = s := if_pos (.inl free)

section firstTest

variable {s : State} {i : Nat} {k : Intake} {e : EpochRec} (key : (s.req i).keyOk = true) (free : (s.req i).st = rqFree)
  (bind : s.bindEpoch (s.req i).bolt = some e) (adapter : s.adapterOk (s.req i).bolt e.modelId k.adapter = true)
  (vocab : ∀ t ∈ k.prompt, t < e.serve.vocab)

include key free bind adapter vocab

/-- A GENERATE whose adapter and IDs fit its epoch is tested for memory and time. -/
theorem State.firstTest_new : s.firstTest i k =
    if (s.memOk (s.candOfIntake i k e) && s.timeOk (s.candOfIntake i k e) || k.defer) = true then
      (s.openTurn i k e (s.memOk (s.candOfIntake i k e) && s.timeOk (s.candOfIntake i k e)) (s.pagesOf (s.candOfIntake i k e))).notice i
        (if (s.memOk (s.candOfIntake i k e) && s.timeOk (s.candOfIntake i k e)) = true then ssOk else ssDeferred)
    else (s.countReject (s.req i).bolt (if s.memOk (s.candOfIntake i k e) = true then ssRejTime else ssRejMemory)).dropIntake i
      (if s.memOk (s.candOfIntake i k e) = true then ssRejTime else ssRejMemory) := by
  have fits : (s.adapterOk (s.req i).bolt e.modelId k.adapter && k.prompt.all fun t => decide (t < e.serve.vocab)) = true := by
    rw [adapter, Bool.true_and, List.all_eq_true]
    exact fun t ht => decide_eq_true (vocab t ht)
  simp only [State.firstTest, State.useReq, key, State.bindNow_free free, free, decide_true, bind, fits, if_true]

end firstTest

theorem State.countReject_serveOf (s : State) (b status : Nat) : (s.countReject b status).serveOf b =
    if status = ssRejMemory then { s.serveOf b with rejMemory := satAdd 16 (s.serveOf b).rejMemory 1 }
    else { s.serveOf b with rejTime := satAdd 16 (s.serveOf b).rejTime 1 } := State.modServeOf_serveOf_self _ _ _

section newRequest

variable {s : State} {b i : Nat} {k : Intake} {e : EpochRec} (one : OneRequest s b i)

include one

/-- The passes over requests that stand find nothing in an entry that is set aside. -/
theorem State.admission_new (free : (s.req i).st = rqFree) (intake : (s.req i).intake = some k) (read : k.read = true) :
    s.admission b = s.firstTest i k := by
  have quiet : ∀ j ∈ s.boltReqs b, s.late j = false ∧ s.retested j = false := by
    intro j hj
    rw [one.only] at hj
    obtain rfl := List.mem_singleton.1 hj
    exact ⟨State.late_notQueued (by rw [free]; decide), State.retested_free free⟩
  rw [State.admission_one one, State.rejectLate_none fun j hj => (quiet j hj).1, State.retestAll_none fun j hj => (quiet j hj).2,
    State.testNew_one one.only intake read]

variable (free : (s.req i).st = rqFree) (intake : (s.req i).intake = some k) (read : k.read = true)
  (bind : s.bindEpoch b = some e) (adapter : s.adapterOk b e.modelId k.adapter = true) (vocab : ∀ t ∈ k.prompt, t < e.serve.vocab)
  (tell : CanTell s k.fin.q)

include free intake read bind adapter vocab tell

/-- A GENERATE that passes both tests, or may be deferred, takes its entry (R289, R290). -/
theorem admission_opens (ok : Bool) (tests : (s.memOk (s.candOfIntake i k e) && s.timeOk (s.candOfIntake i k e)) = ok)
    (opens : ok = true ∨ k.defer = true) :
    TurnOf k ok ((s.req i).gen % 65535 + 1) k.func ((s.admission b).req i) ∧ EntryOnly s (s.admission b) i ∧
    Wrote s (s.admission b) k.fin.q (noticeOf k i ((s.req i).gen % 65535 + 1) (if ok = true then ssOk else ssDeferred)) ∧
    (s.admission b).serveOf b = if ok = true then { s.serveOf b with admitted := satAdd 16 (s.serveOf b).admitted 1 }
      else { s.serveOf b with deferred := satAdd 16 (s.serveOf b).deferred 1 } := by
  have taken : (ok || k.defer) = true := by rw [Bool.or_eq_true]; exact opens
  have own := one.own
  rw [State.admission_new one free intake read, State.firstTest_new (oneRequest_key one) free (by rw [own]; exact bind)
    (by rw [own]; exact adapter) vocab, tests, if_pos taken]
  have opened := State.openTurn_noticed free tell e ok (s.pagesOf (s.candOfIntake i k e)) (if ok = true then ssOk else ssDeferred)
  rw [own] at opened
  exact opened

/-- A GENERATE that fails a test and may not be deferred is refused (R293). -/
theorem admission_rejects (fails : (s.memOk (s.candOfIntake i k e) && s.timeOk (s.candOfIntake i k e)) = false)
    (noDefer : k.defer = false) :
    FreesEntry s (s.admission b) i ∧ Told s (s.admission b) k.fin (if s.memOk (s.candOfIntake i k e) = true then 2 else 1) [] ∧
    (s.admission b).serveOf b = if s.memOk (s.candOfIntake i k e) = true then
        { s.serveOf b with rejTime := satAdd 16 (s.serveOf b).rejTime 1 }
      else { s.serveOf b with rejMemory := satAdd 16 (s.serveOf b).rejMemory 1 } := by
  have refused : ¬ (false || k.defer) = true := by rw [noDefer]; decide
  have own := one.own
  rw [State.admission_new one free intake read, State.firstTest_new (oneRequest_key one) free (by rw [own]; exact bind)
    (by rw [own]; exact adapter) vocab, fails, if_neg refused, own]
  generalize hm : s.memOk (s.candOfIntake i k e) = mem
  obtain ⟨entry, only, told, frame⟩ := State.dropIntake_effect
    (s := s.countReject b (if mem = true then ssRejTime else ssRejMemory)) intake (canTell_of_same tell rfl rfl)
    (if mem = true then ssRejTime else ssRejMemory)
  have freed := entry.trans (if_pos free)
  have counted : EntryOnly s (s.countReject b (if mem = true then ssRejTime else ssRejMemory)) i := .of_reqs rfl
  refine ⟨⟨freed, (counted.trans only).others⟩, told, ?_⟩
  rw [frame.serveOf, State.countReject_serveOf]
  cases mem <;> rfl

end newRequest

/-! ## Requests that are tested again (R289, R290) -/

/-- A deferred GENERATE alone is bound anew (R240). -/
theorem State.rebindDeferred_notQueued {s : State} {i : Nat} (other : (s.req i).st ≠ rqQueued) : s.rebindDeferred i = s := by
  rw [State.rebindDeferred]
  split
  · exact if_neg fun h => other h.1
  · rfl

/-- The entry of a request that passes its re-test. -/
def ReqRec.readmitted (r : ReqRec) (pages : Nat) : ReqRec :=
  { (r.setKey 48 1 0).setSt rqQueued with admitted := true, reservedPages := pages, expiry := 0, parking := false }

theorem ReqRec.readmitted_fields (r : ReqRec) (pages : Nat) : let x := r.readmitted pages
    x.st = rqQueued ∧ x.auto = false ∧ x.admitted = true ∧ x.expiry = 0 ∧ x.log = r.log ∧ x.intake = r.intake := by
  intro x
  have key : x.key = ((r.setKey 48 1 0).setSt rqQueued).key := rfl
  have st : x.st = rqQueued := (ReqRec.st_of_key key).trans ((r.setKey 48 1 0).setSt_st rqQueued)
  have auto : x.auto = false :=
    calc x.auto = ((r.setKey 48 1 0).setSt rqQueued).auto := ReqRec.auto_of_key key
      _ = (r.setKey 48 1 0).auto := ReqRec.setSt_auto _ _
      _ = false := by rw [ReqRec.auto_eq, ReqRec.setKey_kf_same _ _ _ _ (by decide)]; rfl
  have keys := (Rekeyed.setKey r 48 1 0 (by decide) (by decide)).trans (.setSt _ rqQueued)
  refine ⟨st, auto, rfl, rfl, ?_, ?_⟩
  · show (r.readmitted pages).log = r.log
    rw [ReqRec.readmitted, keys.eq]
  · show (r.readmitted pages).intake = r.intake
    rw [ReqRec.readmitted, keys.eq]

/-- A request that passes its re-test is QUEUED, and counted. -/
theorem State.admitReq_effect (s : State) (i pages : Nat) : ∃ r : ReqRec, r.log = (s.req i).log ∧ r.intake = (s.req i).intake ∧
    (s.admitReq i pages).req i = r.readmitted pages ∧ EntryOnly s (s.admitReq i pages) i ∧
    (s.admitReq i pages).serveOf (s.req i).bolt =
      { s.serveOf (s.req i).bolt with admitted := satAdd 16 (s.serveOf (s.req i).bolt).admitted 1 } := by
  obtain ⟨t, n, w, x, d, l, eq⟩ := s.admitRet_eq (s.req i)
  have fields : (s.admitRet (s.req i)).log = (s.req i).log ∧ (s.admitRet (s.req i)).intake = (s.req i).intake ∧
      (s.admitRet (s.req i)).bolt = (s.req i).bolt := by
    rw [eq]
    exact ⟨rfl, rfl, rfl⟩
  obtain ⟨log, intake, bolt⟩ := fields
  have run : s.admitReq i pages = (s.setReq i ((s.admitRet (s.req i)).readmitted pages)).countAdmit (s.admitRet (s.req i)).bolt := rfl
  rw [run, bolt]
  generalize s.admitRet (s.req i) = r at log intake
  have entry : ((s.setReq i (r.readmitted pages)).countAdmit (s.req i).bolt).req i = r.readmitted pages := by
    rw [State.countAdmit, State.modServeOf_unit_req, State.setReq_req_self]
  have counted : EntryOnly (s.setReq i (r.readmitted pages)) ((s.setReq i (r.readmitted pages)).countAdmit (s.req i).bolt) i :=
    .of_reqs (State.modServeOf_reqs _ _ _)
  refine ⟨r, log, intake, entry, (EntryOnly.setReq s i _).trans counted, ?_⟩
  rw [State.countAdmit, State.modServeOf_serveOf_self, State.setReq_unit_serveOf]

section again

variable {s : State} {b i : Nat} (one : OneRequest s b i)

include one

/-- An auto-paused request that passes both tests is QUEUED again (R289). -/
theorem admission_resumes (noIntake : (s.req i).intake = none) (auto : (s.req i).auto = true)
    (paused : (s.req i).st = rqHeld ∨ (s.req i).st = rqParked ∨ (s.req i).st = rqAbsent) (bound : (s.req i).rebound = false)
    (open_ : s.adapterClosed (s.req i) = false) (memory : s.memOk (s.candOfReq i) = true) (time : s.timeOk (s.candOfReq i) = true) :
    ∃ (r : ReqRec) (pages : Nat), r.log = (s.req i).log ∧ (s.admission b).req i = r.readmitted pages ∧ EntryOnly s (s.admission b) i ∧
      (s.admission b).serveOf b = { s.serveOf b with admitted := satAdd 16 (s.serveOf b).admitted 1 } := by
  have notQueued : (s.req i).st ≠ rqQueued := by
    rcases paused with st | st | st <;> rw [st] <;> decide
  have again : s.retested i = true := by
    simp only [State.retested, auto, Bool.true_and, Bool.or_eq_true, decide_eq_true_eq]
    exact .inr (or_assoc.2 paused)
  have bindsOn : s.adapterGone (s.req i) = false := by
    rw [State.adapterGone, bound]
    split <;> simp
  have retest : s.retest i = s.admitReq i (s.pagesOf (s.candOfReq i)) := by
    rw [State.retest, State.useReq, if_pos (oneRequest_key one)]
    simp only [State.rebindDeferred_notQueued notQueued, auto, bindsOn, open_, memory, time, Bool.and_false, Bool.not_true,
      Bool.false_and, Bool.false_eq_true, Bool.not_false, Bool.and_self, if_false, if_true]
  obtain ⟨r, log, intake, entry, only, serve⟩ := s.admitReq_effect i (s.pagesOf (s.candOfReq i))
  have late : ∀ j ∈ s.boltReqs b, s.late j = false := by
    rw [one.only]
    intro j hj
    rw [List.mem_singleton.1 hj]
    exact State.late_notQueued notQueued
  have nothingNew : ∀ j ∈ (s.admitReq i (s.pagesOf (s.candOfReq i))).boltReqs b,
      ((s.admitReq i (s.pagesOf (s.candOfReq i))).req j).intake = none := by
    intro j hj
    rw [only.boltReqs one.only j hj, entry]
    exact ((r.readmitted_fields _).2.2.2.2.2.trans intake).trans noIntake
  rw [one.own] at serve
  rw [State.admission_one one, State.rejectLate_none late, State.retestAll_one one.only again, retest, State.testNew_none nothingNew]
  exact ⟨r, _, log, entry, only, serve⟩

/-- A deferred request whose deadline is reached ends (R290). -/
theorem admission_expires (loose : (s.req i).slot = noSlot) (noIntake : (s.req i).intake = none) (queued : (s.req i).st = rqQueued)
    (deferred : (s.req i).admitted = false) (deadline : (s.req i).deadline ≠ 0) (reached : (s.req i).deadline ≤ s.time)
    (tell : CanTell s (s.req i).qp) :
    FreesEntry s (s.admission b) i ∧ (s.admission b).serveOf b = { s.serveOf b with rejTime := satAdd 16 (s.serveOf b).rejTime 1 } := by
  have late : s.late i = true := by
    simp only [State.late, ReqRec.deferred, queued, deferred, decide_true, Bool.not_false, Bool.true_and, Bool.and_eq_true,
      decide_eq_true_eq]
    exact ⟨deadline, reached⟩
  have running : (s.req i).st < 8 := by rw [queued]; decide
  obtain ⟨freed, only, serve⟩ := State.endReq_frees (s := s.countReject b ssRejTime) running one.live loose noIntake
    (canTell_of_same tell rfl rfl) rqRejected ssRejTime
  have only' : EntryOnly s ((s.countReject b ssRejTime).endReq i rqRejected ssRejTime) i :=
    (.of_reqs rfl : EntryOnly s (s.countReject b ssRejTime) i).trans only
  have run := State.rejectLate_one one.only (oneRequest_key one) late
  rw [State.admission_one one, run]
  generalize (s.countReject b ssRejTime).endReq i rqRejected ssRejTime = t at freed only' serve
  have left : ∀ j ∈ t.boltReqs b, t.req j = { ({} : ReqRec) with gen := (s.req i).gen } := fun j hj => by
    rw [only'.boltReqs one.only j hj]
    exact freed
  rw [State.retestAll_none fun j hj => State.retested_free (by rw [left j hj]; rfl),
    State.testNew_none fun j hj => by rw [left j hj]]
  refine ⟨⟨freed, only'.others⟩, ?_⟩
  rw [State.serveOf, serve]
  exact State.countReject_serveOf s b ssRejTime

end again

end Sys2Proof.Machine
end

section
namespace Sys2Proof.Machine

open Sys2Proof

/-! PROOFS. SLOT_RANKING: slots taken by admitted requests, and the ranks of the streams (R21, R22, R294). -/

/-! ## Ranks (R294) -/

/-- The requests of a bolt that hold slots. -/
def State.holdsSlot (s : State) (i : Nat) : Bool := decide ((s.req i).slot ≠ noSlot)

/-- A slot's stream has rank `n`. -/
def State.rankSlot (s : State) (b : Nat) (x : Nat × Nat) : State :=
  s.modBolt b fun r => r.modSlot (s.req x.1).slot fun k => { k with rank := x.2 }

theorem State.rankSlots_eq (s : State) (b : Nat) : s.rankSlots b =
    ((orderBy (fun i j => (s.req i).rankKey.lt (s.req j).rankKey) ((s.boltReqs b).filter s.holdsSlot)).zipIdx).foldl
      (fun s x => s.rankSlot b x) s := rfl

/-- Two are ordered by one comparison. -/
theorem orderBy_pair {α : Type} (lt : α → α → Bool) (x y : α) : orderBy lt [x, y] = if lt y x = true then [y, x] else [x, y] := rfl

theorem State.rankSlot_slotRec (s : State) (b : Nat) (x : Nat × Nat) (n : Nat) : ((s.rankSlot b x).bolt b).slotRec n =
    if n = (s.req x.1).slot then { (s.bolt b).slotRec (s.req x.1).slot with rank := x.2 } else (s.bolt b).slotRec n := by
  rw [State.rankSlot, State.modBolt_bolt_self, BoltRec.slotRec_modSlot]

/-- The ranked slot keeps its stream. -/
theorem State.rankSlot_own {s : State} {b i k : Nat} (slot : (s.req i).slot = k) (n : Nat) :
    (((s.rankSlot b (i, n)).bolt b).slotRec k).req = ((s.bolt b).slotRec k).req ∧
    (((s.rankSlot b (i, n)).bolt b).slotRec k).rank = n ∧
    (((s.rankSlot b (i, n)).bolt b).slotRec k).progress = ((s.bolt b).slotRec k).progress ∧
    (((s.rankSlot b (i, n)).bolt b).slotRec k).waiting = ((s.bolt b).slotRec k).waiting := by
  rw [State.rankSlot_slotRec, slot, if_pos rfl]
  exact ⟨rfl, rfl, rfl, rfl⟩

section two

variable {s : State} {b i j : Nat}

/-- Two streams ranked, the first with 0. -/
theorem State.rankTwo (apart : (s.req i).slot ≠ (s.req j).slot) (first second : Nat) :
    let t := (s.rankSlot b (i, first)).rankSlot b (j, second)
    t = { s with bolts := t.bolts } ∧
    (t.bolt b).slotRec (s.req i).slot = { (s.bolt b).slotRec (s.req i).slot with rank := first } ∧
    (t.bolt b).slotRec (s.req j).slot = { (s.bolt b).slotRec (s.req j).slot with rank := second } ∧
    ∀ n, n ≠ (s.req i).slot → n ≠ (s.req j).slot → (t.bolt b).slotRec n = (s.bolt b).slotRec n := by
  intro t
  have kept : ((s.rankSlot b (i, first)).req j).slot = (s.req j).slot := rfl
  refine ⟨rfl, ?_, ?_, fun n ni nj => ?_⟩
  · rw [State.rankSlot_slotRec, kept, if_neg apart, State.rankSlot_slotRec, if_pos rfl]
  · rw [State.rankSlot_slotRec, kept, if_pos rfl, State.rankSlot_slotRec, if_neg apart.symm]
  · rw [State.rankSlot_slotRec, kept, if_neg nj, State.rankSlot_slotRec, if_neg ni]

/-- Of two slot holders the earlier in the order has rank 0. -/
theorem State.rankSlots_two (only : s.boltReqs b = [i, j]) (slotI : (s.req i).slot ≠ noSlot) (slotJ : (s.req j).slot ≠ noSlot) :
    s.rankSlots b = if (s.req j).rankKey.lt (s.req i).rankKey = true then (s.rankSlot b (j, 0)).rankSlot b (i, 1)
      else (s.rankSlot b (i, 0)).rankSlot b (j, 1) := by
  have holdsI : s.holdsSlot i = true := decide_eq_true slotI
  have holdsJ : s.holdsSlot j = true := decide_eq_true slotJ
  have both : (s.boltReqs b).filter s.holdsSlot = [i, j] := by
    rw [only, List.filter_cons_of_pos holdsI, List.filter_cons_of_pos holdsJ, List.filter_nil]
  rw [State.rankSlots_eq, both, orderBy_pair]
  split <;> rfl

end two

theorem State.rankSlots_one {s : State} {b i : Nat} (only : s.boltReqs b = [i]) (slot : (s.req i).slot ≠ noSlot) :
    s.rankSlots b = s.rankSlot b (i, 0) := by
  have holds : s.holdsSlot i = true := decide_eq_true slot
  have one : (s.boltReqs b).filter s.holdsSlot = [i] := by
    rw [only, List.filter_cons_of_pos holds, List.filter_nil]
  rw [State.rankSlots_eq, one, orderBy_single]
  rfl

theorem exec_slotRanking {s : State} {b : Nat} (known : b < Config.nBolts) (good : ∀ e ∈ s.reqs, e.2.keyOk = true) :
    exec (.slotRanking b) s = .next ((s.assignSlots b).rankSlots b) := by
  show onBolt b s (fun s => (s.checkKeys.assignSlots b).rankSlots b) = _
  rw [onBolt, onUnit_next _ _ _ (decide_eq_true known), State.checkKeys_good good]

/-- Where no request waits for a slot, none is taken. -/
theorem State.assignSlots_none {s : State} {b : Nat} (none_ : ∀ i ∈ s.boltReqs b, (s.req i).waits = false) : s.assignSlots b = s := by
  have empty : (s.boltReqs b).filter (fun i => (s.req i).waits) = [] :=
    List.filter_eq_nil_iff.2 fun i hi => by rw [none_ i hi]; decide
  rw [State.assignSlots, empty, orderBy_nil, List.foldl_nil, ite_self]

/-- Of two slot holders of a bolt that has no other request the earlier has rank 0. -/
theorem slotRanking_two {s : State} {b i j : Nat} (known : b < Config.nBolts) (good : ∀ e ∈ s.reqs, e.2.keyOk = true)
    (only : s.boltReqs b = [i, j]) (idleI : (s.req i).waits = false) (idleJ : (s.req j).waits = false)
    (slotI : (s.req i).slot ≠ noSlot) (slotJ : (s.req j).slot ≠ noSlot) (apart : (s.req i).slot ≠ (s.req j).slot) :
    let behind := (s.req j).rankKey.lt (s.req i).rankKey
    ∃ t, exec (.slotRanking b) s = .next t ∧ t = { s with bolts := t.bolts } ∧
      (t.bolt b).slotRec (s.req i).slot = { (s.bolt b).slotRec (s.req i).slot with rank := if behind then 1 else 0 } ∧
      (t.bolt b).slotRec (s.req j).slot = { (s.bolt b).slotRec (s.req j).slot with rank := if behind then 0 else 1 } ∧
      ∀ n, n ≠ (s.req i).slot → n ≠ (s.req j).slot → (t.bolt b).slotRec n = (s.bolt b).slotRec n := by
  intro behind
  have none_ : ∀ m ∈ s.boltReqs b, (s.req m).waits = false := by
    rw [only]
    intro m hm
    rcases List.mem_pair.1 hm with rfl | rfl
    · exact idleI
    · exact idleJ
  have run := exec_slotRanking known good
  rw [State.assignSlots_none none_, State.rankSlots_two only slotI slotJ] at run
  refine ⟨_, run, ?_⟩
  show _ = _ ∧ _
  by_cases order : (s.req j).rankKey.lt (s.req i).rankKey = true
  · obtain ⟨frame, first, second, others⟩ := State.rankTwo (s := s) (b := b) (i := j) (j := i) apart.symm 0 1
    simp only [behind, order, if_true]
    exact ⟨frame, second, first, fun n ni nj => others n nj ni⟩
  · simp only [behind, order, if_false, Bool.false_eq_true]
    exact State.rankTwo apart 0 1

/-! ## A request that takes its slot (R22, R294, R304) -/

/-- What a stream in slot `k` has kept of its request's entry `r`. -/
structure SeatedEntry (r x : ReqRec) (k : Nat) : Prop where
  st : x.st = rqPrefill
  slot : x.slot = k
  save : x.save = none
  kvLen : x.kvLen = r.kvLen
  log : x.log = r.log
  prompt : x.prompt = r.prompt
  bolt : x.bolt = r.bolt
  epoch : x.epoch = r.epoch

/-- From `s` to `t` request `i` of bolt `b` has taken slot `k`. -/
structure Seated (s t : State) (b i k : Nat) : Prop where
  entry : SeatedEntry (s.req i) (t.req i) k
  only : EntryOnly s t i
  holder : ((t.bolt b).slotRec k).req = some i
  progress : ((t.bolt b).slotRec k).progress = s.time
  epochOf : ∀ n, (t.bolt b).epochOf n = (s.bolt b).epochOf n

section seated

variable {s t u : State} {b i k : Nat}

theorem Seated.of_same (h : Seated s t b i k) (reqs : u.reqs = t.reqs) (bolts : u.bolts = t.bolts) : Seated s u b i k := by
  have req : u.req i = t.req i := congrArg (Tab.get ({} : ReqRec) · i) reqs
  have bolt : u.bolt b = t.bolt b := congrArg (Tab.get ({} : BoltRec) · b) bolts
  refine ⟨req ▸ h.entry, h.only.trans (.of_reqs reqs), ?_, ?_, fun n => ?_⟩
  · rw [bolt]; exact h.holder
  · rw [bolt]; exact h.progress
  · rw [bolt]; exact h.epochOf n

/-- Pages of the stream get numbers (R198). -/
theorem Seated.setPages (h : Seated s t b i k) (l : List Nat) : Seated s (t.setReq i { t.req i with pageList := l }) b i k := by
  obtain ⟨st, slot, save, kvLen, log, prompt, bolt, epoch⟩ := h.entry
  refine ⟨?_, h.only.trans (.setReq _ _ _), h.holder, h.progress, h.epochOf⟩
  rw [State.setReq_req_self]
  exact ⟨st, slot, save, kvLen, log, prompt, bolt, epoch⟩

/-- Changes of a bolt that leave its epochs and who holds the slot. -/
theorem Seated.modBolt (h : Seated s t b i k) (c : Nat) (f : BoltRec → BoltRec)
    (holder : ∀ r : BoltRec, ((f r).slotRec k).req = (r.slotRec k).req) (progress : ∀ r : BoltRec, ((f r).slotRec k).progress = (r.slotRec k).progress)
    (epochOf : ∀ (r : BoltRec) n, (f r).epochOf n = r.epochOf n) : Seated s (t.modBolt c f) b i k := by
  have only : EntryOnly s (t.modBolt c f) i := h.only.trans (.of_reqs rfl)
  by_cases own : b = c
  · subst own
    refine ⟨h.entry, only, ?_, ?_, fun n => ?_⟩
    · rw [State.modBolt_bolt_self, holder, h.holder]
    · rw [State.modBolt_bolt_self, progress, h.progress]
    · rw [State.modBolt_bolt_self, epochOf, h.epochOf]
  · refine ⟨h.entry, only, ?_, ?_, fun n => ?_⟩
    · rw [State.modBolt_bolt_ne _ _ _ _ own, h.holder]
    · rw [State.modBolt_bolt_ne _ _ _ _ own, h.progress]
    · rw [State.modBolt_bolt_ne _ _ _ _ own, h.epochOf]

theorem Seated.growPages (n f : Nat) (h : Seated s t b i k) : Seated s (State.growPages i n f t) b i k := by
  induction f generalizing t with
  | zero => exact h
  | succ f ih =>
    rw [State.growPages]
    dsimp only
    split
    · exact h
    · exact ih ((h.setPages _).modBolt _ _ (fun _ => rfl) (fun _ => rfl) fun _ _ => rfl)

theorem Seated.fitPool (h : Seated s t b i k) (c : Nat) : Seated s (t.fitPool c) b i k := by
  have pool := PoolOnly.fitPool t c
  have slots : ((t.fitPool c).bolt b).slots = (t.bolt b).slots := by rw [pool.bolt b]
  have slot : ((t.fitPool c).bolt b).slotRec k = (t.bolt b).slotRec k := by rw [BoltRec.slotRec, slots, BoltRec.slotRec]
  refine ⟨by rw [pool.req]; exact h.entry, h.only.trans (.of_reqs pool.reqs), ?_, ?_, fun n => (pool.epochOf b n).trans (h.epochOf n)⟩
  · rw [slot]; exact h.holder
  · rw [slot]; exact h.progress

/-- Changes of slots that leave who holds them, and since when. -/
theorem Seated.modSlot (h : Seated s t b i k) (c n : Nat) (f : SlotRec → SlotRec) (holder : ∀ x, (f x).req = x.req)
    (progress : ∀ x, (f x).progress = x.progress) : Seated s (t.modBolt c fun r => r.modSlot n f) b i k := by
  refine h.modBolt c _ (fun r => ?_) (fun r => ?_) fun _ _ => rfl
  · rw [BoltRec.slotRec_modSlot]
    split
    · rename_i same
      rw [holder, same]
    · rfl
  · rw [BoltRec.slotRec_modSlot]
    split
    · rename_i same
      rw [progress, same]
    · rfl

/-- A slot whose stream has units `us` to run. -/
def SlotRec.queued (x : SlotRec) (us : List PUnit) : SlotRec :=
  { x with waiting := us, tail := [], drawn := none, chunksTaken := 0, chunksOut := 0, chunksTotal := us.length }

theorem State.queueUnits_eq (s : State) (i : Nat) : s.queueUnits i = s.modBolt (s.req i).bolt fun b => b.modSlot (s.req i).slot fun x =>
    x.queued (unitsFor (s.req i).slot (s.reqEpoch (s.req i)).chunk (s.req i).kvLen (s.req i).seqLen) := rfl

/-- The units of the stream wait at the first region (R20, R25). -/
theorem Seated.queueUnits (h : Seated s t b i k) (own : (s.req i).bolt = b) : Seated s (t.queueUnits i) b i k ∧
    (((t.queueUnits i).bolt b).slotRec k).waiting =
      unitsFor k (s.reqEpoch (s.req i)).chunk (s.req i).kvLen ((s.req i).log.length + (s.req i).prompt.length) := by
  have bolt : (t.req i).bolt = b := h.entry.bolt.trans own
  have epoch : t.reqEpoch (t.req i) = s.reqEpoch (s.req i) := by
    rw [State.reqEpoch, State.reqEpoch, bolt, own, h.epochOf, h.entry.epoch]
  have length : (t.req i).seqLen = (s.req i).log.length + (s.req i).prompt.length := by
    rw [ReqRec.seqLen, h.entry.log, h.entry.prompt]
  rw [State.queueUnits_eq]
  refine ⟨h.modSlot _ _ _ (fun _ => rfl) fun _ => rfl, ?_⟩
  rw [bolt, State.modBolt_bolt_self, h.entry.slot, BoltRec.slotRec_modSlot_self, epoch, h.entry.kvLen, length]
  rfl

end seated

/-! ## The steps in which a slot is taken -/

/-- The header of a new turn is written, or due while writes are blocked (R276). -/
def State.beginTurn (s : State) (i : Nat) : State :=
  let r := s.req i
  if !r.fresh then s
  else if (s.func r.func).writable then s.toHost r.outAddr (({ turn := r.turn } : ReqRec).header false)
  else s.setReq i { r with headDue := true }

/-- The entry of a request in its slot, its first mask built (R304). -/
def ReqRec.slotted (r : ReqRec) (slot : Nat) (ends : List Nat) : ReqRec :=
  let m := if r.grammar.isEmpty then none
    else if r.fresh then some (grMask r.grammar ends (grStart r.grammar) []) else r.mask
  { (r.setKey 10 10 slot).setSt rqPrefill with
    save := none, fresh := false, mask := m
    gstate := if r.fresh then (if r.grammar.isEmpty then 0 else grStart r.grammar) else r.gstate
    gstack := if r.fresh then [] else r.gstack
    noMask := decide (r.turnTokens = 0) && decide (m = some []) }

/-- The request's entry names the slot, and the slot the request, with what the save held. -/
def State.seat (s : State) (i slot : Nat) (e : EpochRec) : State :=
  (s.setReq i ((s.req i).slotted slot e.serve.endIds)).modBolt (s.req i).bolt fun b => b.modSlot slot fun _ =>
    { req := some i, kv := (s.req i).save.getD [], progress := s.time }

/-- The request's adapter is used now. -/
def State.useAdapter (s : State) (r : ReqRec) : State :=
  match r.adapterNo with
  | some k => s.modAdapter k fun a => { a with used := s.time }
  | none => s

/-- The work lists of every region show the stream's pages (R200). -/
def State.syncAll (s : State) (e : EpochRec) (slot : Nat) (kv : Tab KvRec) : State :=
  kv.foldl (fun s k => match e.kv? k.1 with
    | some g => s.syncWork e g slot k.2.pages
    | none => s) s

/-- A stream that has lost its pages runs its log again (R224). -/
def State.countRecompute (s : State) (r : ReqRec) : State :=
  if r.kvLen = 0 ∧ r.log ≠ [] then s.modServeOf r.bolt fun v => { v with recomputes := satAdd 16 v.recomputes 1 } else s

theorem State.takeSlot_eq (s : State) (i slot : Nat) : s.takeSlot i slot =
    (((((((s.beginTurn i).seat i slot (s.reqEpoch (s.req i))).useAdapter ((s.beginTurn i).req i)).syncAll (s.reqEpoch (s.req i)) slot
      (((s.beginTurn i).req i).save.getD [])).countRecompute ((s.beginTurn i).req i)).pagesFor i
        ((s.beginTurn i).req i).seqLen).queueUnits i).fitPool ((s.beginTurn i).req i).bolt := by
  rw [State.takeSlot]
  rfl

theorem ReqRec.slotted_entry (r : ReqRec) (slot : Nat) (ends : List Nat) (number : slot < 1024) :
    SeatedEntry r (r.slotted slot ends) slot := by
  have key : (r.slotted slot ends).key = ((r.setKey 10 10 slot).setSt rqPrefill).key := rfl
  have slot_ : ((r.setKey 10 10 slot).setSt rqPrefill).slot = slot := by
    rw [ReqRec.setSt_slot]
    exact (r.setKey_kf_same 10 10 slot (by decide)).trans (Nat.mod_eq_of_lt number)
  have epoch : ((r.setKey 10 10 slot).setSt rqPrefill).epoch = r.epoch := by
    rw [ReqRec.setSt_epoch]
    exact r.setKey_kf_apart 10 10 slot 20 16 (by decide) (.inr (by decide))
  have keys := (Rekeyed.setKey r 10 10 slot (by decide) (by decide)).trans (.setSt _ rqPrefill)
  refine ⟨(ReqRec.st_of_key key).trans (ReqRec.setSt_st _ _), ?_, rfl, ?_, ?_, ?_, (ReqRec.bolt_of_key key).trans keys.bolt,
    (ReqRec.epoch_of_key key).trans epoch⟩
  · exact (ReqRec.slot_of_key key).trans slot_
  · rw [ReqRec.slotted, keys.eq]
  · rw [ReqRec.slotted, keys.eq]
  · rw [ReqRec.slotted, keys.eq]

theorem State.beginTurn_effect (s : State) (i : Nat) : ∃ due, (s.beginTurn i).req i = { s.req i with headDue := due } ∧
    EntryOnly s (s.beginTurn i) i ∧ (s.beginTurn i).bolts = s.bolts ∧ (s.beginTurn i).time = s.time := by
  rw [State.beginTurn]
  dsimp only
  split
  · exact ⟨(s.req i).headDue, rfl, .refl s i, rfl, rfl⟩
  · split
    · exact ⟨(s.req i).headDue, rfl, .of_reqs rfl, rfl, rfl⟩
    · exact ⟨true, State.setReq_req_self _ _ _, .setReq _ _ _, rfl, rfl⟩

theorem SeatedEntry.of_due {r x : ReqRec} {k : Nat} {due : Bool} (h : SeatedEntry { r with headDue := due } x k) : SeatedEntry r x k :=
  ⟨h.st, h.slot, h.save, h.kvLen, h.log, h.prompt, h.bolt, h.epoch⟩

section takes

variable {s : State} {b i k : Nat}

theorem State.seat_seated (own : (s.req i).bolt = b) (number : k < 1024) (e : EpochRec) : Seated s ((s.beginTurn i).seat i k e) b i k := by
  obtain ⟨due, entry, only, bolts, time⟩ := s.beginTurn_effect i
  generalize s.beginTurn i = t at entry only bolts time
  have bolt : t.bolt b = s.bolt b := congrArg (Tab.get ({} : BoltRec) · b) bolts
  have own' : (t.req i).bolt = b := by rw [entry]; exact own
  have slotted := (t.req i).slotted_entry k e.serve.endIds number
  rw [State.seat, own']
  refine ⟨?_, ?_, ?_, ?_, fun n => ?_⟩
  · rw [State.modBolt_unit_req, State.setReq_req_self]
    rw [entry] at slotted ⊢
    exact slotted.of_due
  · exact (only.trans (.setReq t i _)).trans (.of_reqs (State.modBolt_reqs _ _ _))
  · rw [State.modBolt_bolt_self, BoltRec.slotRec_modSlot_self]
  · rw [State.modBolt_bolt_self, BoltRec.slotRec_modSlot_self, time]
  · rw [State.modBolt_bolt_self, State.setReq_unit_bolt, bolt]
    rfl

theorem State.useAdapter_kept (s : State) (r : ReqRec) : (s.useAdapter r).reqs = s.reqs ∧ (s.useAdapter r).bolts = s.bolts := by
  rw [State.useAdapter]
  split <;> exact ⟨rfl, rfl⟩

theorem State.syncAll_cores (s : State) (e : EpochRec) (slot : Nat) (kv : Tab KvRec) :
    s.syncAll e slot kv = { s with cores := (s.syncAll e slot kv).cores } := by
  refine List.foldlRecOn (motive := fun t : State => t = { s with cores := t.cores }) _ _ rfl fun t ht x _ => ?_
  split
  · exact State.cores_trans ht (State.syncWork_cores _ _ _ _ _)
  · exact ht

theorem State.countRecompute_kept (s : State) (r : ReqRec) :
    (s.countRecompute r).reqs = s.reqs ∧ (s.countRecompute r).bolts = s.bolts := by
  rw [State.countRecompute]
  split <;> exact ⟨rfl, rfl⟩

/-- A request that takes a slot has its units at the first region. -/
theorem State.takeSlot_seated (own : (s.req i).bolt = b) (number : k < 1024) : Seated s (s.takeSlot i k) b i k ∧
    (((s.takeSlot i k).bolt b).slotRec k).waiting =
      unitsFor k (s.reqEpoch (s.req i)).chunk (s.req i).kvLen ((s.req i).log.length + (s.req i).prompt.length) := by
  rw [State.takeSlot_eq]
  have seated := State.seat_seated own number (s.reqEpoch (s.req i))
  generalize (s.beginTurn i).seat i k (s.reqEpoch (s.req i)) = t at seated
  generalize (s.beginTurn i).req i = r
  have used := seated.of_same (t.useAdapter_kept r).1 (t.useAdapter_kept r).2
  generalize t.useAdapter r = t at used
  have cores := t.syncAll_cores (s.reqEpoch (s.req i)) k (r.save.getD [])
  have synced := used.of_same (u := t.syncAll (s.reqEpoch (s.req i)) k (r.save.getD [])) (by rw [cores]) (by rw [cores])
  generalize t.syncAll (s.reqEpoch (s.req i)) k (r.save.getD []) = t at synced
  have counted := synced.of_same (t.countRecompute_kept r).1 (t.countRecompute_kept r).2
  generalize t.countRecompute r = t at counted
  obtain ⟨queued, waiting⟩ := (counted.growPages r.seqLen (ceilDiv r.seqLen 64)).queueUnits own
  have pool := PoolOnly.fitPool ((t.pagesFor i r.seqLen).queueUnits i) r.bolt
  have slots : ((((t.pagesFor i r.seqLen).queueUnits i).fitPool r.bolt).bolt b).slots =
      (((t.pagesFor i r.seqLen).queueUnits i).bolt b).slots := by rw [pool.bolt b]
  refine ⟨queued.fitPool r.bolt, ?_⟩
  rw [BoltRec.slotRec, slots]
  exact waiting

end takes

/-! ## SLOT_RANKING of one admitted request (R294) -/

/-- A list that rises strictly and holds one number alone. -/
theorem eq_singleton_of_rising {l : List Nat} {i : Nat} (rising : l.Pairwise (· < ·)) (only : ∀ j ∈ l, j = i) (mem : i ∈ l) : l = [i] := by
  match l, rising, only, mem with
  | [j], _, only, _ => rw [only j List.mem_cons_self]
  | j :: m :: r, rising, only, _ =>
    have less : j < m := (List.pairwise_cons.1 rising).1 m List.mem_cons_self
    rw [only j List.mem_cons_self, only m (List.mem_cons_of_mem _ List.mem_cons_self)] at less
    exact absurd less (Nat.lt_irrefl i)

/-- The requests of a bolt stand in the order of the table. -/
theorem State.boltReqs_rising {s : State} (rising : (s.reqs.map fun e => e.1).Pairwise (· < ·)) (b : Nat) :
    (s.boltReqs b).Pairwise (· < ·) := rising.sublist (List.Sublist.map _ List.filter_sublist)

theorem State.mem_boltReqs {s : State} {b i : Nat} (live : (s.req i).live = true) (own : (s.req i).bolt = b) : i ∈ s.boltReqs b :=
  List.mem_map.2 ⟨_, List.mem_filter.2 ⟨State.live_mem live, by rw [live, own, decide_eq_true rfl, Bool.true_and]⟩, rfl⟩

section oneWaits

variable {s : State} {b i k : Nat} (one : OneRequest s b i) (queued : (s.req i).st = rqQueued) (admitted : (s.req i).admitted = true)
  (serving : (s.bolt b).st = .serving) (ready : s.adapterReady (s.req i) = true)
  (free : s.freeSlot b (s.reqEpoch (s.req i)) = some k)
  (running : (s.reqEpoch (s.req i)).st = .current ∨ (s.reqEpoch (s.req i)).st = .draining)

include one queued admitted serving ready free running

theorem State.assignSlots_one : s.assignSlots b = s.takeSlot i k := by
  have waits : (s.req i).waits = true := by rw [ReqRec.waits, queued, admitted]; rfl
  have may : ((s.req i).waits && (decide ((s.reqEpoch (s.req i)).st = .current) || decide ((s.reqEpoch (s.req i)).st = .draining)) &&
      s.adapterReady (s.req i)) = true := by
    rw [waits, ready, Bool.true_and, Bool.and_true, Bool.or_eq_true, decide_eq_true_eq, decide_eq_true_eq]
    exact running
  have found : (s.boltReqs b).filter (fun i => (s.req i).waits) = [i] := by
    rw [one.only, List.filter_cons_of_pos (p := fun i => (s.req i).waits) waits, List.filter_nil]
  rw [State.assignSlots, if_neg (not_not_intro serving), found, orderBy_single, List.foldl_cons, List.foldl_nil, State.useReq,
    if_pos (oneRequest_key one)]
  simp only [may, if_true, free]

/-- The request takes the free slot, with rank 0 and its units at the first region. -/
theorem slotRanking_one (rising : (s.reqs.map fun e => e.1).Pairwise (· < ·)) (number : k < noSlot) :
    ∃ t, exec (.slotRanking b) s = .next t ∧ (t.req i).st = rqPrefill ∧ (t.req i).slot = k ∧ (t.req i).save = none ∧
      ((t.bolt b).slotRec k).req = some i ∧ ((t.bolt b).slotRec k).rank = 0 ∧ ((t.bolt b).slotRec k).progress = s.time ∧
      ((t.bolt b).slotRec k).waiting =
        unitsFor k (s.reqEpoch (s.req i)).chunk (s.req i).kvLen ((s.req i).log.length + (s.req i).prompt.length) := by
  have run := exec_slotRanking one.bolt one.keys
  rw [State.assignSlots_one one queued admitted serving ready free running] at run
  obtain ⟨seated, waiting⟩ := State.takeSlot_seated (s := s) one.own (Nat.lt_trans number (by decide))
  generalize s.takeSlot i k = t at run seated waiting
  have live : (t.req i).live = true := by rw [ReqRec.live, seated.entry.st]; rfl
  have only : t.boltReqs b = [i] := eq_singleton_of_rising (State.boltReqs_rising (seated.only.rising rising) b)
    (seated.only.boltReqs one.only) (State.mem_boltReqs live (seated.entry.bolt.trans one.own))
  have slot : (t.req i).slot = k := seated.entry.slot
  rw [State.rankSlots_one only (by rw [slot]; exact Nat.ne_of_lt number)] at run
  have kept : (t.rankSlot b (i, 0)).req i = t.req i := by rw [State.rankSlot, State.modBolt_unit_req]
  obtain ⟨holder, rank, progress, units⟩ := State.rankSlot_own (b := b) slot 0
  rw [← kept] at slot
  have st := seated.entry.st
  have save := seated.entry.save
  rw [← kept] at st save
  exact ⟨_, run, st, slot, save, holder.trans seated.holder, rank, progress.trans seated.progress, units.trans waiting⟩

end oneWaits

end Sys2Proof.Machine
end

section
namespace Sys2Proof.Machine

open Sys2Proof

/-! PROOFS. PARK_COMPLETE of a request whose pages fit creel (R296). -/

/-! ## Every page after one has changed (R199) -/

section pages

variable {s : State} {i region j : Nat}

theorem State.modPage_none (f : KvPage → KvPage) (missing : pageAt s i region j = none) : s.modPage i region j f = s := by
  have page : (Tab.get {} (s.reqKv (s.req i)) region).pages[j]? = none := missing
  simp only [State.modPage, page]

/-- A change of a page is a change of the request's pages at that place, and of cores. -/
theorem State.modPage_some {p : KvPage} (f : KvPage → KvPage) (page : pageAt s i region j = some p) :
    s.modPage i region j f = { s.setReqKv i (Tab.put {} (s.reqKv (s.req i)) region { Tab.get {} (s.reqKv (s.req i)) region with
      pages := (Tab.get {} (s.reqKv (s.req i)) region).pages.set j (f p).sealed }) with cores := (s.modPage i region j f).cores } := by
  have found : (Tab.get {} (s.reqKv (s.req i)) region).pages[j]? = some p := page
  simp only [State.modPage, found]
  split
  · split
    · exact State.syncPage_cores _ _ _ _
    · exact State.cores_trans (State.syncPage_cores _ _ _ _) (State.syncWork_cores _ _ _ _ _)
  · rfl

/-- A change of one page shows there alone. -/
theorem State.pageAt_modPage_all (f : KvPage → KvPage) (region' j' : Nat) : pageAt (s.modPage i region j f) i region' j' =
    if region' = region ∧ j' = j then (pageAt s i region j).map fun p => (f p).sealed else pageAt s i region' j' := by
  cases page : pageAt s i region j with
  | none =>
    rw [State.modPage_none f page]
    split
    · rename_i same
      rw [same.1, same.2, page, Option.map_none]
    · rfl
  | some p =>
    have inside : j < (Tab.get {} (s.reqKv (s.req i)) region).pages.length := (List.getElem?_eq_some_iff.1 page).1
    rw [State.modPage_some f page, pageAt_of_cores (s := s.setReqKv i _) rfl, pageAt_setReqKv]
    by_cases same : region' = region
    · subst same
      rw [Tab.get_put_self]
      by_cases here : j' = j
      · subst here
        rw [if_pos ⟨rfl, rfl⟩, Option.map_some]
        exact List.getElem?_set_self inside
      · rw [if_neg fun h => here h.2]
        exact List.getElem?_set_ne (Ne.symm here)
    · rw [if_neg fun h => same h.1, Tab.get_put_ne _ _ _ _ _ same]
      rfl

end pages

/-! ## Every page of a request parked (R296) -/

/-- A page once parked: a frame is given up for a copy in creel. -/
def KvPage.parked (p : KvPage) : KvPage := if p.onWafer then { p with home := .creel } else p

/-- Where a page is once parked. -/
def parkedHome (h : Home) : Home := if h = .frame ∨ h = .both then .creel else h

theorem KvPage.parked_home (p : KvPage) : p.parked.sealed.home = parkedHome p.home := by
  rw [KvPage.parked, KvPage.onWafer]
  cases home : p.home <;> simp [parkedHome, KvPage.sealed, home]

theorem parkedHome_parkedHome (h : Home) : parkedHome (parkedHome h) = parkedHome h := by
  cases h <;> rfl

/-- Where page `j` of a request in a region is. -/
def homeAt (s : State) (i region j : Nat) : Option Home := (pageAt s i region j).map fun p => p.home

/-- One page of a request parked. -/
def State.parkPage (s : State) (i : Nat) (x : Nat × Nat) : State := s.modPage i x.1 x.2 KvPage.parked

/-- The places of the pages that a request has. -/
def pagePlaces (kv : Tab KvRec) : List (Nat × Nat) := kv.flatMap fun k => (List.range k.2.pages.length).map fun j => (k.1, j)

theorem State.parkPages_eq (s : State) (i : Nat) :
    s.parkPages i = (pagePlaces (s.reqKv (s.req i))).foldl (fun s x => s.parkPage i x) s := by
  rw [pagePlaces, List.foldl_flatMap]
  simp only [List.foldl_map]
  rfl

/-- Every page that a request has stands at one of these places. -/
theorem mem_pagePlaces {s : State} {i region j : Nat} {p : KvPage} (page : pageAt s i region j = some p) :
    (region, j) ∈ pagePlaces (s.reqKv (s.req i)) := by
  have inside : j < (Tab.get {} (s.reqKv (s.req i)) region).pages.length := (List.getElem?_eq_some_iff.1 page).1
  rcases Tab.get_eq_or_mem {} (s.reqKv (s.req i)) region with none_ | entry
  · rw [none_] at inside
    exact absurd inside (Nat.not_lt_zero j)
  · exact List.mem_flatMap.2 ⟨_, entry, List.mem_map.2 ⟨j, List.mem_range.2 inside, rfl⟩⟩

theorem homeAt_parkPage (s : State) (i region j : Nat) (x : Nat × Nat) : homeAt (s.parkPage i x) i region j =
    if (region, j) = x then (homeAt s i region j).map parkedHome else homeAt s i region j := by
  rw [homeAt, State.parkPage, State.pageAt_modPage_all]
  by_cases same : (region, j) = x
  · subst same
    rw [if_pos ⟨rfl, rfl⟩, if_pos rfl, homeAt, Option.map_map, Option.map_map]
    exact congrArg (fun f => Option.map f (pageAt s i region j)) (funext KvPage.parked_home)
  · rw [if_neg fun h => same (Prod.ext h.1 h.2), if_neg same, homeAt]

/-- Pages parked, some of them more than once. -/
theorem homeAt_foldl_parkPage (i region j : Nat) (l : List (Nat × Nat)) (s : State) :
    homeAt (l.foldl (fun s x => s.parkPage i x) s) i region j =
      if (region, j) ∈ l then (homeAt s i region j).map parkedHome else homeAt s i region j := by
  induction l generalizing s with
  | nil => rfl
  | cons x l ih =>
    rw [List.foldl_cons, ih, homeAt_parkPage]
    have twice : ((homeAt s i region j).map parkedHome).map parkedHome = (homeAt s i region j).map parkedHome := by
      rw [Option.map_map]
      exact congrArg (fun f => Option.map f (homeAt s i region j)) (funext parkedHome_parkedHome)
    by_cases here : (region, j) = x
    · have mem : (region, j) ∈ x :: l := by rw [here]; exact List.mem_cons_self
      rw [if_pos here, if_pos mem, twice, ite_self]
    · simp only [here, if_false, List.mem_cons, false_or]

/-- Once its pages are parked no page of the request is in a frame. -/
theorem homeAt_parkPages (s : State) (i region j : Nat) : homeAt (s.parkPages i) i region j = (homeAt s i region j).map parkedHome := by
  rw [State.parkPages_eq, homeAt_foldl_parkPage]
  cases page : pageAt s i region j with
  | none => rw [homeAt, page, Option.map_none, Option.map_none, ite_self]
  | some p => rw [if_pos (mem_pagePlaces page)]

/-! ## What else parking touches -/

/-- From `s` to `t` pages of request `i` alone have changed, and cores. -/
structure PagesMoved (s t : State) (i : Nat) : Prop where
  entry : t.req i = { s.req i with save := (t.req i).save }
  others : ∀ j, j ≠ i → t.req j = s.req j
  frame : t = { s with reqs := t.reqs, bolts := t.bolts, cores := t.cores }

theorem PagesMoved.refl (s : State) (i : Nat) : PagesMoved s s i := ⟨rfl, fun _ _ => rfl, rfl⟩

theorem PagesMoved.trans {s t u : State} {i : Nat} (h : PagesMoved s t i) (h' : PagesMoved t u i) : PagesMoved s u i :=
  ⟨by rw [h'.entry, h.entry], fun j hj => (h'.others j hj).trans (h.others j hj), by rw [h'.frame, h.frame]⟩

theorem PagesMoved.setReqKv (s : State) (i : Nat) (kv : Tab KvRec) : PagesMoved s (s.setReqKv i kv) i := by
  refine ⟨(PagesOnly.setReqKv s i kv).req i, fun j hj => ?_, ?_⟩
  · rw [State.setReqKv]
    split
    · exact State.setReq_req_ne _ _ _ _ hj
    · rfl
  · rw [State.setReqKv]
    split <;> rfl

theorem PagesMoved.of_cores {s t : State} (i : Nat) (h : t = { s with cores := t.cores }) : PagesMoved s t i := by
  have req (j : Nat) : t.req j = s.req j := by rw [h]; rfl
  exact ⟨by rw [req], fun j _ => req j, by rw [h]⟩

theorem PagesMoved.parkPage (s : State) (i : Nat) (x : Nat × Nat) : PagesMoved s (s.parkPage i x) i := by
  rw [State.parkPage]
  cases page : pageAt s i x.1 x.2 with
  | none =>
    rw [State.modPage_none _ page]
    exact .refl s i
  | some p =>
    obtain ⟨kv, -, cores⟩ := State.modPage_eq KvPage.parked page
    exact (PagesMoved.setReqKv s i kv).trans (.of_cores i cores)

theorem PagesMoved.parkPages (s : State) (i : Nat) : PagesMoved s (s.parkPages i) i := by
  rw [State.parkPages_eq]
  exact List.foldlRecOn (motive := fun t => PagesMoved s t i) _ _ (.refl s i) fun t ht x _ => ht.trans (.parkPage t i x)

/-! ## PARK_COMPLETE -/

/-- The entry of a request whose parking copy is complete. -/
def ReqRec.parkDone (r : ReqRec) : ReqRec := { r with parking := false }

theorem ReqRec.parkDone_fields (r : ReqRec) : r.parkDone.st = r.st ∧ r.parkDone.slot = r.slot ∧ r.parkDone.bolt = r.bolt ∧
    r.parkDone.save = r.save ∧ r.parkDone.parking = false :=
  have key : r.parkDone.key = r.key := rfl
  ⟨ReqRec.st_of_key key, ReqRec.slot_of_key key, ReqRec.bolt_of_key key, rfl, rfl⟩

theorem State.misses_nil {s : State} (quiet : ∀ c ch, ((s.core c).chan ch).state ≠ .miss) (i : Nat) : s.misses i = [] := by
  have none_ (c : Nat) : ([12, 13, 14, 15].filter fun ch => decide (((s.core c).chan ch).state = .miss)) = [] :=
    List.filter_eq_nil_iff.2 fun ch _ => by rw [decide_eq_false (quiet c ch)]; decide
  rw [State.misses, List.flatMap_eq_nil_iff]
  intro k _
  split
  · rw [List.flatMap_eq_nil_iff]
    intro c _
    rw [none_, List.map_nil]
  · rfl

/-- A change that fits creel takes place at once. -/
theorem State.withRoom_fits {s : State} {b need : Nat} {f : State → State} (fits : (f s).poolFits b = true) (n : Nat) :
    State.withRoom b need f (n + 1) s = ((f s).fitPool b, true) := by
  simp only [State.withRoom, fits, if_true]

/-- Requests, bolts, creel and cores alone change. -/
def ParkFrame (s t : State) : Prop := t = { s with reqs := t.reqs, bolts := t.bolts, creel := t.creel, cores := t.cores }

theorem ParkFrame.trans {s t u : State} (h : ParkFrame s t) (h' : ParkFrame t u) : ParkFrame s u := by
  rw [ParkFrame] at h h' ⊢
  rw [h', h]

theorem ParkFrame.modReq (s : State) (i : Nat) (f : ReqRec → ReqRec) : ParkFrame s (s.modReq i f) := rfl

theorem PoolOnly.parkFrame {s t : State} (h : PoolOnly s t) : ParkFrame s t := by
  rw [ParkFrame, h.frame]

theorem PagesMoved.parkFrame {s t : State} {i : Nat} (h : PagesMoved s t i) : ParkFrame s t := by
  rw [ParkFrame, h.frame]

section parks

variable {s : State} {i : Nat} (known : i < Config.nRequests) (key : (s.req i).keyOk = true)

include known key

theorem exec_parkComplete_idle (done : (s.req i).parking = false) : exec (.parkComplete i) s = .next s := by
  have run : exec (.parkComplete i) s = execParkComplete i s := rfl
  have idle : ¬ ((s.req i).st = rqParked ∧ (s.req i).parking = true) := fun h => by
    rw [done] at h
    cases h.2
  rw [run, execParkComplete, onReq, onUnit_next _ _ _ (decide_eq_true known), State.useReq, if_pos key, if_neg idle]

variable (parked : (s.req i).st = rqParked) (parking : (s.req i).parking = true)
  (quiet : ∀ c ch, ((s.core c).chan ch).state ≠ .miss) (fits : (s.parkPages i).poolFits (s.req i).bolt = true)

include parked parking quiet fits

theorem exec_parkComplete : exec (.parkComplete i) s =
    .next (((s.parkPages i).fitPool (s.req i).bolt).modReq i ReqRec.parkDone) := by
  have run : exec (.parkComplete i) s = execParkComplete i s := rfl
  obtain ⟨n, fuel⟩ : ∃ n, s.reclaimFuel (s.req i).bolt = n + 1 :=
    Nat.exists_eq_succ_of_ne_zero (by rw [State.reclaimFuel]; omega)
  rw [run, execParkComplete, onReq, onUnit_next _ _ _ (decide_eq_true known), State.useReq, if_pos key, if_pos ⟨parked, parking⟩,
    if_neg (not_not_intro (State.misses_nil quiet i)), fuel, State.withRoom_fits (f := fun s => s.parkPages i) fits]
  rfl

/-- The parking copy is complete. -/
theorem parkComplete_effect : ∃ t, exec (.parkComplete i) s = .next t ∧ (t.req i).st = rqParked ∧ (t.req i).parking = false ∧
    (∀ j, j ≠ i → t.req j = s.req j) ∧ (∀ region j, homeAt t i region j = (homeAt s i region j).map parkedHome) ∧
    t = { s with reqs := t.reqs, bolts := t.bolts, creel := t.creel, cores := t.cores } := by
  refine ⟨_, exec_parkComplete known key parked parking quiet fits, ?_⟩
  have moved := PagesMoved.parkPages s i
  have homes := homeAt_parkPages s i
  generalize s.parkPages i = u at moved homes
  have pool := PoolOnly.fitPool u (s.req i).bolt
  generalize u.fitPool (s.req i).bolt = v at pool
  have entry : v.req i = { s.req i with save := (u.req i).save } := (pool.req i).trans moved.entry
  have key : (v.req i).key = (s.req i).key := by rw [entry]
  have slots (b : Nat) : (v.bolt b).slots = (u.bolt b).slots := by rw [pool.bolt b]
  obtain ⟨st, slot, bolt, save, done⟩ := (v.req i).parkDone_fields
  have kv : (v.modReq i ReqRec.parkDone).reqKv ((v.modReq i ReqRec.parkDone).req i) = u.reqKv (u.req i) := by
    rw [State.modReq_req_self, ← pool.req, State.reqKv, State.reqKv, slot, save, bolt, State.modReq_unit_bolt, slots]
  refine ⟨?_, ?_, fun j hj => ?_, fun region j => ?_, ?_⟩
  · rw [State.modReq_req_self, st, ReqRec.st_of_key key, parked]
  · rw [State.modReq_req_self, done]
  · rw [State.modReq_req_ne _ _ _ _ hj, pool.req, moved.others j hj]
  · rw [← homes, homeAt, homeAt, pageAt, pageAt, kv]
  · exact (moved.parkFrame.trans pool.parkFrame).trans (.modReq v i _)

end parks

end Sys2Proof.Machine
end

section
namespace Sys2Proof.Machine

open Sys2Proof

/-! PROOFS. Serving (O58): the commands of R223, R269, R277, R287, R289, R290, R293, R294, R296, R297 and R357 put together. -/

/-! ## INPUTS_READ (R269) -/

section inputs

variable {s : State} {i : Nat} {k : Intake} {prompt sampling grammar : List Byte} (known : i < Config.nRequests)
  (key : (s.req i).keyOk = true) (intake : (s.req i).intake = some k) (unread : k.read = false)
  (length : prompt.length = k.inLen) (sample : sampling.length = if k.sampleAddr = 0 then 0 else 256)
  (tables : grammar.length = if k.grammarAddr = 0 then 0 else k.grammarLen)

include known key intake unread length sample tables

theorem exec_inputsRead : exec (.inputsRead i prompt sampling grammar) s =
    .next ((readIntake (((s.bolt (s.req i).bolt).epochOf k.epoch).getD {}) (s.req i) k prompt sampling grammar).elim
      (s.dropIntake i ssInvalid) fun k => s.setReq i { s.req i with intake := some k }) := by
  have run : exec (.inputsRead i prompt sampling grammar) s = execInputsRead i prompt sampling grammar s := rfl
  rw [run, execInputsRead, onReq, onUnit_next _ _ _ (decide_eq_true known), State.useReq, if_pos key]
  simp only [intake]
  refine congrArg Host.Outcome.next ((if_pos ⟨unread, length, sample, tables⟩).trans ?_)
  cases readIntake (((s.bolt (s.req i).bolt).epochOf k.epoch).getD {}) (s.req i) k prompt sampling grammar <;> rfl

/-- Inputs in range stand with the request; others end the descriptor INVALID. -/
theorem inputsRead_effect :
    let r := s.req i
    let e := ((s.bolt r.bolt).epochOf k.epoch).getD {}
    let l := givenTokens e k prompt
    (InputsOk e r k l sampling grammar → exec (.inputsRead i prompt sampling grammar) s = .next (s.setReq i { r with
      intake := some { k with read := true, prompt := l, sampling := sampling, grammar := grammar } })) ∧
    (¬ InputsOk e r k l sampling grammar → CanTell s k.fin.q → ∃ t, exec (.inputsRead i prompt sampling grammar) s = .next t ∧
      t.req i = (if r.st = rqFree then { ({} : ReqRec) with gen := r.gen } else { r with intake := none }) ∧
      (∀ j, j ≠ i → t.req j = s.req j) ∧ Told s t k.fin 7 [] ∧
      t = { s with reqs := t.reqs, qps := t.qps, hostMem := t.hostMem }) := by
  intro r e l
  have run := exec_inputsRead known key intake unread length sample tables
  refine ⟨fun ok => ?_, fun bad tell => ?_⟩
  · rw [run, readIntake_of_ok ok]
    rfl
  · rw [readIntake_of_not_ok bad] at run
    obtain ⟨entry, only, told, frame⟩ := State.dropIntake_effect intake tell ssInvalid
    exact ⟨_, run, entry, only.others, told, frame⟩

end inputs

/-! ## TURN_WRITTEN (R223, R277, R287, R297) -/

/-- The times of a pause: from now, for as long as its time to live, or without end for an auto-paused request. -/
theorem pausedEntry_times (s : State) (r : ReqRec) (st ttl pages : Nat) : let p := pausedEntry s r.turnDone st ttl pages
    p.pausedAt = s.time ∧ p.expiry = if r.auto then 0
      else s.time + 1000000 * (if ttl ≠ 0 then ttl else if r.ttl ≠ 0 then r.ttl else (s.serveOf r.bolt).ttlDefault) := by
  intro p
  have key : r.turnDone.key = r.key := rfl
  have ttl_ : r.turnDone.ttl = r.ttl := rfl
  refine ⟨rfl, ?_⟩
  simp only [p, pausedEntry, ReqRec.auto_of_key key, ReqRec.bolt_of_key key, ttl_]

section written

variable {s : State} {i : Nat} (known : i < Config.nRequests) (key : (s.req i).keyOk = true) (drains : (s.req i).st = rqDraining)
  (loose : (s.req i).slot = noSlot) (writable : (s.func (s.req i).func).writable = true)
  (delivered : (s.req i).undelivered = []) (tell : CanTell s (s.req i).qp)

include known key drains loose writable delivered tell

/-- A drained turn is written with its header and its final; its pause says what becomes of the entry. -/
theorem turnWritten_effect :
    let r := s.req i
    let ms := if r.pauseTtl ≠ 0 then r.pauseTtl else if r.ttl ≠ 0 then r.ttl else (s.serveOf r.bolt).ttlDefault
    ∃ t, exec (.turnWritten i) s = .next t ∧ Wrote (s.headed i) t r.qp (turnFinal r i) ∧ (∀ j, j ≠ i → t.req j = s.req j) ∧
      (r.pausePark = 0 → t.req i = { ({} : ReqRec) with gen := r.gen }) ∧
      (r.pausePark = 1 ∨ r.pausePark = 2 → (t.req i).st = (if r.pausePark = 2 then rqParked else rqHeld) ∧
        (t.req i).openTurn = false ∧ (t.req i).pausedAt = s.time ∧ (t.req i).log = r.log ∧ (t.req i).save = r.save ∧
        (t.req i).expiry = if r.auto then 0 else s.time + 1000000 * ms) ∧
      (r.pausePark = 3 → (t.req i).st = rqAbsent ∧ (t.req i).openTurn = false ∧ (t.req i).reservedPages = 0 ∧
        (t.req i).expiry = 0 ∧ (t.req i).log = r.log) := by
  intro r ms
  by_cases ends : r.pausePark = 0
  · obtain ⟨wrote, only, freed⟩ := turnWritten_ends_effect key drains writable delivered tell loose ends
    exact ⟨_, exec_turnWritten known, wrote, only.others, fun _ => freed, by omega, by omega⟩
  by_cases drop : r.pausePark = 3
  · obtain ⟨wrote, only, entry⟩ := turnWritten_drops_effect key drains writable delivered tell drop
    obtain ⟨st, -, -, closed, log, reserved, expiry⟩ := r.turnDone.dropped_fields s.time
    rw [← entry] at st closed log reserved expiry
    exact ⟨_, exec_turnWritten known, wrote, only.others, by omega, by omega, fun _ => ⟨st, closed, reserved, expiry, log⟩⟩
  · obtain ⟨wrote, only, pages, entry⟩ := turnWritten_pauses_effect key drains writable delivered tell ends drop
    obtain ⟨st, -, -, closed, log, save⟩ :=
      pausedEntry_fields s r.turnDone (if r.pausePark = 2 then rqParked else rqHeld) r.pauseTtl pages
    obtain ⟨since, expiry⟩ := pausedEntry_times s r (if r.pausePark = 2 then rqParked else rqHeld) r.pauseTtl pages
    rw [← entry] at st closed log save since expiry
    have state : (if r.pausePark = 2 then rqParked else rqHeld) % 16 = if r.pausePark = 2 then rqParked else rqHeld := by
      split <;> rfl
    exact ⟨_, exec_turnWritten known, wrote, only.others, (absurd · ends),
      fun _ => ⟨st.trans state, closed, since, log, save, expiry⟩, (absurd · drop)⟩

end written

/-! ## Every command of serving -/

theorem mem_of_filter_single {α : Type} {p : α → Bool} {l : List α} {a : α} (h : l.filter p = [a]) : a ∈ l :=
  (List.mem_filter.1 (h ▸ List.mem_singleton_self a)).1

/-- Settles O58: each command run on its case of the state, by the lemma on what it does there. -/
theorem servingEffects : Obligations.ServingEffects := by
  unfold Obligations.ServingEffects
  refine ⟨?inputs, fun s b known power => exec_admissionDecision_powerFail known power, ?new, ?again, ?slot, ?ranks, ?ttl, ?turn, ?park⟩
  case inputs =>
    intro s i k prompt sampling grammar known key intake unread length sample tables
    exact inputsRead_effect known key intake unread length sample tables
  case new =>
    intro s b i k e one power free intake read bind adapter vocab tell r c gen ok notice
    refine ⟨fun opens => ?_, fun fails noDefer => ?_⟩
    · obtain ⟨turn, only, wrote, serve⟩ := admission_opens one free intake read bind adapter vocab tell ok rfl opens
      exact ⟨_, exec_admissionDecision one.bolt power, turn.st, turn.admitted, turn.gen, turn.intake, turn.func, turn.prompt, turn.tag,
        turn.maxTokens, turn.outAddr, only.others, wrote, serve⟩
    · exact ⟨_, exec_admissionDecision one.bolt power,
        admission_rejects one free intake read bind adapter vocab tell fails noDefer⟩
  case again =>
    intro s b i one power loose noIntake r
    refine ⟨fun auto paused bound open_ memory time => ?_, fun queued deferred deadline reached tell _ => ?_⟩
    · obtain ⟨x, pages, log, entry, only, serve⟩ := admission_resumes one noIntake auto paused bound open_ memory time
      obtain ⟨st, auto', admitted, expiry, log', -⟩ := x.readmitted_fields pages
      rw [← entry] at st auto' admitted expiry log'
      exact ⟨_, exec_admissionDecision one.bolt power, st, auto', admitted, expiry, log'.trans log, only.others, serve⟩
    · exact ⟨_, exec_admissionDecision one.bolt power, admission_expires one loose noIntake queued deferred deadline reached tell⟩
  case slot =>
    intro s b i k one rising queued admitted serving ready number free running
    exact slotRanking_one one queued admitted serving ready free running rising number
  case ranks =>
    intro s b i j known good only idleI idleJ slotI slotJ apart
    exact slotRanking_two known good only idleI idleJ slotI slotJ apart
  case ttl =>
    intro s good
    refine ⟨fun none_ => ?_, fun i found loose tell => ?_⟩
    · rw [exec_ttlCheck good, List.filter_eq_nil_iff.2 fun e he => by rw [none_ e he]; decide]
      rfl
    · have run := exec_ttlCheck good
      rw [found] at run
      obtain ⟨entry, only, wrote, serve⟩ := State.expire_effect (good _ (mem_of_filter_single found)) loose tell
      exact ⟨_, run, entry, only.others, wrote, serve⟩
  case turn =>
    intro s i known key drains loose r ms s1
    refine ⟨fun blocked => ?_, fun writable delivered tell => ?_⟩
    · rw [exec_turnWritten known, State.turnWritten_blocked key blocked]
    · exact turnWritten_effect known key drains loose writable delivered tell
  case park =>
    intro s i known key parked loose r
    refine ⟨fun done => exec_parkComplete_idle known key done, fun parking quiet fits => ?_⟩
    obtain ⟨t, run, st, done, others, homes, frame⟩ := parkComplete_effect known key parked parking quiet fits
    refine ⟨t, run, st, done, others, fun region j => (homes region j).trans ?_, frame⟩
    rw [homeAt, Option.map_map]
    rfl

end Sys2Proof.Machine
end
